-- ==== Sys2Proof/Word.lean ====
section
/-! DEFINITION. The words of the RG-832: bytes, the 16-, 32- and 64-bit fields of its descriptors, records and
registers (R3, R4), and the index types that Table 00-5 fixes by count. -/

namespace Sys2Proof

/-- One byte of a descriptor, a record or a memory. -/
abbrev Byte := BitVec 8

/-- A 16-bit field. -/
abbrev W16 := BitVec 16

/-- A 32-bit field. -/
abbrev W32 := BitVec 32

/-- A 64-bit field or register. -/
abbrev W64 := BitVec 64

/-- A furrow F0–F7 of the module (R10). -/
abbrev FurrowIx := Fin 8

/-- A context handle 0–63 of a furrow (Table 00-5). -/
abbrev Handle := Fin 64

/-- A request tag (Table 02-15). -/
abbrev Tag := BitVec 32

/-- A fabric port P0–P9 of a furrow (Table 00-5). -/
abbrev PortIx := Fin 10

/-- A core of a furrow, numbered 8 × c + k for core Kk of cluster Cc (Table 01-5). -/
abbrev CoreIx := Fin 64

/-- A cluster C0–C7 of a furrow (Table 00-5). -/
abbrev ClusterIx := Fin 8

/-- A search slot of a furrow (R152). -/
abbrev SlotIx := Fin 8

/-- An embedding-table slot of a furrow (R293). -/
abbrev TableIx := Fin 16

/-- A fabric identifier: 8 × module + furrow (R367). -/
abbrev FabricId := BitVec 16

end Sys2Proof
end

