-- ==== Sys2Proof/Syntax.lean ====
section
/-! DEFINITION. The commands of the RG-832: ONE constructor of Instr per row of spec/opcode_table.json, with the
operands the row needs. A command names the furrow it concerns, and what the outside world supplies with it: the value a
host writes, the packet a port delivers, the reading a sensor gives, the moment a time limit passes. The rows that stand
for a descriptor opcode name the request (context handle and tag) whose running descriptor the engine carries out. -/

namespace Sys2Proof

/-- A physical function of the endpoint (R28, Table 02-2): PF0 manages the module, PF1–PF8 are the furrows. -/
inductive Function
  | pf0
  | furrow (f : FurrowIx)
  deriving DecidableEq, Repr

/-- A region of a function that the host accesses: its base address regions (Table 02-2), and the PASID capability of its configuration
space, by the offset in the capability (R29, R33). -/
inductive Bar
  | bar0
  | bar2
  | bar4
  | pasid
  deriving DecidableEq, Repr

/-- One host access: the region, the byte offset in it, and how many bytes (R35, R46). -/
structure HostAccess where
  bar  : Bar
  off  : BitVec 24
  size : Nat
  deriving DecidableEq, Repr

/-- Where engine work runs and what chooses a context for itself (R17, R78): a core, or the text engine of a cluster. -/
inductive Place
  | core (k : CoreIx)
  | text (c : ClusterIx)
  deriving DecidableEq, Repr

/-- The seven engine classes, in the order of CTX_NS_* (Table 03-2). -/
inductive EngClass
  | matrix
  | vector
  | hamming
  | walk
  | winnow
  | text
  | move
  deriving DecidableEq, Repr

/-- Why a context is torn down (Table 03-13), less PLAN_INVALID and REGION_VIOLATION's own finding, which the meanings
raise themselves. -/
inductive FaultCause
  | hostTranslation
  | hostAbort
  | regionViolation
  | completionWrite
  | planInvalid
  | spanRootLost
  deriving DecidableEq, Repr

/-- A packet of the fabric (Table 16-4) with its payload; LEN is the payload's length. -/
structure Packet where
  kind    : Byte
  vc      : BitVec 2
  cls     : BitVec 1
  dest    : FabricId
  src     : FabricId
  span    : W32
  tag     : W32
  addr    : W64
  aux     : W32
  hops    : Byte
  payload : List Byte
  deriving DecidableEq, Repr

/-- How a slot read decodes (Table 19-1, R344): on the hard first pass, after soft passes, or not at all. -/
inductive ReadQuality
  | first
  | soft (passes : Fin 4)
  | fails
  deriving DecidableEq, Repr

/-- A block of the NAND: channel, die and block number (Table 15-2). -/
structure NandBlock where
  ch    : Fin 2
  die   : Fin 32
  block : BitVec 14
  deriving DecidableEq, Repr

/-- Where a decoder met an error (Tables 19-1 and 19-2). -/
inductive ErrorPlace
  /-- Core scratch: the core, the byte offset of the 64-bit word, and the bit position. -/
  | scratch (k : CoreIx) (off : BitVec 21) (bit : Byte)
  /-- Cluster SRAM: cluster, unit, byte offset of the word in the unit, and the bit position. -/
  | unit (c : ClusterIx) (u : Fin 16) (off : BitVec 20) (bit : Byte)
  /-- HBM: byte offset, symbols in error, whether on-die ECC reported it, and whether the re-read decoded (RETRIED). -/
  | hbm (off : BitVec 38) (symbols : Byte) (onDie : Bool) (retried : Bool)
  /-- A NAND slot: its PSA and the soft passes used. -/
  | nand (psa : BitVec 40) (passes : Byte)
  /-- An internal datapath, by path code. -/
  | path (code : Byte)
  deriving DecidableEq, Repr

/-- The request that a read was for. -/
structure Owner where
  h   : Handle
  tag : Tag
  deriving DecidableEq, Repr

/-- What the patrol scrubber finds in a block or word (R422). -/
inductive ScrubResult
  | clean
  | corrected
  | uncorrectable
  deriving DecidableEq, Repr

/-- The failures of the handling path (R428), in the order of its cause codes 0x01 to 0x05. -/
inductive LossCause
  | memory
  | handling
  | watchdog
  | clock
  | link
  deriving DecidableEq, Repr

/-- A self-test slice by its target (Table 19-6). -/
inductive BistTarget
  | core (k : CoreIx) (slice : Fin 4)
  | text (c : ClusterIx)
  | unit (c : ClusterIx) (u : Fin 16)
  deriving DecidableEq, Repr

/-- How a slice of self-test ends (R431, R433): its signature is the ROM's, or differs, or its conditions left their range. -/
inductive BistOutcome
  | same
  | differs
  | abandoned
  deriving DecidableEq, Repr

/-- What one PMBus regulator answers (R443). -/
structure PmbReading where
  voutMv : W16
  ioutDa : W16
  temp   : Byte
  status : W16
  deriving DecidableEq, Repr

/-- A sideband data line that can be held low (Table 20-7). -/
inductive BusLine
  | pmbus (k : Fin 4)
  | i3c (f : FurrowIx)
  deriving DecidableEq, Repr

/-- An output that can be shorted (Table 20-7, R457). -/
inductive SidebandPin
  | attn
  | thermtrip
  | vrEn (f : FurrowIx)
  | hdlVrEn
  deriving DecidableEq, Repr

/-- A furrow's power averaged over 1 ms, its hottest junction, and its hottest stack with that stack's number (R456, R458). -/
structure ThermalReading where
  powerW : W16
  tj     : Byte
  hbm    : Byte
  stack  : Fin 4
  deriving DecidableEq, Repr

/-- The path an SPDM message took (R399). -/
inductive SpdmChannel
  | pcie
  | i3c
  deriving DecidableEq, Repr

/-- The commands: one constructor per row of the table. -/
inductive Instr
  /-- REGISTER_WRITE (R6). A host write to a register field that has no behaviour of its own sets, ignores or clears the field according to its access code. -/
  | registerWrite (fn : Function) (a : HostAccess) (v : W64)
  /-- FUR_NS_LOW_READ (R16). A 32-bit read of the low half of FUR_NS, or of another 64-bit counter that follows R16, latches the high half for the next high-half read. The table's one row for a read: it stands for every host read (log 72). -/
  | furNsLowRead (fn : Function) (a : HostAccess)
  /-- LOST_FURROW_ACCESS (R14). The headland answers a host access to the function of a LOST furrow from its shadow copy, returns all ones, or discards the write. -/
  | lostFurrowAccess (f : FurrowIx) (a : HostAccess) (v : Option W64)
  /-- RING_ENABLE (R42). Writing RING_CTRL.ENABLE = 1 moves the ring group from DISABLED to ACTIVE and zeroes its counts. -/
  | ringEnable (f : FurrowIx) (h : Handle)
  /-- RING_DRAIN (R44). Writing RING_CTRL.ENABLE = 0 while ACTIVE moves the rings to DRAINING and stops further fetching. -/
  | ringDrain (f : FurrowIx) (h : Handle)
  /-- RING_DRAIN_DONE (R44). Once the last final record of a draining ring group has posted, the rings become DISABLED. -/
  | ringDrainDone (f : FurrowIx) (h : Handle)
  /-- DB_SQ_TAIL (R48). A doorbell write of a new submission tail is accepted or ignored against the ring size. -/
  | dbSqTail (f : FurrowIx) (h : Handle) (t : W32)
  /-- DB_CQ_HEAD (R48). A doorbell write of a new completion head releases consumed records when the value is acceptable. -/
  | dbCqHead (f : FurrowIx) (h : Handle) (c : W32)
  /-- DB_CANCEL (R51). A cancel doorbell write cancels fetched requests with a matching tag and keeps the cancel for requests not yet fetched. -/
  | dbCancel (f : FurrowIx) (h : Handle) (tag : Tag)
  /-- DESCRIPTOR_FETCH (R50). The furrow reads announced descriptors from the submission ring in bursts of up to 64, whenever the limits on outstanding requests and held records allow. -/
  | descriptorFetch (f : FurrowIx) (h : Handle)
  /-- DESCRIPTOR_START (R476). A queued descriptor is dispatched to an engine once its predecessors, fences and scheduling allow, after its start-time checks. -/
  | descriptorStart (f : FurrowIx) (h : Handle) (tag : Tag) (place : Place)
  /-- DESCRIPTOR_COMPLETE (R53). An engine finishes a descriptor, and the request either starts its next linked descriptor or registers its end. -/
  | descriptorComplete (f : FurrowIx) (h : Handle) (tag : Tag)
  /-- RECORD_POST (R58). A completion record is written to the completion ring, or to the holding queue when the ring is full. -/
  | recordPost (f : FurrowIx) (h : Handle) (tag : Tag)
  /-- MSIX_FIRE (R64). The interrupt gap or batch condition is met, and the ring's MSI-X vector fires or sets its pending bit. -/
  | msixFire (fn : Function) (n : Fin 65)
  /-- BUDGET_EXPIRY (R86). A request whose first descriptor has not started when TTFR_BUDGET expires leaves the queue and ends DEFERRED. -/
  | budgetExpiry (f : FurrowIx) (h : Handle) (tag : Tag)
  /-- QUANTUM_BOUNDARY (R78). FUR_NS passes a multiple of 50,000, and every core and text engine chooses its context by virtual time. -/
  | quantumBoundary (f : FurrowIx)
  /-- CORE_IDLE_SCHEDULE (R78). A core that falls idle chooses a new context from its ready set. -/
  | coreIdleSchedule (f : FurrowIx) (u : Place)
  /-- ENGINE_PREEMPT (R80). An engine reaches its class's pre-emption boundary, saves its state in the old context's units, and the core is cleared for the new context. -/
  | enginePreempt (f : FurrowIx) (u : Place)
  /-- CANCEL_ABORT_DONE (R88). Every engine and member working for a cancelled request has aborted, and CANCELLED is posted. -/
  | cancelAbortDone (f : FurrowIx) (h : Handle) (tag : Tag)
  /-- CONTEXT_FAULT (R91). A fault cause arises for a context, which is torn down in order and left FAULTED. -/
  | contextFault (f : FurrowIx) (h : Handle) (cause : FaultCause) (addr : W64)
  /-- CTX_RECOVER0 (R73). Writing CTX_CTRL.RECOVER0 while handle 0 is FAULTED returns it to READY with its rings disabled. -/
  | ctxRecover0 (f : FurrowIx)
  /-- NOP (R65). A no-operation descriptor completes DONE once it has been fetched and checked. -/
  | nop (f : FurrowIx) (h : Handle) (tag : Tag)
  /-- FENCE (R66). A fence completes once every earlier request has posted its final record, after writing its optional signal value. -/
  | fence (f : FurrowIx) (h : Handle) (tag : Tag)
  /-- BARRIER (R66). A fence that in addition waits for HBM and fabric visibility and Granary durability of the earlier requests. -/
  | barrier (f : FurrowIx) (h : Handle) (tag : Tag)
  /-- CTX_CREATE (R74). Creates a context with its shares, PASID, regions and cluster SRAM units. -/
  | ctxCreate (f : FurrowIx) (h : Handle) (tag : Tag)
  /-- CTX_SET_SHARES (R75). Records a context's new share count, which takes effect at the next quantum boundary. -/
  | ctxSetShares (f : FurrowIx) (h : Handle) (tag : Tag)
  /-- CTX_BIND_SPAN (R373). Binds a context to a span as root or member, with the root binding joining every member. -/
  | ctxBindSpan (f : FurrowIx) (h : Handle) (tag : Tag)
  /-- CTX_PAIR_FALLBACK (R75). Pairs or unpairs a primary generator plan with a fallback plan. -/
  | ctxPairFallback (f : FurrowIx) (h : Handle) (tag : Tag)
  /-- CTX_RECOVER (R77). Returns a FAULTED context to READY, keeping its regions, shares, pairings and counters. -/
  | ctxRecover (f : FurrowIx) (h : Handle) (tag : Tag)
  /-- CTX_DESTROY (R76). Cancels the context's requests, drains its rings, zeroes its memory and returns its resources to handle 0. -/
  | ctxDestroy (f : FurrowIx) (h : Handle) (tag : Tag)
  /-- MATMUL (R127). Computes one matrix product on the matrix tiles. -/
  | matmul (f : FurrowIx) (h : Handle) (tag : Tag)
  /-- MATMUL_BATCH (R127). Computes a batch of matrix products of the same shape. -/
  | matmulBatch (f : FurrowIx) (h : Handle) (tag : Tag)
  /-- VEC_MAP (R130). Applies an elementwise vector operation or special function. -/
  | vecMap (f : FurrowIx) (h : Handle) (tag : Tag)
  /-- VEC_NORM (R123). Applies RMS or layer normalisation to each row. -/
  | vecNorm (f : FurrowIx) (h : Handle) (tag : Tag)
  /-- VEC_SOFTMAX (R122). Applies softmax to each row, with an optional mask and causal offset. -/
  | vecSoftmax (f : FurrowIx) (h : Handle) (tag : Tag)
  /-- VEC_CONVERT (R104). Converts a tensor between number formats. -/
  | vecConvert (f : FurrowIx) (h : Handle) (tag : Tag)
  /-- SIGN_PROJECT (R131). Sign-projects embedding rows to binary codes. -/
  | signProject (f : FurrowIx) (h : Handle) (tag : Tag)
  /-- VEC_REDUCE (R121). Reduces each row to one FP32 value. -/
  | vecReduce (f : FurrowIx) (h : Handle) (tag : Tag)
  /-- SEARCH (R158). Walks one or more shards, scans the side list, filters, selects and writes the shard lists. -/
  | search (f : FurrowIx) (h : Handle) (tag : Tag)
  /-- HAMMING_SCAN (R177). Computes the Hamming distance of a query code to each of N codes. -/
  | hammingScan (f : FurrowIx) (h : Handle) (tag : Tag)
  /-- INSERT (R181). Appends passages to a shard's side list and commits them under a new epoch. -/
  | insert (f : FurrowIx) (h : Handle) (tag : Tag)
  /-- DELETE (R181). Logs deletes of passages, sets their tombstone bits and commits under a new epoch. -/
  | delete (f : FurrowIx) (h : Handle) (tag : Tag)
  /-- REPLACE (R181). Inserts a passage and deletes its old one under one switch record and one epoch. -/
  | replace (f : FurrowIx) (h : Handle) (tag : Tag)
  /-- MERGE (R185). Folds side-list entries into the graph, settles old deletes, switches the shard and reclaims deleted nodes. -/
  | merge (f : FurrowIx) (h : Handle) (tag : Tag)
  /-- MERGE_WAKE (R184). A MERGE waiting under WAIT_DUE starts its work when MERGE_DUE becomes set. -/
  | mergeWake (f : FurrowIx) (h : Handle) (tag : Tag)
  /-- SHARD_RESTORE (R190). Restores an idle slot's registers and tombstone bits from its switch record and delete log. -/
  | shardRestore (f : FurrowIx) (h : Handle) (tag : Tag)
  /-- SLOT_ENABLE (R153). Writing SRCH_SLOT_CFG.ENABLE = 1 in IDLE checks the slot and brings it into service. -/
  | slotEnable (f : FurrowIx) (t : SlotIx)
  /-- SLOT_DRAIN (R155). Writing SRCH_SLOT_CFG.ENABLE = 0 while SERVING moves the slot to DRAINING. -/
  | slotDrain (f : FurrowIx) (t : SlotIx)
  /-- SLOT_DRAIN_DONE (R155). When the last search or update of a draining slot has ended, the slot becomes IDLE. -/
  | slotDrainDone (f : FurrowIx) (t : SlotIx)
  /-- WNW_SELECT (R201). Selects the best K values of each row under the selection contract. -/
  | wnwSelect (f : FurrowIx) (h : Handle) (tag : Tag)
  /-- WNW_MERGE (R206). Merges partial lists, removes duplicate passages and selects the best K. -/
  | wnwMerge (f : FurrowIx) (h : Handle) (tag : Tag)
  /-- CAND_FETCH (R222). Fetches candidate vectors and texts from their holders and writes candidate records with dot products. -/
  | candFetch (f : FurrowIx) (h : Handle) (tag : Tag)
  /-- RR_FUSE (R227). Copies cross-encoder scores into the candidate records, fuses the three scores and writes fused lists. -/
  | rrFuse (f : FurrowIx) (h : Handle) (tag : Tag)
  /-- PACK (R231). Builds the prompt and its citation table from the template in fused order within the budget. -/
  | pack (f : FurrowIx) (h : Handle) (tag : Tag)
  /-- TXT_LOAD (R241). Checks a tokenizer image and binds it to a handle. -/
  | txtLoad (f : FurrowIx) (h : Handle) (tag : Tag)
  /-- TXT_UNLOAD (R258). Frees a tokenizer handle once no started request uses it. -/
  | txtUnload (f : FurrowIx) (h : Handle) (tag : Tag)
  /-- TOKENIZE (R245). Turns UTF-8 text into token identifiers, optionally through a stream. -/
  | tokenize (f : FurrowIx) (h : Handle) (tag : Tag)
  /-- DETOKENIZE (R250). Turns token identifiers back into UTF-8 text, optionally through a stream. -/
  | detokenize (f : FurrowIx) (h : Handle) (tag : Tag)
  /-- GRAM_INIT (R258). Sets a grammar instance to its start state with an empty stack. -/
  | gramInit (f : FurrowIx) (h : Handle) (tag : Tag)
  /-- GRAM_MASK (R257). Writes the mask of the instance's state and of the states its drafts would reach. -/
  | gramMask (f : FurrowIx) (h : Handle) (tag : Tag)
  /-- GRAM_ADVANCE (R256). Applies tokens to a grammar instance and commits those allowed at its switch. -/
  | gramAdvance (f : FurrowIx) (h : Handle) (tag : Tag)
  /-- GEN_PLAN_LOAD (R265). Checks a generator plan image and binds it to a plan handle on every member. -/
  | genPlanLoad (f : FurrowIx) (h : Handle) (tag : Tag)
  /-- GEN_PLAN_UNLOAD (R285). Frees a plan handle once no started request uses it. -/
  | genPlanUnload (f : FurrowIx) (h : Handle) (tag : Tag)
  /-- GEN_CACHE_INIT (R285). Writes a LIVE KV cache header, optionally copying committed entries from another cache. -/
  | genCacheInit (f : FurrowIx) (h : Handle) (tag : Tag)
  /-- GENERATE (R270). Prefills a prompt into a KV cache and then decodes tokens step by step. -/
  | generate (f : FurrowIx) (h : Handle) (tag : Tag)
  /-- GEN_STEP_START (R270). The root composes a step's rows from the plan's started requests and runs the step program on every member. -/
  | genStepStart (f : FurrowIx) (h : Handle) (plan : W32)
  /-- GEN_STEP_COMMIT (R276). After the step program ends, the root samples, verifies drafts and commits grammar, cache headers, tokens and the progress record. -/
  | genStepCommit (f : FurrowIx) (h : Handle) (plan : W32)
  /-- GEN_PAUSE (R282). Copies a KV cache to an image in the Granary or remote HBM and empties the live cache. -/
  | genPause (f : FurrowIx) (h : Handle) (tag : Tag)
  /-- GEN_RESUME (R283). Checks a paused image against its expiry and restarts, and copies it back into a LIVE cache. -/
  | genResume (f : FurrowIx) (h : Handle) (tag : Tag)
  /-- GEN_DISCARD (R285). Discards a paused image and clears its pause-table entry. -/
  | genDiscard (f : FurrowIx) (h : Handle) (tag : Tag)
  /-- PAUSE_SWEEP (R284). Once a second, the furrow discards expired images in its pause table and marks their entries DISCARDED. -/
  | pauseSweep (f : FurrowIx)
  /-- TBL_GATHER (R298). Gathers coalesced, dequantised table rows under a route snapshot. -/
  | tblGather (f : FurrowIx) (h : Handle) (tag : Tag)
  /-- TBL_SCATTER_ADD (R300). Combines deltas per distinct row and applies each row with one requantised write. -/
  | tblScatterAdd (f : FurrowIx) (h : Handle) (tag : Tag)
  /-- TBL_SWITCH (R296). Makes a new table version current once the previous old version has drained. -/
  | tblSwitch (f : FurrowIx) (h : Handle) (tag : Tag)
  /-- TBL_MIGRATE (R302). Migrates one table row to a guest slot on a target shard. -/
  | tblMigrate (f : FurrowIx) (h : Handle) (tag : Tag)
  /-- TBL_LOAD_WINDOW (R301). At each 10 ms window boundary, the row-read counts are published and the root may start an automatic migration. -/
  | tblLoadWindow (f : FurrowIx)
  /-- TBL_MIGRATION_SWITCH (R302). Once routed updates have unlocked and the replay is done, the route entry switches the row to its new location. -/
  | tblMigrationSwitch (f : FurrowIx) (t : TableIx)
  /-- TBL_VERSION_RECLAIM (R296). When TBL_OLD.REFS reaches zero, DRAINING clears and the old version's area is released. -/
  | tblVersionReclaim (f : FurrowIx) (t : TableIx)
  /-- TBL_ENABLE (R295). Writing TBL_CFG.ENABLE = 1 in IDLE checks the table slot and rebuilds its guest occupancy. -/
  | tblEnable (f : FurrowIx) (t : TableIx)
  /-- TBL_DRAIN (R295). Writing TBL_CFG.ENABLE = 0 drains the table slot as a search slot is drained. -/
  | tblDrain (f : FurrowIx) (t : TableIx)
  /-- MOVE (R315). Copies bytes between tiers or members, optionally measured. -/
  | move (f : FurrowIx) (h : Handle) (tag : Tag)
  /-- MOVE_LIST (R317). Runs a list of moves concurrently. -/
  | moveList (f : FurrowIx) (h : Handle) (tag : Tag)
  /-- TIER_ATTACH (R321). Reads an object record and enters the object in the attach table. -/
  | tierAttach (f : FurrowIx) (h : Handle) (tag : Tag)
  /-- TIER_FETCH (R323). Copies segments of a tiered object from its home to its copy. -/
  | tierFetch (f : FurrowIx) (h : Handle) (tag : Tag)
  /-- TIER_WRITEBACK (R324). Writes the dirty segments of a tiered object back to its home and clears their bits. -/
  | tierWriteback (f : FurrowIx) (h : Handle) (tag : Tag)
  /-- TIER_DETACH (R325). Removes an object from the attach table, optionally after a write-back. -/
  | tierDetach (f : FurrowIx) (h : Handle) (tag : Tag)
  /-- GRN_DISCARD (R342). Discards a range of a context's Granary blocks. -/
  | grnDiscard (f : FurrowIx) (h : Handle) (tag : Tag)
  /-- GRN_FORMAT (R358). Erases the NAND and writes an empty block table, checkpoint and root record. -/
  | grnFormat (f : FurrowIx) (h : Handle) (tag : Tag)
  /-- GRN_RECLAIM (R358). Runs foreground reclamation on the chosen channels until the target or the limit is reached. -/
  | grnReclaim (f : FurrowIx) (h : Handle) (tag : Tag)
  /-- GRN_MOUNT (R351). Writing GRN_CFG.ENABLE = 1 while OFFLINE mounts the Granary. -/
  | grnMount (f : FurrowIx)
  /-- GRN_MOUNT_DONE (R351). The mount ends by rebuilding the map from the checkpoint and journal, or fails with an error. -/
  | grnMountDone (f : FurrowIx) (readable : Bool)
  /-- GRANARY_RESERVE_GRANT (R345). A waiting Granary write is granted its slot reservation once reclamation frees space. -/
  | granaryReserveGrant (f : FurrowIx) (h : Handle) (tag : Tag)
  /-- GRANARY_RESERVE_TIMEOUT (R318). A Granary write whose reservation is not granted within its budget ends THROTTLED_GC. -/
  | granaryReserveTimeout (f : FurrowIx) (h : Handle) (tag : Tag)
  /-- STRIPE_CLOSE_TIMEOUT (R337). A stripe whose oldest slot has waited 100 µs is padded and its parity page is programmed. -/
  | stripeCloseTimeout (f : FurrowIx) (n : Fin 2)
  /-- NAND_PROGRAM_DONE (R337). A stripe program completes, and the slots it makes durable advance their writes to their map steps. -/
  | nandProgramDone (f : FurrowIx) (n : Fin 2) (ok : Bool)
  /-- JOURNAL_DURABLE (R340). Journal records become durable, completing the writes and discards that waited on them. -/
  | journalDurable (f : FurrowIx)
  /-- NAND_READ_DONE (R344). A slot read completes, and the data is delivered or rebuilt from its stripe. -/
  | nandReadDone (f : FurrowIx) (q : ReadQuality)
  /-- GC_BACKGROUND_START (R346). Background reclamation starts on an idle channel that is below BG_FREE free superblocks. -/
  | gcBackgroundStart (f : FurrowIx) (n : Fin 2)
  /-- GC_FOREGROUND_START (R346). Foreground reclamation starts on a channel that is below FG_FREE free superblocks. -/
  | gcForegroundStart (f : FurrowIx) (n : Fin 2)
  /-- GC_ERASE (R347). Once the move records are durable and no read holds the victim, the victim superblock is erased and freed. -/
  | gcErase (f : FurrowIx) (n : Fin 2)
  /-- CHECKPOINT_START (R350). After 16,777,216 records, a new checkpoint of the map and block table begins. -/
  | checkpointStart (f : FurrowIx)
  /-- CHECKPOINT_DONE (R350). A durable checkpoint is committed by a root record, and the old checkpoint and journal slots are freed. -/
  | checkpointDone (f : FurrowIx)
  /-- ZQ_CALIBRATE (R332). Short ZQ calibration of the NAND channels runs every 100 ms. -/
  | zqCalibrate (f : FurrowIx)
  /-- GRANARY_PATROL (R348). Every closed superblock is read once in 7 days, and slots that needed soft decoding are moved. -/
  | granaryPatrol (f : FurrowIx) (n : Fin 2) (sb : W16) (soft : Option (BitVec 40))
  /-- BLOCK_RETIRE (R353). A failed program or erase, or the rated endurance, retires a NAND block. -/
  | blockRetire (f : FurrowIx) (b : NandBlock)
  /-- DIE_LOST (R354). A die that misses Read Status for 10 ms, or retires 16 blocks in 24 h, is lost and rebuilt from its stripes. -/
  | dieLost (f : FurrowIx) (n : Fin 2) (die : Byte)
  /-- NAND_OVERCURRENT (R459). A NAND channel drawing over 300 mA for 10 µs is switched off and isolated. -/
  | nandOvercurrent (f : FurrowIx) (n : Fin 2)
  /-- ALL_REDUCE (R379). Reduces a buffer over every span member, leaving the same result on each. -/
  | allReduce (f : FurrowIx) (h : Handle) (tag : Tag)
  /-- ALL_GATHER (R380). Gathers each member's buffer to every member. -/
  | allGather (f : FurrowIx) (h : Handle) (tag : Tag)
  /-- SPAN_SET_MEMBER (R378). Re-forms a span by joining a new furrow in place of a member entry. -/
  | spanSetMember (f : FurrowIx) (h : Handle) (tag : Tag)
  /-- PYR_ENABLE (R385). Writing PYR_CFG.ENABLE lets the furrow's ports train. -/
  | pyrEnable (f : FurrowIx) (on : Bool)
  /-- PORT_ENABLE (R385). Writing PYR_PORT_CFG.ENABLE starts or stops training of one port. -/
  | portEnable (f : FurrowIx) (p : PortIx) (on : Bool)
  /-- PORT_TRAINED (R369). A port completes training and enters UP or DEGRADED, or stays DOWN on an identifier clash. -/
  | portTrained (f : FurrowIx) (p : PortIx) (peer : FabricId) (peerPort : PortIx) (low : Bool) (high : Bool)
  /-- PORT_LOSS_OF_LIGHT (R369). A port loses light or laser input and enters DARK. -/
  | portLossOfLight (f : FurrowIx) (p : PortIx) (laser : Bool)
  /-- PORT_DEGRADE (R369). A port with one bad half of its lanes falls back to DEGRADED on the good half. -/
  | portDegrade (f : FurrowIx) (p : PortIx) (low : Bool) (high : Bool)
  /-- PORT_FLIT_TIMEOUT (R369). A port that receives no flit with a passing CHECK for 10 µs enters DARK. -/
  | portFlitTimeout (f : FurrowIx) (p : PortIx)
  /-- PORT_RETRAIN (R369). After 100 ms of steady light with AUTO_UP set, a dark port retrains. -/
  | portRetrain (f : FurrowIx) (p : PortIx)
  /-- PORT_STALL (R368). A virtual channel that receives no credit for STALL_MS sets STALLED and writes an error record. -/
  | portStall (f : FurrowIx) (p : PortIx) (vc : Fin 4)
  /-- FLIT_RECEIVE (R363). A data flit is accepted in order, or answered with a NAK. -/
  | flitReceive (f : FurrowIx) (p : PortIx) (flit : List Byte)
  /-- FLIT_NAK (R363). A received NAK makes the transmitter replay data flits from ACK + 1. -/
  | flitNak (f : FurrowIx) (p : PortIx) (ack : W16)
  /-- READ_REQ (R372). A remote read request is served from the bound context's HBM region. -/
  | readReq (f : FurrowIx) (p : Packet)
  /-- READ_RESP (R365). Remote read data arrives for an outstanding transaction. -/
  | readResp (f : FurrowIx) (p : Packet)
  /-- WRITE (R372). A remote write is applied to the bound context's HBM region and later acknowledged. -/
  | write (f : FurrowIx) (p : Packet)
  /-- WRITE_ACK (R315). The acknowledgement that a remote write is visible arrives at its source. -/
  | writeAck (f : FurrowIx) (p : Packet)
  /-- COLL (R381). A collective contribution arrives and is placed by its member and position. -/
  | coll (f : FurrowIx) (p : Packet)
  /-- SPAN_DESC (R376). A member receives a span descriptor to check and acknowledge, or to start on GO. -/
  | spanDesc (f : FurrowIx) (p : Packet)
  /-- SPAN_ACK (R376). The root receives a member's check result and sends GO once all have acknowledged. -/
  | spanAck (f : FurrowIx) (p : Packet)
  /-- SPAN_DONE (R376). The root receives a member's final status and posts the request's record once all have reported. -/
  | spanDone (f : FurrowIx) (p : Packet)
  /-- SPAN_CANCEL (R376). A member receives a cancel for a span request and aborts its part. -/
  | spanCancel (f : FurrowIx) (p : Packet)
  /-- SPAN_BEAT (R377). A member receives a root's beat and echoes it, or the root receives the echo. -/
  | spanBeat (f : FurrowIx) (p : Packet)
  /-- SPAN_BEAT_SEND (R377). Every BEAT_MS the root sends a beat to each direct member. -/
  | spanBeatSend (f : FurrowIx) (h : Handle)
  /-- SPAN_BEAT_TIMEOUT (R377). A member missing beats, or a root missing echoes, for LOST_BEATS intervals treats the other side as lost. -/
  | spanBeatTimeout (f : FurrowIx) (h : Handle) (m : W32)
  /-- LINK_FENCE (R370). A peer's fence arrives, and packets after the fenced sequence are re-sent through the routing table. -/
  | linkFence (f : FurrowIx) (p : Packet)
  /-- FENCE_TIMEOUT (R370). No fence arrives within FENCE_US, so the held packets are discarded with NO_ROUTE to their sources. -/
  | fenceTimeout (f : FurrowIx) (p : PortIx)
  /-- NO_ROUTE (R371). A NO_ROUTE arrives, and the request that owns the transaction ends FURROW_LOST. -/
  | noRoute (f : FurrowIx) (p : Packet)
  /-- TRANSACTION_TIMEOUT (R371). A transaction unanswered for 16 × FENCE_US treats its destination as unreachable. -/
  | transactionTimeout (f : FurrowIx) (tag : W32)
  /-- SPAN_JOIN (R375). A member receives a join for a root binding, checks it and returns its fabric identifiers. -/
  | spanJoin (f : FurrowIx) (p : Packet)
  /-- SPAN_END (R377). A member receives the end of its span and tears down its member context. -/
  | spanEnd (f : FurrowIx) (p : Packet)
  /-- SPAN_JOIN_TIMEOUT (R375). An entry that does not answer a join within 10 ms makes the root binding complete SPAN_INVALID. -/
  | spanJoinTimeout (f : FurrowIx) (h : Handle) (tag : Tag)
  /-- FW_STAGE (R391). SEC_FW_CMD STAGE reads, checks and writes a firmware image to the inactive slot. -/
  | fwStage (f : FurrowIx) (v : W64) (hostFails storeFails : Bool)
  /-- COMMIT_SVN (R392). SEC_FW_CMD COMMIT_SVN raises the fused security version to that of the running image. -/
  | commitSvn (f : FurrowIx) (v : W64)
  /-- DIGEST_DONE (R394). A digest engine finishes reading a measured object and marks its log entry LOADED. -/
  | digestDone (f : FurrowIx) (seq : W64)
  /-- GET_VERSION (R398). The SPDM responder returns its supported versions. -/
  | getVersion (f : FurrowIx) (c : SpdmChannel) (msg : List Byte)
  /-- GET_CAPABILITIES (R398). The SPDM responder returns its capabilities. -/
  | getCapabilities (f : FurrowIx) (c : SpdmChannel) (msg : List Byte)
  /-- NEGOTIATE_ALGORITHMS (R398). The SPDM responder negotiates Ed25519 and SHA-512. -/
  | negotiateAlgorithms (f : FurrowIx) (c : SpdmChannel) (msg : List Byte)
  /-- GET_DIGESTS (R398). The SPDM responder returns the digest of its certificate slot. -/
  | getDigests (f : FurrowIx) (c : SpdmChannel) (msg : List Byte)
  /-- GET_CERTIFICATE (R398). The SPDM responder returns its certificate chain. -/
  | getCertificate (f : FurrowIx) (c : SpdmChannel) (msg : List Byte)
  /-- CHALLENGE (R398). The SPDM responder signs a challenge with its alias key. -/
  | challenge (f : FurrowIx) (c : SpdmChannel) (msg : List Byte)
  /-- GET_MEASUREMENTS (R396). The root of trust registers a report snapshot with the requester's nonce and signs the measurement blocks. -/
  | getMeasurements (f : FurrowIx) (c : SpdmChannel) (msg : List Byte)
  /-- CHUNK_SEND (R398). The SPDM responder accepts one chunk of a large request. -/
  | chunkSend (f : FurrowIx) (c : SpdmChannel) (msg : List Byte)
  /-- CHUNK_GET (R398). The SPDM responder returns the next chunk of a large response. -/
  | chunkGet (f : FurrowIx) (c : SpdmChannel) (msg : List Byte)
  /-- RESPOND_IF_READY (R398). The SPDM responder returns a deferred response once it is ready. -/
  | respondIfReady (f : FurrowIx) (c : SpdmChannel) (msg : List Byte)
  /-- MCTP_SET_EID (R399). The bus owner assigns an MCTP endpoint identifier, which SEC_MCTP reports. -/
  | mctpSetEid (f : FurrowIx) (eid : Byte)
  /-- DBG_CHALLENGE (R401). The TAP shifts out a fresh debug challenge. -/
  | dbgChallenge (f : FurrowIx)
  /-- DBG_GRANT (R402). A valid signed grant unlocks debug and zeroises the furrow; a failed grant adds to UNLOCK_FAILS. -/
  | dbgGrant (f : FurrowIx) (grant : List Byte)
  /-- DBG_CHALLENGE_EXPIRY (R401). A debug challenge expires after 600 s of FUR_NS. -/
  | dbgChallengeExpiry (f : FurrowIx)
  /-- EXTEST (R400). The boundary-scan EXTEST instruction takes effect in reset and sets SCRUB_PENDING. -/
  | extest (f : FurrowIx)
  /-- EXTEST_PULSE (R400). The IEEE 1149.6 EXTEST_PULSE instruction takes effect in reset and sets SCRUB_PENDING. -/
  | extestPulse (f : FurrowIx)
  /-- EXTEST_TRAIN (R400). The IEEE 1149.6 EXTEST_TRAIN instruction takes effect in reset and sets SCRUB_PENDING. -/
  | extestTrain (f : FurrowIx)
  /-- TALLY_READ (R418). TLY_CMD READ appends a READ event and writes entries to host memory. -/
  | tallyRead (f : FurrowIx) (v : W64) (fails : Bool)
  /-- TALLY_ACK (R419). TLY_CMD ACK acknowledges entries through a sequence number and frees them. -/
  | tallyAck (f : FurrowIx) (v : W64)
  /-- TALLY_CERT (R418). TLY_CMD CERT writes the Tally certificate to host memory. -/
  | tallyCert (f : FurrowIx) (v : W64) (fails : Bool)
  /-- TALLY_STAGE (R409). TLY_CMD STAGE accepts a new Tally image only when updates are allowed and its version is higher, and logs the attempt. -/
  | tallyStage (f : FurrowIx) (v : W64) (fails : Bool)
  /-- CONFIG_WRITE (R410). A write to any other Tally register changes nothing and is logged as a CONFIG_WRITE event. -/
  | configWrite (f : FurrowIx) (a : HostAccess) (v : W64)
  /-- TALLY_CLOCK_CHECK (R412). Every 32,768 crystal cycles the Tally compares FUR_NS and enters or leaves CLOCK_FAULT. -/
  | tallyClockCheck (f : FurrowIx) (deltaNs : W64)
  /-- TALLY_PERIOD_CLOSE (R415). At each PERIOD_S of calendar time, each context's open record closes and a new one opens. -/
  | tallyPeriodClose (f : FurrowIx)
  /-- TALLY_INTERIM_WRITE (R416). Every second the Tally writes each open record's counts to its interim area. -/
  | tallyInterimWrite (f : FurrowIx)
  /-- CAL_SET (R455). Writing CAL_SET while the calendar is invalid loads the stamp and sets VALID. -/
  | calSet (f : FurrowIx) (v : W64)
  /-- CAL_SLEW_WRITE (R455). Writing CAL_SLEW sets the rate at which the calendar runs fast or slow against its crystal. -/
  | calSlewWrite (f : FurrowIx) (v : W16)
  /-- XTAL_FAIL (R454). A crystal that gives no edge for 1 ms sets XTAL_FAIL and invalidates the calendar. -/
  | xtalFail (f : FurrowIx)
  /-- VBAT_SAMPLE (R459). Every second VBAT is sampled, and VBAT_BAD is set when it is missing or low. -/
  | vbatSample (f : FurrowIx) (mv : W16)
  /-- ER_RING_ENABLE (R425). Writing REL_ER_CFG.ENABLE = 1 activates the error ring and resumes posting queued records. -/
  | erRingEnable (f : FurrowIx) (v : W64)
  /-- ER_HEAD_WRITE (R425). Writing REL_ER_PTRS.HEAD releases error records, or sets BAD_HEAD for an unacceptable value. -/
  | erHeadWrite (f : FurrowIx) (v : W32)
  /-- ERROR_RECORD_POST (R426). A queued error record is written to the error ring when the ring is enabled and has room. -/
  | errorRecordPost (f : FurrowIx)
  /-- ER_WRITE_FAIL (R472). A failed error-record write stops the error ring, clears ENABLE and sets WRITE_FAIL. -/
  | erWriteFail (f : FurrowIx)
  /-- CORRECTED_ERROR (R421). A decoder corrects a word, and the event is counted and reported at a limited rate. -/
  | correctedError (f : FurrowIx) (s : ErrorPlace)
  /-- UNCORRECTABLE_DATA (R423). A read meets uncorrectable data, and the request that needed it is contained and ends DATA_ERROR. -/
  | uncorrectableData (f : FurrowIx) (s : ErrorPlace) (who : Option Owner)
  /-- HOST_POISON (R424). A poisoned PCIe completion ends the data read as uncorrectable, or tears down the context on a descriptor fetch. -/
  | hostPoison (f : FurrowIx) (h : Handle) (tag : Option Tag) (addr : W64)
  /-- PATROL_SCRUB (R422). The patrol scrubber reads a block or word, rewriting corrected data and reporting uncorrectable blocks. -/
  | patrolScrub (f : FurrowIx) (s : ErrorPlace) (r : ScrubResult)
  /-- HANDLING_PATH_FAIL (R428). A failure of the error-handling path takes the furrow offline. -/
  | handlingPathFail (f : FurrowIx) (cause : LossCause)
  /-- HEADLAND_LINK_TIMEOUT (R14). A furrow that fails to answer on the internal link for 1 ms is marked LOST by the headland. -/
  | headlandLinkTimeout (f : FurrowIx)
  /-- HEADLAND_FAILURE (R13). The headland fails, the host port is lost, and the furrows continue their fabric spans. -/
  | headlandFailure
  /-- BIST_SLICE_START (R431). A self-test slice starts at a quantum boundary when its conditions hold, or is deferred. -/
  | bistSliceStart (f : FurrowIx) (b : BistTarget) (locked : Bool) (tj : Byte)
  /-- BIST_SLICE_END (R433). A slice's signature is compared, withholding or retiring the target on a mismatch. -/
  | bistSliceEnd (f : FurrowIx) (b : BistTarget) (o : BistOutcome)
  /-- BIST_LATE (R431). A target that has not completed its slices within 48 h sets COVERAGE_LATE and writes a record. -/
  | bistLate (f : FurrowIx) (b : BistTarget)
  /-- MARGIN_REPLAN (R435). Every 24 h the furrow raises the core voltage offset or steps down cluster clocks for low slack. -/
  | marginReplan (f : FurrowIx) (slack ro : List W16)
  /-- AVS_FRAME_FAIL (R441). An AVSBus frame that fails three times sets AVS_FAULT and holds the last confirmed voltage. -/
  | avsFrameFail (f : FurrowIx)
  /-- AVS_POLL (R441). Every 10 ms after an AVSBus fault, the furrow polls the link until it answers. -/
  | avsPoll (f : FurrowIx) (answers : Bool)
  /-- CORE_RAIL_SAMPLE (R442). Every 100 µs the furrow reads its core voltage and current. -/
  | coreRailSample (f : FurrowIx) (mv da : W16)
  /-- RAIL_FAULT (R442). A core voltage outside ±3 % of its request for 1 ms writes RAIL_FAULT and throttles at level 15. -/
  | railFault (f : FurrowIx)
  /-- RAIL_OUT_OF_LIMITS (R442). A core voltage outside 0.62–0.92 V for 100 µs takes the furrow offline. -/
  | railOutOfLimits (f : FurrowIx)
  /-- PMBUS_POLL (R443). Every 10 ms the headland reads its non-core regulators over PMBus. -/
  | pmbusPoll (k : Fin 4) (a : Option PmbReading)
  /-- PMBUS_STALE (R443). A regulator that has not answered for 35 ms is marked STALE. -/
  | pmbusStale (k : Fin 4)
  /-- PMB_ALERT (R469). A falling PMB_ALERT_N raises one interrupt and starts status polling. -/
  | pmbAlert
  /-- BUS_HELD_LOW (R459). A PMBus or I3C data line held low for 35 ms is cleared or released. -/
  | busHeldLow (b : BusLine) (clock : Bool)
  /-- SIDEBAND_SHORT (R459). A shorted ATTN_N, THERMTRIP_N or VR_EN output is current-limited, flagged and retried. -/
  | sidebandShort (p : SidebandPin) (gone : Bool)
  /-- THROTTLE_EVAL (R458). Every 100 µs the furrow raises or lowers its throttle level from its power and temperature. -/
  | throttleEval (f : FurrowIx) (m : ThermalReading)
  /-- THERMAL_TRIP (R456). A furrow junction or stack over its trip limit takes the furrow offline and asserts THERMTRIP_N. -/
  | thermalTrip (f : FurrowIx) (m : ThermalReading)
  /-- HEADLAND_TRIP (R456). A headland over 115 °C stops the PCIe port, asserts THERMTRIP_N and releases HDL_VR_EN. -/
  | headlandTrip (tj : Byte)
  /-- REFCLK_LOSS (R451). A furrow reference that stops or drifts beyond ±1,000 ppm for 2 µs takes the furrow offline. -/
  | refclkLoss (f : FurrowIx)
  /-- POWER_UP (R447). VAUX reaches range, the always-on islands start, and the calendar restarts if its power latch was clear. -/
  | powerUp
  /-- POWER_LOSS (R446). Main power is removed, losing HBM and at most the last second of Tally counts. -/
  | powerLoss
  /-- PERST_ASSERT (R446). PERST# asserted for 10 µs or more puts HBM in self-refresh and resets the module. -/
  | perstAssert
  /-- PERST_RELEASE (R445). PERST# release starts the headland and every furrow's PLL and boot. -/
  | perstRelease (locked : Byte)
  /-- PF0_FLR (R31). A function-level reset of PF0 resets only the headland's management state. -/
  | pf0Flr
  /-- FURROW_RESET (R448). A function-level reset of a furrow function stops the furrow, keeps HBM in self-refresh, resets registers and reboots. -/
  | furrowReset (f : FurrowIx) (locked : Bool)
  /-- HBM_CLEAR_DONE (R389). The queued HBM clear of a boot ends, lifting the HBM controller lock. -/
  | hbmClearDone (f : FurrowIx)
  /-- FURROW_READY (R445). A furrow completes boot and HBM training and reads READY or DEGRADED, with handle 0 READY. -/
  | furrowReady (f : FurrowIx) (bad : BitVec 4)
  /-- MSIX_UNMASK (R64). The host unmasks a vector whose pending bit is set, and MSI-X sends the pending message without counting a new firing. -/
  | msixUnmask (fn : Function) (n : Fin 65)
  /-- NAND_ERASE_DONE (R347). An erase of a victim or format block completes, and the superblock becomes free or the failed block is retired. -/
  | nandEraseDone (f : FurrowIx) (n : Fin 2) (bad : Option NandBlock)
  /-- XTAL_RESTART (R454). A calendar crystal that had stopped gives edges again, adds one to CAL_STATE.RESTARTS, and the calendar resumes from its stopped value. -/
  | xtalRestart (f : FurrowIx)
  /-- SPAN_JOIN_REPLY (R375). The root receives a member's answer to SPAN_JOIN with the fabric identifiers it stands for, and when all have answered checks duplicates and module count and has the binding recorded. -/
  | spanJoinReply (f : FurrowIx) (p : Packet)
  /-- VR_EN_ASSERT (R444). A furrow senses the HBM and I/O rails of power-up steps 3 and 4 in range, asserts VR_EN_Fn and requests VNOM + VOFS over AVSBus, or stays RESET when its regulator does not answer. -/
  | vrEnAssert (f : FurrowIx) (answers : Bool)
  /-- PERST_FILTERED (R469). A PERST# assertion shorter than 10 µs is filtered and the headland writes an INPUT_EVENT record with land code 0x01. -/
  | perstFiltered
  /-- HEADLAND_FAULT (R437). The headland meets uncorrectable data in its switch buffers, sets HDL_HEALTH.HEADLAND_FAULT and asserts ATTN_N. -/
  | headlandFault
  deriving DecidableEq, Repr

end Sys2Proof
end

