-- ==== Sys2Proof/WellFormed.lean ====
section
/-! DEFINITION. Which commands the outside world can send: the operands whose types are wider than what the spec lets a host,
a port, a sensor or an error decoder supply. A meaning is given for ill-formed commands too; no claim is about them. -/

namespace Sys2Proof

/-- A host access is of 1, 2, 4 or 8 bytes; R35 says what those of other sizes than 4 and 8 do. -/
def HostAccess.wf (a : HostAccess) : Bool := a.size = 1 || a.size = 2 || a.size = 4 || a.size = 8

/-- LEN of a packet runs from 0 to 1,024 (R365). -/
def Packet.wf (p : Packet) : Bool := decide (p.payload.length ≤ 1024)

/-- A soft first decode is none: a slot that needs soft passes has had one to three (Table 19-1). -/
def ReadQuality.wf : ReadQuality → Bool
  | .soft p => p != 0
  | _ => true

/-- The word an SRAM error is in starts at a multiple of 8 B and has 72 bits, the block of an HBM error at a multiple of 64 B, and a
NAND slot takes at most three soft passes (Table 19-1). -/
def ErrorPlace.wf : ErrorPlace → Bool
  | .scratch _ off b => decide (off.toNat % 8 = 0) && decide (b.toNat < 72)
  | .unit _ _ off b => decide (off.toNat % 8 = 0) && decide (b.toNat < 72)
  | .hbm off n _ _ => decide (off.toNat % 64 = 0) && decide (n.toNat ≤ 64)
  | .nand _ n => decide (n.toNat ≤ 3)
  | .path _ => true

/-- A command whose operands the spec allows. -/
def Instr.wf : Instr → Bool
  | .registerWrite _ a _ => a.wf
  | .furNsLowRead _ a => a.wf
  | .lostFurrowAccess _ a _ => a.wf
  | .configWrite _ a _ => a.wf
  -- A flit is 256 B (R362).
  | .flitReceive _ _ flit => flit.length = 256
  | .readReq _ p => p.wf
  | .readResp _ p => p.wf
  | .write _ p => p.wf
  | .writeAck _ p => p.wf
  | .coll _ p => p.wf
  | .spanDesc _ p => p.wf
  | .spanAck _ p => p.wf
  | .spanDone _ p => p.wf
  | .spanCancel _ p => p.wf
  | .spanBeat _ p => p.wf
  | .linkFence _ p => p.wf
  | .noRoute _ p => p.wf
  | .spanJoin _ p => p.wf
  | .spanEnd _ p => p.wf
  | .spanJoinReply _ p => p.wf
  | .nandReadDone _ q => q.wf
  | .correctedError _ e => e.wf
  | .uncorrectableData _ e _ => e.wf
  | .patrolScrub _ e _ => e.wf
  -- A channel has at most 32 dies (Table 15-2).
  | .dieLost _ _ die => decide (die.toNat < 32)
  -- The block that fails an erasure is one of the channel that erases.
  | .nandEraseDone _ n bad => match bad with | none => true | some b => b.ch = n
  -- A debug grant is an Ed25519 signature of 64 B (R401).
  | .dbgGrant _ grant => grant.length = 64
  -- Each margin reading gives one slack and one oscillator count for each cluster, and there is at least one reading (R435).
  | .marginReplan _ slack ro => decide (8 ≤ slack.length) && slack.length % 8 = 0 && ro.length = slack.length
  -- The operand types of every other command hold only what the spec allows.
  | _ => true

end Sys2Proof
end

