-- ==== Sys2Proof/Decode.lean ====
section
/-! DEFINITION. The decoder of the table's words. spec/opcode_table.json gives none of its 215 rows any bits: the block takes its
commands from registers, rings, ports and pins, and no word spells one. -/

namespace Sys2Proof

/-- The command that a word spells by the bits of the opcode table: none, for no row has bits. -/
def decodeTableWord (_nbits _w : Nat) : Option Instr := none

end Sys2Proof
end

