-- ==== Sys2Proof/Config.lean ====
section
/-! DEFINITION. What an implementation or a part fixes, and the free values: constants WITHOUT a body, so that no proof can
see what they are. Fused values keep the range the spec gives them; functions of outside standards (SHA-512, Ed25519,
X.509) and the special functions of the vector engine stand here by name. -/

namespace Sys2Proof.Config

/-- The free values: the k-th value the machine produces where the spec leaves the value open (log 5). -/
opaque freeBits : Nat → BitVec 64

/-- What a walk finds at an offset beyond its owner's region, which it does not read (R157; log 83). -/
opaque beyondRegion : Nat → BitVec 8

/-- SERIAL of a furrow (Table 17-1). -/
opaque serial : FurrowIx → W64

/-- The ordering code of the module (R470): its Tally configuration M, H or U, and whether it is an engineering part. -/
opaque orderTally : Fin 3
opaque orderEngineering : Bool

/-- STEPPING of a furrow (Table 01-3) and of the headland (Table 02-5): A, 0x00, is the one there is (Table 21-8). -/
def stepping (_ : FurrowIx) : Byte := 0x00
def headlandStepping : Byte := 0x00

/-- Security versions fused at manufacture, as the number of bits set, 0–64 (Table 17-1). -/
opaque svnRotFused : FurrowIx → Fin 65
opaque svnCtrlFused : FurrowIx → Fin 65

/-- KEY_REVOKE as fused at manufacture (Table 17-1), and DEBUG_OPEN, 1 on engineering parts (Table 21-8). -/
opaque keyRevokeFused : FurrowIx → BitVec 6
def debugOpenFused (_ : FurrowIx) : BitVec 1 := if orderEngineering then 1 else 0

/-- The fused nominal core voltage above its least value, in mV: 0.72 to 0.80 V (R440). -/
opaque vnomStep : FurrowIx → Fin 81

/-- VNOM in mV. -/
def vnom (f : FurrowIx) : Nat := 720 + (vnomStep f).val

/-- PERIOD_S by the ordering code (Tables 18-4, 21-8). -/
def periodS (_ : FurrowIx) : Nat := if orderTally = 1 then 3600 else 60

/-- UPDATE_ALLOWED by the ordering code (Tables 18-4, 21-8). -/
def updateAllowed (_ : FurrowIx) : Bool := decide (orderTally = 2)

/-- SHA-512, named by R388 and R393 as an outside standard. -/
opaque sha512 : List Byte → BitVec 512

/-- What a key pair was made from (R387, R401, R411): the DeviceID key, an alias key by the firmware digest, security
version, lifecycle and debug byte it was derived from, or the Tally's key. -/
inductive KeyId
  | device (f : FurrowIx)
  | alias_ (f : FurrowIx) (digest : BitVec 512) (svn : W32) (lifecycle : Byte) (debug : Byte)
  | tally (f : FurrowIx)

/-- The unique device secret of a furrow (Table 17-1), and TALLY_SECRET (R411). -/
opaque uds : FurrowIx → BitVec 256
opaque tallySecret : FurrowIx → BitVec 256

/-- The Ed25519 public key of a 32-byte seed (RFC 8032). -/
opaque publicKey : List Byte → BitVec 256

/-- The Ed25519 signature of a message under the key of a seed. -/
opaque sign : List Byte → List Byte → BitVec 512

/-- A signature verifies under the ROM's public key of an index, 0–5 (R386). -/
opaque romVerifies : Fin 6 → List Byte → List Byte → Bool

/-- A signature verifies under the Tally's firmware key (R409). -/
opaque tallyVerifies : List Byte → List Byte → Bool

/-- The certificate chain of slot 0 up to and with the alias key, and the Tally's certificate (R398, R411, R418). -/
opaque certificateChain : KeyId → List Byte
opaque tallyCertificate : FurrowIx → List Byte

/-- What DSP0274 leaves to a responder: its time exponent, the largest message it takes at once and in chunks, the kind of a
measurement block's value, and the summary of measurement blocks that CHALLENGE_AUTH holds for a type of summary (log 67). -/
opaque spdmExponent : FurrowIx → Byte
opaque spdmTransfer : FurrowIx → W32
opaque spdmMessage : FurrowIx → W32
opaque spdmValueKind : Byte → BitVec 7
opaque spdmSummary : Byte → List (List Byte) → BitVec 512

/-- The bytes an SPDM signature covers, made from the negotiated version, the responder's message and the transcript (DSP0274). -/
opaque spdmSigned : Byte → Bool → List Byte → List Byte

/-- The images a part leaves Dalril with, as header and body: root-of-trust, control and Tally firmware (R386). -/
opaque factoryRot : FurrowIx → List Byte × List Byte
opaque factoryCtrl : FurrowIx → List Byte × List Byte
opaque factoryTally : FurrowIx → List Byte × List Byte

/-- The furrow's random source (R401). -/
opaque nonce : Nat → BitVec 256

/-- The special functions of the vector engine whose last bits Table 05-6 leaves open within an error bound. -/
inductive Special
  | exp | log | rsqrt | tanh | sigmoid | silu | gelu

/-- Which of the results within Table 05-6's error bound a special function gives for FP32 bits; the same on every part (R121). -/
opaque special : Special → BitVec 32 → Nat

/-- ENERGY_MJ of a record: core-rail energy from telemetry, which the model does not hold (R408). -/
opaque energyMj : FurrowIx → Nat → W64

end Sys2Proof.Config
end

