-- ==== Sys2Proof/Machine/StateCore.lean ====
section
/-! DEFINITION. The part of a furrow's state that every command shares: memories as sparse lists, contexts, ring groups,
requests, engine places and MSI-X vectors (chapters 01, 02 and 03). -/

namespace Sys2Proof.Machine

/-- A byte-addressed memory: the bytes that are not zero, at strictly rising addresses. An unlisted byte reads as zero
(DESIGN CHOICE, log 2). -/
abbrev Mem := List Host.Cell

/-- Where moved bytes lie or go for a context of the executing furrow (R311, R312): tier 0 T0, 1 T1, 2 HBM, 3 HBM of another
member, 4 Granary, 5 host; the core for T0; the byte offset or address; the other member's fabric identifier and its context's span identifier for tier 3. -/
structure Spot where
  tier : Nat
  core : Nat
  off  : Nat
  peer : FabricId
  span : W32
  deriving DecidableEq, Repr

/-- FUR_STATE.STATE (Table 01-4). -/
inductive FurState
  | reset
  | boot
  | ready
  | degraded
  | lost
  | zeroising
  deriving DecidableEq, Repr

/-- CTX_STATE.STATE (Table 03-1). -/
inductive CtxState
  | free
  | ready
  | member
  | faulted
  | destroying
  deriving DecidableEq, Repr

/-- RING_CTRL.STATE (Table 02-12). -/
inductive RingState
  | disabled
  | active
  | error
  | draining
  deriving DecidableEq, Repr

/-- CTX_SPAN.ROLE (Table 03-6). -/
inductive SpanRole
  | none
  | root
  | member
  deriving DecidableEq, Repr

/-- A completion record before its PHASE bit is set (Table 02-18). -/
structure Record where
  tag      : Tag
  status   : Byte
  late     : Bool
  nested   : Bool
  widened  : Bool
  throttled : Bool
  partial_ : Bool
  count    : W16
  engineNs : W64
  result   : W64
  detail   : W64
  deriving DecidableEq, Repr

/-- The ring register group of one context (Tables 02-6 to 02-13), with the holding queue of R58 and the kept cancels of
R51. -/
structure Rings where
  sqBase     : BitVec 52
  sqLog      : BitVec 5
  shadowAddr : BitVec 61
  shadowEn   : Bool
  cqBase     : BitVec 52
  irqGap     : BitVec 10
  irqBatch   : BitVec 8
  irqEn      : Bool
  cqLog      : BitVec 5
  sqHead     : W32
  cqTail     : W32
  sqTail     : W32
  cqHead     : W32
  badDoorbell : Bool
  state      : RingState
  /-- Records waiting for room in the completion ring, oldest first (R58). -/
  holding    : List Record
  /-- Cancels kept until every descriptor before their tail count has been fetched (R51): tag and count. -/
  kept       : List (Tag × W32)
  /-- A linked run whose last descriptor is not yet fetched: its tag (R53). -/
  openRun    : Option Tag
  deriving DecidableEq, Repr

/-- One context-table entry (R69, Tables 03-1 to 03-8) with its ring group and the scheduler's figures for it (R78–R81). -/
structure Context where
  state      : CtxState
  shares     : W16
  /-- Shares recorded by CTX_SET_SHARES for the next quantum boundary (R79). -/
  nextShares : Option W16
  pasid      : BitVec 20
  hbmBase    : W32
  hbmSize    : W32
  grnBase    : W32
  grnSize    : W32
  spanId     : W32
  role       : SpanRole
  faultAddr  : BitVec 52
  faultReason : Byte
  /-- A teardown that waits for room for the records of step 3: its cause and address (R91, R58). -/
  fault      : Option (FaultCause × W64)
  /-- CTX_NS_* as of the latest update, by engine class (R81). -/
  ns         : Vector W64 7
  /-- Engine time charged since the latest update (R81). -/
  nsDue      : Vector W64 7
  /-- Virtual time in units of 2⁻³² (R78). -/
  vt         : Nat
  /-- Served by some core in the previous quantum, and in the present one (R78). -/
  servedBefore : Bool
  servedNow  : Bool
  /-- It had ready work at the latest quantum boundary (R78, R79). -/
  hadWork    : Bool
  /-- Engine time charged in each of the last ten quanta, newest first, and in the present one (R87). -/
  lastQuanta : List Nat
  thisQuantum : Nat
  /-- Pairings of CTX_PAIR_FALLBACK: primary and fallback plan handles (R75). -/
  pairs      : List (W32 × W32)
  rings      : Rings
  deriving DecidableEq, Repr

/-- How a request ends or a descriptor finishes: the fields of its final record (Table 02-18). -/
structure Ending where
  status : Byte
  count  : W16
  result : W64
  detail : W64
  deriving DecidableEq, Repr

/-- Where a request stands (R53, R55, R59, R84, R88). -/
inductive Phase
  /-- Fetched, but a descriptor of its linked run is not yet fetched. -/
  | partRun
  /-- Admitted and not started. -/
  | queued
  /-- The descriptor at the index has been started on an engine. -/
  | running
  /-- The engine has finished the descriptor at the index with the ending. -/
  | engineDone (e : Ending)
  /-- A cancel is registered and the engines are aborting (R88). -/
  | aborting
  /-- The end is registered; the final record is not yet posted (R59, R90). -/
  | ended (e : Ending)
  deriving DecidableEq, Repr

/-- One engine instance at work for a request, with the request's weight in it (R81). -/
structure EngUse where
  cls    : EngClass
  place  : Nat
  weight : Nat
  deriving DecidableEq, Repr

/-- A ring group after reset (Tables 02-7 to 02-13). -/
def Rings.initial : Rings :=
  { sqBase := 0, sqLog := 4, shadowAddr := 0, shadowEn := false, cqBase := 0, irqGap := 0, irqBatch := 1,
    irqEn := false, cqLog := 4, sqHead := 0, cqTail := 0, sqTail := 0, cqHead := 0, badDoorbell := false,
    state := .disabled, holding := [], kept := [],
    openRun := none }

/-- A handle that is FREE (Table 03-1): no regions, units or shares. -/
def Context.initial : Context :=
  { state := .free, shares := 0, nextShares := none, pasid := 0, hbmBase := 0, hbmSize := 0, grnBase := 0,
    grnSize := 0, spanId := 0, role := .none, faultAddr := 0, faultReason := 0, fault := none,
    ns := Vector.replicate 7 0, nsDue := Vector.replicate 7 0, vt := 0, servedBefore := false, servedNow := false, hadWork := false,
    lastQuanta := [], thisQuantum := 0, pairs := [], rings := .initial }

/-- Handle 0 (R70, Tables 03-3 and 03-4): READY with 1,024 shares; its regions are the remainder. -/
def Context.management : Context := { Context.initial with state := .ready, shares := 0x400 }

end Sys2Proof.Machine
end

