-- ==== Sys2Proof/Machine/StateErr.lean ====
section
/-! DEFINITION. The state of the error ring, self-test, ageing and the health record (chapter 19), and of power, throttling
and the calendar (chapter 20). -/

namespace Sys2Proof.Machine

/-- An error record before its PHASE bit is set (Table 19-2). -/
structure ErrRec where
  seq      : W64
  kind     : Byte
  last     : Bool
  nested   : Bool
  retried  : Bool
  severity : Byte
  opcode   : Byte
  ctx      : W16
  ns       : W64
  tag      : Tag
  count    : W32
  addr     : W64
  cluster  : Byte
  core     : Byte
  part     : Byte
  bank     : Byte
  detail   : W64
  parent   : W64
  deriving DecidableEq, Repr

/-- An error in handling (R427): its record's SEQ, when it was detected, the requests whose ends it waits for, and whether
its record still waits for a queue entry or for room in the ring. -/
structure Handling where
  seq      : W64
  since    : W64
  requests : List (Handle × Tag)
  posted   : Bool
  deriving DecidableEq, Repr

/-- The error ring and its counters (R425, R426, R472, Table 19-8). -/
structure ErrRing where
  base      : BitVec 52
  enable    : Bool
  irqGap    : BitVec 10
  irqBatch  : BitVec 8
  irqEn     : Bool
  log2Size  : BitVec 5
  head      : W32
  tail      : W32
  ceDropped : W32
  writeFail : Bool
  badHead   : Bool
  /-- Records written by the furrow since its last reset (Table 19-2, SEQ). -/
  seq       : W64
  /-- The queue of R426, oldest first, at most 256 records. -/
  queue     : List ErrRec
  /-- Records that wait in their units for a queue entry (R426), oldest first. -/
  waiting   : List ErrRec
  /-- Per source unit of SEVERITY 1 records: FUR_NS of its last record and the events counted since (R426). -/
  sources   : List (Nat × W64 × W32)
  /-- Per land: FUR_NS of its last INPUT_EVENT record and the events counted since (R460). -/
  lands     : List (Byte × W64 × W32)
  /-- The errors being handled, earliest first (R427). -/
  handling  : List Handling
  deriving DecidableEq, Repr

/-- A target of self-test (Table 19-6). -/
structure BistRun where
  target : BistTarget
  again  : Bool
  since  : W64
  deriving DecidableEq, Repr

/-- Self-test (R430–R433, Table 19-8). -/
structure Bist where
  save      : BitVec 27
  saveValid : Bool
  en        : Bool
  passes    : W16
  deferred  : W16
  mismatch  : W16
  done      : W16
  /-- Slices that this pass has taken up, the slices deferred, in the order they were deferred, and those of them that the present
  slot has tried again (R431). -/
  slices    : List BistTarget
  waiting   : List BistTarget
  tried     : List BistTarget
  /-- The slice that runs, and the targets withheld after a first difference (R433). -/
  running   : Option BistRun
  withheld  : List BistTarget
  /-- Units pending retirement, unit 16 × c + u (R433). -/
  unitsPending : BitVec 128
  /-- FUR_NS at which the next slot falls due, and the targets that have not completed within 48 h. -/
  nextSlot  : W64
  late      : Bool
  /-- FUR_NS at which each slice was last completed, or found late. -/
  lastDone  : List (BistTarget × W64)
  deriving DecidableEq, Repr

/-- What the health record keeps (R436, R433–R435, R353, R454). -/
structure Health where
  seq      : W64
  cores    : W64
  units    : BitVec 128
  text     : Byte
  clusters : Byte
  ports    : BitVec 10
  hbmMap   : BitVec 4
  nandMap  : BitVec 2
  vofs     : Byte
  clocks   : Vector W16 8
  reasons  : W32
  restarts : W32
  nandRetired : BitVec 24
  lostDies : Byte
  nandReplace : Bool
  deriving DecidableEq, Repr

/-- A block or word that holds uncorrectable data: its memory (0 T0, 1 T1, 2 HBM), its number, in 64-byte blocks for HBM and
8-byte words for SRAM, and the DETAIL of the record about it (Table 19-3). -/
structure BadWord where
  mem    : Fin 3
  num    : Nat
  detail : Byte
  deriving DecidableEq, Repr

/-- Corrections and uncorrectable events in the current 24 h (R421, R436, Table 19-8 REL_CE). -/
structure ErrCounts where
  hbm       : W32
  sram      : W32
  stackCe   : Vector W32 4
  stackUe   : Vector W32 4
  since     : W64
  /-- Blocks and words that hold uncorrectable data until they are written (R422). -/
  bad       : List BadWord
  /-- Per port: exits from UP for reasons other than loss of light in 24 h, and trainings failed in a row (R434). -/
  portExits : Vector Nat 10
  portFails : Vector Nat 10
  deriving DecidableEq, Repr

/-- The margin figures the last re-plan left (R435, REL_AGE_c), by cluster. -/
structure Ageing where
  roCount : Vector W16 8
  slack   : Vector W16 8
  lastNs  : W64
  deriving DecidableEq, Repr

/-- Power, throttling and AVSBus of one furrow (R440–R442, R456–R459, Table 20-9). -/
structure Power where
  hbmKept   : BitVec 4
  level     : BitVec 4
  thermal   : Bool
  power     : Bool
  avsFault  : Bool
  pllFail   : Bool
  nandOc    : BitVec 2
  tThrottle : Byte
  limitW    : BitVec 9
  coreMv    : W16
  coreDa    : W16
  powerW    : W16
  tjMax     : Byte
  hbmTmax   : Byte
  throttleNs : W64
  /-- The voltage last requested and the one last confirmed, in mV (R441). -/
  reqMv     : W16
  confMv    : W16
  /-- FUR_NS since which the core voltage has been outside ±3 % of its request, and within it; outside 0.62–0.92 V. -/
  outSince  : Option W64
  inSince   : Option W64
  farSince  : Option W64
  railFault : Bool
  /-- VR_EN_Fn is driven high, and the HBM stacks are in self-refresh. -/
  vrEn      : Bool
  selfRefresh : BitVec 4
  /-- Set when this furrow tripped (HDL_PWR.TRIP_MAP is the headland's copy). -/
  nextEval  : W64
  nextSample : W64
  deriving DecidableEq, Repr

/-- The calendar island (R452–R455): it keeps its state across every reset. -/
structure Calendar where
  stamp    : W64
  valid    : Bool
  xtalFail : Bool
  vbatBad  : Bool
  slew     : W16
  /-- The island's power latch (R454). -/
  latch    : Bool
  /-- The crystal runs (false once XTAL_FAIL is found, until it gives edges again). -/
  running  : Bool
  /-- Crystal cycles since the last slew step, and reference-cycle fractions of a crystal cycle. -/
  slewAcc  : Nat
  cycleAcc : Nat
  deriving DecidableEq, Repr

/-- The error ring after reset (Table 19-8). -/
def ErrRing.initial : ErrRing :=
  { base := 0, enable := false, irqGap := 0, irqBatch := 1, irqEn := false, log2Size := 6, head := 0, tail := 0,
    ceDropped := 0, writeFail := false, badHead := false, seq := 0, queue := [], waiting := [], sources := [],
    lands := [], handling := [] }

/-- Self-test after reset (Table 19-8); the first slot falls due 220 s after it (R430). -/
def Bist.initial : Bist :=
  { save := 0, saveValid := false, en := true, passes := 0, deferred := 0, mismatch := 0, done := 0, slices := [],
    waiting := [], tried := [], running := none, withheld := [], unitsPending := 0, nextSlot := 220000000000, late := false, lastDone := [] }

/-- The health record of a part with nothing retired (R436): also what is taken when both copies fail. -/
def Health.fresh : Health :=
  { seq := 0, cores := BitVec.allOnes 64, units := BitVec.allOnes 128, text := 0xFF, clusters := 0xFF,
    ports := BitVec.allOnes 10, hbmMap := BitVec.allOnes 4, nandMap := BitVec.allOnes 2, vofs := 0,
    clocks := Vector.replicate 8 1900, reasons := 0, restarts := 0, nandRetired := 0, lostDies := 0,
    nandReplace := false }

/-- The error counters after reset (Table 19-8, REL_CE). -/
def ErrCounts.initial : ErrCounts :=
  { hbm := 0, sram := 0, stackCe := Vector.replicate 4 0, stackUe := Vector.replicate 4 0, since := 0, bad := [],
    portExits := Vector.replicate 10 0, portFails := Vector.replicate 10 0 }

/-- The ageing figures after reset (Table 19-8, REL_AGE_c). -/
def Ageing.initial : Ageing :=
  { roCount := Vector.replicate 8 0, slack := Vector.replicate 8 0, lastNs := 0 }

/-- The power block after reset (Table 20-9), its core rail on at the given request. -/
def Power.initial (mv : W16) : Power :=
  { hbmKept := 0, level := 0, thermal := false, power := false, avsFault := false, pllFail := false, nandOc := 0,
    tThrottle := 0x64, limitW := 0x1EA, coreMv := 0, coreDa := 0, powerW := 0, tjMax := 0, hbmTmax := 0,
    throttleNs := 0, reqMv := mv, confMv := mv, outSince := none, inSince := none,
    farSince := none, railFault := false, vrEn := true, selfRefresh := 0, nextEval := 100000, nextSample := 100000 }

/-- The calendar of an island that started with its power latch clear (R454). -/
def Calendar.initial : Calendar :=
  { stamp := 0, valid := false, xtalFail := false, vbatBad := false, slew := 0, latch := true, running := true,
    slewAcc := 0, cycleAcc := 0 }

end Sys2Proof.Machine
end

