-- ==== Sys2Proof/Machine/StateGrn.lean ====
section
/-! DEFINITION. The state of the Granary (chapter 15): the NAND parts and what lies on them, the map engine, stripes,
reclamation and mount. -/

namespace Sys2Proof.Machine

/-- What the parameter pages of a channel's parts say (R332). `agrees` is false when the LUNs differ. -/
structure NandPart where
  /-- Targets on the channel, LUNs of a target, and the LUNs of the channel, called dies. -/
  targets   : Byte
  luns      : Byte
  dies      : Byte
  planes    : Byte
  pageKib   : Byte
  rate      : Byte
  blocks    : W16
  pages     : W16
  /-- Spare bytes for each 4 KiB of data. -/
  spare     : W16
  /-- Consecutive pages of a block that share a word line (R337). -/
  perLine   : Byte
  endurance : W16
  agrees    : Bool
  /-- Factory bad-block marks: die and block. -/
  bad       : List (Nat × Nat)
  deriving DecidableEq, Repr

/-- A programmed slot of the NAND (R336): its header and its data. `unreadable` holds once its page no longer decodes. -/
structure NandSlot where
  seq  : W64
  lbn  : Nat
  kind : Byte
  data : List Host.Cell
  unreadable : Bool
  deriving DecidableEq, Repr

/-- A journal record (Table 15-4). -/
structure JRec where
  seq  : W64
  lbn  : Nat
  new  : W64
  kind : Byte
  deriving DecidableEq, Repr

/-- A root record (Table 15-6). -/
structure RootRec where
  seq        : W64
  logicalMib : W32
  geometry   : W32
  ckptSeq    : W64
  /-- The map entry of the first slot of the block table. -/
  table      : W64
  deriving DecidableEq, Repr

/-- One block of a die in the block table (R350, R353). -/
structure BlockInfo where
  ch      : Nat
  die     : Nat
  block   : Nat
  erases  : W32
  retired : Bool
  deriving DecidableEq, Repr

/-- The block table as last written (R350, R357): the blocks' counts and marks and the two lifetime counters. -/
structure BlockTable where
  blocks : List BlockInfo
  host   : W64
  flash  : W64
  deriving DecidableEq, Repr

/-- Everything on the NAND parts of a furrow; no reset of the furrow touches it. -/
structure Nand where
  parts   : Vector NandPart 2
  /-- Programmed slots of every kind by PSA (Tables 15-2, 15-3). -/
  slots   : List (Nat × NandSlot)
  /-- Durable journal records with SEQ above the current checkpoint's, ascending. -/
  journal : List JRec
  /-- The current checkpoint: its SEQ and the map entries that are not zero. -/
  ckpt    : Option (W64 × List (Nat × W64))
  table   : Option BlockTable
  roots   : List RootRec
  /-- Dies that no longer complete Read Status: channel and die. -/
  dead    : List (Nat × Nat)
  deriving DecidableEq, Repr

/-- What a superblock is used for. -/
inductive SbState
  | free
  | opened
  | closed
  | victim
  deriving DecidableEq, Repr

/-- A superblock (R333): its channel and number, its dies in list order, and the figures victim choice reads. -/
structure Superblock where
  ch       : Fin 2
  num      : Nat
  state    : SbState
  dies     : List Nat
  /-- Page positions whose stripes are closed. -/
  pages    : Nat
  /-- Order in which its last stripe closed (R347). -/
  closedAt : Nat
  reads    : Nat
  /-- FUR_NS of the last patrol read (R348). -/
  patrol   : W64
  /-- Scheduled as a victim ahead of the fewest-slots rule (R348, R353, R354). -/
  urgent   : Bool
  /-- It may hold data from before the mount and is erased before use (R351). -/
  dirty    : Bool
  deriving DecidableEq, Repr

/-- A slot filled in an open stripe. -/
structure Filled where
  psa  : Nat
  slot : NandSlot
  /-- Its stripe's program has been issued. -/
  issued : Bool
  deriving DecidableEq, Repr

/-- An open or programming stripe of a channel (R334, R337). -/
structure Stripe where
  sb      : Nat
  page    : Nat
  filled  : List Filled
  since   : W64
  programming : Bool
  /-- Its program is done on every die; it waits for the rest of its word line (R337). -/
  programmed  : Bool
  deriving DecidableEq, Repr

/-- Where one block's write stands in R341. -/
inductive WriteStage
  /-- No slot is reserved yet (R345). -/
  | waiting
  /-- Reserved on a channel. -/
  | reserved (ch : Fin 2)
  /-- Appended at a PSA, not yet durable. -/
  | appended (psa : Nat)
  /-- Its map step took this SEQ; the record is not yet durable. -/
  | recorded (seq : W64)
  deriving DecidableEq, Repr

/-- One 4 KiB block on its way to the Granary (R341), or one discard (R342) once recorded. -/
structure GrnWrite where
  h     : Handle
  tag   : Tag
  lbn   : Nat
  data  : List Host.Cell
  stage : WriteStage
  deriving DecidableEq, Repr

/-- One slot read in flight (R344): the block asked for, the PSA its map entry named, and where the bytes go. -/
structure GrnRead where
  h    : Handle
  tag  : Tag
  lbn  : Nat
  psa  : Nat
  /-- First byte in the block, byte count, and where the bytes go. -/
  off  : Nat
  len  : Nat
  dst  : Spot
  deriving DecidableEq, Repr

/-- Where a reclamation job stands (R347). -/
inductive GcStage
  | copying
  | committed (e : W64)
  | erasing
  deriving DecidableEq, Repr

/-- A reclamation of one superblock (R347). -/
structure GcJob where
  ch    : Fin 2
  sb    : Nat
  stage : GcStage
  /-- The scan: logical block, old PSA, and the copy's PSA with whether it is durable. -/
  scan  : List (Nat × Nat × Option (Nat × Bool))
  deriving DecidableEq, Repr

/-- GRN_CFG.STATE (Table 15-12). -/
inductive GrnState
  | offline
  | mounting
  | ready
  | readOnly
  | formatting
  deriving DecidableEq, Repr

/-- A rewrite of a rebuilt or soft-decoded slot (R344, R348): it copies the slot and moves the map entry if unchanged. -/
structure Rewrite where
  lbn  : Nat
  old  : Nat
  copy : Nat
  durable : Bool
  deriving DecidableEq, Repr

/-- The Granary of one furrow (Tables 15-9 to 15-16). -/
structure Granary where
  nand       : Nand
  state      : GrnState
  error      : Byte
  logicalMib : W32
  mapBase    : BitVec 27
  idleUs     : W16
  bgFree     : W16
  fgFree     : Byte
  fg         : Vector Bool 2
  bg         : Vector Bool 2
  /-- Channels mounted now. -/
  mounted    : Vector Bool 2
  hostBlocks : W64
  flashSlots : W64
  /-- SEQ of the last map step, and the greatest durable one (GRN_SEQ). -/
  seq        : W64
  durableSeq : W64
  sbs        : List Superblock
  blocks     : List BlockInfo
  stripes    : Vector (List Stripe) 2
  /-- Journal records not yet durable, ascending (R340). -/
  records    : List JRec
  writes     : List GrnWrite
  reads      : List GrnRead
  gc         : List GcJob
  rewrites   : List Rewrite
  /-- FUR_NS of the last Granary request issued to each channel (R346). -/
  lastIssue  : Vector W64 2
  closes     : Nat
  /-- A checkpoint in progress: its SEQ (R350), and the records since the current one. -/
  ckptSeq    : Option W64
  sinceCkpt  : Nat
  /-- FUR_NS of the last ZQ calibration, long at mount and short after it, and how many short ones have run (R332). -/
  zqLast     : W64
  zqCount    : Nat
  /-- A GRN_FORMAT in progress: its request and the capacity it sets. -/
  format     : Option (Handle × Tag × W32)
  /-- GRN_RECLAIM in progress: its request, channels, target and limit in µs, and the superblocks freed. -/
  reclaim    : Option (Handle × Tag × BitVec 2 × W16 × W32 × Nat)
  /-- Retirements of the last 24 h: channel, die and FUR_NS (R354). -/
  retireLog  : List (Nat × Nat × W64)
  lostDies   : List (Nat × Nat)
  /-- After a zeroisation the Granary refuses to mount until the next reset (R402). -/
  barred     : Bool
  deriving DecidableEq, Repr

/-- The parts of the worked example of chapter 15: 8 targets of 4 dies, 4 planes of 16 KiB pages, 3,600 MT/s, 1,024 blocks
of 1,024 pages. The spec states no fitted parts for reset: DESIGN CHOICE, log 14. -/
def NandPart.hollin : NandPart :=
  { targets := 8, luns := 4, dies := 32, planes := 4, pageKib := 16, rate := 36, blocks := 1024, pages := 1024, spare := 512,
    perLine := 1, endurance := 30, agrees := true, bad := [] }

/-- New parts: nothing written. -/
def Nand.blank : Nand :=
  { parts := Vector.replicate 2 NandPart.hollin, slots := [], journal := [], ckpt := none, table := none, roots := [],
    dead := [] }

/-- The Granary after a furrow reset: OFFLINE, with the registers of Tables 15-9 to 15-16, over what the NAND holds. -/
def Granary.initial (nand : Nand) : Granary :=
  { nand := nand, state := .offline, error := 0, logicalMib := 0, mapBase := 0, idleUs := 0x03E8, bgFree := 0x20,
    fgFree := 4, fg := Vector.replicate 2 false, bg := Vector.replicate 2 false,
    mounted := Vector.replicate 2 false, hostBlocks := 0, flashSlots := 0, seq := 0, durableSeq := 0, sbs := [],
    blocks := [], stripes := Vector.replicate 2 [], records := [], writes := [], reads := [], gc := [], rewrites := [],
    lastIssue := Vector.replicate 2 0, closes := 0, ckptSeq := none, sinceCkpt := 0, zqLast := 0, zqCount := 0,
    format := none, reclaim := none, retireLog := [], lostDies := [], barred := false }

end Sys2Proof.Machine
end

