-- ==== Sys2Proof/Machine/StateSec.lean ====
section
/-! DEFINITION. The state of the root of trust (chapter 17) and of the Tally (chapter 18). -/

namespace Sys2Proof.Machine

/-- The fuses that a running part can still blow, and those its behaviour reads (Table 17-1). A fuse is only ever set. -/
structure Fuses where
  lifecycle : BitVec 4
  debugOpen : BitVec 1
  keyRevoke : BitVec 6
  svnRot    : W64
  svnCtrl   : W64
  deriving DecidableEq, Repr

/-- A firmware image in a slot of the boot store (R388): its 256-byte header and its body. -/
structure FwImage where
  header : List Byte
  body   : List Byte
  deriving DecidableEq, Repr

/-- The two slots of one image kind; `none` is a slot whose contents are not a whole image. -/
structure FwSlots where
  a : Option FwImage
  b : Option FwImage
  deriving DecidableEq, Repr

/-- STATE of a log entry (Table 17-3). -/
inductive LogState
  | loaded
  | unloaded
  /-- PENDING; the flag says that the object was unloaded while its digest was being made (R395). -/
  | pending (gone : Bool)
  deriving DecidableEq, Repr

/-- A measurement-log entry (Table 17-3). -/
structure LogEntry where
  kind   : Byte
  state  : LogState
  handle : W16
  object : W32
  offset : W64
  length : W64
  seq    : W64
  stamp  : W64
  tag    : Tag
  digest : BitVec 512
  /-- The object lies in T1 space and not in HBM (Table 17-3, OFFSET). -/
  inT1   : Bool
  deriving DecidableEq, Repr

/-- A debug challenge still open to one grant (R401). -/
structure Challenge where
  bytes : List Byte
  since : W64
  deriving DecidableEq, Repr

/-- The SPDM responder's connection on one MCTP path (R398, R399): what has been negotiated, the response that waits
for RESPOND_IF_READY, a large request or response that travels in chunks, and what was last answered. -/
structure Spdm where
  version    : Option Byte
  caps       : Bool
  algorithms : Bool
  /-- The requester's transfer size; 0 while it has named none. -/
  transfer   : Nat
  /-- Requests and responses so far that a signature covers. -/
  transcript : List Byte
  /-- A deferred response with its token (RESPOND_IF_READY). -/
  deferred   : Option (Byte × List Byte)
  /-- A large request being collected: handle, next chunk number and bytes so far. -/
  sending    : Option (Byte × W16 × List Byte)
  /-- A large response being read: handle, next chunk number and bytes left. -/
  getting    : Option (Byte × W16 × List Byte)
  /-- The last response. -/
  answer     : List Byte
  deriving DecidableEq, Repr

/-- The root of trust of one furrow (Tables 17-9 to 17-13). -/
structure Sec where
  bootError     : Byte
  ctrlSlot      : Bool
  rotSlot       : Bool
  unlockFails   : BitVec 4
  scrubPending  : Bool
  debugUnlocked : Bool
  fwAddr        : BitVec 58
  fwLength      : BitVec 24
  fwStatus      : Byte
  fwKind        : BitVec 4
  eid           : Byte
  /-- The boot store's slots (R386). -/
  rot           : FwSlots
  ctrl          : FwSlots
  /-- The images that run since the last boot. -/
  rotRun        : Option FwImage
  ctrlRun       : Option FwImage
  /-- The Tally's firmware digest, as read from it at boot (Table 17-2). -/
  tallyDigest   : BitVec 512
  log           : List LogEntry
  logSeq        : W64
  challenge     : Option Challenge
  /-- The challenge as last shifted out by the TAP (R401). -/
  tapOut        : List Byte
  /-- The signing engine uses the debug alias key (R387). -/
  debugKey      : Bool
  /-- HBM_LOCK of the 98 ms step: the HBM clear is queued and has not ended (Table 17-2). -/
  hbmLocked     : Bool
  /-- A known-answer test or the reading of the fuses fails at the next boot. -/
  selfTestBad   : Bool
  fuseReadBad   : Bool
  /-- The boundary-scan instruction in effect, when one is (R400). -/
  extest        : Option Byte
  pcie          : Spdm
  i3c           : Spdm
  deriving DecidableEq, Repr

/-- TLY_STATUS.STATE (Table 18-4). -/
inductive TallyState
  | boot
  | metering
  | clockFault
  | failed
  deriving DecidableEq, Repr

/-- An open metering record (R415, Table 18-1). -/
structure OpenRec where
  creation  : W32
  openStamp : W64
  calBad    : Bool
  fault     : Bool
  pasid     : BitVec 20
  ns        : Vector W64 7
  tokensIn  : W64
  tokensOut : W64
  unNs      : W64
  unTokens  : W64
  energyMj  : W64
  deriving DecidableEq, Repr

/-- The Tally of one furrow (Tables 18-1 to 18-4). -/
structure Tally where
  state     : TallyState
  version   : W32
  cmdStatus : BitVec 4
  next      : W64
  acked     : W64
  cmdAddr   : BitVec 58
  cmdArg    : W64
  count     : W16
  unattributed : W64
  /-- The unacknowledged entries, oldest first, 320 bytes each (R414, R417). -/
  entries   : List (List Byte)
  /-- The digest of the last entry (R414, PREV of the next). -/
  prev      : BitVec 512
  open_     : Vector (Option OpenRec) 64
  /-- The interim area: the last second's copy of each open record, with its stamp (R416). -/
  interim   : Vector (Option (OpenRec × W64)) 64
  /-- CTX_CREATE counts of each handle since manufacture. -/
  creation  : Vector W32 64
  /-- Comparisons within the limit in a row, and FUR_NS at the last one (R412). -/
  good      : Nat
  lastNs    : W64
  /-- The period (calendar seconds div PERIOD_S) that the open records belong to. -/
  period    : W64
  /-- The Tally's image in its boot-store area. -/
  image     : Option FwImage
  deriving DecidableEq, Repr

/-- An SPDM connection on which nothing has been said. -/
def Spdm.initial : Spdm :=
  { version := none, caps := false, algorithms := false, transfer := 0, transcript := [], deferred := none, sending := none,
    getting := none, answer := [] }

/-- The root of trust after reset (Tables 17-9 to 17-13), with the images its boot store holds. -/
def Sec.initial (rot ctrl : FwSlots) : Sec :=
  { bootError := 0, ctrlSlot := false, rotSlot := false, unlockFails := 0, scrubPending := false,
    debugUnlocked := false, fwAddr := 0, fwLength := 0, fwStatus := 0, fwKind := 0, eid := 0, rot := rot, ctrl := ctrl,
    rotRun := none, ctrlRun := none, tallyDigest := 0, log := [], logSeq := 0, challenge := none, tapOut := [], debugKey := false,
    hbmLocked := false, selfTestBad := false, fuseReadBad := false, extest := none, pcie := .initial, i3c := .initial }

/-- The Tally after power-up with an empty chain (Table 18-4). -/
def Tally.initial (image : Option FwImage) : Tally :=
  { state := .boot, version := 0, cmdStatus := 0, next := 0, acked := 0, cmdAddr := 0, cmdArg := 0, count := 0,
    unattributed := 0, entries := [], prev := 0, open_ := Vector.replicate 64 none,
    interim := Vector.replicate 64 none, creation := Vector.replicate 64 0, good := 0, lastNs := 0, period := 0,
    image := image }

end Sys2Proof.Machine
end

