-- ==== Sys2Proof/Machine/StateText.lean ====
section
/-! DEFINITION. The state of loaded tokenizers (chapter 11), generator plans, generation requests and their steps
(chapter 12), and of a running merge (chapter 08). -/

namespace Sys2Proof.Machine

/-- A started MERGE: whether it waits under WAIT_DUE (Table 08-4). -/
structure MergeWork where
  waiting : Bool
  deriving DecidableEq, Repr

/-- A started GENERATE at the root (R270–R280): the plan and cache it runs on now, its PARAMS block and prompt, the tokens it still
has to prefill, those it has emitted, the drafts for its next step, the detokenizer's held bytes and the text bytes written; the
tokens it had emitted when it switched to its fallback; a commit of it is under way, and a cancel came in meanwhile. -/
structure GenWork where
  plan       : W32
  cache      : Nat
  params     : List Byte
  prompt     : List Nat
  todo       : List Nat
  emitted    : List Nat
  drafts     : List Nat
  held       : List Byte
  textLen    : Nat
  switched   : Option Nat
  committing : Bool
  cancel     : Bool
  deriving DecidableEq, Repr

/-- One row of a step (Table 12-4). -/
structure StepRow where
  cache  : Nat
  pos    : Nat
  base   : Nat
  token  : Nat
  req    : Nat
  sample : Option Nat
  deriving DecidableEq, Repr

/-- One request's share in a step: its rows, its first sampled row and how many it has, its drafts, and the prompt tokens among its
rows (0 in decode); L, and the engine time that members have reported for it. -/
structure StepPart where
  tag     : Tag
  rows    : Nat
  first   : Nat
  samples : Nat
  drafts  : List Nat
  prefill : Nat
  len     : Nat
  deriving DecidableEq, Repr

/-- What a commit gives one request (R274): the cache's new COMMITTED and PENDING, the tokens emitted, and a failure that ends it. -/
structure StepCommit where
  tag       : Tag
  cache     : Nat
  committed : Nat
  pending   : W32
  toks      : List Nat
  part      : StepPart
  fail      : Option Ending
  deriving DecidableEq, Repr

/-- A step of a plan on one furrow (R270; log 52): one at a time in a context. -/
structure StepWork where
  h       : Handle
  plan    : W32
  rows    : List StepRow
  sampled : Nat
  parts   : List StepPart
  /-- How this furrow's run of the step program ended. -/
  ended   : Option Ending
  /-- A member has told the furrow above it that everything below and itself is over; at the root, every member has. -/
  told    : Bool
  /-- The step has failed or was abandoned: nothing of it is committed. -/
  failed  : Bool
  /-- The commit, once it has begun (R276). -/
  commits : Option (List StepCommit)
  /-- A member has been told to give the step up. -/
  quit    : Bool
  deriving DecidableEq, Repr

/-- A step without one request's share. -/
def StepWork.drop (w : StepWork) (h : Handle) (tag : Tag) : StepWork :=
  if w.h = h then { w with parts := w.parts.filter fun p => p.tag ≠ tag } else w

/-- A loaded tokenizer: its context, its handle 1–16, where its image lies, and the TOTAL that its load checked (R240–R242). -/
structure TokBind where
  h    : Handle
  n    : W32
  tier : Nat
  off  : Nat
  total : Nat
  deriving DecidableEq, Repr

/-- A loaded generator plan: its context, its handle, and its image's offset in the context's HBM region (R263, R265). -/
structure PlanBind where
  h   : Handle
  n   : W32
  off : Nat
  deriving DecidableEq, Repr

end Sys2Proof.Machine
end

