-- ==== Sys2Proof/Machine/StateUnits.lean ====
section
/-! DEFINITION. The state of the search slots (chapters 06, 08, 10), the embedding-table slots (chapter 13), the attach
table (chapter 14), the Poryar fabric and spans (chapter 16), and the headland (chapters 01, 02, 19, 20). -/

namespace Sys2Proof.Machine

/-- SRCH_SLOT_STATUS.STATE (Table 06-8) and TBL_CFG.STATE (Table 13-2). -/
inductive SlotState
  | idle
  | serving
  | draining
  deriving DecidableEq, Repr

/-- A held view of a shard: the request that holds it, and the counts it took at its start (R159, R185). -/
structure View where
  h        : Handle
  tag      : Tag
  merge    : Bool
  snapshot : W64
  nodes    : W32
  sideHead : W32
  sideTail : W32
  /-- The storage that its walk keeps in a cluster SRAM unit: T1 address and bytes (R162). -/
  room     : Nat × Nat
  deriving DecidableEq, Repr

/-- One search slot (Tables 06-7 to 06-14), with its passage-store registers (Tables 10-1 to 10-3). -/
structure SearchSlot where
  shardId    : W16
  owner      : Byte
  degree     : BitVec 2
  codeLen    : BitVec 2
  enable     : Bool
  error      : Byte
  sideFull   : Bool
  mergeRunning : Bool
  mergeDue   : Bool
  state      : SlotState
  nodeBase   : BitVec 36
  entryBase  : BitVec 36
  tombBase   : BitVec 36
  sideBase   : BitVec 36
  dlogBase   : BitVec 36
  idBase     : BitVec 40
  nodeCap    : W32
  nodeCount  : W32
  trigger    : W32
  sideLog    : BitVec 5
  sideHead   : W32
  sideTail   : W32
  dlogHead   : W32
  dlogTail   : W32
  epoch      : W64
  badEdges   : W32
  /-- The floor (R183), and whether a SHARD_RESTORE set it since the reset. -/
  floor      : W64
  restored   : Bool
  views      : List View
  /-- The descriptors that have started on the slot, in start order: the request's fetch order and the descriptor's index (R155, R179). -/
  users      : List (Nat × Nat)
  psDim      : W16
  psFmt      : BitVec 4
  psEn       : Bool
  psVec      : BitVec 36
  psDir      : BitVec 36
  deriving DecidableEq, Repr

/-- How far a migration has come (R302). -/
inductive MigStage
  /-- The row is being read from CUR, or written to NEXT, for the first time. -/
  | reading
  | writing
  /-- The copy is made; updates still go to CUR. -/
  | copied
  /-- New updates are held; the row is read again, or written again. -/
  | rereading
  | rewriting
  deriving DecidableEq, Repr

/-- A migration of one row of a table (R302). -/
structure Migration where
  row     : W32
  target  : W16
  slot    : W16
  /-- The request that started it, or none for an automatic one. -/
  owner   : Option (Handle × Tag)
  stage   : MigStage
  /-- The row changed after its copy and must be replayed. -/
  dirty   : Bool
  /-- A message to the members has not been answered. -/
  asked   : Bool
  /-- The row as last read. -/
  data    : List Byte
  deriving DecidableEq, Repr

/-- A reference that a request holds to a table's version, with the route snapshot of a gather (R296, R298). -/
structure TblHold where
  h        : Handle
  tag      : Tag
  version  : W32
  snapshot : Option W64
  deriving DecidableEq, Repr

/-- One embedding-table slot (Table 13-2). -/
structure TableSlot where
  nshard   : W16
  shard    : W16
  owner    : BitVec 6
  error    : Byte
  state    : SlotState
  enable   : Bool
  rows     : W32
  dim      : W16
  code4    : Bool
  guest    : W16
  ratio    : Byte
  auto     : Bool
  logRoute : BitVec 5
  curVersion : W32
  curRefs  : W32
  oldVersion : W32
  oldDraining : Bool
  oldRefs  : BitVec 31
  curBase  : BitVec 36
  oldBase  : BitVec 36
  routeEpoch : W64
  reads    : W32
  migrations : W32
  /-- Row reads in the present window, by row (R301). -/
  window   : List (Nat × Nat)
  /-- Guest slots in use, by shard and slot; one that a switch has left is free when no gather holds a snapshot below the epoch
  (R302). -/
  guests   : List (Nat × Nat × Option Nat)
  /-- References of the running requests (R296). -/
  holds    : List TblHold
  migration : Option Migration
  /-- An abandoned migration has asked the members for something that they have not answered (R302). -/
  stale    : Bool
  deriving DecidableEq, Repr

/-- One entry of the attach table (R321). -/
structure Attached where
  h      : Handle
  id     : W32
  record : W64
  /-- Segments that a write-back or a forced fetch of a request has in flight and that no write has reached since (R324). -/
  flight : List (Tag × Nat)
  deriving DecidableEq, Repr

/-- A slice of a descriptor's W in a half of its context's weight window (R328): for which request, which half, from which offset of the
context's HBM region to which offset of its T1 space, and its bytes. -/
structure WindowCopy where
  h    : Handle
  tag  : Tag
  half : Nat
  src  : Nat
  dst  : Nat
  len  : Nat
  deriving DecidableEq, Repr

/-- PYR_PORT_STATUS.STATE (Table 16-12). -/
inductive PortState
  | off
  | down
  | training
  | up
  | degraded
  | dark
  deriving DecidableEq, Repr

/-- A data flit sent and not yet acknowledged (R363), with the whole packets it completes or begins (R370). -/
structure SentFlit where
  seq     : W16
  vc      : BitVec 2
  payload : List Byte
  carries : List Packet
  deriving DecidableEq, Repr

/-- One port of the fabric (Tables 16-12, 16-13) with its link layer (R362–R364, R370). -/
structure Port where
  dateline : Bool
  autoUp   : Bool
  enable   : Bool
  peerId   : FabricId
  peerPort : BitVec 4
  lanes    : BitVec 4
  idClash  : Bool
  stalled  : Bool
  losSeen  : Bool
  laserLow : Bool
  state    : PortState
  corrected   : W32
  uncorrected : W32
  crcFail  : W32
  replayed : W32
  /-- SEQ of the next data flit to send, and the next expected from the peer. -/
  txSeq    : W16
  rxSeq    : W16
  unacked  : List SentFlit
  /-- A data flit was refused and every flit is discarded until the expected one arrives (R363). -/
  nakked   : Bool
  /-- Credits held, in 64 B units, by VC and class (index 2 × VC + class). -/
  credits  : Vector Nat 8
  /-- Cumulative units freed by the peer, as last reported, by VC. -/
  peerFreed : Vector W16 4
  /-- Cumulative units this end has freed, by VC. -/
  freed    : Vector W16 4
  /-- Packets that wait for credits, oldest first. -/
  queue    : List Packet
  /-- FUR_NS since which a VC's first packet has had no credit (R368). -/
  waitSince : Vector (Option W64) 4
  /-- Packet bytes received of an unfinished packet, by VC. -/
  partRx   : Vector (List Byte) 4
  /-- Since the port left UP or DEGRADED: FUR_NS, the peer it had, and the flits held for its fence (R370). -/
  fence    : Option (W64 × FabricId × List SentFlit)
  /-- NAK and idle flits sent (kind of the last one). -/
  nakSent  : Bool
  /-- FUR_NS since which light has been present on every lane, and of the last flit whose CHECK passed. -/
  lightSince : Option W64
  lastFlit : W64
  deriving DecidableEq, Repr

/-- A routing-table entry (Table 16-13). -/
structure Route where
  valid     : Bool
  primary   : BitVec 4
  alternate : BitVec 4
  deriving DecidableEq, Repr

/-- A transaction over the fabric that has not been answered (R371): its request, where it went, and when. -/
structure Outstanding where
  tag   : W32
  h     : Handle
  req   : Tag
  dest  : FabricId
  kind  : Byte
  /-- For a read: its length, the bytes still to come, what has come, and where it goes. -/
  len   : Nat
  left  : Nat
  got   : List Host.Cell
  dst   : Spot
  /-- The remote address the transaction named. -/
  raddr : Nat
  since : W64
  deriving DecidableEq, Repr

/-- One entry of a root's member table (R374) with what the root has heard of it (R377). -/
structure MemberEntry where
  id       : FabricId
  furrows  : W32
  first    : W32
  lastEcho : W64
  lost     : Bool
  /-- The fabric identifiers the entry stands for, in flat order, each with the span its context is bound to (R375; log 35). -/
  stands   : List (FabricId × W32)
  deriving DecidableEq, Repr

/-- One span binding of a context of this furrow (R373–R377). -/
structure SpanBind where
  h        : Handle
  /-- Root side: the member table; empty on a member. -/
  entries  : List MemberEntry
  /-- Member side: ROOT_ID, MEMBER, CHILD, and FUR_NS of the last beat. -/
  rootId   : FabricId
  number   : W32
  child    : W32
  lastBeat : W64
  /-- The binding has been recorded (R375, step 5). -/
  recorded : Bool
  /-- Root side: FUR_NS of the last beat sent. -/
  sentBeat : W64
  /-- Member side: the cores that linked runs of the root have pinned here, by the root's tag, between their descriptors (R475). -/
  pins     : List (Tag × List (ClusterIx × Fin 8))
  /-- Root side: the pieces of a change that a member's own span asks for, and the member and tag it waits under with the identifiers to
  come, while the span above is asked (R22, log 85). -/
  asking   : List Packet
  asked    : Option (FabricId × W32 × List (FabricId × W32))
  deriving DecidableEq, Repr

/-- The Poryar block of one furrow (Tables 16-10 to 16-13). -/
structure Poryar where
  module_  : BitVec 13
  enabled  : Bool
  fenceUs  : W16
  beatMs   : Byte
  lostBeats : Byte
  stallMs  : Byte
  ports    : Vector Port 10
  /-- Routing entries that differ from the reset value (Table 16-13), by identifier. -/
  routes   : List (FabricId × Route)
  txs      : List Outstanding
  /-- Writes whose request is over, and which have not been answered (Table 02-21, BARRIER). -/
  orphans  : List Outstanding
  nextTag  : W32
  /-- Packets delivered here and not yet taken by the command of their kind. -/
  inbox    : List Packet
  spans    : List SpanBind
  deriving DecidableEq, Repr

/-- One MSI-X vector (R63, R64): the function's mask and pending bits, the records since it last fired, the oldest of
them, when it last fired, and the messages sent. -/
structure Msix where
  addr    : W64
  data    : W32
  masked  : Bool
  pendingBit : Bool
  since   : Nat
  oldest  : W64
  lastFire : Option W64
  sent    : Nat
  /-- The PASID that the last message carried (R33). -/
  carried : Option (BitVec 20)
  deriving DecidableEq, Repr

/-- The latest readings of one non-core regulator (Table 20-10, HDL_PMB_RAIL_k). -/
structure PmbRail where
  voutMv : W16
  ioutDa : W16
  temp   : Byte
  status : W16
  stale  : Bool
  deriving DecidableEq, Repr

/-- The headland: module registers (Tables 02-5, 19-9, 20-10), its shadow copy of each furrow's identity and state registers (R14), PF0's
vectors,
and the pins and supplies it supervises (R444–R446, R456, R457, R459). -/
structure Headland where
  lostMap    : Byte
  /-- The shadow copy of each furrow's FUR_ID and FUR_STATE, as the furrow last reported them (Table 01-1, R14; log 75). -/
  shadowId   : Vector W64 8
  shadowState : Vector W64 8
  discarded  : Vector W32 9
  ones       : Vector W32 9
  replaceMap : Byte
  fault      : Bool
  /-- The headland has failed (R13). -/
  failed     : Bool
  moduleW    : W16
  tj         : Byte
  tripMap    : Byte
  attnShort  : Bool
  tripShort  : Bool
  thermtrip  : Bool
  pmbAddr    : W32
  pmb        : Vector PmbRail 4
  /-- Polls in a row that each regulator has not answered (R443). -/
  pmbSince   : Vector Nat 4
  /-- PMB_ALERT_N has started status polling (R469). -/
  alert      : Bool
  msix       : Vector Msix 4
  /-- HDL_VR_EN is high; the PCIe port runs; the clear of HDL_VR_EN holds until VAUX is removed (R457). -/
  hdlVrEn    : Bool
  portUp     : Bool
  hdlTripped : Bool
  vaux       : Bool
  vbat       : Bool
  mainPower  : Bool
  /-- PERST# is asserted. -/
  perst      : Bool
  /-- The answer to the last host read that a command models (R14, R16, R35). -/
  readData   : W64
  deriving DecidableEq, Repr

/-- A search slot after reset (Tables 06-7 to 06-14, 10-1 to 10-3). -/
def SearchSlot.initial : SearchSlot :=
  { shardId := 0, owner := 0, degree := 0, codeLen := 0, enable := false, error := 0, sideFull := false,
    mergeRunning := false, mergeDue := false, state := .idle, nodeBase := 0, entryBase := 0, tombBase := 0,
    sideBase := 0, dlogBase := 0, idBase := 0, nodeCap := 0, nodeCount := 0, trigger := 0x00100000, sideLog := 0x14,
    sideHead := 0, sideTail := 0, dlogHead := 0, dlogTail := 0, epoch := 0, badEdges := 0, floor := 0,
    restored := false, views := [], users := [], psDim := 0, psFmt := 0, psEn := false, psVec := 0, psDir := 0 }

/-- A table slot after reset (Table 13-2). -/
def TableSlot.initial : TableSlot :=
  { nshard := 1, shard := 0, owner := 0, error := 0, state := .idle, enable := false, rows := 0, dim := 0, code4 := false,
    guest := 0, ratio := 0x18, auto := false, logRoute := 0, curVersion := 0, curRefs := 0, oldVersion := 0,
    oldDraining := false, oldRefs := 0, curBase := 0, oldBase := 0, routeEpoch := 0, reads := 0, migrations := 0,
    window := [], guests := [], holds := [], migration := none, stale := false }

/-- A port after reset (Tables 16-12, 16-13): OFF. -/
def Port.initial : Port :=
  { dateline := false, autoUp := true, enable := false, peerId := 0, peerPort := 0, lanes := 0, idClash := false,
    stalled := false, losSeen := false, laserLow := false, state := .off, corrected := 0, uncorrected := 0, crcFail := 0,
    replayed := 0, txSeq := 0, rxSeq := 0, unacked := [], nakked := false, credits := Vector.replicate 8 0,
    peerFreed := Vector.replicate 4 0, freed := Vector.replicate 4 0, queue := [],
    waitSince := Vector.replicate 4 none, partRx := Vector.replicate 4 [], fence := none, nakSent := false,
    lightSince := none, lastFlit := 0 }

/-- The Poryar block after reset (Tables 16-10 to 16-13). -/
def Poryar.initial : Poryar :=
  { module_ := 0, enabled := false, fenceUs := 0x01F4, beatMs := 0x0A, lostBeats := 3, stallMs := 0x0A,
    ports := Vector.replicate 10 .initial, routes := [], txs := [], orphans := [], nextTag := 0, inbox := [], spans := [] }

/-- A vector after reset: masked, as MSI-X has it (PRESUMED, log 15). -/
def Msix.initial : Msix :=
  { addr := 0, data := 0, masked := true, pendingBit := false, since := 0, oldest := 0, lastFire := none, sent := 0, carried := none }

/-- A regulator not yet read (Table 20-10). -/
def PmbRail.initial : PmbRail := { voutMv := 0, ioutDa := 0, temp := 0, status := 0, stale := false }

/-- FUR_ID as a furrow has it fused (Table 01-3). -/
def shadowIdOf (f : FurrowIx) : W64 :=
  BitVec.ofNat 64 (0x0832 * 2 ^ 48 + (Config.stepping f).toNat * 2 ^ 40 + f.val)

/-- The headland after reset, PERST# still asserted, every supply on (Tables 02-5, 19-9, 20-10; DESIGN CHOICE, log 16). -/
def Headland.initial : Headland :=
  { lostMap := 0, shadowId := Vector.ofFn shadowIdOf, shadowState := Vector.replicate 8 0, discarded := Vector.replicate 9 0, ones := Vector.replicate 9 0, replaceMap := 0, fault := false,
    failed := false, moduleW := 0, tj := 0, tripMap := 0, attnShort := false, tripShort := false, thermtrip := false,
    pmbAddr := 0, pmb := Vector.replicate 4 .initial, pmbSince := Vector.replicate 4 0, alert := false,
    msix := Vector.replicate 4 .initial, hdlVrEn := true, portUp := false, hdlTripped := false, vaux := true,
    vbat := true, mainPower := true, perst := true, readData := 0 }

end Sys2Proof.Machine
end

