-- ==== Sys2Proof/Machine/State.lean ====
section
/-! DEFINITION. The state of the whole module: eight furrows, the headland, the host's memory, and the queue of waiting
commands; with the state after reset, and the reasons a command can stop. -/

namespace Sys2Proof.Machine

/-- What a core or a text engine serves (R17, R78): the context it works for, and the choice that takes effect at the next
pre-emption boundary. -/
structure Serve where
  now  : Option Handle
  next : Option Handle
  /-- FUR_NS at which `next` was chosen, and the highest throttle level in force since (R80). -/
  since : W64
  top   : BitVec 4
  deriving DecidableEq, Repr

/-- A place that serves nobody. -/
def Serve.idle : Serve := ⟨none, none, 0, 0⟩

/-- A place that serves a context, without another choice. -/
def Serve.only (h : Handle) : Serve := ⟨some h, none, 0, 0⟩

/-- A throttle level comes into force: a choice that waits for its boundary keeps the highest (R80). -/
def Serve.raise (x : Serve) (level : BitVec 4) : Serve := { x with top := if x.top < level then level else x.top }

/-- A request of a context, from its fetch until its final record is posted (R53–R60). On a span's member it is the
member's part of the root's request, and ends with SPAN_DONE in place of a record (R376). -/
structure Request where
  h        : Handle
  tag      : Tag
  /-- Fetch order on the furrow. -/
  order    : Nat
  /-- The count of its first descriptor in the submission ring (R51). -/
  first    : W32
  /-- The descriptors fetched so far, 64 bytes each. -/
  descs    : List (List Byte)
  idx      : Nat
  phase    : Phase
  fetchNs  : W64
  firstNs  : Option W64
  lastNs   : W64
  worstNs  : W64
  /-- The last two steps, newest first (R87). -/
  lastSteps : List W64
  engineNs : W64
  /-- The fraction of a nanosecond that its shares of shared engines have left over, in units of 2⁻³² (R81; log 79). -/
  engFrac  : Nat
  /-- ns left of a selection's key pass, which is charged as VECTOR (R215). -/
  keyNs    : Nat
  /-- What Table 03-11 keeps of its engines in the context's units at a pre-emption: the index reached in each class (R80; log 80). -/
  kept     : List (EngClass × W64)
  /-- Estimated engine time, ns (R82). -/
  estimate : Nat
  estClass : EngClass
  uses     : List EngUse
  cancelNs : Option W64
  /-- LATE, as measured when the end was registered (R60, R85). -/
  late     : Bool
  widened  : Bool
  nested   : Bool
  throttled : Bool
  /-- The cores pinned for TIER 0 and SCOPE 0, as (cluster, core in cluster) (R475). -/
  pinned   : List (ClusterIx × Fin 8)
  /-- The place the present descriptor was dispatched to. -/
  place    : Option Place
  /-- The cores whose scratch the present move names: it runs while they serve the context (R311, R309). -/
  needs    : List CoreIx
  /-- The running descriptor has done its work and ends so once its Granary blocks and fabric transactions are done. -/
  await    : Option Ending
  /-- FUR_NS at which it began to wait for a Granary slot (R345). -/
  waitNs   : Option W64
  /-- The Granary blocks its present descriptor has asked slots for (R345). -/
  asked    : Nat
  /-- Bytes of measured destinations here that other members still write, and the extents that a move measures here when it is
  done: in T1, offset, length (R394, R395). -/
  owed     : Nat
  measures : List (Bool × Nat × Nat)
  /-- What the present descriptor leaves undefined here when it is cut off: core, tier, offset, length (R89). -/
  outs     : List (Nat × Nat × Nat × Nat)
  /-- How far a member's part of a gathering has come: 0 before its contribution went up. -/
  stage    : Nat
  /-- Root of a span: the members that have not acknowledged, those that have not finished, GO sent, and the worst
  answer so far (R376). -/
  acks     : List FabricId
  dones    : List FabricId
  goSent   : Bool
  memberEnds : List (FabricId × Ending)
  /-- Member of a span: the root's identifier and its request tag (R376). -/
  origin   : Option (FabricId × Tag)
  /-- Member of a span: the flat number of the span's root in the span the request was submitted to (R374). -/
  base     : Nat
  /-- Member of a span: the operand bytes that the root carried with the descriptor (R376). -/
  carried  : List Byte
  /-- The root has sent GO for this part. -/
  gone     : Bool
  /-- Collective contributions that have arrived (R381). -/
  contrib  : List Packet
  /-- The rows of the batch of a scatter-add that is out to members (R300, R302). -/
  batch    : List W32
  gen      : Option GenWork
  merge    : Option MergeWork
  /-- The QUIET flag stands in its first descriptor; a final record has been moved to the holding queue. -/
  posted   : Bool
  /-- A context's mailbox and no request of a ring (log 52). -/
  isBox    : Bool
  deriving DecidableEq, Repr

/-- The registers, tables, queues and counters of one furrow; its memories and fuses stand beside it in State. -/
structure Furrow where
  life     : FurState
  ns       : W64
  /-- Position in the 6, 7, 6, 7, 6 pattern of R26. -/
  refCycle : Fin 5
  /-- PASID is enabled for the furrow's function (R33; log 76). -/
  pasidEn  : Bool
  /-- Latched high halves of R16, by register offset. -/
  latches  : List (BitVec 24 × W32)
  /-- A quantum boundary has fallen and its choices have not been made (R78). -/
  boundaryDue : Bool
  quanta   : Nat
  ctx      : Vector Context 64
  /-- Owner of each cluster SRAM unit, unit 16 × c + u (R19); handle 0 holds one in each cluster after reset (R70). -/
  t1Owner  : Vector (Option Handle) 128
  reqs     : List Request
  order    : Nat
  cores    : Vector Serve 64
  texts    : Vector Serve 8
  msix     : Vector Msix 65
  err      : ErrRing
  bist     : Bist
  health   : Health
  /-- The two copies of the health record; a copy whose CRC fails is none (R436). -/
  healthA  : Option Health
  healthB  : Option Health
  recordFail : Bool
  counts   : ErrCounts
  age      : Ageing
  pwr      : Power
  cal      : Calendar
  sec      : Sec
  tally    : Tally
  grn      : Granary
  pyr      : Poryar
  srch     : Vector SearchSlot 8
  tbl      : Vector TableSlot 16
  attached : List Attached
  /-- TIER_WINDOW of each handle: EN and WIN (Table 14-8). -/
  winEn    : Vector Bool 64
  winSize  : Vector (BitVec 5) 64
  /-- What the halves of the weight windows hold for descriptors that come next (R328; log 87). -/
  windows  : List WindowCopy
  toks     : List TokBind
  /-- TXT_LOAD_STATUS of each handle (Table 11-5). -/
  tokStatus : Vector (W32 × Byte) 64
  plans    : List PlanBind
  ptOffset : Vector (BitVec 36) 64
  ptLog    : Vector (BitVec 5) 64
  ptPaused : Vector (BitVec 17) 64
  steps    : List StepWork
  /-- Where the HBM images of a context's pauses lie: OFFSET, SHIFT and the place (R282, R284; log 60). -/
  peers    : List (Handle × Nat × Nat × Spot)
  /-- The places of images whose pause has not come to its end: they are invalid (R282; log 89). -/
  halfImages : List (Handle × Spot)
  lastSweep : W64
  lastWindow : W64
  /-- The loss sequencer has taken the furrow offline, with this cause (R429). -/
  lossCause : Option Byte
  deriving DecidableEq, Repr

/-- The three memories of a furrow (Table 01-8): HBM by byte offset, cluster SRAM by (16 × cluster + unit) MiB plus the
offset in the unit, and core scratch by core × 2 MiB plus the offset in the scratch. -/
structure FurMem where
  hbm : Mem
  t1  : Mem
  t0  : Mem
  deriving DecidableEq, Repr

/-- The module. -/
structure State where
  host  : Mem
  mems  : Vector FurMem 8
  fuses : Vector Fuses 8
  fur   : Vector Furrow 8
  hdl   : Headland
  /-- The model's own counter: how many free values have been drawn (log 5). -/
  fresh : Nat
  /-- The commands that are waiting, first in, first out. -/
  pending : List Instr
  deriving DecidableEq, Repr

/-- No command of this model ends in a fault: every effect the spec gives is a next state. The type is inhabited only by
the stop that an empty name would need. -/
inductive Fault
  /-- Raised by no command; kept so that the type has a value. Safe: a stop claims nothing. -/
  | none
  deriving DecidableEq, Repr

/-- Why the model refuses a command. -/
inductive Refusal
  /-- A command whose meaning is not modelled, by its mnemonic. Raised by Dispatch only. Safe: a stop claims nothing. -/
  | notModelled (mnemonic : String)
  deriving DecidableEq, Repr

/-- The unit owners after reset: handle 0 holds unit 0 of each cluster (R70; which of the sixteen is log 17), every other
unit is held by no context. -/
def unitsAtReset : Vector (Option Handle) 128 :=
  Vector.ofFn fun u => if u.val % 16 = 0 then some 0 else none

/-- The images a part leaves Dalril with. -/
def factorySlots (image : List Byte × List Byte) : FwSlots := { a := some ⟨image.1, image.2⟩, b := none }

/-- A furrow right after reset: RESET, every register at its Reset value, every context but handle 0 FREE (R448). -/
def Furrow.initial (f : FurrowIx) : Furrow :=
  { life := .reset, ns := 0, refCycle := 0, pasidEn := false, latches := [], boundaryDue := false, quanta := 0,
    ctx := (Vector.replicate 64 Context.initial).set 0 Context.management, t1Owner := unitsAtReset, reqs := [],
    order := 0, cores := Vector.replicate 64 .idle, texts := Vector.replicate 8 .idle,
    msix := Vector.replicate 65 .initial, err := .initial, bist := .initial, health := .fresh, healthA := some .fresh,
    healthB := none, recordFail := false, counts := .initial, age := .initial,
    pwr := .initial (BitVec.ofNat 16 (Config.vnom f)), cal := .initial,
    sec := .initial (factorySlots (Config.factoryRot f)) (factorySlots (Config.factoryCtrl f)),
    tally := .initial (some ⟨(Config.factoryTally f).1, (Config.factoryTally f).2⟩),
    grn := .initial .blank, pyr := .initial, srch := Vector.replicate 8 .initial,
    tbl := Vector.replicate 16 .initial, attached := [], winEn := Vector.replicate 64 false,
    winSize := Vector.replicate 64 0, windows := [], toks := [], tokStatus := Vector.replicate 64 (0, 0), plans := [],
    ptOffset := Vector.replicate 64 0, ptLog := Vector.replicate 64 0, ptPaused := Vector.replicate 64 0, steps := [], peers := [], halfImages := [],
    lastSweep := 0, lastWindow := 0, lossCause := none }

/-- The fuses of a part that has left Dalril: PRODUCTION, and the values fused at manufacture (Table 17-1). -/
def Fuses.initial (f : FurrowIx) : Fuses :=
  { lifecycle := 0x1, debugOpen := Config.debugOpenFused f, keyRevoke := Config.keyRevokeFused f,
    svnRot := BitVec.ofNat 64 (2 ^ (Config.svnRotFused f).val - 1),
    svnCtrl := BitVec.ofNat 64 (2 ^ (Config.svnCtrlFused f).val - 1) }

/-- The module right after reset: every furrow in RESET, no memory byte listed, no command waiting. -/
def State.reset : State :=
  { host := [], mems := Vector.replicate 8 { hbm := [], t1 := [], t0 := [] },
    fuses := #v[.initial 0, .initial 1, .initial 2, .initial 3, .initial 4, .initial 5, .initial 6, .initial 7],
    fur := #v[.initial 0, .initial 1, .initial 2, .initial 3, .initial 4, .initial 5, .initial 6, .initial 7],
    hdl := .initial, fresh := 0, pending := [] }

end Sys2Proof.Machine
end

