-- ==== Sys2Proof/Machine/Ops.lean ====
section
/-! DEFINITION. The named operations over memories, bytes and state parts that every meaning is written with. A meaning
works on a Run: the state as it stands, with the evidence that it was reached from the command's first state by elementary
acts alone. The acts are the only ways a command changes the module: bytes of a memory, the control part of one furrow, the
headland, a fuse blown, a free value drawn. None of them touches the queue of waiting commands. -/

namespace Sys2Proof.Machine

/-! ### Bytes and numbers (R3, R4) -/

/-- The little-endian number that bytes spell (R3). -/
def leNat : List Byte → Nat
  | [] => 0
  | b :: bs => b.toNat + 256 * leNat bs

/-- The n bytes of a number, little-endian (R3). -/
def leBytes : Nat → Nat → List Byte
  | 0, _ => []
  | n + 1, v => BitVec.ofNat 8 v :: leBytes n (v / 256)

/-- n zero bytes. -/
def zeros (n : Nat) : List Byte := List.replicate n 0

/-- The n bytes of a list from an offset; bytes past its end read zero. -/
def bytesAt (bs : List Byte) (off n : Nat) : List Byte :=
  ((bs.drop off).take n) ++ zeros (n - ((bs.drop off).take n).length)

/-- The little-endian field of n bytes at an offset of a byte list. -/
def fieldAt (bs : List Byte) (off n : Nat) : Nat := leNat ((bs.drop off).take n)

/-- Bits [hi:lo] of a number (R4). -/
def bitsOf (v hi lo : Nat) : Nat := (v >>> lo) % 2 ^ (hi - lo + 1)

/-- A truth value as a bit. -/
def bit (b : Bool) : Nat := if b then 1 else 0

/-- ⌈a / b⌉. -/
def ceilDiv (a b : Nat) : Nat := (a + (b - 1)) / b

/-- One step of CRC-32C over a bit (reflected, polynomial 0x1EDC6F41; log 8). -/
def crcBit (c : Nat) : Nat := if c % 2 = 1 then (c >>> 1) ^^^ 0x82F63B78 else c >>> 1

/-- CRC-32C of a byte list (log 8). -/
def crc32c (bs : List Byte) : Nat :=
  (bs.foldl (fun c b =>
    crcBit (crcBit (crcBit (crcBit (crcBit (crcBit (crcBit (crcBit (c ^^^ b.toNat))))))))) 0xFFFFFFFF) ^^^ 0xFFFFFFFF

/-- The 64 bytes of a 512-bit value, first byte least significant. -/
def bytes64 (v : BitVec 512) : List Byte := leBytes 64 v.toNat

/-- The 32 bytes of a 256-bit value. -/
def bytes32 (v : BitVec 256) : List Byte := leBytes 32 v.toNat

/-! ### Sparse memories -/

/-- The byte at an address. -/
def Mem.get (m : Mem) (a : Nat) : Byte :=
  match m with
  | [] => 0
  | (k, b) :: rest => if k = a then b else Mem.get rest a

/-- The memory with one byte replaced, in canonical form: an address holding zero is not listed. -/
def Mem.set (m : Mem) (a : Nat) (v : Byte) : Mem :=
  match m with
  | [] => if v = 0 then [] else [(a, v)]
  | (k, b) :: rest =>
    if a < k then (if v = 0 then (k, b) :: rest else (a, v) :: (k, b) :: rest)
    else if a = k then (if v = 0 then rest else (a, v) :: rest)
    else (k, b) :: Mem.set rest a v

/-- The canonical form: strictly rising addresses above a bound, and no zero byte. -/
def Mem.wfFrom : Option Nat → Mem → Bool
  | _, [] => true
  | lo, (k, b) :: rest => (match lo with | none => true | some l => decide (l < k)) && b != 0 && Mem.wfFrom (some k) rest

/-- The canonical form of a memory. -/
def Mem.wf (m : Mem) : Bool := Mem.wfFrom none m

/-- The bytes of a range. -/
def Mem.read (m : Mem) (a n : Nat) : List Byte := (List.range n).map fun i => m.get (a + i)

/-- The memory with the bytes of a list stored from an address. -/
def Mem.write (m : Mem) (a : Nat) : List Byte → Mem
  | [] => m
  | b :: bs => Mem.write (m.set a b) (a + 1) bs

/-- The listed bytes of a range, by their offset in it. -/
def Mem.slice (m : Mem) (a n : Nat) : List Host.Cell :=
  (m.filter fun c => decide (a ≤ c.1 ∧ c.1 < a + n)).map fun c => (c.1 - a, c.2)

/-- The memory with a whole range replaced: each byte of the range becomes what the cells give for its offset, or zero. -/
def Mem.paste (m : Mem) (a n : Nat) (img : List Host.Cell) : Mem :=
  (img.filter fun c => decide (c.1 < n)).foldl (fun m c => m.set (a + c.1) c.2)
    (m.filter fun c => !decide (a ≤ c.1 ∧ c.1 < a + n))

/-- Sparse cells as bytes. -/
def cellsToBytes (img : List Host.Cell) (n : Nat) : List Byte :=
  (List.range n).map fun i => ((img.find? fun c => c.1 = i).map (·.2)).getD 0

/-- Bytes as sparse cells. -/
def bytesToCells (bs : List Byte) : List Host.Cell :=
  (bs.zipIdx.filter fun p => p.1 != 0).map fun p => (p.2, p.1)

/-! ### The state's parts -/

/-- A memory of the module by where it is. -/
inductive Space
  | host
  | hbm (f : FurrowIx)
  | t1 (f : FurrowIx)
  | t0 (f : FurrowIx)
  deriving DecidableEq, Repr

/-- The contents of a memory. -/
def State.mem (s : State) : Space → Mem
  | .host => s.host
  | .hbm f => s.mems[f].hbm
  | .t1 f => s.mems[f].t1
  | .t0 f => s.mems[f].t0

/-- The state with a memory replaced. -/
def State.setMem (s : State) (sp : Space) (m : Mem) : State :=
  match sp with
  | .host => { s with host := m }
  | .hbm f => { s with mems := s.mems.set f { s.mems[f] with hbm := m } }
  | .t1 f => { s with mems := s.mems.set f { s.mems[f] with t1 := m } }
  | .t0 f => { s with mems := s.mems.set f { s.mems[f] with t0 := m } }

/-- The control part of a furrow. -/
def State.furrow (s : State) (f : FurrowIx) : Furrow := s.fur[f]

/-- The state with a furrow's control part replaced. -/
def State.setFurrow (s : State) (f : FurrowIx) (c : Furrow) : State := { s with fur := s.fur.set f c }

/-- A fuse word with the bits of another blown as well (Table 17-1). -/
def Fuses.burn (a b : Fuses) : Fuses :=
  { lifecycle := a.lifecycle ||| b.lifecycle, debugOpen := a.debugOpen ||| b.debugOpen,
    keyRevoke := a.keyRevoke ||| b.keyRevoke, svnRot := a.svnRot ||| b.svnRot, svnCtrl := a.svnCtrl ||| b.svnCtrl }

/-- The elementary acts. -/
inductive Act
  /-- Store bytes from an address. -/
  | write (sp : Space) (a : Nat) (bs : List Byte)
  /-- Replace a range by sparse cells. -/
  | paste (sp : Space) (a n : Nat) (img : List Host.Cell)
  /-- Set a whole memory to zero. -/
  | wipe (sp : Space)
  | furrow (f : FurrowIx) (c : Furrow)
  | headland (d : Headland)
  | burn (f : FurrowIx) (x : Fuses)
  /-- Draw free values. -/
  | draw (n : Nat)

/-- What an act does. -/
def Act.apply (s : State) : Act → State
  | .write sp a bs => s.setMem sp ((s.mem sp).write a bs)
  | .paste sp a n img => s.setMem sp ((s.mem sp).paste a n img)
  | .wipe sp => s.setMem sp []
  | .furrow f c => s.setFurrow f c
  | .headland d => { s with hdl := d }
  | .burn f x => { s with fuses := s.fuses.set f (s.fuses[f].burn x) }
  | .draw n => { s with fresh := s.fresh + n }

/-- A state reached from another by acts. -/
inductive Reached (s : State) : State → Prop
  | start : Reached s s
  | act {t : State} (h : Reached s t) (a : Act) : Reached s (a.apply t)

/-- A command at work: the state as it stands, reached from the command's first state by acts. -/
structure Run (s : State) where
  now  : State
  from_ : Reached s now

/-- The start of a command. -/
def Run.start (s : State) : Run s := ⟨s, .start⟩

variable {s₀ : State}

/-- One more act. -/
def Run.act (r : Run s₀) (a : Act) : Run s₀ := ⟨a.apply r.now, .act r.from_ a⟩

/-- The control part of a furrow as it stands. -/
def Run.fur (r : Run s₀) (f : FurrowIx) : Furrow := r.now.furrow f

/-- Replace the control part of a furrow. -/
def Run.setFur (r : Run s₀) (f : FurrowIx) (c : Furrow) : Run s₀ := r.act (.furrow f c)

/-- Change the control part of a furrow. -/
def Run.modFur (r : Run s₀) (f : FurrowIx) (g : Furrow → Furrow) : Run s₀ := r.setFur f (g (r.fur f))

/-- Change the headland. -/
def Run.modHdl (r : Run s₀) (g : Headland → Headland) : Run s₀ := r.act (.headland (g r.now.hdl))

/-- Store bytes. -/
def Run.write (r : Run s₀) (sp : Space) (a : Nat) (bs : List Byte) : Run s₀ := r.act (.write sp a bs)

/-- Replace a range by sparse cells. -/
def Run.paste (r : Run s₀) (sp : Space) (a n : Nat) (img : List Host.Cell) : Run s₀ := r.act (.paste sp a n img)

/-- The host port carries accesses: the headland has not failed, and its PCIe port runs (R13, R457). -/
def Headland.carries (d : Headland) : Bool := d.portUp && !d.failed

/-- Store bytes in host memory; with the host port lost they reach nothing (R13, log 75). -/
def Run.toHost (r : Run s₀) (a : Nat) (bs : List Byte) : Run s₀ := if r.now.hdl.carries then r.write .host a bs else r

/-- Set a range to zero. -/
def Run.zero (r : Run s₀) (sp : Space) (a n : Nat) : Run s₀ := r.paste sp a n []

/-- Draw a free value (log 5). -/
def Run.free (r : Run s₀) : W64 × Run s₀ := (Config.freeBits r.now.fresh, r.act (.draw 1))

/-- Draw n free bytes (log 5). -/
def Run.freeBytes (r : Run s₀) (n : Nat) : List Byte × Run s₀ :=
  ((List.range n).map fun i => (Config.freeBits (r.now.fresh + i)).extractLsb' 0 8, r.act (.draw n))

/-- Read bytes. -/
def Run.read (r : Run s₀) (sp : Space) (a n : Nat) : List Byte := (r.now.mem sp).read a n

/-- Read a little-endian field. -/
def Run.readNat (r : Run s₀) (sp : Space) (a n : Nat) : Nat := leNat (r.read sp a n)

/-- A command's answer. -/
def Run.done (r : Run s₀) : Host.Outcome State Fault Refusal := .next r.now

/-- Do the same work for each item of a list, first to last. -/
def Run.each {α : Type} (r : Run s₀) (xs : List α) (g : Run s₀ → α → Run s₀) : Run s₀ := xs.foldl g r

/-- Do work only where a condition holds. -/
def Run.when (r : Run s₀) (c : Bool) (g : Run s₀ → Run s₀) : Run s₀ := if c then g r else r

/-- The first element of a list with a property is dropped. -/
def dropOne {α : Type} (p : α → Bool) : List α → List α
  | [] => []
  | x :: xs => if p x then xs else x :: dropOne p xs

/-- The first element of a list with a property is changed. -/
def modOne {α : Type} (p : α → Bool) (g : α → α) : List α → List α
  | [] => []
  | x :: xs => if p x then g x :: xs else x :: modOne p g xs

/-! ### A furrow's parts -/

/-- A furrow answers register accesses: it is out of reset, and in recovery only its identity and security blocks (R390). -/
def Furrow.reachable (c : Furrow) (off : Nat) : Bool :=
  c.life != .reset && c.life != .lost &&
    (c.sec.bootError = 0 || off < 0x10000 || (decide (0x400000 ≤ off) && off < 0x500000))

/-- A host access to BAR0 or BAR2 of a furrow's function reaches the furrow: the host port carries it (R13), the headland does not mark
the furrow LOST (R14), and the furrow answers. -/
def State.reaches (s : State) (f : FurrowIx) (off : Nat) : Bool :=
  s.hdl.carries && !s.hdl.lostMap.getLsbD f.val && (s.furrow f).reachable off

/-- An access that R35 lets through: aligned, of 4 or 8 bytes. -/
def accessRegular (a : HostAccess) : Bool :=
  (a.size = 4 && a.off.toNat % 4 = 0) || (a.size = 8 && a.off.toNat % 8 = 0)

/-- A context of a furrow. -/
def Furrow.context (c : Furrow) (h : Handle) : Context := c.ctx[h]

/-- Change one context. -/
def Furrow.modCtx (c : Furrow) (h : Handle) (g : Context → Context) : Furrow :=
  { c with ctx := c.ctx.set h (g c.ctx[h]) }

/-- Change one context's rings. -/
def Furrow.modRings (c : Furrow) (h : Handle) (g : Rings → Rings) : Furrow :=
  c.modCtx h fun x => { x with rings := g x.rings }

/-- Change one block of a furrow. -/
def Furrow.modErr (c : Furrow) (g : ErrRing → ErrRing) : Furrow :=
  { c with err := g c.err }

/-- Change one block of a furrow. -/
def Furrow.modTally (c : Furrow) (g : Tally → Tally) : Furrow :=
  { c with tally := g c.tally }

/-- Change one block of a furrow. -/
def Furrow.modGrn (c : Furrow) (g : Granary → Granary) : Furrow :=
  { c with grn := g c.grn }

/-- Change one block of a furrow. -/
def Furrow.modPyr (c : Furrow) (g : Poryar → Poryar) : Furrow :=
  { c with pyr := g c.pyr }

/-- Change one block of a furrow. -/
def Furrow.modSec (c : Furrow) (g : Sec → Sec) : Furrow :=
  { c with sec := g c.sec }

/-- Change one block of a furrow. -/
def Furrow.modCal (c : Furrow) (g : Calendar → Calendar) : Furrow :=
  { c with cal := g c.cal }

/-- Change one block of a furrow. -/
def Furrow.modPwr (c : Furrow) (g : Power → Power) : Furrow :=
  { c with pwr := g c.pwr }

/-- Change one block of a furrow. -/
def Furrow.modHealth (c : Furrow) (g : Health → Health) : Furrow :=
  { c with health := g c.health }

/-- Change one block of a furrow. -/
def Furrow.modCounts (c : Furrow) (g : ErrCounts → ErrCounts) : Furrow :=
  { c with counts := g c.counts }

/-- Change one block of a furrow. -/
def Furrow.modBist (c : Furrow) (g : Bist → Bist) : Furrow :=
  { c with bist := g c.bist }

/-- Change one block of a furrow. -/
def Furrow.modAge (c : Furrow) (g : Ageing → Ageing) : Furrow :=
  { c with age := g c.age }

/-- The tag of a context's mailbox: a request of the model's own that no descriptor can name (R53, log 52). -/
def boxTag : Tag := 0xFFFFFFFF

/-- A request is the one of a handle with a tag; the mailbox's tag names the mailbox alone, never a request refused for its TAG. -/
def Request.isOf (q : Request) (h : Handle) (tag : Tag) : Bool := q.h = h && q.tag = tag && q.isBox = decide (tag = boxTag)

/-- The request of a handle with a tag. -/
def Furrow.request? (c : Furrow) (h : Handle) (tag : Tag) : Option Request := c.reqs.find? fun q => q.isOf h tag

/-- The requests of a list with one changed: the first of a handle with a tag. -/
def modFirst (qs : List Request) (h : Handle) (tag : Tag) (g : Request → Request) : List Request :=
  match qs with
  | [] => []
  | q :: rest => if q.isOf h tag then g q :: rest else q :: modFirst rest h tag g

/-- Change the request of a handle with a tag. -/
def Furrow.modReq (c : Furrow) (h : Handle) (tag : Tag) (g : Request → Request) : Furrow :=
  { c with reqs := modFirst c.reqs h tag g }

/-- The requests of a list less one. -/
def dropFirst (qs : List Request) (h : Handle) (tag : Tag) : List Request :=
  match qs with
  | [] => []
  | q :: rest => if q.isOf h tag then rest else q :: dropFirst rest h tag

/-- The furrow with a request no longer outstanding. -/
def Furrow.dropReq (c : Furrow) (h : Handle) (tag : Tag) : Furrow := { c with reqs := dropFirst c.reqs h tag }

/-- The descriptor a request is at. -/
def Request.desc (q : Request) : List Byte := q.descs.getD q.idx []

/-- The descriptor that follows the present one in its run. -/
def Request.following (q : Request) : Option (List Byte) := q.descs[q.idx + 1]?

/-- The first descriptor of a request. -/
def Request.head (q : Request) : List Byte := q.descs.getD 0 []

/-- The opcode of a descriptor (Table 02-15). -/
def opcodeOf (d : List Byte) : Byte := d.getD 0 0

/-- A bit of the FLAGS byte of a descriptor (Table 02-16). -/
def flagOf (d : List Byte) (i : Nat) : Bool := (d.getD 1 0).getLsbD i

/-- LINK of a descriptor. -/
def linkOf (d : List Byte) : Bool := flagOf d 2

/-- QUIET of a descriptor. -/
def quietOf (d : List Byte) : Bool := flagOf d 1

/-- FENCE of a descriptor. -/
def fenceOf (d : List Byte) : Bool := flagOf d 0

/-- TTFR_BUDGET of a request in ns; 0 means none (Table 02-15, R53). -/
def Request.ttfrNs (q : Request) : Nat := fieldAt q.head 8 4 * 1000

/-- STEP_BUDGET of a request in ns; 0 means none. -/
def Request.stepNs (q : Request) : Nat := fieldAt q.head 12 4 * 1000

/-- A request is outstanding on its context until its record is posted (R55). -/
def Furrow.outstanding (c : Furrow) (h : Handle) : List Request := c.reqs.filter fun q => q.h = h ∧ !q.isBox

/-- Where a host-memory request for a context goes: with PASID enabled it carries the context's PASID and names an address of that
address space; without, it carries none (R33; log 76). -/
def Furrow.hostAt (c : Furrow) (h : Handle) (a : Nat) : Nat := if c.pasidEn then a + 2 ^ 64 * (1 + c.ctx[h].pasid.toNat) else a

/-- A request's end is registered (R90). -/
def Request.isEnded (q : Request) : Bool := match q.phase with | .ended _ => true | _ => false

/-- A request has started (R84). -/
def Request.isStarted (q : Request) : Bool :=
  match q.phase with
  | .partRun => false
  | .queued => decide (0 < q.idx)
  | _ => true

/-- The furrow accepts work: it is not RESET, in BOOT or LOST (Table 01-4). -/
def Furrow.serves (c : Furrow) : Bool := c.life = .ready || c.life = .degraded

/-- The furrow's fabric identifier, PYR_CFG [47:32] (R367). -/
def Furrow.fabricId (c : Furrow) (f : FurrowIx) : FabricId := BitVec.ofNat 16 (c.pyr.module_.toNat * 8 + f.val)

/-- The FUR_NS figure of now less an earlier one, in ns. -/
def elapsed (now earlier : W64) : Nat := (now - earlier).toNat

/-- A count limited to the top of its field. -/
def sat {w : Nat} (x : BitVec w) (n : Nat) : BitVec w := BitVec.ofNat w (min (x.toNat + n) (2 ^ w - 1))

end Sys2Proof.Machine
end

