-- ==== Sys2Proof/Machine/Flags.lean ====
section
/-! DEFINITION. Statuses, flags and interrupts: the status codes and refusal reasons (Tables 02-19, 02-20), completion
records and their posting (R56–R60), the LATE measurement (R85), MSI-X vectors (R63, R64), and error records with their
queue and nesting (R425–R427). -/

namespace Sys2Proof.Machine

variable {s₀ : State}

/-! ### Codes -/

/-- Status codes (Table 02-20). -/
def Status.done : Byte := 0x00
def Status.doneShort : Byte := 0x01
def Status.deferred : Byte := 0x10
def Status.refused : Byte := 0x11
def Status.fellBack : Byte := 0x12
def Status.cancelled : Byte := 0x20
def Status.expired : Byte := 0x21
def Status.grammarDeadEnd : Byte := 0x30
def Status.grammarOverflow : Byte := 0x31
def Status.dataError : Byte := 0x40
def Status.contextFault : Byte := 0x41
def Status.furrowLost : Byte := 0x42
def Status.throttledGc : Byte := 0x43

/-- Refusal reasons (Tables 02-19 and 03-12). -/
def Reason.malformedHeader : Nat := 0x01
def Reason.reservedNonzero : Nat := 0x02
def Reason.unknownOpcode : Nat := 0x03
def Reason.wrongHandle : Nat := 0x04
def Reason.spanInvalid : Nat := 0x05
def Reason.duplicateTag : Nat := 0x06
def Reason.badOperand : Nat := 0x07
def Reason.overload : Nat := 0x10
def Reason.backlog : Nat := 0x11
def Reason.noCapacity : Nat := 0x12
def Reason.noUnits : Nat := 0x13

/-- "Never admitted unchanged" (R62). -/
def never : Nat := 0xFFFFFFFF

/-- A retry-after hint of "never" that holds at a start as well (R356, R395): the same 32 bits. -/
def neverKept : Nat := 2 ^ 32 + never

/-- A DONE ending. -/
def Ending.ok (count : Nat) (result : Nat) : Ending :=
  { status := Status.done, count := BitVec.ofNat 16 count, result := BitVec.ofNat 64 result, detail := 0 }

/-- COUNT saturates at 65,535 where an opcode's chapter says so. -/
def satCount (n : Nat) : Nat := min n 65535

/-- An ending with no result (R61). -/
def Ending.bare (st : Byte) (detail : Nat) : Ending :=
  { status := st, count := 0, result := 0, detail := BitVec.ofNat 64 detail }

/-- The DETAIL of a refusal: reason, byte offset, two zero bytes, retry-after in µs (R62). -/
def refuseDetail (reason off retry : Nat) : Nat := reason % 256 + 256 * (off % 256) + 2 ^ 32 * (retry % 2 ^ 32)

/-- A REFUSED ending (R62). -/
def Ending.refuse (reason off retry : Nat) : Ending := Ending.bare Status.refused (refuseDetail reason off retry)

/-- A failed check: the reason, the offset of the first offending byte, and the retry-after hint. -/
structure Refuse where
  reason : Nat
  off    : Nat
  retry  : Nat
  deriving DecidableEq, Repr

/-- BAD_OPERAND at a byte offset, never admitted unchanged (Table 02-19). -/
def Refuse.operand (off : Nat) : Refuse := ⟨Reason.badOperand, off, never⟩

/-- RESERVED_NONZERO at a byte offset (Table 02-19). -/
def Refuse.reserved (off : Nat) : Refuse := ⟨Reason.reservedNonzero, off, never⟩

/-- A check made when a descriptor starts gives a retry-after hint of 0 (R476), unless the check's own rule says never. -/
def Refuse.atStart (r : Refuse) : Refuse := { r with retry := if r.retry = never then 0 else r.retry }

/-- The ending of a failed check. -/
def Refuse.ending (r : Refuse) : Ending := Ending.refuse r.reason r.off r.retry

/-- The status delivers valid results, so that LATE may appear (R85). -/
def carriesLate (st : Byte) : Bool :=
  st = Status.done || st = Status.doneShort || st = Status.fellBack || st = Status.grammarDeadEnd ||
    st = Status.grammarOverflow

/-! ### MSI-X (R63, R64) -/

/-- A vector fires: a masked one sets its pending bit in place of its message; gap and count restart (R64). The message carries a PASID
(R33). -/
def Msix.fire (v : Msix) (ns : W64) (pasid : Option (BitVec 20)) : Msix :=
  if v.masked then { v with pendingBit := true, since := 0, lastFire := some ns }
  else { v with sent := v.sent + 1, carried := pasid, since := 0, lastFire := some ns }

/-- One more record has been posted for the vector. -/
def Msix.note (v : Msix) (ns : W64) : Msix :=
  { v with since := v.since + 1, oldest := if v.since = 0 then ns else v.oldest }

/-- The two conditions of R64 for a gap in µs and a batch (0 acts as 1). For a vector that has never fired the gap counts as over
(DESIGN CHOICE, log 77: R64 measures it from the last firing only). -/
def Msix.due (v : Msix) (ns : W64) (gapUs batch : Nat) : Bool :=
  decide (0 < v.since) &&
    ((match v.lastFire with | none => true | some t => decide (gapUs * 1000 ≤ elapsed ns t)) &&
      (decide (max batch 1 ≤ v.since) || decide (gapUs * 1000 ≤ elapsed ns v.oldest)))

/-- The host unmasks a vector: a pending message is sent, which is no further firing (R64). -/
def Msix.unmask (v : Msix) (pasid : Option (BitVec 20)) : Msix :=
  if v.pendingBit then { v with masked := false, pendingBit := false, sent := v.sent + 1, carried := pasid }
  else { v with masked := false }

/-- The PASID of a vector's messages: that of the context whose ring it serves, when PASID is enabled (R33). -/
def Furrow.vectorPasid (c : Furrow) (n : Fin 65) : Option (BitVec 20) :=
  if h : 0 < n.val then (if c.pasidEn then some c.ctx[n.val - 1].pasid else none) else none

/-- The interrupt fields that govern a furrow's vector: vector 0 the error ring, 1 + h the ring of handle h (R63). -/
def Furrow.irqOf (c : Furrow) (n : Fin 65) : Bool × Nat × Nat :=
  if h : 0 < n.val then
    let g := c.ctx[n.val - 1].rings
    (g.irqEn, g.irqGap.toNat, g.irqBatch.toNat)
  else (c.err.irqEn, c.err.irqGap.toNat, c.err.irqBatch.toNat)

/-- A record has been posted for a vector: it counts, and with IRQ_GAP 0 it raises the vector at once (R64). -/
def Furrow.noteVector (c : Furrow) (n : Fin 65) : Furrow :=
  let v := c.msix[n].note c.ns
  { c with msix := c.msix.set n (if (c.irqOf n).1 && decide ((c.irqOf n).2.1 = 0) then v.fire c.ns (c.vectorPasid n) else v) }

/-- A record has been posted on the ring of a handle. -/
def Furrow.noteRing (c : Furrow) (h : Handle) : Furrow := c.noteVector ⟨h.val + 1, by have := h.isLt; omega⟩

/-- PF0 raises one of its four vectors (Table 02-5). -/
def Run.raisePf0 (r : Run s₀) (n : Fin 4) : Run s₀ :=
  r.modHdl fun d => { d with msix := d.msix.set n (d.msix[n].fire 0 none) }

/-! ### Error records (R425–R427) -/

/-- An error record with the fields every kind sets; the rest hold "none" (Table 19-2). -/
def errRec (kind severity : Nat) (detail : Nat) : ErrRec :=
  { seq := 0, kind := BitVec.ofNat 8 kind, last := false, nested := false, retried := false,
    severity := BitVec.ofNat 8 severity, opcode := 0, ctx := 0xFFFF, ns := 0, tag := 0xFFFFFFFF, count := 1, addr := 0,
    cluster := 0xFF, core := 0xFF, part := 0xFF, bank := 0xFF, detail := BitVec.ofNat 64 detail, parent := 0 }

/-- A record of SEVERITY 1. -/
def ErrRec.corrected (e : ErrRec) : Bool := e.severity = 1

/-- The list less its newest SEVERITY 1 record. -/
def dropNewestCorrected (q : List ErrRec) : List ErrRec :=
  match q.reverse.findIdx? ErrRec.corrected with
  | none => q
  | some i => q.eraseIdx (q.length - 1 - i)

/-- A record enters the queue, is dropped, or waits in its unit (R426). -/
def ErrRing.push (r : ErrRing) (e : ErrRec) : ErrRing :=
  if e.corrected then
    if 192 ≤ r.queue.length then { r with ceDropped := sat r.ceDropped 1 }
    else { r with queue := r.queue ++ [e], seq := r.seq + 1 }
  else if r.waiting.isEmpty && r.queue.length < 256 then { r with queue := r.queue ++ [e], seq := r.seq + 1 }
  else if r.waiting.isEmpty && r.queue.any ErrRec.corrected then
    { r with queue := dropNewestCorrected r.queue ++ [e], ceDropped := sat r.ceDropped 1, seq := r.seq + 1 }
  else { r with waiting := r.waiting ++ [e], seq := r.seq + 1 }

/-- The waiting records take entries as they free (R426). -/
def ErrRing.takeIn (r : ErrRing) : ErrRing :=
  match r.waiting with
  | [] => r
  | e :: rest => if r.queue.length < 256 then { r with queue := r.queue ++ [e], waiting := rest } else r

/-! ### The health record (R434, R436) -/

/-- A copy is the newer of the two (R436): the other one failed, or has the lower sequence number. -/
def newerCopy (a b : Option Health) : Bool :=
  match a, b with
  | some x, some y => decide (y.seq ≤ x.seq)
  | some _, none => true
  | none, _ => false

/-- The health record changes and is written over its older copy (R436). -/
def Furrow.keepHealth (c : Furrow) (g : Health → Health) : Furrow :=
  let x := { g c.health with seq := c.health.seq + 1 }
  if newerCopy c.healthA c.healthB then { c with health := x, healthB := some x } else { c with health := x, healthA := some x }

/-- Clear one bit of a map. -/
def dropBit {w : Nat} (m : BitVec w) (i : Nat) : BitVec w := m &&& ~~~(BitVec.ofNat w (2 ^ i))

/-- Set one bit of a map. -/
def addBit {w : Nat} (m : BitVec w) (i : Nat) : BitVec w := m ||| BitVec.ofNat w (2 ^ i)

/-- Nothing of a furrow is retired (R433, R434). -/
def Health.whole (x : Health) : Bool :=
  x.cores = BitVec.allOnes 64 && x.units = BitVec.allOnes 128 && x.text = 0xFF && x.clusters = 0xFF && x.ports = BitVec.allOnes 10 &&
    x.hbmMap = 0xF

/-- A furrow that is ready with retired capacity reads DEGRADED (Table 01-4, R433; log 66). -/
def Furrow.degrade (c : Furrow) : Furrow := if c.life = .ready ∧ !c.health.whole then { c with life := .degraded } else c

/-- 24 hours of FUR_NS. -/
def dayNs : Nat := 86400000000000

/-- The counts of a 24-hour window start again when it has passed (R421, R434, Table 19-7). -/
def Furrow.rollCounts (c : Furrow) : Furrow :=
  let n := elapsed c.ns c.counts.since
  if n < dayNs then c
  else c.modCounts fun x =>
    { x with
      hbm := 0, sram := 0, stackCe := Vector.replicate 4 0, stackUe := Vector.replicate 4 0
      portExits := Vector.replicate 10 0, since := c.ns - BitVec.ofNat 64 (n % dayNs) }

/-- An uncorrectable block of HBM counts against its stack (Table 19-7). -/
def Furrow.countUe (c : Furrow) (e : ErrRec) : Furrow :=
  if h : (e.kind = 0x04 ∨ e.kind = 0x08) ∧ e.part.toNat < 4 then
    c.rollCounts.modCounts fun x => { x with stackUe := x.stackUe.set e.part.toNat (sat (x.stackUe[e.part.toNat]'h.2) 1) h.2 }
  else c

/-! ### Records -/

/-- An error is detected: its record takes the next SEQ, with NESTED and PARENT when another is being handled, and an error
that ends requests or worse is handled from now on (R427; log 18). -/
def Furrow.raise (c : Furrow) (e : ErrRec) (ends : List (Handle × Tag)) : Furrow :=
  let c := c.countUe e
  let nested := decide (1 ≤ e.severity.toNat) && !c.err.handling.isEmpty
  let parent := match c.err.handling with | [] => 0 | p :: _ => p.seq
  let e' := { e with seq := c.err.seq, ns := c.ns, nested := nested, parent := if nested then parent else 0 }
  let ring := c.err.push e'
  let ring := if 2 ≤ e.severity.toNat then
      { ring with handling := ring.handling ++ [⟨c.err.seq, c.ns, ends, false⟩] } else ring
  { c with err := ring }

/-- What has retired, for a RETIRED record (Table 19-3): a core, a unit, a text engine, a port, a unit pending. -/
def retiredRecord (what : Nat) : ErrRec := errRec 0x41 0 what

/-- A SEVERITY 1 event of a source unit: one record per 10 ms, the events between counted in the next (R426). -/
def Furrow.raiseCorrected (c : Furrow) (source : Nat) (e : ErrRec) : Furrow :=
  match c.err.sources.find? fun p => p.1 = source with
  | none =>
    let c := c.raise e []
    { c with err := { c.err with sources := (source, c.ns, 0) :: c.err.sources } }
  | some (_, last, n) =>
    let others := c.err.sources.filter fun p => p.1 ≠ source
    if elapsed c.ns last < 10000000 then { c with err := { c.err with sources := (source, last, sat n 1) :: others } }
    else
      let c := c.raise { e with count := sat n 1 } []
      { c with err := { c.err with sources := (source, c.ns, 0) :: others } }

/-- An INPUT_EVENT of a land: one record per land per 10 ms (R460). -/
def Furrow.raiseLand (c : Furrow) (land : Byte) (e : ErrRec) : Furrow :=
  match c.err.lands.find? fun p => p.1 = land with
  | none =>
    let c := c.raise e []
    { c with err := { c.err with lands := (land, c.ns, 0) :: c.err.lands } }
  | some (_, last, n) =>
    let others := c.err.lands.filter fun p => p.1 ≠ land
    if elapsed c.ns last < 10000000 then { c with err := { c.err with lands := (land, last, sat n 1) :: others } }
    else
      let c := c.raise { e with count := sat n 1 } []
      { c with err := { c.err with lands := (land, c.ns, 0) :: others } }

/-- The handled errors whose record is posted and whose requests have all registered their ends leave the list (R427). -/
def Furrow.settle (c : Furrow) : Furrow :=
  { c with err := { c.err with handling := c.err.handling.filter fun k =>
      !(k.posted && k.requests.all fun p =>
        match c.request? p.1 p.2 with | none => true | some q => q.isEnded) } }

/-- The 64 bytes of an error record for a ring of 2ⁿ entries at a count of posted records (Table 19-2, R57). -/
def ErrRec.bytes (e : ErrRec) (count : W32) (n : Nat) : List Byte :=
  leBytes 8 e.seq.toNat ++ [e.kind,
    BitVec.ofNat 8 (128 * bit (!count.getLsbD n) + 8 * bit e.last + 4 * bit e.nested + 2 * bit e.retried), e.severity,
    e.opcode] ++ leBytes 2 e.ctx.toNat ++ zeros 2 ++ leBytes 8 e.ns.toNat ++ leBytes 4 e.tag.toNat ++
    leBytes 4 e.count.toNat ++ leBytes 8 e.addr.toNat ++ [e.cluster, e.core, e.part, e.bank] ++ zeros 4 ++
    leBytes 8 e.detail.toNat ++ leBytes 8 e.parent.toNat

/-- The queue stops fetching on every ring (R426, REL_ER_STATUS.STALL). -/
def ErrRing.stall (r : ErrRing) : Bool := decide (256 ≤ r.queue.length)

/-! ### Completion records (R56–R60) -/

/-- The 32 bytes of a completion record posted at a completion count on a ring of 2ⁿ entries (Table 02-18, R57). -/
def Record.bytes (x : Record) (count : W32) (n : Nat) : List Byte :=
  leBytes 4 x.tag.toNat ++ [x.status,
    BitVec.ofNat 8 (128 * bit (!count.getLsbD n) + 16 * bit x.partial_ + 8 * bit x.throttled + 4 * bit x.widened +
      2 * bit x.nested + bit x.late)] ++ leBytes 2 x.count.toNat ++ leBytes 8 x.engineNs.toNat ++
    leBytes 8 x.result.toNat ++ leBytes 8 x.detail.toNat

/-- The final record of a request with its registered end. -/
def Request.finalRecord (q : Request) (e : Ending) : Record :=
  { tag := q.tag, status := e.status, late := q.late, nested := q.nested, widened := q.widened,
    throttled := q.throttled, partial_ := false, count := e.count, engineNs := q.engineNs, result := e.result,
    detail := e.detail }

/-- Records in the completion ring that the host has not consumed. -/
def Rings.used (x : Rings) : Nat := (x.cqTail - x.cqHead).toNat

/-- The completion ring is full (R58). -/
def Rings.full (x : Rings) : Bool := decide (2 ^ x.cqLog.toNat ≤ x.used)

/-- The address of the completion slot at the tail (R38). -/
def Rings.cqSlot (x : Rings) : Nat := x.cqBase.toNat * 4096 + x.cqTail.toNat % 2 ^ x.cqLog.toNat * 32

/-- A request of a list whose end is registered, and whose record stands in the holding queue or not. -/
def Request.awaits (q : Request) (h : Handle) (tag : Tag) (held : Bool) : Bool :=
  q.h = h && q.tag = tag && !q.isBox && q.isEnded && q.posted = held

/-- Write one record at the completion tail; a final record ends its request's being outstanding (R55, R56). `held` says that it comes
from the holding queue. -/
def Run.writeRecord (r : Run s₀) (f : FurrowIx) (h : Handle) (x : Record) (held : Bool) : Run s₀ :=
  let g := (r.fur f).ctx[h].rings
  let r := r.toHost ((r.fur f).hostAt h g.cqSlot) (x.bytes g.cqTail g.cqLog.toNat)
  r.modFur f fun c =>
    let c := (c.modRings h fun g => { g with cqTail := g.cqTail + 1 }).noteRing h
    if x.partial_ then c else { c with reqs := dropOne (fun q => q.awaits h x.tag held) c.reqs }

/-- A record can be written at once: the ring has room and the host port carries it (R58, R13). -/
def Run.ringOpen (r : Run s₀) (g : Rings) : Bool := r.now.hdl.carries && !g.full

/-- Post held records while the completion ring has room, oldest first (R58). -/
def Run.drainHolding (r : Run s₀) (f : FurrowIx) (h : Handle) : Nat → Run s₀
  | 0 => r
  | k + 1 =>
    let g := (r.fur f).ctx[h].rings
    match g.holding with
    | [] => r
    | x :: rest =>
      if !r.ringOpen g then r
      else ((r.modFur f fun c => c.modRings h fun g => { g with holding := rest }).writeRecord f h x true).drainHolding f h k

/-- Whether a record has room now: in the ring, or in the holding queue, whose last 64 entries are for final records
(R58, R59). -/
def Rings.hasRoom (g : Rings) (partial_ : Bool) : Bool :=
  (!g.full && g.holding.isEmpty) || decide (g.holding.length < if partial_ then 192 else 256)

/-- Post a record that has room: at the ring's tail, or into the holding queue (R58). With the host port lost it waits there as with a
full ring (R13; log 75). -/
def Run.post (r : Run s₀) (f : FurrowIx) (h : Handle) (x : Record) : Run s₀ :=
  let g := (r.fur f).ctx[h].rings
  if r.ringOpen g && g.holding.isEmpty then r.writeRecord f h x false
  else r.modFur f fun c =>
    let c := c.modRings h fun g => { g with holding := g.holding ++ [x] }
    if x.partial_ then c else { c with reqs := modOne (fun q => q.awaits h x.tag false) (fun q => { q with posted := true }) c.reqs }

/-! ### Ends and their measurement (R60, R81, R85) -/

/-- Bring CTX_NS_* of a context up to date (R81). -/
def Context.updateNs (x : Context) : Context :=
  { x with ns := Vector.zipWith (fun a b => a + b) x.ns x.nsDue, nsDue := Vector.replicate 7 0 }

/-- Whole µs in a time in ns, within 32 bits (log 19). -/
def usOf (ns : Nat) : Nat := min (ns / 1000) 0xFFFFFFFF

/-- The time to first result and the worst step of a request whose final result comes now, in ns (R85). -/
def Request.measured (q : Request) (now : W64) : Nat × Nat :=
  (match q.firstNs with | none => elapsed now q.fetchNs | some t => elapsed t q.fetchNs,
   max q.worstNs.toNat (elapsed now q.lastNs))

/-- A measured time exceeds a budget that is not zero (R85). -/
def Request.isLate (q : Request) (now : W64) : Bool :=
  (decide (q.ttfrNs ≠ 0) && decide (q.ttfrNs < (q.measured now).1)) ||
    (decide (q.stepNs ≠ 0) && decide (q.stepNs < (q.measured now).2))

/-- The DETAIL of a DONE record with LATE (Table 02-20). -/
def Request.lateDetail (q : Request) (now : W64) : W64 :=
  BitVec.ofNat 64 (usOf (q.measured now).1 + 2 ^ 32 * usOf (q.measured now).2)

/-- A request with its end registered at an instant: engines stop, and LATE is taken now (R60, R85). -/
def Request.endAt (q : Request) (now : W64) (e : Ending) : Request :=
  let late := carriesLate e.status && q.isLate now
  { q with late := late, uses := [], pinned := [], await := none,
           phase := .ended (if late && e.status = Status.done then { e with detail := q.lateDetail now } else e) }

/-- Register the end of a request (R90). -/
def Furrow.endReq (c : Furrow) (h : Handle) (tag : Tag) (e : Ending) : Furrow :=
  ((c.modReq h tag fun q => q.endAt c.ns e).modCtx h Context.updateNs).settle

end Sys2Proof.Machine
end

