-- ==== Sys2Proof/Machine/Operands.lean ====
section
/-! DEFINITION. The operands of descriptors: header fields (Table 02-15), tensor references (Table 05-7), locations (Table
14-2), format codes (Table 05-8), a context's regions and units (R69, R70, R125, R310), and the accesses of an engine
for a context, with dirty bits (R322) and uncorrectable blocks (R422, R423). -/

namespace Sys2Proof.Machine

variable {s₀ : State}

/-! ### Descriptor fields -/

/-- A field of a descriptor: n bytes from an offset (R3). -/
def df (d : List Byte) (off n : Nat) : Nat := fieldAt d off n

/-- A failed check when a condition holds. -/
def failIf (c : Bool) (r : Refuse) : Option Refuse := if c then some r else none

/-- BAD_OPERAND at an offset when a condition holds. -/
def badIf (c : Bool) (off : Nat) : Option Refuse := failIf c (.operand off)

/-- The first failed check of a list. -/
def firstFail (xs : List (Option Refuse)) : Option Refuse := xs.findSome? id

/-- The first byte in [lo, hi] that is not zero is a reserved-byte failure (R54). -/
def reservedBytes (d : List Byte) (lo hi : Nat) : Option Refuse :=
  ((List.range (hi + 1 - lo)).map (lo + ·)).findSome? fun i => failIf (d.getD i 0 != 0) (.reserved i)

/-- Bits [hi:lo] of a byte that are reserved (R54). -/
def reservedBits (d : List Byte) (i hi lo : Nat) : Option Refuse :=
  failIf (decide (bitsOf (d.getD i 0).toNat hi lo ≠ 0)) (.reserved i)

/-- Bits [hi:lo] of an n-byte field at an offset that are reserved: the failure names the first byte that offends. -/
def reservedField (d : List Byte) (off n hi lo : Nat) : Option Refuse :=
  let v := bitsOf (df d off n) hi lo <<< lo
  (List.range n).findSome? fun i => failIf (decide (bitsOf v (8 * i + 7) (8 * i) ≠ 0)) (.reserved (off + i))

/-! ### Regions and units -/

/-- The furrow's HBM in bytes: 144 GB (Table 00-1, R5). -/
def hbmBytes : Nat := 144000000000

/-- 2 MiB, the unit of CTX_HBM (Table 03-5). -/
def hbmUnit : Nat := 2097152

/-- 1 MiB. -/
def mib : Nat := 1048576

/-- The base of a context's HBM region; handle 0's offsets are absolute (R70). -/
def Furrow.hbmBase (c : Furrow) (h : Handle) : Nat := if h = 0 then 0 else c.ctx[h].hbmBase.toNat * hbmUnit

/-- A context's state gives it regions (Table 03-1). -/
def Context.owns (x : Context) : Bool := x.state != .free

/-- Two byte ranges share a byte. -/
def overlaps (a n b m : Nat) : Bool := decide (a < b + m) && decide (b < a + n)

/-- A physical HBM range touches a region of some context other than handle 0. -/
def Furrow.hbmOwned (c : Furrow) (a n : Nat) : Bool :=
  (List.finRange 64).any fun g =>
    decide (g ≠ 0) && c.ctx[g].owns && overlaps a n (c.ctx[g].hbmBase.toNat * hbmUnit) (c.ctx[g].hbmSize.toNat * hbmUnit)

/-- A range at an HBM offset lies in the context's region (R69, R70). -/
def Furrow.hbmInside (c : Furrow) (h : Handle) (off n : Nat) : Bool :=
  if h = 0 then decide (off + n ≤ hbmBytes) && !c.hbmOwned off n
  else decide (off + n ≤ c.ctx[h].hbmSize.toNat * hbmUnit)

/-- The cluster SRAM units of a context, ascending by cluster and unit (R125, R310). -/
def Furrow.unitsOf (c : Furrow) (h : Handle) : List Nat :=
  ((List.finRange 128).filter fun u => c.t1Owner[u] = some h).map (·.val)

/-- The units of a context in one cluster. -/
def Furrow.unitsIn (c : Furrow) (h : Handle) (cl : Nat) : List Nat := (c.unitsOf h).filter fun u => u / 16 = cl

/-- The context holds a unit in the cluster. -/
def Furrow.holdsIn (c : Furrow) (h : Handle) (cl : Nat) : Bool := !(c.unitsIn h cl).isEmpty

/-- The units of a context's weight window: its lowest WIN units in each cluster where it holds at least WIN + 1, while
TIER_WINDOW.EN is 1 (R327). -/
def Furrow.windowUnits (c : Furrow) (h : Handle) : List Nat :=
  if c.winEn[h] then
    (List.range 8).flatMap fun cl =>
      let us := c.unitsIn h cl
      if c.winSize[h].toNat + 1 ≤ us.length then us.take c.winSize[h].toNat else []
  else []

/-- A T1 range touches the context's weight window (R313). -/
def Furrow.inWindow (c : Furrow) (h : Handle) (off n : Nat) : Bool :=
  (c.unitsOf h).zipIdx.any fun p => (c.windowUnits h).contains p.1 && overlaps (p.2 * mib) mib off n

/-- A range at a T1 offset lies in the context's units. -/
def Furrow.t1Inside (c : Furrow) (h : Handle) (off n : Nat) : Bool := decide (off + n ≤ (c.unitsOf h).length * mib)

/-- The context's Granary region in bytes; handle 0's is the logical space less what others own (R69, R70). -/
def Furrow.grnInside (c : Furrow) (h : Handle) (off n : Nat) : Bool :=
  if h = 0 then decide (off + n ≤ c.grn.logicalMib.toNat * mib) &&
      !((List.finRange 64).any fun g => decide (g ≠ 0) && c.ctx[g].owns &&
          overlaps off n (c.ctx[g].grnBase.toNat * mib) (c.ctx[g].grnSize.toNat * mib))
  else decide (off + n ≤ c.ctx[h].grnSize.toNat * mib)

/-- The first LBN of a context's Granary region (R338). -/
def Furrow.grnBaseLbn (c : Furrow) (h : Handle) : Nat := if h = 0 then 0 else c.ctx[h].grnBase.toNat * 256

/-! ### Tensor references (R125, Table 05-7) -/

/-- A tensor reference; the stride is in bytes, 0 for packed rows. -/
structure TRef where
  tier   : Nat
  stride : Nat
  off    : Nat
  deriving DecidableEq, Repr

/-- The reference that a 64-bit word holds. -/
def TRef.of (w : Nat) : TRef := ⟨bitsOf w 63 62, bitsOf w 61 48 * 64, bitsOf w 47 0⟩

/-- The reference at a descriptor offset. -/
def tref (d : List Byte) (off : Nat) : TRef := .of (df d off 8)

/-- The next 64-byte boundary (R126). -/
def align64 (n : Nat) : Nat := ceilDiv n 64 * 64

/-- The bytes from the first to the last of `rows` rows of `rowBytes`, at the reference's pitch. -/
def TRef.extent (t : TRef) (rows rowBytes : Nat) : Nat :=
  if rows = 0 then 0 else (rows - 1) * (if t.stride = 0 then rowBytes else t.stride) + rowBytes

/-- The offset of a row of whole bytes. -/
def TRef.row (t : TRef) (rowBytes i : Nat) : Nat := t.off + i * (if t.stride = 0 then rowBytes else t.stride)

/-- The extents of rows of whole bytes, without the gaps that a pitch leaves: tier, offset, bytes. -/
def TRef.rowExtents (t : TRef) (rows rowBytes : Nat) : List (Nat × Nat × Nat) :=
  if t.stride = 0 then [(t.tier, t.off, rows * rowBytes)] else (List.range rows).map fun i => (t.tier, t.row rowBytes i, rowBytes)

/-- An extent in a tier lies within the context's region, units or T0 bounds (R69, R125, R313). -/
def Furrow.inside (c : Furrow) (h : Handle) (tier off n : Nat) : Bool :=
  match tier with
  | 0 => decide (off + n ≤ hbmUnit)
  | 1 => c.t1Inside h off n
  | 2 => c.hbmInside h off n
  | _ => false

/-- The checks of a reference with an extent of n bytes at a descriptor offset: alignment, tier, region (R125, R476). -/
def Furrow.refCheck (c : Furrow) (h : Handle) (t : TRef) (n off : Nat) (tiers : List Nat) : Option Refuse :=
  badIf (decide (t.off % 64 ≠ 0) || !tiers.contains t.tier || !c.inside h t.tier t.off n) off

/-- What a reference must be whatever its extent: aligned, and in one of the tiers allowed. -/
def TRef.form (t : TRef) (off : Nat) (tiers : List Nat) : Option Refuse :=
  badIf (decide (t.off % 64 ≠ 0) || !tiers.contains t.tier) off

/-- Two extents of one context overlap. -/
def TRef.overlap (a : TRef) (n : Nat) (b : TRef) (m : Nat) : Bool := a.tier == b.tier && overlaps a.off n b.off m

/-! ### Format codes (Table 05-8) -/

/-- A number format. -/
inductive Fmt
  | fp32 | fp16 | bf16 | e5m2 | e4m3 | e3m2 | e2m1 | int16 | int8 | int4 | b1 | e8m0 | int32
  deriving DecidableEq, Repr

/-- The format of a code; reserved codes have none. -/
def Fmt.ofCode : Nat → Option Fmt
  | 0 => some .fp32 | 1 => some .fp16 | 2 => some .bf16 | 3 => some .e5m2 | 4 => some .e4m3 | 5 => some .e3m2
  | 6 => some .e2m1 | 7 => some .int16 | 8 => some .int8 | 9 => some .int4 | 10 => some .b1 | 11 => some .e8m0
  | 12 => some .int32 | _ => none

/-- Bits per element in memory (R94, R97): E3M2 elements take 6 bits packed, 4-bit formats a nibble, B1 a bit. -/
def Fmt.bits : Fmt → Nat
  | .fp32 | .int32 => 32
  | .fp16 | .bf16 | .int16 => 16
  | .e5m2 | .e4m3 | .int8 | .e8m0 => 8
  | .e3m2 => 6
  | .e2m1 | .int4 => 4
  | .b1 => 1

/-- Bytes of n elements packed one after another: E3M2 comes in groups of four elements in three bytes (R97). -/
def Fmt.rowBytes (t : Fmt) (n : Nat) : Nat :=
  match t with
  | .e3m2 => 3 * ceilDiv n 4
  | _ => ceilDiv (n * t.bits) 8

/-! ### Accesses of an engine for a context -/

/-- The physical pieces of a T1 range: the unit list, the offset and the length (R125). -/
def t1Pieces : List Nat → Nat → Nat → List (Nat × Nat)
  | [], _, _ => []
  | u :: us, off, n =>
    if n = 0 then [] else if mib ≤ off then t1Pieces us (off - mib) n
    else (u * mib + off, min n (mib - off)) :: t1Pieces us 0 (n - min n (mib - off))

/-- The physical pieces of a range in a tier of a context: memory, address, length. -/
def Furrow.pieces (c : Furrow) (f : FurrowIx) (h : Handle) (core tier off n : Nat) : List (Space × Nat × Nat) :=
  match tier with
  | 0 => [(.t0 f, core * hbmUnit + off, n)]
  | 1 => (t1Pieces (c.unitsOf h) off n).map fun p => (.t1 f, p.1, p.2)
  | 2 => [(.hbm f, c.hbmBase h + off, n)]
  | _ => []

/-- The memory code of the uncorrectable list (R424): 0 T0, 1 T1, 2 HBM; and its word in bytes (Table 19-1). -/
def Space.code : Space → Option (Fin 3 × Nat)
  | .t0 _ => some (0, 8)
  | .t1 _ => some (1, 8)
  | .hbm _ => some (2, 64)
  | .host => none

/-- A range touches a block or word that holds uncorrectable data (R422). -/
def Furrow.bad (c : Furrow) (p : Space × Nat × Nat) : Bool :=
  match p.1.code with
  | none => false
  | some (k, w) => c.counts.bad.any fun b => b.mem = k && overlaps (b.num * w) w p.2.1 p.2.2

/-- Writing every byte of an uncorrectable block makes it good again (R422, log 20). -/
def Furrow.mend (c : Furrow) (p : Space × Nat × Nat) : Furrow :=
  match p.1.code with
  | none => c
  | some (k, w) => { c with counts := { c.counts with bad := c.counts.bad.filter fun b =>
      !(b.mem = k && decide (p.2.1 ≤ b.num * w) && decide (b.num * w + w ≤ p.2.1 + p.2.2)) } }

/-- The furrow's own write of zeros over a range. -/
def Run.blank (r : Run s₀) (f : FurrowIx) (sp : Space) (a n : Nat) : Run s₀ :=
  (r.zero sp a n).modFur f fun c => c.mend (sp, a, n)

/-- Bytes that an engine reads for a context. -/
def Run.load (r : Run s₀) (f : FurrowIx) (h : Handle) (core tier off n : Nat) : List Byte :=
  ((r.fur f).pieces f h core tier off n).flatMap fun p => r.read p.1 p.2.1 p.2.2

/-- A little-endian field that an engine reads for a context. -/
def Run.loadNat (r : Run s₀) (f : FurrowIx) (h : Handle) (core tier off n : Nat) : Nat :=
  leNat (r.load f h core tier off n)

/-- Sparse cells of a range, pieces put end to end. -/
def cellsOf (s : State) : List (Space × Nat × Nat) → Nat → List Host.Cell
  | [], _ => []
  | (sp, a, n) :: rest, at_ => (((s.mem sp).slice a n).map fun c => (at_ + c.1, c.2)) ++ cellsOf s rest (at_ + n)

/-- The listed bytes of a range of a context's tier, by offset in the range. -/
def Run.loadCells (r : Run s₀) (f : FurrowIx) (h : Handle) (core tier off n : Nat) : List Host.Cell :=
  cellsOf r.now ((r.fur f).pieces f h core tier off n) 0

/-- The byte range [off, off+n) of an attached object's copy covers these segments (R320, R322). -/
def segmentsOf (copy len off n : Nat) : List Nat :=
  if n ≠ 0 ∧ overlaps copy len off n then
    let lo := (max copy off - copy) / hbmUnit
    let hi := (min (copy + len) (off + n) - 1 - copy) / hbmUnit
    (List.range (hi + 1 - lo)).map (lo + ·)
  else []

/-- The 4-byte word of the DIRTY bitmap that holds bit j, in HBM (Table 14-5). -/
def Furrow.dirtyWord (c : Furrow) (a : Attached) (j : Nat) : Nat := c.hbmBase a.h + a.record.toNat + 64 + j / 32 * 4

/-- Before an engine's first write to a clean segment of an attached copy, its bit in the record is set with one aligned
4-byte write (R322); a segment in flight has been rewritten (R324). -/
def Run.dirty (r : Run s₀) (f : FurrowIx) (h : Handle) (tier off n : Nat) : Run s₀ :=
  let c := r.fur f
  r.each (c.attached.filter fun a => a.h = h) fun r a =>
    let hd := r.read (.hbm f) (c.hbmBase h + a.record.toNat) 64
    if fieldAt hd 24 1 = tier then
      let js := segmentsOf (fieldAt hd 16 6) (fieldAt hd 8 8) off n
      let r := r.each js fun r j =>
        let w := c.dirtyWord a j
        let v := r.readNat (.hbm f) w 4
        if v.testBit (j % 32) then r else r.write (.hbm f) w (leBytes 4 (v ||| (1 <<< (j % 32))))
      r.modFur f fun c => { c with attached := c.attached.map fun b =>
        if b.h = h ∧ b.id = a.id then { b with flight := b.flight.filter fun x => !js.contains x.2 } else b }
    else r

/-- Sparse cells replace a range of a context's tier. -/
def Run.put (r : Run s₀) (f : FurrowIx) (h : Handle) (core tier off n : Nat) (img : List Host.Cell) : Run s₀ :=
  (((r.fur f).pieces f h core tier off n).foldl (fun (p : Run s₀ × Nat) q =>
    (((p.1.paste q.1 q.2.1 q.2.2 ((img.filter fun c => decide (p.2 ≤ c.1 ∧ c.1 < p.2 + q.2.2)).map
      fun c => (c.1 - p.2, c.2))).modFur f fun c => c.mend q), p.2 + q.2.2)) (r, 0)).1

/-- An engine stores sparse cells over a range of a context's tier. -/
def Run.storeCells (r : Run s₀) (f : FurrowIx) (h : Handle) (core tier off n : Nat) (img : List Host.Cell) : Run s₀ :=
  (if tier = 1 ∨ tier = 2 then r.dirty f h tier off n else r).put f h core tier off n img

/-- An engine stores bytes for a context. -/
def Run.store (r : Run s₀) (f : FurrowIx) (h : Handle) (core tier off : Nat) (bs : List Byte) : Run s₀ :=
  r.storeCells f h core tier off bs.length (bytesToCells bs)

/-- A read of the range would meet uncorrectable data (R423): the memory code and the first such piece. -/
def Furrow.meets (c : Furrow) (f : FurrowIx) (h : Handle) (core tier off n : Nat) : Option (Space × Nat × Nat) :=
  (c.pieces f h core tier off n).find? c.bad

/-! ### Locations (R311, Table 14-2) -/

/-- A location. -/
structure Loc where
  addr   : Nat
  tier   : Nat
  core   : Nat
  zero   : Nat
  member : Nat
  deriving DecidableEq, Repr

/-- The location that 16 bytes hold. -/
def Loc.of (bs : List Byte) (off : Nat) : Loc :=
  ⟨fieldAt bs off 8, fieldAt bs (off + 8) 1, fieldAt bs (off + 9) 1, fieldAt bs (off + 10) 2, fieldAt bs (off + 12) 4⟩

end Sys2Proof.Machine
end

