-- ==== Sys2Proof/Machine/Link.lean ====
section
/-! DEFINITION. Packets on the fabric: their 32-byte headers (Table 16-4), routing (R367), credits and flits as a port sends
them (R362–R364), and delivery to the furrow they name. -/

namespace Sys2Proof.Machine

variable {s₀ : State}

/-- Packet kinds (Table 16-5). -/
def Kind.readReq : Byte := 0x01
def Kind.readResp : Byte := 0x02
def Kind.write : Byte := 0x03
def Kind.writeAck : Byte := 0x04
def Kind.coll : Byte := 0x05
def Kind.spanDesc : Byte := 0x06
def Kind.spanAck : Byte := 0x07
def Kind.spanDone : Byte := 0x08
def Kind.spanCancel : Byte := 0x09
def Kind.spanBeat : Byte := 0x0A
def Kind.linkFence : Byte := 0x0B
def Kind.noRoute : Byte := 0x0C
def Kind.spanJoin : Byte := 0x0D

/-- The virtual channel of a kind (Table 16-5). -/
def vcOf (k : Byte) : BitVec 2 :=
  if k = Kind.readReq ∨ k = Kind.write then 0
  else if k = Kind.readResp ∨ k = Kind.writeAck ∨ k = Kind.noRoute then 1
  else if k = Kind.coll then 2 else 3

/-- The 32-byte header and the payload of a packet (Table 16-4). -/
def packetBytes (p : Packet) : List Byte :=
  [p.kind, BitVec.ofNat 8 (p.vc.toNat + 4 * p.cls.toNat)] ++ leBytes 2 p.dest.toNat ++ leBytes 2 p.src.toNat ++
    leBytes 2 p.payload.length ++ leBytes 4 p.span.toNat ++ leBytes 4 p.tag.toNat ++ leBytes 8 p.addr.toNat ++
    leBytes 4 p.aux.toNat ++ [p.hops, 0, 0, 0] ++ p.payload

/-- The packet that a byte string of its whole length spells (Table 16-4). -/
def parsePacket (bs : List Byte) : Packet :=
  { kind := bs.getD 0 0, vc := (bs.getD 1 0).extractLsb' 0 2, cls := (bs.getD 1 0).extractLsb' 2 1,
    dest := BitVec.ofNat 16 (fieldAt bs 2 2), src := BitVec.ofNat 16 (fieldAt bs 4 2),
    span := BitVec.ofNat 32 (fieldAt bs 8 4), tag := BitVec.ofNat 32 (fieldAt bs 12 4),
    addr := BitVec.ofNat 64 (fieldAt bs 16 8), aux := BitVec.ofNat 32 (fieldAt bs 24 4), hops := bs.getD 28 0,
    payload := (bs.drop 32).take (fieldAt bs 6 2) }

/-- The credits a packet takes, in units of 64 B (R364). -/
def packetUnits (p : Packet) : Nat := ceilDiv (32 + p.payload.length) 64

/-- The credit index of a packet's VC and class. -/
def packetSlot (p : Packet) : Fin 8 := ⟨2 * p.vc.toNat + p.cls.toNat, by have := p.vc.isLt; have := p.cls.isLt; omega⟩

/-- A VC as an index. -/
def vcIx (v : BitVec 2) : Fin 4 := v.toFin

/-- Receive buffers in units of 64 B by VC (R364). -/
def vcUnits (vc : Nat) : Nat := match vc with | 0 => 512 | 1 => 512 | 2 => 1024 | _ => 128

/-- The credits a port holds when its peer has just advertised its full buffers (R364). -/
def fullCredits : Vector Nat 8 := Vector.ofFn fun i => vcUnits (i.val / 2)

/-- The payloads of the flits that carry a packet alone, each 244 bytes, the last filled up with zeros (R362, log 21). -/
def chunk244 : Nat → List Byte → List (List Byte)
  | 0, _ => []
  | k + 1, bs => bytesAt bs 0 244 :: chunk244 k (bs.drop 244)

/-- The flits of a packet from a SEQ on. -/
def flitsOf (p : Packet) (seq : W16) : List SentFlit :=
  (chunk244 (ceilDiv (packetBytes p).length 244) (packetBytes p)).zipIdx.map fun q =>
    { seq := seq + BitVec.ofNat 16 q.2, vc := p.vc, payload := q.1, carries := [p] }

/-- A flit as it goes out (Table 16-3): a data flit that is kept for replay, with the last SEQ accepted from the peer and the units freed
for a VC. -/
def Port.flit (t : Port) (x : SentFlit) (cvc : Fin 4) : List Byte :=
  let b := leBytes 2 x.seq.toNat ++ leBytes 2 (t.rxSeq - 1).toNat ++ leBytes 1 (x.vc.toNat + 16 * cvc.val) ++ zeros 1 ++
    leBytes 2 t.freed[cvc].toNat ++ bytesAt x.payload 0 244
  b ++ leBytes 4 (crc32c b)

/-- A port that is UP or DEGRADED sends (R367, R369). -/
def Port.live (t : Port) : Bool := t.state = .up || t.state = .degraded

/-- A port takes up a packet: it starts one only with credits and replay room for it, and never before an earlier packet of the same
VC and class (R363, R364). -/
def Port.offer (t : Port) (p : Packet) : Port :=
  let sent := flitsOf p t.txSeq
  if t.live && !(t.queue.any fun x => packetSlot x = packetSlot p) && decide (packetUnits p ≤ t.credits[packetSlot p]) &&
      decide (t.unacked.length + sent.length ≤ 8192) then
    { t with
      credits := t.credits.set (packetSlot p) (t.credits[packetSlot p] - packetUnits p), unacked := t.unacked ++ sent
      txSeq := t.txSeq + BitVec.ofNat 16 sent.length }
  else { t with queue := t.queue ++ [p] }

/-- Send what waits while it can be sent; a VC that holds a packet back waits from now on (R368). -/
def Port.pump (t : Port) (ns : W64) : Port :=
  let u := t.queue.foldl Port.offer { t with queue := [] }
  let started := fun (v : Fin 4) => (u.unacked.drop t.unacked.length).any fun x => vcIx x.vc = v
  { u with
    waitSince := Vector.ofFn fun v =>
      if u.live && u.queue.any fun p => vcIx p.vc = v then
        (match t.waitSince[v] with
         | some x => if started v then some ns else some x
         | none => some ns)
      else none }

/-- Change one port. -/
def Furrow.modPort (c : Furrow) (p : PortIx) (g : Port → Port) : Furrow :=
  { c with pyr := { c.pyr with ports := c.pyr.ports.set p (g c.pyr.ports[p]) } }

/-- The routing entry of an identifier (Table 16-13). -/
def Poryar.route (y : Poryar) (d : FabricId) : Route :=
  ((y.routes.find? fun e => e.1 = d).map (·.2)).getD ⟨false, 0xF, 0xF⟩

/-- A port number that a routing entry names. -/
def portOf (n : BitVec 4) : Option PortIx := if h : n.toNat < 10 then some ⟨n.toNat, h⟩ else none

/-- The port that R367 sends a packet for a destination by. -/
def Poryar.choose (y : Poryar) (d : FabricId) : Option PortIx :=
  let e := y.route d
  if !e.valid then none
  else match (portOf e.primary).filter fun p => y.ports[p].live with
    | some p => some p
    | none => (portOf e.alternate).filter fun p => y.ports[p].live

/-- A NO_ROUTE about a packet, from this furrow to the packet's source (R367, R371); ADDR holds the packet's KIND (log 21). -/
def noRouteFor (p : Packet) (self bad : FabricId) : Packet :=
  { kind := Kind.noRoute, vc := 1, cls := 0, dest := p.src, src := self, span := p.span, tag := p.tag, addr := BitVec.ofNat 64 p.kind.toNat,
    aux := BitVec.ofNat 32 bad.toNat, hops := 0, payload := [] }

/-- A packet is delivered to this furrow. -/
def Furrow.deliver (c : Furrow) (p : Packet) : Furrow := { c with pyr := { c.pyr with inbox := c.pyr.inbox ++ [p] } }

/-- Queue a packet on a port; leaving by a DATELINE port moves it to class 1 (R364). -/
def Furrow.sendOn (c : Furrow) (port : PortIx) (p : Packet) : Furrow :=
  c.modPort port fun t =>
    let p := if t.dateline then { p with cls := 1 } else p
    Port.pump { t with queue := t.queue ++ [p] } c.ns

/-- Route a packet: deliver it here, send it on, or answer NO_ROUTE, unless it is itself a NO_ROUTE (R367). -/
def Furrow.route (c : Furrow) (f : FurrowIx) (p : Packet) : Furrow :=
  let self := c.fabricId f
  if p.dest = self then c.deliver p
  else match c.pyr.choose p.dest with
    | some port => c.sendOn port p
    | none =>
      if p.kind = Kind.noRoute then c
      else
        let q := noRouteFor p self p.dest
        if p.src = self then c.deliver q
        else match c.pyr.choose q.dest with
          | some port => c.sendOn port q
          | none => c

/-- A packet of this furrow, with the fields every kind shares. -/
def Furrow.packet (c : Furrow) (f : FurrowIx) (kind : Byte) (dest : FabricId) (span : W32) (tag : W32) : Packet :=
  { kind := kind, vc := vcOf kind, cls := 0, dest := dest, src := c.fabricId f, span := span, tag := tag, addr := 0, aux := 0,
    hops := 0, payload := [] }

/-- A byte string in pieces of at most n bytes with their offsets; an empty string is one empty piece. -/
def inPieces (n : Nat) (bs : List Byte) : List (Nat × List Byte) :=
  (List.range (max 1 (ceilDiv bs.length n))).map fun i => (n * i, (bs.drop (n * i)).take n)

/-- ADDR of a COLL packet: which descriptor of a run or which message it belongs to, the piece's number, and how many pieces there
are (R365; log 35). -/
def collAddr (key piece pieces : Nat) : W64 := BitVec.ofNat 64 (key + 2 ^ 13 * piece + 2 ^ 38 * pieces)

/-- The bytes that COLL packets make up, once every piece is there (log 35). -/
def gathered (ps : List Packet) (key : Nat) (src : FabricId) : Option (List Byte) :=
  let mine := ps.filter fun p => p.src = src && p.addr.toNat % 2 ^ 13 = key
  match mine with
  | [] => none
  | p :: _ =>
    let n := p.addr.toNat / 2 ^ 38
    let parts := (List.range n).map fun i => mine.find? fun p => p.addr.toNat / 2 ^ 13 % 2 ^ 25 = i
    if parts.all (·.isSome) then some (parts.flatMap fun p => match p with | some p => p.payload | none => []) else none

/-- The span binding of a context. -/
def Furrow.bind? (c : Furrow) (h : Handle) : Option SpanBind := c.pyr.spans.find? fun b => b.h = h

/-- Change the span binding of a context. -/
def Furrow.modBind (c : Furrow) (h : Handle) (g : SpanBind → SpanBind) : Furrow :=
  { c with pyr := { c.pyr with spans := c.pyr.spans.map fun b => if b.h = h then g b else b } }

/-- The context bound to a span identifier, in either role. -/
def Furrow.boundTo (c : Furrow) (span : W32) : Option Handle :=
  (List.finRange 64).find? fun h => c.ctx[h].role != .none && c.ctx[h].spanId = span

/-- The context on this furrow that is the root of a member's child span (R373, R374). -/
def Furrow.childRoot (c : Furrow) (h : Handle) : Option Handle :=
  match c.bind? h with
  | some b => if c.ctx[h].role = .member ∧ b.child ≠ 0 then
      (List.finRange 64).find? fun g => c.ctx[g].role = .root && c.ctx[g].spanId = b.child else none
  | none => none

/-- The direct members a context has below it for a span's request: a root's entries, or those of its child span's root; with the
span's identifier (R376). -/
def Furrow.below (c : Furrow) (h : Handle) : W32 × List MemberEntry :=
  let of := fun (g : Handle) => (c.ctx[g].spanId, match c.bind? g with | some b => b.entries | none => [])
  if c.ctx[h].role = .root then of h
  else match c.childRoot h with
    | some g => of g
    | none => (0, [])

/-- F: the furrows of a context's span, 1 off a span (R211, R374). -/
def Furrow.spanFurrows (c : Furrow) (h : Handle) : Nat := 1 + ((c.below h).2.map fun m => m.furrows.toNat).foldl (· + ·) 0

/-- A member's flat number; a root is member 0 (R20, R374). -/
def Furrow.memberNumber (c : Furrow) (h : Handle) : Nat :=
  if c.ctx[h].role = .member then (match c.bind? h with | some b => b.number.toNat | none => 0) else 0

/-- The flat number of this furrow in the span that a request was submitted to (R374). -/
def Furrow.flatNumber (c : Furrow) (q : Request) : Nat := q.base + c.memberNumber q.h

/-- The fabric identifiers that a context stands for with what is below it, in flat order, each with the span its context is bound
to: what a member answers to SPAN_JOIN (R375; log 35). -/
def Furrow.standsFor (c : Furrow) (f : FurrowIx) (h : Handle) : List (FabricId × W32) :=
  (c.fabricId f, c.ctx[h].spanId) :: (c.below h).2.flatMap (·.stands)

/-- One member's contribution to a collective: its flat number, a length, the bytes (log 35). -/
def spanPiece (n : Nat) (bs : List Byte) : List Byte := leBytes 4 n ++ leBytes 4 bs.length ++ bs

/-- The contributions that a byte string holds. -/
def parsePieces : Nat → List Byte → List (Nat × List Byte)
  | 0, _ => []
  | k + 1, bs =>
    if bs.length < 8 then []
    else (fieldAt bs 0 4, (bs.drop 8).take (fieldAt bs 4 4)) :: parsePieces k (bs.drop (8 + fieldAt bs 4 4))

/-- Send a byte string for a request as COLL packets of at most 1,024 bytes: AUX holds the sender's member number (R365, R381). -/
def Furrow.sendColl (c : Furrow) (f : FurrowIx) (q : Request) (key : Nat) (dest : FabricId) (span tag : W32) (bs : List Byte) : Furrow :=
  let ps := inPieces 1024 bs
  ps.zipIdx.foldl (fun (c : Furrow) p =>
    c.route f { c.packet f Kind.coll dest span tag with
      addr := collAddr key p.2 ps.length, aux := BitVec.ofNat 32 (c.memberNumber q.h), payload := p.1.2 }) c

/-- The key of a request's contributions: within a mailbox, the number of the descriptor of the step program (log 52). -/
def Request.collKey (q : Request) : Nat := if q.tag = boxTag then q.idx else 0

/-- Contributions from a furrow for the descriptor that a request is at. -/
def Request.heard (q : Request) (src : FabricId) : Option (List Byte) := gathered q.contrib q.collKey src

/-- A request without the contributions under a key. -/
def Request.clear (q : Request) (key : Nat) : Request :=
  { q with contrib := q.contrib.filter fun p => p.addr.toNat % 2 ^ 13 ≠ key }

/-- The contributions of everything below a context under a key, by flat number, once all of them are there. -/
def Furrow.piecesUnder (c : Furrow) (q : Request) (key : Nat) : Option (List (Nat × List Byte)) :=
  let own := c.memberNumber q.h
  (c.below q.h).2.foldl (fun acc m =>
    match acc, gathered q.contrib key m.id with
    | some xs, some bs => some (xs ++ ((parsePieces bs.length bs).map fun p => (own + p.1, p.2)))
    | _, _ => none) (some [])

/-- The contributions under a key of the members below that are not lost, once all of them are there (R237, R276). -/
def Furrow.piecesLeft (c : Furrow) (q : Request) (key : Nat) : Option (List (Nat × List Byte)) :=
  let own := c.memberNumber q.h
  (c.below q.h).2.foldl (fun acc m =>
    match acc, gathered q.contrib key m.id with
    | some xs, some bs => some (xs ++ ((parsePieces bs.length bs).map fun p => (own + p.1, p.2)))
    | some xs, none => if m.lost then some xs else none
    | none, _ => none) (some [])

/-- The contributions of everything below a context for the descriptor that a request is at. -/
def Furrow.piecesBelow (c : Furrow) (q : Request) : Option (List (Nat × List Byte)) := c.piecesUnder q q.collKey

/-- Send a byte string to every direct member below a context (log 35). -/
def Furrow.sendDown (c : Furrow) (f : FurrowIx) (q : Request) (key : Nat) (bs : List Byte) : Furrow :=
  (c.below q.h).2.foldl (fun (c : Furrow) m => c.sendColl f q key m.id (c.below q.h).1 q.tag bs) c

/-- A member passes its own contribution and those from below to the furrow above it, under a key (R381). -/
def Furrow.passUnder (c : Furrow) (f : FurrowIx) (q : Request) (key : Nat) (own : List Byte) (rest : List (Nat × List Byte)) : Furrow :=
  match q.origin with
  | none => c
  | some (root, tag) =>
    c.sendColl f q key root c.ctx[q.h].spanId tag ((((c.memberNumber q.h, own) :: rest).map fun p => spanPiece p.1 p.2).flatten)

/-- A member passes its own contribution and those from below to the furrow above it (R381). -/
def Furrow.passUp (c : Furrow) (f : FurrowIx) (q : Request) (own : List Byte) (rest : List (Nat × List Byte)) : Furrow :=
  c.passUnder f q q.collKey own rest

/-- A request as its first descriptor is fetched or forwarded. -/
def Request.fresh (h : Handle) (tag : Tag) (order : Nat) (first : W32) (d : List Byte) (now : W64) : Request :=
  { h := h, tag := tag, order := order, first := first, descs := [d], idx := 0, phase := .queued, fetchNs := now, firstNs := none,
    lastNs := now, worstNs := 0, lastSteps := [], engineNs := 0, engFrac := 0, keyNs := 0, kept := [], estimate := 0, estClass := .move, uses := [], cancelNs := none,
    late := false, widened := false, nested := false, throttled := false, pinned := [], place := none, needs := [], await := none,
    waitNs := none, asked := 0, owed := 0, measures := [], outs := [], stage := 0, acks := [], dones := [], goSent := false, memberEnds := [],
    origin := none, base := 0, carried := [], gone := false, batch := [], contrib := [], gen := none, merge := none, posted := false, isBox := false }

/-- The mailbox of a context, where messages of a span that belong to no request's descriptor wait (log 52). -/
def Furrow.box (c : Furrow) (h : Handle) : Request :=
  match c.request? h boxTag with
  | some q => q
  | none =>
    { Request.fresh h boxTag 0 0 [] 0 with
      descs := [], isBox := true
      origin := if c.ctx[h].role = .member then (c.bind? h).map fun b => (b.rootId, boxTag) else none }

/-- The furrow with the mailbox of a context open. -/
def Furrow.openBox (c : Furrow) (h : Handle) : Furrow :=
  match c.request? h boxTag with
  | some _ => c
  | none => { c with reqs := c.reqs ++ [c.box h] }

/-- Change the mailbox of a context. -/
def Furrow.modBox (c : Furrow) (h : Handle) (g : Request → Request) : Furrow := (c.openBox h).modReq h boxTag g

/-- A packet comes into the mailbox of a context; a report replaces an older one from the same furrow, which its first piece drops. -/
def Furrow.intoBox (c : Furrow) (h : Handle) (p : Packet) (replace : Bool) : Furrow :=
  let first := decide (p.addr.toNat / 2 ^ 13 % 2 ^ 25 = 0)
  c.modBox h fun q => { q with
    contrib := (if replace then q.contrib.filter fun x =>
        !(x.src = p.src && x.addr.toNat % 2 ^ 13 = p.addr.toNat % 2 ^ 13 && (first || x.addr.toNat / 2 ^ 13 % 2 ^ 25 = p.addr.toNat / 2 ^ 13 % 2 ^ 25))
      else q.contrib) ++ [p] }

/-- The number of bindings, FUR_STATE.SPANS (Table 01-4). -/
def Furrow.spanCount (c : Furrow) : Nat :=
  ((List.finRange 64).filter fun h => c.ctx[h].role != .none).length

/-- DETAIL of a FURROW_LOST record (R371): the lost furrow's identifier, and whether it is the one that fetched. -/
def lostDetail (c : Furrow) (lost : FabricId) (self : Bool) : Nat :=
  if c.pyr.enabled then lost.toNat + 2 ^ 16 * (128 + bit self) else 2 ^ 16

/-- DETAIL of a DATA_ERROR record (R424): memory, opcode, detecting furrow, and the low half of the error record's SEQ. -/
def dataErrorDetail (c : Furrow) (f : FurrowIx) (memory opcode : Nat) (seq : W64) : Nat :=
  memory + (if c.pyr.enabled then 128 + 2 ^ 16 * (c.fabricId f).toNat else 0) + 256 * opcode +
    2 ^ 32 * (seq.toNat % 2 ^ 32)

/-- DETAIL of a CONTEXT_FAULT record (R92). -/
def faultDetail (reason opcode : Nat) : Nat := reason + 256 * opcode

end Sys2Proof.Machine
end

