-- ==== Sys2Proof/Machine/Tally.lean ====
section
/-! DEFINITION. The Tally (chapter 18): its chain of entries, the opening and closing of metering records, charges, its
commands, and its check of FUR_NS against the calendar's crystal. -/

namespace Sys2Proof.Machine

variable {s₀ : State}

/-! ### Keys (R387, R411) -/

/-- A byte string that a key is padded to with zeros, or hashed to when it is longer than a block of SHA-512 (RFC 2104). -/
def hmacKey (key : List Byte) : List Byte := bytesAt (if 128 < key.length then bytes64 (Config.sha512 key) else key) 0 128

/-- HMAC with SHA-512 (RFC 2104). -/
def hmac (key msg : List Byte) : List Byte :=
  let k := hmacKey key
  bytes64 (Config.sha512 (k.map (· ^^^ 0x5C) ++ bytes64 (Config.sha512 (k.map (· ^^^ 0x36) ++ msg))))

/-- The first 32 bytes of HKDF with SHA-512 and no salt (RFC 5869). -/
def hkdf32 (ikm info : List Byte) : List Byte := (hmac (hmac (zeros 64) ikm) (info ++ [1])).take 32

/-- The info strings RG832 DEVID, RG832 ALIAS and RG832 TALLY (R387, R411). -/
def infoDevid : List Byte := [0x52, 0x47, 0x38, 0x33, 0x32, 0x20, 0x44, 0x45, 0x56, 0x49, 0x44]
def infoAlias : List Byte := [0x52, 0x47, 0x38, 0x33, 0x32, 0x20, 0x41, 0x4C, 0x49, 0x41, 0x53]
def infoTally : List Byte := [0x52, 0x47, 0x38, 0x33, 0x32, 0x20, 0x54, 0x41, 0x4C, 0x4C, 0x59]

/-- cdi(d) of R387: root-of-trust digest, security version, lifecycle and debug byte under the device secret. -/
def cdi (f : FurrowIx) (digest : BitVec 512) (svn : W32) (lifecycle debug : Byte) : List Byte :=
  hmac (bytes32 (Config.uds f)) (bytes64 digest ++ leBytes 4 svn.toNat ++ [lifecycle, debug])

/-- The seed of a key pair (R387). -/
def keySeed : Config.KeyId → List Byte
  | .device f => hkdf32 (bytes32 (Config.uds f)) infoDevid
  | .alias_ f digest svn lifecycle debug => hkdf32 (cdi f digest svn lifecycle debug) infoAlias
  | .tally f => hkdf32 (bytes32 (Config.tallySecret f)) infoTally

/-- The Ed25519 public key of a pair, and its signature of a message. -/
def publicKeyOf (k : Config.KeyId) : BitVec 256 := Config.publicKey (keySeed k)
def signWith (k : Config.KeyId) (msg : List Byte) : BitVec 512 := Config.sign (keySeed k) msg

/-- Entries that the Tally area holds (R417). -/
def tallyCapacity : Nat := 49152

/-- FULL: 64 free entries or fewer remain (R417). -/
def Tally.full (t : Tally) : Bool := decide (tallyCapacity ≤ t.entries.length + 64)

/-- One free entry or none remains, so that every command but ACK is refused (R417). -/
def Tally.brimming (t : Tally) : Bool := decide (tallyCapacity ≤ t.entries.length + 1)

/-- The bytes 0–255 of an entry put together from its fields, then its signature (Table 18-1, R411, R414). -/
def tallyEntry (f : FurrowIx) (c : Furrow) (kind code flags handle creation : Nat) (w32 w40 pasid : Nat)
    (body : List Byte) : List Byte :=
  let t := c.tally
  let bs := leBytes 2 1 ++ leBytes 1 kind ++ leBytes 1 code ++ leBytes 4 flags ++ leBytes 8 t.next.toNat ++
    leBytes 8 (Config.serial f).toNat ++ leBytes 1 f.val ++ leBytes 1 handle ++ zeros 2 ++ leBytes 4 creation ++
    leBytes 8 w32 ++ leBytes 8 w40 ++ leBytes 4 c.health.restarts.toNat ++ leBytes 4 pasid ++ body ++
    leBytes 4 t.version.toNat ++ zeros 4 ++ bytes64 t.prev ++ zeros 32
  bs ++ bytes64 (signWith (.tally f) bs)

/-- Append an entry to the chain (R414). -/
def Tally.append (t : Tally) (e : List Byte) : Tally :=
  { t with entries := t.entries ++ [e], next := t.next + 1, prev := Config.sha512 e }

/-- Append an event (Table 18-2). -/
def Furrow.tallyEvent (c : Furrow) (f : FurrowIx) (event arg0 arg1 : Nat) : Furrow :=
  let e := tallyEntry f c 2 event 0 0 0 c.cal.stamp.toNat arg0 0 (leBytes 8 arg1 ++ zeros 88)
  c.modTally fun t => t.append e

/-- A new open record of a context (R415). -/
def Furrow.newOpen (c : Furrow) (h : Handle) : OpenRec :=
  { creation := c.tally.creation[h], openStamp := c.cal.stamp, calBad := !c.cal.valid,
    fault := c.tally.state = .clockFault, pasid := c.ctx[h].pasid, ns := Vector.replicate 7 0, tokensIn := 0,
    tokensOut := 0, unNs := 0, unTokens := 0, energyMj := 0 }

/-- The Tally meters: it has not failed, and has booted (R409). -/
def Tally.runs (t : Tally) : Bool := t.state = .metering || t.state = .clockFault

/-- Open a context's record (R415). -/
def Furrow.tallyOpen (c : Furrow) (h : Handle) : Furrow :=
  if c.tally.runs then { c with tally := { c.tally with open_ := c.tally.open_.set h (some (c.newOpen h)) } } else c

/-- The entry of a closed record (Table 18-1). -/
def recordEntry (f : FurrowIx) (c : Furrow) (h : Handle) (o : OpenRec) (close : Nat) (stamp : W64) : List Byte :=
  tallyEntry f c 1 close (bit o.fault + 2 * bit o.calBad) h.val o.creation.toNat o.openStamp.toNat stamp.toNat
    o.pasid.toNat ((o.ns.toList.flatMap fun n => leBytes 8 n.toNat) ++ leBytes 8 o.tokensIn.toNat ++
      leBytes 8 o.tokensOut.toNat ++ leBytes 8 o.unNs.toNat ++ leBytes 8 o.unTokens.toNat ++
      leBytes 8 (Config.energyMj f c.tally.next.toNat).toNat)

/-- Close a context's record, and open the next when the context goes on (R415). -/
def Furrow.tallyClose (c : Furrow) (f : FurrowIx) (h : Handle) (close : Nat) (goesOn : Bool) : Furrow :=
  match c.tally.open_[h] with
  | none => c
  | some o =>
    let e := recordEntry f c h o close c.cal.stamp
    let c := c.modTally fun t =>
      { t.append e with open_ := t.open_.set h none, interim := t.interim.set h none }
    if goesOn then c.tallyOpen h else c

/-- Close every open record in ascending handle (R415). -/
def Furrow.tallyCloseAll (c : Furrow) (f : FurrowIx) (close : Nat) (goesOn : Bool) : Furrow :=
  (List.finRange 64).foldl (fun c h => c.tallyClose f h close goesOn) c

/-- The engine class as the index of CTX_NS_* and of the metered fields. -/
def classIx : EngClass → Fin 7
  | .matrix => 0 | .vector => 1 | .hamming => 2 | .walk => 3 | .winnow => 4 | .text => 5 | .move => 6

/-- Engine time of a context is metered, or added to UNMETERED_NS in CLOCK_FAULT (R405, R413). -/
def Tally.charge (t : Tally) (h : Handle) (k : EngClass) (ns : Nat) : Tally :=
  match t.open_[h] with
  | none => t
  | some o =>
    let o := if t.state = .clockFault then { o with unNs := o.unNs + BitVec.ofNat 64 ns }
      else { o with ns := o.ns.set (classIx k) (o.ns[(classIx k)] + BitVec.ofNat 64 ns) }
    if t.runs then { t with open_ := t.open_.set h (some o) } else t

/-- Tokens of a context are metered, or added to UNMETERED_TOKENS in CLOCK_FAULT (R405, R413). -/
def Tally.tokens (t : Tally) (h : Handle) (inn out : Nat) : Tally :=
  match t.open_[h] with
  | none => t
  | some o =>
    let o := if t.state = .clockFault then { o with unTokens := o.unTokens + BitVec.ofNat 64 (inn + out) }
      else { o with tokensIn := o.tokensIn + BitVec.ofNat 64 inn, tokensOut := o.tokensOut + BitVec.ofNat 64 out }
    if t.runs then { t with open_ := t.open_.set h (some o) } else t

/-- Engine time charged to no context (R406). -/
def Tally.unattribute (t : Tally) (ns : Nat) : Tally := { t with unattributed := t.unattributed + BitVec.ofNat 64 ns }

/-- The Tally enters CLOCK_FAULT (R412, R413): it logs the event, closes every open record, and the furrow reports. -/
def Furrow.tallyFault (c : Furrow) (f : FurrowIx) (advance : Nat) : Furrow :=
  if c.tally.state = .metering then
    let c := (c.tallyEvent f 0x05 advance 0)
    let c := { c with tally := { c.tally with state := .clockFault, good := 0 } }
    (c.tallyCloseAll f 0x07 true).raise (errRec 0x50 0 1) []
  else { c with tally := { c.tally with good := 0 } }

/-- The Tally returns to METERING after ten comparisons within the limit (R412, R413). -/
def Furrow.tallyRestore (c : Furrow) (f : FurrowIx) : Furrow :=
  let c := c.tallyEvent f 0x06 0 0
  let c := { c with tally := { c.tally with state := .metering } }
  (c.tallyCloseAll f 0x07 true).raise (errRec 0x50 0 2) []

/-! ### Commands -/

/-- CMD_STATUS codes (Table 18-4). -/
def TlyStatus.idle : BitVec 4 := 0
def TlyStatus.badRange : BitVec 4 := 2
def TlyStatus.hostWrite : BitVec 4 := 3
def TlyStatus.refused : BitVec 4 := 4

/-- A write of TLY_CMD sets COUNT (Table 18-4). -/
def Furrow.tallyCmd (c : Furrow) (v : W64) : Furrow :=
  { c with tally := { c.tally with count := v.extractLsb' 16 16 } }

/-- CMD_STATUS takes a code. -/
def Furrow.tallyStatus (c : Furrow) (st : BitVec 4) : Furrow := { c with tally := { c.tally with cmdStatus := st } }

/-- The entries of a range of SEQ, end to end. -/
def Tally.range (t : Tally) (first n : Nat) : List Byte :=
  ((t.entries.drop (first - t.acked.toNat)).take n).flatten

/-- TALLY_READ (R418, R419): the READ event first, then the entries to host memory. -/
def execTallyRead (f : FurrowIx) (v : W64) (fails : Bool) (s : State) : Host.Outcome State Fault Refusal :=
  if !s.reaches f 0x500020 then (Run.start s).done else
  let r := (Run.start s).modFur f fun c => c.tallyCmd v
  let t := (r.fur f).tally
  let first := t.cmdArg.toNat
  let n := t.count.toNat
  if t.brimming then (r.modFur f fun c => c.tallyStatus TlyStatus.refused).done
  else
    let good := decide (1 ≤ n) && decide (n ≤ 4096) && decide (t.acked.toNat ≤ first) && decide (first + n ≤ t.next.toNat)
    let r := r.modFur f fun c => c.tallyEvent f 0x03 first n
    if !good then (r.modFur f fun c => c.tallyStatus TlyStatus.badRange).done
    else if fails then (r.modFur f fun c => c.tallyStatus TlyStatus.hostWrite).done
    else ((r.toHost (t.cmdAddr.toNat * 64) (t.range first n)).modFur f fun c => c.tallyStatus TlyStatus.idle).done

/-- TALLY_ACK (R419): the entries through a SEQ are freed, and the ACK is logged. -/
def execTallyAck (f : FurrowIx) (v : W64) (s : State) : Host.Outcome State Fault Refusal :=
  if !s.reaches f 0x500020 then (Run.start s).done else
  let r := (Run.start s).modFur f fun c => c.tallyCmd v
  let t := (r.fur f).tally
  let last := t.cmdArg.toNat
  if decide (t.next.toNat ≤ last) || decide (last < t.acked.toNat) then
    (r.modFur f fun c => c.tallyStatus TlyStatus.badRange).done
  else
    (r.modFur f fun c =>
      let c := c.tallyEvent f 0x04 last 0
      { c with tally := { c.tally with entries := c.tally.entries.drop (last + 1 - t.acked.toNat),
                                       acked := BitVec.ofNat 64 (last + 1), cmdStatus := TlyStatus.idle } }).done

/-- TALLY_CERT (R418): the Tally certificate goes to host memory. -/
def execTallyCert (f : FurrowIx) (v : W64) (fails : Bool) (s : State) : Host.Outcome State Fault Refusal :=
  if !s.reaches f 0x500020 then (Run.start s).done else
  let r := (Run.start s).modFur f fun c => c.tallyCmd v
  let t := (r.fur f).tally
  if t.brimming then (r.modFur f fun c => c.tallyStatus TlyStatus.refused).done
  else if fails then (r.modFur f fun c => c.tallyStatus TlyStatus.hostWrite).done
  else ((r.toHost (t.cmdAddr.toNat * 64) (Config.tallyCertificate f)).modFur f fun c =>
    c.tallyStatus TlyStatus.idle).done

/-- The result of a Tally STAGE (Table 18-2): the header's layout is R388's, its SVN field the version (PRESUMED, log 22). -/
def tallyStageResult (f : FurrowIx) (t : Tally) (im : FwImage) (fails : Bool) : Nat :=
  if !Config.updateAllowed f then 1
  else if !(Config.tallyVerifies (bytesAt im.header 0 128) (bytesAt im.header 128 64) &&
      decide (bytesAt im.header 64 64 = bytes64 (Config.sha512 im.body))) then 2
  else if decide (fieldAt im.header 4 4 ≤ t.version.toNat) then 3
  else if fails then 4 else 0

/-- TALLY_STAGE (R409): a new image is taken only when allowed, signed and newer; every attempt is logged. -/
def execTallyStage (f : FurrowIx) (v : W64) (fails : Bool) (s : State) : Host.Outcome State Fault Refusal :=
  if !s.reaches f 0x500020 then (Run.start s).done else
  let r := (Run.start s).modFur f fun c => c.tallyCmd v
  let t := (r.fur f).tally
  if t.brimming then (r.modFur f fun c => c.tallyStatus TlyStatus.refused).done
  else
    let a := t.cmdAddr.toNat * 64
    let header := r.read .host a 256
    let im : FwImage := ⟨header, r.read .host (a + 256) (fieldAt header 8 4)⟩
    let res := tallyStageResult f t im fails
    (r.modFur f fun c =>
      let c := c.tallyEvent f 0x02 (fieldAt header 4 4) res
      let c := c.tallyStatus (if res = 0 then TlyStatus.idle else TlyStatus.refused)
      if res = 0 then { c with tally := { c.tally with image := some im } } else c).done

/-- A write that reaches a Tally register other than TLY_CMD_ADDR, TLY_CMD_ARG and TLY_CMD (R410, Table 18-3). -/
def tallyFixed (a : HostAccess) : Bool :=
  decide (a.bar = .bar0) && accessRegular a &&
    ((decide (0x500000 ≤ a.off.toNat) && decide (a.off.toNat < 0x500020)) ||
      (decide (0x500038 ≤ a.off.toNat) && decide (a.off.toNat < 0x500040)))

/-- CONFIG_WRITE (R410): a write to another Tally register changes nothing and is logged. -/
def execConfigWrite (f : FurrowIx) (a : HostAccess) (v : W64) (s : State) : Host.Outcome State Fault Refusal :=
  ((Run.start s).modFur f fun c => if s.reaches f a.off.toNat ∧ tallyFixed a then c.tallyEvent f 0x01 a.off.toNat v.toNat else c).done

/-- The comparison of R412 is within 100,000 ns. -/
def withinLimit (advance : Nat) : Bool := decide (advance ≤ 1000100000) && decide (999900000 ≤ advance)

/-- TALLY_CLOCK_CHECK (R412): one comparison of the advance of FUR_NS over 32,768 crystal cycles. -/
def execTallyClockCheck (f : FurrowIx) (advance : W64) (s : State) : Host.Outcome State Fault Refusal :=
  ((Run.start s).modFur f fun c =>
    if !c.tally.runs then c
    else if !withinLimit advance.toNat then c.tallyFault f advance.toNat
    else
      let c := { c with tally := { c.tally with good := c.tally.good + 1, lastNs := c.ns } }
      if c.tally.state = .clockFault ∧ 10 ≤ c.tally.good then c.tallyRestore f else c).done

/-- The period of a calendar stamp (R415). -/
def periodOf (f : FurrowIx) (stamp : W64) : W64 := BitVec.ofNat 64 (stamp.toNat / 32768 / Config.periodS f)

/-- TALLY_PERIOD_CLOSE (R415, R417): when calendar time has passed a multiple of PERIOD_S, every open record closes and the
next opens, unless the area is FULL. -/
def execTallyPeriodClose (f : FurrowIx) (s : State) : Host.Outcome State Fault Refusal :=
  ((Run.start s).modFur f fun c =>
    let p := periodOf f c.cal.stamp
    if c.tally.full || !c.tally.runs || p = c.tally.period then c
    else
      let c := c.tallyCloseAll f 0x01 true
      { c with tally := { c.tally with period := p } }).done

/-- TALLY_INTERIM_WRITE (R416): the counts of each open record go to the interim area. -/
def execTallyInterimWrite (f : FurrowIx) (s : State) : Host.Outcome State Fault Refusal :=
  ((Run.start s).modFur f fun c =>
    { c with tally := { c.tally with interim := c.tally.open_.map fun o => o.map fun x => (x, c.cal.stamp) } }).done

/-- The Tally's start at power-up (R416): each interim record closes under CLOSE 0x06 at its stamp, then BOOT is logged. -/
def Furrow.tallyBoot (c : Furrow) (f : FurrowIx) : Furrow :=
  let n := ((List.finRange 64).filter fun h => c.tally.interim[h].isSome).length
  let c := (List.finRange 64).foldl (fun c h =>
    match c.tally.interim[h] with
    | none => c
    | some (o, stamp) =>
      let e := recordEntry f c h o 0x06 stamp
      c.modTally fun t => { t.append e with interim := t.interim.set h none }) c
  c.tallyEvent f 0x07 c.tally.version.toNat n

end Sys2Proof.Machine
end

