-- ==== Sys2Proof/Machine/Rings.lean ====
section
/-! DEFINITION. Rings, doorbells and the ends of requests (chapter 02; R85–R90): the register writes that enable and drain
a ring group, the doorbell page, cancellation, the posting of final records, and MSI-X firing. -/

namespace Sys2Proof.Machine

variable {s₀ : State}

/-! ### What a request holds, and its end -/

/-- A search slot without the views of a request; an abandoned merge no longer runs (R159, R186). -/
def SearchSlot.releaseReq (t : SearchSlot) (h : Handle) (tag : Tag) : SearchSlot :=
  { t with
    views := t.views.filter fun v => !(v.h = h && v.tag = tag)
    mergeRunning := t.mergeRunning && !(t.views.any fun v => v.merge && v.h = h && v.tag = tag) }

/-- A table slot without the versions a request holds (R296), and without a migration it had begun (R302). -/
def TableSlot.releaseReq (t : TableSlot) (h : Handle) (tag : Tag) : TableSlot :=
  let mine := t.holds.filter fun v => v.h = h && v.tag = tag
  { t with
    holds := t.holds.filter fun v => !(v.h = h && v.tag = tag)
    curRefs := t.curRefs - BitVec.ofNat 32 (mine.filter fun v => v.version = t.curVersion).length
    oldRefs := t.oldRefs - BitVec.ofNat 31 (mine.filter fun v => v.version ≠ t.curVersion).length
    migration := match t.migration with
      | some m => if m.owner = some (h, tag) then none else some m
      | none => none
    stale := t.stale || (match t.migration with | some m => m.owner = some (h, tag) && m.asked | none => false) }

/-- A block's write that has not reached its map step is abandoned with its request (R343, R352). -/
def GrnWrite.stays (h : Handle) (tag : Tag) (w : GrnWrite) : Bool :=
  !(w.h = h && w.tag = tag) || (match w.stage with | .recorded _ => true | _ => false)

/-- A format that does not come to its end leaves no valid root record and STATE OFFLINE (Table 15-18). -/
def Granary.dropFormat (g : Granary) (h : Handle) (tag : Tag) : Granary :=
  match g.format with
  | some (h', tag', _) =>
    if h' = h ∧ tag' = tag then { g with format := none, state := .offline, nand := { g.nand with roots := [] } } else g
  | none => g

/-- A request takes no more part in its context's step. A step without any request is abandoned: its program stops at once (R88). -/
def Furrow.leaveStep (c : Furrow) (h : Handle) (tag : Tag) : Furrow :=
  let hit := c.steps.any fun w => w.h = h && w.commits.isNone && w.parts.any fun p => p.tag = tag
  let c := { c with steps := c.steps.map fun w => w.drop h tag }
  if hit && c.steps.any fun w => w.h = h && w.parts.isEmpty then
    c.modReq h boxTag fun q => { q with descs := [], phase := .queued, uses := [], await := none }
  else c

/-- Everything of the furrow that a request held is given back. -/
def Furrow.release (c : Furrow) (h : Handle) (tag : Tag) : Furrow :=
  { c.leaveStep h tag with
    srch := c.srch.map fun t => t.releaseReq h tag
    tbl := c.tbl.map fun t => t.releaseReq h tag
    windows := c.windows.filter fun (w : WindowCopy) => !(w.h = h && w.tag = tag)
    attached := c.attached.map fun a => if a.h = h then { a with flight := a.flight.filter fun x => x.1 ≠ tag } else a
    pyr := { c.pyr with
      txs := c.pyr.txs.filter fun x => !(x.h = h && x.req = tag)
      orphans := c.pyr.orphans ++ c.pyr.txs.filter fun x => x.h = h && x.req = tag && x.kind = Kind.write }
    grn := { c.grn with writes := c.grn.writes.filter fun w => w.stays h tag
                        reads := c.grn.reads.filter fun x => !(x.h = h && x.tag = tag)
                        reclaim := match c.grn.reclaim with
                          | some x => if x.1 = h ∧ x.2.1 = tag then none else some x
                          | none => none }.dropFormat h tag }

/-- The flags of a request's record that a member's part reports: THROTTLED, WIDENED and NESTED where Table 02-18 has them. -/
def Request.flagByte (q : Request) : Nat := 8 * bit q.throttled + 4 * bit q.widened + 2 * bit q.nested

/-- The SPAN_DONE of a member's part: ENGINE_NS and the status-specific bytes; the status, the record's flags and COUNT travel in
AUX and RESULT in ADDR, with bit 15 of AUX set when the member's context is torn down or destroyed (log 23). -/
def Furrow.spanDone (c : Furrow) (f : FurrowIx) (q : Request) (e : Ending) (root : FabricId) (tag : Tag) : Packet :=
  { c.packet f Kind.spanDone root (c.ctx[q.h].spanId) tag with
    addr := e.result, aux := BitVec.ofNat 32 (e.status.toNat + 2 ^ 8 * q.flagByte +
      2 ^ 15 * bit (c.ctx[q.h].fault.isSome || c.ctx[q.h].state = .destroying) + 2 ^ 16 * e.count.toNat),
    payload := leBytes 8 q.engineNs.toNat ++ leBytes 8 e.detail.toNat }

/-- A member keeps the pins of a run between its descriptors (R475). -/
def Furrow.keepPins (c : Furrow) (h : Handle) (tag : Tag) (pins : List (ClusterIx × Fin 8)) : Furrow :=
  c.modBind h fun b =>
    let others := b.pins.filter fun x => x.1 ≠ tag
    { b with pins := if pins.isEmpty then others else others ++ [(tag, pins)] }

/-- A request's end is registered and what it held is released; a member's part answers its root, and a request that ends
DONE in time under QUIET is over at once (R55, R84, R376). -/
def Furrow.finish (c : Furrow) (f : FurrowIx) (h : Handle) (tag : Tag) (e : Ending) : Furrow :=
  let pins := match c.request? h tag with | some q => if e.status = Status.done && linkOf q.desc then q.pinned else [] | none => []
  let c := (c.endReq h tag e).release h tag
  match c.request? h tag with
  | none => c
  | some q =>
    match q.origin with
    | some (root, rtag) =>
      ((c.keepPins h rtag pins).route f (c.spanDone f q e root rtag)).dropReq h tag
    | none => if quietOf q.head && e.status = Status.done && !q.late then c.dropReq h tag else c

/-- Byte 8 of the stream header for a status that ends a GENERATE otherwise than its own commit does (Table 12-5). -/
def streamCode (st : Byte) : Option Nat :=
  if st = Status.cancelled then some 6 else if st = Status.dataError then some 7
  else if st = Status.contextFault ∨ st = Status.furrowLost then some 8 else none

/-- A GENERATE that ends so writes byte 8 of its stream header, before its final record (R279). One that has written no header yet writes
it whole, with its counts zero (log 91). -/
def Run.closeStream (r : Run s₀) (f : FurrowIx) (h : Handle) (tag : Tag) (st : Byte) : Run s₀ :=
  let open_ := fun (q : Request) => opcodeOf q.desc = 0x63 && q.origin.isNone && q.phase ≠ Phase.partRun && !q.isEnded
  match ((r.fur f).request? h tag).filter open_, streamCode st with
  | some q, some n =>
    let out := fieldAt q.desc 48 8
    if q.gen.isSome then r.toHost ((r.fur f).hostAt h (out + 8)) (leBytes 1 n)
    else r.toHost ((r.fur f).hostAt h out) (zeros 8 ++ leBytes 1 n ++ zeros 55)
  | _, _ => r

/-- Post the final record of a request whose end is registered, if the record has room and was not posted (R58, R59). -/
def Run.postFinal (r : Run s₀) (f : FurrowIx) (h : Handle) (tag : Tag) : Run s₀ :=
  match (r.fur f).reqs.find? fun q => q.awaits h tag false with
  | none => r
  | some q =>
    let g := (r.fur f).ctx[h].rings
    match q.phase with
    | .ended e =>
      if g.hasRoom false && (g.state = .active || g.state = .draining) then r.post f h (q.finalRecord e) else r
    | _ => r

/-- Register an end and post its record if there is room. -/
def Run.finishPost (r : Run s₀) (f : FurrowIx) (h : Handle) (tag : Tag) (e : Ending) : Run s₀ :=
  ((r.closeStream f h tag e.status).modFur f fun c => c.finish f h tag e).postFinal f h tag

/-! ### Cancellation (R51, R88–R90) -/

/-- A request's cancel instant: its time charges stop, and its engines abort from now on (Table 03-14). -/
def Request.abortAt (q : Request) (now : W64) : Request :=
  { q with cancelNs := some now, phase := .aborting }

/-- A commit of the request is under way (R276). -/
def Request.inCommit (q : Request) : Bool := match q.gen with | some g => g.committing | none => false

/-- An opcode whose effect is a commit or a switch of something that lasts: with it the request's end is registered (R89, R181; log 3). -/
def commitsAt (op : Nat) : Bool :=
  [0x12, 0x15, 0x38, 0x39, 0x3A, 0x3B, 0x3C, 0x50, 0x51, 0x54, 0x60, 0x61, 0x62, 0x63, 0x64, 0x65, 0x66, 0x71, 0x72, 0x73, 0x80, 0x81, 0x82, 0x92,
   0xF0, 0xF1, 0xF2, 0xF8, 0xF9, 0xFA, 0xFB, 0xFC, 0xFD].contains op

/-- A request can still be cancelled: its end is not registered (R90), nor has its last descriptor committed. -/
def Request.cancellable (q : Request) : Bool :=
  !q.inCommit && match q.phase with
  | .ended _ => false
  | .aborting => false
  | .engineDone e => !q.dones.isEmpty || ((e.status = Status.done || e.status = Status.doneShort) && !commitsAt (opcodeOf q.desc).toNat) ||
      (e.status = Status.done && decide (q.idx + 1 < q.descs.length))
  | _ => true

/-- The members whose part of a span request has not ended get SPAN_CANCEL (R376). -/
def Furrow.cancelMembers (c : Furrow) (f : FurrowIx) (q : Request) : Furrow :=
  q.dones.foldl (fun c m => c.route f (c.packet f Kind.spanCancel m c.ctx[q.h].spanId q.tag)) c

/-- The cancel instant of one request (R88); during a commit the cancel is kept until its end (R276). -/
def Furrow.cancelReq (c : Furrow) (f : FurrowIx) (h : Handle) (tag : Tag) : Furrow :=
  match c.request? h tag with
  | none => c
  | some q =>
    if q.inCommit then
      if c.ctx[h].fault.isSome then c else c.modReq h tag fun q => { q with gen := q.gen.map fun g => { g with cancel := true } }
    else if q.cancellable then
      ((((c.modReq h tag fun q => q.abortAt c.ns).modCtx h Context.updateNs)).cancelMembers f q).leaveStep h tag
    else c

/-- Cancel every request of a context that a tag matches; 0xFFFF_FFFF matches all (Table 02-14). -/
def Furrow.cancelTag (c : Furrow) (f : FurrowIx) (h : Handle) (tag : Tag) : Furrow :=
  ((c.outstanding h).filter fun q => tag = 0xFFFFFFFF || q.tag = tag).foldl (fun c q => c.cancelReq f h q.tag) c

/-! ### Register writes and doorbells -/

/-- RING_ENABLE (R42). -/
def execRingEnable (f : FurrowIx) (h : Handle) (s : State) : Host.Outcome State Fault Refusal :=
  ((Run.start s).modFur f fun c =>
    if !s.reaches f 0x20030 then c else
    let x := c.ctx[h]
    if x.state = .free ∨ x.role = .member ∨ x.rings.state ≠ .disabled then c
    else c.modRings h fun g =>
      { g with state := .active, sqHead := 0, cqTail := 0, sqTail := 0, cqHead := 0, holding := [], kept := [],
               openRun := none }).done

/-- The part-fetched runs of a context: they can no longer be completed once fetching stops (R44). -/
def Furrow.partRuns (c : Furrow) (h : Handle) : List Request :=
  (c.outstanding h).filter fun q => q.phase = .partRun

/-- RING_DRAIN (R44): a run of which a part is not fetched ends CANCELLED without starting. -/
def execRingDrain (f : FurrowIx) (h : Handle) (s : State) : Host.Outcome State Fault Refusal :=
  ((Run.start s).modFur f fun c =>
    if !s.reaches f 0x20030 then c else
    if c.ctx[h].rings.state = .active then
      let c := c.modRings h fun g => { g with state := .draining, kept := [], openRun := none }
      (c.partRuns h).foldl (fun c q => c.finish f h q.tag (.bare Status.cancelled 0)) c
    else c).done

/-- RING_DRAIN_DONE (R44): no request of the context is outstanding any more. -/
def execRingDrainDone (f : FurrowIx) (h : Handle) (s : State) : Host.Outcome State Fault Refusal :=
  ((Run.start s).modFur f fun c =>
    if c.ctx[h].rings.state = .draining ∧ (c.outstanding h).isEmpty ∧ c.ctx[h].rings.holding.isEmpty then
      c.modRings h fun g => { g with state := .disabled }
    else c).done

/-- A doorbell value is ignored with BAD_DOORBELL and an error record (R48). -/
def Furrow.badDoorbell (c : Furrow) (h : Handle) (v : W32) : Furrow :=
  (c.modRings h fun g => { g with badDoorbell := true }).raise
    { errRec 0x12 0 v.toNat with ctx := BitVec.ofNat 16 h.val } []

/-- A write of DB_SQ_TAIL (R48, R49). -/
def Run.dbSqTail (r : Run s₀) (f : FurrowIx) (h : Handle) (t : W32) : Run s₀ :=
  r.modFur f fun c =>
    if !r.now.reaches f 0x20038 then c else
    let g := c.ctx[h].rings
    if g.state ≠ .active then c
    else if (t - g.sqHead).toNat ≤ 2 ^ g.sqLog.toNat then c.modRings h fun g => { g with sqTail := t }
    else c.badDoorbell h t

/-- DB_SQ_TAIL (R48, R49). -/
def execDbSqTail (f : FurrowIx) (h : Handle) (t : W32) (s : State) : Host.Outcome State Fault Refusal :=
  ((Run.start s).dbSqTail f h t).done

/-- A completion head is acceptable: within the ring, and not behind the last accepted one (R48). -/
def Rings.headOk (g : Rings) (v : W32) : Bool :=
  decide ((g.cqTail - v).toNat ≤ 2 ^ g.cqLog.toNat) && decide ((g.cqTail - v).toNat ≤ g.used)

/-- A write of DB_CQ_HEAD (R48, R49, R58): consumed records are released, and held records take their place. -/
def Run.dbCqHead (r : Run s₀) (f : FurrowIx) (h : Handle) (v : W32) : Run s₀ :=
  let g := (r.fur f).ctx[h].rings
  if !r.now.reaches f 0x20038 ∨ (g.state ≠ .active ∧ g.state ≠ .draining) then r
  else if g.headOk v then (r.modFur f fun c => c.modRings h fun g => { g with cqHead := v }).drainHolding f h 256
  else r.modFur f fun c => c.badDoorbell h v

/-- DB_CQ_HEAD (R48, R49, R58). -/
def execDbCqHead (f : FurrowIx) (h : Handle) (v : W32) (s : State) : Host.Outcome State Fault Refusal :=
  ((Run.start s).dbCqHead f h v).done

/-- A write of DB_CANCEL (R51, R88): fetched requests are cancelled at once; while descriptors announced before the write are not yet
fetched, the cancel is kept. -/
def Run.dbCancel (r : Run s₀) (f : FurrowIx) (h : Handle) (tag : Tag) : Run s₀ :=
  r.modFur f fun c =>
    if !r.now.reaches f 0x20038 then c else
    let g := c.ctx[h].rings
    if g.state ≠ .active ∧ g.state ≠ .draining then c
    else
      let c := c.cancelTag f h tag
      if g.state = .active ∧ g.sqHead ≠ g.sqTail then
        c.modRings h fun g => { g with kept := g.kept ++ [(tag, g.sqTail)] }
      else c

/-- DB_CANCEL (R51, R88). -/
def execDbCancel (f : FurrowIx) (h : Handle) (tag : Tag) (s : State) : Host.Outcome State Fault Refusal :=
  ((Run.start s).dbCancel f h tag).done

/-! ### Ends and records -/

/-- A request that posts progress records: a GENERATE stands in it (R57, R276). -/
def Request.posts (q : Request) : Bool := q.descs.any fun d => opcodeOf d = 0x63

/-- The request goes on to its next linked descriptor (R53). One step of its measured times has ended, when it posts no progress
records (R85). -/
def Request.nextDesc (q : Request) (now : W64) : Request :=
  let q := if q.posts then q else
    let step := now - q.lastNs
    { q with
      worstNs := if q.worstNs.toNat < step.toNat then step else q.worstNs, lastNs := now, lastSteps := (step :: q.lastSteps).take 2 }
  { q with idx := q.idx + 1, phase := .queued, uses := [], place := none, needs := [], await := none, memberEnds := [], goSent := false, asked := 0, waitNs := none, stage := 0, carried := [], owed := 0, measures := [], outs := [],
           gone := false, batch := [], contrib := [], gen := none, merge := none, kept := [] }

/-- RECORD_POST (R56–R59): the final record of an ended request goes to the completion ring, or to the holding queue when
the ring is full; without room in either it stays with its request. -/
def execRecordPost (f : FurrowIx) (h : Handle) (tag : Tag) (s : State) : Host.Outcome State Fault Refusal :=
  ((Run.start s).postFinal f h tag).done

/-- BUDGET_EXPIRY (R86): at the furrow that fetched it, a request not started when TTFR_BUDGET has passed since its fetch ends DEFERRED. The retry-after of
the record is a free multiple of 50 µs (R82, log 24). -/
def execBudgetExpiry (f : FurrowIx) (h : Handle) (tag : Tag) (s : State) : Host.Outcome State Fault Refusal :=
  (match (s.furrow f).request? h tag with
   | none => Run.start s
   | some q =>
     let c := s.furrow f
     let waited := elapsed c.ns q.fetchNs
     if q.origin.isNone ∧ q.cancellable ∧ !q.isStarted ∧ q.ttfrNs ≠ 0 ∧ q.ttfrNs ≤ waited then
       let (v, r) := (Run.start s).free
       r.finishPost f h tag
         (.bare Status.deferred (usOf waited + 2 ^ 32 * (bitsOf v.toNat 25 0 * 50)))
     else Run.start s).done

/-! ### Interrupts -/

/-- MSIX_FIRE (R64): the two conditions hold, and the vector fires or sets its pending bit. PF0's vectors fire where their
events arise. -/
def execMsixFire (fn : Function) (n : Fin 65) (s : State) : Host.Outcome State Fault Refusal :=
  (match fn with
   | .pf0 => Run.start s
   | .furrow f => (Run.start s).modFur f fun c =>
       let (en, gap, batch) := c.irqOf n
       if en && c.msix[n].due c.ns gap batch then { c with msix := c.msix.set n (c.msix[n].fire c.ns (c.vectorPasid n)) } else c).done

/-- MSIX_UNMASK (R64): a pending message is sent, and that is no further firing. -/
def execMsixUnmask (fn : Function) (n : Fin 65) (s : State) : Host.Outcome State Fault Refusal :=
  (if !s.hdl.carries then Run.start s else match fn with
   | .pf0 => (Run.start s).modHdl fun d =>
       if h : n.val < 4 then { d with msix := d.msix.set n.val (d.msix[n.val].unmask none) } else d
   | .furrow f => (Run.start s).modFur f fun c => { c with msix := c.msix.set n (c.msix[n].unmask (c.vectorPasid n)) }).done

end Sys2Proof.Machine
end

