-- ==== Sys2Proof/Machine/MapEngine.lean ====
section
/-! DEFINITION. The Granary's map engine (R338–R343): map entries in HBM, map steps with their journal records, discards, and
the reading of a block through the map. -/

namespace Sys2Proof.Machine

variable {s₀ : State}

/-- The HBM address of a map entry (R338). -/
def Granary.mapAddr (g : Granary) (lbn : Nat) : Nat := g.mapBase.toNat * hbmUnit + 8 * lbn


/-- A map entry. -/
def Run.mapGet (r : Run s₀) (f : FurrowIx) (lbn : Nat) : Nat := r.readNat (.hbm f) ((r.fur f).grn.mapAddr lbn) 8

/-- A valid map entry naming a slot (R338). -/
def mapEntry (psa : Nat) : Nat := 2 ^ 63 + psa

/-- The PSA a map entry names, if it is VALID. -/
def mappedPsa (e : Nat) : Option Nat := if 2 ^ 63 ≤ e then some (e % 2 ^ 40) else none

/-- Journal record kinds (Table 15-4). -/
def JKind.write : Byte := 1
def JKind.move : Byte := 2
def JKind.discard : Byte := 3

/-- A map step: one entry changes, and one journal record takes the next SEQ (R340). -/
def Run.mapStep (r : Run s₀) (f : FurrowIx) (lbn new : Nat) (kind : Byte) : Run s₀ :=
  let g := (r.fur f).grn
  let seq := g.seq + 1
  (r.write (.hbm f) (g.mapAddr lbn) (leBytes 8 new)).modFur f fun c =>
    c.modGrn fun g =>
      { g with
        seq := seq
        records := g.records ++ [⟨seq, lbn, BitVec.ofNat 64 new, kind⟩]
        sinceCkpt := g.sinceCkpt + 1 }

/-- The discard of one LBN (R342); its request waits for the record. -/
def Run.discard (r : Run s₀) (f : FurrowIx) (h : Handle) (tag : Tag) (lbn : Nat) : Run s₀ :=
  let r := r.mapStep f lbn 0 JKind.discard
  r.modFur f fun c => c.modGrn fun g =>
    { g with writes := g.writes ++ [⟨h, tag, lbn, [], .recorded g.seq⟩] }

/-- The mounted Granary takes requests (R356). -/
def Granary.usable (g : Granary) : Bool := g.state = .ready || g.state = .readOnly

/-- Discard every mapped block of a range of LBNs, with no request waiting. -/
def Run.discardRange (r : Run s₀) (f : FurrowIx) (lo n : Nat) : Run s₀ :=
  if (r.fur f).grn.usable then
    r.each ((List.range n).map (lo + ·)) fun r l =>
      if (r.mapGet f l) = 0 then r else r.mapStep f l 0 JKind.discard
  else r

/-! ### Slots and records as they lie on the NAND (R336, R340, R349) -/

/-- Slot kinds (Table 15-3). -/
def SlotKind.data : Byte := 1
def SlotKind.journal : Byte := 2
def SlotKind.checkpoint : Byte := 3
def SlotKind.parity : Byte := 4
def SlotKind.pad : Byte := 5
def SlotKind.root : Byte := 6
def SlotKind.blockTable : Byte := 7

/-- Bytes followed by their CRC-32C. -/
def checked (b : List Byte) : List Byte := b ++ leBytes 4 (crc32c b)

/-- The 32-byte header of a slot in the spare area (Table 15-3). -/
def NandSlot.header (x : NandSlot) : List Byte :=
  checked (leBytes 8 x.seq.toNat ++ leBytes 8 (x.lbn % 2 ^ 40) ++ [x.kind] ++ List.replicate 11 0)

/-- A journal record (Table 15-4). -/
def JRec.bytes (x : JRec) : List Byte :=
  checked (leBytes 8 x.seq.toNat ++ leBytes 8 (x.lbn % 2 ^ 40) ++ leBytes 8 x.new.toNat ++ [x.kind, 0, 0, 0])

/-- A root record (Table 15-6). -/
def RootRec.bytes (x : RootRec) : List Byte :=
  checked (leBytes 8 x.seq.toNat ++ leBytes 4 x.logicalMib.toNat ++ leBytes 4 x.geometry.toNat ++ leBytes 8 x.ckptSeq.toNat ++
    leBytes 8 x.table.toNat ++ List.replicate 28 0)

/-- Cells that lie some bytes further on. -/
def shiftCells (k : Nat) (xs : List Host.Cell) : List Host.Cell := xs.map fun c => (k + c.1, c.2)

/-- What the exclusive-or of a stripe covers of a slot: its 4,096 bytes, and its header after them (R334). -/
def NandSlot.code (x : NandSlot) : List Host.Cell := x.data ++ shiftCells 4096 (bytesToCells x.header)

/-- The exclusive-or of two runs of cells in rising order; the fuel is their length. -/
def xorCells : Nat → List Host.Cell → List Host.Cell → List Host.Cell
  | 0, _, _ => []
  | _ + 1, [], ys => ys
  | _ + 1, xs, [] => xs
  | k + 1, x :: xs, y :: ys =>
    if x.1 < y.1 then x :: xorCells k xs (y :: ys)
    else if y.1 < x.1 then y :: xorCells k (x :: xs) ys
    else if x.2 = y.2 then xorCells k xs ys
    else (x.1, x.2 ^^^ y.2) :: xorCells k xs ys

/-- The parity slot of slots at one position of a stripe's other pages; the headers' exclusive-or follows the data's (R334; log 44). -/
def paritySlot (seq : W64) (xs : List NandSlot) : NandSlot :=
  { seq := seq, lbn := 0, kind := SlotKind.parity, unreadable := false
    data := xs.foldl (fun acc x => xorCells (acc.length + x.code.length) acc x.code) [] }

/-- A slot that closing a stripe fills (R337). -/
def padSlot (seq : W64) : NandSlot := { seq := seq, lbn := 0, kind := SlotKind.pad, data := [], unreadable := false }

/-- Journal records in slots of 128, in SEQ order (R340); the fuel is the number of records. -/
def journalSlots : Nat → List JRec → List NandSlot
  | 0, _ => []
  | _ + 1, [] => []
  | k + 1, x :: xs =>
    { seq := x.seq, lbn := 0, kind := SlotKind.journal, unreadable := false
      data := bytesToCells (((x :: xs).take 128).flatMap JRec.bytes) } :: journalSlots k ((x :: xs).drop 128)

/-- The SEQ of the last record of a journal slot; a record's KIND is never 0, so its last cell that is not 0 lies in it. -/
def NandSlot.lastSeq (x : NandSlot) : W64 :=
  match x.data.getLast? with | some c => x.seq + BitVec.ofNat 64 (c.1 / 32) | none => x.seq

/-- The current root record: the one of greatest SEQ. -/
def Nand.root (n : Nand) : Option RootRec :=
  n.roots.foldl (fun best x => match best with | none => some x | some y => if y.seq < x.seq then some x else some y) none

/-- The root record or the current checkpoint still refers to a system slot (R347, R350). -/
def Nand.refers (n : Nand) (p : Nat × NandSlot) : Bool :=
  if p.2.kind = SlotKind.journal then (match n.ckpt with | some (c, _) => decide (c ≤ p.2.lastSeq) | none => true)
  else if p.2.kind = SlotKind.checkpoint then (match n.ckpt with | some (c, _) => decide (p.2.seq = c) | none => false)
  else if p.2.kind = SlotKind.blockTable then (match n.root with | some x => decide (x.table.toNat = mapEntry p.1) | none => false)
  else false

/-- A programmed slot of the NAND by PSA. -/
def Nand.slot? (n : Nand) (psa : Nat) : Option NandSlot := (n.slots.find? fun p => p.1 = psa).map (·.2)

/-- The channel, die, block, page and slot of a PSA (Table 15-2). -/
def psaCh (p : Nat) : Nat := bitsOf p 39 39
def psaDie (p : Nat) : Nat := bitsOf p 38 34
def psaBlock (p : Nat) : Nat := bitsOf p 33 20
def psaPage (p : Nat) : Nat := bitsOf p 19 5
def psaSlot (p : Nat) : Nat := bitsOf p 4 0

/-- The PSA of its fields. -/
def psaOf (ch die block page slot : Nat) : Nat := ch * 2 ^ 39 + die * 2 ^ 34 + block * 2 ^ 20 + page * 2 ^ 5 + slot

/-- The bytes of the map area (R338): of the format that is mounted, being mounted or being written. -/
def Granary.mapBytes (g : Granary) : Nat :=
  2048 * (match g.state with
    | .mounting => (g.nand.root.map (·.logicalMib.toNat)).getD 0
    | .formatting => (g.format.map (·.2.2.toNat)).getD 0
    | _ => g.logicalMib.toNat)

/-- The channel is in service: mounted, and not isolated (R355). -/
def Furrow.channelUp (c : Furrow) (ch : Nat) : Bool :=
  c.health.nandMap.getLsbD ch && !c.pwr.nandOc.getLsbD ch

/-- The slot at a PSA decodes by itself: it is there, readable, on a die that answers and a channel in service (R344). -/
def Furrow.slotReads (c : Furrow) (psa : Nat) : Bool :=
  c.channelUp (psaCh psa) && !(c.grn.nand.dead.contains (psaCh psa, psaDie psa)) &&
    (match c.grn.nand.slot? psa with | some x => !x.unreadable | none => true)

/-- The other pages of the stripe of a PSA can all be read, so that the slot can be rebuilt (R344): every other die of the
stripe gives the same slot position. -/
def Furrow.rebuilds (c : Furrow) (psa : Nat) : Bool :=
  c.channelUp (psaCh psa) &&
    (c.grn.sbs.any fun b => b.ch.val = psaCh psa && b.num = psaBlock psa && b.dies.contains (psaDie psa) &&
      b.dies.all fun d => d = psaDie psa ||
        c.slotReads (psaOf (psaCh psa) d (psaBlock psa) (psaPage psa) (psaSlot psa)))

/-- The data of a block as the map and the NAND hold it: zeros when unmapped, none when it can be neither read nor rebuilt
(R338, R344). -/
def Run.blockData (r : Run s₀) (f : FurrowIx) (lbn : Nat) : Option (List Host.Cell) :=
  match mappedPsa (r.mapGet f lbn) with
  | none => some []
  | some psa =>
    let c := r.fur f
    if c.slotReads psa || c.rebuilds psa then
      some (match c.grn.nand.slot? psa with
        | some x => x.data
        | none => ((c.grn.stripes.toList.flatten.flatMap (·.filled)).find? fun x => x.psa = psa).elim [] (·.slot.data))
    else none

/-- The bytes of a range of a context's Granary region, when every block of it can be read. -/
def Run.grnRead (r : Run s₀) (f : FurrowIx) (h : Handle) (off n : Nat) : Option (List Host.Cell) :=
  let lo := off / 4096
  let hi := (off + n - 1) / 4096
  let base := (r.fur f).grnBaseLbn h
  ((List.range (hi + 1 - lo)).foldl (fun (acc : Option (List Host.Cell)) i =>
    match acc, r.blockData f (base + lo + i) with
    | some xs, some d => some (xs ++ (d.map fun c => ((lo + i) * 4096 + c.1, c.2)))
    | _, _ => none) (some [])).map fun xs =>
      (xs.filter fun c => decide (off ≤ c.1 ∧ c.1 < off + n)).map fun c => (c.1 - off, c.2)

end Sys2Proof.Machine
end

