-- ==== Sys2Proof/Machine/Contexts.lean ====
section
/-! DEFINITION. The context table (chapter 03, R69–R77, R91, R92): creation, shares, pairing, recovery, destruction and the
teardown of a faulting context. -/

namespace Sys2Proof.Machine

variable {s₀ : State}

/-! ### Running a descriptor -/

/-- A unit that a context holds is away at self-test: what would address it waits (R432; log 66). -/
def Furrow.unitAway (c : Furrow) (h : Handle) : Bool :=
  match c.bist.running with
  | some x =>
    (match x.target with
     | .unit cl u => if n : 16 * cl.val + u.val < 128 then c.t1Owner[16 * cl.val + u.val] = some h else false
     | _ => false)
  | none => false

/-- A place works for a context: it serves it, and another choice is at most 2 µs × 16 / (16 − L) old (R80). -/
def Serve.worksFor (x : Serve) (ns : W64) (h : Handle) : Bool :=
  x.now = some h && (x.next.isNone || decide (elapsed ns x.since * (16 - x.top.toNat) ≤ 32000))

/-- The engine a running descriptor was dispatched to works for its context now (R17, R80), and so does every core whose scratch
it names; control descriptors and other moves need no core. -/
def Furrow.servedAt (c : Furrow) (q : Request) : Bool :=
  (match q.place with
   | none => true
   | some (.core k) => c.cores[k].worksFor c.ns q.h
   | some (.text t) => c.texts[t].worksFor c.ns q.h) && (q.needs.all fun k => c.cores[k].worksFor c.ns q.h) && !c.unitAway q.h

/-- A cluster SRAM unit of a context is under self-test (R432). -/
def Furrow.testsUnitOf (c : Furrow) (h : Handle) : Bool :=
  match c.bist.running with
  | some ⟨.unit cl u, _, _⟩ => if x : 16 * cl.val + u.val < 128 then c.t1Owner[16 * cl.val + u.val] = some h else false
  | _ => false

/-- A descriptor names something in T1: one of its eight-byte words is a reference of TIER 1 (R432; log 66). -/
def namesT1 (d : List Byte) : Bool := [16, 24, 32, 40, 48, 56].any fun o => decide ((tref d o).tier = 1)

/-- The request that a command's engine works for: it is running, with the opcode, its engine serves the context, a span has given GO to
its part, and nothing that it names waits for a self-test. -/
def Furrow.atWork (c : Furrow) (h : Handle) (tag : Tag) (op : Byte) : Option Request :=
  match c.request? h tag with
  | none => none
  | some q => if q.phase = Phase.running ∧ opcodeOf q.desc = op ∧ q.await = none ∧ c.servedAt q ∧
      (q.gone ∨ (q.dones.isEmpty ∧ q.origin = none)) ∧ !(c.testsUnitOf h && namesT1 q.desc) then some q else none

/-- A status that says that no result is valid. -/
def failed (e : Ending) : Bool := e.status ≠ Status.done && e.status ≠ Status.doneShort

/-- The engine has finished the descriptor with an ending; a NEXT command carries it on (R53). A failure ends the request on every
member below as under cancellation (R424). -/
def Run.engineEnds (r : Run s₀) (f : FurrowIx) (h : Handle) (tag : Tag) (e : Ending) : Run s₀ :=
  r.modFur f fun c =>
    let c := if failed e then (match c.request? h tag with | some q => c.cancelMembers f q | none => c) else c
    (c.modReq h tag fun q => { q with phase := .engineDone e, uses := [] }).modCtx h Context.updateNs

/-- Carry out the running descriptor of a request: the work gives its ending. A command whose request is not at such a
descriptor finds nothing to do (log 1). -/
def Run.desc (r : Run s₀) (op : Byte) (f : FurrowIx) (h : Handle) (tag : Tag) (work : Request → Run s₀ → Run s₀ × Ending) : Run s₀ :=
  match (r.fur f).atWork h tag op with
  | none => r
  | some q => let p := work q r; p.1.engineEnds f h tag p.2

/-- The command of a descriptor whose work gives its ending. -/
def runDesc (op : Byte) (f : FurrowIx) (h : Handle) (tag : Tag) (s : State)
    (work : Request → Run s → Run s × Ending) : Host.Outcome State Fault Refusal := ((Run.start s).desc op f h tag work).done

/-- A core still serves a context (R309). -/
def Furrow.coreServes (c : Furrow) (h : Handle) (core : Nat) : Bool :=
  if x : core < 64 then decide (c.cores[core].now = some h) else false

/-- A descriptor is cut off: what it was to write here is undefined (R89), host memory among it; the scratch of a core that no longer serves
the context stays cleared (R309). -/
def Run.ruin (r : Run s₀) (f : FurrowIx) (q : Request) : Run s₀ :=
  r.each q.outs fun r x =>
    if x.2.1 = 0 && !(r.fur f).coreServes q.h x.1 then r
    else
      let p := r.freeBytes x.2.2.2
      if x.2.1 = 5 then p.2.toHost ((r.fur f).hostAt q.h x.2.2.1) p.1 else p.2.store f q.h x.1 x.2.1 x.2.2.1 p.1

/-! ### Units -/

/-- A unit is in service, in a cluster in service. -/
def Furrow.unitUp (c : Furrow) (u : Fin 128) : Bool :=
  c.health.units.getLsbD u.val && c.health.clusters.getLsbD (u.val / 16)

/-- The units that handle 0 holds after a reset: in each cluster in service the lowest unit in service (R70; log 17). -/
def Health.unitsAtReset (x : Health) : Vector (Option Handle) 128 :=
  Vector.ofFn fun u =>
    let up := fun (v : Fin 128) => x.units.getLsbD v.val && x.clusters.getLsbD (v.val / 16)
    if up u && !((List.finRange 128).any fun v => decide (v.val / 16 = u.val / 16 ∧ v.val < u.val) && up v) then some 0 else none

/-- The free units of a cluster under an owner map, ascending (R310). -/
def Furrow.freeUnits (c : Furrow) (own : Vector (Option Handle) 128) (cl : Nat) : List (Fin 128) :=
  (List.finRange 128).filter fun u => u.val / 16 = cl && own[u] = none && c.unitUp u

/-- The cluster with the most free units; ties go to the lower cluster (R310). -/
def Furrow.roomiest (c : Furrow) (own : Vector (Option Handle) 128) : Nat :=
  (List.range 8).foldl (fun best cl =>
    if (c.freeUnits own best).length < (c.freeUnits own cl).length then cl else best) 0

/-- R310's allocation of n units to a handle. -/
def Furrow.allocate (c : Furrow) (h : Handle) : Nat → Vector (Option Handle) 128 → Vector (Option Handle) 128
  | 0, own => own
  | n + 1, own =>
    match c.freeUnits own (c.roomiest own) with
    | [] => own
    | u :: _ => c.allocate h n (own.set u (some h))

/-- The units held by no context. -/
def Furrow.freeCount (c : Furrow) : Nat := ((List.finRange 128).filter fun u => c.t1Owner[u] = none && c.unitUp u).length

/-- A context gives its units up; those pending retirement retire (R433). -/
def Furrow.freeUnitsOf (c : Furrow) (h : Handle) : Furrow :=
  let due := (List.finRange 128).filter fun u => c.t1Owner[u] = some h && c.bist.unitsPending.getLsbD u.val
  let c := { c with t1Owner := c.t1Owner.map fun o => if o = some h then none else o }
  due.foldl (fun (c : Furrow) u => ((c.keepHealth fun x => { x with units := dropBit x.units u.val }).modBist fun b =>
    { b with unitsPending := dropBit b.unitsPending u.val }).raise
      { retiredRecord 2 with cluster := BitVec.ofNat 8 (u.val / 16), bank := BitVec.ofNat 8 (u.val % 16) } []) c

/-- Write zeros over a context's cluster SRAM units. -/
def Run.zeroUnits (r : Run s₀) (f : FurrowIx) (h : Handle) : Run s₀ :=
  r.each ((r.fur f).unitsOf h) fun r u => r.blank f (.t1 f) (u * mib) mib

/-- A place no longer serves a context, and holds nothing of it. -/
def Serve.without (x : Serve) (h : Handle) : Serve :=
  { x with now := if x.now = some h then none else x.now, next := if x.next = some h then none else x.next }

/-- Clear the scratch of every core that serves a context, and leave its cores and text engines idle (R17, R91). -/
def Run.clearCores (r : Run s₀) (f : FurrowIx) (h : Handle) : Run s₀ :=
  let ks := (List.finRange 64).filter fun k => (r.fur f).cores[k].now = some h
  (r.each ks fun r k => r.blank f (.t0 f) (k.val * hbmUnit) hbmUnit).modFur f fun c =>
    { c with cores := c.cores.map fun x => x.without h, texts := c.texts.map fun x => x.without h }

/-! ### Bindings and slots of a context that ends -/

/-- The span bindings of a context end: a root sends SPAN_END to its members (R91, R377). -/
def Furrow.endBinding (c : Furrow) (f : FurrowIx) (h : Handle) : Furrow :=
  let span := c.ctx[h].spanId
  let c := match c.bind? h with
    | none => c
    | some b => b.entries.foldl (fun (c : Furrow) (m : MemberEntry) =>
        c.route f { c.packet f Kind.spanJoin m.id span 0 with aux := 1 }) c
  let c := c.modPyr fun y => { y with spans := y.spans.filter fun b => b.h ≠ h }
  c.modCtx h fun x => { x with spanId := 0, role := .none }

/-- Slots that a torn-down or destroyed context owned return to IDLE without draining (R156, R295). -/
def Furrow.idleSlots (c : Furrow) (h : Handle) : Furrow :=
  { c with
    srch := c.srch.map fun t =>
      if t.owner.toNat = h.val ∧ t.state ≠ .idle then
        { t with state := .idle, enable := false, views := [], users := [], mergeRunning := false } else t
    tbl := c.tbl.map fun t =>
      if t.owner.toNat = h.val ∧ t.state ≠ .idle then
        { t with state := .idle, enable := false, holds := [], migration := none, stale := false, curRefs := 0, oldRefs := 0 } else t
    attached := c.attached.filter fun a => a.h ≠ h }

/-- The owner's engines have aborted: its slots go IDLE, and a MERGE of handle 0 on one of them ends with the owner's outcome (R156). -/
def Run.idleOwned (r : Run s₀) (f : FurrowIx) (h : Handle) (e : Request → Ending) : Run s₀ :=
  let c := r.fur f
  let us := c.srch.toList.flatMap fun t => if t.owner.toNat = h.val ∧ t.state ≠ .idle then t.users else []
  let qs := c.reqs.filter fun q => q.h ≠ h && q.phase = Phase.running && us.contains (q.order, q.idx)
  (r.each qs fun r q => r.engineEnds f q.h q.tag (e q)).modFur f fun c => c.idleSlots h

/-! ### Teardown (R91) -/

/-- The opcode that a CONTEXT_FAULT record names: the running descriptor's, or 0 (R92). -/
def Request.runningOp (q : Request) : Nat :=
  match q.phase with
  | .running => (opcodeOf q.desc).toNat
  | _ => 0

/-- The code of a cause (Table 03-13). -/
def causeCode : FaultCause → Nat
  | .hostTranslation => 1
  | .hostAbort => 2
  | .regionViolation => 3
  | .completionWrite => 4
  | .planInvalid => 5
  | .spanRootLost => 6

/-- The error record of a teardown (Table 19-3): CONTEXT_FAULT, or SPAN_ROOT_LOST with the span's identifier. -/
def teardownRecord (cause : FaultCause) (h : Handle) (addr : W64) (span : W32) : ErrRec :=
  let host := cause = .hostTranslation || cause = .hostAbort || cause = .completionWrite
  { (if cause = .spanRootLost then errRec 0x11 3 span.toNat else errRec 0x10 3 (causeCode cause)) with
    ctx := BitVec.ofNat 16 h.val, addr := if host then addr else 0 }

/-- A request of a context that is torn down ends CONTEXT_FAULT, and posts it unless the fault is COMPLETION_WRITE (R91); one whose cancel
was registered first is CANCELLED (R92). -/
def Run.faultEnds (r : Run s₀) (f : FurrowIx) (h : Handle) (cause : FaultCause) (q : Request) : Run s₀ :=
  let r := if q.isEnded then r else r.ruin f q
  let st := if q.phase = Phase.aborting then Status.cancelled else Status.contextFault
  let r := if q.isEnded then r
    else (if cause = .completionWrite ∨ cause = .hostAbort then r else r.closeStream f h q.tag st).modFur f fun c =>
      c.finish f h q.tag (.bare st (if q.phase = Phase.aborting then 0 else faultDetail (causeCode cause) q.runningOp))
  if cause = .completionWrite then r else r.postFinal f h q.tag

/-- Steps 1 to 3 of a teardown (R91): fetching stops, the engines abort, and each outstanding request registers CONTEXT_FAULT and posts it
in fetch order. A step's commit under way comes to its end first (R276; log 90). -/
def Run.faultRequests (r : Run s₀) (f : FurrowIx) (h : Handle) (cause : FaultCause) (addr : W64) : Run s₀ :=
  let open_ := (r.fur f).outstanding h
  let r := r.modFur f fun c => c.modCtx h fun x => { x with fault := some (cause, addr), rings := { x.rings with kept := [], openRun := none } }
  let r := r.each open_ fun r q => if q.inCommit then r else r.faultEnds f h cause q
  r.idleOwned f h fun q => .bare Status.contextFault (faultDetail (causeCode cause) q.runningOp)

/-- No commit is under way, and the records of step 3 have all been posted (R91, R58), or will not be. -/
def Furrow.faultPosted (c : Furrow) (h : Handle) (cause : FaultCause) : Bool :=
  (cause = .completionWrite && !(c.outstanding h).any fun q => q.inCommit) || ((c.outstanding h).isEmpty && c.ctx[h].rings.holding.isEmpty)

/-- Steps 4 to 7 of a teardown (R91): the error record and CTX_FAULT; scratch, walker contexts, Winnow state and units; bindings; rings
and state. -/
def Run.faultRest (r : Run s₀) (f : FurrowIx) (h : Handle) (cause : FaultCause) (addr : W64) : Run s₀ :=
  let r := r.modFur f fun c =>
    let c := c.raise (teardownRecord cause h addr c.ctx[h].spanId) []
    let c := c.tallyClose f h 0x03 true
    c.modCtx h fun x =>
      { x with
        faultReason := BitVec.ofNat 8 (causeCode cause)
        faultAddr := if cause = .planInvalid ∨ cause = .spanRootLost then 0 else addr.extractLsb' 12 52 }
  let r := (r.clearCores f h).zeroUnits f h
  r.modFur f fun c =>
    let c := { (c.endBinding f h).idleSlots h with reqs := c.reqs.filter (fun q => q.h ≠ h), steps := c.steps.filter fun w => w.h ≠ h }
    c.modCtx h fun x =>
      { x with
        state := .faulted, fault := none
        rings := { x.rings with state := .error, holding := [], kept := [], openRun := none } }

/-- The teardown of a context, in the order of R91. While a record of step 3 finds no room, the rest waits: no record is dropped (R58);
it goes on when the teardown is taken up again. -/
def Run.teardown (r : Run s₀) (f : FurrowIx) (h : Handle) (cause : FaultCause) (addr : W64) : Run s₀ :=
  let x := ((r.fur f).ctx[h].fault).getD (cause, addr)
  let r := if ((r.fur f).ctx[h].fault).isNone then r.faultRequests f h cause addr else r
  if (r.fur f).faultPosted h x.1 then r.faultRest f h x.1 x.2 else r

/-- CONTEXT_FAULT (R91, R32, R24): a fault cause arises for a context that exists and is not yet torn down, or its teardown goes on. -/
def execContextFault (f : FurrowIx) (h : Handle) (cause : FaultCause) (addr : W64) (s : State) :
    Host.Outcome State Fault Refusal :=
  let x := (s.furrow f).ctx[h]
  (if x.state = .ready ∨ x.state = .member then (Run.start s).teardown f h cause addr else Run.start s).done

/-- A context returns from FAULTED to READY with its rings DISABLED (R77, Table 03-8). -/
def Furrow.recoverCtx (c : Furrow) (f : FurrowIx) (h : Handle) : Furrow :=
  (c.tallyClose f h 0x08 true).modCtx h fun x =>
    { x with state := .ready, fault := none, spanId := 0, role := .none, rings := { x.rings with state := .disabled } }

/-- CTX_RECOVER0 (Table 03-8): handle 0 is FAULTED and returns to READY. -/
def execCtxRecover0 (f : FurrowIx) (s : State) : Host.Outcome State Fault Refusal :=
  ((Run.start s).modFur f fun c =>
    if !s.reaches f 0x10008 then c else if c.ctx[0].state = .faulted then c.recoverCtx f 0 else c).done

/-! ### Context operations: checks -/

/-- The handle a context operation names, bytes 16–17. -/
def opHandle (d : List Byte) : Option Handle := if h : df d 16 2 < 64 then some ⟨df d 16 2, h⟩ else none

/-- Context operations run only from handle 0's ring (R73). -/
def onlyManager (h : Handle) : Option Refuse := badIf (decide (h ≠ 0)) 0

/-- The checks at fetch of CTX_CREATE (Table 03-10, R74): those on its own bytes and the furrow's capacity. -/
def fetchCtxCreate (h : Handle) (d : List Byte) : Option Refuse :=
  firstFail [onlyManager h, reservedField d 20 4 31 20, reservedBytes d 41 63,
    badIf (decide (df d 16 2 = 0) || decide (63 < df d 16 2)) 16, badIf (decide (df d 18 2 = 0)) 18,
    badIf (decide (hbmBytes < (df d 24 4 + df d 28 4) * hbmUnit)) 24, badIf (decide (df d 28 4 = 0)) 28,
    badIf (decide (df d 40 1 = 0) || decide (128 < df d 40 1)) 40]

/-- A handle other than one whose region a new region would overlap. -/
def Furrow.regionTaken (c : Furrow) (base size : Nat) (hbm : Bool) : Bool :=
  (List.finRange 64).any fun g => decide (g ≠ 0) && c.ctx[g].owns &&
    (if hbm then overlaps base size c.ctx[g].hbmBase.toNat c.ctx[g].hbmSize.toNat
     else overlaps base size c.ctx[g].grnBase.toNat c.ctx[g].grnSize.toNat)

/-- The map area, while the Granary is not OFFLINE, or the self-test save area, while SAVE_VALID is 1, lies in an HBM range
(R339, R432). -/
def Furrow.reservedHbm (c : Furrow) (a n : Nat) : Bool :=
  (decide (c.grn.state ≠ .offline) && overlaps a n (c.grn.mapBase.toNat * hbmUnit) c.grn.mapBytes) ||
    (c.bist.saveValid && overlaps a n (c.bist.save.toNat * hbmUnit) mib)

/-- The checks at start of CTX_CREATE (R74, R339, R432). Byte 25 of a NO_UNITS refusal names T1_UNITS, byte 40 (DESIGN CHOICE, log 77: the
spec gives no byte). -/
def startCtxCreate (c : Furrow) (d : List Byte) : Option Refuse :=
  let gb := df d 32 4
  let gs := df d 36 4
  firstFail [badIf (match opHandle d with | some g => c.ctx[g].state != .free | none => true) 16,
    badIf (c.regionTaken (df d 24 4) (df d 28 4) true ||
      c.reservedHbm (df d 24 4 * hbmUnit) (df d 28 4 * hbmUnit)) 24,
    badIf (decide (gs ≠ 0) && (!c.grn.usable || decide (c.grn.logicalMib.toNat < gb + gs) ||
      c.regionTaken gb gs false)) 32,
    failIf (decide (c.freeCount < df d 40 1)) ⟨Reason.noUnits, 40, 0⟩]

/-- Table 03-9a, the checks on the handle that all five operations share, in its order: `zero` allows handle 0. -/
def checkHandle (d : List Byte) (zero : Bool) : Option Refuse :=
  firstFail [badIf (decide (63 < df d 16 2)) 16, badIf (!zero && decide (df d 16 2 = 0)) 16]

/-- The named handle is FREE or DESTROYING (Table 03-9a). -/
def goneHandle (c : Furrow) (d : List Byte) : Option Refuse :=
  badIf (match opHandle d with
    | some g => c.ctx[g].state = .free || c.ctx[g].state = .destroying
    | none => true) 16

/-- The checks of CTX_SET_SHARES on its own bytes, up to the first check of Table 03-9a that reads the furrow (R75, R476; log 82). -/
def fetchCtxSetShares (h : Handle) (d : List Byte) : Option Refuse :=
  firstFail [onlyManager h, reservedBytes d 20 63, checkHandle d false]

/-- The checks of CTX_SET_SHARES that follow the first one that reads the furrow, in the order of Table 03-9a. -/
def startCtxSetShares (c : Furrow) (d : List Byte) : Option Refuse := firstFail [goneHandle c d, badIf (decide (df d 18 2 = 0)) 18]

/-- The checks of CTX_PAIR_FALLBACK on its own bytes. -/
def fetchCtxPairFallback (h : Handle) (d : List Byte) : Option Refuse :=
  firstFail [onlyManager h, reservedBytes d 18 19, reservedBytes d 28 63, checkHandle d true]

/-- The checks of CTX_RECOVER and CTX_DESTROY on their own bytes. -/
def fetchCtxHandleOnly (h : Handle) (d : List Byte) : Option Refuse :=
  firstFail [onlyManager h, reservedBytes d 18 63, checkHandle d false]

/-- A plan handle is loaded for a context. -/
def Furrow.planLoaded (c : Furrow) (h : Handle) (n : Nat) : Bool := c.plans.any fun p => p.h = h && p.n.toNat = n

/-- The checks of CTX_PAIR_FALLBACK that read the furrow (Table 03-9a). -/
def startCtxPairFallback (c : Furrow) (d : List Byte) : Option Refuse :=
  firstFail [goneHandle c d,
    badIf (match opHandle d with | some g => !c.planLoaded g (df d 20 4) | none => true) 20,
    badIf (decide (df d 24 4 ≠ 0) && (match opHandle d with | some g => !c.planLoaded g (df d 24 4) | none => true) ||
      decide (df d 24 4 = df d 20 4)) 24]

/-- The checks of CTX_RECOVER that read the furrow (Table 03-9a). -/
def startCtxRecover (c : Furrow) (d : List Byte) : Option Refuse :=
  firstFail [goneHandle c d, badIf (match opHandle d with | some g => c.ctx[g].state != .faulted | none => true) 16]

/-! ### Context operations: meanings -/

/-- The table entry that CTX_CREATE writes (Tables 03-3 to 03-8, 03-10): counters zero, rings DISABLED. -/
def createdContext (d : List Byte) : Context :=
  { Context.initial with
    state := .ready
    shares := BitVec.ofNat 16 (df d 18 2)
    pasid := BitVec.ofNat 20 (df d 20 4)
    hbmBase := BitVec.ofNat 32 (df d 24 4)
    hbmSize := BitVec.ofNat 32 (df d 28 4)
    grnBase := BitVec.ofNat 32 (df d 32 4)
    grnSize := BitVec.ofNat 32 (df d 36 4) }

/-- What CTX_CREATE does to the furrow's tables: the entry, the units, the Tally's creation count and open record. -/
def Furrow.create (c : Furrow) (g : Handle) (d : List Byte) : Furrow :=
  let c := { c with t1Owner := c.allocate g (df d 40 1) c.t1Owner }
  let c := c.modTally fun t => { t with creation := t.creation.set g (t.creation[g] + 1) }
  (c.modCtx g fun _ => createdContext d).tallyOpen g

/-- CTX_CREATE (R74, R310): the handle is READY with its regions, which read as zero, its units, shares and PASID. -/
def execCtxCreate (f : FurrowIx) (h : Handle) (tag : Tag) (s : State) : Host.Outcome State Fault Refusal :=
  runDesc 0xF8 f h tag s fun q r =>
    let d := q.desc
    match opHandle d with
    | none => (r, (Refuse.operand 16).ending)
    | some g =>
      let r := r.modFur f fun c => c.create g d
      let r := r.blank f (.hbm f) (df d 24 4 * hbmUnit) (df d 28 4 * hbmUnit)
      (r.discardRange f (df d 32 4 * 256) (df d 36 4 * 256), Ending.ok 0 0)

/-- CTX_SET_SHARES (R75, R79): the shares are recorded and take effect at the next quantum boundary. -/
def execCtxSetShares (f : FurrowIx) (h : Handle) (tag : Tag) (s : State) : Host.Outcome State Fault Refusal :=
  runDesc 0xF9 f h tag s fun q r =>
    match opHandle q.desc with
    | none => (r, (Refuse.operand 16).ending)
    | some g =>
      (r.modFur f fun c => c.modCtx g fun x => { x with nextShares := some (BitVec.ofNat 16 (df q.desc 18 2)) },
       Ending.ok 0 0)

/-- The pairings of a context after CTX_PAIR_FALLBACK: one per primary; a fallback of 0 unpairs (Table 03-9). -/
def pairWith (xs : List (W32 × W32)) (primary fallback : W32) : List (W32 × W32) :=
  let others := xs.filter fun p => p.1 ≠ primary
  if fallback = 0 then others else others ++ [(primary, fallback)]

/-- CTX_PAIR_FALLBACK (R75). -/
def execCtxPairFallback (f : FurrowIx) (h : Handle) (tag : Tag) (s : State) : Host.Outcome State Fault Refusal :=
  runDesc 0xFB f h tag s fun q r =>
    match opHandle q.desc with
    | none => (r, (Refuse.operand 16).ending)
    | some g =>
      (r.modFur f fun c => c.modCtx g fun x =>
         { x with pairs := pairWith x.pairs (BitVec.ofNat 32 (df q.desc 20 4)) (BitVec.ofNat 32 (df q.desc 24 4)) },
       Ending.ok 0 0)

/-- CTX_RECOVER (R77): the FAULTED handle is READY and unbound; regions, shares, pairings and counters stay. -/
def execCtxRecover (f : FurrowIx) (h : Handle) (tag : Tag) (s : State) : Host.Outcome State Fault Refusal :=
  runDesc 0xFC f h tag s fun q r =>
    match opHandle q.desc with
    | none => (r, (Refuse.operand 16).ending)
    | some g => (r.modFur f fun c => c.recoverCtx f g, Ending.ok 0 0)

/-- Steps 1 to 3 of R76: fetching stops, every outstanding request ends CANCELLED with the effects of Cancellation, a span's once its members
have acknowledged (Table 03-14), and the records are posted as the rings drain. -/
def Run.destroyRequests (r : Run s₀) (f : FurrowIx) (g : Handle) : Run s₀ :=
  let r := r.modFur f fun c =>
    let c := if c.ctx[g].state = .destroying then c else c.tallyClose f g 0x02 false
    c.modCtx g fun x =>
      { x with
        state := .destroying
        rings := { x.rings with kept := [], openRun := none,
                                state := if x.rings.state = .active then .draining else x.rings.state } }
  let r := r.each ((r.fur f).outstanding g) fun r q =>
    let r := if q.isEnded ∨ !q.dones.isEmpty then r else r.ruin f q
    let r := if q.isEnded then r
      else
        let r := if q.phase = Phase.aborting then r else r.modFur f fun c => c.cancelReq f g q.tag
        if q.inCommit ∨ !q.dones.isEmpty then r
        else (r.closeStream f g q.tag Status.cancelled).modFur f fun c => c.finish f g q.tag (.bare Status.cancelled 0)
    r.postFinal f g q.tag
  if ((r.fur f).outstanding g).all fun q => q.isEnded then r.idleOwned f g fun _ => .bare Status.cancelled 0 else r

/-- Every outstanding request of a context being destroyed has ended and posted its record, or cannot post it because its rings are in
ERROR or DISABLED (R76, step 3). -/
def Furrow.drained (c : Furrow) (g : Handle) : Bool :=
  ((c.outstanding g).all fun q => q.isEnded) && (c.ctx[g].rings.state != .draining) || ((c.outstanding g).isEmpty && c.ctx[g].rings.holding.isEmpty)

/-- Steps 4 to 6 of R76: HBM region and units are zeroed, the Granary region is discarded, everything returns to handle 0,
and the measurement log drops the context's entries (R395). -/
def Run.destroyRest (r : Run s₀) (f : FurrowIx) (g : Handle) : Run s₀ :=
  let x := (r.fur f).ctx[g]
  let r := r.blank f (.hbm f) (x.hbmBase.toNat * hbmUnit) (x.hbmSize.toNat * hbmUnit)
  let r := (r.clearCores f g).zeroUnits f g
  let r := r.discardRange f (x.grnBase.toNat * 256) (x.grnSize.toNat * 256)
  r.modFur f fun c =>
    let c := (c.endBinding f g).idleSlots g
    let c := c.freeUnitsOf g
    let c := { c with
      reqs := c.reqs.filter fun q => q.h ≠ g
      steps := c.steps.filter fun w => w.h ≠ g
      toks := c.toks.filter fun b => b.h ≠ g
      plans := c.plans.filter fun b => b.h ≠ g
      peers := c.peers.filter fun p => p.1 ≠ g
      halfImages := c.halfImages.filter fun p => p.1 ≠ g
      winEn := c.winEn.set g false
      winSize := c.winSize.set g 0 }
    let c := c.modSec fun z => { z with log := z.log.filter fun e => e.handle.toNat ≠ g.val }
    c.modCtx g fun _ => Context.initial

/-- CTX_DESTROY (R76): it completes only when all is done; while a record still waits for room in the rings the command
leaves the descriptor running. -/
def execCtxDestroy (f : FurrowIx) (h : Handle) (tag : Tag) (s : State) : Host.Outcome State Fault Refusal :=
  (match (s.furrow f).atWork h tag 0xFD with
   | none => Run.start s
   | some q =>
     match opHandle q.desc with
     | none => (Run.start s).engineEnds f h tag (Refuse.operand 16).ending
     | some g =>
       let r := (Run.start s).destroyRequests f g
       if (r.fur f).drained g then (r.destroyRest f g).engineEnds f h tag (Ending.ok 0 0) else r).done

/-! ### Control descriptors (R65, R66) -/

/-- Every earlier request on the ring has posted its final record or ended DONE under QUIET: none is outstanding (R65). -/
def Furrow.earlierGone (c : Furrow) (h : Handle) (order : Nat) : Bool :=
  (c.outstanding h).all fun q => decide (order ≤ q.order)

/-- The Granary writes of a context here are durable, those of cancelled and failed requests among them, and its fabric writes have been
answered (Table 02-21, BARRIER; R68). -/
def Furrow.granaryQuiet (c : Furrow) (h : Handle) : Bool :=
  (c.grn.writes.all fun w => w.h ≠ h) && !(c.pyr.txs ++ c.pyr.orphans).any fun x => x.h = h && x.kind = Kind.write

/-- The checks of NOP, FENCE and BARRIER at fetch (Table 02-21). -/
def fetchControl (op : Nat) (d : List Byte) : Option Refuse :=
  if op = 0xF0 then reservedBytes d 16 63
  else firstFail [reservedBytes d 32 63, badIf (decide (df d 16 8 % 8 ≠ 0)) 16]

/-- The signal write of a fence, after the earlier requests' records and before its own (R66). -/
def Run.signal (r : Run s₀) (f : FurrowIx) (h : Handle) (d : List Byte) : Run s₀ :=
  if df d 16 8 = 0 then r else r.toHost ((r.fur f).hostAt h (df d 16 8)) (bytesAt d 24 8)

/-- NOP (R65): it has been fetched and checked. -/
def execNop (f : FurrowIx) (h : Handle) (tag : Tag) (s : State) : Host.Outcome State Fault Refusal :=
  runDesc 0xF0 f h tag s fun _ r => (r, Ending.ok 0 0)

/-- A fence whose condition holds writes its signal and ends; a member's part of one writes none. -/
def runFence (op : Byte) (f : FurrowIx) (h : Handle) (tag : Tag) (ready : Request → Bool) (s : State) :
    Host.Outcome State Fault Refusal :=
  (match (s.furrow f).atWork h tag op with
   | none => Run.start s
   | some q =>
     if ready q then
       (if q.origin.isSome then Run.start s else (Run.start s).signal f h q.desc).engineEnds f h tag (Ending.ok 0 0)
     else Run.start s).done

/-- FENCE (R65, R66). -/
def execFence (f : FurrowIx) (h : Handle) (tag : Tag) (s : State) : Host.Outcome State Fault Refusal :=
  runFence 0xF1 f h tag (fun q => (s.furrow f).earlierGone h q.order) s

/-- BARRIER (R65, R66, R68): as FENCE, and every Granary and fabric write of the earlier requests is durable and visible, on every member of
a span (log 81): each member's part waits for its own, and the root for all of them. -/
def execBarrier (f : FurrowIx) (h : Handle) (tag : Tag) (s : State) : Host.Outcome State Fault Refusal :=
  runFence 0xF2 f h tag (fun q => q.dones.isEmpty && (q.origin.isSome || (s.furrow f).earlierGone h q.order) && (s.furrow f).granaryQuiet h) s

end Sys2Proof.Machine
end

