-- ==== Sys2Proof/Machine/Schedule.lean ====
section
/-! DEFINITION. Which context each core and text engine serves (R17, R78–R80), engine time and virtual time (R81), and what
one cycle of the 156.25 MHz reference does to a furrow (R26, R452–R455). -/

namespace Sys2Proof.Machine

variable {s₀ : State}

/-! ### Work and places -/

/-- The engine classes that an opcode's work runs on, as its chapter's tables and cost rules name them. -/
def opClasses (op : Nat) : List EngClass :=
  match op with
  | 0x10 | 0x11 | 0x12 | 0x13 | 0x14 | 0x15 => [.move]
  | 0x20 | 0x21 => [.matrix]
  | 0x22 | 0x23 | 0x24 | 0x25 | 0x26 | 0x27 => [.vector]
  | 0x30 => [.walk, .hamming]
  | 0x31 => [.hamming]
  | 0x38 | 0x39 | 0x3A | 0x3C => [.move]
  | 0x3B => [.walk]
  | 0x40 | 0x41 => [.winnow, .vector]
  | 0x50 | 0x51 | 0x52 | 0x53 | 0x54 | 0x55 | 0x56 => [.text]
  | 0x58 => [.move, .text]
  | 0x59 => [.vector]
  | 0x5A => [.text, .move]
  | 0x63 | 0x68 => [.matrix, .vector]
  | 0x60 | 0x61 | 0x62 | 0x64 | 0x65 | 0x66 => [.move]
  | 0x70 | 0x71 => [.move, .vector]
  | 0x72 | 0x73 | 0x80 | 0x81 | 0x82 | 0x90 | 0x91 | 0x92 => [.move]
  | _ => []

/-- A class whose engine stands in a core. -/
def coreClass (k : EngClass) : Bool := k != .text && k != .move

/-- The classes of an opcode that a kind of place carries out. -/
def placeTakes (u : Place) (k : EngClass) : Bool :=
  match u with
  | .core _ => coreClass k
  | .text _ => k == .text

/-- The cluster a place is in. -/
def placeCluster : Place → ClusterIx
  | .core k => ⟨k.val / 8, by have := k.isLt; omega⟩
  | .text c => c

/-- What a place serves. -/
def Furrow.serveAt (c : Furrow) : Place → Serve
  | .core k => c.cores[k]
  | .text t => c.texts[t]

/-- Change what a place serves. -/
def Furrow.setServe (c : Furrow) (u : Place) (x : Serve) : Furrow :=
  match u with
  | .core k => { c with cores := c.cores.set k x }
  | .text t => { c with texts := c.texts.set t x }

/-- The target of self-test that a place is. -/
def placeTests (u : Place) (b : BistTarget) : Bool :=
  match u, b with
  | .core k, .core k' _ => k == k'
  | .text t, .text t' => t == t'
  | _, _ => false

/-- The slice that runs now, if any, with those withheld after a first difference (R431, R433). -/
def Bist.away (b : Bist) : List BistTarget := (b.running.toList.map (·.target)) ++ b.withheld

/-- A place is in service and not away at self-test (Tables 01-5, 01-6, R431). -/
def Furrow.placeUp (c : Furrow) (u : Place) : Bool :=
  (match u with
   | .core k => c.health.cores.getLsbD k.val
   | .text t => c.health.text.getLsbD t.val) && c.health.clusters.getLsbD (placeCluster u).val && !c.bist.away.any (placeTests u)

/-- A run that is not over keeps the cores that it has pinned, so that their scratch lasts from one of its descriptors to the
next (R309, R475). -/
def Request.holdsCore (q : Request) : Place → Bool
  | .core k =>
    (match q.phase with
     | .queued | .running | .engineDone _ => true
     | .partRun | .aborting | .ended _ => false) && q.pinned.any fun p => decide (k.val = p.1.val * 8 + p.2.val)
  | .text _ => false

/-- A search that runs is bound to its core: each walk runs wholly on one (R161). -/
def Request.elsewhere (q : Request) (u : Place) : Bool :=
  q.phase = Phase.running && opcodeOf q.desc = 0x30 && q.place.isSome && !decide (q.place = some u)

/-- A request has work for a place: its descriptor is waiting or running, and one of the opcode's classes is the
place's, or it moves data in the core's scratch (R309, R311); or its run holds the core. -/
def Request.hasWork (q : Request) (u : Place) : Bool :=
  (q.phase = Phase.queued || q.phase = Phase.running) &&
    ((opClasses (opcodeOf q.desc).toNat).any (placeTakes u) && !q.elsewhere u || (match u with | .core k => q.needs.contains k | .text _ => false)) ||
    q.holdsCore u

/-- The ready set of a place (R78), ascending by handle. -/
def Furrow.ready (c : Furrow) (u : Place) : List Handle :=
  (List.finRange 64).filter fun h => c.holdsIn h (placeCluster u).val && c.reqs.any fun q => q.h = h && q.hasWork u

/-- A context is served by some core or text engine. -/
def Furrow.isServed (c : Furrow) (h : Handle) : Bool :=
  c.cores.toList.any (fun x => x.now = some h) || c.texts.toList.any fun x => x.now = some h

/-- The least virtual time over contexts that cores serve now (R78). -/
def Furrow.lowVt (c : Furrow) : Option Nat :=
  c.cores.toList.foldl (fun low x =>
    match x.now, low with
    | none, l => l
    | some h, none => some c.ctx[h].vt
    | some h, some l => some (min l c.ctx[h].vt)) none

/-- The member of a list with the least virtual time; ties go to the lower handle, which stands first. -/
def Furrow.leastVt (c : Furrow) : List Handle → Option Handle
  | [] => none
  | h :: rest =>
    match c.leastVt rest with
    | none => some h
    | some g => if c.ctx[h].vt ≤ c.ctx[g].vt then some h else some g

/-- No credit is banked while idle: a ready context that was not served in the previous quantum, and had no ready work when it
began, starts at `low` (R78; that a context which waits with work keeps its virtual time is what R79 needs, log 29). -/
def Furrow.catchUp (c : Furrow) (hs : List Handle) : Furrow :=
  match c.lowVt with
  | none => c
  | some low => hs.foldl (fun c h =>
      if c.ctx[h].servedBefore || c.ctx[h].hadWork then c else c.modCtx h fun x => { x with vt := max x.vt low }) c

/-- A place's break of service: a core's scratch reads as zeros from then on (R17, R309). -/
def Run.leave (r : Run s₀) (f : FurrowIx) (u : Place) : Run s₀ :=
  let r := match u with
    | .core k => r.blank f (.t0 f) (k.val * hbmUnit) hbmUnit
    | .text _ => r
  r.modFur f fun c => c.setServe u .idle

/-- An engine instance stands in a place. -/
def EngUse.inPlace (e : EngUse) (u : Place) : Bool :=
  match u with
  | .core k => coreClass e.cls && e.place == k.val
  | .text t => e.cls == .text && e.place == t.val

/-- A request resumes at a place: what Table 03-11 kept of its engines there is taken up again (R80). -/
def Request.resume (q : Request) (u : Place) : Request :=
  { q with kept := q.kept.filter fun k => !(q.uses.any fun e => e.cls = k.1 && e.inPlace u) }

/-- A place starts a context: a core's scratch is cleared first, whatever it served before (R17, R309). -/
def Run.startOn (r : Run s₀) (f : FurrowIx) (u : Place) (h : Handle) : Run s₀ :=
  (r.leave f u).modFur f fun c =>
    { (c.setServe u (.only h)).modCtx h fun y => { y with servedNow := true } with
      reqs := c.reqs.map fun q => if q.h = h then q.resume u else q }

/-- A place makes its choice (R78): an idle place starts the chosen context at once, one that serves another context changes
at its next pre-emption boundary, and a place with an empty ready set falls idle. -/
def Run.choose (r : Run s₀) (f : FurrowIx) (u : Place) : Run s₀ :=
  let c := r.fur f
  if !c.placeUp u then r.leave f u
  else
    let hs := c.ready u
    let c := c.catchUp hs
    let r := r.setFur f c
    match c.leastVt hs with
    | none => if (c.serveAt u).now = none then r else r.leave f u
    | some h =>
      match (c.serveAt u).now with
      | none => r.startOn f u h
      | some g =>
        let x := c.serveAt u
        r.modFur f fun c => c.setServe u (if g = h then .only g
          else if x.next.isSome then { x with next := some h } else ⟨some g, some h, c.ns, c.pwr.level⟩)

/-- Every place of a furrow, cores first. -/
def allPlaces : List Place := (List.finRange 64).map .core ++ (List.finRange 8).map .text

/-- What a quantum boundary does to one context's figures (R79, R81, R87): recorded shares take effect, CTX_NS_* are brought
up to date, and the quantum's engine time joins the last ten. -/
def Context.turnQuantum (x : Context) (served : Bool) : Context :=
  { x.updateNs with
    shares := x.nextShares.getD x.shares, nextShares := none, lastQuanta := (x.thisQuantum :: x.lastQuanta).take 10,
    thisQuantum := 0, servedBefore := x.servedNow, servedNow := served }

/-- QUANTUM_BOUNDARY (R78, R79, R81): FUR_NS has passed a multiple of 50,000, and every place makes its choice. -/
def execQuantumBoundary (f : FurrowIx) (s : State) : Host.Outcome State Fault Refusal :=
  (if !(s.furrow f).boundaryDue then Run.start s
   else
     let r := (Run.start s).modFur f fun c =>
       { c with boundaryDue := false, quanta := c.quanta + 1,
                ctx := Vector.ofFn fun h => c.ctx[h].turnQuantum (c.isServed h) }
     (r.each allPlaces fun r u => r.choose f u).modFur f fun c =>
       { c with ctx := Vector.ofFn fun h => { c.ctx[h] with hadWork := allPlaces.any fun u => (c.ready u).contains h } }).done

/-- CORE_IDLE_SCHEDULE (R78): a place that serves nobody, or whose context has no work left for it, chooses. -/
def execCoreIdleSchedule (f : FurrowIx) (u : Place) (s : State) : Host.Outcome State Fault Refusal :=
  let c := s.furrow f
  (match (c.serveAt u).now with
   | none => (Run.start s).choose f u
   | some h =>
     if c.reqs.any fun q => q.h = h && q.hasWork u then Run.start s
     else (((Run.start s).modFur f fun c => c.modCtx h Context.updateNs).leave f u).choose f u).done

/-- What Table 03-11 keeps of a context's engines at a place: per class the index that its boundary had reached, a free value (log 80). -/
def Run.keepAt (r : Run s₀) (f : FurrowIx) (u : Place) (g : Handle) : Run s₀ :=
  r.each ((r.fur f).reqs.filter fun q => q.h = g && q.phase = Phase.running) fun r q =>
    r.each ((q.uses.filter fun e => e.inPlace u).map (·.cls)) fun r k =>
      let (v, r) := r.free
      r.modFur f fun c => c.modReq g q.tag fun q => { q with kept := (q.kept.filter fun x => x.1 ≠ k) ++ [(k, v)] }

/-- ENGINE_PREEMPT (R80, R17): the place reaches its pre-emption boundary, the old context's figures are brought up to date, what Table
03-11 lists is kept in its units, and the chosen context starts on the cleared place. -/
def execEnginePreempt (f : FurrowIx) (u : Place) (s : State) : Host.Outcome State Fault Refusal :=
  (match ((s.furrow f).serveAt u).now, ((s.furrow f).serveAt u).next with
   | some g, some h =>
     (((Run.start s).modFur f fun c => c.modCtx g Context.updateNs).keepAt f u g).startOn f u h
   | _, _ => Run.start s).done

/-! ### Engine time (R81) -/

/-- An engine that a descriptor occupies is the one it uses now: of a selection's two, VECTOR in its key pass and WINNOW after (R215). -/
def Request.inPass (q : Request) (e : EngUse) : Bool :=
  if opcodeOf q.desc = 0x40 ∨ opcodeOf q.desc = 0x41 then e.cls == (if q.keyNs = 0 then .winnow else .vector) else true

/-- An engine instance is at a request's context now: its place works for the context, and a move's cores do (R80, R311). -/
def Furrow.engaged (c : Furrow) (q : Request) (e : EngUse) : Bool :=
  q.inPass e && match e.cls with
  | .move => q.needs.all fun k => c.cores[k].worksFor c.ns q.h
  | .text => if h : e.place < 8 then c.texts[e.place].worksFor c.ns q.h else false
  | _ => if h : e.place < 64 then c.cores[e.place].worksFor c.ns q.h else false

/-- An engine instance works for a request: one that aborts is charged nothing (R89). -/
def Furrow.working (c : Furrow) (q : Request) (e : EngUse) : Bool := q.phase != Phase.aborting && c.engaged q e

/-- The engine instances that only requests which abort occupy: their time goes to no context (R89, R406). -/
def Furrow.stray (c : Furrow) : Nat :=
  let of := fun (busy : Furrow → Request → EngUse → Bool) =>
    c.reqs.flatMap fun q => (q.uses.filter (busy c q)).map fun e => (q.h, e.cls, e.place)
  (((of Furrow.engaged).filter fun i => !(of Furrow.working).contains i).eraseDups).length

/-- The engine instances at work in a furrow, each once: context, class and place. -/
def Furrow.instances (c : Furrow) : List (Handle × EngClass × Nat) :=
  (c.reqs.flatMap fun q => (q.uses.filter (c.working q)).map fun e => (q.h, e.cls, e.place)).eraseDups

/-- The sum of a list. -/
def sumOf (xs : List Nat) : Nat := xs.foldl (· + ·) 0

/-- The weights of a context's requests in an instance, summed. -/
def Furrow.weightIn (c : Furrow) (i : Handle × EngClass × Nat) : Nat :=
  sumOf (c.reqs.flatMap fun q => (q.uses.filter fun e => q.phase != Phase.aborting && q.h = i.1 && e.cls = i.2.1 && e.place = i.2.2).map (·.weight))

/-- A request's share of dn ns on one of its engine instances, in units of 2⁻³² ns, rounded down (R81; log 79). -/
def Furrow.shareOf (c : Furrow) (q : Request) (e : EngUse) (dn : Nat) : Nat :=
  if c.working q e then 2 ^ 32 * dn * e.weight / max 1 (c.weightIn (q.h, e.cls, e.place)) else 0

/-- A request is charged its shares of dn ns: whole nanoseconds count, and what is left over waits (R81; log 79). -/
def Furrow.chargeReq (c : Furrow) (dn : Nat) (q : Request) : Request :=
  let n := q.engFrac + sumOf (q.uses.map fun e => c.shareOf q e dn)
  { q with engineNs := q.engineNs + BitVec.ofNat 64 (n / 2 ^ 32), engFrac := n % 2 ^ 32,
           keyNs := if q.uses.any fun e => e.cls == .vector && c.working q e then q.keyNs - dn else q.keyNs }

/-- Charge dn ns of every engine instance at work (R81, R405). -/
def Furrow.chargeAll (c : Furrow) (dn : Nat) : Furrow :=
  let reqs := c.reqs.map (c.chargeReq dn)
  let c' := c.instances.foldl (fun (x : Furrow) i =>
    { (x.modCtx i.1 fun y =>
        { y with
          nsDue := y.nsDue.set (classIx i.2.1) (y.nsDue[classIx i.2.1] + BitVec.ofNat 64 dn)
          thisQuantum := y.thisQuantum + dn }) with
      tally := x.tally.charge i.1 i.2.1 dn }) c
  { c' with reqs := reqs, tally := c'.tally.unattribute (dn * c.stray) }

/-- Virtual time of the contexts that places serve, in units of 2⁻³² (R78). -/
def Furrow.runVt (c : Furrow) (dn : Nat) : Furrow :=
  ((c.cores.toList ++ c.texts.toList).filterMap (·.now)).foldl (fun (c : Furrow) h =>
    c.modCtx h fun x => { x with vt := x.vt + dn * (65536 * 2 ^ 32 / max 1 x.shares.toNat) }) c

/-! ### One reference cycle -/

/-- What FUR_NS gains on a reference cycle (R26). -/
def cycleNs (k : Fin 5) : Nat := if k.val % 2 = 0 then 6 else 7

/-- The count passes a multiple of 50,000 when it goes from one value to another (R78). -/
def crosses (old new_ : Nat) : Bool := decide (old / 50000 < new_ / 50000)

/-- |SLEW| in ppm. -/
def Calendar.slewSize (k : Calendar) : Nat := k.slew.toInt.natAbs

/-- One crystal cycle (R453, R455): one count, or two or none where a slew step falls. -/
def Calendar.beat (k : Calendar) : Calendar :=
  if k.running then
    let acc := k.slewAcc + k.slewSize
    if 1000000 ≤ acc then
      { k with slewAcc := acc - 1000000, stamp := if 0 < k.slew.toInt then k.stamp + 2 else k.stamp }
    else { k with slewAcc := acc, stamp := k.stamp + 1 }
  else k

/-- One reference cycle of the calendar: 6.4 ns of a 32.768 kHz crystal, in units of 10⁻¹⁰ crystal cycles (log 4). -/
def Calendar.tick (k : Calendar) : Calendar :=
  let acc := k.cycleAcc + 2097152
  if 10000000000 ≤ acc then { k.beat with cycleAcc := acc - 10000000000 } else { k with cycleAcc := acc }

/-- The furrow's own counter runs: it is out of reset, and its reference is not lost, which cause 0x04 tells (R26, R429). -/
def Furrow.counting (c : Furrow) : Bool := c.life != .reset && !(c.life == .lost && c.lossCause == some 4)

/-- FUR_NS and what is counted with it over one reference cycle. A nanosecond is throttled while the level is above 0 (R80, R458; log 25). -/
def Furrow.countNs (c : Furrow) : Furrow :=
  let dn := BitVec.ofNat 64 (cycleNs c.refCycle)
  { c with
    ns := c.ns + dn
    refCycle := c.refCycle + 1
    boundaryDue := c.boundaryDue || crosses c.ns.toNat (c.ns + dn).toNat
    pwr := { c.pwr with throttleNs := if c.pwr.level = 0 then c.pwr.throttleNs else c.pwr.throttleNs + dn } }

/-- One reference cycle of a furrow that counts: engine time, virtual time and FUR_NS. -/
def Furrow.runCycle (c : Furrow) : Furrow := ((c.chargeAll (cycleNs c.refCycle)).runVt (cycleNs c.refCycle)).countNs

/-- One reference cycle of a furrow: the calendar, and where the furrow counts, its FUR_NS with all that goes by it. -/
def Furrow.tick (c : Furrow) : Furrow :=
  if c.counting then (c.modCal Calendar.tick).runCycle else c.modCal Calendar.tick

/-- What the block does when no command waits (log 4): one reference cycle of every furrow. -/
def tickAll (s : State) : Host.Outcome State Fault Refusal :=
  ((Run.start s).each (List.finRange 8) fun r f => r.modFur f Furrow.tick).done

end Sys2Proof.Machine
end

