-- ==== Sys2Proof/Machine/Registers.lean ====
section
/-! DEFINITION. The registers that the host reads and writes (R6, R35, R36): what every register of every block reads as,
field by field, and what a write does to the fields that have no command of their own. -/

namespace Sys2Proof.Machine

variable {s₀ : State}

/-- A register put together from fields: high bit, low bit, value. -/
def fieldsOf (xs : List (Nat × Nat × Nat)) : W64 :=
  BitVec.ofNat 64 (xs.foldl (fun n x => n + (x.2.2 % 2 ^ (x.1 - x.2.1 + 1)) <<< x.2.1) 0)

/-- The number of bits set. -/
def popCount {w : Nat} (x : BitVec w) : Nat := ((List.range w).filter x.getLsbD).length

/-! ### Codes of states -/

/-- FUR_STATE.STATE (Table 01-4). -/
def FurState.code : FurState → Nat
  | .reset => 0 | .boot => 1 | .ready => 2 | .degraded => 3 | .lost => 4 | .zeroising => 5

/-- CTX_STATE.STATE (Table 03-1). -/
def CtxState.code : CtxState → Nat
  | .free => 0 | .ready => 1 | .member => 2 | .faulted => 3 | .destroying => 4

/-- RING_CTRL.STATE (Table 02-12). -/
def RingState.code : RingState → Nat
  | .disabled => 0 | .active => 1 | .error => 2 | .draining => 3

/-- CTX_SPAN.ROLE (Table 03-6). -/
def SpanRole.code : SpanRole → Nat
  | .none => 0 | .root => 1 | .member => 2

/-- SRCH_SLOT_STATUS.STATE and TBL_CFG.STATE. -/
def SlotState.code : SlotState → Nat
  | .idle => 0 | .serving => 1 | .draining => 2

/-- GRN_CFG.STATE (Table 15-12). -/
def GrnState.code : GrnState → Nat
  | .offline => 0 | .mounting => 1 | .ready => 2 | .readOnly => 3 | .formatting => 4

/-- PYR_PORT_STATUS.STATE (Table 16-12). -/
def PortState.code : PortState → Nat
  | .off => 0 | .down => 1 | .training => 2 | .up => 3 | .degraded => 4 | .dark => 5

/-- TLY_STATUS.STATE (Table 18-4). -/
def TallyState.code : TallyState → Nat
  | .boot => 0 | .metering => 1 | .clockFault => 2 | .failed => 3

/-- STATE of a log entry (Table 17-3). -/
def LogState.code : LogState → Nat
  | .loaded => 1 | .unloaded => 2 | .pending _ => 3

/-! ### What the blocks of a furrow read as -/

/-- Identity (Tables 01-2 to 01-7). -/
def readIdentity (f : FurrowIx) (c : Furrow) (off : Nat) : W64 :=
  match off with
  | 0x00 => fieldsOf [(63, 48, 0x0832), (47, 40, (Config.stepping f).toNat), (2, 0, f.val)]
  | 0x08 => fieldsOf [(15, 8, c.spanCount), (3, 0, c.life.code)]
  | 0x10 => c.health.cores
  | 0x18 => fieldsOf [(31, 22, c.health.ports.toNat), (21, 20, (c.health.nandMap &&& ~~~c.pwr.nandOc).toNat), (19, 16, c.health.hbmMap.toNat),
      (15, 8, c.health.text.toNat), (7, 0, c.health.clusters.toNat)]
  | 0x20 => c.ns
  | _ => 0

/-- One context's register group (Tables 03-2 to 03-8). -/
def readContext (c : Furrow) (h : Handle) (off : Nat) : W64 :=
  let x := c.ctx[h]
  match off with
  | 0x00 => fieldsOf [(47, 32, ((c.outstanding h).filter fun q => !q.isStarted && !q.isEnded).length),
      (31, 16, (c.outstanding h).length), (15, 8, (c.unitsOf h).length), (3, 0, x.state.code)]
  | 0x08 => fieldsOf [(15, 0, x.shares.toNat)]
  | 0x10 => fieldsOf [(63, 32, x.hbmSize.toNat), (31, 0, x.hbmBase.toNat)]
  | 0x18 => fieldsOf [(63, 32, x.grnSize.toNat), (31, 0, x.grnBase.toNat)]
  | 0x20 => fieldsOf [(63, 32, x.spanId.toNat), (1, 0, x.role.code)]
  | 0x28 => fieldsOf [(63, 12, x.faultAddr.toNat), (7, 0, x.faultReason.toNat)]
  | 0x40 => x.ns[0] | 0x48 => x.ns[1] | 0x50 => x.ns[2] | 0x58 => x.ns[3] | 0x60 => x.ns[4] | 0x68 => x.ns[5]
  | 0x70 => x.ns[6]
  | _ => 0

/-- ENABLE of a ring group reads 1 while the rings are ACTIVE (R42, R44, R45). -/
def Rings.enable (g : Rings) : Bool := g.state = .active

/-- One context's ring group (Tables 02-6 to 02-13). -/
def readRings (g : Rings) (off : Nat) : W64 :=
  match off with
  | 0x00 => fieldsOf [(63, 12, g.sqBase.toNat)]
  | 0x08 => fieldsOf [(4, 0, g.sqLog.toNat)]
  | 0x10 => fieldsOf [(63, 3, g.shadowAddr.toNat), (0, 0, bit g.shadowEn)]
  | 0x18 => fieldsOf [(63, 12, g.cqBase.toNat)]
  | 0x20 => fieldsOf [(25, 16, g.irqGap.toNat), (15, 8, g.irqBatch.toNat), (5, 5, bit g.irqEn), (4, 0, g.cqLog.toNat)]
  | 0x28 => fieldsOf [(63, 32, g.sqHead.toNat), (31, 0, g.cqTail.toNat)]
  | 0x30 => fieldsOf [(9, 9, bit (!g.holding.isEmpty)), (8, 8, bit g.badDoorbell), (7, 4, g.state.code),
      (0, 0, bit g.enable)]
  | 0x38 => fieldsOf [(63, 32, g.cqHead.toNat), (31, 0, g.sqTail.toNat)]
  | _ => 0

/-- The least snapshot that a search or merge holds on a shard; EPOCH when none (Table 06-14). -/
def SearchSlot.oldest (t : SearchSlot) : W64 :=
  (t.views.foldl (fun (m : Option W64) v =>
    match m with | none => some v.snapshot | some x => some (if v.snapshot.toNat < x.toNat then v.snapshot else x)) none).getD
      t.epoch

/-- One search slot (Tables 06-6 to 06-14). -/
def readSlot (t : SearchSlot) (off : Nat) : W64 :=
  match off with
  | 0x00 => fieldsOf [(63, 48, t.shardId.toNat), (39, 32, t.owner.toNat), (11, 10, t.degree.toNat),
      (9, 8, t.codeLen.toNat), (0, 0, bit t.enable)]
  | 0x08 => fieldsOf [(15, 8, t.error.toNat), (6, 6, bit t.sideFull), (5, 5, bit t.mergeRunning), (4, 4, bit t.mergeDue),
      (3, 0, t.state.code)]
  | 0x10 => fieldsOf [(39, 0, t.idBase.toNat)]
  | 0x18 => fieldsOf [(47, 12, t.nodeBase.toNat)]
  | 0x20 => fieldsOf [(63, 32, t.nodeCap.toNat), (31, 0, t.nodeCount.toNat)]
  | 0x28 => fieldsOf [(47, 12, t.entryBase.toNat)]
  | 0x30 => fieldsOf [(47, 12, t.tombBase.toNat)]
  | 0x38 => fieldsOf [(47, 12, t.sideBase.toNat)]
  | 0x40 => fieldsOf [(63, 32, t.trigger.toNat), (4, 0, t.sideLog.toNat)]
  | 0x48 => fieldsOf [(63, 32, t.sideHead.toNat), (31, 0, t.sideTail.toNat)]
  | 0x50 => fieldsOf [(47, 12, t.dlogBase.toNat)]
  | 0x58 => fieldsOf [(63, 32, t.dlogHead.toNat), (31, 0, t.dlogTail.toNat)]
  | 0x60 => t.epoch
  | 0x68 => t.oldest
  | 0x70 => fieldsOf [(31, 0, t.badEdges.toNat)]
  | _ => 0

/-- One slot's passage store (Tables 10-1 to 10-3). -/
def readStore (t : SearchSlot) (off : Nat) : W64 :=
  match off with
  | 0x00 => fieldsOf [(31, 16, t.psDim.toNat), (7, 4, t.psFmt.toNat), (0, 0, bit t.psEn)]
  | 0x08 => fieldsOf [(47, 12, t.psVec.toNat)]
  | 0x10 => fieldsOf [(47, 12, t.psDir.toNat)]
  | _ => 0

/-- One table slot (Tables 13-1, 13-2). -/
def readTable (t : TableSlot) (off : Nat) : W64 :=
  match off with
  | 0x00 => fieldsOf [(63, 48, t.nshard.toNat), (47, 32, t.shard.toNat), (29, 24, t.owner.toNat), (23, 16, t.error.toNat),
      (7, 4, t.state.code), (0, 0, bit t.enable)]
  | 0x08 => fieldsOf [(63, 32, t.rows.toNat), (31, 16, t.dim.toNat), (0, 0, bit t.code4)]
  | 0x10 => fieldsOf [(47, 32, t.guest.toNat), (31, 24, t.ratio.toNat), (8, 8, bit t.auto), (4, 0, t.logRoute.toNat)]
  | 0x18 => fieldsOf [(63, 32, t.curVersion.toNat), (31, 0, t.curRefs.toNat)]
  | 0x20 => fieldsOf [(47, 12, t.curBase.toNat)]
  | 0x28 => fieldsOf [(63, 32, t.oldVersion.toNat), (31, 31, bit t.oldDraining), (30, 0, t.oldRefs.toNat)]
  | 0x30 => fieldsOf [(47, 12, t.oldBase.toNat)]
  | 0x38 => t.routeEpoch
  | 0x40 => fieldsOf [(63, 32, t.reads.toNat), (31, 0, t.migrations.toNat)]
  | _ => 0

/-- The channel whose parameters GRN_CAPS and GRN_GEOM show: the lowest mounted one (R332). -/
def Granary.shown (g : Granary) : Option NandPart :=
  if g.mounted[0] then some g.nand.parts[0] else if g.mounted[1] then some g.nand.parts[1] else none

/-- Dies mounted on a channel. -/
def Granary.diesUp (g : Granary) (n : Fin 2) : Nat :=
  if g.mounted[n] then g.nand.parts[n].dies.toNat - (g.lostDies.filter fun d => d.1 = n.val).length else 0

/-- Free superblocks of a channel (Table 15-15). -/
def Granary.freeSbs (g : Granary) (n : Fin 2) : Nat := (g.sbs.filter fun b => b.ch = n && b.state = .free).length

/-- Superblocks that still hold slots of a lost die (Table 15-15). -/
def Granary.rebuildCount (g : Granary) : Nat :=
  (g.sbs.filter fun b => b.state != .free && g.lostDies.any fun d => d.1 = b.ch.val && b.dies.contains d.2).length

/-- The greatest erase count as thousandths of ENDURANCE × 100 (Table 15-15). -/
def Granary.wear (g : Granary) : Nat :=
  match g.shown with
  | none => 0
  | some p => min 65535 (g.blocks.foldl (fun m b => max m b.erases.toNat) 0 * 1000 / max 1 (p.endurance.toNat * 100))

/-- The Granary block (Tables 15-9 to 15-16). -/
def readGranary (c : Furrow) (off : Nat) : W64 :=
  let g := c.grn
  match off with
  | 0x00 => match g.shown with
    | none => 0
    | some p => fieldsOf [(47, 40, g.diesUp 1), (39, 32, g.diesUp 0), (23, 16, p.planes.toNat), (15, 8, p.pageKib.toNat),
        (7, 0, p.rate.toNat)]
  | 0x08 => match g.shown with
    | none => 0
    | some p => fieldsOf [(47, 32, p.blocks.toNat), (31, 16, p.pages.toNat), (15, 0, p.endurance.toNat)]
  | 0x10 => fieldsOf [(63, 32, g.logicalMib.toNat), (31, 24, g.error.toNat), (7, 4, g.state.code),
      (0, 0, bit (g.state != .offline && g.state != .formatting))]
  | 0x18 => fieldsOf [(47, 21, g.mapBase.toNat)]
  | 0x20 => fieldsOf [(47, 32, g.idleUs.toNat), (31, 16, g.bgFree.toNat), (7, 0, g.fgFree.toNat)]
  | 0x28 => fieldsOf [(63, 48, g.freeSbs 1), (47, 32, g.freeSbs 0), (3, 3, bit g.fg[1]), (2, 2, bit g.fg[0]),
      (1, 1, bit g.bg[1]), (0, 0, bit g.bg[0])]
  | 0x30 => fieldsOf [(63, 40, c.health.nandRetired.toNat), (39, 32, c.health.lostDies.toNat),
      (31, 24, min 255 g.rebuildCount), (23, 8, g.wear), (0, 0, bit c.health.nandReplace)]
  | 0x38 => g.hostBlocks
  | 0x40 => g.flashSlots
  | 0x48 => g.durableSeq
  | _ => 0

/-- One port's group (Tables 16-12, 16-13). -/
def readPort (t : Port) (off : Nat) : W64 :=
  match off with
  | 0x00 => fieldsOf [(9, 9, bit t.dateline), (8, 8, bit t.autoUp), (0, 0, bit t.enable)]
  | 0x08 => fieldsOf [(63, 48, t.peerId.toNat), (47, 44, t.peerPort.toNat), (35, 32, t.lanes.toNat), (15, 15, bit t.idClash),
      (14, 14, bit t.stalled), (13, 13, bit t.losSeen), (12, 12, bit t.laserLow), (3, 0, t.state.code)]
  | 0x10 => fieldsOf [(63, 32, t.corrected.toNat), (31, 0, t.uncorrected.toNat)]
  | 0x18 => fieldsOf [(63, 32, t.crcFail.toNat), (31, 0, t.replayed.toNat)]
  | _ => 0

/-- A routing entry as its 32 bits (Table 16-13). -/
def Route.word (e : Route) : Nat := 2 ^ 15 * bit e.valid + 16 * e.primary.toNat + e.alternate.toNat

/-- The Poryar block (Tables 16-10 to 16-13); the two routing entries of an 8-byte access stand side by side. -/
def readPoryar (f : FurrowIx) (c : Furrow) (off : Nat) : W64 :=
  let y := c.pyr
  if 0xC0000 ≤ off then 0
  else if 0x80000 ≤ off then
    let d := (off - 0x80000) / 4
    fieldsOf [(31, 0, (y.route (BitVec.ofNat 16 d)).word), (63, 32, (y.route (BitVec.ofNat 16 (d + 1))).word)]
  else if 0x100 ≤ off ∧ off < 0x100 + 0x20 * 10 then
    if h : (off - 0x100) / 0x20 < 10 then readPort (y.ports[(off - 0x100) / 0x20]) (off % 0x20) else 0
  else match off with
    | 0x00 => fieldsOf [(47, 35, y.module_.toNat), (34, 32, f.val), (7, 4, bit y.enabled), (0, 0, bit y.enabled)]
    | 0x08 => fieldsOf [(47, 32, y.fenceUs.toNat), (31, 24, y.beatMs.toNat), (23, 16, y.lostBeats.toNat),
        (15, 8, y.stallMs.toNat)]
    | _ => 0

/-- The 128 bytes of a log entry (Table 17-3). -/
def LogEntry.bytes (e : LogEntry) : List Byte :=
  [e.kind, BitVec.ofNat 8 e.state.code] ++ leBytes 2 e.handle.toNat ++ leBytes 4 e.object.toNat ++ leBytes 8 e.offset.toNat ++
    leBytes 8 e.length.toNat ++ leBytes 8 e.seq.toNat ++ leBytes 8 e.stamp.toNat ++ leBytes 4 e.tag.toNat ++ zeros 20 ++
    (match e.state with | .pending _ => zeros 64 | _ => bytes64 e.digest)

/-- Entries whose digest is being made (Table 17-10). -/
def Sec.pendingCount (z : Sec) : Nat :=
  (z.log.filter fun e => match e.state with | .pending _ => true | _ => false).length

/-- The security block with the log window (Tables 17-8 to 17-13). -/
def readSec (f : FurrowIx) (c : Furrow) (x : Fuses) (off : Nat) : W64 :=
  let z := c.sec
  if 0x80000 ≤ off then
    match z.log[(off - 0x80000) / 128]? with
    | none => 0
    | some e => BitVec.ofNat 64 (fieldAt e.bytes ((off - 0x80000) % 128) 8)
  else match off with
    | 0x00 => fieldsOf [(63, 56, z.bootError.toNat), (49, 49, bit z.ctrlSlot), (48, 48, bit z.rotSlot),
        (45, 40, x.keyRevoke.toNat), (39, 32, popCount x.svnRot), (31, 24, popCount x.svnCtrl),
        (19, 16, z.unlockFails.toNat), (11, 8, x.lifecycle.toNat), (2, 2, bit z.scrubPending), (1, 1, bit z.debugUnlocked),
        (0, 0, x.debugOpen.toNat)]
    | 0x08 => fieldsOf [(44, 32, 0x1000), (28, 16, z.pendingCount), (12, 0, z.log.length)]
    | 0x10 => fieldsOf [(63, 6, z.fwAddr.toNat)]
    | 0x18 => fieldsOf [(63, 40, z.fwLength.toNat), (39, 32, z.fwStatus.toNat), (7, 4, z.fwKind.toNat)]
    | 0x20 => fieldsOf [(15, 8, 0x30 + f.val), (7, 0, z.eid.toNat)]
    | _ => 0

/-- The Tally block (Tables 18-3, 18-4). -/
def readTally (f : FurrowIx) (c : Furrow) (off : Nat) : W64 :=
  let t := c.tally
  match off with
  | 0x00 => fieldsOf [(39, 24, Config.periodS f), (8, 8, bit (Config.updateAllowed f)), (7, 0, 1)]
  | 0x08 => fieldsOf [(63, 32, t.version.toNat), (11, 11, bit c.cal.valid), (10, 10, bit t.full), (7, 4, t.cmdStatus.toNat),
      (3, 0, t.state.code)]
  | 0x10 => t.next
  | 0x18 => t.acked
  | 0x20 => fieldsOf [(63, 6, t.cmdAddr.toNat)]
  | 0x28 => t.cmdArg
  | 0x30 => fieldsOf [(31, 16, t.count.toNat)]
  | 0x38 => t.unattributed
  | _ => 0

/-- VLIM in mV: the lesser of 50 and 820 less the nominal voltage (R435). -/
def vlim (f : FurrowIx) : Nat := min 50 (820 - Config.vnom f)

/-- The reliability block (Table 19-8). -/
def readRel (f : FurrowIx) (c : Furrow) (off : Nat) : W64 :=
  let e := c.err
  if 0x100 ≤ off ∧ off < 0x140 then
    if h : (off - 0x100) / 8 < 8 then
      fieldsOf [(47, 32, c.age.roCount[(off - 0x100) / 8].toNat), (31, 16, c.age.slack[(off - 0x100) / 8].toNat),
        (11, 0, c.health.clocks[(off - 0x100) / 8].toNat)]
    else 0
  else match off with
    | 0x00 => fieldsOf [(63, 12, e.base.toNat)]
    | 0x08 => fieldsOf [(31, 31, bit e.enable), (25, 16, e.irqGap.toNat), (15, 8, e.irqBatch.toNat), (5, 5, bit e.irqEn),
        (4, 0, e.log2Size.toNat)]
    | 0x10 => fieldsOf [(63, 32, e.head.toNat), (31, 0, e.tail.toNat)]
    | 0x18 => fieldsOf [(63, 32, e.ceDropped.toNat), (16, 8, e.queue.length), (2, 2, bit e.writeFail), (1, 1, bit e.badHead),
        (0, 0, bit e.stall)]
    | 0x20 => fieldsOf [(63, 32, c.health.reasons.toNat), (2, 2, bit c.bist.late), (1, 1, bit c.recordFail),
        (0, 0, bit (c.health.reasons != 0))]
    | 0x28 => fieldsOf [(47, 40, 64 - popCount c.health.cores), (39, 32, 128 - popCount c.health.units),
        (31, 24, popCount c.bist.unitsPending), (23, 16, 8 - popCount c.health.text), (15, 8, 10 - popCount c.health.ports),
        (7, 0, 8 - popCount c.health.clusters)]
    | 0x30 => c.health.units.extractLsb' 0 64
    | 0x38 => c.health.units.extractLsb' 64 64
    | 0x40 => fieldsOf [(47, 21, c.bist.save.toNat), (1, 1, bit c.bist.saveValid), (0, 0, bit c.bist.en)]
    | 0x48 => fieldsOf [(63, 48, c.bist.passes.toNat), (47, 32, c.bist.deferred.toNat), (31, 16, c.bist.mismatch.toNat),
        (15, 0, c.bist.done.toNat)]
    | 0x50 => fieldsOf [(63, 32, c.counts.hbm.toNat), (31, 0, c.counts.sram.toNat)]
    | 0x58 => fieldsOf [(23, 16, vlim f), (15, 8, c.health.vofs.toNat), (0, 0, bit (c.health.vofs.toNat = vlim f))]
    | _ => 0

/-- The power and calendar block (Table 20-9). -/
def readPwr (c : Furrow) (off : Nat) : W64 :=
  let p := c.pwr
  let k := c.cal
  match off with
  | 0x00 => fieldsOf [(47, 44, p.hbmKept.toNat), (43, 40, p.level.toNat), (7, 7, bit p.thermal), (6, 6, bit p.power),
      (5, 5, bit p.avsFault), (4, 4, bit p.pllFail), (1, 0, p.nandOc.toNat)]
  | 0x08 => fieldsOf [(23, 16, p.tThrottle.toNat), (8, 0, p.limitW.toNat)]
  | 0x10 => fieldsOf [(63, 48, p.coreMv.toNat), (47, 32, p.coreDa.toNat), (31, 16, p.powerW.toNat), (15, 8, p.tjMax.toNat),
      (7, 0, p.hbmTmax.toNat)]
  | 0x18 => p.throttleNs
  | 0x40 => k.stamp
  | 0x48 => fieldsOf [(63, 32, c.health.restarts.toNat), (3, 3, bit k.vbatBad), (1, 1, bit k.xtalFail), (0, 0, bit k.valid)]
  | 0x58 => fieldsOf [(15, 0, k.slew.toNat)]
  | _ => 0

/-- Units in service. -/
def Furrow.unitsUp (c : Furrow) : Nat := ((List.finRange 128).filter c.unitUp).length

/-- The tier block (Tables 14-7 to 14-9). -/
def readTiers (c : Furrow) (off : Nat) : W64 :=
  if off = 0 then
    fieldsOf [(47, 39, 256), (38, 30, 256 - c.attached.length), (29, 22, c.unitsUp), (21, 14, c.freeCount)]
  else if hh : 0x100 ≤ off ∧ (off - 0x100) / 0x20 < 64 then
    let h : Handle := ⟨(off - 0x100) / 0x20, hh.2⟩
    match off % 0x20 with
    | 0x00 => fieldsOf ((List.range 8).map fun cl => (5 * cl + 4, 5 * cl, (c.unitsIn h cl).length))
    | 0x08 => fieldsOf [(8, 8, bit c.winEn[h]), (4, 0, c.winSize[h].toNat)]
    | 0x10 => fieldsOf [(8, 0, (c.attached.filter fun a => a.h = h).length)]
    | _ => 0
  else 0

/-- The text block (Tables 11-4, 11-5). -/
def readText (c : Furrow) (off : Nat) : W64 :=
  if off = 0 then fieldsOf [(56, 48, 0x100), (47, 29, 0x40000), (28, 10, 0x40000), (7, 0, c.health.text.toNat)]
  else if hh : 0x100 ≤ off ∧ (off - 0x100) / 8 < 64 then
    let x := c.tokStatus[(off - 0x100) / 8]'hh.2
    fieldsOf [(39, 8, x.1.toNat), (7, 0, x.2.toNat)]
  else 0

/-- The generation block (Tables 12-9, 12-10). -/
def readGen (c : Furrow) (off : Nat) : W64 :=
  if off = 0 then fieldsOf [(31, 19, 0x1000), (18, 16, 7), (6, 0, 0x40)]
  else if hh : 0x100 ≤ off ∧ (off - 0x100) / 0x10 < 64 then
    let h : Handle := ⟨(off - 0x100) / 0x10, hh.2⟩
    match off % 0x10 with
    | 0x00 => fieldsOf [(47, 12, c.ptOffset[h].toNat), (4, 0, c.ptLog[h].toNat)]
    | _ => fieldsOf [(16, 0, c.ptPaused[h].toNat)]
  else 0

/-- What an aligned 8-byte read of a furrow's BAR0 returns (Table 02-3); addresses without a register read as zero. -/
def regRead (s : State) (f : FurrowIx) (off : Nat) : W64 :=
  let c := s.furrow f
  if off < 0x10000 then readIdentity f c off
  else if off < 0x20000 then
    let k := off - 0x10000
    if h : k / 0x80 < 64 then readContext c ⟨k / 0x80, h⟩ (k % 0x80) else 0
  else if off < 0x100000 then
    let k := off - 0x20000
    if h : k / 0x40 < 64 then readRings c.ctx[k / 0x40].rings (k % 0x40) else 0
  else if off < 0x140000 then
    let k := off - 0x100000
    if h : k / 0x80 < 8 then readSlot c.srch[k / 0x80] (k % 0x80) else 0
  else if off < 0x180000 then
    let k := off - 0x140000
    if h : k / 0x20 < 8 then readStore c.srch[k / 0x20] (k % 0x20) else 0
  else if off < 0x200000 then
    let k := off - 0x180000
    if h : k / 0x80 < 16 then readTable c.tbl[k / 0x80] (k % 0x80) else 0
  else if off < 0x300000 then readGranary c (off - 0x200000)
  else if off < 0x400000 then readPoryar f c (off - 0x300000)
  else if off < 0x500000 then readSec f c (s.fuses[f]) (off - 0x400000)
  else if off < 0x600000 then readTally f c (off - 0x500000)
  else if off < 0x700000 then readRel f c (off - 0x600000)
  else if off < 0x800000 then readPwr c (off - 0x700000)
  else if off < 0x900000 then readTiers c (off - 0x800000)
  else if off = 0x900000 then fieldsOf [(40, 24, 0x10000), (23, 16, 0x40), (6, 0, popCount c.health.cores)]
  else if off < 0xA00000 then 0
  else if off < 0xB00000 then readText c (off - 0xA00000)
  else if off < 0xC00000 then readGen c (off - 0xB00000)
  else 0

/-- What an aligned 8-byte read of PF0's BAR0 returns (Tables 02-5, 19-9, 20-10). ATTN_N is asserted while REPLACE_MAP,
LOST_MAP or HEADLAND_FAULT is not zero (R437); all eight furrows are fitted (log 16). -/
def hdlRead (d : Headland) (off : Nat) : W64 :=
  if off = 0 then fieldsOf [(63, 48, 0x0832), (47, 40, Config.headlandStepping.toNat), (15, 8, d.lostMap.toNat), (7, 0, 0xFF)]
  else if hh : 0x10000 ≤ off ∧ (off - 0x10000) / 8 < 9 then
    fieldsOf [(63, 32, (d.discarded[(off - 0x10000) / 8]'hh.2).toNat), (31, 0, (d.ones[(off - 0x10000) / 8]'hh.2).toNat)]
  else if off = 0x20000 then
    fieldsOf [(23, 16, d.lostMap.toNat), (15, 8, d.replaceMap.toNat),
      (1, 1, bit (d.lostMap != 0 || d.replaceMap != 0 || d.fault)), (0, 0, bit d.fault)]
  else if off = 0x30000 then
    fieldsOf [(63, 48, d.moduleW.toNat), (47, 40, d.tj.toNat), (39, 32, d.tripMap.toNat), (3, 3, bit d.attnShort),
      (2, 2, bit d.tripShort), (1, 1, bit d.thermtrip)]
  else if off = 0x30008 then fieldsOf [(31, 0, d.pmbAddr.toNat)]
  else if hh : 0x30010 ≤ off ∧ (off - 0x30010) / 8 < 4 then
    let x := d.pmb[(off - 0x30010) / 8]'hh.2
    fieldsOf [(63, 48, x.voutMv.toNat), (47, 32, x.ioutDa.toNat), (31, 24, x.temp.toNat), (23, 8, x.status.toNat),
      (0, 0, bit x.stale)]
  else 0

/-! ### What a write does -/

/-- The bits of an aligned 8-byte register that an access writes. -/
def accessMask (a : HostAccess) : W64 :=
  if a.size = 8 then BitVec.allOnes 64
  else if a.off.toNat % 8 = 4 then BitVec.ofNat 64 (2 ^ 64 - 2 ^ 32) else BitVec.ofNat 64 (2 ^ 32 - 1)

/-- The written value in its place in the aligned 8-byte register. -/
def accessPlace (a : HostAccess) (v : W64) : W64 :=
  if a.size = 8 then v else if a.off.toNat % 8 = 4 then v <<< 32 else v

/-- A register's old value with the written bits replaced. -/
def merge (old mask v : W64) : W64 := (old &&& ~~~mask) ||| (v &&& mask)

/-- A bit of a W1C field is written 1. -/
def wrote1 (mask v : W64) (i : Nat) : Bool := (mask &&& v).getLsbD i

/-- Keep a value unless the new one passes a check. -/
def keepUnless {w : Nat} (ok : Bool) (old new_ : BitVec w) : BitVec w := if ok then new_ else old

/-- A number lies in a range. -/
def within {w : Nat} (lo hi : Nat) (v : BitVec w) : Bool := decide (lo ≤ v.toNat) && decide (v.toNat ≤ hi)

/-- Writes to a ring group (Tables 02-7 to 02-12, R43). -/
def writeRings (g : Rings) (off : Nat) (mask v : W64) : Rings :=
  let n := merge (readRings g off) mask v
  let idle := g.state = .disabled
  match off with
  | 0x00 => if idle then { g with sqBase := n.extractLsb' 12 52 } else g
  | 0x08 => if idle then { g with sqLog := keepUnless (within 4 16 (n.extractLsb' 0 5)) g.sqLog (n.extractLsb' 0 5) } else g
  | 0x10 => { g with shadowAddr := n.extractLsb' 3 61, shadowEn := n.getLsbD 0 }
  | 0x18 => if idle then { g with cqBase := n.extractLsb' 12 52 } else g
  | 0x20 =>
    { g with irqGap := n.extractLsb' 16 10, irqBatch := n.extractLsb' 8 8, irqEn := n.getLsbD 5,
             cqLog := keepUnless (idle && within 4 16 (n.extractLsb' 0 5)) g.cqLog (n.extractLsb' 0 5) }
  | 0x30 => { g with badDoorbell := g.badDoorbell && !wrote1 mask v 8 }
  | _ => g

/-- Writes to a search slot (Tables 06-7 to 06-14, R153, R154). -/
def writeSlot (t : SearchSlot) (off : Nat) (mask v : W64) : SearchSlot :=
  let n := merge (readSlot t off) mask v
  if t.state = .idle then
    match off with
    | 0x00 => { t with shardId := n.extractLsb' 48 16, owner := n.extractLsb' 32 8, degree := n.extractLsb' 10 2,
                       codeLen := n.extractLsb' 8 2 }
    | 0x10 => { t with idBase := n.extractLsb' 0 40 }
    | 0x18 => { t with nodeBase := n.extractLsb' 12 36 }
    | 0x20 => { t with nodeCap := n.extractLsb' 32 32, nodeCount := n.extractLsb' 0 32 }
    | 0x28 => { t with entryBase := n.extractLsb' 12 36 }
    | 0x30 => { t with tombBase := n.extractLsb' 12 36 }
    | 0x38 => { t with sideBase := n.extractLsb' 12 36 }
    | 0x40 => { t with trigger := n.extractLsb' 32 32,
                       sideLog := keepUnless (within 10 24 (n.extractLsb' 0 5)) t.sideLog (n.extractLsb' 0 5) }
    | 0x48 => { t with sideHead := n.extractLsb' 32 32, sideTail := n.extractLsb' 0 32 }
    | 0x50 => { t with dlogBase := n.extractLsb' 12 36 }
    | 0x58 => { t with dlogHead := n.extractLsb' 32 32, dlogTail := n.extractLsb' 0 32 }
    | 0x60 => { t with epoch := n }
    | _ => t
  else if off = 0x40 then
    { t with trigger := keepUnless (within 1 (2 ^ t.sideLog.toNat) (n.extractLsb' 32 32)) t.trigger (n.extractLsb' 32 32) }
  else t

/-- Writes to a slot's passage store (Tables 10-1 to 10-3, R218). -/
def writeStore (t : SearchSlot) (off : Nat) (mask v : W64) : SearchSlot :=
  let n := merge (readStore t off) mask v
  if t.state = .idle then
    match off with
    | 0x00 => { t with psDim := n.extractLsb' 16 16, psFmt := n.extractLsb' 4 4, psEn := n.getLsbD 0 }
    | 0x08 => { t with psVec := n.extractLsb' 12 36 }
    | 0x10 => { t with psDir := n.extractLsb' 12 36 }
    | _ => t
  else t

/-- Writes to a table slot (Table 13-2). RATIO outside 17–255 stays (log 26). -/
def writeTable (t : TableSlot) (off : Nat) (mask v : W64) : TableSlot :=
  let n := merge (readTable t off) mask v
  let idle := t.state = .idle
  match off with
  | 0x00 => if idle then { t with nshard := n.extractLsb' 48 16, shard := n.extractLsb' 32 16, owner := n.extractLsb' 24 6 } else t
  | 0x08 => if idle then { t with rows := n.extractLsb' 32 32, dim := n.extractLsb' 16 16, code4 := n.getLsbD 0 } else t
  | 0x10 =>
    let t := { t with ratio := keepUnless (within 17 255 (n.extractLsb' 24 8)) t.ratio (n.extractLsb' 24 8),
                      auto := n.getLsbD 8 }
    if idle then { t with guest := n.extractLsb' 32 16, logRoute := n.extractLsb' 0 5 } else t
  | 0x18 => if idle then { t with curVersion := n.extractLsb' 32 32 } else t
  | 0x20 => if idle then { t with curBase := n.extractLsb' 12 36 } else t
  | _ => t

/-- Writes to the Granary block (Tables 15-13, 15-14). IDLE_US of 0 stays (log 26). -/
def writeGranary (c : Furrow) (off : Nat) (mask v : W64) : Furrow :=
  let n := merge (readGranary c off) mask v
  c.modGrn fun g =>
    match off with
    | 0x18 => if g.state = .offline then { g with mapBase := n.extractLsb' 21 27 } else g
    | 0x20 =>
      let g := { g with idleUs := keepUnless (within 1 65535 (n.extractLsb' 32 16)) g.idleUs (n.extractLsb' 32 16) }
      let bg : W16 := n.extractLsb' 16 16
      let fg : Byte := n.extractLsb' 0 8
      if 3 ≤ fg.toNat ∧ fg.toNat < bg.toNat then { g with bgFree := bg, fgFree := fg } else g
    | _ => g

/-- A routing entry that a 32-bit word spells. -/
def Route.ofWord (w : BitVec 32) : Route := ⟨w.getLsbD 15, w.extractLsb' 4 4, w.extractLsb' 0 4⟩

/-- Set the routing entry of an identifier. -/
def Poryar.setRoute (y : Poryar) (d : FabricId) (e : Route) : Poryar :=
  let others := y.routes.filter fun p => p.1 ≠ d
  { y with routes := if e = ⟨false, 0xF, 0xF⟩ then others else (d, e) :: others }

/-- Writes to a port's group (Table 16-12). -/
def writePort (t : Port) (off : Nat) (mask v : W64) : Port :=
  let n := merge (readPort t off) mask v
  match off with
  | 0x00 => { t with dateline := n.getLsbD 9, autoUp := n.getLsbD 8 }
  | 0x08 => { t with losSeen := t.losSeen && !wrote1 mask v 13 }
  | _ => t

/-- Writes to the Poryar block (Tables 16-10 to 16-13): a field of PYR_TIMING outside its range stays. -/
def writePoryar (f : FurrowIx) (c : Furrow) (off : Nat) (mask v : W64) : Furrow :=
  let n := merge (readPoryar f c off) mask v
  if 0xC0000 ≤ off then c
  else if 0x80000 ≤ off then
    let d : FabricId := BitVec.ofNat 16 ((off - 0x80000) / 4)
    c.modPyr fun y => (y.setRoute d (.ofWord (n.extractLsb' 0 32))).setRoute (d + 1) (.ofWord (n.extractLsb' 32 32))
  else if hh : 0x100 ≤ off ∧ (off - 0x100) / 0x20 < 10 then
    c.modPort ⟨(off - 0x100) / 0x20, hh.2⟩ fun t => writePort t (off % 0x20) mask v
  else c.modPyr fun y =>
    match off with
    | 0x00 => if y.enabled then y else { y with module_ := n.extractLsb' 35 13 }
    | 0x08 =>
      { y with
        fenceUs := keepUnless (within 100 10000 (n.extractLsb' 32 16)) y.fenceUs (n.extractLsb' 32 16)
        beatMs := keepUnless (within 1 100 (n.extractLsb' 24 8)) y.beatMs (n.extractLsb' 24 8)
        lostBeats := keepUnless (within 2 16 (n.extractLsb' 16 8)) y.lostBeats (n.extractLsb' 16 8)
        stallMs := keepUnless (within 1 255 (n.extractLsb' 8 8)) y.stallMs (n.extractLsb' 8 8) }
    | _ => y

/-- Writes to the security block (Tables 17-11, 17-12). -/
def writeSec (f : FurrowIx) (c : Furrow) (x : Fuses) (off : Nat) (mask v : W64) : Furrow :=
  let n := merge (readSec f c x off) mask v
  c.modSec fun z =>
    match off with
    | 0x10 => { z with fwAddr := n.extractLsb' 6 58 }
    | 0x18 => { z with fwLength := n.extractLsb' 40 24, fwKind := n.extractLsb' 4 4 }
    | _ => z

/-- Writes to the Tally block (Table 18-4). -/
def writeTally (f : FurrowIx) (c : Furrow) (off : Nat) (mask v : W64) : Furrow :=
  let n := merge (readTally f c off) mask v
  c.modTally fun t =>
    match off with
    | 0x20 => { t with cmdAddr := n.extractLsb' 6 58 }
    | 0x28 => { t with cmdArg := n }
    | 0x30 => { t with count := n.extractLsb' 16 16 }
    | _ => t

/-- Writes to the reliability block (Table 19-8). -/
def writeRel (f : FurrowIx) (c : Furrow) (off : Nat) (mask v : W64) : Furrow :=
  let n := merge (readRel f c off) mask v
  match off with
  | 0x00 => if c.err.enable then c else c.modErr fun e => { e with base := n.extractLsb' 12 52 }
  | 0x08 => c.modErr fun e =>
    { e with enable := e.enable && n.getLsbD 31, irqGap := n.extractLsb' 16 10, irqBatch := n.extractLsb' 8 8, irqEn := n.getLsbD 5,
             log2Size := keepUnless (!e.enable && within 6 16 (n.extractLsb' 0 5)) e.log2Size (n.extractLsb' 0 5) }
  | 0x18 => c.modErr fun e =>
    { e with writeFail := e.writeFail && !wrote1 mask v 2, badHead := e.badHead && !wrote1 mask v 1 }
  | 0x40 => c.modBist fun b => { b with save := n.extractLsb' 21 27, saveValid := n.getLsbD 1, en := n.getLsbD 0 }
  | _ => c

/-- Writes to the power block (Table 20-9). T_THROTTLE outside 85–105 stays (log 26). -/
def writePwr (c : Furrow) (off : Nat) (mask v : W64) : Furrow :=
  let n := merge (readPwr c off) mask v
  if off = 0x08 then
    c.modPwr fun p =>
      { p with tThrottle := keepUnless (within 85 105 (n.extractLsb' 16 8)) p.tThrottle (n.extractLsb' 16 8),
               limitW := keepUnless (within 150 490 (n.extractLsb' 0 9)) p.limitW (n.extractLsb' 0 9) }
  else c

/-- Writes to the tier block (R330, Table 14-9): only while the handle has no outstanding request. -/
def writeTiers (c : Furrow) (off : Nat) (mask v : W64) : Furrow :=
  let n := merge (readTiers c off) mask v
  if hh : 0x100 ≤ off ∧ (off - 0x100) / 0x20 < 64 then
    let h : Handle := ⟨(off - 0x100) / 0x20, hh.2⟩
    if off % 0x20 = 8 ∧ (c.outstanding h).isEmpty then
      let w : BitVec 5 := n.extractLsb' 0 5
      { c with winEn := c.winEn.set h (n.getLsbD 8),
               winSize := c.winSize.set h (keepUnless (within 2 14 w && decide (w.toNat % 2 = 0)) c.winSize[h] w) }
    else c
  else c

/-- Writes to the generation block (Table 12-10): ignored while PAUSED is not 0. -/
def writeGen (c : Furrow) (off : Nat) (mask v : W64) : Furrow :=
  let n := merge (readGen c off) mask v
  if hh : 0x100 ≤ off ∧ (off - 0x100) / 0x10 < 64 then
    let h : Handle := ⟨(off - 0x100) / 0x10, hh.2⟩
    if off % 0x10 = 0 ∧ c.ptPaused[h] = 0 then
      let w : BitVec 5 := n.extractLsb' 0 5
      { c with ptOffset := c.ptOffset.set h (n.extractLsb' 12 36),
               ptLog := c.ptLog.set h (keepUnless (decide (w = 0) || within 6 16 w) c.ptLog[h] w) }
    else c
  else c

/-- A write to a furrow's BAR0, an aligned 8-byte register at a time. -/
def regWrite (s : State) (f : FurrowIx) (off : Nat) (mask v : W64) : Furrow :=
  let c := s.furrow f
  if off < 0x20000 then c
  else if off < 0x100000 then
    let k := off - 0x20000
    if h : k / 0x40 < 64 then c.modRings ⟨k / 0x40, h⟩ fun g => writeRings g (k % 0x40) mask v else c
  else if off < 0x140000 then
    let k := off - 0x100000
    if h : k / 0x80 < 8 then { c with srch := c.srch.set (k / 0x80) (writeSlot c.srch[k / 0x80] (k % 0x80) mask v) } else c
  else if off < 0x180000 then
    let k := off - 0x140000
    if h : k / 0x20 < 8 then { c with srch := c.srch.set (k / 0x20) (writeStore c.srch[k / 0x20] (k % 0x20) mask v) } else c
  else if off < 0x200000 then
    let k := off - 0x180000
    if h : k / 0x80 < 16 then { c with tbl := c.tbl.set (k / 0x80) (writeTable c.tbl[k / 0x80] (k % 0x80) mask v) } else c
  else if off < 0x300000 then writeGranary c (off - 0x200000) mask v
  else if off < 0x400000 then writePoryar f c (off - 0x300000) mask v
  else if off < 0x500000 then writeSec f c s.fuses[f] (off - 0x400000) mask v
  else if off < 0x600000 then writeTally f c (off - 0x500000) mask v
  else if off < 0x700000 then writeRel f c (off - 0x600000) mask v
  else if off < 0x800000 then writePwr c (off - 0x700000) mask v
  else if off < 0x900000 then writeTiers c (off - 0x800000) mask v
  else if off < 0xB00000 then c
  else if off < 0xC00000 then writeGen c (off - 0xB00000) mask v
  else c

/-- The 64 bits of a vector's entry in the MSI-X table: 16 bytes of address, data and vector control, whose bit 0 masks the vector (MSI-X,
an outside standard: PRESUMED, log 15). -/
def Msix.word (x : Msix) (off : Nat) : W64 := if off = 0 then x.addr else fieldsOf [(31, 0, x.data.toNat), (32, 32, bit x.masked)]

/-- A write to a vector's entry. Unmasking is MSIX_UNMASK. -/
def Msix.write (x : Msix) (off : Nat) (mask v : W64) : Msix :=
  let n := merge (x.word off) mask v
  if off = 0 then { x with addr := n } else { x with data := n.extractLsb' 0 32, masked := x.masked || n.getLsbD 32 }

/-- What BAR4 reads as for a function with some vectors: the table from 0, the pending bits from 0x8000 (Table 02-2). -/
def readMsix (xs : List Msix) (off : Nat) : W64 :=
  if off < 0x8000 then (match xs[off / 16]? with | some x => x.word (off % 16) | none => 0)
  else fieldsOf ((List.range 64).map fun i => (i, i, bit ((xs.drop ((off - 0x8000) * 8 + i)).head?.any fun x => x.pendingBit)))

/-- What the PASID capability of a furrow's function reads as, its 6-byte offset holding the control register whose bit 0 enables PASID
(PCI Express, an outside standard: PRESUMED, log 76). -/
def readPasid (c : Furrow) (off : Nat) : W64 := if off = 0 then fieldsOf [(48, 48, bit c.pasidEn)] else 0

/-- The counter index of a furrow's function: PF0 first (Table 19-9). -/
def fnIx (f : FurrowIx) : Fin 9 := ⟨f.val + 1, by have := f.isLt; omega⟩

/-- The counter index of a function. -/
def countIx : Function → Fin 9
  | .pf0 => 0
  | .furrow f => fnIx f

/-- A write to a LOST furrow's BAR0 or BAR2 is discarded, and counted in DISCARDED (R14, Table 19-9). -/
def Run.discardWrite (r : Run s₀) (f : FurrowIx) : Run s₀ :=
  r.modHdl fun d => { d with discarded := d.discarded.set (fnIx f) (sat (d.discarded[fnIx f]) 1) }

/-- A read answered with all ones counts in ONES of its function (Table 19-9). -/
def Run.answerOnes (r : Run s₀) (fn : Function) : Run s₀ :=
  r.modHdl fun d => { d with readData := BitVec.allOnes 64, ones := d.ones.set (countIx fn) (sat (d.ones[countIx fn]) 1) }

/-- A read is answered with a value. -/
def Run.answer (r : Run s₀) (v : W64) : Run s₀ := r.modHdl fun d => { d with readData := v }

/-- The part of an aligned 8-byte register that a read returns. -/
def accessPart (a : HostAccess) (v : W64) : W64 :=
  if a.size = 8 then v else if a.off.toNat % 8 = 4 then v >>> 32 else v &&& 0xFFFFFFFF

/-- A write to a doorbell page: the low 4 bytes are used, and writes to other offsets are ignored (R46). -/
def Run.doorbell (r : Run s₀) (f : FurrowIx) (off : Nat) (v : W32) : Run s₀ :=
  if hh : off / 0x1000 < 64 then
    let h : Handle := ⟨off / 0x1000, hh⟩
    match off % 0x1000 with
    | 0x000 => r.dbSqTail f h v
    | 0x008 => r.dbCqHead f h v
    | 0x010 => r.dbCancel f h v
    | _ => r
  else r

/-- A write to a function that the host port carries, an aligned 8-byte register or a doorbell at a time. -/
def Run.hostWrite (r : Run s₀) (fn : Function) (a : HostAccess) (v : W64) : Run s₀ :=
  let off := a.off.toNat / 8 * 8
  let value := accessPlace a v
  match fn, a.bar with
  | .pf0, .bar0 =>
    if off = 0x30008 then r.modHdl fun d =>
      { d with pmbAddr := (merge (hdlRead d off) (accessMask a) value).extractLsb' 0 32 }
    else r
  | .pf0, .bar4 => r.modHdl fun d =>
      if h : off / 16 < 4 then { d with msix := d.msix.set (off / 16) (d.msix[off / 16].write (off % 16) (accessMask a) value) } else d
  | .furrow f, .bar0 =>
    if r.now.hdl.lostMap.getLsbD f.val then r.discardWrite f
    else if (r.fur f).reachable off then r.setFur f (regWrite r.now f off (accessMask a) value) else r
  | .furrow f, .bar2 =>
    if r.now.hdl.lostMap.getLsbD f.val then r.discardWrite f
    else if a.off.toNat = off then r.doorbell f off (v.extractLsb' 0 32) else r
  | .furrow f, .bar4 => r.modFur f fun c =>
      if h : off / 16 < 65 then { c with msix := c.msix.set (off / 16) (c.msix[off / 16].write (off % 16) (accessMask a) value) } else c
  | .furrow f, .pasid => r.modFur f fun c =>
      if off = 0 then { c with pasidEn := (merge (readPasid c 0) (accessMask a) value).getLsbD 48 } else c
  | _, _ => r

/-- REGISTER_WRITE (R6, R33–R36, R46): the fields without a command of their own are set, kept or cleared by their access codes, and a
doorbell page takes its doorbells; writes of other sizes or alignments are ignored, and nothing is written once the host port is lost
(R13). -/
def execRegisterWrite (fn : Function) (a : HostAccess) (v : W64) (s : State) : Host.Outcome State Fault Refusal :=
  (if !accessRegular a ∨ !s.hdl.carries then Run.start s else (Run.start s).hostWrite fn a v).done

/-- The 64-bit counters that follow R16, by their offsets (R16, R152, R357, R420, R461). -/
def latching (off : Nat) : Bool :=
  off = 0x20 || (decide (0x100000 ≤ off) && decide (off < 0x100400) && (off % 0x80 = 0x60 || off % 0x80 = 0x68)) ||
    off = 0x200038 || off = 0x200040 || off = 0x200048 || off = 0x500010 || off = 0x500018 || off = 0x500038 ||
    off = 0x700018 || off = 0x700040

/-- The latched high half of a register, given up. -/
def Furrow.dropLatch (c : Furrow) (key : BitVec 24) : Furrow := { c with latches := c.latches.filter fun p => p.1 ≠ key }

/-- A regular read of a furrow's BAR0. For a counter under R16 the read of its low half latches the high half, the next read of the high
half returns that, and a read of all 64 bits, which reads the low half too, gives the latch up. -/
def Run.barRead (r : Run s₀) (f : FurrowIx) (a : HostAccess) : Run s₀ :=
  let off := a.off.toNat / 8 * 8
  let key : BitVec 24 := BitVec.ofNat 24 off
  let v := regRead r.now f off
  if !latching off then r.answer (accessPart a v)
  else if a.size = 8 then (r.modFur f fun c => c.dropLatch key).answer v
  else if a.off.toNat % 8 = 0 then
    (r.modFur f fun c => { c with latches := (key, v.extractLsb' 32 32) :: (c.dropLatch key).latches }).answer (accessPart a v)
  else match (r.fur f).latches.find? fun p => p.1 = key with
    | some p => (r.modFur f fun c => c.dropLatch key).answer (p.2.zeroExtend 64)
    | none => r.answer (accessPart a v)

/-- The shadow copy's answer for FUR_ID and FUR_STATE of a LOST furrow (R14). -/
def shadowRead (d : Headland) (f : FurrowIx) (a : HostAccess) : Option W64 :=
  let off := a.off.toNat / 8 * 8
  if a.bar = .bar0 ∧ accessRegular a ∧ (off = 0 ∨ off = 8) then
    some (accessPart a (if off = 0 then d.shadowId[f] else d.shadowState[f]))
  else none

/-- A read of a LOST furrow's BAR0 or BAR2: the shadow copy answers, or all ones (R14). -/
def Run.lostRead (r : Run s₀) (f : FurrowIx) (a : HostAccess) : Run s₀ :=
  match shadowRead r.now.hdl f a with
  | some x => r.answer x
  | none => r.answerOnes (.furrow f)

/-- A read of a function that the host port carries. Reads of other sizes or alignments of BAR0 are answered with all ones (R35, R36); a
doorbell page reads as zero (R46). -/
def Run.hostRead (r : Run s₀) (fn : Function) (a : HostAccess) : Run s₀ :=
  let off := a.off.toNat / 8 * 8
  match fn, a.bar with
  | .pf0, .bar0 => if accessRegular a then r.answer (accessPart a (hdlRead r.now.hdl off)) else r.answerOnes .pf0
  | .pf0, .bar4 => r.answer (accessPart a (readMsix r.now.hdl.msix.toList off))
  | .furrow f, .bar0 =>
    if r.now.hdl.lostMap.getLsbD f.val then r.lostRead f a
    else if !accessRegular a then r.answerOnes (.furrow f)
    else if (r.fur f).reachable off then r.barRead f a else r
  | .furrow f, .bar2 => if r.now.hdl.lostMap.getLsbD f.val then r.lostRead f a else r.answer 0
  | .furrow f, .bar4 => r.answer (accessPart a (readMsix (r.fur f).msix.toList off))
  | .furrow f, .pasid => r.answer (accessPart a (readPasid (r.fur f) off))
  | _, _ => r

/-- FUR_NS_LOW_READ (R16, R34–R36, R46): a host read, which no command answers once the host port is lost (R13). -/
def execFurNsLowRead (fn : Function) (a : HostAccess) (s : State) : Host.Outcome State Fault Refusal :=
  (if !s.hdl.carries then Run.start s else (Run.start s).hostRead fn a).done

/-- LOST_FURROW_ACCESS (R14): the headland answers from its shadow copy, returns all ones, or discards the write. -/
def execLostFurrowAccess (f : FurrowIx) (a : HostAccess) (v : Option W64) (s : State) : Host.Outcome State Fault Refusal :=
  (if !s.hdl.carries ∨ !s.hdl.lostMap.getLsbD f.val ∨ (a.bar ≠ .bar0 ∧ a.bar ≠ .bar2) then Run.start s
   else match v with
   | some _ => (Run.start s).discardWrite f
   | none => (Run.start s).lostRead f a).done

end Sys2Proof.Machine
end

