-- ==== Sys2Proof/Machine/Health.lean ====
section
/-! DEFINITION. The health record and the call for replacement (R434, R436, R437): what retires, what is kept, and what the headland
shows of it. -/

namespace Sys2Proof.Machine

variable {s₀ : State}

/-- Cores of a cluster that are retired. -/
def Health.coresLost (x : Health) (cl : Nat) : Nat := ((List.range 8).filter fun k => !x.cores.getLsbD (8 * cl + k)).length

/-- The conditions of Table 19-7 that hold now, by bit. -/
def Furrow.replaceNow (c : Furrow) (f : FurrowIx) : List Bool :=
  let x := c.health
  let optical := ((List.range 8).filter fun p => !x.ports.getLsbD p).length
  [decide (4 ≤ 64 - popCount x.cores), (List.range 8).any fun cl => decide (2 ≤ x.coresLost cl),
   decide (4 ≤ 128 - popCount x.units + popCount c.bist.unitsPending), x.text != 0xFF,
   x.clocks.toList.any fun m => decide (m.toNat ≤ 1700), x.vofs.toNat = vlim f,
   c.counts.stackCe.toList.any fun n => decide (1000 < n.toNat),
   x.hbmMap != 0xF || c.counts.stackUe.toList.any fun n => decide (8 ≤ n.toNat),
   decide (2 ≤ optical) || !x.ports.getLsbD 8 || !x.ports.getLsbD 9, x.nandReplace, c.recordFail]

/-- Bits as a number, the first the least significant. -/
def ofBits (bs : List Bool) : Nat := bs.foldr (fun b n => bit b + 2 * n) 0

/-- The REASONS bits with those that hold now (R436: each is sticky). -/
def Furrow.reasonsNow (c : Furrow) (f : FurrowIx) : W32 := c.health.reasons ||| BitVec.ofNat 32 (ofBits (c.replaceNow f))

/-- The headland shows a furrow's REPLACE and raises PF0 vector 0 (R437). -/
def Run.showReplace (r : Run s₀) (f : FurrowIx) : Run s₀ :=
  (r.modHdl fun d => { d with replaceMap := addBit d.replaceMap f.val }).raisePf0 0

/-- REPLACE follows the conditions of Table 19-7 (R436, R437): a reason that first holds is kept and recorded. -/
def Run.weighHealth (r : Run s₀) (f : FurrowIx) : Run s₀ :=
  let c := r.fur f
  let v := c.reasonsNow f
  if v = c.health.reasons then r
  else
    let r := r.modFur f fun c => (c.keepHealth fun x => { x with reasons := v }).raise (errRec 0x43 0 v.toNat) []
    if r.now.hdl.failed then r else r.showReplace f

/-- ATTN_N is asserted (R437): it is driven low while REPLACE_MAP, LOST_MAP or HEADLAND_FAULT is not zero. -/
def Headland.attn (d : Headland) : Bool := d.replaceMap != 0 || d.lostMap != 0 || d.fault

end Sys2Proof.Machine
end

