-- ==== Sys2Proof/Machine/Measure.lean ====
section
/-! DEFINITION. The measurement log as loads, unloads and measured moves use it (R393–R395). -/

namespace Sys2Proof.Machine

/-- Kinds of log entries (Table 17-3). -/
def LogKind.rot : Byte := 0x01
def LogKind.ctrl : Byte := 0x02
def LogKind.tally : Byte := 0x03
def LogKind.plan : Byte := 0x10
def LogKind.tokenizer : Byte := 0x11
def LogKind.move : Byte := 0x12

/-- The log can take n more entries: the oldest UNLOADED ones give way (R395). -/
def Sec.logRoom (z : Sec) (n : Nat) : Bool :=
  decide ((z.log.filter fun e => e.state ≠ .unloaded).length + n ≤ 4096)

/-- Append an entry, with the next SEQ (R393, R394). -/
def Sec.logAppend (z : Sec) (e : LogEntry) : Sec :=
  let log := if 4096 ≤ z.log.length then dropOne (fun x => x.state = .unloaded) z.log else z.log
  { z with log := log ++ [{ e with seq := z.logSeq }], logSeq := z.logSeq + 1 }

/-- A load is measured: a PENDING entry is appended before its DONE record (R394). -/
def Furrow.measure (c : Furrow) (kind : Byte) (h : Handle) (object : Nat) (tag : Tag) (inT1 : Bool) (off len : Nat) : Furrow :=
  c.modSec fun z => z.logAppend
    { kind := kind, state := .pending false, handle := BitVec.ofNat 16 h.val, object := BitVec.ofNat 32 object,
      offset := BitVec.ofNat 64 off, length := BitVec.ofNat 64 len, seq := 0, stamp := c.cal.stamp, tag := tag, digest := 0,
      inT1 := inT1 }

/-- An unloaded entry (R395). -/
def LogEntry.unload (e : LogEntry) : LogEntry :=
  match e.state with
  | .pending _ => { e with state := .pending true }
  | _ => { e with state := .unloaded }

/-- The entry of an object that is loaded now. -/
def LogEntry.names (e : LogEntry) (kind : Byte) (h : Handle) (object : Nat) : Bool :=
  e.kind = kind && e.handle.toNat = h.val && e.object.toNat = object &&
    match e.state with | .loaded => true | .pending gone => !gone | .unloaded => false

/-- An object is unloaded: its entry says so (R395). -/
def Furrow.unmeasure (c : Furrow) (kind : Byte) (h : Handle) (object : Nat) : Furrow :=
  c.modSec fun z => { z with log := z.log.map fun e => if e.names kind h object then e.unload else e }

end Sys2Proof.Machine
end

