-- ==== Sys2Proof/Machine/Float.lean ====
section
/-! DEFINITION. Number formats (chapter 04): the values of codes, exact arithmetic on them, rounding to nearest even and
stochastic rounding (R101, R102), conversion with its special cases (R104–R107), block quantisation (R100), and the FP32
operations that the engines are built of (R113). -/

namespace Sys2Proof.Machine

/-! ### Values -/

/-- The value of an element: NaN, an infinity, or ± m × 2^e exactly; a zero keeps its sign. -/
inductive FVal
  | nan
  | inf (neg : Bool)
  | fin (neg : Bool) (m : Nat) (e : Int)
  deriving DecidableEq, Repr

/-- +0. -/
def FVal.zero : FVal := .fin false 0 0

/-- −∞. -/
def FVal.negInf : FVal := .inf true

/-- A natural number. -/
def FVal.ofNat (n : Nat) : FVal := .fin false n 0

/-- An integer; 0 is +0. -/
def FVal.ofInt (i : Int) : FVal := .fin (decide (i < 0)) i.natAbs 0

/-- The value is NaN. -/
def FVal.isNan : FVal → Bool
  | .nan => true
  | _ => false

/-- The value is a zero. -/
def FVal.isZero : FVal → Bool
  | .fin _ m _ => m == 0
  | _ => false

/-- The sign bit. -/
def FVal.sign : FVal → Bool
  | .nan => false
  | .inf s => s
  | .fin s _ _ => s

/-- The value with its sign turned. -/
def FVal.neg : FVal → FVal
  | .nan => .nan
  | .inf s => .inf (!s)
  | .fin s m e => .fin (!s) m e

/-- m × 2^e as an integer multiple of 2^k, for k ≤ e. -/
def scaleTo (m : Nat) (e k : Int) : Nat := m * 2 ^ (e - k).toNat

/-- Strict order of two values that are not NaN; −0 and +0 are equal. -/
def FVal.lt (a b : FVal) : Bool :=
  match a, b with
  | .nan, _ => false
  | _, .nan => false
  | .inf s, .inf t => s && !t
  | .inf s, .fin _ _ _ => s
  | .fin _ _ _, .inf t => !t
  | .fin s m e, .fin t n g =>
    let k := min e g
    let x : Int := if s then -(scaleTo m e k : Int) else scaleTo m e k
    let y : Int := if t then -(scaleTo n g k : Int) else scaleTo n g k
    decide (x < y)

/-- The exact sum; infinities of both signs give NaN, and zeros give −0 only when both are −0 (IEEE 754). -/
def FVal.add (a b : FVal) : FVal :=
  match a, b with
  | .nan, _ => .nan
  | _, .nan => .nan
  | .inf s, .inf t => if s = t then .inf s else .nan
  | .inf s, _ => .inf s
  | _, .inf t => .inf t
  | .fin s m e, .fin t n g =>
    let k := min e g
    let x : Int := (if s then -(scaleTo m e k : Int) else scaleTo m e k) + (if t then -(scaleTo n g k : Int) else scaleTo n g k)
    if x = 0 then .fin (s && t) 0 k else .fin (decide (x < 0)) x.natAbs k

/-- The exact difference. -/
def FVal.sub (a b : FVal) : FVal := a.add b.neg

/-- The exact product; an infinity times a zero is NaN. -/
def FVal.mul (a b : FVal) : FVal :=
  match a, b with
  | .nan, _ => .nan
  | _, .nan => .nan
  | .inf s, .inf t => .inf (s != t)
  | .inf s, .fin t n _ => if n = 0 then .nan else .inf (s != t)
  | .fin s m _, .inf t => if m = 0 then .nan else .inf (s != t)
  | .fin s m e, .fin t n g => .fin (s != t) (m * n) (e + g)

/-- The value times a power of two, exactly. -/
def FVal.scale (a : FVal) (k : Int) : FVal :=
  match a with
  | .fin s m e => .fin s m (e + k)
  | x => x

/-! ### Formats -/

/-- Mantissa bits, bias, and the largest finite magnitude code of a floating-point format (Tables 04-1, 04-2). -/
def Fmt.float? : Fmt → Option (Nat × Nat × Nat)
  | .fp32 => some (23, 127, 0x7F7FFFFF)
  | .fp16 => some (10, 15, 0x7BFF)
  | .bf16 => some (7, 127, 0x7F7F)
  | .e5m2 => some (2, 15, 0x7B)
  | .e4m3 => some (3, 7, 0x7E)
  | .e3m2 => some (2, 3, 0x1F)
  | .e2m1 => some (1, 1, 0x7)
  | _ => none

/-- A floating-point format. -/
def Fmt.isFloat (t : Fmt) : Bool := t.float?.isSome

/-- A signed integer format (R96). -/
def Fmt.isInt (t : Fmt) : Bool := t == .int16 || t == .int8 || t == .int4 || t == .int32

/-- The magnitude code of infinity, where the format has one (Table 04-2). -/
def Fmt.infCode : Fmt → Option Nat
  | .fp32 => some 0x7F800000
  | .fp16 => some 0x7C00
  | .bf16 => some 0x7F80
  | .e5m2 => some 0x7C
  | _ => none

/-- The canonical NaN (Table 04-2). -/
def Fmt.nanCode : Fmt → Option Nat
  | .fp32 => some 0x7FC00000
  | .fp16 => some 0x7E00
  | .bf16 => some 0x7FC0
  | .e5m2 => some 0x7E
  | .e4m3 => some 0x7F
  | .e8m0 => some 0xFF
  | _ => none

/-- The two's-complement value of an n-bit code. -/
def signed (n v : Nat) : Int := if v < 2 ^ (n - 1) then v else (v : Int) - 2 ^ n

/-- The value of a code (R94, R96, R473). -/
def Fmt.value (t : Fmt) (code : Nat) : FVal :=
  match t.float? with
  | some (mb, bias, maxCode) =>
    let s := code.testBit (t.bits - 1)
    let mag := code % 2 ^ (t.bits - 1)
    if maxCode < mag then (if t.infCode = some mag then .inf s else .nan)
    else
      let e := mag / 2 ^ mb
      let m := mag % 2 ^ mb
      if e = 0 then .fin s m (1 - (bias : Int) - mb) else .fin s (2 ^ mb + m) ((e : Int) - bias - mb)
  | none =>
    match t with
    | .e8m0 => if code = 0xFF then .nan else .fin false 1 ((code : Int) - 127)
    | .b1 => .ofNat code
    | _ => .ofInt (signed t.bits code)

/-! ### Rounding -/

/-- How a conversion rounds: to nearest even, or with 16 random bits (R101, R102). -/
inductive Rounding
  | nearest
  | random (rnd : Nat)

/-- Round the magnitude num / den to an integer (R101, R102). -/
def roundQuot (num den : Nat) (how : Rounding) : Nat :=
  let q := num / den
  let r := num % den
  match how with
  | .nearest => if 2 * r > den ∨ (2 * r = den ∧ q % 2 = 1) then q + 1 else q
  | .random rnd => if 65536 ≤ r * 65536 / den + rnd then q + 1 else q

/-- Round num / den × 2^e to a multiple of 2^u: the multiple. -/
def roundAt (num den : Nat) (e u : Int) (how : Rounding) : Nat :=
  if u ≤ e then roundQuot (num * 2 ^ (e - u).toNat) den how else roundQuot num (den * 2 ^ (u - e).toNat) how

/-- ⌊log₂ (num / den)⌋ for num ≠ 0. -/
def log2Quot (num den : Nat) : Int :=
  let p : Int := (num.log2 : Int) - den.log2
  if (if 0 ≤ p then num < den * 2 ^ p.toNat else num * 2 ^ (-p).toNat < den) then p - 1 else p

/-- The spacing exponent of a format at a magnitude: its target spacing is 2^u (R102). -/
def spacing (mb bias : Nat) (num den : Nat) (e : Int) : Int := max (log2Quot num den + e) (1 - (bias : Int)) - mb

/-- Round num / den × 2^e into a floating-point format on an exponent range without upper limit: the magnitude code, which
exceeds the largest finite one on overflow (R101). -/
def roundMag (mb bias : Nat) (num den : Nat) (e : Int) (how : Rounding) : Nat :=
  if num = 0 then 0
  else
    let u := spacing mb bias num den e
    let q := roundAt num den e u how
    let k := (u + mb + bias - 1).toNat
    k * 2 ^ mb + q

/-- The sign bit of a format in its place. -/
def Fmt.signBit (t : Fmt) (s : Bool) : Nat := if s then 2 ^ (t.bits - 1) else 0

/-- The greatest magnitude of an integer format for a sign. -/
def Fmt.intLimit (t : Fmt) (s : Bool) : Nat := if s then 2 ^ (t.bits - 1) else 2 ^ (t.bits - 1) - 1

/-- An integer code of a sign and a magnitude, clamped to the range (Table 04-4). -/
def Fmt.intCode (t : Fmt) (s : Bool) (q : Nat) : Nat :=
  let q := min q (t.intLimit s)
  if s then (2 ^ t.bits - q) % 2 ^ t.bits else q

/-- The code of an overflow (Table 04-4). -/
def Fmt.overflow (t : Fmt) (s sat : Bool) : Nat :=
  let big := match t.float? with | some x => x.2.2 | none => 0
  if sat then t.signBit s + big
  else match t.infCode, t with
    | some c, _ => t.signBit s + c
    | none, .e4m3 => 0x7F
    | none, _ => t.signBit s + big

/-- The code of an infinity (Table 04-4). -/
def Fmt.ofInf (t : Fmt) (s sat : Bool) : Nat :=
  match t with
  | .fp32 | .fp16 | .bf16 | .e5m2 => t.signBit s + (t.infCode.getD 0)
  | .e4m3 => if sat then t.signBit s + 0x7E else 0x7F
  | .e3m2 | .e2m1 => t.overflow s true
  | .b1 => if s then 0 else 1
  | _ => t.intCode s (2 ^ 32)

/-- Conversion of num / den × 2^e with a sign (R101–R107): the code. -/
def Fmt.convertQuot (t : Fmt) (sat : Bool) (how : Rounding) (s : Bool) (num den : Nat) (e : Int) : Nat :=
  match t.float? with
  | some (mb, bias, big) =>
    let c := roundMag mb bias num den e how
    if big < c then t.overflow s sat else t.signBit s + c
  | none =>
    match t with
    | .b1 => if num = 0 ∨ s then 0 else 1
    | _ => t.intCode s (roundAt num den e 0 how)

/-- Conversion of a value (R104): the code, and whether a NaN input became something else (R106). -/
def Fmt.convert (t : Fmt) (sat : Bool) (how : Rounding) (v : FVal) : Nat × Bool :=
  match v with
  | .nan => match t.nanCode with
    | some c => (c, false)
    | none => (0, true)
  | .inf s => (t.ofInf s sat, false)
  | .fin s m e => (t.convertQuot sat how s m 1 e, false)

/-- Round a value to a format to nearest even, overflow going to infinity: an arithmetic result. -/
def Fmt.rne (t : Fmt) (v : FVal) : FVal :=
  match v with
  | .fin s m e => t.value (t.convertQuot false .nearest s m 1 e)
  | x => x

/-- Round to FP32. -/
def rne32 (v : FVal) : FVal := Fmt.fp32.rne v

/-- The FP32 bits of a value. -/
def FVal.bits32 (v : FVal) : Nat := (Fmt.fp32.convert false .nearest v).1

/-- The value of FP32 bits. -/
def f32 (bits : Nat) : FVal := Fmt.fp32.value bits

/-! ### Operations (R113, R120, Table 05-6) -/

/-- Division rounded once to a format (IEEE 754). -/
def Fmt.div (t : Fmt) (a b : FVal) : FVal :=
  match a, b with
  | .nan, _ => .nan
  | _, .nan => .nan
  | .inf _, .inf _ => .nan
  | .inf s, .fin u _ _ => .inf (s != u)
  | .fin s _ _, .inf u => .fin (s != u) 0 0
  | .fin s m e, .fin u n g =>
    if n = 0 then (if m = 0 then .nan else .inf (s != u))
    else t.value (t.convertQuot false .nearest (s != u) m n (e - g))

/-- The integer square root, by bisection on bits. -/
def isqrt (n : Nat) : Nat := (List.range (n.log2 / 2 + 1)).foldr (fun i r => if (r + 2 ^ i) ^ 2 ≤ n then r + 2 ^ i else r) 0

/-- The square root rounded once to a format. The root is taken with 64 bits to spare, and a remainder leaves a sticky
bit. -/
def Fmt.sqrt (t : Fmt) (a : FVal) : FVal :=
  match a with
  | .nan => .nan
  | .inf s => if s then .nan else .inf false
  | .fin s m e =>
    if m = 0 then .fin s 0 0
    else if s then .nan
    else
      let k : Nat := 128 + (e % 2).toNat
      let n := m * 2 ^ k
      let r := isqrt n
      t.value (t.convertQuot false .nearest false (2 * r + bit (decide (r * r ≠ n))) 1 ((e - k) / 2 - 1))

/-- The greater of two values: NaN when either is NaN, and −0 below +0. R121 states that of reductions; VEC_MAP's max and min, of which
R113 says only IEEE 754, take the same (DESIGN CHOICE, log 77). -/
def FVal.max (a b : FVal) : FVal :=
  if a.isNan || b.isNan then .nan
  else if a.lt b then b else if b.lt a then a else if a.sign then b else a

/-- The lesser of two values, as `FVal.max` (log 77). -/
def FVal.min (a b : FVal) : FVal :=
  if a.isNan || b.isNan then .nan
  else if a.lt b then a else if b.lt a then b else if a.sign then a else b

/-- FP32 operations, each rounded once. -/
def add32 (a b : FVal) : FVal := rne32 (a.add b)
def sub32 (a b : FVal) : FVal := rne32 (a.sub b)
def mul32 (a b : FVal) : FVal := rne32 (a.mul b)
def div32 (a b : FVal) : FVal := Fmt.fp32.div a b

/-- Add pairs of a list that stand 2l and 2l + 1 apart. -/
def addPairs : List FVal → List FVal
  | a :: b :: rest => add32 a b :: addPairs rest
  | xs => xs

/-- The row reduction of R121 over FP32 values. -/
def sumReduce (v : List FVal) : FVal :=
  let lanes := (List.range 64).map fun l =>
    (v.zipIdx.filter fun p => p.2 % 64 = l).foldl (fun acc p => add32 acc p.1) FVal.zero
  (addPairs (addPairs (addPairs (addPairs (addPairs (addPairs lanes)))))).headD .zero

/-- The max reduction; −∞ for no inputs. -/
def maxReduce (v : List FVal) : FVal := v.foldl FVal.max .negInf

/-- The min reduction. -/
def minReduce (v : List FVal) : FVal := v.foldl FVal.min (.inf false)

/-! ### binary64 (R202) -/

/-- The binary64 bits of a value, rounded to nearest even; NaN is canonical. -/
def FVal.bits64 (v : FVal) : Nat :=
  match v with
  | .nan => 0x7FF8000000000000
  | .inf s => 0x7FF0000000000000 + bit s * 2 ^ 63
  | .fin s m e => Nat.min (roundMag 52 1023 m 1 e .nearest) 0x7FF0000000000000 + bit s * 2 ^ 63

/-- The value of binary64 bits. -/
def f64 (bits : Nat) : FVal :=
  let s := bits.testBit 63
  let e := bitsOf bits 62 52
  let m := bitsOf bits 51 0
  if e = 2047 then (if m = 0 then .inf s else .nan)
  else if e = 0 then .fin s m (-1074) else .fin s (2 ^ 52 + m) ((e : Int) - 1075)

/-- Addition rounded to nearest even in binary64. -/
def add64 (a b : FVal) : FVal := f64 (a.add b).bits64

/-- Add pairs of a list that stand 2l and 2l + 1 apart, in binary64. -/
def addPairs64 : List FVal → List FVal
  | a :: b :: rest => add64 a b :: addPairs64 rest
  | xs => xs

/-- The binary64 sum of values by input position: 64 lanes and a pairwise tree (R202). -/
def laneSum64 (xs : List (Nat × FVal)) : FVal :=
  let lanes := (List.range 64).map fun l => (xs.filter fun p => p.1 % 64 = l).foldl (fun acc p => add64 acc p.2) FVal.zero
  (addPairs64 (addPairs64 (addPairs64 (addPairs64 (addPairs64 (addPairs64 lanes)))))).headD .zero

/-! ### Random bits (R124) and block quantisation (R100) -/

/-- The 32-bit word of R124 before its last line. -/
def rndWord (seed i : Nat) : Nat :=
  let w : Nat → Nat := fun x => x % 2 ^ 32
  let x := w (seed ^^^ w (i * 0x9E3779B9))
  let x := x ^^^ (x >>> 16)
  let x := w (x * 0x85EBCA6B)
  let x := x ^^^ (x >>> 13)
  let x := w (x * 0xC2B2AE35)
  let x := x ^^^ (x >>> 16)
  x

/-- The 16 random bits of an element. -/
def rndBits (seed i : Nat) : Nat := rndWord seed i % 65536

/-- emax of the formats that carry block scales (R100). -/
def Fmt.emax : Fmt → Option Int
  | .e5m2 => some 15
  | .e4m3 => some 8
  | .e3m2 => some 4
  | .e2m1 => some 2
  | _ => none

/-- The exponent of a value's magnitude, ⌊log₂ |v|⌋; none for a zero, an infinity or NaN. -/
def FVal.exponent : FVal → Option Int
  | .fin _ m e => if m = 0 then none else some ((m.log2 : Int) + e)
  | _ => none

/-- Quantise one block (R100): the scale, the element codes and the NaN inputs; `how` gives the rounding of an element of
the block. -/
def Fmt.quantise (t : Fmt) (how : Nat → Rounding) (v : List FVal) : Nat × List Nat × Nat :=
  if v.any fun x => x.isNan || (match x with | .inf _ => true | _ => false) then
    (0xFF, v.map fun _ => 0, (v.filter FVal.isNan).length)
  else
    match (v.filterMap FVal.exponent).max? with
    | none => (0, v.map fun x => t.signBit x.sign, 0)
    | some top =>
      let e := min (max (top - (t.emax.getD 0)) (-127)) 127
      ((e + 127).toNat, v.zipIdx.map fun p => (t.convert true (how p.2) (p.1.scale (-e))).1, 0)

end Sys2Proof.Machine
end

