-- ==== Sys2Proof/Machine/Special.lean ====
section
/-! DEFINITION. The special functions of the vector engine (Table 05-6): their values to 512 binary places, and the FP32 results that the
table's error bounds allow, of which the implementation gives one (R121; log 28). -/

namespace Sys2Proof.Machine

/-- One, in units of 2⁻⁵¹². -/
def fixOne : Nat := 2 ^ 512

/-- The magnitude m × 2^e in units of 2⁻⁵¹². -/
def fixMag (m : Nat) (e : Int) : Nat := if -512 ≤ e then m * 2 ^ (e + 512).toNat else m / 2 ^ (-512 - e).toNat

/-- A finite value in units of 2⁻⁵¹². -/
def FVal.fix : FVal → Int
  | .fin s m e => if s then -(fixMag m e : Int) else fixMag m e
  | _ => 0

/-- Products and quotients of numbers in units of 2⁻⁵¹². -/
def fixMul (a b : Int) : Int := a * b / fixOne
def fixDiv (a b : Int) : Int := a * fixOne / b

/-- The sum of n terms of which the first is t, and term i + 1 is `next i` of term i. -/
def seriesSum (next : Nat → Int → Int) : Nat → Nat → Int → Int
  | 0, _, _ => 0
  | n + 1, i, t => t + seriesSum next n (i + 1) (next i t)

/-- Artanh z for |z| ≤ 1/3, and arctan of 1 / n. -/
def fixArtanh (z : Int) : Int :=
  sumOfInt ((powers (fixMul z z) 170 z).zipIdx.map fun p => p.1 / (2 * p.2 + 1))
where
  powers (q : Int) : Nat → Int → List Int
    | 0, _ => []
    | k + 1, p => p :: powers q k (fixMul p q)
  sumOfInt (xs : List Int) : Int := xs.foldl (· + ·) 0

/-- Arctan of 1 / n. -/
def fixArctan (n : Nat) : Int :=
  (List.range 240).foldl (fun (acc : Int) i => acc + (if i % 2 = 0 then 1 else -1) * ((fixOne / (n ^ (2 * i + 1) * (2 * i + 1)) : Nat) : Int)) 0

/-- Ln 2, π, and 1 / √2. -/
def fixLn2 : Int := 2 * fixArtanh (fixOne / 3 : Nat)
def fixPi : Int := 16 * fixArctan 5 - 4 * fixArctan 239
def fixHalfRoot : Int := (isqrt (fixOne * fixOne / 2) : Nat)

/-- The exponential: 2^k × e^r with r in 0 … ln 2. -/
def fixExp (x : Int) : Int :=
  let k := x / fixLn2
  let r := x - k * fixLn2
  let s := seriesSum (fun i t => fixMul t r / (i + 1 : Nat)) 110 0 fixOne
  if 0 ≤ k then s * 2 ^ k.toNat else s / 2 ^ (-k).toNat

/-- The natural logarithm of m × 2^e for m ≠ 0. -/
def fixLog (m : Nat) (e : Int) : Int :=
  let y : Int := fixMag m (-(m.log2 : Int))
  (e + m.log2) * fixLn2 + 2 * fixArtanh (fixDiv (y - fixOne) (y + fixOne))

/-- Erf z for 0 ≤ z ≤ 12. -/
def fixErf (z : Int) : Int :=
  let s := seriesSum (fun i t => fixMul (fixMul t z) (2 * z) / (2 * i + 3 : Nat)) 900 0 z
  fixDiv (2 * fixMul (fixExp (-(fixMul z z))) s) (isqrt (fixPi.toNat * fixOne) : Nat)

/-- A number brought within ± 300, beyond which the functions of e^x are at their limits in FP32. -/
def fixClamp (x : Int) : Int := max (-300 * (fixOne : Int)) (min (300 * fixOne) x)

/-- 1 / (1 + e^−x). -/
def fixSigmoid (x : Int) : Int :=
  let q := fixExp (fixClamp (-(x.natAbs : Int)))
  fixDiv (if 0 ≤ x then fixOne else q) (fixOne + q)

/-- A special function of m × 2^e with a sign, where Table 05-6 fixes no special value. -/
def fixSpecial (k : Config.Special) (s : Bool) (m : Nat) (e : Int) : Int :=
  let x := (FVal.fin s m e).fix
  match k with
  | .exp => fixExp (fixClamp x)
  | .log => fixLog m e
  | .rsqrt => (isqrt (2 ^ (1024 - e).toNat / m) : Nat)
  | .tanh =>
    let q := fixExp (fixClamp (-2 * (x.natAbs : Int)))
    let t := fixDiv (fixOne - q) (fixOne + q)
    if s then -t else t
  | .sigmoid => fixSigmoid x
  | .silu => fixMul x (fixSigmoid x)
  | .gelu =>
    let t := fixErf (min (fixMul x.natAbs fixHalfRoot) (12 * fixOne))
    fixMul x (fixOne + (if s then -t else t)) / 2

/-- The error bound of a function in units in the last place (Table 05-6). -/
def ulpBound : Config.Special → Nat
  | .exp | .log | .rsqrt => 1
  | .tanh | .sigmoid | .silu => 2
  | .gelu => 3

/-- The FP32 magnitude codes in order of value, as signed numbers, and their values; the code of infinity stands for 2¹²⁸. -/
def fixOfKey (k : Int) : Int :=
  let v : Int := if k.natAbs < 0x7F800000 then (Fmt.fp32.value k.natAbs).fix else 2 ^ 640
  if k < 0 then -v else v

/-- The FP32 codes within n units in the last place of a number; a zero has the sign `s` when the number is zero. -/
def codesNear (n : Nat) (s : Bool) (v : Int) : List Nat :=
  let neg := if v = 0 then s else decide (v < 0)
  let ulp : Int := if v = 0 then -149 else spacing 23 127 v.natAbs 1 (-512)
  let nearest := Fmt.fp32.convertQuot false .nearest false v.natAbs 1 (-512)
  let key : Int := if neg then -(nearest : Int) else nearest
  let keys := (List.range (2 * n + 3)).map fun (i : Nat) => key + (i : Int) - (n + 1)
  let ok := keys.filter fun k => decide (k.natAbs ≤ 0x7F800000) && decide ((fixOfKey k - v).natAbs ≤ n * 2 ^ (ulp + 512).toNat)
  (if ok.isEmpty then [key] else ok).map fun k => Fmt.fp32.signBit (if k = 0 then neg else decide (k < 0)) + k.natAbs

/-- A special function on an FP32 value: the results that Table 05-6 fixes; SiLU of −∞ is a zero, whose sign the table leaves open;
elsewhere one of the results within the table's error bound (log 28). -/
def special (k : Config.Special) (v : FVal) : FVal :=
  let pick := Config.special k (BitVec.ofNat 32 v.bits32)
  let open_ := fun (s : Bool) (m : Nat) (e : Int) =>
    let xs := codesNear (ulpBound k) s (fixSpecial k s m e)
    f32 (xs[pick % xs.length]?.getD 0)
  match k, v with
  | _, .nan => .nan
  | .exp, .inf s => if s then .zero else .inf false
  | .log, .inf s => if s then .nan else .inf false
  | .log, .fin s m e => if m = 0 then .inf true else if s then .nan else open_ s m e
  | .rsqrt, .inf s => if s then .nan else .zero
  | .rsqrt, .fin s m e => if m = 0 then .inf s else if s then .nan else open_ s m e
  | .tanh, .inf s => .fin s 1 0
  | .sigmoid, .inf s => if s then .zero else .fin false 1 0
  | .silu, .inf s => if s then .fin (decide (pick % 2 = 0)) 0 0 else .inf false
  | .gelu, .inf s => if s then .fin true 0 0 else .inf false
  | _, .fin s m e => open_ s m e

end Sys2Proof.Machine
end

