-- ==== Sys2Proof/Machine/Tensor.lean ====
section
/-! DEFINITION. What the engine families share: tensors in memory (R97, R98, R125, R126), scopes and cores (Table 05-9, R475),
reads that meet uncorrectable data (R423), and the cost of a descriptor (R82). -/

namespace Sys2Proof.Machine

variable {s₀ : State}

/-- For whom an engine works: the furrow, the context, the request, the opcode, and the core whose scratch TIER 0 means. -/
structure Eng where
  f    : FurrowIx
  h    : Handle
  tag  : Tag
  op   : Nat
  core : Nat

/-- SCOPE and CLUSTER of a descriptor that has them (Tables 05-9, 05-10, 07-8, 09-5, 09-6). -/
def scopeOf (d : List Byte) : Option (Nat × Nat) :=
  match (opcodeOf d).toNat with
  | 0x20 | 0x21 => some (bitsOf (df d 50 1) 3 2, bitsOf (df d 56 1) 2 0)
  | 0x22 | 0x23 | 0x24 | 0x25 | 0x26 | 0x27 => some (bitsOf (df d 51 1) 4 3, bitsOf (df d 51 1) 2 0)
  | 0x31 => some (bitsOf (df d 44 1) 3 2, bitsOf (df d 44 1) 6 4)
  | 0x40 => some (bitsOf (df d 52 1) 4 3, bitsOf (df d 52 1) 2 0)
  | 0x41 => some (bitsOf (df d 54 1) 4 3, bitsOf (df d 54 1) 2 0)
  | _ => none

/-- The core whose scratch TIER 0 means (R475): the one that a SCOPE 0 descriptor runs on, or the only pinned one. -/
def Request.core (q : Request) : Nat :=
  match scopeOf q.desc, q.pinned, q.place with
  | none, [p], _ => p.1.val * 8 + p.2.val
  | _, _, some (.core k) => k.val
  | _, _, _ => 0

/-- The engine of a request's present descriptor. -/
def Request.eng (q : Request) (f : FurrowIx) : Eng :=
  { f := f, h := q.h, tag := q.tag, op := (opcodeOf q.desc).toNat, core := q.core }

/-! ### Extents -/

/-- An extent that a descriptor reads: tier, offset, bytes. -/
abbrev Extent := Nat × Nat × Nat

/-- The first piece of a list of extents that holds uncorrectable data. -/
def Furrow.firstBad (c : Furrow) (e : Eng) (xs : List Extent) : Option (Space × Nat × Nat) :=
  xs.findSome? fun x => c.meets e.f e.h e.core x.1 x.2.1 x.2.2

/-- The uncorrectable block or word that a piece touches first. -/
def Furrow.badIn (c : Furrow) (p : Space × Nat × Nat) : Option (BadWord × Nat) :=
  match p.1.code with
  | none => none
  | some (k, w) => (c.counts.bad.find? fun b => b.mem = k && overlaps (b.num * w) w p.2.1 p.2.2).map fun b => (b, b.num * w)

/-- The error record of a read that meets uncorrectable data (Tables 19-2, 19-3): SRAM_UE or HBM_UE, with its place. -/
def ueRecord (b : BadWord) (at_ : Nat) (h : Handle) (tag : Tag) (op : Nat) : ErrRec :=
  let r := { errRec (if b.mem = 2 then 0x04 else 0x02) 2 (if b.mem = 2 then b.detail.toNat else 0) with
    ctx := BitVec.ofNat 16 h.val, tag := tag, opcode := BitVec.ofNat 8 op }
  match b.mem with
  | 0 => { r with cluster := BitVec.ofNat 8 (at_ / hbmUnit / 8), core := BitVec.ofNat 8 (at_ / hbmUnit % 8), bank := BitVec.ofNat 8 (at_ % hbmUnit / 131072) }
  | 1 => { r with cluster := BitVec.ofNat 8 (at_ / mib / 16), bank := BitVec.ofNat 8 (at_ / mib % 16) }
  | 2 => { r with addr := BitVec.ofNat 64 at_, part := BitVec.ofNat 8 (at_ / 4096 % 4) }

/-- An error record that ends one request: the furrow with it raised, and the DATA_ERROR ending (R423, R424). -/
def Furrow.dataError (c : Furrow) (e : Eng) (rec_ : ErrRec) (memory : Nat) : Furrow × Ending :=
  let seq := c.err.seq
  let nested := !c.err.handling.isEmpty
  let c := (c.raise rec_ [(e.h, e.tag)]).modReq e.h e.tag fun q => { q with nested := q.nested || nested }
  (c, .bare Status.dataError (dataErrorDetail c e.f memory e.op seq))

/-- A read of a piece for a request meets uncorrectable data (R423). -/
def Run.readFault (r : Run s₀) (e : Eng) (p : Space × Nat × Nat) : Run s₀ × Ending :=
  match (r.fur e.f).badIn p with
  | none => (r, .bare Status.dataError 0)
  | some (b, at_) =>
    let x := (r.fur e.f).dataError e (ueRecord b at_ e.h e.tag e.op) b.mem.val
    (r.setFur e.f x.1, x.2)

/-- A range whose contents the spec leaves undefined takes free bytes (log 5). -/
def Run.scribble (r : Run s₀) (e : Eng) (x : Extent) : Run s₀ :=
  let p := r.freeBytes x.2.2
  p.2.store e.f e.h e.core x.1 x.2.1 p.1

/-- A read meets uncorrectable data, and the outputs listed are undefined (R133, R423). -/
def Run.spoil (r : Run s₀) (e : Eng) (p : Space × Nat × Nat) (outs : List Extent) : Run s₀ × Ending :=
  (r.each outs fun r x => r.scribble e x).readFault e p

/-- Do a descriptor's work unless one of the extents it reads holds uncorrectable data (R423); `outs` is what it writes. -/
def Run.reading (r : Run s₀) (e : Eng) (xs outs : List Extent) (work : Run s₀ → Run s₀ × Ending) : Run s₀ × Ending :=
  match (r.fur e.f).firstBad e xs with
  | none => work r
  | some p => r.spoil e p outs

/-- As `reading`, where the extents lie in the region of another context than the request's. -/
def Run.readingOf (r : Run s₀) (e : Eng) (h : Handle) (xs outs : List Extent) (work : Run s₀ → Run s₀ × Ending) : Run s₀ × Ending :=
  match (r.fur e.f).firstBad { e with h := h } xs with
  | none => work r
  | some p => r.spoil e p outs

/-- A computed access to a context's HBM leaves its region (Table 03-13): the context is torn down, and the ending is void. The faulting
address is that of the lowest byte outside (R477). -/
def Run.violate (r : Run s₀) (e : Eng) (off n : Nat) : Run s₀ :=
  let c := r.fur e.f
  let at_ := ((List.range n).find? fun i => !c.hbmInside e.h (off + i) 1).getD 0
  r.teardown e.f e.h .regionViolation (BitVec.ofNat 64 (c.hbmBase e.h + off + at_))

/-! ### Tensors -/

/-- A tensor operand: its reference, format, shape, and whether it is block-scaled. -/
structure Tensor where
  ref    : TRef
  fmt    : Fmt
  rows   : Nat
  cols   : Nat
  scaled : Bool

/-- Bytes of one row on its own. -/
def Tensor.rowBytes (t : Tensor) : Nat := t.fmt.rowBytes t.cols

/-- Bytes of the element array: with STRIDE 0 the rows follow one another element by element, with no gap (R97, Table 05-7). -/
def Tensor.elemBytes (t : Tensor) : Nat :=
  if t.rows = 0 then 0
  else if t.ref.stride = 0 then t.fmt.rowBytes (t.rows * t.cols)
  else (t.rows - 1) * t.ref.stride + t.rowBytes

/-- Where an element lies: the byte offset from the tensor's first byte, and the bit in that byte (R97, Table 05-7). -/
def Tensor.place (t : Tensor) (i j : Nat) : Nat × Nat :=
  let n := (if t.ref.stride = 0 then i * t.cols + j else j) * t.fmt.bits
  (i * t.ref.stride + n / 8, n % 8)

/-- Bytes of one whole operand: the scale array begins at the first 64-byte boundary after the elements (R126). -/
def Tensor.bytes (t : Tensor) : Nat := if t.scaled then align64 t.elemBytes + t.rows * t.cols / 32 else t.elemBytes

/-- From one product's operand to the next (R127). -/
def Tensor.pitch (t : Tensor) : Nat := align64 t.bytes

/-- Bytes of n operands in a row. -/
def Tensor.span (t : Tensor) (n : Nat) : Nat := (n - 1) * t.pitch + t.bytes

/-- The operand of product b. -/
def Tensor.nth (t : Tensor) (b : Nat) : Tensor := { t with ref := { t.ref with off := t.ref.off + b * t.pitch } }

/-- The extents that one operand fills: its elements, without the gaps that a pitch leaves between rows, and its scales. -/
def Tensor.parts (t : Tensor) : List Extent :=
  let at_ := fun o n => ((t.ref.tier, t.ref.off + o, n) : Extent)
  (if t.ref.stride = 0 then [at_ 0 t.elemBytes] else (List.range t.rows).map fun i => at_ (i * t.ref.stride) t.rowBytes) ++
    if t.scaled then [at_ (align64 t.elemBytes) (t.rows * t.cols / 32)] else []

/-- The extents of n operands in a row. -/
def Tensor.extents (t : Tensor) (n : Nat) : List Extent := (List.range n).flatMap fun b => (t.nth b).parts

/-- The code of an element (R97). -/
def Run.code (r : Run s₀) (e : Eng) (t : Tensor) (i j : Nat) : Nat :=
  let p := t.place i j
  (r.loadNat e.f e.h e.core t.ref.tier (t.ref.off + p.1) (ceilDiv (p.2 + t.fmt.bits) 8) >>> p.2) % 2 ^ t.fmt.bits

/-- A byte of the scale array. -/
def Run.scaleByte (r : Run s₀) (e : Eng) (t : Tensor) (n : Nat) : Nat :=
  r.loadNat e.f e.h e.core t.ref.tier (t.ref.off + align64 t.elemBytes + n) 1

/-- The value of an element with a block scale applied; a scale of 0xFF makes it NaN (R98). -/
def withScale (v : FVal) (s : Nat) : FVal := if s = 0xFF then .nan else v.scale ((s : Int) - 127)

/-- The value of an element whose blocks run along its row (R98). -/
def Run.value (r : Run s₀) (e : Eng) (t : Tensor) (i j : Nat) : FVal :=
  let v := t.fmt.value (r.code e t i j)
  if t.scaled then withScale v (r.scaleByte e t (i * (t.cols / 32) + j / 32)) else v

/-- The bytes of a list of codes that stands alone (R97). -/
def Fmt.pack (t : Fmt) (codes : List Nat) : List Byte :=
  leBytes (t.rowBytes codes.length) (codes.foldr (fun c acc => c % 2 ^ t.bits + acc * 2 ^ t.bits) 0)

/-- Store a row of codes: a byte that it shares with the rows beside it keeps their bits, and unused positions at the end are zero
(R97). -/
def Run.putRow (r : Run s₀) (e : Eng) (t : Tensor) (i : Nat) (codes : List Nat) : Run s₀ :=
  let p := t.place i 0
  let last := decide (t.ref.stride ≠ 0) || decide (i + 1 = t.rows)
  let top := p.2 + codes.length * t.fmt.bits
  let n := if t.ref.stride ≠ 0 then t.rowBytes else if last then t.elemBytes - p.1 else ceilDiv top 8
  let old := r.loadNat e.f e.h e.core t.ref.tier (t.ref.off + p.1) n
  let new := codes.foldr (fun c acc => c % 2 ^ t.fmt.bits + acc * 2 ^ t.fmt.bits) 0
  r.store e.f e.h e.core t.ref.tier (t.ref.off + p.1)
    (leBytes n (old % 2 ^ p.2 + new * 2 ^ p.2 + if last then 0 else old / 2 ^ top * 2 ^ top))

/-- Store the scale bytes of a row. -/
def Run.putScales (r : Run s₀) (e : Eng) (t : Tensor) (i : Nat) (scales : List Nat) : Run s₀ :=
  r.store e.f e.h e.core t.ref.tier (t.ref.off + align64 t.elemBytes + i * (t.cols / 32)) (scales.map (BitVec.ofNat 8))

/-! ### Scopes (Table 05-9) -/

/-- The cores of a scope: those of one cluster for 0 and 1 (0 uses one of them), all for 2. -/
def scopeCores (scope cl : Nat) : List (Fin 64) :=
  (List.finRange 64).filter fun k => decide (scope = 2) || k.val / 8 = cl

/-- How many cores in service a scope has; at least one, for a cost. -/
def Furrow.scopeSize (c : Furrow) (scope cl : Nat) : Nat :=
  if scope = 0 then 1 else max 1 ((scopeCores scope cl).filter fun k => c.placeUp (.core k)).length

/-- The checks of SCOPE and CLUSTER for a context at two byte offsets (Table 05-9, R129): 3 is reserved, CLUSTER is 0 for
SCOPE 2, and for the others the context holds a unit in it. -/
def Furrow.scopeCheck (c : Furrow) (h : Handle) (scope cl offScope offCluster : Nat) : Option Refuse :=
  firstFail [badIf (decide (scope = 3)) offScope,
    badIf (if scope = 2 then decide (cl ≠ 0) else !c.holdsIn h cl) offCluster]

/-- The checks of a tensor reference (R125, R129): alignment, tier, TIER 0 only under SCOPE 0, and the extent. -/
def Furrow.tensorCheck (c : Furrow) (h : Handle) (t : TRef) (n off scope : Nat) : Option Refuse :=
  c.refCheck h t n off (if scope = 0 then [0, 1, 2] else [1, 2])

/-! ### Costs (R82) -/

/-- The estimate of a descriptor: ns of engine time, ns to its first result, and whether it counts in the backlog. -/
structure Cost where
  ns      : Nat
  first   : Nat
  backlog : Bool
  deriving DecidableEq, Repr

/-- A cost that is all before the first result. -/
def Cost.flat (ns : Nat) : Cost := ⟨ns, ns, true⟩

/-- One quantum, counted in no backlog (R194). -/
def Cost.quantum : Cost := ⟨50000, 50000, false⟩

/-- One quantum for a descriptor whose estimate needs a value not yet known (R82). -/
def Cost.unknown : Cost := .flat 50000

/-- Cycles at 1.9 GHz as ns, rounded up (log 30). -/
def cyclesNs (n : Nat) : Nat := ceilDiv (n * 10) 19

end Sys2Proof.Machine
end

