-- ==== Sys2Proof/Machine/Matrix.lean ====
section
/-! DEFINITION. The matrix tiles (chapter 05): MATMUL and MATMUL_BATCH, their checks (R127, R129), their arithmetic (R108–R110,
R128) and their cost (R136). -/

namespace Sys2Proof.Machine

variable {s₀ : State}

/-- The fields of a matrix descriptor (Table 05-9). -/
structure MatDesc where
  w : TRef
  x : TRef
  y : TRef
  m : Nat
  n : Nat
  k : Nat
  fx : Nat
  fw : Nat
  fy : Nat
  acc : Bool
  bsx : Bool
  bsw : Bool
  sat : Bool
  rnd : Bool
  scope : Nat
  form : Nat
  split : Nat
  seed : Nat
  cluster : Nat
  batch : Nat

/-- The fields that a descriptor's bytes hold; MATMUL is a batch of one. -/
def MatDesc.of (d : List Byte) : MatDesc :=
  let b49 := df d 49 1
  let b50 := df d 50 1
  { w := tref d 16, x := tref d 24, y := tref d 32, m := bitsOf (df d 40 4) 23 0, n := df d 44 2, k := df d 46 2,
    fx := bitsOf (df d 48 1) 7 4, fw := bitsOf (df d 48 1) 3 0, fy := bitsOf b49 3 0, acc := b49.testBit 6,
    bsx := b49.testBit 5, bsw := b49.testBit 4, sat := b50.testBit 5, rnd := b50.testBit 4, scope := bitsOf b50 3 2,
    form := bitsOf b50 1 0, split := df d 51 1, seed := df d 52 4, cluster := bitsOf (df d 56 1) 2 0,
    batch := if opcodeOf d = 0x21 then df d 58 4 else 1 }

/-- Formats a matrix operand may have (Table 04-5). -/
def Fmt.matrixOperand : Fmt → Bool
  | .fp16 | .bf16 | .e5m2 | .e4m3 | .e3m2 | .e2m1 | .int8 | .int4 => true
  | _ => false

/-- Formats of FMT_Y (Table 05-9). -/
def Fmt.matrixOutput : Fmt → Bool
  | .fp32 | .fp16 | .bf16 | .e5m2 | .e4m3 | .int32 | .int16 | .int8 => true
  | _ => false

/-- Formats that carry block scales (R98). -/
def Fmt.scalable (t : Fmt) : Bool := t.emax.isSome

/-- The format of a code; a reserved code stands as FP32 and never passes the checks. -/
def fmtOf (code : Nat) : Fmt := (Fmt.ofCode code).getD .fp32

/-- The operand tensors. -/
def MatDesc.tw (a : MatDesc) : Tensor := ⟨a.w, fmtOf a.fw, a.k, a.n, a.bsw⟩
def MatDesc.tx (a : MatDesc) : Tensor := ⟨a.x, fmtOf a.fx, a.m, a.k, a.bsx⟩
def MatDesc.ty (a : MatDesc) : Tensor := ⟨a.y, fmtOf a.fy, a.m, a.n, false⟩

/-- The contraction groups of R108. -/
def MatDesc.groups (a : MatDesc) : Nat := ceilDiv a.k 32

/-! ### The weight window (R327–R329) -/

/-- A half of a context's weight window in a cluster: its offset in the context's T1 space, and its bytes (R327). -/
def Furrow.windowHalf (c : Furrow) (h : Handle) (cl half : Nat) : Option (Nat × Nat) :=
  let us := c.unitsIn h cl
  let n := c.winSize[h].toNat
  if c.winEn[h] ∧ n + 1 ≤ us.length then
    (us.head?.bind fun u => (c.unitsOf h).idxOf? u).map fun k => ((k + half * (n / 2)) * mib, n / 2 * mib)
  else none

/-- A matrix descriptor's W lies in HBM (R328). -/
def streamsW (d : List Byte) : Bool := (opcodeOf d = 0x20 || opcodeOf d = 0x21) && (MatDesc.of d).w.tier = 2

/-- What a half holds of a descriptor's W: for each cluster of its SCOPE that has a window, the slice of W placed on it, as much as the
half holds. W is placed in equal slices, in the order of its bytes (DESIGN CHOICE, log 87: R128 leaves the placing to the furrow). -/
def Furrow.windowPlan (c : Furrow) (h : Handle) (tag : Tag) (half : Nat) (d : List Byte) : List WindowCopy :=
  let a := MatDesc.of d
  let n := a.tw.span a.batch
  let cls := if a.scope = 2 then List.range 8 else [a.cluster]
  let share := align64 (ceilDiv n cls.length)
  cls.zipIdx.filterMap fun p =>
    (c.windowHalf h p.1 half).bind fun w =>
      let len := min (min share w.2) (n - p.2 * share)
      if len = 0 then none else some ⟨h, tag, half, a.w.off + p.2 * share, w.1, len⟩

/-- The running descriptor's outputs are complete: the W of the next one, if both are of one kind with W in HBM, stands in the half that
the running one does not use, but for a slice that holds uncorrectable data (R328, log 87). What the running one used is done with. -/
def Run.prefetch (r : Run s₀) (e : Eng) (d : List Byte) (next : Option (List Byte)) : Run s₀ :=
  let c := r.fur e.f
  let mine := c.windows.filter fun (w : WindowCopy) => w.h = e.h && w.tag = e.tag
  let half := match mine with | w :: _ => 1 - w.half | [] => 0
  let new := match next with
    | some n =>
      if opcodeOf n = opcodeOf d ∧ streamsW d ∧ streamsW n then
        (c.windowPlan e.h e.tag half n).filter fun (w : WindowCopy) => (c.meets e.f e.h 0 2 w.src w.len).isNone
      else []
    | none => []
  let r := r.each new fun r w => r.store e.f e.h 0 1 w.dst (r.load e.f e.h 0 2 w.src w.len)
  r.modFur e.f fun c => { c with windows := (c.windows.filter fun (w : WindowCopy) => !(w.h = e.h && w.tag = e.tag)) ++ new }

/-- Memory as a descriptor reads its W: what its half holds stands in place of the same bytes in HBM (R328). -/
def Run.throughWindow (r : Run s₀) (e : Eng) (ws : List WindowCopy) : Run s₀ :=
  r.each ws fun v w => v.store e.f e.h 0 2 w.src (r.load e.f e.h 0 1 w.dst w.len)

/-- The extents of a W of n bytes that are read: the slices in a half there, and the rest in HBM; slices ascend. -/
def windowReads (ws : List WindowCopy) (off n : Nat) : List Extent :=
  let rest := ws.foldl (fun (p : List Extent × Nat) w =>
    (p.1 ++ [(2, p.2, w.src - p.2)], w.src + w.len)) ([], off)
  ws.map (fun w => ((1, w.dst, w.len) : Extent)) ++ (rest.1 ++ [(2, rest.2, off + n - rest.2)]).filter fun x => x.2.2 ≠ 0

/-- The reserved fields of a matrix descriptor, in byte order (R54). -/
def matReserved (d : List Byte) : Option Refuse :=
  firstFail [reservedBytes d 43 43, reservedBits d 49 7 7, reservedBits d 50 7 6, reservedBits d 56 7 3, reservedBytes d 57 57,
    (if opcodeOf d = 0x21 then none else reservedBytes d 58 61), reservedBytes d 62 63]

/-- A code names a format that passes a test. -/
def fmtOk (code : Nat) (p : Fmt → Bool) : Bool := match Fmt.ofCode code with | some t => p t | none => false

/-- The checks of R129, all at fetch. Chapter 05 gives them no order: reserved fields come first, then bytes 40–58 as they stand, and
the references at 16, 24 and 32 last (DESIGN CHOICE, log 77). -/
def fetchMatmul (c : Furrow) (h : Handle) (d : List Byte) : Option Refuse :=
  let a := MatDesc.of d
  let wn := a.tw.span a.batch
  let xn := a.tx.span a.batch
  let yn := a.ty.span a.batch
  firstFail [matReserved d, badIf (decide (a.m = 0)) 40, badIf (decide (a.n = 0)) 44,
    badIf (decide (a.k = 0) || ((a.bsx || a.bsw) && decide (a.k % 32 ≠ 0))) 46,
    badIf (!fmtOk a.fx Fmt.matrixOperand || !fmtOk a.fw Fmt.matrixOperand ||
      (fmtOf a.fx).isFloat != (fmtOf a.fw).isFloat) 48,
    badIf (!fmtOk a.fy Fmt.matrixOutput || (fmtOf a.fy == .int32 && (fmtOf a.fx).isFloat) ||
      (a.acc && fmtOf a.fy != (if (fmtOf a.fx).isFloat then .fp32 else .int32)) ||
      (a.bsx && !(fmtOf a.fx).scalable) || (a.bsw && !(fmtOf a.fw).scalable)) 49,
    badIf (decide (a.form = 3)) 50, c.scopeCheck h a.scope a.cluster 50 56,
    badIf (decide (a.split = 0) || decide (64 < a.split) || decide (a.groups < a.split)) 51,
    badIf (decide (a.batch = 0) || decide (65536 < a.batch)) 58,
    c.tensorCheck h a.w wn 16 a.scope, c.tensorCheck h a.x xn 24 a.scope, c.tensorCheck h a.y yn 32 a.scope,
    badIf (a.y.overlap yn a.w wn || a.y.overlap yn a.x xn) 32]

/-- Columns, indices per row and reload stall of an array, and arrays per core (Table 05-3). -/
def formShape (form : Nat) (four : Bool) : Nat × Nat × Nat × Nat :=
  let two := if four then 2 else 1
  match form with
  | 0 => (32, 32 * two, 32, 4)
  | 1 => (16, 16 * two, 16, 16)
  | _ => (1024, 4 * two, 4, 1)

/-- The estimate of R136 for a matrix descriptor. A mixed pair runs at its slower operand's rate (R112). The quotient by T is rounded up
to a whole cycle (DESIGN CHOICE, log 77: R136 gives no rounding). -/
def costMatmul (c : Furrow) (d : List Byte) : Cost :=
  let a := MatDesc.of d
  let wide := (fmtOf a.fx).bits = 16 ∨ (fmtOf a.fw).bits = 16
  let four := (fmtOf a.fx).bits = 4 ∧ (fmtOf a.fw).bits = 4
  let (nt, kt, stall, arrays) := formShape a.form (decide four)
  let rows := if wide then 1024 else 2048
  let cyc := if wide then 2 else 1
  let work := ceilDiv a.n nt * ceilDiv a.k kt * a.batch * (stall * ceilDiv a.m rows + a.m * cyc)
  .flat (cyclesNs (ceilDiv work (arrays * c.scopeSize a.scope a.cluster) + 9))

/-! ### Arithmetic -/

/-- The exact sum of the products of a group, times the group's scales, rounded to FP32 (R108). -/
def groupSum (products : List FVal) (scale : Option Int) : FVal :=
  match scale, products with
  | none, _ => .nan
  | _, [] => .zero
  | some k, p :: ps => rne32 ((ps.foldl FVal.add p).scale k)

/-- The exponent that two scale bytes give a group; none when one of them is NaN (R108). -/
def groupScale (sx sw : Nat) : Option Int := if sx = 0xFF ∨ sw = 0xFF then none else some ((sx : Int) + sw - 254)

/-- The FP32 result of one output cell (R108, R109, R128); W is read through `rw`. The scale bytes of W run group by group, byte
g × N + j for group g of column j: R98 says only 'in the same order as the blocks' (DESIGN CHOICE, log 77). -/
def Run.cellFloat (r rw : Run s₀) (e : Eng) (a : MatDesc) (tw tx ty : Tensor) (i j : Nat) : FVal :=
  let group := fun g =>
    let ks := (List.range (min 32 (a.k - 32 * g))).map (32 * g + ·)
    let sx := if a.bsx then r.scaleByte e tx (i * (a.k / 32) + g) else 127
    let sw := if a.bsw then rw.scaleByte e tw (g * a.n + j) else 127
    groupSum (ks.map fun k => (tx.fmt.value (r.code e tx i k)).mul (tw.fmt.value (rw.code e tw k j))) (groupScale sx sw)
  let first := if a.acc then f32 (r.code e ty i j) else .zero
  let part := fun p =>
    let lo := p * a.groups / a.split
    let hi := (p + 1) * a.groups / a.split
    ((List.range (hi - lo)).map (lo + ·)).foldl (fun acc g => add32 acc (group g)) (if p = 0 then first else .zero)
  match (List.range a.split).map part with
  | [] => .zero
  | x :: xs => xs.foldl add32 x

/-- The INT32 result of one output cell, modulo 2³² (R110). -/
def Run.cellInt (r rw : Run s₀) (e : Eng) (a : MatDesc) (tw tx ty : Tensor) (i j : Nat) : Nat :=
  let sum : Int := (List.range a.k).foldl (fun (acc : Int) k =>
    acc + signed tx.fmt.bits (r.code e tx i k) * signed tw.fmt.bits (rw.code e tw k j)) 0
  let start : Int := if a.acc then (r.code e ty i j : Int) else 0
  ((sum + start) % 2 ^ 32).toNat

/-- The rounding that a descriptor's RND and SEED ask for at a logical index (R101, R124). -/
def roundingOf (rnd : Bool) (seed idx : Nat) : Rounding := if rnd then .random (rndBits seed idx) else .nearest

/-- The code of one output cell, and whether a NaN became something else. -/
def Run.cell (r rw : Run s₀) (e : Eng) (a : MatDesc) (b : Nat) (tw tx ty : Tensor) (i j : Nat) : Nat × Bool :=
  let how := roundingOf a.rnd a.seed (b * a.m * a.n + i * a.n + j)
  if tx.fmt.isFloat then
    let v := r.cellFloat rw e a tw tx ty i j
    if ty.fmt = .fp32 then (v.bits32, false) else ty.fmt.convert a.sat how v
  else
    let v := r.cellInt rw e a tw tx ty i j
    if ty.fmt = .int32 then (v, false) else ty.fmt.convert a.sat how (.ofInt (signed 32 v))

/-- One product: its rows stored, with the NaN inputs counted; W is read through the window's copies. -/
def Run.product (r : Run s₀) (e : Eng) (a : MatDesc) (ws : List WindowCopy) (b : Nat) : Run s₀ × Nat :=
  let tw := a.tw.nth b
  let tx := a.tx.nth b
  let ty := a.ty.nth b
  let rw := r.throughWindow e ws
  let rows := (List.range a.m).map fun i => (List.range a.n).map fun j => r.cell rw e a b tw tx ty i j
  (rows.zipIdx.foldl (fun (p : Run s₀ × Nat) row =>
    (p.1.putRow e ty row.2 (row.1.map (·.1)), p.2 + (row.1.filter (·.2)).length)) (r, 0))

/-- Compute Y = X · W for a matrix descriptor (R127, R133); `next` is the descriptor that follows it in its run (R328). -/
def Run.matmul (r : Run s₀) (e : Eng) (d : List Byte) (next : Option (List Byte)) : Run s₀ × Ending :=
  let a := MatDesc.of d
  let ws := (r.fur e.f).windows.filter fun (w : WindowCopy) => w.h = e.h && w.tag = e.tag
  let reads := if ws.isEmpty then a.tw.extents a.batch else windowReads ws a.w.off (a.tw.span a.batch)
  r.reading e (reads ++ a.tx.extents a.batch ++ if a.acc then a.ty.extents a.batch else []) (a.ty.extents a.batch) fun r =>
    let p := (List.range a.batch).foldl (fun (p : Run s₀ × Nat) b =>
      let q := p.1.product e a ws b
      (q.1, p.2 + q.2)) (r, 0)
    (p.1.prefetch e d next, Ending.ok (satCount p.2) (df d 32 8))

/-- MATMUL (R127). -/
def execMatmul (f : FurrowIx) (h : Handle) (tag : Tag) (s : State) : Host.Outcome State Fault Refusal :=
  runDesc 0x20 f h tag s fun q r => r.matmul (q.eng f) q.desc q.following

/-- MATMUL_BATCH (R127): BATCH products of one shape. -/
def execMatmulBatch (f : FurrowIx) (h : Handle) (tag : Tag) (s : State) : Host.Outcome State Fault Refusal :=
  runDesc 0x21 f h tag s fun q r => r.matmul (q.eng f) q.desc q.following

end Sys2Proof.Machine
end

