-- ==== Sys2Proof/Machine/Vector.lean ====
section
/-! DEFINITION. The vector engine (chapter 05): VEC_MAP, VEC_NORM, VEC_SOFTMAX, VEC_CONVERT, SIGN_PROJECT and VEC_REDUCE, with
their checks (R130–R132, R473), arithmetic (R113, R120–R123) and cost (R136). -/

namespace Sys2Proof.Machine

variable {s₀ : State}

/-- The fields of a vector descriptor (Table 05-10). -/
structure VecDesc where
  opc : Nat
  a : TRef
  b : TRef
  y : TRef
  rows : Nat
  cols : Nat
  fa : Nat
  fb : Nat
  fy : Nat
  sat : Bool
  rnd : Bool
  bsy : Bool
  bsa : Bool
  op : Nat
  scope : Nat
  cluster : Nat
  seed : Nat
  p0 : Nat
  p1 : Nat

/-- The fields that a descriptor's bytes hold. -/
def VecDesc.of (d : List Byte) : VecDesc :=
  let b49 := df d 49 1
  { opc := (opcodeOf d).toNat, a := tref d 16, b := tref d 24, y := tref d 32, rows := bitsOf (df d 40 4) 23 0,
    cols := bitsOf (df d 44 4) 23 0, fa := bitsOf (df d 48 1) 3 0, fb := bitsOf (df d 48 1) 7 4, fy := bitsOf b49 3 0,
    sat := b49.testBit 7, rnd := b49.testBit 6, bsy := b49.testBit 5, bsa := b49.testBit 4, op := df d 50 1,
    scope := bitsOf (df d 51 1) 4 3, cluster := bitsOf (df d 51 1) 2 0, seed := df d 52 4, p0 := df d 56 4, p1 := df d 60 4 }

/-- The operation of a VEC_MAP: OP [6:0]. -/
def VecDesc.fn (a : VecDesc) : Nat := a.op % 128

/-- OP values that Table 05-11 defines. -/
def VecDesc.opOk (a : VecDesc) : Bool :=
  match a.opc with
  | 0x22 => decide (a.fn ≤ 5) || (decide (0x10 ≤ a.fn) && decide (a.fn ≤ 0x19))
  | 0x23 => decide (a.op ≤ 1)
  | 0x24 => decide (a.op ≤ 3)
  | 0x25 => decide (a.op = 0)
  | 0x26 => decide (a.op ≤ 1)
  | _ => decide (a.op ≤ 3)

/-- The operation reads B (Table 05-11). -/
def VecDesc.usesB (a : VecDesc) : Bool :=
  match a.opc with
  | 0x22 => decide (a.fn ≤ 4) || a.fn = 0x19
  | 0x23 => true
  | 0x24 => a.op.testBit 0
  | 0x26 => a.op.testBit 0
  | _ => false

/-- The operand A. -/
def VecDesc.ta (a : VecDesc) : Tensor := ⟨a.a, fmtOf a.fa, a.rows, a.cols, a.bsa⟩

/-- The result Y: one element per row for a reduction. -/
def VecDesc.ty (a : VecDesc) : Tensor := ⟨a.y, fmtOf a.fy, a.rows, if a.opc = 0x27 then 1 else a.cols, a.bsy⟩

/-- One row of B on its own (R126): the n-th of its fixed rows. -/
def VecDesc.rowB (a : VecDesc) (n : Nat) : Tensor :=
  let one := (fmtOf a.fb).rowBytes a.cols
  ⟨⟨a.b.tier, 0, a.b.off + n * align64 one⟩, fmtOf a.fb, 1, a.cols, false⟩

/-- B as the tensors it is made of: a second operand or mask, one row, or gamma and beta. -/
def VecDesc.tbs (a : VecDesc) : List Tensor :=
  if !a.usesB then []
  else match a.opc with
    | 0x22 => if a.op.testBit 7 then [a.rowB 0] else [⟨a.b, fmtOf a.fb, a.rows, a.cols, false⟩]
    | 0x23 => if a.op = 1 then [a.rowB 0, a.rowB 1] else [a.rowB 0]
    | 0x24 => [⟨a.b, fmtOf a.fb, a.rows, a.cols, false⟩]
    | _ => [a.rowB 0]

/-- Formats that vector loads and stores take (Table 04-5). -/
def Fmt.vectorIn (t : Fmt) : Bool := t != .int32

/-- Formats a vector result may have: no conversion produces E8M0 (R105). -/
def Fmt.vectorOut (t : Fmt) : Bool := t != .int32 && t != .e8m0

/-- Bytes of B from its first to its last. -/
def VecDesc.spanB (a : VecDesc) : Nat :=
  match a.tbs with
  | [] => 0
  | [t] => t.bytes
  | t :: _ => align64 t.bytes + t.bytes

/-- The reserved fields of a vector descriptor (R54, R473). -/
def vecReserved (d : List Byte) : Option Refuse :=
  let a := VecDesc.of d
  firstFail [if a.opOk && !a.usesB then reservedBytes d 24 31 else none, reservedBytes d 43 43, reservedBytes d 47 47,
    if a.opOk && !a.usesB then reservedBits d 48 7 4 else none, reservedBits d 51 7 5,
    (match a.opc with
     | 0x22 => none
     | 0x24 => none
     | 0x23 => reservedBytes d 60 63
     | _ => reservedBytes d 56 63)]

/-- The checks of the vector family (R129, R131, R132, R473), all at fetch, in the order of `fetchMatmul` (DESIGN CHOICE, log 77). The
in-place permission of R132 covers Y and A only: with B the same reference too, Y overlaps B (DESIGN CHOICE, log 77). -/
def fetchVector (c : Furrow) (h : Handle) (d : List Byte) : Option Refuse :=
  let a := VecDesc.of d
  let norm := a.opc = 0x23 ∨ a.opc = 0x24
  let inPlace := (a.opc = 0x22 ∨ a.opc = 0x25) ∧ a.y = a.a
  let notB1 := fun (t : Fmt) => t.vectorIn && t != .b1
  firstFail [vecReserved d, badIf (!a.opOk) 50, badIf (decide (a.rows = 0)) 40,
    badIf (decide (a.cols = 0) || ((a.bsa || a.bsy) && decide (a.cols % 32 ≠ 0)) ||
      (decide (a.opc = 0x26) && !(decide (a.cols = 256) || a.cols = 512 || a.cols = 1024 || a.cols = 2048))) 44,
    badIf (!fmtOk a.fa (if a.opc = 0x25 then Fmt.vectorIn else notB1) ||
      (decide norm && !fmtOk a.fa fun t => t == .fp32 || t == .fp16 || t == .bf16) ||
      (a.usesB && !fmtOk a.fb (if a.opc = 0x24 then (· == .fp32) else notB1))) 48,
    badIf (!fmtOk a.fy (if a.opc = 0x25 then Fmt.vectorOut else if a.opc = 0x26 then (· == .b1) else
        if a.opc = 0x27 then (· == .fp32) else fun t => t.vectorOut && t != .b1) ||
      (a.bsa && !(fmtOf a.fa).scalable) || (a.bsy && (!(fmtOf a.fy).scalable || decide (a.opc = 0x27)))) 49,
    c.scopeCheck h a.scope a.cluster 51 51,
    c.tensorCheck h a.a a.ta.bytes 16 a.scope,
    (if a.usesB then c.tensorCheck h a.b a.spanB 24 a.scope else none),
    c.tensorCheck h a.y a.ty.bytes 32 a.scope,
    badIf ((!decide inPlace && a.y.overlap a.ty.bytes a.a a.ta.bytes) ||
      (a.usesB && a.y.overlap a.ty.bytes a.b a.spanB)) 32]

/-- Every input and the output are in one 16-bit format and none is block-scaled, so that the operation computes in it
(R113). A × PARAM0 + PARAM1 reads FP32 parameters (log 31). -/
def VecDesc.narrow (a : VecDesc) : Option Fmt :=
  let t := fmtOf a.fa
  if (t == .fp16 || t == .bf16 || t == .int16) && a.fy = a.fa && (!a.usesB || a.fb = a.fa) && !a.bsa && !a.bsy &&
      a.fn != 5 then some t else none

/-- Results per cycle and passes (Tables 05-5, 05-11). -/
def VecDesc.lanes (a : VecDesc) : Nat × Nat :=
  match a.opc with
  | 0x22 => if 0x10 ≤ a.fn then (16, 4) else (if a.narrow.isSome then 128 else 64, 1)
  | 0x23 => (64, if a.op = 1 then 3 else 2)
  | 0x24 => (64, 3)
  | 0x25 => (if (fmtOf a.fa).bits ≤ 16 ∨ (fmtOf a.fy).bits ≤ 16 then 128 else 64, 1)
  | 0x26 => (128, 1)
  | _ => (64, 1)

/-- The estimate of R136 for a vector descriptor; the quotient by C is rounded up to a whole cycle (DESIGN CHOICE, log 77). -/
def costVector (c : Furrow) (d : List Byte) : Cost :=
  let a := VecDesc.of d
  let (l, p) := a.lanes
  .flat (cyclesNs (ceilDiv (a.rows * ceilDiv a.cols l * p) (c.scopeSize a.scope a.cluster) + 9))

/-! ### Element operations -/

/-- An input as FP32 (R113); a block scale can take a value out of FP32's range, and it is then rounded. -/
def Run.in32 (r : Run s₀) (e : Eng) (t : Tensor) (i j : Nat) : FVal := rne32 (r.value e t i j)

/-- The exact result of A × PARAM0 + PARAM1. -/
def mulAdd (a p q : FVal) : FVal := (a.mul p).add q

/-- A two-operand function of VEC_MAP, exactly, before rounding; division is rounded to the format at once. Max and min give NaN for a NaN
operand and put −0 below +0, where R113 says only IEEE 754 (DESIGN CHOICE, log 77). -/
def mapTwo (fn : Nat) (t : Fmt) (a b : FVal) : FVal :=
  match fn with
  | 0 => a.add b
  | 1 => a.sub b
  | 2 => a.mul b
  | 3 => a.max b
  | 4 => a.min b
  | _ => t.div a b

/-- A one-operand function of VEC_MAP: the special functions are computed in FP32, and root and reciprocal in the format. -/
def mapOne (fn : Nat) (t : Fmt) (a : FVal) : FVal :=
  match fn with
  | 0x10 => special .exp a
  | 0x11 => special .log a
  | 0x12 => special .rsqrt a
  | 0x13 => t.div (.ofNat 1) a
  | 0x14 => t.sqrt a
  | 0x15 => special .tanh a
  | 0x16 => special .sigmoid a
  | 0x17 => special .gelu a
  | _ => special .silu a

/-- A function of VEC_MAP in a floating-point format: computed and rounded once. -/
def VecDesc.map (a : VecDesc) (t : Fmt) (x y : FVal) : FVal :=
  if a.fn = 5 then t.rne (mulAdd x (f32 a.p0) (f32 a.p1))
  else if a.usesB then t.rne (mapTwo a.fn t x y) else t.rne (mapOne a.fn t x)

/-- The code of one element of a VEC_MAP, and whether a NaN became something else (R113). -/
def VecDesc.mapCode (a : VecDesc) (x y : FVal) (how : Rounding) : FVal ⊕ (Nat × Bool) :=
  match a.narrow with
  | some .fp16 => .inr (Fmt.fp16.convert false .nearest (a.map .fp16 x y))
  | some .bf16 => .inr (Fmt.bf16.convert false .nearest (a.map .fp32 x y))
  | some .int16 =>
    if a.fn ≤ 4 then .inr (Fmt.int16.convert true .nearest (mapTwo a.fn .fp32 x y))
    else .inr (Fmt.int16.convert a.sat how (a.map .fp32 x y))
  | _ => .inl (a.map .fp32 x y)

/-- The row of softmax (R122). -/
def softmaxRow (z : List FVal) : List FVal :=
  let mx := maxReduce z
  if mx.isNan then z.map fun _ => .nan
  else if mx = .inf true then z.map fun _ => .zero
  else
    let es := z.map fun x => special .exp (sub32 x mx)
    let t := sumReduce es
    es.map fun x => div32 x t

/-- RMS normalisation of a row (R123). -/
def rmsRow (a g : List FVal) (eps : FVal) : List FVal :=
  let q := div32 (sumReduce (a.map fun x => mul32 x x)) (.ofNat a.length)
  let r := special .rsqrt (add32 q eps)
  List.zipWith (fun x y => mul32 (mul32 x r) y) a g

/-- Layer normalisation of a row (R123). -/
def layerRow (a g b : List FVal) (eps : FVal) : List FVal :=
  let mu := div32 (sumReduce a) (.ofNat a.length)
  let ds := a.map fun x => sub32 x mu
  let q := div32 (sumReduce (ds.map fun x => mul32 x x)) (.ofNat a.length)
  let r := special .rsqrt (add32 q eps)
  List.zipWith (fun x y => add32 x y) (List.zipWith (fun x y => mul32 (mul32 x r) y) ds g) b

/-- Split a list into blocks of 32. -/
def blocks32 {α : Type} : Nat → List α → List (List α)
  | 0, _ => []
  | k + 1, xs => xs.take 32 :: blocks32 k (xs.drop 32)

/-- The codes of a row of FP32 results: converted to FMT_Y, or quantised in blocks with their scales (R104, R100); and the
NaN inputs counted. -/
def VecDesc.finishRow (a : VecDesc) (i : Nat) (v : List FVal) : List Nat × List Nat × Nat :=
  let t := fmtOf a.fy
  let how := fun j => roundingOf a.rnd a.seed (i * a.cols + j)
  if a.bsy then
    let qs := (blocks32 (a.cols / 32) v).zipIdx.map fun p => t.quantise (fun n => how (32 * p.2 + n)) p.1
    (qs.flatMap (·.2.1), qs.map (·.1), sumOf (qs.map (·.2.2)))
  else
    let cs := v.zipIdx.map fun p => t.convert a.sat (how p.2) p.1
    (cs.map (·.1), [], (cs.filter (·.2)).length)

/-- The values of a row of A and of a row of B. -/
def Run.rowOf (r : Run s₀) (e : Eng) (t : Tensor) (i : Nat) : List FVal := (List.range t.cols).map fun j => r.in32 e t i j

/-- One result row: codes, scales, NaN inputs counted. -/
def Run.vecRow (r : Run s₀) (e : Eng) (a : VecDesc) (i : Nat) : List Nat × List Nat × Nat :=
  let xs := r.rowOf e a.ta i
  let row := fun (n : Nat) (k : Nat) => match a.tbs[n]? with | some t => r.rowOf e t (if t.rows = 1 then 0 else k) | none => []
  match a.opc with
  | 0x22 =>
    let ys := if a.usesB then row 0 i else xs.map fun _ => .zero
    let zs := (List.zip xs ys).zipIdx.map fun p => a.mapCode p.1.1 p.1.2 (roundingOf a.rnd a.seed (i * a.cols + p.2))
    if a.narrow.isSome then
      let cs := zs.map fun z => match z with | .inr c => c | .inl _ => (0, false)
      (cs.map (·.1), [], (cs.filter (·.2)).length)
    else a.finishRow i (zs.map fun z => match z with | .inl v => v | .inr _ => .zero)
  | 0x23 =>
    if a.op = 0 then a.finishRow i (rmsRow xs (row 0 0) (f32 a.p0))
    else a.finishRow i (layerRow xs (row 0 0) (row 1 0) (f32 a.p0))
  | 0x24 =>
    let zs := xs.map fun x => mul32 x (f32 a.p0)
    let zs := if a.op.testBit 0 then List.zipWith (fun x y => add32 x y) zs (row 0 i) else zs
    let zs := if a.op.testBit 1 then zs.zipIdx.map fun p => if i + a.p1 < p.2 then FVal.negInf else p.1 else zs
    a.finishRow i (softmaxRow zs)
  | 0x26 =>
    let zs := if a.op.testBit 0 then List.zipWith (fun x y => sub32 x y) xs (row 0 0) else xs
    a.finishRow i zs
  | 0x27 =>
    let v := match a.op with
      | 0 => sumReduce xs
      | 1 => maxReduce xs
      | 2 => minReduce xs
      | _ => sumReduce (xs.map fun x => mul32 x x)
    ([v.bits32], [], 0)
  | _ => a.finishRow i xs

/-- Do a vector descriptor (R130, R133): Y stored row by row, with its scales. -/
def Run.vector (r : Run s₀) (e : Eng) (d : List Byte) : Run s₀ × Ending :=
  let a := VecDesc.of d
  r.reading e (a.ta.extents 1 ++ a.tbs.flatMap fun t => t.extents 1) (a.ty.extents 1) fun r =>
    let rows := (List.range a.rows).map fun i => r.vecRow e a i
    let p := rows.zipIdx.foldl (fun (p : Run s₀ × Nat) row =>
      let q := p.1.putRow e a.ty row.2 row.1.1
      (if row.1.2.1.isEmpty then q else q.putScales e a.ty row.2 row.1.2.1, p.2 + row.1.2.2)) (r, 0)
    (p.1, Ending.ok (satCount p.2) (df d 32 8))

/-- VEC_MAP (R130, R113). -/
def execVecMap (f : FurrowIx) (h : Handle) (tag : Tag) (s : State) : Host.Outcome State Fault Refusal :=
  runDesc 0x22 f h tag s fun q r => r.vector (q.eng f) q.desc

/-- VEC_NORM (R123). -/
def execVecNorm (f : FurrowIx) (h : Handle) (tag : Tag) (s : State) : Host.Outcome State Fault Refusal :=
  runDesc 0x23 f h tag s fun q r => r.vector (q.eng f) q.desc

/-- VEC_SOFTMAX (R122). -/
def execVecSoftmax (f : FurrowIx) (h : Handle) (tag : Tag) (s : State) : Host.Outcome State Fault Refusal :=
  runDesc 0x24 f h tag s fun q r => r.vector (q.eng f) q.desc

/-- VEC_CONVERT (R104). -/
def execVecConvert (f : FurrowIx) (h : Handle) (tag : Tag) (s : State) : Host.Outcome State Fault Refusal :=
  runDesc 0x25 f h tag s fun q r => r.vector (q.eng f) q.desc

/-- SIGN_PROJECT (R131, R105). -/
def execSignProject (f : FurrowIx) (h : Handle) (tag : Tag) (s : State) : Host.Outcome State Fault Refusal :=
  runDesc 0x26 f h tag s fun q r => r.vector (q.eng f) q.desc

/-- VEC_REDUCE (R121). -/
def execVecReduce (f : FurrowIx) (h : Handle) (tag : Tag) (s : State) : Host.Outcome State Fault Refusal :=
  runDesc 0x27 f h tag s fun q r => r.vector (q.eng f) q.desc

end Sys2Proof.Machine
end

