-- ==== Sys2Proof/Machine/Search.lean ====
section
/-! DEFINITION. Search (chapters 06 and 07): the structures of a shard, the walk, the side-list scan, filters and shard lists,
SEARCH and HAMMING_SCAN, and the slots' way into and out of service. -/

namespace Sys2Proof.Machine

variable {s₀ : State}

/-! ### The shape of a shard (Tables 06-1 to 06-5) -/

/-- The degree of a slot. -/
def SearchSlot.deg (t : SearchSlot) : Nat := 16 <<< min t.degree.toNat 2

/-- C: bytes of a code. -/
def SearchSlot.codeBytes (t : SearchSlot) : Nat := 32 <<< t.codeLen.toNat

/-- S: bytes of a node record (R139). -/
def SearchSlot.recBytes (t : SearchSlot) : Nat := align64 (t.codeBytes + 4 * t.deg)

/-- a: attribute bits per neighbour entry. -/
def SearchSlot.attrBits (t : SearchSlot) : Nat := match t.degree.toNat with | 0 => 6 | 1 => 3 | _ => 2

/-- w: bits of an index field. -/
def SearchSlot.indexBits (t : SearchSlot) : Nat := 32 - t.attrBits

/-- An index field of all ones. -/
def SearchSlot.ones (t : SearchSlot) : Nat := 2 ^ t.indexBits - 1

/-- E: bytes of a side-list entry (R148). -/
def SearchSlot.sideBytes (t : SearchSlot) : Nat := 64 + align64 t.codeBytes

/-- Entries that the side list holds. -/
def SearchSlot.sideCap (t : SearchSlot) : Nat := 2 ^ t.sideLog.toNat

/-- A base field as a byte offset (Table 06-9). -/
def baseOf (b : BitVec 36) : Nat := b.toNat * 4096

/-- The address of node i's record. -/
def SearchSlot.nodeAt (t : SearchSlot) (i : Nat) : Nat := baseOf t.nodeBase + i * t.recBytes

/-- The address of the side-list entry of a free-running count. -/
def SearchSlot.sideAt (t : SearchSlot) (n : Nat) : Nat := baseOf t.sideBase + n % t.sideCap * t.sideBytes

/-- The address of the delete-log entry of a free-running count. -/
def SearchSlot.dlogAt (t : SearchSlot) (n : Nat) : Nat := baseOf t.dlogBase + n % 65536 * 16

/-- Bytes of the tombstone bitmap (R149). -/
def SearchSlot.tombBytes (t : SearchSlot) : Nat := ceilDiv (ceilDiv t.nodeCap.toNat 8) 4096 * 4096

/-- The structures of a slot, as offset and length; the entry table's reaches over the switch record (R188). -/
def SearchSlot.structs (t : SearchSlot) : List (Nat × Nat) :=
  [(baseOf t.nodeBase, t.nodeCap.toNat * t.recBytes), (baseOf t.entryBase, 320), (baseOf t.tombBase, t.tombBytes),
   (baseOf t.sideBase, t.sideCap * t.sideBytes), (baseOf t.dlogBase, mib)]

/-- The owner of a slot as a handle. -/
def SearchSlot.ownerIx (t : SearchSlot) : Option Handle := if h : t.owner.toNat < 64 then some ⟨t.owner.toNat, h⟩ else none

/-- The owner of a slot in service. -/
def SearchSlot.handle (t : SearchSlot) : Handle := t.ownerIx.getD 0

/-- The free-running counts from head up to tail. -/
def countsFrom (head tail : W32) : List Nat := (List.range (tail - head).toNat).map fun i => (head + BitVec.ofNat 32 i).toNat

/-- Bytes of a shard's structures, confined to the owner's HBM region (R157): what an address beyond it gives is a free value (log 83). -/
def Run.shard (r : Run s₀) (f : FurrowIx) (t : SearchSlot) (off n : Nat) : List Byte :=
  let c := r.fur f
  if c.hbmInside t.handle off n then r.load f t.handle 0 2 off n
  else (List.range n).flatMap fun i =>
    if c.hbmInside t.handle (off + i) 1 then r.load f t.handle 0 2 (off + i) 1 else [Config.beyondRegion (off + i)]

/-- A little-endian field of a shard's structures. -/
def Run.shardNat (r : Run s₀) (f : FurrowIx) (t : SearchSlot) (off n : Nat) : Nat := leNat (r.shard f t off n)

/-- A piece of a shard's structures holds uncorrectable data. -/
def Run.shardBad (r : Run s₀) (f : FurrowIx) (t : SearchSlot) (off n : Nat) : Option (Space × Nat × Nat) :=
  let c := r.fur f
  if c.hbmInside t.handle off n then c.meets f t.handle 0 2 off n
  else ((List.range n).filter fun i => c.hbmInside t.handle (off + i) 1).findSome? fun i => c.meets f t.handle 0 2 (off + i) 1

/-- Store bytes into a shard's structures; nothing is written beyond the owner's region (R157). -/
def Run.putShard (r : Run s₀) (f : FurrowIx) (t : SearchSlot) (off : Nat) (bs : List Byte) : Run s₀ :=
  let c := r.fur f
  if c.hbmInside t.handle off bs.length then r.store f t.handle 0 2 off bs
  else r.each bs.zipIdx fun r x => if c.hbmInside t.handle (off + x.2) 1 then r.store f t.handle 0 2 (off + x.2) [x.1] else r

/-- Entry j of a record's neighbour list, as a word (Table 06-3). -/
def SearchSlot.edge (t : SearchSlot) (rec_ : List Byte) (j : Nat) : Nat := fieldAt rec_ (t.codeBytes + 4 * j) 4

/-- The attribute string of a record: facet word and date key (R140). -/
def SearchSlot.attr (t : SearchSlot) (rec_ : List Byte) : Nat :=
  (List.range (96 / t.attrBits)).foldl (fun acc j => acc ||| ((t.edge rec_ j >>> t.indexBits) <<< (t.attrBits * j))) 0

/-- The neighbour indexes of a record, in order. -/
def SearchSlot.edges (t : SearchSlot) (rec_ : List Byte) : List Nat :=
  (List.range t.deg).map fun j => t.edge rec_ j % 2 ^ t.indexBits

/-- The date key of a reclaimed record (R142). -/
def reclaimedDate : Nat := 0xFFFFFFFF

/-- The number of bit positions in which two codes differ (R137). -/
def hamming (bits a b : Nat) : Nat := ((List.range bits).filter (a ^^^ b).testBit).length

/-! ### What a search may return (R160) -/

/-- The tombstone bit of a node (R149). -/
def Run.tombed (r : Run s₀) (f : FurrowIx) (t : SearchSlot) (n : Nat) : Bool :=
  (r.shardNat f t (baseOf t.tombBase + n / 8) 1).testBit (n % 8)

/-- The delete-log entries between HEAD and TAIL that name a node: counts and epochs. -/
def Run.deletesOf (r : Run s₀) (f : FurrowIx) (t : SearchSlot) (n : Nat) : List (Nat × Nat) :=
  ((countsFrom t.dlogHead t.dlogTail).filter fun k => r.shardNat f t (t.dlogAt k + 8) 4 = n).map fun k =>
    (k, r.shardNat f t (t.dlogAt k) 8)

/-- The least of a list. -/
def leastOf : List Nat → Option Nat
  | [] => none
  | x :: xs => some (xs.foldl min x)

/-- Whether a node is returnable under a snapshot, or the piece whose data cannot be read (R160, R175). -/
def Run.returnable (r : Run s₀) (f : FurrowIx) (t : SearchSlot) (snap n : Nat) : Except (Space × Nat × Nat) Bool :=
  match r.shardBad f t (baseOf t.tombBase + n / 8) 1 with
  | some p => .error p
  | none =>
    if !r.tombed f t n then .ok true
    else
      let ds := r.deletesOf f t n
      match ds.findSome? fun d => r.shardBad f t (t.dlogAt d.1) 16 with
      | some p => .error p
      | none => .ok (match leastOf (ds.map (·.2)) with | some ep => decide (snap < ep) | none => false)

/-! ### The walk (R158) -/

/-- A beam entry. -/
structure BeamEntry where
  node : Nat
  dist : Nat
  seq  : Nat
  expanded : Bool

/-- A scored passage: a graph candidate or a side-list entry. -/
structure Scored where
  node  : Nat
  dist  : Nat
  facet : Nat
  date  : Nat
  side  : Bool

/-- How a walk ends; a read may meet uncorrectable data. -/
inductive WalkEnd
  | converged
  | limit
  | full
  | bad (p : Space × Nat × Nat)

/-- What a walk is given. -/
structure WalkArgs where
  f     : FurrowIx
  slot  : SearchSlot
  query : Nat
  count : Nat
  snap  : Nat
  beam  : Nat
  limit : Nat
  cap   : Nat

/-- A walk as it stands. -/
structure Walk where
  visited  : Nat
  beam     : List BeamEntry
  cand     : List Scored
  seq      : Nat
  exps     : Nat
  badEdges : Nat
  stop     : Option WalkEnd

/-- The beginning of a walk. -/
def Walk.initial : Walk := ⟨0, [], [], 0, 0, 0, none⟩

/-- The three bits of a node in the visited filter. -/
def filterBits (n : Nat) : List Nat := [0x9e3779b9, 0x85ebca6b, 0xc2b2ae35].map fun k => n * k % 2 ^ 32 / 2 ^ 14

/-- (dist, seq) order. -/
def BeamEntry.before (a b : BeamEntry) : Bool := decide (a.dist < b.dist) || (decide (a.dist = b.dist) && decide (a.seq < b.seq))

/-- The unexpanded entry with least (dist, seq). -/
def nextEntry : List BeamEntry → Option BeamEntry
  | [] => none
  | x :: xs =>
    match nextEntry xs with
    | none => if x.expanded then none else some x
    | some y => if x.expanded then some y else if x.before y then some x else some y

/-- The entry with greatest (dist, seq). -/
def worstEntry : List BeamEntry → Option BeamEntry
  | [] => none
  | x :: xs => match worstEntry xs with | none => some x | some y => if y.before x then some x else some y

/-- A scored node enters a beam of width b if there is room or it is nearer than the farthest entry. -/
def enterBeam (beam : List BeamEntry) (b : Nat) (x : BeamEntry) : List BeamEntry :=
  if beam.length < b then beam ++ [x]
  else match worstEntry beam with
    | some y => if x.dist < y.dist then (beam.filter fun z => z.seq ≠ y.seq) ++ [x] else beam
    | none => beam

/-- visit(n) of R158. -/
def Run.visit (r : Run s₀) (v : WalkArgs) (w : Walk) (n : Nat) : Walk :=
  if w.stop.isSome || (filterBits n).all w.visited.testBit then w
  else
    let t := v.slot
    let w := { w with visited := (filterBits n).foldl (fun m i => m ||| 1 <<< i) w.visited }
    match r.shardBad v.f t (t.nodeAt n) t.recBytes with
    | some p => { w with stop := some (.bad p) }
    | none =>
      let rec_ := r.shard v.f t (t.nodeAt n) t.recBytes
      let attr := t.attr rec_
      if attr >>> 64 = reclaimedDate then w
      else
        let d := hamming (8 * t.codeBytes) (fieldAt rec_ 0 t.codeBytes) v.query
        let w := { w with seq := w.seq + 1, beam := enterBeam w.beam v.beam ⟨n, d, w.seq + 1, false⟩ }
        match r.returnable v.f t v.snap n with
        | .error p => { w with stop := some (.bad p) }
        | .ok false => w
        | .ok true =>
          if w.cand.length = v.cap then { w with stop := some .full }
          else { w with cand := w.cand ++ [⟨n, d, attr % 2 ^ 64, attr >>> 64, false⟩] }

/-- One expansion: the neighbours of a beam entry in order (R141). -/
def Run.expand (r : Run s₀) (v : WalkArgs) (w : Walk) (u : BeamEntry) : Walk :=
  let t := v.slot
  let w := { w with exps := w.exps + 1, beam := w.beam.map fun x => if x.seq = u.seq then { x with expanded := true } else x }
  (t.edges (r.shard v.f t (t.nodeAt u.node) t.recBytes)).foldl (fun w n =>
    if w.stop.isSome || n = t.ones then w
    else if t.nodeCap.toNat ≤ n then { w with badEdges := w.badEdges + 1 }
    else if v.count ≤ n then w
    else r.visit v w n) w

/-- Expansions until the walk stops; the fuel is one more than its limit allows. -/
def Run.walkLoop (r : Run s₀) (v : WalkArgs) : Nat → Walk → Walk
  | 0, w => w
  | k + 1, w =>
    if w.stop.isSome then w
    else match nextEntry w.beam with
      | none => { w with stop := some .converged }
      | some u =>
        if w.exps = v.limit then { w with stop := some .limit } else r.walkLoop v k (r.expand v w u)

/-- The index fields of a slot's entry table (R147). -/
def Run.entries (r : Run s₀) (f : FurrowIx) (t : SearchSlot) : List Nat :=
  (List.range 64).map fun i => r.shardNat f t (baseOf t.entryBase + 4 * i) 4 % 2 ^ t.indexBits

/-- The entry points that a walk starts from. -/
def Run.starts (r : Run s₀) (v : WalkArgs) : List Nat :=
  (r.entries v.f v.slot).filter fun e => decide (e ≠ v.slot.ones) && decide (e < v.count)

/-- A walk (R158). -/
def Run.walk (r : Run s₀) (v : WalkArgs) : Walk :=
  match r.shardBad v.f v.slot (baseOf v.slot.entryBase) 256 with
  | some p => { Walk.initial with stop := some (.bad p) }
  | none => r.walkLoop v (v.limit + 1) ((r.starts v).foldl (fun w e => r.visit v w e) .initial)

/-- The uncorrectable data a walk met. -/
def Walk.bad (w : Walk) : Option (Space × Nat × Nat) := match w.stop with | some (.bad p) => some p | _ => none

/-! ### The side-list scan (R165) -/

/-- The visible side entries of a held view, ascending by count, or the piece that cannot be read. -/
def Run.scanSide (r : Run s₀) (f : FurrowIx) (t : SearchSlot) (query snap : Nat) (head tail : W32) :
    Except (Space × Nat × Nat) (List Scored) :=
  (countsFrom head tail).foldl (fun acc n =>
    match acc with
    | .error p => .error p
    | .ok xs =>
      match r.shardBad f t (t.sideAt n) t.sideBytes with
      | some p => .error p
      | none =>
        let x := r.shard f t (t.sideAt n) t.sideBytes
        if snap < fieldAt x 0 8 then .ok xs
        else match r.returnable f t snap (fieldAt x 8 4) with
          | .error p => .error p
          | .ok false => .ok xs
          | .ok true => .ok (xs ++ [⟨fieldAt x 8 4, hamming (8 * t.codeBytes) (fieldAt x 64 t.codeBytes) query, fieldAt x 16 8,
              fieldAt x 12 4, true⟩])) (.ok [])

/-! ### Filters and shard lists (R166–R170) -/

/-- A predicate block passes a candidate (R166, Table 07-3). -/
def predPasses (p : List Byte) (x : Scored) : Bool :=
  decide (x.facet &&& fieldAt p 0 8 = fieldAt p 8 8) &&
    (decide (fieldAt p 16 8 = 0) || decide (x.facet &&& fieldAt p 16 8 ≠ 0)) &&
    (!(p.getD 32 0).getLsbD 0 || (decide (fieldAt p 24 4 ≤ x.date) && decide (x.date ≤ fieldAt p 28 4)))

/-- A predicate block is well formed (Table 07-7). -/
def predOk (p : List Byte) : Bool :=
  decide (fieldAt p 8 8 &&& fieldAt p 0 8 = fieldAt p 8 8) &&
    (!(p.getD 32 0).getLsbD 0 || decide (fieldAt p 24 4 ≤ fieldAt p 28 4)) && decide ((p.getD 32 0).toNat < 2) &&
    (bytesAt p 33 31).all (· = 0)

/-- Insert into a list kept in ascending order, after its equals. -/
def insertAfter {α : Type} (le : α → α → Bool) (x : α) : List α → List α
  | [] => [x]
  | y :: ys => if le y x then y :: insertAfter le x ys else x :: y :: ys

/-- A stable sort: earlier inputs come first among equals. -/
def sortBy {α : Type} (le : α → α → Bool) (xs : List α) : List α := xs.foldl (fun acc x => insertAfter le x acc) []

/-- A whole number as binary64; exact below 2⁵³ (R167). -/
def bits64 (n : Nat) : Nat := (FVal.ofNat n).bits64

/-- A: bytes of a shard's area (R169). -/
def areaBytes (k : Nat) : Nat := ceilDiv (64 + 16 * k + 1560 * k) 4096 * 4096

/-- A list entry (Table 07-5). -/
def listEntry (passage source shard dist node : Nat) : List Byte :=
  leBytes 5 passage ++ leBytes 1 source ++ leBytes 2 shard ++ leBytes 4 dist ++ leBytes 4 node

/-- A padding entry (R170). -/
def padEntry (shard : Nat) : List Byte := listEntry 0xFFFFFFFFFF 0xFF shard 0xFFFFFFFF 0xFFFFFFFF

/-- The figures of one shard's search. -/
structure ShardList where
  picked   : List Scored
  left     : List Scored
  filtered : Nat
  scanned  : Nat
  walk     : Walk
  widened  : Bool
  noEntry  : Bool

/-- The selection of the K least distances over an input sequence, ties to the earlier input (R167): picked and left out. -/
def pickLeast (k : Nat) (xs : List Scored) : List Scored × List Scored :=
  let ys := sortBy (fun a b => decide (a.dist ≤ b.dist)) xs
  (ys.take k, ys.drop k)

/-- Left-out inputs at the distance of the K-th (Table 07-4). -/
def ShardList.ties (l : ShardList) (k : Nat) : Nat :=
  match l.picked[k - 1]? with
  | none => 0
  | some x => (l.left.filter fun y => y.dist = x.dist).length

/-- The 64-byte list header (Table 07-4). -/
def ShardList.header (l : ShardList) (k snap shard : Nat) : List Byte :=
  leBytes 4 l.picked.length ++ leBytes 4 k ++ leBytes 8 snap ++ leBytes 8 (bits64 (sumOf (l.picked.map (·.dist)))) ++
    leBytes 8 (bits64 (sumOf (l.left.map (·.dist)))) ++ leBytes 4 (l.ties k) ++ leBytes 4 l.filtered ++ leBytes 4 l.scanned ++
    leBytes 4 l.walk.exps ++ leBytes 2 shard ++
    [BitVec.ofNat 8 (bit l.widened + 2 * bit (decide (l.picked.length < k)) +
      (match l.walk.stop with | some .limit => 4 | some .full => 8 | _ => 0) + 16 * bit l.noEntry)] ++ zeros 13

/-- The entries of a shard's list (R169, R170). -/
def ShardList.entryBytes (l : ShardList) (t : SearchSlot) (k : Nat) : List Byte :=
  (l.picked.flatMap fun x => listEntry (t.idBase.toNat + x.node) (bit x.side) t.shardId.toNat x.dist x.node) ++
    ((List.replicate (k - l.picked.length) (padEntry t.shardId.toNat)).flatten)

/-! ### SEARCH (R172–R175) -/

/-- The fields of a SEARCH (Table 07-6). -/
structure SearchDesc where
  q : TRef
  out : TRef
  pred : TRef
  snapshot : Nat
  shard : Nat
  k : Nat
  beam : Nat
  limit : Nat
  minTotal : Nat
  predEn : Bool
  widen : Bool

/-- The fields that a descriptor's bytes hold. -/
def SearchDesc.of (d : List Byte) : SearchDesc :=
  ⟨tref d 16, tref d 24, tref d 32, df d 40 8, df d 48 2, df d 50 2, df d 52 2,
   if df d 54 2 = 0 then 4096 else df d 54 2, df d 56 4, (df d 60 1).testBit 0, (df d 60 1).testBit 1⟩

/-- The SERVING slots of a context that a SHARD field names; 0xFFFF names all (R145, R173). -/
def Furrow.slotsFor (c : Furrow) (h : Handle) (shard : Nat) : List SlotIx :=
  (List.finRange 8).filter fun t =>
    c.srch[t].state = .serving && c.srch[t].ownerIx = some h && (decide (shard = 0xFFFF) || c.srch[t].shardId.toNat = shard)

/-- A range of a context's HBM region overlaps a structure of a slot the context owns. -/
def Furrow.overSlots (c : Furrow) (h : Handle) (tier off n : Nat) : Bool :=
  tier = 2 && c.srch.toList.any fun t =>
    t.state != .idle && t.ownerIx = some h && t.structs.any fun x => overlaps off n x.1 x.2

/-- The checks of a SEARCH at fetch: those on its own bytes, the context's regions and units (Table 07-7, R476). The extent of Q
depends on the slots' code length, and that of OUT under SHARD 0xFFFF on their number: those are checked at the start. -/
def fetchSearch (c : Furrow) (h : Handle) (d : List Byte) : Option Refuse :=
  let a := SearchDesc.of d
  firstFail [reservedBits d 60 7 2, reservedBytes d 61 63, a.q.form 16 [0, 1, 2],
    if a.shard = 0xFFFF then a.out.form 24 [2] else c.refCheck h a.out (areaBytes a.k) 24 [2],
    if a.predEn then c.refCheck h a.pred 64 32 [1, 2] else none,
    badIf (decide (a.k = 0) || decide (16384 < a.k)) 50, badIf (decide (a.beam < 8) || decide (256 < a.beam)) 52]

/-- Bytes of the query code: those of the first slot to be searched. -/
def Furrow.queryBytes (c : Furrow) (ts : List SlotIx) : Nat := match ts with | [] => 32 | t :: _ => c.srch[t].codeBytes

/-- A SNAPSHOT field that a shard serves (Table 07-7, R183). -/
def SearchSlot.serves (t : SearchSlot) (snapshot : Nat) : Bool :=
  decide (snapshot = 0) || (decide (snapshot ≤ t.epoch.toNat) && decide (t.floor.toNat ≤ snapshot))

/-- The query code, n bytes of it, and the predicate block, as they lie in memory. -/
def Run.loadInputs (r : Run s₀) (e : Eng) (q : Request) (n : Nat) : List Byte × List Byte :=
  let a := SearchDesc.of q.desc
  (r.load e.f e.h e.core a.q.tier a.q.off n, if a.predEn then r.load e.f e.h e.core a.pred.tier a.pred.off 64 else [])

/-- The query code and the predicate block: once started, those read before any other work (R475) or carried by the root (R174). -/
def Run.searchInputs (r : Run s₀) (e : Eng) (q : Request) (n : Nat) : List Byte × List Byte :=
  if q.origin.isSome ∨ q.phase = Phase.running then (q.carried.take n, q.carried.drop n) else r.loadInputs e q n

/-- The checks of a SEARCH when it starts: slots, snapshots, extents that follow from them, and the predicate block. -/
def startSearch (r : Run s₀) (e : Eng) (q : Request) : Option Refuse :=
  let c := r.fur e.f
  let a := SearchDesc.of q.desc
  let ts := c.slotsFor e.h a.shard
  let n := c.queryBytes ts
  let areas := ts.length * areaBytes a.k
  let span := c.ctx[e.h].role != .none
  firstFail [
    if q.origin.isSome then badIf (decide (q.carried.length ≠ n + if a.predEn then 64 else 0)) 16 else c.refCheck e.h a.q n 16 [0, 1, 2],
    badIf (!c.inside e.h 2 a.out.off areas || c.overSlots e.h 2 a.out.off areas) 24,
    badIf (a.predEn && !predOk (r.searchInputs e q n).2) 32,
    badIf ((span && decide (a.snapshot ≠ 0)) || ts.any fun t => !c.srch[t].serves a.snapshot) 40,
    badIf ((span && decide (a.shard ≠ 0xFFFF)) || ts.isEmpty || ts.any fun t => c.srch[t].codeBytes != n) 48]

/-- Bytes that a walk keeps in a cluster SRAM unit: visited filter, prefetch buffer, beam (R162). -/
def walkBytes (beam : Nat) : Nat := 32768 + 512 + 16 * beam

/-- The storage that walks of a context hold in its units. -/
def Furrow.rooms (c : Furrow) (h : Handle) : List (Nat × Nat) := c.srch.toList.flatMap fun t => (t.views.filter fun v => v.h = h).map (·.room)

/-- The lowest address from which n bytes are free in a unit (that the lowest is taken: log 84). -/
def roomAt (u n : Nat) (taken : List (Nat × Nat)) : Option Nat :=
  leastOf ((u * mib :: taken.map fun x => x.1 + x.2).filter fun a =>
    decide (u * mib ≤ a) && decide (a + n ≤ (u + 1) * mib) && taken.all fun x => !overlaps a n x.1 x.2)

/-- Room for walks of the given sizes, one after another, beside what is taken of a unit. -/
def roomsIn (u : Nat) (taken : List (Nat × Nat)) : List Nat → Option (List (Nat × Nat))
  | [] => some []
  | n :: ns => (roomAt u n taken).bind fun a => (roomsIn u ((a, n) :: taken) ns).map ((a, n) :: ·)

/-- Room for walks in the highest-numbered unit that a context holds in a cluster (R162). -/
def Furrow.walkRooms (c : Furrow) (h : Handle) (cl : Nat) (sizes : List Nat) : Option (List (Nat × Nat)) :=
  (c.unitsIn h cl).getLast?.bind fun u => roomsIn u (c.rooms h) sizes

/-- The cluster that a request's present descriptor runs in. -/
def Request.cluster (q : Request) : Nat := match q.place with | some u => (placeCluster u).val | none => 0

/-- A descriptor starts on a slot; those that are over are forgotten. -/
def Furrow.useSlot (c : Furrow) (t : SlotIx) (q : Request) : Furrow :=
  { c with srch := c.srch.set t { c.srch[t] with
      users := (c.srch[t].users.filter fun u => c.reqs.any fun x => x.order = u.1 && x.idx = u.2) ++ [(q.order, q.idx)] } }

/-- Some descriptor that has started on a slot is not over: its run has not gone on, nor its final record been posted (R155). -/
def Furrow.slotUsed (c : Furrow) (t : SlotIx) : Bool :=
  c.srch[t].users.any fun u => c.reqs.any fun x => x.order = u.1 && x.idx = u.2

/-- The held views of a search, taken in one step at its start with the walks' storage (R159, R162, R182). -/
def Furrow.takeViews (c : Furrow) (q : Request) : Furrow :=
  let a := SearchDesc.of q.desc
  let ts := c.slotsFor q.h a.shard
  let rooms := (c.walkRooms q.h q.cluster (ts.map fun _ => walkBytes a.beam)).getD []
  ts.zipIdx.foldl (fun (c : Furrow) (t : SlotIx × Nat) =>
    let c := c.useSlot t.1 q
    { c with srch := c.srch.set t.1 { c.srch[t.1] with
        views := c.srch[t.1].views ++ [⟨q.h, q.tag, false, if a.snapshot = 0 then c.srch[t.1].epoch else BitVec.ofNat 64 a.snapshot,
          c.srch[t.1].nodeCount, c.srch[t.1].sideHead, c.srch[t.1].sideTail, rooms.getD t.2 (0, 0)⟩] } }) c

/-- The storage of a request's walks takes contents that the spec does not lay out: free bytes (R162; log 84). -/
def Run.fillRooms (r : Run s₀) (f : FurrowIx) (h : Handle) (tag : Tag) : Run s₀ :=
  let vs := (r.fur f).srch.toList.flatMap fun t => (t.views.filter fun v => v.h = h && v.tag = tag).map (·.room)
  r.each vs fun r x =>
    let p := r.freeBytes x.2
    p.2.write (.t1 f) x.1 p.1

/-- What the root of a span carries to its members with a SEARCH (R174). -/
def carrySearch (r : Run s₀) (e : Eng) (q : Request) : List Byte :=
  let p := r.loadInputs e q ((r.fur e.f).queryBytes ((r.fur e.f).slotsFor e.h (SearchDesc.of q.desc).shard))
  p.1 ++ p.2

/-- Admission's estimate of a SEARCH (R178). -/
def costSearch (c : Furrow) (h : Handle) (d : List Byte) : Cost :=
  let a := SearchDesc.of d
  let ts := c.slotsFor h a.shard
  let n := if a.shard = 0xFFFF then ts.length else 1
  .flat (12600 * a.beam * n + cyclesNs (ceilDiv (sumOf (ts.map fun t => (c.srch[t].sideTail - c.srch[t].sideHead).toNat)) 32))

/-- One shard's search under its held view: the walk, the scan, the filter, the widening pass (R165–R168). The first part of the answer
is the edges it counted (R141). -/
def Run.searchShard (r : Run s₀) (e : Eng) (a : SearchDesc) (t : SearchSlot) (v : View) (query : Nat) (pred : List Byte) :
    Nat × Except (Space × Nat × Nat) ShardList :=
  let args : WalkArgs := ⟨e.f, t, query, v.nodes.toNat, v.snapshot.toNat, a.beam, a.limit, 16 * a.k⟩
  let passes := fun (x : Scored) => !a.predEn || predPasses pred x
  let w := r.walk args
  match w.bad, r.scanSide e.f t query v.snapshot.toNat v.sideHead v.sideTail with
  | some p, _ => (w.badEdges, .error p)
  | none, .error p => (w.badEdges, .error p)
  | none, .ok side =>
    let list := fun (w : Walk) (widened : Bool) =>
      let p := pickLeast a.k ((w.cand ++ side).filter passes)
      (⟨p.1, p.2, ((w.cand ++ side).filter fun x => !passes x).length, side.length, w, widened, (r.starts args).isEmpty⟩ : ShardList)
    let l := list w false
    if l.picked.length < a.k && a.widen then
      let w2 := r.walk { args with beam := min (4 * a.beam) 256, limit := min (4 * a.limit) 65535, cap := 64 * a.k }
      (w.badEdges + w2.badEdges, match w2.bad with | some p => .error p | none => .ok (list w2 true))
    else (w.badEdges, .ok l)

/-- The figures of a search over its shards: lists, VALID and FILTERED summed, any widened. -/
structure SearchSums where
  lists    : Nat
  valid    : Nat
  filtered : Nat
  widened  : Bool

/-- Write one shard's area: header, entries, and the undefined work area after them (R169). -/
def Run.putList (r : Run s₀) (e : Eng) (a : SearchDesc) (t : SearchSlot) (v : View) (j : Nat) (l : ShardList) : Run s₀ :=
  let at_ := a.out.off + j * areaBytes a.k
  let work := align64 (64 + 16 * a.k)
  (r.store e.f e.h e.core 2 at_ (l.header a.k v.snapshot.toNat t.shardId.toNat ++ l.entryBytes t a.k)).scribble e
    (2, at_ + work, min (1560 * a.k) (areaBytes a.k - work))

/-- The searches of a request's shards, in ascending slot number. -/
def Run.searchAll (r : Run s₀) (e : Eng) (a : SearchDesc) (query : Nat) (pred : List Byte) (ts : List (SlotIx × View)) :
    Run s₀ × Except (Space × Nat × Nat) SearchSums :=
  ts.foldl (fun (acc : Run s₀ × Except (Space × Nat × Nat) SearchSums) tv =>
    match acc with
    | (r, .error p) => (r, .error p)
    | (r, .ok x) =>
      let t := (r.fur e.f).srch[tv.1]
      let y := r.searchShard e a t tv.2 query pred
      let r := r.modFur e.f fun c =>
        { c with srch := c.srch.set tv.1 { c.srch[tv.1] with badEdges := sat c.srch[tv.1].badEdges y.1 } }
      match y.2 with
      | .error p => (r, .error p)
      | .ok l => (r.putList e a t tv.2 x.lists l, .ok ⟨x.lists + 1, x.valid + l.picked.length, x.filtered + l.filtered, x.widened || l.widened⟩))
    (r, .ok ⟨0, 0, 0, false⟩)

/-- A total limited to 32 bits. -/
def sat32 (n : Nat) : Nat := min n 0xFFFFFFFF

/-- The ending of a search from its sums over every list (R175). -/
def searchEnding (d : List Byte) (lists valid filtered : Nat) : Ending :=
  let e := Ending.ok (satCount lists) (df d 24 8)
  if valid < df d 56 4 then
    { e with status := Status.doneShort, detail := BitVec.ofNat 64 (sat32 valid + 2 ^ 32 * sat32 filtered) } else e

/-- A request's part of a span's work (R376): its ending goes to the root, or is the root's own share. -/
def Request.isPart (q : Request) : Bool := q.goSent || q.origin.isSome

/-- Do a SEARCH: the part's totals stand in DETAIL for the root to sum (R174, R175). -/
def Run.search (r : Run s₀) (e : Eng) (q : Request) : Run s₀ × Ending :=
  let a := SearchDesc.of q.desc
  let c := r.fur e.f
  let ts := (List.finRange 8).flatMap fun t =>
    ((c.srch[t].views.filter fun v => v.h = e.h && v.tag = e.tag && !v.merge).take 1).map fun v => (t, v)
  let n := c.queryBytes (ts.map (·.1))
  let drop := fun (r : Run s₀) => (r.fillRooms e.f e.h e.tag).modFur e.f fun c => { c with srch := c.srch.map fun t => t.releaseReq e.h e.tag }
  let outs : List Extent := [(2, a.out.off, ts.length * areaBytes a.k)]
  let ins : List Extent := if q.origin.isSome then [] else
    (a.q.tier, a.q.off, n) :: if a.predEn then [(a.pred.tier, a.pred.off, 64)] else []
  let p := r.reading e ins outs fun r =>
    let io := r.searchInputs e q n
    match r.searchAll e a (leNat io.1) io.2 ts with
    | (r, .error p) => r.spoil e p outs
    | (r, .ok x) =>
      let r := if x.widened then r.modFur e.f fun c => c.modReq e.h e.tag fun q => { q with widened := true } else r
      (r, if q.isPart then
          { Ending.ok (satCount x.lists) (df q.desc 24 8) with detail := BitVec.ofNat 64 (sat32 x.valid + 2 ^ 32 * sat32 x.filtered) }
        else searchEnding q.desc x.lists x.valid x.filtered)
  (drop p.1, p.2)

/-- SEARCH (R158–R175). -/
def execSearch (f : FurrowIx) (h : Handle) (tag : Tag) (s : State) : Host.Outcome State Fault Refusal :=
  runDesc 0x30 f h tag s fun q r => r.search (q.eng f) q

/-! ### HAMMING_SCAN (R177) -/

/-- The fields of a HAMMING_SCAN (Table 07-8). -/
structure ScanDesc where
  q : TRef
  codes : TRef
  out : TRef
  n : Nat
  cluster : Nat
  scope : Nat
  bytes : Nat

/-- The fields that a descriptor's bytes hold. -/
def ScanDesc.of (d : List Byte) : ScanDesc :=
  let b := df d 44 1
  ⟨tref d 16, tref d 24, tref d 32, bitsOf (df d 40 4) 23 0, bitsOf b 6 4, bitsOf b 3 2, 32 <<< bitsOf b 1 0⟩

/-- The checks of a HAMMING_SCAN (R177, R129), all at fetch. -/
def fetchHammingScan (c : Furrow) (h : Handle) (d : List Byte) : Option Refuse :=
  let a := ScanDesc.of d
  firstFail [reservedBytes d 43 43, reservedBits d 44 7 7, reservedBytes d 45 63,
    c.tensorCheck h a.q a.bytes 16 a.scope, c.tensorCheck h a.codes (a.codes.extent a.n a.bytes) 24 a.scope,
    c.tensorCheck h a.out (4 * a.n) 32 a.scope,
    badIf (a.out.overlap (4 * a.n) a.q a.bytes || a.out.overlap (4 * a.n) a.codes (a.codes.extent a.n a.bytes)) 32,
    badIf (decide (a.n = 0)) 40, c.scopeCheck h a.scope a.cluster 44 44]

/-- The estimate of a HAMMING_SCAN (R178, Table 06-1). -/
def costHammingScan (c : Furrow) (d : List Byte) : Cost :=
  let a := ScanDesc.of d
  .flat (cyclesNs (ceilDiv a.n (512 / a.bytes * c.scopeSize a.scope a.cluster) + 9))

/-- Do a HAMMING_SCAN: the distance of code i to element i of OUT. -/
def Run.hammingScan (r : Run s₀) (e : Eng) (d : List Byte) : Run s₀ × Ending :=
  let a := ScanDesc.of d
  r.reading e ((a.q.tier, a.q.off, a.bytes) :: a.codes.rowExtents a.n a.bytes)
      [(a.out.tier, a.out.off, 4 * a.n)] fun r =>
    let q := r.loadNat e.f e.h e.core a.q.tier a.q.off a.bytes
    let ds := (List.range a.n).map fun i =>
      hamming (8 * a.bytes) q (r.loadNat e.f e.h e.core a.codes.tier (a.codes.row a.bytes i) a.bytes)
    (r.store e.f e.h e.core a.out.tier a.out.off (ds.flatMap fun x => leBytes 4 x), Ending.ok (satCount a.n) (df d 32 8))

/-- HAMMING_SCAN (R177). -/
def execHammingScan (f : FurrowIx) (h : Handle) (tag : Tag) (s : State) : Host.Outcome State Fault Refusal :=
  runDesc 0x31 f h tag s fun q r => r.hammingScan (q.eng f) q.desc

/-! ### Slots in and out of service (R153–R155, R220) -/

/-- A structure of a slot in physical HBM. -/
def Furrow.slotRanges (c : Furrow) (t : SearchSlot) : List (Nat × Nat) := t.structs.map fun x => (c.hbmBase t.handle + x.1, x.2)

/-- Some two ranges of a list, or a range of it and one of another list, share a byte. -/
def clash : List (Nat × Nat) → List (Nat × Nat) → Bool
  | [], _ => false
  | x :: xs, others => (xs ++ others).any (fun y => overlaps x.1 x.2 y.1 y.2) || clash xs others

/-- The passage store of a slot is out of order (R219, R220). -/
def Furrow.storeBad (c : Furrow) (t : SearchSlot) : Bool :=
  let wide := decide (t.psFmt = 1) || decide (t.psFmt = 2)
  let dim := t.psDim.toNat
  let vs := dim * (if wide then 2 else 1)
  let cap := t.nodeCap.toNat
  !(wide || decide (t.psFmt = 3) || decide (t.psFmt = 4)) || decide (dim < 64) || decide ((if wide then 1024 else 2048) < dim) ||
    decide (dim % 64 ≠ 0) || !c.grnInside t.handle (baseOf t.psVec) (cap * vs) || !c.grnInside t.handle (baseOf t.psDir) (cap * 8) ||
    overlaps (baseOf t.psVec) (cap * vs) (baseOf t.psDir) (cap * 8)

/-- The first failing check of an enable (Table 06-15, R220); 0 when all pass. CODE_LEN 3 fails as the table says (log 32). -/
def Run.enableError (r : Run s₀) (f : FurrowIx) (i : SlotIx) : Byte :=
  let c := r.fur f
  let t := c.srch[i]
  let live := ((List.finRange 8).filter fun j => j ≠ i && c.srch[j].state != .idle).map fun j => c.srch[j]
  let table := r.entries f t
  if t.degree = 3 ∨ t.codeLen = 3 then 0x01
  else if !(match t.ownerIx with | some h => c.ctx[h].state = .ready || c.ctx[h].state = .member | none => false) then 0x02
  else if live.any fun o => o.shardId = t.shardId then 0x03
  else if t.ones < t.nodeCap.toNat ∨ t.nodeCap < t.nodeCount ∨ 2 ^ 40 < t.idBase.toNat + t.nodeCap.toNat then 0x04
  else if t.trigger = 0 ∨ t.sideCap < t.trigger.toNat ∨ t.sideCap < (t.sideTail - t.sideHead).toNat ∨
      65536 < (t.dlogTail - t.dlogHead).toNat then 0x05
  else if t.structs.any fun x => !c.hbmInside t.handle x.1 x.2 then 0x06
  else if clash (c.slotRanges t) (live.flatMap fun o => c.slotRanges o) then 0x07
  else if (r.shardBad f t (baseOf t.entryBase) 256).isSome then 0x0A
  else if (table.all fun x => x = t.ones) || table.any (fun x => decide (x ≠ t.ones) && decide (t.nodeCount.toNat ≤ x)) then 0x08
  else if t.psEn && c.storeBad t then 0x09
  else 0

/-- Entries of the side list, counted from the least HEAD held by any search in progress (R184). -/
def SearchSlot.sideUsed (t : SearchSlot) : Nat :=
  (t.views.map fun v => (t.sideTail - v.sideHead).toNat).foldl max (t.sideTail - t.sideHead).toNat

/-- SIDE_FULL and MERGE_DUE follow the side list's counts (Table 06-8, R184). -/
def SearchSlot.compare (t : SearchSlot) : SearchSlot :=
  { t with sideFull := decide (t.sideCap ≤ t.sideUsed)
           mergeDue := decide (t.trigger.toNat ≤ (t.sideTail - t.sideHead).toNat) }

/-- The HBM_UE record of an entry table that cannot be read, naming the owner (Table 06-15). -/
def Furrow.entryTableError (c : Furrow) (h : Handle) (p : Space × Nat × Nat) : Furrow :=
  match c.badIn p with
  | none => c
  | some (b, at_) => c.raise { ueRecord b at_ h 0xFFFFFFFF 0 with severity := 2 } []

/-- SLOT_ENABLE (R153, R183, R220): an IDLE slot is checked and brought into service. -/
def execSlotEnable (f : FurrowIx) (t : SlotIx) (s : State) : Host.Outcome State Fault Refusal :=
  let x := (s.furrow f).srch[t]
  let r := Run.start s
  (if x.state ≠ .idle ∨ !s.reaches f 0x100000 then r
   else
     let e := r.enableError f t
     let r := match r.shardBad f x (baseOf x.entryBase) 256 with
       | some p => if e = 0x0A then r.modFur f fun c => c.entryTableError x.handle p else r
       | none => r
     r.modFur f fun c =>
       let y := { x.compare with error := 0, enable := true, badEdges := 0, floor := if x.restored ∧ x.floor.toNat ≤ x.epoch.toNat then x.floor else x.epoch, users := [], state := .serving }
       { c with srch := c.srch.set t (if e = 0 then y else { x with error := e, enable := false }) }).done

/-- The shard an update-family descriptor names (Tables 08-3, 08-4). -/
def updateShard (d : List Byte) : Option Nat :=
  match (opcodeOf d).toNat with
  | 0x38 | 0x39 | 0x3A => some (df d 24 2)
  | 0x3B => some (df d 16 2)
  | _ => none

/-- The running updates and merges that have started on a slot. -/
def Furrow.updatesOn (c : Furrow) (t : SearchSlot) : List Request :=
  c.reqs.filter fun q => q.phase = Phase.running && (updateShard q.desc).isSome && t.users.contains (q.order, q.idx)

/-- How a running update ends when its slot drains (R193): CANCELLED before its commit, a merge before its switch DONE_SHORT with
cause SLOT_DRAINED. -/
def drainEnding (t : SearchSlot) (d : List Byte) : Ending :=
  if opcodeOf d = 0x3B then
    { status := Status.doneShort, count := 0, result := t.floor, detail := BitVec.ofNat 64 (2 ^ 32 * 5) }
  else .bare Status.cancelled 0

/-- SLOT_DRAIN (R155, R193): a SERVING slot takes no more descriptors; updates before their commit and merges before their switch
end, and searches run on. -/
def execSlotDrain (f : FurrowIx) (t : SlotIx) (s : State) : Host.Outcome State Fault Refusal :=
  let x := (s.furrow f).srch[t]
  (if x.state ≠ .serving ∨ !s.reaches f 0x100000 then Run.start s
   else
     let qs := (s.furrow f).updatesOn x
     let r := (Run.start s).modFur f fun c => { c with srch := c.srch.set t { x with state := .draining, enable := false } }
     r.each qs fun r q =>
       (r.modFur f fun c => { c with srch := c.srch.map fun t => t.releaseReq q.h q.tag }).engineEnds f q.h q.tag (drainEnding x q.desc)).done

end Sys2Proof.Machine
end

