-- ==== Sys2Proof/Machine/Updates.lean ====
section
/-! DEFINITION. Index updates (chapter 08): INSERT, DELETE, REPLACE, MERGE and SHARD_RESTORE, with the switch record and the
order of a commit. -/

namespace Sys2Proof.Machine

variable {s₀ : State}

/-! ### The switch record (R188) -/

/-- The address of a slot's switch record in the owner's region. -/
def SearchSlot.switchAt (t : SearchSlot) : Nat := baseOf t.entryBase + 0x100

/-- The switch record of a slot's registers with a SEQ (Table 08-2). -/
def SearchSlot.switchRecord (t : SearchSlot) (seq : Nat) : List Byte :=
  let b := leBytes 8 t.epoch.toNat ++ leBytes 8 t.floor.toNat ++ leBytes 4 t.nodeCount.toNat ++ leBytes 4 t.sideHead.toNat ++
    leBytes 4 t.sideTail.toNat ++ leBytes 4 t.dlogHead.toNat ++ leBytes 4 t.dlogTail.toNat ++ leBytes 2 t.shardId.toNat ++ zeros 2 ++
    leBytes 8 seq ++ zeros 12
  b ++ leBytes 4 (crc32c b)

/-- A slot of the furrow as it stands. -/
def Run.slot (r : Run s₀) (f : FurrowIx) (i : SlotIx) : SearchSlot := (r.fur f).srch[i]

/-- Change a slot. -/
def Run.modSlot (r : Run s₀) (f : FurrowIx) (i : SlotIx) (g : SearchSlot → SearchSlot) : Run s₀ :=
  r.modFur f fun c => { c with srch := c.srch.set i (g c.srch[i]) }

/-- A switch: the record of the slot's new registers takes the next SEQ, and the registers follow; the tombstone bits of the
deleted nodes stand between them (R181). MERGE_DUE is compared at an insert and at a merge's switch (R154). -/
def Run.commit (r : Run s₀) (f : FurrowIx) (i : SlotIx) (new : SearchSlot) (deleted : List Nat) (compares : Bool) : Run s₀ :=
  let t := r.slot f i
  let seq := r.shardNat f t (t.switchAt + 40) 8 + 1
  let r := r.putShard f t t.switchAt (new.switchRecord seq)
  let r := r.each deleted fun r n =>
    let a := baseOf t.tombBase + n / 8
    r.putShard f t a (leBytes 1 (r.shardNat f t a 1 ||| 1 <<< (n % 8)))
  r.modSlot f i fun _ => if compares then new.compare else { new.compare with mergeDue := t.mergeDue }

/-! ### Descriptors -/

/-- The fields of an INSERT, DELETE or REPLACE (Table 08-3). -/
structure UpdDesc where
  op    : Nat
  items : TRef
  shard : Nat
  n     : Nat
  old   : Nat

/-- The fields that a descriptor's bytes hold. -/
def UpdDesc.of (d : List Byte) : UpdDesc :=
  ⟨(opcodeOf d).toNat, tref d 16, df d 24 2, if opcodeOf d = 0x3A then 1 else df d 26 2, df d 32 5⟩

/-- Bytes of the items for a slot: side-list entries, or item words. -/
def UpdDesc.bytes (a : UpdDesc) (t : SearchSlot) : Nat := a.n * if a.op = 0x39 then 8 else t.sideBytes

/-- The SERVING slot of a context that a SHARD field names; handle 0 may name any for a MERGE (R145, R191). -/
def Furrow.slotNamed (c : Furrow) (h : Handle) (shard : Nat) (any : Bool) : Option SlotIx :=
  (List.finRange 8).find? fun t =>
    c.srch[t].state = .serving && c.srch[t].shardId.toNat = shard && (any || c.srch[t].ownerIx = some h)

/-- The checks at fetch of INSERT, DELETE and REPLACE (R192, Table 08-3). -/
def fetchUpdate (c : Furrow) (h : Handle) (d : List Byte) : Option Refuse :=
  let a := UpdDesc.of d
  firstFail [if a.op = 0x3A then reservedBytes d 26 31 else reservedBytes d 28 39,
    if a.op = 0x3A then reservedField d 32 8 63 40 else none, reservedBytes d 40 63,
    c.refCheck h a.items (a.n * if a.op = 0x39 then 8 else 128) 16 [1, 2],
    badIf (decide (a.n = 0) || decide (4096 < a.n)) 26]

/-- The items of an update: on a member of a span those the root carried (R191). -/
def Run.updItems (r : Run s₀) (e : Eng) (q : Request) (t : SearchSlot) : List Byte :=
  let a := UpdDesc.of q.desc
  if q.origin.isSome then q.carried.take (a.bytes t) else r.load e.f e.h e.core a.items.tier a.items.off (a.bytes t)

/-- What the root of a span carries of REC or IDS (R191): it does not know the code length of a member's slot, so it carries the
longest prefix of what the items could take that lies in its region and off its slots, in steps of 64 bytes (log 35). -/
def Run.carryUpdate (r : Run s₀) (e : Eng) (d : List Byte) : List Byte :=
  let a := UpdDesc.of d
  let c := r.fur e.f
  let steps := ceilDiv (a.n * if a.op = 0x39 then 8 else 320) 64
  let fits := fun i => c.inside e.h a.items.tier a.items.off (64 * i) && !c.overSlots e.h a.items.tier a.items.off (64 * i)
  let n := (List.range steps).foldl (fun n i => if n = i && fits (i + 1) then i + 1 else n) 0
  r.load e.f e.h e.core a.items.tier a.items.off (64 * n)

/-- A side-list entry given to an INSERT is in order (R192, Table 08-3). -/
def recOk (t : SearchSlot) (x : List Byte) : Bool :=
  decide (fieldAt x 12 4 ≠ reclaimedDate) && (bytesAt x 24 40).all (· = 0) &&
    (bytesAt x (64 + t.codeBytes) (t.sideBytes - 64 - t.codeBytes)).all (· = 0)

/-- Item i of a byte string of items. -/
def UpdDesc.item (a : UpdDesc) (t : SearchSlot) (bs : List Byte) (i : Nat) : List Byte :=
  let w := if a.op = 0x39 then 8 else t.sideBytes
  bytesAt bs (i * w) w

/-- The checks of INSERT, DELETE and REPLACE when they start (R192). On the root of a span the slot is a member's (R191), and the
member makes them. -/
def startUpdate (r : Run s₀) (e : Eng) (q : Request) : Option Refuse :=
  let c := r.fur e.f
  let a := UpdDesc.of q.desc
  match c.slotNamed e.h a.shard false with
  | none => some (.operand 24)
  | some i =>
    let t := c.srch[i]
    let bs := r.updItems e q t
    badIf ((q.origin.isNone && (!c.inside e.h a.items.tier a.items.off (a.bytes t) ||
        c.overSlots e.h a.items.tier a.items.off (a.bytes t))) ||
      (q.origin.isSome && decide (q.carried.length < a.bytes t)) ||
      (List.range a.n).any fun k =>
        let x := a.item t bs k
        if a.op = 0x39 then decide (fieldAt x 5 3 ≠ 0) else !recOk t x) 16

/-- The estimate of an update (R194). -/
def costUpdate (d : List Byte) : Cost := .flat (1000 + 10 * (UpdDesc.of d).n)

/-! ### Applying items (R179–R184) -/

/-- The node of a passage identifier, if the shard holds it: in the graph or in the side list. -/
def SearchSlot.present (t : SearchSlot) (id : Nat) : Option Nat :=
  if t.idBase.toNat ≤ id ∧ id < t.idBase.toNat + t.nodeCount.toNat + (t.sideTail - t.sideHead).toNat then some (id - t.idBase.toNat)
  else none

/-- The node that the side-list entry of a free-running count takes (R180). -/
def SearchSlot.nodeOf (t : SearchSlot) (n : W32) : Nat := t.nodeCount.toNat + (n - t.sideHead).toNat

/-- The cause that stops an item which adds k earlier side entries and j delete-log entries, the lowest code first (Table 08-1). -/
def SearchSlot.full (t : SearchSlot) (side dlog : Bool) (k j : Nat) (oldAbsent : Bool) : Option Nat :=
  if side ∧ t.sideCap ≤ t.sideUsed + k then some 1
  else if dlog ∧ 65536 ≤ (t.dlogTail - t.dlogHead).toNat + j then some 2
  else if side ∧ t.nodeCap.toNat ≤ t.nodeOf t.sideTail + k then some 3
  else if oldAbsent then some 4
  else none

/-- An entry with the EPOCH and NODE the furrow writes into it (Table 08-3). -/
def stamped (x : List Byte) (epoch node : Nat) : List Byte := leBytes 8 epoch ++ leBytes 4 node ++ x.drop 12

/-- Write delete-log entries for nodes beyond the log's TAIL (Table 06-5). -/
def Run.logDeletes (r : Run s₀) (f : FurrowIx) (t : SearchSlot) (epoch : Nat) (nodes : List Nat) : Run s₀ :=
  r.each nodes.zipIdx fun r p =>
    r.putShard f t (t.dlogAt ((t.dlogTail + BitVec.ofNat 32 p.2).toNat)) (leBytes 8 epoch ++ leBytes 4 p.1 ++ zeros 4)

/-- What applying the items of an update gives: the run, the items as the host gets them back, the items that changed the shard,
the items processed, and the cause that stopped the rest. -/
structure Applied (s₀ : State) where
  run : Run s₀
  back : List Byte
  changed : Nat
  processed : Nat
  cause : Nat

/-- INSERT's items (R180, R181, R184): the longest prefix with room. -/
def Run.applyInsert (r : Run s₀) (f : FurrowIx) (i : SlotIx) (a : UpdDesc) (bs : List Byte) : Applied s₀ :=
  let t := r.slot f i
  let e := t.epoch.toNat + 1
  let stop := (List.range a.n).findSome? fun k => (t.full true false k 0 false).map fun c => (k, c)
  let m := (stop.map (·.1)).getD a.n
  let items := (List.range m).map fun k => stamped (a.item t bs k) e (t.nodeOf t.sideTail + k)
  let r := r.each items.zipIdx fun r p => r.putShard f t (t.sideAt ((t.sideTail + BitVec.ofNat 32 p.2).toNat)) p.1
  let r := if m = 0 then r else
    r.commit f i { t with sideTail := t.sideTail + BitVec.ofNat 32 m, epoch := BitVec.ofNat 64 e } [] true
  ⟨r, items.flatten ++ bs.drop (m * t.sideBytes), m, m, (stop.map (·.2)).getD 0⟩

/-- One item of a DELETE: the nodes logged so far, the results so far, and whether the log was full. -/
structure Deleting where
  nodes   : List Nat
  results : List Nat
  full    : Bool

/-- DELETE's items one after another (Table 08-3, R184). -/
def Run.deleteItem (r : Run s₀) (f : FurrowIx) (t : SearchSlot) (x : Deleting) (id : Nat) : Deleting :=
  if x.full then { x with results := x.results ++ [0xFF] }
  else match t.present id with
    | none => { x with results := x.results ++ [2] }
    | some n =>
      if r.tombed f t n ∨ n ∈ x.nodes then { x with results := x.results ++ [1] }
      else if (t.full false true 0 x.nodes.length false).isSome then { x with full := true, results := x.results ++ [0xFF] }
      else { x with nodes := x.nodes ++ [n], results := x.results ++ [0] }

/-- DELETE's items (R181, R184). -/
def Run.applyDelete (r : Run s₀) (f : FurrowIx) (i : SlotIx) (a : UpdDesc) (bs : List Byte) : Applied s₀ :=
  let t := r.slot f i
  let e := t.epoch.toNat + 1
  let ids := (List.range a.n).map fun k => fieldAt (a.item t bs k) 0 5
  let x := ids.foldl (fun x id => r.deleteItem f t x id) ⟨[], [], false⟩
  let m := x.nodes.length
  let r := r.logDeletes f t e x.nodes
  let r := if m = 0 then r else
    r.commit f i { t with dlogTail := t.dlogTail + BitVec.ofNat 32 m, epoch := BitVec.ofNat 64 e } x.nodes false
  ⟨r, (List.zip ids x.results).flatMap fun p => leBytes 5 p.1 ++ leBytes 1 p.2 ++ zeros 2, m,
   (x.results.filter (· ≠ 0xFF)).length, if x.full then 2 else 0⟩

/-- REPLACE's one item (R181, R184): the insert and the delete under one switch. -/
def Run.applyReplace (r : Run s₀) (f : FurrowIx) (i : SlotIx) (a : UpdDesc) (bs : List Byte) : Applied s₀ :=
  let t := r.slot f i
  let e := t.epoch.toNat + 1
  let old := (t.present a.old).filter fun n => !r.tombed f t n
  match t.full true true 0 0 old.isNone, old with
  | none, some n =>
    let x := stamped (a.item t bs 0) e (t.nodeOf t.sideTail)
    let r := (r.putShard f t (t.sideAt t.sideTail.toNat) x).logDeletes f t e [n]
    ⟨r.commit f i { t with sideTail := t.sideTail + 1, dlogTail := t.dlogTail + 1, epoch := BitVec.ofNat 64 e } [n] true, x, 1, 1, 0⟩
  | c, _ => ⟨r, bs, 0, 0, c.getD 4⟩

/-- The extents in the owner's region that an update reads. -/
def SearchSlot.updExtents (t : SearchSlot) (ids : List Nat) : List Extent :=
  (2, t.switchAt, 64) :: (ids.filterMap t.present).map fun n => (2, baseOf t.tombBase + n / 8, 1)

/-- The ending of an update (Table 08-6). -/
def Applied.ending (x : Applied s₀) (n : Nat) (epoch : W64) : Ending :=
  let e := Ending.ok (satCount x.changed) epoch.toNat
  if x.processed < n then
    { e with status := Status.doneShort, detail := BitVec.ofNat 64 (x.processed + 2 ^ 32 * x.cause) } else e

/-- The items as a member below has given them back (R191). -/
def Furrow.backFrom (c : Furrow) (q : Request) : Option (List Byte) :=
  ((c.below q.h).2.findSome? fun m => q.heard m.id).bind fun bs => ((parsePieces bs.length bs).find? fun p => !p.2.isEmpty).map (·.2)

/-- The part of an update on a furrow of a span that does not own the slot: the items that a member below gives back are written
into the root's own copy, or go further up (R191). -/
def Run.updateRelay (r : Run s₀) (e : Eng) (q : Request) : Run s₀ × Option Ending :=
  let a := UpdDesc.of q.desc
  if (r.fur e.f).below q.h |>.2.isEmpty then (r, some (Refuse.operand 24).atStart.ending)
  else match (r.fur e.f).backFrom q with
    | none => (r, none)
    | some bs =>
      (match q.origin with
       | some _ => r.modFur e.f fun c => c.passUp e.f q bs []
       | none => r.store e.f e.h e.core a.items.tier a.items.off bs, some (Ending.ok 0 0))

/-- Do an INSERT, DELETE or REPLACE on the furrow that owns the slot. A member of a span returns the items to the root, which writes
them into its own copy. -/
def Run.update (r : Run s₀) (e : Eng) (q : Request) (i : SlotIx) : Run s₀ × Ending :=
  let a := UpdDesc.of q.desc
  let t := r.slot e.f i
  let bs := r.updItems e q t
  let ids := if a.op = 0x38 then [] else if a.op = 0x3A then [a.old] else (List.range a.n).map fun k => fieldAt (a.item t bs k) 0 5
  let ins : List Extent := if q.origin.isSome then [] else [(a.items.tier, a.items.off, a.bytes t)]
  r.reading e ins [] fun r =>
    r.readingOf e t.handle (t.updExtents ids) [] fun r =>
      let x := if a.op = 0x38 then r.applyInsert e.f i a bs else if a.op = 0x39 then r.applyDelete e.f i a bs
        else r.applyReplace e.f i a bs
      let r := match q.origin with
        | some _ => x.run.modFur e.f fun c => c.passUp e.f q x.back []
        | none => x.run.store e.f e.h e.core a.items.tier a.items.off x.back
      (r, x.ending a.n (r.slot e.f i).epoch)

/-- A shard's updates are applied in the order in which they started: none that started earlier still runs (R179). -/
def Furrow.updateTurn (c : Furrow) (i : SlotIx) (q : Request) : Bool :=
  (c.srch[i].users.takeWhile fun u => u != (q.order, q.idx)).all fun u =>
    !c.reqs.any fun x => x.order = u.1 && x.idx = u.2 && x.phase = Phase.running && opcodeOf x.desc != 0x3B && (updateShard x.desc).isSome

/-- An update goes on: on the slot's furrow the items are applied, on another one of a span their return is awaited. -/
def Run.updateDesc (r : Run s₀) (op : Byte) (f : FurrowIx) (h : Handle) (tag : Tag) : Run s₀ :=
  match (r.fur f).atWork h tag op with
  | none => r
  | some q =>
    match (r.fur f).slotNamed h (UpdDesc.of q.desc).shard false with
    | some i => if (r.fur f).updateTurn i q then let x := r.update (q.eng f) q i; x.1.engineEnds f h tag x.2 else r
    | none =>
      match r.updateRelay (q.eng f) q with
      | (r, some e) => r.engineEnds f h tag e
      | (r, none) => r

/-- INSERT (R179–R181, R184). -/
def execInsert (f : FurrowIx) (h : Handle) (tag : Tag) (s : State) : Host.Outcome State Fault Refusal :=
  ((Run.start s).updateDesc 0x38 f h tag).done

/-- DELETE (R181, R184). -/
def execDelete (f : FurrowIx) (h : Handle) (tag : Tag) (s : State) : Host.Outcome State Fault Refusal :=
  ((Run.start s).updateDesc 0x39 f h tag).done

/-- REPLACE (R181, R184). -/
def execReplace (f : FurrowIx) (h : Handle) (tag : Tag) (s : State) : Host.Outcome State Fault Refusal :=
  ((Run.start s).updateDesc 0x3A f h tag).done

/-! ### MERGE (R185–R187) -/

/-- The checks at fetch of a MERGE (Table 08-4, R192). -/
def fetchMerge (d : List Byte) : Option Refuse :=
  firstFail [reservedBits d 18 7 1, reservedBytes d 19 19, reservedBytes d 22 63,
    badIf (decide (df d 20 2 ≠ 0) && (decide (df d 20 2 < 8) || decide (256 < df d 20 2))) 20]

/-- Another MERGE on the shard is outstanding: it has started, or was fetched earlier, and its request's final record is not posted or its
run has not gone on (R55, R192, log 34). -/
def Furrow.mergeOn (c : Furrow) (shard : Nat) (q : Request) : Bool :=
  c.reqs.any fun x => x.order != q.order && (x.isStarted || decide (x.order < q.order)) &&
    (x.descs.drop x.idx).any fun d => opcodeOf d = 0x3B && updateShard d = some shard

/-- The checks of a MERGE when it starts (R191, R192). -/
def startMerge (c : Furrow) (h : Handle) (q : Request) : Option Refuse :=
  let shard := df q.desc 16 2
  badIf ((c.slotNamed h shard (decide (h = 0))).isNone || c.mergeOn shard q) 16

/-- The least snapshot held on a shard; EPOCH when none (Table 06-14). -/
def SearchSlot.snapOldest (t : SearchSlot) : W64 :=
  t.views.foldl (fun m v => if v.snapshot < m then v.snapshot else m) t.epoch

/-- A merge begins: the floor rises to the oldest snapshot, which it holds until its switch (R185), with its walks' storage (R162). -/
def SearchSlot.beginMerge (t : SearchSlot) (h : Handle) (tag : Tag) (room : Nat × Nat) : SearchSlot :=
  let f := t.snapOldest
  { t with floor := f, mergeRunning := true, views := t.views ++ [⟨h, tag, true, f, t.nodeCount, t.sideHead, t.sideTail, room⟩] }

/-- BEAM of a MERGE; 0 means 64 (Table 08-4). -/
def mergeBeam (d : List Byte) : Nat := if df d 20 2 = 0 then 64 else df d 20 2

/-- Room for the walks of a merge, one after another, in the units of the context that submitted it (R162). -/
def Furrow.mergeRoom (c : Furrow) (q : Request) : Option (Nat × Nat) :=
  (c.walkRooms q.h q.cluster [walkBytes (mergeBeam q.desc)]).bind (·.head?)

/-- A started MERGE begins its work at once, or waits under WAIT_DUE or for room (R162, R184, R185). -/
def Furrow.armMerge (c : Furrow) (q : Request) : Furrow :=
  match c.slotNamed q.h (df q.desc 16 2) (decide (q.h = 0)) with
  | none => c
  | some i =>
    let c := c.useSlot i q
    match if (df q.desc 18 1).testBit 0 && !c.srch[i].mergeDue then none else c.mergeRoom q with
    | none => c.modReq q.h q.tag fun q => { q with merge := some ⟨true⟩, uses := [] }
    | some x => { c with srch := c.srch.set i (c.srch[i].beginMerge q.h q.tag x) }.modReq q.h q.tag fun q => { q with merge := some ⟨false⟩ }

/-- The place of a started descriptor as the walker instance it occupies. -/
def Request.walkerUse (q : Request) : List EngUse := match q.place with | some (.core k) => [⟨.walk, k.val, 1⟩] | _ => []

/-- MERGE_WAKE (R162, R184, R185): MERGE_DUE is set, or was not waited for, there is room, and the waiting merge of the shard begins. -/
def execMergeWake (f : FurrowIx) (h : Handle) (tag : Tag) (s : State) : Host.Outcome State Fault Refusal :=
  ((Run.start s).modFur f fun c =>
    match c.request? h tag with
    | none => c
    | some q =>
      match c.slotNamed h (df q.desc 16 2) (decide (h = 0)) with
      | none => c
      | some i =>
        match if q.phase = Phase.running ∧ opcodeOf q.desc = 0x3B ∧ q.merge = some ⟨true⟩ ∧ (c.srch[i].mergeDue ∨ !(df q.desc 18 1).testBit 0)
          then c.mergeRoom q else none with
        | some x =>
          { c with srch := c.srch.set i (c.srch[i].beginMerge h tag x) }.modReq h tag fun q =>
            { q with merge := some ⟨false⟩, uses := q.walkerUse }
        | none => c).done

/-- The neighbour words of a record: the attribute slices of a facet word and a date key over index fields (R140). -/
def SearchSlot.words (t : SearchSlot) (facet date : Nat) (idx : List Nat) : List Byte :=
  let attr := facet + date * 2 ^ 64
  idx.zipIdx.flatMap fun p =>
    leBytes 4 (p.1 + (if p.2 < 96 / t.attrBits then (attr >>> (t.attrBits * p.2)) % 2 ^ t.attrBits else 0) * 2 ^ t.indexBits)

/-- A node record: code, neighbour entries, padding (R139). -/
def SearchSlot.record (t : SearchSlot) (code : List Byte) (facet date : Nat) (idx : List Nat) : List Byte :=
  bytesAt (code ++ t.words facet date idx) 0 t.recBytes

/-- The record of a node as it stands. -/
def Run.nodeRec (r : Run s₀) (f : FurrowIx) (t : SearchSlot) (n : Nat) : List Byte := r.shard f t (t.nodeAt n) t.recBytes

/-- A node is reclaimed (R142). -/
def Run.reclaimed (r : Run s₀) (f : FurrowIx) (t : SearchSlot) (n : Nat) : Bool := t.attr (r.nodeRec f t n) >>> 64 = reclaimedDate

/-- Replace the index field of neighbour entry j of a node with one aligned 4-byte write (R143). -/
def Run.setEdge (r : Run s₀) (f : FurrowIx) (t : SearchSlot) (n j v : Nat) : Run s₀ :=
  let a := t.nodeAt n + t.codeBytes + 4 * j
  let old := r.shardNat f t a 4
  r.putShard f t a (leBytes 4 (old / 2 ^ t.indexBits * 2 ^ t.indexBits + v))

/-- The neighbour indexes of a node as they stand. -/
def Run.edgesOf (r : Run s₀) (f : FurrowIx) (t : SearchSlot) (n : Nat) : List Nat := t.edges (r.nodeRec f t n)

/-- The code of a node. -/
def Run.codeOf (r : Run s₀) (f : FurrowIx) (t : SearchSlot) (n : Nat) : Nat := fieldAt (r.nodeRec f t n) 0 t.codeBytes

/-- The reverse edge from y to a new node (R185). -/
def Run.reverseEdge (r : Run s₀) (f : FurrowIx) (t : SearchSlot) (y node : Nat) : Run s₀ :=
  let es := (r.edgesOf f t y).zipIdx
  let empty := fun z => decide (z = t.ones) || decide (t.nodeCap.toNat ≤ z) || r.reclaimed f t z
  match es.find? fun p => empty p.1 with
  | some p => r.setEdge f t y p.2 node
  | none =>
    let code := r.codeOf f t y
    let dist := fun n => hamming (8 * t.codeBytes) code (r.codeOf f t n)
    let far := (es.map fun p => dist p.1).foldl max 0
    if dist node < far then
      let top := ((es.filter fun p => dist p.1 = far).map (·.1)).foldl max 0
      match es.find? fun p => p.1 = top && dist p.1 = far with
      | some p => r.setEdge f t y p.2 node
      | none => r
    else r

/-- The neighbours of a folded node: the nearest of its walk's candidates that are not tombstoned, by (distance, node). -/
def Run.newNeighbours (r : Run s₀) (f : FurrowIx) (t : SearchSlot) (w : Walk) : List Nat :=
  let live := w.cand.filter fun x => !r.tombed f t x.node
  ((sortBy (fun a b => decide (a.dist < b.dist) || (decide (a.dist = b.dist) && decide (a.node ≤ b.node))) live).map (·.node)).take t.deg

/-- Fold one side-list entry into the graph (R185); a walk may meet uncorrectable data. -/
def Run.fold1 (r : Run s₀) (f : FurrowIx) (i : SlotIx) (t : SearchSlot) (snap beam n : Nat) : Run s₀ × Option (Space × Nat × Nat) :=
  let x := r.shard f t (t.sideAt n) t.sideBytes
  let node := t.nodeOf (BitVec.ofNat 32 n)
  let code := bytesAt x 64 t.codeBytes
  if r.tombed f t node && !(r.deletesOf f t node).any fun d => decide (snap < d.2) then
    (r.putShard f t (t.nodeAt node) (t.record code (fieldAt x 16 8) reclaimedDate (List.replicate t.deg t.ones)), none)
  else
    let w := r.walk ⟨f, t, leNat code, node, snap, beam, 4096, 64 * t.deg⟩
    let r := r.modSlot f i fun t => { t with badEdges := sat t.badEdges w.badEdges }
    match w.bad with
    | some p => (r, some p)
    | none =>
      let ns := r.newNeighbours f t w
      let r := r.putShard f t (t.nodeAt node)
        (t.record code (fieldAt x 16 8) (fieldAt x 12 4) (ns ++ List.replicate (t.deg - ns.length) t.ones))
      (r.each ns fun r y => r.reverseEdge f t y node, none)

/-- The longest prefix of a list of free-running counts whose entries, at an address, have EPOCH ≤ a snapshot. -/
def Run.prefixTo (r : Run s₀) (f : FurrowIx) (t : SearchSlot) (at_ : Nat → Nat) (snap : Nat) (ns : List Nat) : List Nat :=
  ns.takeWhile fun n => decide (r.shardNat f t (at_ n) 8 ≤ snap)

/-- A node can take the place of a settled one: neither tombstoned nor reclaimed, and a node of the graph. -/
def Run.stands (r : Run s₀) (f : FurrowIx) (t : SearchSlot) (count n : Nat) : Bool :=
  decide (n < count) && !r.tombed f t n && !r.reclaimed f t n

/-- Entry-table words that name settled nodes move to a neighbour of theirs, each with a single 4-byte write (R147, R185). -/
def Run.repairEntries (r : Run s₀) (f : FurrowIx) (t : SearchSlot) (count : Nat) (settled : List Nat) : Run s₀ :=
  r.each (List.range 64) fun r i =>
    let a := baseOf t.entryBase + 4 * i
    let x := r.shardNat f t a 4 % 2 ^ t.indexBits
    if x ≠ t.ones ∧ x ∈ settled then
      match (r.edgesOf f t x).find? (r.stands f t count) with
      | some y => r.putShard f t a (leBytes 4 y)
      | none => r
    else r

/-- Edges of the graph that lead to settled nodes move to a neighbour of theirs, or become empty (R185). -/
def Run.repairEdges (r : Run s₀) (f : FurrowIx) (t : SearchSlot) (count : Nat) (settled : List Nat) : Run s₀ :=
  if settled.isEmpty then r
  else r.each (List.range t.nodeCount.toNat) fun r x => r.each (List.range t.deg) fun r j =>
    let es := r.edgesOf f t x
    let z := es.getD j t.ones
    if z ≠ t.ones ∧ z ∈ settled then
      match (r.edgesOf f t z).find? fun y => y ≠ x && !es.contains y && r.stands f t count y with
      | some y => r.setEdge f t x j y
      | none => r.setEdge f t x j t.ones
    else r

/-- After a switch the furrow reclaims the tombstoned nodes that no delete-log entry and no entry-table word names (R185, R186). -/
def Run.reclaim (r : Run s₀) (f : FurrowIx) (t : SearchSlot) : Run s₀ :=
  let table := r.entries f t
  r.each (List.range t.nodeCount.toNat) fun r n =>
    if r.tombed f t n && (r.deletesOf f t n).isEmpty && !table.contains n then
      let facet := t.attr (r.nodeRec f t n) % 2 ^ 64
      r.putShard f t (t.nodeAt n + t.codeBytes) (t.words facet reclaimedDate (List.replicate t.deg t.ones))
    else r

/-- What a merge reads besides its walks: the switch record, the entry table, the side list, the delete log and the bitmap, and
the node array when edges are to be repaired. -/
def SearchSlot.mergeExtents (t : SearchSlot) (repair : Bool) : List Extent :=
  [(2, baseOf t.entryBase, 320), (2, baseOf t.tombBase, ceilDiv (t.nodeOf t.sideTail) 8)] ++
    ((countsFrom t.sideHead t.sideTail).map fun n => (2, t.sideAt n, t.sideBytes)) ++
    ((countsFrom t.dlogHead t.dlogTail).map fun n => (2, t.dlogAt n, 16)) ++
    if repair then [(2, baseOf t.nodeBase, t.nodeCount.toNat * t.recBytes)] else []

/-- The merge itself under its held snapshot (R185): fold, settle, repair, switch, reclaim. The ending's COUNT is the entries
folded and its RESULT the new floor (Table 08-6). -/
def Run.mergeShard (r : Run s₀) (e : Eng) (i : SlotIx) (snap beam : Nat) : Run s₀ × Ending :=
  let t := r.slot e.f i
  let log := r.prefixTo e.f t t.dlogAt snap (countsFrom t.dlogHead t.dlogTail)
  r.readingOf e t.handle (t.mergeExtents (!log.isEmpty)) [] fun r =>
    let fold := r.prefixTo e.f t t.sideAt snap (countsFrom t.sideHead t.sideTail)
    let p := fold.foldl (fun (acc : Run s₀ × Option (Space × Nat × Nat)) n =>
      match acc.2 with
      | some _ => acc
      | none => acc.1.fold1 e.f i t snap beam n) (r, none)
    match p.2 with
    | some b => p.1.readFault e b
    | none =>
      let r := p.1
      let m := fold.length
      let settled := log.map fun n => r.shardNat e.f t (t.dlogAt n + 8) 4
      let count := t.nodeCount.toNat + m
      let r := (r.repairEntries e.f t count settled).repairEdges e.f t count settled
      let new := { (r.slot e.f i).releaseReq e.h e.tag with
        nodeCount := BitVec.ofNat 32 count
        sideHead := t.sideHead + BitVec.ofNat 32 m
        dlogHead := t.dlogHead + BitVec.ofNat 32 log.length
        mergeRunning := false }
      let r := r.commit e.f i new [] true
      (r.reclaim e.f (r.slot e.f i), Ending.ok (satCount m) new.floor.toNat)

/-- The view that a begun merge holds, and its slot. -/
def Furrow.mergeHeld (c : Furrow) (h : Handle) (tag : Tag) : Option (SlotIx × View) :=
  (List.finRange 8).findSome? fun (i : SlotIx) =>
    (c.srch[i].views.find? fun v => v.merge && v.h = h && v.tag = tag).map fun v => (i, v)

/-- Do a MERGE that has begun; one that still waits does nothing yet (R185). -/
def execMerge (f : FurrowIx) (h : Handle) (tag : Tag) (s : State) : Host.Outcome State Fault Refusal :=
  (match (s.furrow f).atWork h tag 0x3B, (s.furrow f).mergeHeld h tag with
   | some q, some (i, v) =>
     let p := (Run.start s).mergeShard (q.eng f) i v.snapshot.toNat (mergeBeam q.desc)
     ((p.1.fillRooms f h tag).modFur f fun c => { c with srch := c.srch.map fun (t : SearchSlot) => t.releaseReq h tag }).engineEnds f h tag p.2
   | _, _ => Run.start s).done

/-! ### SHARD_RESTORE (R190) -/

/-- The checks at fetch of a SHARD_RESTORE (Table 08-5). -/
def fetchShardRestore (d : List Byte) : Option Refuse := firstFail [reservedBytes d 17 63, badIf (decide (7 < df d 16 1)) 16]

/-- The slot a SHARD_RESTORE names. -/
def restoreSlot (d : List Byte) : SlotIx := ⟨df d 16 1 % 8, Nat.mod_lt _ (by decide)⟩

/-- The checks of a SHARD_RESTORE when it starts (R191, R192). -/
def startShardRestore (c : Furrow) (h : Handle) (d : List Byte) : Option Refuse :=
  let t := c.srch[restoreSlot d]
  badIf (t.state != .idle || c.ctx[h].role != .none || !(h = 0 || t.ownerIx = some h) ||
    !(match t.ownerIx with | some o => c.ctx[o].state = .ready || c.ctx[o].state = .member | none => false) ||
    !(c.hbmInside t.handle t.switchAt 64 && c.hbmInside t.handle (baseOf t.tombBase) t.tombBytes &&
      c.hbmInside t.handle (baseOf t.dlogBase) mib)) 16

/-- A structure of the HBM fails its own check: DATA_ERROR with an HBM_UE record at its address, whose byte 48 the spec leaves
open here (log 37). -/
def Run.checkFault (r : Run s₀) (e : Eng) (addr : Nat) : Run s₀ × Ending :=
  let p := r.free
  let rec_ := { errRec 0x04 2 (p.1.toNat % 256) with
    ctx := BitVec.ofNat 16 e.h.val, tag := e.tag, opcode := BitVec.ofNat 8 e.op, addr := BitVec.ofNat 64 addr,
    part := BitVec.ofNat 8 (addr / 4096 % 4) }
  let x := (p.2.fur e.f).dataError e rec_ 2
  (p.2.setFur e.f x.1, x.2)

/-- Do a SHARD_RESTORE (R190, R183). -/
def Run.shardRestore (r : Run s₀) (e : Eng) (i : SlotIx) : Run s₀ × Ending :=
  let t := r.slot e.f i
  let base := (r.fur e.f).hbmBase t.handle
  r.readingOf e t.handle [(2, t.switchAt, 64)] [] fun r =>
    let x := r.shard e.f t t.switchAt 64
    if fieldAt x 60 4 ≠ crc32c (x.take 60) ∨ fieldAt x 36 2 ≠ t.shardId.toNat then r.checkFault e (base + t.switchAt)
    else
      let log := countsFrom (BitVec.ofNat 32 (fieldAt x 28 4)) (BitVec.ofNat 32 (fieldAt x 32 4))
      r.readingOf e t.handle (log.map fun n => (2, t.dlogAt n, 16)) [] fun r =>
        let node := fun n => r.shardNat e.f t (t.dlogAt n + 8) 4
        match log.find? fun n => decide (t.nodeCap.toNat ≤ node n) with
        | some n => r.checkFault e (base + t.dlogAt n)
        | none =>
          let r := r.modSlot e.f i fun t =>
            { t with
              epoch := BitVec.ofNat 64 (fieldAt x 0 8), floor := BitVec.ofNat 64 (fieldAt x 8 8), restored := true
              nodeCount := BitVec.ofNat 32 (fieldAt x 16 4), sideHead := BitVec.ofNat 32 (fieldAt x 20 4)
              sideTail := BitVec.ofNat 32 (fieldAt x 24 4), dlogHead := BitVec.ofNat 32 (fieldAt x 28 4)
              dlogTail := BitVec.ofNat 32 (fieldAt x 32 4) }
          let r := r.each (log.map node) fun r n =>
            let a := baseOf t.tombBase + n / 8
            r.putShard e.f t a (leBytes 1 (r.shardNat e.f t a 1 ||| 1 <<< (n % 8)))
          (r, Ending.ok 0 (fieldAt x 0 8))

/-- SHARD_RESTORE (R190). -/
def execShardRestore (f : FurrowIx) (h : Handle) (tag : Tag) (s : State) : Host.Outcome State Fault Refusal :=
  runDesc 0x3C f h tag s fun q r => r.shardRestore (q.eng f) (restoreSlot q.desc)

end Sys2Proof.Machine
end

