-- ==== Sys2Proof/Machine/Winnow.lean ====
section
/-! DEFINITION. Winnow selection (chapter 09): keys, the selection contract, merging of partial lists, WNW_SELECT and WNW_MERGE. -/

namespace Sys2Proof.Machine

variable {s₀ : State}

/-! ### Keys (R197–R199) -/

/-- A key format (Table 09-1). -/
inductive KeyFmt
  | fp32 | fp16 | bf16 | int16 | int8 | u32
  deriving DecidableEq, Repr

/-- The key format of byte 50 of Table 09-5 (R197): U32 in bit 7 and a format code below; bits [6:4] are reserved. -/
def KeyFmt.ofByte (b : Nat) : Option KeyFmt :=
  if b.testBit 7 then (if b % 16 = 0 then some .u32 else none)
  else match b % 16 with
    | 0 => some .fp32 | 1 => some .fp16 | 2 => some .bf16 | 7 => some .int16 | 8 => some .int8 | _ => none

/-- The element format of a key format. -/
def KeyFmt.fmt : KeyFmt → Fmt
  | .fp32 => .fp32 | .fp16 => .fp16 | .bf16 => .bf16 | .int16 => .int16 | .int8 => .int8 | .u32 => .int32

/-- The value of bits. -/
def KeyFmt.value (t : KeyFmt) (b : Nat) : FVal := match t with | .u32 => .ofNat b | t => t.fmt.value b

/-- The key of a value's bits (Table 09-1). -/
def KeyFmt.key (t : KeyFmt) (b : Nat) : Nat :=
  let w := t.fmt.bits
  match t with
  | .u32 => b
  | .int16 | .int8 => b ^^^ 2 ^ (w - 1)
  | _ => if b = 2 ^ (w - 1) then 2 ^ (w - 1) else if b.testBit (w - 1) then b ^^^ (2 ^ w - 1) else b ||| 2 ^ (w - 1)

/-- The value of a padding entry (Table 09-2). -/
def KeyFmt.pad : KeyFmt → Nat
  | .fp32 => 0x7FC00000 | .fp16 => 0x7E00 | .bf16 => 0x7FC0 | _ => 0xFFFFFFFF

/-- Passes the format can need (R216). -/
def KeyFmt.passes : KeyFmt → Nat
  | .fp32 | .u32 => 4 | .fp16 | .bf16 | .int16 => 2 | .int8 => 1

/-! ### The selection contract (R200–R204) -/

/-- A valid input: its position and its bits, with what travels beside it. -/
structure Input where
  pos  : Nat
  bits : Nat
  tag  : List Byte

/-- What a selection returns. -/
structure Picked where
  sel  : List Input
  left : List Input
  fmt  : KeyFmt
  k    : Nat
  greatest : Bool

/-- The first K inputs by key in the direction, ties to the lower position; the inputs come in ascending position (R200, R201). -/
def select (t : KeyFmt) (k : Nat) (greatest : Bool) (xs : List Input) : Picked :=
  let ys := sortBy (fun a b => if greatest then decide (t.key b.bits ≤ t.key a.bits) else decide (t.key a.bits ≤ t.key b.bits)) xs
  ⟨ys.take k, ys.drop k, t, k, greatest⟩

/-- A binary64 sum over inputs in ascending position (R202). -/
def Picked.sum (t : KeyFmt) (xs : List Input) : Nat :=
  (laneSum64 ((sortBy (fun (a b : Input) => decide (a.pos ≤ b.pos)) xs).map fun x => (x.pos, t.value x.bits))).bits64

/-- KTH: the bits of the K-th selected entry, or the padding value (R203, R204). -/
def Picked.kth (p : Picked) : Nat := match p.sel[p.k - 1]? with | some x => x.bits | none => p.fmt.pad

/-- TIES_LEFT (R203). -/
def Picked.ties (p : Picked) : Nat :=
  match p.sel[p.k - 1]? with
  | some x => (p.left.filter fun y => p.fmt.key y.bits = p.fmt.key x.bits).length
  | none => 0

/-- The header of a result (Table 09-3). -/
def Picked.header (p : Picked) (upstream nan dup masked keyByte : Nat) : List Byte :=
  leBytes 4 p.sel.length ++ leBytes 4 p.k ++ leBytes 8 upstream ++ leBytes 8 (Picked.sum p.fmt p.sel) ++
    leBytes 8 (Picked.sum p.fmt p.left) ++ leBytes 4 p.ties ++ leBytes 4 nan ++ leBytes 4 dup ++ leBytes 4 masked ++
    leBytes 2 0xFFFF ++ leBytes 1 (64 * bit p.greatest + 2 * bit (decide (p.sel.length < p.k))) ++ leBytes 1 keyByte ++
    leBytes 4 p.kth ++ zeros 8

/-- Bytes of a result area with entries of w bytes (R209). -/
def resultBytes (k w : Nat) : Nat := align64 (64 + k * w)

/-! ### WNW_SELECT -/

/-- The fields of a WNW_SELECT (Table 09-5). -/
structure SelDesc where
  v : TRef
  out : TRef
  mask : TRef
  n : Nat
  k : Nat
  rows : Nat
  keyByte : Nat
  maskEn : Bool
  greatest : Bool
  scope : Nat
  cluster : Nat

/-- The fields that a descriptor's bytes hold. -/
def SelDesc.of (d : List Byte) : SelDesc :=
  ⟨tref d 16, tref d 24, tref d 32, bitsOf (df d 40 4) 23 0, bitsOf (df d 44 4) 16 0, df d 48 2, df d 50 1, (df d 51 1).testBit 1,
   (df d 51 1).testBit 0, bitsOf (df d 52 1) 4 3, bitsOf (df d 52 1) 2 0⟩

/-- The key format, for a descriptor whose checks have passed. -/
def SelDesc.fmt (a : SelDesc) : KeyFmt := (KeyFmt.ofByte a.keyByte).getD .fp32

/-- The values as a tensor. -/
def SelDesc.tv (a : SelDesc) : Tensor := ⟨a.v, a.fmt.fmt, a.rows, a.n, false⟩

/-- P: bytes from one mask row to the next at STRIDE 0. -/
def SelDesc.maskRow (a : SelDesc) : Nat := align64 (ceilDiv a.n 8)

/-- The pitch of the mask rows. -/
def SelDesc.maskPitch (a : SelDesc) : Nat := if a.mask.stride = 0 then a.maskRow else a.mask.stride

/-- Bytes of the mask from its first to its last. -/
def SelDesc.maskBytes (a : SelDesc) : Nat := (a.rows - 1) * a.maskPitch + ceilDiv a.n 8

/-- Bytes of all result areas. -/
def SelDesc.outBytes (a : SelDesc) : Nat := a.rows * resultBytes a.k 8

/-- The checks of a WNW_SELECT at fetch (R212). -/
def fetchWnwSelect (c : Furrow) (h : Handle) (d : List Byte) : Option Refuse :=
  let a := SelDesc.of d
  firstFail [reservedBytes d 43 43, reservedField d 44 4 31 17, reservedBits d 50 6 4, reservedBits d 51 7 2, reservedBits d 52 7 5,
    reservedBytes d 53 63,
    c.tensorCheck h a.v a.tv.bytes 16 a.scope,
    c.refCheck h a.out a.outBytes 24 [1, 2],
    badIf (a.out.overlap a.outBytes a.v a.tv.bytes || (a.maskEn && a.out.overlap a.outBytes a.mask a.maskBytes)) 24,
    if a.maskEn then c.tensorCheck h a.mask a.maskBytes 32 a.scope else none,
    badIf (a.maskEn && decide (a.maskPitch < a.maskRow)) 32,
    badIf (decide (a.n = 0)) 40, badIf (decide (a.k = 0) || decide (65536 < a.k)) 44, badIf (decide (a.rows = 0)) 48,
    badIf (KeyFmt.ofByte a.keyByte).isNone 50, c.scopeCheck h a.scope a.cluster 52 52]

/-- A WNW_SELECT is an operation of one furrow (R212). -/
def startWnwSelect (c : Furrow) (h : Handle) : Option Refuse := badIf (c.ctx[h].role != .none) 0

/-- Cycles of a row or merge over n inputs (R216). -/
def winnowCycles (t : KeyFmt) (n cores k : Nat) : Nat := (t.passes + 2) * ceilDiv n (64 * cores) + 256 * t.passes + 2 * k + 9

/-- The estimate of a WNW_SELECT (R216). -/
def costWnwSelect (c : Furrow) (d : List Byte) : Cost :=
  let a := SelDesc.of d
  .flat (cyclesNs (a.rows * winnowCycles a.fmt a.n (c.scopeSize a.scope a.cluster) a.k))

/-- One row's selection, with its NaN inputs and its masked ones counted. -/
def Run.selectRow (r : Run s₀) (e : Eng) (a : SelDesc) (row : Nat) : Picked × Nat × Nat :=
  let t := a.fmt
  let open_ := fun (i : Nat) => !a.maskEn ||
    (r.loadNat e.f e.h e.core a.mask.tier (a.mask.off + row * a.maskPitch + i / 8) 1).testBit (i % 8)
  let live := (List.range a.n).filter open_
  let ins := live.map fun i => (⟨i, r.code e a.tv row i, []⟩ : Input)
  let valid := ins.filter fun x => !(t.value x.bits).isNan
  (select t a.k a.greatest valid, ins.length - valid.length, a.n - live.length)

/-- The entries of a selection: those selected, then padding (Table 09-4, R204). -/
def Picked.entries (p : Picked) : List Byte :=
  (p.sel.flatMap fun x => leBytes 4 x.pos ++ leBytes 4 x.bits) ++
    (List.replicate (p.k - p.sel.length) (leBytes 4 0xFFFFFFFF ++ leBytes 4 p.fmt.pad)).flatten

/-- The ending of the selection family (R215). -/
def winnowEnding (rows valid nan : Nat) (out : Nat) (short : Bool) : Ending :=
  let e := Ending.ok rows out
  if short then { e with status := Status.doneShort, detail := BitVec.ofNat 64 (sat32 valid + 2 ^ 32 * sat32 nan) } else e

/-- Do a WNW_SELECT (R201–R204, R215). -/
def Run.wnwSelect (r : Run s₀) (e : Eng) (d : List Byte) : Run s₀ × Ending :=
  let a := SelDesc.of d
  r.reading e (a.tv.extents 1 ++ if a.maskEn then [(a.mask.tier, a.mask.off, a.maskBytes)] else []) [(a.out.tier, a.out.off, a.outBytes)]
    fun r =>
      let ps := (List.range a.rows).map fun i => r.selectRow e a i
      let r := r.each ps.zipIdx fun r p =>
        r.store e.f e.h e.core a.out.tier (a.out.off + p.2 * resultBytes a.k 8)
          (bytesAt (p.1.1.header 0 p.1.2.1 0 p.1.2.2 a.keyByte ++ p.1.1.entries) 0 (64 + 8 * a.k))
      (r, winnowEnding a.rows (sumOf (ps.map fun p => p.1.sel.length)) (sumOf (ps.map fun p => p.2.1)) (df d 24 8)
        (ps.any fun p => decide (p.1.sel.length < a.k)))

/-- WNW_SELECT (R201). -/
def execWnwSelect (f : FurrowIx) (h : Handle) (tag : Tag) (s : State) : Host.Outcome State Fault Refusal :=
  runDesc 0x40 f h tag s fun q r => r.wnwSelect (q.eng f) q.desc

/-! ### WNW_MERGE -/

/-- The fields of a WNW_MERGE (Table 09-6). -/
structure MergeDesc where
  lists : TRef
  out : TRef
  work : TRef
  area : Nat
  k : Nat
  nlists : Nat
  listK : Nat
  keyByte : Nat
  greatest : Bool
  scope : Nat
  cluster : Nat

/-- The fields that a descriptor's bytes hold. -/
def MergeDesc.of (d : List Byte) : MergeDesc :=
  ⟨tref d 16, tref d 24, tref d 32, df d 40 4, bitsOf (df d 44 4) 16 0, df d 48 2, df d 50 2, df d 52 1, (df d 53 1).testBit 0,
   bitsOf (df d 54 1) 4 3, bitsOf (df d 54 1) 2 0⟩

/-- The key format, for a descriptor whose checks have passed. -/
def MergeDesc.fmt (a : MergeDesc) : KeyFmt := (KeyFmt.ofByte a.keyByte).getD .fp32

/-- Bytes of the lists of one furrow. -/
def MergeDesc.listBytes (a : MergeDesc) : Nat := (a.nlists - 1) * a.area + 64 + 16 * a.listK

/-- The list areas of one furrow, without the gaps between them. -/
def MergeDesc.areas (a : MergeDesc) : List Extent :=
  (List.range a.nlists).map fun j => (a.lists.tier, a.lists.off + j * a.area, 64 + 16 * a.listK)

/-- Bytes of the work area (R211). -/
def MergeDesc.workBytes (a : MergeDesc) (furrows : Nat) : Nat := ceilDiv (32 * a.nlists * a.listK * furrows) 4096 * 4096

/-- The checks of OUT and WORK of a merge over some furrows (R211, R212). -/
def MergeDesc.rootCheck (a : MergeDesc) (c : Furrow) (h : Handle) (furrows : Nat) : Option Refuse :=
  let ob := resultBytes a.k 16
  let wb := a.workBytes furrows
  firstFail [c.refCheck h a.out ob 24 [1, 2],
    badIf (a.out.overlap ob a.lists a.listBytes || a.out.overlap ob a.work wb) 24,
    c.refCheck h a.work wb 32 [1, 2], badIf (a.work.overlap wb a.lists a.listBytes) 32]

/-- The checks of a WNW_MERGE at fetch (R212). -/
def fetchWnwMerge (c : Furrow) (h : Handle) (d : List Byte) : Option Refuse :=
  let a := MergeDesc.of d
  firstFail [reservedField d 44 4 31 17, reservedBits d 52 6 4, reservedBits d 53 7 1, reservedBits d 54 7 5, reservedBytes d 55 63,
    c.refCheck h a.lists a.listBytes 16 [1, 2], a.rootCheck c h 1,
    badIf (decide (a.area % 64 ≠ 0) || decide (a.area < 64 + 16 * a.listK)) 40,
    badIf (decide (a.k = 0) || decide (65536 < a.k)) 44, badIf (decide (a.nlists = 0) || decide (256 < a.nlists)) 48,
    badIf (decide (a.listK = 0) || decide (16384 < a.listK)) 50, badIf (KeyFmt.ofByte a.keyByte).isNone 52,
    c.scopeCheck h a.scope a.cluster 54 54]

/-- The checks of a WNW_MERGE when it starts: on a span a member checks its list areas, and the root the work area of every
furrow's lists (R211, R212). -/
def startWnwMerge (c : Furrow) (h : Handle) (q : Request) : Option Refuse :=
  let a := MergeDesc.of q.desc
  if q.origin.isSome then c.refCheck h a.lists a.listBytes 16 [1, 2] else a.rootCheck c h (c.spanFurrows h)

/-- The estimate of a WNW_MERGE (R216). -/
def costWnwMerge (c : Furrow) (h : Handle) (d : List Byte) : Cost :=
  let a := MergeDesc.of d
  .flat (cyclesNs (winnowCycles a.fmt (a.nlists * a.listK * c.spanFurrows h) (c.scopeSize a.scope a.cluster) a.k))

/-- ns of a selection's key pass on this furrow, charged as VECTOR (R215, R216): one of its passes over the inputs; a span's member only
passes its lists up. -/
def Furrow.keyPassNs (c : Furrow) (q : Request) : Nat :=
  let d := q.desc
  match (opcodeOf d).toNat with
  | 0x40 => let a := SelDesc.of d; cyclesNs (a.rows * ceilDiv a.n (64 * c.scopeSize a.scope a.cluster))
  | 0x41 =>
    let a := MergeDesc.of d
    if q.origin.isSome then 0 else cyclesNs (ceilDiv (a.nlists * a.listK * c.spanFurrows q.h) (64 * c.scopeSize a.scope a.cluster))
  | _ => 0

/-- A partial list: SHARD, the member it comes from, its number, SUM_LEFT, and its entries. -/
structure PartList where
  shard   : Nat
  member  : Nat
  j       : Nat
  sumLeft : Nat
  entries : List (List Byte)

/-- The three header fields and the valid entries of a furrow's lists, as bytes in a row (R205, R381). -/
def Run.listBytes (r : Run s₀) (e : Eng) (a : MergeDesc) : List Byte :=
  (List.range a.nlists).flatMap fun j =>
    let at_ := a.lists.off + j * a.area
    let valid := min (r.loadNat e.f e.h e.core a.lists.tier at_ 4) a.listK
    leBytes 4 valid ++ r.load e.f e.h e.core a.lists.tier (at_ + 24) 8 ++ r.load e.f e.h e.core a.lists.tier (at_ + 48) 2 ++
      r.load e.f e.h e.core a.lists.tier (at_ + 64) (16 * valid)

/-- The lists that such bytes hold. -/
def parseLists (member : Nat) : Nat → Nat → List Byte → List PartList
  | 0, _, _ => []
  | k + 1, j, bs =>
    let n := fieldAt bs 0 4
    ⟨fieldAt bs 12 2, member, j, fieldAt bs 4 8, (List.range n).map fun i => bytesAt bs (14 + 16 * i) 16⟩ ::
      parseLists member k (j + 1) (bs.drop (14 + 16 * n))

/-- Canonical order (R205). -/
def PartList.le (x y : PartList) : Bool :=
  decide (x.shard < y.shard) || (decide (x.shard = y.shard) && (decide (x.member < y.member) ||
    (decide (x.member = y.member) && decide (x.j ≤ y.j))))

/-- The state of R206's loop: kept entries by passage in ascending position, and the counts. -/
structure Dedup where
  kept    : List (Nat × Input)
  dup     : Nat
  skipped : Nat
  nan     : Nat

/-- One entry of the canonical sequence (R206). -/
def Dedup.step (t : KeyFmt) (greatest : Bool) (x : Dedup) (p : List Byte × Nat) : Dedup :=
  let passage := fieldAt p.1 0 5
  let bits := fieldAt p.1 8 4 % 2 ^ t.fmt.bits
  if passage = 0xFFFFFFFFFF then { x with skipped := x.skipped + 1 }
  else if (t.value bits).isNan then { x with nan := x.nan + 1 }
  else match x.kept.find? fun y => y.1 = passage with
    | none => { x with kept := x.kept ++ [(passage, ⟨p.2, bits, p.1⟩)] }
    | some b =>
      let better := if greatest then decide (t.key b.2.bits < t.key bits) else decide (t.key bits < t.key b.2.bits)
      { x with
        dup := x.dup + 1
        kept := if better then x.kept.filter (fun y => y.1 ≠ passage) ++ [(passage, ⟨p.2, bits, p.1⟩)] else x.kept }

/-- The bytes of a merge's result area: header, selected entries with their values, padding (R206, R207, R209). -/
def mergeResult (a : MergeDesc) (lists : List PartList) : Picked × Nat × List Byte :=
  let t := a.fmt
  let ls := sortBy PartList.le lists
  let x := (ls.flatMap (·.entries)).zipIdx.foldl (fun (x : Dedup) p => x.step t a.greatest p) ⟨[], 0, 0, 0⟩
  let p := select t a.k a.greatest (sortBy (fun (a b : Input) => decide (a.pos ≤ b.pos)) (x.kept.map (·.2)))
  let up := (ls.foldl (fun acc l => add64 acc (f64 l.sumLeft)) FVal.zero).bits64
  (p, x.nan, p.header up x.nan x.dup x.skipped a.keyByte ++
    (p.sel.flatMap fun i => bytesAt i.tag 0 8 ++ leBytes 4 i.bits ++ bytesAt i.tag 12 4) ++
    (List.replicate (p.k - p.sel.length) (listEntry 0xFFFFFFFFFF 0xFF 0xFFFF t.pad 0xFFFFFFFF)).flatten)

/-- Do a WNW_MERGE; on a span the contributions from below have arrived (R208, R381). -/
def Run.wnwMerge (r : Run s₀) (e : Eng) (q : Request) (rest : List (Nat × List Byte)) : Run s₀ × Ending :=
  let a := MergeDesc.of q.desc
  let isRoot := q.origin.isNone
  let outs : List Extent := if isRoot then [(a.out.tier, a.out.off, resultBytes a.k 16),
    (a.work.tier, a.work.off, a.workBytes ((r.fur e.f).spanFurrows e.h))] else []
  r.reading e (a.areas) outs fun r =>
    let own := r.listBytes e a
    if isRoot then
      let lists := ((0, own) :: rest).flatMap fun p => parseLists p.1 a.nlists 0 p.2
      let x := mergeResult a lists
      let r := r.store e.f e.h e.core a.out.tier a.out.off x.2.2
      let r := r.each (outs.drop 1) fun r y => r.scribble e y
      (r, winnowEnding 1 x.1.sel.length x.2.1 (df q.desc 24 8) (decide (x.1.sel.length < a.k)))
    else (r.modFur e.f fun c => c.passUp e.f q own rest, Ending.ok 0 0)

/-- A merge goes on: a furrow that has members below it waits for their contributions (R208). -/
def Run.mergeDesc (r : Run s₀) (f : FurrowIx) (h : Handle) (tag : Tag) : Run s₀ :=
  match (r.fur f).atWork h tag 0x41 with
  | none => r
  | some q =>
    match (r.fur f).piecesBelow q with
    | none => r
    | some rest => let p := r.wnwMerge (q.eng f) q rest; p.1.engineEnds f h tag p.2

/-- WNW_MERGE (R206, R208). -/
def execWnwMerge (f : FurrowIx) (h : Handle) (tag : Tag) (s : State) : Host.Outcome State Fault Refusal :=
  ((Run.start s).mergeDesc f h tag).done

end Sys2Proof.Machine
end

