-- ==== Sys2Proof/Machine/Text.lean ====
section
/-! DEFINITION. The text engine (chapter 11), first half: tokenizer images and their checks, TXT_LOAD and TXT_UNLOAD, tokenizing,
detokenizing, and their streams. -/

namespace Sys2Proof.Machine

variable {s₀ : State}

/-! ### Tokenizer images (R240, Tables 11-1 and 11-2) -/

/-- A tokenizer image as its bytes. -/
abbrev TokImage := List Byte

namespace TokImage

/-- VOCAB. -/
def vocab (g : TokImage) : Nat := fieldAt g 4 4
/-- NMERGE. -/
def nMerge (g : TokImage) : Nat := fieldAt g 8 4
/-- NCTRL. -/
def nCtrl (g : TokImage) : Nat := fieldAt g 12 2
/-- NCLASS. -/
def nClass (g : TokImage) : Nat := fieldAt g 14 1
/-- NSPLIT. -/
def nSplit (g : TokImage) : Nat := fieldAt g 15 1
/-- NRANGE. -/
def nRange (g : TokImage) : Nat := fieldAt g 16 4
/-- MAXLEN. -/
def maxLen (g : TokImage) : Nat := fieldAt g 20 2
/-- TOTAL. -/
def total (g : TokImage) : Nat := fieldAt g 52 4
/-- The offset of array i in the order of Table 11-1: byte tokens, merges, string index, string bytes, controls, ranges, pre-split. -/
def arr (g : TokImage) (i : Nat) : Nat := fieldAt g (24 + 4 * i) 4

/-- Bytes of an array other than the string bytes. -/
def fixedSize (g : TokImage) (i : Nat) : Nat :=
  match i with
  | 0 => 1024 | 1 => 12 * g.nMerge | 2 => 8 * g.vocab | 4 => 4 * g.nCtrl | 5 => 8 * g.nRange | 6 => 2 * g.nSplit * g.nClass | _ => 0

/-- The string bytes extend to the next array of non-zero length above them, or to TOTAL (R240). -/
def strSize (g : TokImage) : Nat :=
  let ends := ((List.range 7).filter fun i => i ≠ 3 && decide (0 < g.fixedSize i) && decide (g.arr 3 < g.arr i)).map g.arr
  (ends.foldl min g.total) - g.arr 3

/-- Bytes of an array. -/
def size (g : TokImage) (i : Nat) : Nat := if i = 3 then g.strSize else g.fixedSize i

/-- The identifier of the one-byte string b. -/
def byteTok (g : TokImage) (b : Nat) : Nat := fieldAt g (g.arr 0 + 4 * b) 4

/-- LEFT, RIGHT and RESULT of a merge. -/
def merge (g : TokImage) (i : Nat) : Nat × Nat × Nat :=
  let a := g.arr 1 + 12 * i
  (fieldAt g a 4, fieldAt g (a + 4) 4, fieldAt g (a + 8) 4)

/-- The string of a token. -/
def str (g : TokImage) (t : Nat) : List Byte := bytesAt g (g.arr 3 + fieldAt g (g.arr 2 + 8 * t) 4) (fieldAt g (g.arr 2 + 8 * t + 4) 2)

/-- The control identifiers. -/
def controls (g : TokImage) : List Nat := (List.range g.nCtrl).map fun i => fieldAt g (g.arr 4 + 4 * i) 4

/-- A pre-split entry: next state and break. -/
def split (g : TokImage) (s c : Nat) : Nat × Bool :=
  let x := fieldAt g (g.arr 6 + 2 * (s * g.nClass + c)) 2
  (x % 256, x.testBit 8)

/-- The class of a code point: that of the range holding it, or 1 (R245). -/
def classOf (g : TokImage) (cp : Nat) : Nat :=
  match (List.range g.nRange).find? fun i =>
      decide (bitsOf (fieldAt g (g.arr 5 + 8 * i) 4) 20 0 ≤ cp) && decide (cp ≤ bitsOf (fieldAt g (g.arr 5 + 8 * i + 4) 4) 20 0) with
  | some i => bitsOf (fieldAt g (g.arr 5 + 8 * i) 4) 31 26
  | none => 1

/-! ### The checks of Table 11-3: each gives the image offset of its first failing item (log 38) -/

/-- The offset of a failing item, when it fails. -/
def failAt (bad : Bool) (at_ : Nat) : Option Nat := if bad then some at_ else none

/-- The first failure of a list. -/
def firstAt (xs : List (Option Nat)) : Option Nat := xs.findSome? id

/-- 0x01: header fields. -/
def check01 (g : TokImage) : Option Nat :=
  firstAt ([failAt (decide (fieldAt g 0 2 ≠ 1)) 0, failAt (decide (fieldAt g 2 2 ≠ 0)) 2,
    failAt (decide (g.vocab < 256) || decide (262144 < g.vocab)) 4, failAt (decide (262144 < g.nMerge)) 8,
    failAt (decide (1024 < g.nCtrl)) 12, failAt (decide (g.nClass < 2) || decide (64 < g.nClass)) 14,
    failAt (decide (g.nSplit = 0)) 15, failAt (decide (65536 < g.nRange)) 16,
    failAt (decide (g.maxLen = 0) || decide (1024 < g.maxLen)) 20, failAt (decide (fieldAt g 22 2 ≠ 0)) 22,
    failAt (decide (fieldAt g 56 8 ≠ 0)) 56] ++ (List.range 7).map fun i => failAt (decide (g.arr i % 4 ≠ 0)) (24 + 4 * i))

/-- 0x02: the arrays' places, with TOTAL in the context's region. An array of no bytes begins nowhere, but not above TOTAL. -/
def check02 (g : TokImage) (fits : Bool) : Option Nat :=
  let live := (List.range 7).filter fun i => decide (0 < g.size i)
  firstAt (failAt (!fits) 52 ::
    ((List.range 7).map fun i => failAt (decide (g.total < g.arr i + g.size i) || (decide (0 < g.size i) && decide (g.arr i < 64))) (24 + 4 * i)) ++
    live.map fun i => failAt (live.any fun j => decide (j < i) && overlaps (g.arr i) (g.size i) (g.arr j) (g.size j)) (24 + 4 * i))

/-- 0x03: byte tokens. -/
def check03 (g : TokImage) : Option Nat :=
  firstAt ((List.range 256).map fun b => failAt (decide (g.vocab ≤ g.byteTok b) ||
    ((List.range b).any fun a => g.byteTok a = g.byteTok b) || decide (g.str (g.byteTok b) ≠ [BitVec.ofNat 8 b])) (g.arr 0 + 4 * b))

/-- 0x04: identifiers of merges. -/
def check04 (g : TokImage) : Option Nat :=
  firstAt ((List.range (3 * g.nMerge)).map fun i => failAt (decide (g.vocab ≤ fieldAt g (g.arr 1 + 4 * i) 4)) (g.arr 1 + 4 * i))

/-- 0x05: no two merges of one pair. -/
def check05 (g : TokImage) : Option Nat :=
  firstAt ((List.range g.nMerge).map fun i => failAt ((List.range i).any fun j =>
    (g.merge j).1 = (g.merge i).1 && (g.merge j).2.1 = (g.merge i).2.1) (g.arr 1 + 12 * i))

/-- 0x06: a RESULT spells LEFT and RIGHT. -/
def check06 (g : TokImage) : Option Nat :=
  firstAt ((List.range g.nMerge).map fun i =>
    let (l, r, x) := g.merge i
    failAt (decide (g.str x ≠ g.str l ++ g.str r)) (g.arr 1 + 12 * i + 8))

/-- A token is a byte token or the RESULT of a merge. -/
def made (g : TokImage) (t : Nat) : Bool :=
  ((List.range 256).any fun b => g.byteTok b = t) || (List.range g.nMerge).any fun i => (g.merge i).2.2 = t

/-- 0x07: controls. -/
def check07 (g : TokImage) : Option Nat :=
  firstAt (g.controls.zipIdx.map fun p => failAt (decide (g.vocab ≤ p.1) || (g.controls.take p.2).contains p.1 || g.made p.1) (g.arr 4 + 4 * p.2))

/-- 0x08: the string index. -/
def check08 (g : TokImage) : Option Nat :=
  firstAt ((List.range g.vocab).map fun t =>
    let a := g.arr 2 + 8 * t
    let n := fieldAt g (a + 4) 2
    failAt (decide (fieldAt g (a + 6) 2 ≠ 0) || decide (g.strSize < fieldAt g a 4 + n) ||
      ((g.made t || g.controls.contains t) && (decide (n = 0) || decide (g.maxLen < n)))) a)

/-- 0x09: class ranges. -/
def check09 (g : TokImage) : Option Nat :=
  firstAt ((List.range g.nRange).map fun i =>
    let a := g.arr 5 + 8 * i
    let x := fieldAt g a 4
    let y := fieldAt g (a + 4) 4
    failAt (decide (bitsOf x 25 21 ≠ 0) || decide (bitsOf y 31 21 ≠ 0) || decide (bitsOf y 20 0 < bitsOf x 20 0) ||
      decide (0x10FFFF < bitsOf x 20 0) || decide (bitsOf x 31 26 = 0) || decide (g.nClass ≤ bitsOf x 31 26) ||
      (decide (0 < i) && decide (bitsOf x 20 0 ≤ bitsOf (fieldAt g (a - 4) 4) 20 0))) a)

/-- 0x0A: the pre-split table. -/
def check0A (g : TokImage) : Option Nat :=
  firstAt ((List.range (g.nSplit * g.nClass)).map fun i =>
    let x := fieldAt g (g.arr 6 + 2 * i) 2
    failAt (decide (g.nSplit ≤ x % 256) || decide (bitsOf x 15 9 ≠ 0)) (g.arr 6 + 2 * i))

/-- The image checks in order: the code and the offset of the first failure. -/
def check (g : TokImage) (fits : Bool) : Option (Nat × Nat) :=
  let c := fun (code : Nat) (x : Option Nat) => x.map fun a => (code, a)
  match c 1 g.check01, c 2 (g.check02 fits) with
  | some x, _ => some x
  | none, some x => some x
  | none, none => [c 3 g.check03, c 4 g.check04, c 5 g.check05, c 6 g.check06, c 7 g.check07, c 8 g.check08, c 9 g.check09,
      c 10 g.check0A].findSome? id

end TokImage

/-! ### Characters (R244) -/

/-- lead(b) of R244. -/
def leadOf (b : Byte) : Nat :=
  let x := b.toNat
  if x < 0x80 then 1 else if 0xC2 ≤ x ∧ x ≤ 0xDF then 2 else if 0xE0 ≤ x ∧ x ≤ 0xEF then 3 else if 0xF0 ≤ x ∧ x ≤ 0xF4 then 4 else 0

/-- A valid continuation byte for a position after a first byte. -/
def continues (first : Byte) (pos : Nat) (x : Byte) : Bool :=
  let lo := if pos = 1 ∧ first = 0xE0 then 0xA0 else if pos = 1 ∧ first = 0xF0 then 0x90 else 0x80
  let hi := if pos = 1 ∧ first = 0xED then 0x9F else if pos = 1 ∧ first = 0xF4 then 0x8F else 0xBF
  decide (lo ≤ x.toNat) && decide (x.toNat ≤ hi)

/-- An event of the decoder. -/
inductive TextEvent
  | char (bs : List Byte)
  | invalid (b : Byte)

/-- feed(x) with nothing held: events, and what is held then. -/
def feedFresh (x : Byte) : List TextEvent × List Byte :=
  match leadOf x with
  | 1 => ([.char [x]], [])
  | 0 => ([.invalid x], [])
  | _ => ([], [x])

/-- feed(x) of R244. -/
def feed (held : List Byte) (x : Byte) : List TextEvent × List Byte :=
  match held with
  | [] => feedFresh x
  | b :: _ =>
    if continues b held.length x then
      (if held.length + 1 = leadOf b then ([.char (held ++ [x])], []) else ([], held ++ [x]))
    else (held.map .invalid ++ (feedFresh x).1, (feedFresh x).2)

/-- The code point of a well-formed sequence. -/
def codePoint (bs : List Byte) : Nat :=
  match bs with
  | [] => 0
  | b :: rest =>
    let top := match bs.length with | 1 => b.toNat % 128 | 2 => b.toNat % 32 | 3 => b.toNat % 16 | _ => b.toNat % 8
    rest.foldl (fun acc x => acc * 64 + x.toNat % 64) top

/-! ### Chunks and merges (R245, R246) -/

/-- The tokenizer at work: held bytes, open chunk, pre-split state, trust of the open text, and the tokens emitted. -/
structure TokState where
  held    : List Byte
  chunk   : List Byte
  split   : Nat
  trust   : Bool
  out     : List Nat

/-- A fresh tokenizer. -/
def TokState.fresh : TokState := ⟨[], [], 0, false, []⟩

/-- The merge of a pair with its rank. -/
def TokImage.mergeOf (g : TokImage) (l r : Nat) : Option (Nat × Nat) :=
  ((List.range g.nMerge).find? fun i => (g.merge i).1 = l && (g.merge i).2.1 = r).map fun i => (i, (g.merge i).2.2)

/-- The leftmost pair of lowest rank: rank, position, result. -/
def TokImage.bestPair (g : TokImage) (t : List Nat) : Option (Nat × Nat × Nat) :=
  (List.zip t (t.drop 1)).zipIdx.foldl (fun best p =>
    match g.mergeOf p.1.1 p.1.2, best with
    | none, b => b
    | some (k, x), none => some (k, p.2, x)
    | some (k, x), some (k', i', x') => if k < k' then some (k, p.2, x) else some (k', i', x')) none

/-- Merge until no pair merges; each merge shortens the list. -/
def TokImage.bpe (g : TokImage) : Nat → List Nat → List Nat
  | 0, t => t
  | k + 1, t =>
    match g.bestPair t with
    | none => t
    | some (_, i, x) => g.bpe k (t.take i ++ [x] ++ t.drop (i + 2))

/-- close() of R245. -/
def TokState.close (g : TokImage) (x : TokState) : TokState :=
  if x.chunk.isEmpty then x
  else { x with out := x.out ++ g.bpe x.chunk.length (x.chunk.map fun b => g.byteTok b.toNat), chunk := [] }

/-- An event of the decoder in the tokenizer. -/
def TokState.event (g : TokImage) (x : TokState) (ev : TextEvent) : TokState :=
  match ev with
  | .invalid b =>
    let x := x.close g
    { x with out := x.out ++ [g.byteTok b.toNat], split := 0 }
  | .char bs =>
    let (next, brk) := g.split x.split (g.classOf (codePoint bs))
    let x := if !x.chunk.isEmpty && (brk || decide (1024 < x.chunk.length + bs.length)) then x.close g else x
    { x with chunk := x.chunk ++ bs, split := next }

/-- flush() of R245. -/
def TokState.flush (g : TokImage) (x : TokState) : TokState :=
  let x := x.held.foldl (fun x b => x.event g (.invalid b)) x
  { ({ x with held := [] }.close g) with split := 0 }

/-- The longest control whose spelling begins a buffer; among equal spellings the first listed. -/
def TokImage.control (g : TokImage) (buf : List Byte) : Option Nat :=
  g.controls.foldl (fun best c =>
    let n := (g.str c).length
    if n = 0 ∨ buf.take n ≠ g.str c then best
    else match best with
      | none => some c
      | some b => if (g.str b).length < n then some c else some b) none

/-- One byte of input. -/
def TokState.byte (g : TokImage) (x : TokState) (b : Byte) : TokState :=
  let (evs, held) := feed x.held b
  let x := evs.foldl (fun x ev => x.event g ev) { x with held := [] }
  { x with held := held }

/-- The loop of R245 over a buffer; the fuel is its length. -/
def TokState.loop (g : TokImage) (trusted : Bool) : Nat → TokState → List Byte → TokState
  | 0, x, _ => x
  | k + 1, x, buf =>
    match buf with
    | [] => x
    | b :: rest =>
      match if trusted && x.held.isEmpty then g.control buf else none with
      | some c =>
        let x := x.close g
        TokState.loop g trusted k { x with out := x.out ++ [c], split := 0 } (buf.drop (g.str c).length)
      | none => TokState.loop g trusted k (x.byte g b) rest

/-- tokenize(buf, trusted, final) of R245. -/
def TokState.tokenize (g : TokImage) (x : TokState) (buf : List Byte) (trusted final : Bool) : TokState :=
  let x := if (!x.chunk.isEmpty || !x.held.isEmpty) && x.trust != trusted then x.flush g else x
  let x := TokState.loop g trusted buf.length { x with trust := trusted } buf
  if final then x.flush g else x

/-- The tokens of an untrusted text (R230). -/
def TokImage.untrusted (g : TokImage) (buf : List Byte) : List Nat := (TokState.fresh.tokenize g buf false true).out

/-! ### Detokenizing (R250) -/

/-- The detokenizer at work: held bytes, bytes written, U+FFFD written. -/
structure DetokState where
  held : List Byte
  out  : List Byte
  bad  : Nat

/-- Write one U+FFFD. -/
def DetokState.replace (x : DetokState) : DetokState := { x with out := x.out ++ [0xEF, 0xBF, 0xBD], bad := x.bad + 1 }

/-- An event of the decoder in the detokenizer. -/
def DetokState.event (x : DetokState) : TextEvent → DetokState
  | .char bs => { x with out := x.out ++ bs }
  | .invalid _ => x.replace

/-- Held bytes become invalid events. -/
def DetokState.spill (x : DetokState) : DetokState := { x.held.foldl (fun x b => x.event (.invalid b)) x with held := [] }

/-- One token. -/
def DetokState.token (g : TokImage) (skip : Bool) (x : DetokState) (t : Nat) : DetokState :=
  if g.vocab ≤ t then x.spill.replace
  else if g.controls.contains t then
    let x := x.spill
    if skip then x else { x with out := x.out ++ g.str t }
  else (g.str t).foldl (fun x b =>
    let (evs, held) := feed x.held b
    { evs.foldl DetokState.event x with held := held }) x

/-- The bytes of a token sequence; with FINAL, held bytes at the end become one U+FFFD. -/
def DetokState.run (g : TokImage) (skip final : Bool) (x : DetokState) (ts : List Nat) : DetokState :=
  let x := ts.foldl (fun x t => x.token g skip t) x
  if final && !x.held.isEmpty then { x.replace with held := [] } else x

/-! ### Loaded tokenizers -/

/-- A loaded tokenizer of a context. -/
def Furrow.tok? (c : Furrow) (h : Handle) (n : Nat) : Option TokBind := c.toks.find? fun b => b.h = h && b.n.toNat = n

/-- The image of a loaded tokenizer: the TOTAL bytes that its load found in the region, whatever the host has made of them since (R242). -/
def Run.image (r : Run s₀) (f : FurrowIx) (b : TokBind) : TokImage := r.load f b.h 0 b.tier b.off b.total

/-- The extent of a loaded tokenizer's image, which tokenizing reads (log 40). -/
def TokBind.extent (b : TokBind) : Extent := (b.tier, b.off, b.total)

/-! ### TXT_LOAD and TXT_UNLOAD (R241, R258, R259) -/

/-- The checks at fetch of a TXT_LOAD: the extents follow from the image, when it starts. -/
def fetchTxtLoad (c : Furrow) (h : Handle) (d : List Byte) : Option Refuse :=
  firstFail [reservedBytes d 32 47, reservedBytes d 52 63, c.refCheck h (tref d 16) 64 16 [1, 2],
    badIf (decide ((tref d 24).off % 64 ≠ 0) || decide ((tref d 24).tier = 0) || decide ((tref d 24).tier = 3)) 24]

/-- 16 × H bytes of WORK (Table 11-13). -/
def workBytes (nMerge : Nat) : Nat :=
  let n := max 4096 (2 * nMerge)
  16 * (if 2 ^ n.log2 = n then n else 2 ^ (n.log2 + 1))

/-- The outcome of a TXT_LOAD's checks in the order of Table 11-3: 0 and 0 when all pass. -/
def Run.loadCheck (r : Run s₀) (e : Eng) (d : List Byte) : Nat × Nat :=
  let c := r.fur e.f
  let t := tref d 16
  let w := tref d 24
  let n := r.loadNat e.f e.h e.core t.tier (t.off + 52) 4
  let fits := c.inside e.h t.tier t.off n
  let g : TokImage := r.load e.f e.h e.core t.tier t.off (if fits then max 64 n else 64)
  let k := df d 48 4
  let wb := workBytes g.nMerge
  match g.check fits with
  | some x => x
  | none =>
    if k = 0 ∨ 16 < k ∨ (c.tok? e.h k).isSome then (0x0B, 0)
    else if !c.inside e.h w.tier w.off wb || w.overlap wb t n then (0x0C, 0)
    else (0, 0)

/-- The bytes of the image, as far as TOTAL gives them, that a load reads. -/
def Run.loadExtent (r : Run s₀) (e : Eng) (d : List Byte) : Extent :=
  let t := tref d 16
  let n := r.loadNat e.f e.h e.core t.tier (t.off + 52) 4
  (t.tier, t.off, if (r.fur e.f).inside e.h t.tier t.off n then max 64 n else 64)

/-- The checks of a TXT_LOAD when it starts; an image that cannot be read ends the load later (R423). -/
def startTxtLoad (r : Run s₀) (e : Eng) (d : List Byte) : Option Refuse :=
  if ((r.fur e.f).firstBad e [r.loadExtent e d]).isSome then none
  else match r.loadCheck e d with
    | (0, _) => none
    | (0x0C, _) => some (.operand 24)
    | _ => some (.operand 16)

/-- TXT_LOAD_STATUS takes the outcome of a load's checks (R241, Table 11-5). -/
def Run.noteLoad (r : Run s₀) (e : Eng) (d : List Byte) : Run s₀ :=
  let x := r.loadCheck e d
  r.modFur e.f fun c => { c with tokStatus := c.tokStatus.set e.h (BitVec.ofNat 32 x.2, BitVec.ofNat 8 x.1) }

/-- How a TXT_LOAD fails on this furrow, if it does (R241, R260): the image cannot be read, or fails a check, whose outcome is noted. -/
def Run.loadFails (r : Run s₀) (e : Eng) (d : List Byte) : Run s₀ × Option Ending :=
  match (r.fur e.f).firstBad e [r.loadExtent e d] with
  | some p => let x := r.readFault e p; (x.1, some x.2)
  | none =>
    match r.loadCheck e d with
    | (0, _) => (r, none)
    | (k, _) => (r.noteLoad e d, some (Refuse.operand (if k = 0x0C then 24 else 16)).atStart.ending)

/-- Bind an image that has passed its checks to its handle. -/
def Run.bindTok (r : Run s₀) (e : Eng) (d : List Byte) : Run s₀ :=
  let t := tref d 16
  let n := r.loadNat e.f e.h e.core t.tier (t.off + 52) 4
  (r.noteLoad e d).modFur e.f fun c =>
    { c with toks := c.toks ++ [(⟨e.h, BitVec.ofNat 32 (df d 48 4), t.tier, t.off, n⟩ : TokBind)] }.measure LogKind.tokenizer e.h (df d 48 4) e.tag
      (decide (t.tier = 1)) t.off n

/-- TXT_LOAD (R241): each furrow checks its image; on a span none is bound before all have passed, so that a failure on one of them leaves
nothing bound (R260). -/
def execTxtLoad (f : FurrowIx) (h : Handle) (tag : Tag) (s : State) : Host.Outcome State Fault Refusal :=
  let r := Run.start s
  let c := s.furrow f
  (match c.atWork h tag 0x50 with
   | none => r
   | some q =>
     let e := q.eng f
     let bind := fun (r : Run s) =>
       ((r.modFur f fun c => c.sendDown f q q.collKey []).bindTok e q.desc).engineEnds f h tag (Ending.ok 0 (df q.desc 48 4))
     match if q.stage = 0 then c.piecesBelow q else (q.origin.bind fun o => q.heard o.1).map fun _ => [] with
     | none => r
     | some rest =>
       match r.loadFails e q.desc with
       | (r, some x) => r.engineEnds f h tag x
       | (r, none) =>
         if q.stage = 0 ∧ q.origin.isSome then
           r.modFur f fun c => (c.passUp f q [] rest).modReq h tag fun q => { q.clear q.collKey with stage := 1 }
         else bind r).done

/-- The estimate of a TXT_LOAD (R262). -/
def costTxtLoad (r : Run s₀) (e : Eng) (d : List Byte) : Cost :=
  let t := tref d 16
  let u := fun off n => r.loadNat e.f e.h e.core t.tier (t.off + off) n
  .flat (cyclesNs (ceilDiv (u 52 4) 16 + 4 * u 8 4 + 64))

/-- The checks at fetch of a TXT_UNLOAD. -/
def fetchTxtUnload (d : List Byte) : Option Refuse := firstFail [reservedBytes d 16 47, reservedBytes d 52 63]

/-- The checks of a TXT_UNLOAD when it starts. -/
def startTxtUnload (c : Furrow) (h : Handle) (d : List Byte) : Option Refuse := badIf (c.tok? h (df d 48 4)).isNone 48

/-! ### TOKENIZE and DETOKENIZE -/

/-- The fields that TOKENIZE and DETOKENIZE share (Table 11-13). -/
structure TextDesc where
  enc    : Bool
  inp    : TRef
  out    : TRef
  strm   : TRef
  n      : Nat
  cap    : Nat
  tok    : Nat
  opt    : Bool
  strmEn : Bool
  final  : Bool

/-- The fields that a descriptor's bytes hold; without a stream the input is final. -/
def TextDesc.of (d : List Byte) : TextDesc :=
  let o := df d 52 1
  ⟨opcodeOf d = 0x52, tref d 16, tref d 24, tref d 32, bitsOf (df d 40 4) 23 0, df d 44 4, df d 48 4, o.testBit 0, o.testBit 1,
   o.testBit 2 || !o.testBit 1⟩

/-- Bytes of the input. -/
def TextDesc.inBytes (a : TextDesc) : Nat := if a.enc then a.n else 4 * a.n
/-- Bytes that the output may take. -/
def TextDesc.outBytes (a : TextDesc) : Nat := if a.enc then 4 * a.cap else a.cap
/-- Bytes of the stream object (R248, R251). -/
def TextDesc.strmBytes (a : TextDesc) : Nat := if a.enc then 2112 else 64

/-- The checks at fetch of TOKENIZE and DETOKENIZE (R259). -/
def fetchText (c : Furrow) (h : Handle) (d : List Byte) : Option Refuse :=
  let a := TextDesc.of d
  firstFail [reservedBytes d 43 43, reservedBits d 52 7 3, reservedBytes d 53 63, c.refCheck h a.inp a.inBytes 16 [1, 2],
    c.refCheck h a.out a.outBytes 24 [1, 2], badIf (a.out.overlap a.outBytes a.inp a.inBytes) 24,
    if a.strmEn then firstFail [c.refCheck h a.strm a.strmBytes 32 [1, 2],
      badIf (a.strm.overlap a.strmBytes a.inp a.inBytes || a.strm.overlap a.strmBytes a.out a.outBytes) 32] else none]

/-- The bytes of the stream, or of a fresh one held inside the engine. -/
def Run.strmOf (r : Run s₀) (e : Eng) (a : TextDesc) : List Byte :=
  if a.strmEn then r.load e.f e.h e.core a.strm.tier a.strm.off a.strmBytes else zeros a.strmBytes

/-- HELD_N and CHUNK_LEN of a tokenizer stream. -/
def strmLeft (x : List Byte) : Nat := fieldAt x 1 1 + fieldAt x 6 2

/-- A stream object is in order for a handle: its fields are in range, ENDED is clear, its TOK is 0 or the handle (R259). -/
def TextDesc.strmOk (a : TextDesc) (g : TokImage) (x : List Byte) : Bool :=
  if a.enc then
    decide (fieldAt x 0 1 < 4) && decide (fieldAt x 1 1 ≤ 3) && decide (fieldAt x 5 1 < g.nSplit) && decide (fieldAt x 6 2 ≤ 1024) &&
      (decide (fieldAt x 8 4 = 0) || decide (fieldAt x 8 4 = a.tok)) && decide (fieldAt x 12 4 = 0) && (bytesAt x 32 32).all (· = 0)
  else
    decide (fieldAt x 0 1 ≤ 3) && (decide (fieldAt x 4 4 = 0) || decide (fieldAt x 4 4 = a.tok)) && decide (fieldAt x 8 1 = 0) &&
      (bytesAt x 9 55).all (· = 0)

/-- The checks of TOKENIZE and DETOKENIZE when they start (R259). -/
def startText (r : Run s₀) (e : Eng) (d : List Byte) : Option Refuse :=
  let a := TextDesc.of d
  match (r.fur e.f).tok? e.h a.tok with
  | none => some (.operand 48)
  | some b =>
    let g := r.image e.f b
    let x := r.strmOf e a
    firstFail [badIf (!a.strmOk g x) 32,
      badIf (if a.enc then decide (a.cap < a.n + strmLeft x) else decide (a.cap < 3 * (g.maxLen * a.n + 3))) 44]

/-- The estimates of TOKENIZE and DETOKENIZE (R262). -/
def costText (r : Run s₀) (e : Eng) (d : List Byte) : Cost :=
  let a := TextDesc.of d
  .flat (cyclesNs (if a.enc then 8 * (a.n + strmLeft (r.strmOf e a)) + 64 else 16 * a.n + 64))

/-- The tokenizer state that a stream object holds (Table 11-6). -/
def tokStateOf (x : List Byte) : TokState :=
  let buf := if (x.getD 0 0).getLsbD 0 then 1088 else 64
  ⟨bytesAt x 2 (fieldAt x 1 1), bytesAt x buf (fieldAt x 6 2), fieldAt x 5 1, (x.getD 0 0).getLsbD 1, []⟩

/-- The 64-byte header of a tokenizer stream after a buffer. -/
def strmHeader (x : List Byte) (t : TokState) (a : TextDesc) : List Byte :=
  leBytes 1 ((1 - fieldAt x 0 1 % 2) + 2 * bit t.trust + 4 * bit a.final) ++ leBytes 1 t.held.length ++ bytesAt t.held 0 3 ++
    leBytes 1 t.split ++ leBytes 2 t.chunk.length ++ leBytes 4 a.tok ++ zeros 4 ++ leBytes 8 (fieldAt x 16 8 + a.n) ++
    leBytes 8 (fieldAt x 24 8 + t.out.length) ++ zeros 32

/-- What TOKENIZE and DETOKENIZE read. -/
def TextDesc.extents (a : TextDesc) (b : TokBind) : List Extent :=
  [(a.inp.tier, a.inp.off, a.inBytes), b.extent] ++ if a.strmEn then [(a.strm.tier, a.strm.off, a.strmBytes)] else []

/-- Do a TOKENIZE (R245, R248). -/
def Run.tokenize (r : Run s₀) (e : Eng) (d : List Byte) : Run s₀ × Ending :=
  let a := TextDesc.of d
  match (r.fur e.f).tok? e.h a.tok with
  | none => (r, (Refuse.operand 48).atStart.ending)
  | some b =>
    r.reading e (a.extents b) [(a.out.tier, a.out.off, a.outBytes)] fun r =>
      let x := r.strmOf e a
      let t := (tokStateOf x).tokenize (r.image e.f b) (r.load e.f e.h e.core a.inp.tier a.inp.off a.n) a.opt a.final
      let r := r.store e.f e.h e.core a.out.tier a.out.off (t.out.flatMap fun i => leBytes 4 i)
      let r := if a.strmEn then
          let buf := if (x.getD 0 0).getLsbD 0 then 64 else 1088
          (r.store e.f e.h e.core a.strm.tier (a.strm.off + buf) t.chunk).store e.f e.h e.core a.strm.tier a.strm.off (strmHeader x t a)
        else r
      (r, Ending.ok (satCount t.out.length) (t.out.length + 2 ^ 32 * (t.chunk.length + t.held.length)))

/-- Do a DETOKENIZE (R250, R251). -/
def Run.detokenize (r : Run s₀) (e : Eng) (d : List Byte) : Run s₀ × Ending :=
  let a := TextDesc.of d
  match (r.fur e.f).tok? e.h a.tok with
  | none => (r, (Refuse.operand 48).atStart.ending)
  | some b =>
    r.reading e (a.extents b) [(a.out.tier, a.out.off, a.outBytes)] fun r =>
      let x := r.strmOf e a
      let ts := (List.range a.n).map fun i => r.loadNat e.f e.h e.core a.inp.tier (a.inp.off + 4 * i) 4
      let t := DetokState.run (r.image e.f b) a.opt a.final ⟨bytesAt x 1 (fieldAt x 0 1), [], 0⟩ ts
      let r := r.store e.f e.h e.core a.out.tier a.out.off t.out
      let r := if a.strmEn then
          r.store e.f e.h e.core a.strm.tier a.strm.off (leBytes 1 t.held.length ++ bytesAt t.held 0 3 ++ leBytes 4 a.tok ++
            leBytes 1 (4 * bit a.final) ++ zeros 55)
        else r
      (r, Ending.ok (satCount t.out.length) (t.out.length + 2 ^ 32 * t.bad))

/-- TOKENIZE (R245). -/
def execTokenize (f : FurrowIx) (h : Handle) (tag : Tag) (s : State) : Host.Outcome State Fault Refusal :=
  runDesc 0x52 f h tag s fun q r => r.tokenize (q.eng f) q.desc

/-- DETOKENIZE (R250). -/
def execDetokenize (f : FurrowIx) (h : Handle) (tag : Tag) (s : State) : Host.Outcome State Fault Refusal :=
  runDesc 0x53 f h tag s fun q r => r.detokenize (q.eng f) q.desc

end Sys2Proof.Machine
end

