-- ==== Sys2Proof/Machine/Grammar.lean ====
section
/-! DEFINITION. The text engine (chapter 11), second half: grammar machines and their instances, GRAM_INIT, GRAM_MASK and
GRAM_ADVANCE. -/

namespace Sys2Proof.Machine

variable {s₀ : State}

/-! ### Definitions (R253, Tables 11-8 and 11-9) -/

/-- A grammar definition as its bytes. -/
abbrev GramDef := List Byte

namespace GramDef

/-- KIND is LIST. -/
def isList (g : GramDef) : Bool := decide (fieldAt g 2 1 = 1)
/-- VOCAB. -/
def vocab (g : GramDef) : Nat := fieldAt g 4 4
/-- NSTATES or NTOK. -/
def count (g : GramDef) : Nat := fieldAt g 8 4
/-- The number of states. -/
def nStates (g : GramDef) : Nat := if g.isList then 1 else g.count
/-- START. -/
def start (g : GramDef) : Nat := fieldAt g 12 4
/-- NMASKS. -/
def nMasks (g : GramDef) : Nat := fieldAt g 16 4
/-- NEDGES. -/
def nEdges (g : GramDef) : Nat := fieldAt g 20 4
/-- STATE_OFF. -/
def stateOff (g : GramDef) : Nat := fieldAt g 24 4
/-- EDGE_OFF. -/
def edgeOff (g : GramDef) : Nat := fieldAt g 28 4
/-- MASK_OFF. -/
def maskOff (g : GramDef) : Nat := fieldAt g 32 4
/-- LIST_OFF. -/
def listOff (g : GramDef) : Nat := fieldAt g 36 4
/-- TOTAL. -/
def total (g : GramDef) : Nat := fieldAt g 40 4

/-- MB: bytes of a mask (R252). -/
def maskBytes (g : GramDef) : Nat := ceilDiv g.vocab 512 * 64

/-- The identifiers of a LIST. -/
def listed (g : GramDef) : List Nat := (List.range g.count).map fun i => fieldAt g (g.listOff + 4 * i) 4

/-- A header in order, with its arrays within TOTAL and, for a LIST, its identifiers below V (R259). -/
def ok (g : GramDef) : Bool :=
  decide (fieldAt g 0 2 = 1) && decide (fieldAt g 2 1 < 2) && decide (fieldAt g 3 1 = 0) && decide (256 ≤ g.vocab) &&
    decide (g.vocab ≤ 262144) && decide (1 ≤ g.count) && decide (g.count ≤ if g.isList then 65536 else 0xFFFFFE) &&
    (bytesAt g 44 20).all (· = 0) && decide (64 ≤ g.total) &&
    (if g.isList then decide (g.start = 0) && decide (g.listOff + 4 * g.count ≤ g.total) && g.listed.all fun t => decide (t < g.vocab)
     else decide (g.start < g.count) && decide (g.stateOff + 32 * g.count ≤ g.total) && decide (g.edgeOff + 16 * g.nEdges ≤ g.total) &&
       decide (g.maskOff % 64 = 0) && decide (g.maskOff + g.maskBytes * g.nMasks ≤ g.total))

end GramDef

/-- An edge: token, next state, operation, symbol, return state. -/
structure GramEdge where
  token : Nat
  next  : Nat
  op    : Nat
  sym   : Nat
  ret   : Nat

/-- The edge that 16 bytes hold. -/
def GramEdge.of (bs : List Byte) : GramEdge :=
  ⟨bitsOf (fieldAt bs 0 4) 17 0, bitsOf (fieldAt bs 4 4) 23 0, fieldAt bs 8 1, fieldAt bs 9 1, bitsOf (fieldAt bs 12 4) 23 0⟩

/-- A reserved field of a default edge is not zero (Table 11-9); its TOKEN field is ignored. -/
def edgeBad (bs : List Byte) : Bool :=
  decide (fieldAt bs 7 1 ≠ 0) || decide (fieldAt bs 10 2 ≠ 0) || decide ((if fieldAt bs 8 1 = 1 then fieldAt bs 15 1 else fieldAt bs 12 4) ≠ 0)

/-- A state entry: mask index, edges, FINAL, the default edge; and whether a reserved field is not zero. -/
structure GramState where
  mask  : Nat
  first : Nat
  n     : Nat
  final : Bool
  dflt  : GramEdge
  bad   : Bool

namespace GramDef

/-- The entry of a state. -/
def state (g : GramDef) (s : Nat) : GramState :=
  let x := bytesAt g (g.stateOff + 32 * s) 32
  ⟨fieldAt x 0 4, fieldAt x 4 4, fieldAt x 8 4, (x.getD 12 0).getLsbD 0, .of (x.drop 16), decide (1 < fieldAt x 12 4) || edgeBad (x.drop 16)⟩

/-- A state field is out of range (R254). -/
def stateBad (g : GramDef) (s : Nat) : Bool :=
  !g.isList && ((g.state s).bad || decide (g.nMasks ≤ (g.state s).mask) || decide (g.nEdges < (g.state s).first + (g.state s).n))

/-- A state is final; the one state of a LIST is not. -/
def isFinal (g : GramDef) (s : Nat) : Bool := !g.isList && (g.state s).final

/-- An edge of the edge array. -/
def edgeAt (g : GramDef) (i : Nat) : GramEdge := .of (bytesAt g (g.edgeOff + 16 * i) 16)

/-- The binary search of edge(s, t) (R254): the least position not below a token, between lo and hi. -/
def bisect (g : GramDef) (first t : Nat) : Nat → Nat → Nat → Nat
  | 0, lo, _ => lo
  | k + 1, lo, hi =>
    if hi ≤ lo then lo
    else
      let mid := (lo + hi) / 2
      if (g.edgeAt (first + mid)).token < t then g.bisect first t k (mid + 1) hi else g.bisect first t k lo mid

/-- edge(s, t) of R254. -/
def edge (g : GramDef) (s t : Nat) : GramEdge :=
  let x := g.state s
  let lo := g.bisect x.first t (x.n + 1) 0 x.n
  if lo < x.n ∧ (g.edgeAt (x.first + lo)).token = t then g.edgeAt (x.first + lo) else x.dflt

/-- The edges of a state. -/
def edgesOf (g : GramDef) (s : Nat) : List GramEdge := (List.range (g.state s).n).map fun i => g.edgeAt ((g.state s).first + i)

/-- usable(e) of R254, on a stack whose top stands first. -/
def usable (stk : List (Nat × Nat)) (e : GramEdge) : Bool :=
  decide (e.op ≠ 2) || (match stk with | [] => false | x :: _ => x.1 = e.sym)

/-- mask(s) of R254: the allowed tokens as a bit set. -/
def mask (g : GramDef) (s : Nat) (stk : List (Nat × Nat)) : Nat :=
  if g.isList then g.listed.foldl (fun m t => m ||| 1 <<< t) 0
  else if g.isFinal s then 0
  else
    let x := g.state s
    let pool := fieldAt g (g.maskOff + g.maskBytes * x.mask) g.maskBytes % 2 ^ g.vocab
    let es := g.edgesOf s
    let m := es.foldl (fun (m : Nat) e => if usable stk e ∨ !m.testBit e.token then m else m ^^^ 1 <<< e.token) pool
    if usable stk x.dflt then m
    else es.foldl (fun acc e => if m.testBit e.token then acc ||| 1 <<< e.token else acc) 0

end GramDef

/-- How a step can fail (R254). -/
inductive StepFail
  | notAllowed
  | overflow
  | malformed
  | emptyMask
  deriving DecidableEq, Repr

/-- A position of the machine: state and stack, its top first. -/
structure GramPos where
  state : Nat
  stk   : List (Nat × Nat)

/-- The checks of a state that a step would enter (R254). -/
def GramDef.enter (g : GramDef) (s : Nat) (stk : List (Nat × Nat)) : Option StepFail :=
  if g.nStates ≤ s ∨ g.stateBad s then some .malformed
  else if !g.isFinal s ∧ g.mask s stk = 0 then some .emptyMask
  else none

/-- step(s, t) of R254. -/
def GramDef.step (g : GramDef) (p : GramPos) (t : Nat) : Except StepFail GramPos :=
  if g.vocab ≤ t ∨ !(g.mask p.state p.stk).testBit t then .error .notAllowed
  else if g.isList then .ok p
  else
    let e := g.edge p.state t
    if e.op = 1 ∧ 256 ≤ p.stk.length then .error .overflow
    else if 2 < e.op then .error .malformed
    else
      let stk := match e.op with | 1 => (e.sym, e.ret) :: p.stk | 2 => p.stk.drop 1 | _ => p.stk
      let n := if e.next = 0xFFFFFF then (if e.op = 2 then p.stk.head?.map (·.2) else none) else some e.next
      match n with
      | none => .error .malformed
      | some n => match g.enter n stk with
        | some x => .error x
        | none => .ok ⟨n, stk⟩

/-- The extents of a definition that looking at a state reads: its entry, its edges and its mask. -/
def GramDef.touches (g : GramDef) (t : TRef) (s : Nat) : List Extent :=
  if g.isList then [(t.tier, t.off + g.listOff, 4 * g.count)]
  else
    let x := g.state s
    [(t.tier, t.off + g.stateOff + 32 * s, 32), (t.tier, t.off + g.edgeOff + 16 * x.first, 16 * x.n),
     (t.tier, t.off + g.maskOff + g.maskBytes * x.mask, g.maskBytes)]

/-! ### Instances (R255, Table 11-10) -/

/-- The stack of an instance's bytes, top first. -/
def instStack (x : List Byte) : List (Nat × Nat) :=
  let base := if (x.getD 14 0).getLsbD 0 then 1088 else 64
  ((List.range (fieldAt x 12 2)).map fun k =>
    let v := fieldAt x (base + 4 * k) 4
    (v / 2 ^ 24, v % 2 ^ 24)).reverse

/-- The position of an instance. -/
def instPos (x : List Byte) : GramPos := ⟨bitsOf (fieldAt x 8 4) 23 0, instStack x⟩

/-- The bytes of a stack as a buffer holds them. -/
def stackBytes (stk : List (Nat × Nat)) : List Byte := stk.reverse.flatMap fun p => leBytes 4 (p.2 + 2 ^ 24 * p.1)

/-- The header of an instance. -/
def instHeader (gram : Nat) (p : GramPos) (sel : Nat) (final : Bool) (position : Nat) : List Byte :=
  leBytes 8 gram ++ leBytes 4 p.state ++ leBytes 2 p.stk.length ++ leBytes 1 (sel + 2 * bit final) ++ zeros 1 ++ leBytes 8 position ++ zeros 40

/-- Bytes of an instance. -/
def instBytes : Nat := 2112

/-- The fields of an instance are in range, for a definition of n states. -/
def instOk (x : List Byte) (n : Nat) : Bool :=
  decide (fieldAt x 8 4 < n) && decide (fieldAt x 12 2 ≤ 256) && decide (fieldAt x 14 1 < 4) && decide (fieldAt x 15 1 = 0) &&
    (bytesAt x 24 40).all (· = 0)

/-- The RESULT of an instance's state (Table 11-14). -/
def instResult (p : GramPos) (final : Bool) : Nat := p.state + 2 ^ 32 * p.stk.length + 2 ^ 63 * bit final

/-- The bytes of a definition by its reference. -/
def Run.gramDef (r : Run s₀) (e : Eng) (t : TRef) : GramDef :=
  r.load e.f e.h e.core t.tier t.off (max 64 (r.loadNat e.f e.h e.core t.tier (t.off + 40) 4))

/-- A definition by its reference is in order and lies in the context's region (R259). -/
def Run.gramOk (r : Run s₀) (e : Eng) (t : TRef) : Bool :=
  let c := r.fur e.f
  (decide (t.tier = 1) || decide (t.tier = 2)) && decide (t.off % 64 = 0) && c.inside e.h t.tier t.off 64 &&
    c.inside e.h t.tier t.off (r.loadNat e.f e.h e.core t.tier (t.off + 40) 4) && (r.gramDef e t).ok

/-! ### Failures (R256, Table 11-11) -/

/-- The ending of a step that failed, at a state, after tokens were committed up to a position. -/
def StepFail.ending (x : StepFail) (state count position : Nat) : Ending :=
  let reason := match x with | .notAllowed => 2 | .emptyMask => 1 | .malformed => 3 | .overflow => 0
  { status := if x = .overflow then Status.grammarOverflow else Status.grammarDeadEnd
    count := BitVec.ofNat 16 (satCount count), result := 0
    detail := BitVec.ofNat 64 (state % 2 ^ 24 + 2 ^ 24 * reason + 2 ^ 32 * (position % 2 ^ 32)) }

/-- Steps over tokens until one fails: the positions after each, and the failure. -/
def GramDef.steps (g : GramDef) : GramPos → List Nat → List GramPos × Option StepFail
  | _, [] => ([], none)
  | p, t :: ts =>
    match g.step p t with
    | .error x => ([], some x)
    | .ok p' => let (ps, x) := g.steps p' ts; (p' :: ps, x)

/-! ### Descriptors -/

/-- The checks at fetch of GRAM_INIT, GRAM_MASK and GRAM_ADVANCE (R258, R259). -/
def fetchGram (c : Furrow) (h : Handle) (d : List Byte) : Option Refuse :=
  let t := fun off => tref d off
  match (opcodeOf d).toNat with
  | 0x54 => firstFail [reservedBytes d 32 63, c.refCheck h (t 16) 64 16 [1, 2], c.refCheck h (t 24) instBytes 24 [1, 2]]
  | 0x55 => firstFail [reservedBytes d 41 63, c.refCheck h (t 16) instBytes 16 [1, 2], c.refCheck h (t 24) (4 * df d 40 1) 24 [1, 2],
      c.refCheck h (t 32) 64 32 [1, 2], badIf (decide (7 < df d 40 1)) 40]
  | _ => firstFail [reservedBytes d 33 63, c.refCheck h (t 16) instBytes 16 [1, 2], c.refCheck h (t 24) (4 * df d 32 1) 24 [1, 2],
      badIf ((t 24).overlap (4 * df d 32 1) (t 16) instBytes) 24, badIf (decide (df d 32 1 = 0) || decide (8 < df d 32 1)) 32]

/-- The definition an instance is of. -/
def Run.instGram (r : Run s₀) (e : Eng) (inst : TRef) : TRef := .of (r.loadNat e.f e.h e.core inst.tier inst.off 8)

/-- The checks of GRAM_INIT, GRAM_MASK and GRAM_ADVANCE when they start (R259). -/
def startGram (r : Run s₀) (e : Eng) (d : List Byte) : Option Refuse :=
  let c := r.fur e.f
  let t := fun off => tref d off
  if opcodeOf d = 0x54 then
    let g := r.gramDef e (t 16)
    firstFail [badIf (!r.gramOk e (t 16)) 16, badIf ((t 24).overlap instBytes (t 16) g.total) 24]
  else
    let inst := r.load e.f e.h e.core (t 16).tier (t 16).off instBytes
    let gt := r.instGram e (t 16)
    let g := r.gramDef e gt
    let mb := g.maskBytes * (df d 40 1 + 1)
    firstFail [badIf (!r.gramOk e gt || !instOk inst g.nStates || gt.overlap g.total (t 16) instBytes ||
        (decide (opcodeOf d = 0x56) && (inst.getD 14 0).getLsbD 1)) 16,
      badIf (decide (opcodeOf d = 0x55) && (!c.inside e.h (t 32).tier (t 32).off mb || (t 32).overlap mb (t 16) instBytes ||
        (t 32).overlap mb (t 24) (4 * df d 40 1) || (t 32).overlap mb gt g.total)) 32]

/-- The estimates of the grammar opcodes (R262). -/
def costGram (r : Run s₀) (e : Eng) (d : List Byte) : Cost :=
  let gt := if opcodeOf d = 0x54 then tref d 16 else r.instGram e (tref d 16)
  let hd : GramDef := r.load e.f e.h e.core gt.tier gt.off 64
  let one := hd.maskBytes / 64 + 128
  .flat (cyclesNs (match (opcodeOf d).toNat with
    | 0x54 => one + if hd.isList then hd.count else 0
    | 0x55 => (df d 40 1 + 1) * one + 64
    | _ => df d 32 1 * one + 64))

/-- Do a GRAM_INIT (R258, Table 11-14). -/
def Run.gramInit (r : Run s₀) (e : Eng) (d : List Byte) : Run s₀ × Ending :=
  let gt := tref d 16
  let t := tref d 24
  let g := r.gramDef e gt
  let p : GramPos := ⟨g.start, []⟩
  r.reading e ((gt.tier, gt.off, 64) :: g.touches gt g.start) [] fun r =>
    match g.enter p.state [] with
    | some x => (r, x.ending p.state 0 0)
    | none => (r.store e.f e.h e.core t.tier t.off (instHeader (df d 16 8) p 0 (g.isFinal p.state) 0),
        Ending.ok 0 (instResult p (g.isFinal p.state)))

/-- GRAM_INIT (R258). -/
def execGramInit (f : FurrowIx) (h : Handle) (tag : Tag) (s : State) : Host.Outcome State Fault Refusal :=
  runDesc 0x54 f h tag s fun q r => r.gramInit (q.eng f) q.desc

/-- Tokens of 4 bytes each. -/
def Run.tokensAt (r : Run s₀) (e : Eng) (t : TRef) (n : Nat) : List Nat :=
  (List.range n).map fun i => r.loadNat e.f e.h e.core t.tier (t.off + 4 * i) 4

/-- The masks of a position and of those its drafts reach, with zeros for the rest (R257): the bytes, and how many are masks. -/
def GramDef.draftMasks (g : GramDef) (p : GramPos) (drafts : List Nat) : List Byte × Nat :=
  let ps := p :: (g.steps p drafts).1
  ((ps.flatMap fun p => leBytes g.maskBytes (g.mask p.state p.stk)) ++ zeros (g.maskBytes * (drafts.length + 1 - ps.length)), ps.length)

/-- Do a GRAM_MASK (R257). -/
def Run.gramMask (r : Run s₀) (e : Eng) (d : List Byte) : Run s₀ × Ending :=
  let t := tref d 16
  let gt := r.instGram e t
  let g := r.gramDef e gt
  let n := df d 40 1
  let p := instPos (r.load e.f e.h e.core t.tier t.off instBytes)
  let ts := r.tokensAt e (tref d 24) n
  let seen := (p :: (g.steps p ts).1).flatMap fun p => g.touches gt p.state
  r.reading e ([(t.tier, t.off, instBytes), ((tref d 24).tier, (tref d 24).off, 4 * n), (gt.tier, gt.off, 64)] ++ seen)
      [((tref d 32).tier, (tref d 32).off, g.maskBytes * (n + 1))] fun r =>
    let x := g.draftMasks p ts
    (r.store e.f e.h e.core (tref d 32).tier (tref d 32).off x.1, Ending.ok x.2 (df d 32 8))

/-- GRAM_MASK (R257). -/
def execGramMask (f : FurrowIx) (h : Handle) (tag : Tag) (s : State) : Host.Outcome State Fault Refusal :=
  runDesc 0x55 f h tag s fun q r => r.gramMask (q.eng f) q.desc

/-- An advance of an instance over tokens, committed at its switch: the new position, the tokens committed, the failure (R255,
R256). -/
def Run.advance (r : Run s₀) (e : Eng) (t : TRef) (ts : List Nat) : Run s₀ × GramPos × Nat × Option StepFail :=
  let x := r.load e.f e.h e.core t.tier t.off instBytes
  let gt := r.instGram e t
  let g := r.gramDef e gt
  let p := instPos x
  let (ps, fail) := g.steps p ts
  match ps.getLast? with
  | none => (r, p, 0, fail)
  | some p' =>
    let sel := 1 - fieldAt x 14 1 % 2
    let r := r.store e.f e.h e.core t.tier (t.off + if sel = 0 then 64 else 1088) (stackBytes p'.stk)
    (r.store e.f e.h e.core t.tier t.off (instHeader (fieldAt x 0 8) p' sel (g.isFinal p'.state) (fieldAt x 16 8 + ps.length)),
     p', ps.length, fail)

/-- Do a GRAM_ADVANCE (R256). -/
def Run.gramAdvance (r : Run s₀) (e : Eng) (d : List Byte) : Run s₀ × Ending :=
  let t := tref d 16
  let gt := r.instGram e t
  let g := r.gramDef e gt
  let n := df d 32 1
  let x := r.load e.f e.h e.core t.tier t.off instBytes
  let ts := r.tokensAt e (tref d 24) n
  let seen := (instPos x :: (g.steps (instPos x) ts).1).flatMap fun p => g.touches gt p.state
  r.reading e ([(t.tier, t.off, instBytes), ((tref d 24).tier, (tref d 24).off, 4 * n), (gt.tier, gt.off, 64)] ++ seen) [] fun r =>
    let (r, p, m, fail) := r.advance e t ts
    match fail with
    | some f => (r, f.ending p.state m (fieldAt x 16 8 + m))
    | none => (r, Ending.ok m (instResult p (g.isFinal p.state)))

/-- GRAM_ADVANCE (R256). -/
def execGramAdvance (f : FurrowIx) (h : Handle) (tag : Tag) (s : State) : Host.Outcome State Fault Refusal :=
  runDesc 0x56 f h tag s fun q r => r.gramAdvance (q.eng f) q.desc

end Sys2Proof.Machine
end

