-- ==== Sys2Proof/Machine/Granary.lean ====
section
/-! DEFINITION. The Granary (chapter 15): stripes and appends, writes with their reservations, reads and rebuilds, reclamation,
checkpoints, mount and format, wear and lost dies, and the opcodes 0x80–0x82. -/

namespace Sys2Proof.Machine

variable {s₀ : State}

/-! ### Geometry (R332–R335) -/

/-- S: slots of a page on a channel (R333). -/
def Granary.slotsPer (g : Granary) (n : Fin 2) : Nat := g.nand.parts[n].planes.toNat * g.nand.parts[n].pageKib.toNat / 4

/-- Page positions of a superblock. -/
def Granary.pagesPer (g : Granary) (n : Fin 2) : Nat := g.nand.parts[n].pages.toNat

/-- A channel's parts meet R332, agree, and are enough of them to be used; 2^29 KiB are 4 Tbit. -/
def NandPart.meets (p : NandPart) : Bool :=
  let pages := p.pageKib.toNat
  p.agrees && decide (1 ≤ p.targets.toNat) && decide (p.targets.toNat ≤ 8) && decide (1 ≤ p.luns.toNat) && decide (p.luns.toNat ≤ 4) &&
    decide (p.dies.toNat = p.targets.toNat * p.luns.toNat) && decide (512 ≤ p.spare.toNat) &&
    decide (p.planes.toNat * pages * p.pages.toNat * p.blocks.toNat ≤ 2 ^ 29) &&
    decide (3 ≤ p.dies.toNat) && decide (p.dies.toNat ≤ 32) && decide (1 ≤ p.planes.toNat) && decide (p.planes.toNat ≤ 4) &&
    (decide (pages = 8) || decide (pages = 16) || decide (pages = 32)) && decide (p.planes.toNat * pages ≤ 128) &&
    decide (8 ≤ p.rate.toNat) && decide (p.rate.toNat ≤ 36) && decide (p.blocks.toNat ≤ 16384) && decide (p.pages.toNat ≤ 32768)

/-- A block of a die is retired. -/
def Granary.retired (g : Granary) (ch die block : Nat) : Bool :=
  g.blocks.any fun b => b.ch = ch && b.die = die && b.block = block && b.retired

/-- The erase count of a block. -/
def Granary.erases (g : Granary) (ch die block : Nat) : Nat :=
  match g.blocks.find? fun b => b.ch = ch && b.die = die && b.block = block with | some b => b.erases.toNat | none => 0

/-- The dies that superblock k of a channel is made of: block k not retired and the die not lost; block 0 of the first two dies
holds root records (R333, R349). -/
def Granary.diesOf (g : Granary) (n : Fin 2) (k : Nat) : List Nat :=
  (List.range g.nand.parts[n].dies.toNat).filter fun d =>
    !(k = 0 && d < 2) && !g.retired n.val d k && !g.lostDies.contains (n.val, d)

/-- Data slots of a superblock: one page of each stripe is parity (R334). -/
def Granary.sbSlots (g : Granary) (b : Superblock) : Nat := (b.dies.length - 1) * g.slotsPer b.ch * g.pagesPer b.ch

/-- Change one superblock. -/
def Granary.modSb (g : Granary) (n : Fin 2) (k : Nat) (u : Superblock → Superblock) : Granary :=
  { g with sbs := g.sbs.map fun b => if b.ch = n ∧ b.num = k then u b else b }

/-- A superblock of a channel. -/
def Granary.sb? (g : Granary) (n : Fin 2) (k : Nat) : Option Superblock := g.sbs.find? fun b => b.ch = n && b.num = k

/-- The block table's entry of a block, changed. -/
def Granary.modBlock (g : Granary) (ch die block : Nat) (u : BlockInfo → BlockInfo) : Granary :=
  let hit := fun (b : BlockInfo) => b.ch = ch && b.die = die && b.block = block
  if g.blocks.any hit then { g with blocks := g.blocks.map fun b => if hit b then u b else b }
  else { g with blocks := g.blocks ++ [u ⟨ch, die, block, 0, false⟩] }

/-! ### Appending (R337) -/

/-- The dies of a stripe of superblock k that hold data: all but the parity die (R334). -/
def dataDies (dies : List Nat) (k : Nat) : List Nat := dies.eraseIdx (k % dies.length)

/-- The parity die of the stripes of superblock k (R334). -/
def parityDie (dies : List Nat) (k : Nat) : Nat := dies.getD (k % dies.length) 0

/-- The PSA of the i-th data slot of a page position of a superblock. -/
def Granary.placeOf (g : Granary) (n : Fin 2) (b : Superblock) (page i : Nat) : Nat :=
  let s := max 1 (g.slotsPer n)
  psaOf n.val ((dataDies b.dies b.num).getD (i / s) 0) b.num page (i % s)

/-- A whole stripe: what its data slots hold, KIND pad in the empty ones, and the parity page (R334, R337). -/
def Granary.fillStripe (g : Granary) (n : Fin 2) (b : Superblock) (page : Nat) (xs : List NandSlot) : List (Nat × NandSlot) :=
  let s := max 1 (g.slotsPer n)
  let all := (xs ++ List.replicate ((b.dies.length - 1) * s - xs.length) (padSlot g.seq)).zipIdx
  all.map (fun p => (g.placeOf n b page p.2, p.1)) ++ (List.range s).map fun j =>
    (psaOf n.val (parityDie b.dies b.num) b.num page j, paritySlot g.seq ((all.filter fun p => p.2 % s = j).map (·.1)))

/-- Data slots of a stripe. -/
def Granary.stripeSlots (g : Granary) (n : Fin 2) (t : Stripe) : Nat :=
  match g.sb? n t.sb with | some b => (b.dies.length - 1) * g.slotsPer n | none => 0

/-- The PSA of the k-th data slot of a stripe. -/
def Granary.slotPsa (g : Granary) (n : Fin 2) (t : Stripe) (k : Nat) : Nat :=
  match g.sb? n t.sb with
  | none => 0
  | some b => g.placeOf n b t.page k

/-- Replace the stripes of a channel. -/
def Granary.setStripes (g : Granary) (n : Fin 2) (ts : List Stripe) : Granary := { g with stripes := g.stripes.set n ts }

/-- The superblock a new stripe opens in: an opened one with pages left, or the lowest-numbered free one, which is erased before use
if it may hold old data (R351). -/
def Granary.openSb (g : Granary) (n : Fin 2) : Option (Granary × Superblock) :=
  match g.sbs.find? fun b => b.ch = n && b.state = .opened && decide (b.pages < g.pagesPer n) with
  | some b => some (g, b)
  | none =>
    match g.sbs.find? fun b => b.ch = n && b.state = .free with
    | none => none
    | some b =>
      let b' := { b with state := .opened, pages := 0, dies := g.diesOf n b.num, reads := 0, urgent := false, dirty := false }
      let old := fun (p : Nat × NandSlot) => psaCh p.1 = n.val && psaBlock p.1 = b.num && b'.dies.contains (psaDie p.1)
      let g := if b.dirty then b'.dies.foldl (fun (g : Granary) d => g.modBlock n.val d b.num fun i => { i with erases := i.erases + 1 }) g else g
      some ({ g.modSb n b.num fun _ => b' with nand := { g.nand with slots := g.nand.slots.filter fun p => !old p } }, b')

/-- The stripe of a channel that takes slots, opening one when there is none. -/
def Granary.openStripe (g : Granary) (ns : W64) (n : Fin 2) : Option Granary :=
  if g.stripes[n].any fun t => !t.programming then some g
  else match g.openSb n with
    | none => none
    | some (g, b) => some ((g.modSb n b.num fun b => { b with pages := b.pages + 1 }).setStripes n
        (g.stripes[n] ++ [⟨b.num, b.pages, [], ns, false, false⟩]))

/-- What a stripe programs: the slots filled in it, pads and the parity page (R337). -/
def Granary.wholeStripe (g : Granary) (n : Fin 2) (t : Stripe) : List Filled :=
  match g.sb? n t.sb with
  | some b => (g.fillStripe n b t.page (t.filled.map (·.slot))).map fun p => ⟨p.1, p.2, true⟩
  | none => t.filled.map fun x => { x with issued := true }

/-- Close the stripe that takes slots: its empty slots are padded and its program begins, with its parity page (R337). -/
def Granary.closeStripe (g : Granary) (n : Fin 2) : Granary :=
  g.setStripes n (g.stripes[n].map fun t =>
    if t.programming then t else { t with programming := true, filled := g.wholeStripe n t })

/-- A data slot filled now: its header holds the current SEQ (Table 15-3). -/
def Granary.dataSlot (g : Granary) (lbn : Nat) (data : List Host.Cell) (unreadable : Bool) : NandSlot :=
  { seq := g.seq, lbn := lbn, kind := SlotKind.data, data := data, unreadable := unreadable }

/-- A slot filled again elsewhere: a data slot has the current SEQ, a system slot keeps its own. -/
def Granary.again (g : Granary) (x : NandSlot) (unreadable : Bool) : NandSlot :=
  { x with seq := if x.kind = SlotKind.data then g.seq else x.seq, unreadable := unreadable }

/-- Append a slot on a channel: the Granary and the slot's PSA; none when the channel has no room at all. A stripe whose every slot
holds data closes at once (R337). -/
def Granary.append (g : Granary) (ns : W64) (n : Fin 2) (x : NandSlot) : Option (Granary × Nat) :=
  match g.openStripe ns n with
  | none => none
  | some g =>
    match g.stripes[n].find? fun t => !t.programming with
    | none => none
    | some t =>
      let psa := g.slotPsa n t t.filled.length
      let t' := { t with
        since := if t.filled.isEmpty then ns else t.since
        filled := t.filled ++ [⟨psa, x, false⟩] }
      let g := g.setStripes n (g.stripes[n].map fun u => if u.programming then u else t')
      some (if g.stripeSlots n t ≤ t'.filled.length then g.closeStripe n else g, psa)

/-! ### Reservation (R345) -/

/-- Slots of a channel that can still be taken when some free superblocks are kept back: those of the others, and of its open stripes
and superblocks. -/
def Granary.roomBut (g : Granary) (keep : Nat) (n : Fin 2) : Nat :=
  let free := g.sbs.filter fun b => b.ch = n && b.state = .free
  let opened := g.sbs.filter fun b => b.ch = n && b.state = .opened
  sumOf ((free.drop keep).map g.sbSlots) +
    sumOf (opened.map fun b => (b.dies.length - 1) * g.slotsPer n * (g.pagesPer n - b.pages)) +
    sumOf ((g.stripes[n].filter fun t => !t.programming).map fun t => g.stripeSlots n t - t.filled.length)

/-- Slots that host writes may still take: two free superblocks are kept for reclamation (R345). -/
def Granary.room (g : Granary) (n : Fin 2) : Nat := g.roomBut 2 n

/-- Of the channels in service, the one with the more free slots beyond what is kept back, if it has any. -/
def Furrow.freest (c : Furrow) (keep : Nat) : Option (Fin 2) :=
  let up := fun (n : Fin 2) => c.grn.mounted[n] && c.channelUp n.val
  let r := fun (n : Fin 2) => if up n then c.grn.roomBut keep n else 0
  if r 0 = 0 ∧ r 1 = 0 then none else if r 1 ≤ r 0 then some 0 else some 1

/-- The channel a write reserves on (R345). -/
def Furrow.writeChannel (c : Furrow) : Option (Fin 2) := c.freest 2

/-- The channel a copy of a reclamation goes to: it may take the reserve, and Table 15-19 copies from N0 to N1 (R345, R347; log 44). -/
def Furrow.copyChannel (c : Furrow) : Option (Fin 2) := c.freest 0

/-- A Granary request issues to a channel: background reclamation stops there (R346). -/
def Granary.issue (g : Granary) (ns : W64) (n : Fin 2) : Granary :=
  { g with lastIssue := g.lastIssue.set n ns, bg := g.bg.set n false }

/-- Give one waiting block its slot, if there is room: it is appended on the chosen channel. A grant after a wait, or while
foreground reclamation runs on the channel, sets THROTTLED (R345, R346). -/
def Furrow.grantOne (c : Furrow) (w : GrnWrite) (waited : Bool) : Option (Furrow × GrnWrite) :=
  match c.writeChannel with
  | none => none
  | some n =>
    match (c.grn.issue c.ns n).append c.ns n (c.grn.dataSlot w.lbn w.data false) with
    | none => none
    | some (g, psa) =>
      let c := { c with grn := g }
      let c := if waited || g.fg[n] then c.modReq w.h w.tag fun q => { q with throttled := true } else c
      some (c, { w with stage := .appended psa })

/-- The blocks of a request that wait for slots. -/
def Furrow.asking (c : Furrow) (h : Handle) (tag : Tag) : List GrnWrite :=
  c.grn.writes.filter fun w => w.h = h && w.tag = tag && w.stage = WriteStage.waiting

/-- One block of a request joins those that wait for slots (R341). -/
def Furrow.grnQueue (c : Furrow) (h : Handle) (tag : Tag) (lbn : Nat) (data : List Host.Cell) : Furrow :=
  (c.modGrn fun g => { g with writes := g.writes ++ [⟨h, tag, lbn, data, .waiting⟩] }).modReq h tag fun q =>
    { q with asked := q.asked + 1 }

/-- Host writes that can still be granted on the channels in service. -/
def Furrow.hostRoom (c : Furrow) : Nat :=
  sumOf ((List.finRange 2).map fun n => if c.grn.mounted[n] && c.channelUp n.val then c.grn.room n else 0)

/-- Something a request reads from the Granary or another furrow has not come. -/
def Furrow.incoming (c : Furrow) (h : Handle) (tag : Tag) : Bool :=
  c.grn.reads.any (fun x => x.h = h && x.tag = tag) || c.pyr.txs.any fun x => x.h = h && x.req = tag && decide (0 < x.left)

/-- The waiting blocks of a request take their slots, all of them at once, when all data has come and there is room for all;
otherwise the request waits (R318, R345). -/
def Furrow.grantAll (c : Furrow) (h : Handle) (tag : Tag) : Furrow :=
  let ws := c.asking h tag
  if ws.isEmpty ∨ c.incoming h tag then c
  else if ws.length ≤ c.hostRoom then
    let waited := match c.request? h tag with | some q => q.waitNs.isSome | none => false
    c.grn.writes.zipIdx.foldl (fun (c : Furrow) p =>
      if p.1.h = h ∧ p.1.tag = tag ∧ p.1.stage = WriteStage.waiting then
        match c.grantOne p.1 waited with
        | some (c, w) => c.modGrn fun g => { g with writes := g.writes.set p.2 w }
        | none => c
      else c) c
  else c.modReq h tag fun q => { q with waitNs := match q.waitNs with | none => some c.ns | x => x }

/-- Transfers of a request are under way: blocks on their way to the Granary, reads, transactions, or bytes that others write. -/
def Furrow.transfers (c : Furrow) (h : Handle) (tag : Tag) : Bool :=
  c.grn.writes.any (fun w => w.h = h && w.tag = tag) || c.grn.reads.any (fun x => x.h = h && x.tag = tag) ||
    c.pyr.txs.any (fun x => x.h = h && x.req = tag) || (match c.request? h tag with | some q => decide (q.owed ≠ 0) | none => false)

/-- A descriptor that has done its work ends once nothing of it is under way (R315); what a move measures here is entered in the
log (R394). -/
def Furrow.settleAwait (c : Furrow) (h : Handle) (tag : Tag) : Furrow :=
  match c.request? h tag with
  | none => c
  | some q =>
    match q.phase, q.await with
    | .running, some e =>
      if c.transfers h tag then c
      else
        (q.measures.foldl (fun (c : Furrow) x => c.measure LogKind.move h 0 tag x.1 x.2.1 x.2.2) c).modReq h tag fun q =>
          { q with phase := .engineDone e, uses := [], await := none }
    | _, _ => c

/-- A request's waiting blocks take slots if they can, and it ends if it is done. -/
def Furrow.advance (c : Furrow) (h : Handle) (tag : Tag) : Furrow := (c.grantAll h tag).settleAwait h tag

/-- Settle every request that waits for its last transfers. -/
def Furrow.settleAll (c : Furrow) : Furrow := c.reqs.foldl (fun c q => c.settleAwait q.h q.tag) c

/-- A descriptor has done its work and ends with an ending once its transfers are done. -/
def Run.awaitEnd (r : Run s₀) (f : FurrowIx) (h : Handle) (tag : Tag) (e : Ending) : Run s₀ :=
  r.modFur f fun c => (c.modReq h tag fun q => { q with await := some e }).advance h tag

/-- GRANARY_RESERVE_GRANT (R345): waiting blocks of a request take slots. -/
def execGranaryReserveGrant (f : FurrowIx) (h : Handle) (tag : Tag) (s : State) : Host.Outcome State Fault Refusal :=
  ((Run.start s).modFur f fun c => c.grantAll h tag).done

/-- GRANARY_RESERVE_TIMEOUT (R318, R345): a reservation that finds no space by TTFR_BUDGET ends the request THROTTLED_GC. -/
def execGranaryReserveTimeout (f : FurrowIx) (h : Handle) (tag : Tag) (s : State) : Host.Outcome State Fault Refusal :=
  let c := s.furrow f
  (match c.request? h tag with
   | none => Run.start s
   | some q =>
     let waiting := c.grn.writes.any fun w => w.h = h && w.tag = tag && w.stage = WriteStage.waiting
     if waiting ∧ c.hostRoom < (c.asking h tag).length ∧ q.phase = Phase.running ∧ q.ttfrNs ≠ 0 ∧ q.ttfrNs ≤ elapsed c.ns q.fetchNs then
       let us := usOf (elapsed c.ns (q.waitNs.getD c.ns))
       (Run.start s).engineEnds f h tag (.bare Status.throttledGc (sat32 q.asked + 2 ^ 32 * us))
     else Run.start s).done

/-! ### Programs and the journal (R337, R340, R341) -/

/-- The oldest stripe of a channel whose program has begun and is not done. -/
def Granary.programmed (g : Granary) (n : Fin 2) : Option Stripe := g.stripes[n].find? fun t => t.programming && !t.programmed

/-- The stripes of a channel less one. -/
def dropStripe (t : Stripe) : List Stripe → List Stripe
  | [] => []
  | u :: us => if u.sb = t.sb ∧ u.page = t.page then us else u :: dropStripe t us

/-- The stripes of a channel on the word line of one of them. -/
def Granary.onLine (g : Granary) (n : Fin 2) (t : Stripe) : List Stripe :=
  let l := max 1 g.nand.parts[n].perLine.toNat
  g.stripes[n].filter fun u => u.sb = t.sb && u.page / l = t.page / l

/-- Every page that shares a word line with a stripe's pages has been programmed (R337). -/
def Granary.lineDone (g : Granary) (n : Fin 2) (t : Stripe) : Bool :=
  let l := max 1 g.nand.parts[n].perLine.toNat
  (match g.sb? n t.sb with | some b => decide (min ((t.page / l + 1) * l) (g.pagesPer n) ≤ b.pages) | none => true) &&
    (g.onLine n t).all (·.programmed)

/-- The slots of a programmed stripe lie on the NAND. -/
def Nand.store (n : Nand) (t : Stripe) : Nand := { n with slots := n.slots ++ t.filled.map fun x => (x.psa, x.slot) }

/-- A superblock whose every page is closed and whose stripes are durable is closed (R347). -/
def Granary.closeSb (g : Granary) (n : Fin 2) (k : Nat) : Granary :=
  match g.sb? n k with
  | none => g
  | some b =>
    if b.state = .opened ∧ g.pagesPer n ≤ b.pages ∧ !g.stripes[n].any (fun t => t.sb = k) then
      { g.modSb n k fun b => { b with state := .closed, closedAt := g.closes } with closes := g.closes + 1 }
    else g

/-- Do map steps for the writes and copies that a durable stripe holds (R341, R347): host writes step at once, the copies of a
reclamation once all of them are durable, a rewritten slot if its entry is unchanged. -/
def Run.slotDurable (r : Run s₀) (f : FurrowIx) (psa : Nat) : Run s₀ :=
  let g := (r.fur f).grn
  match g.writes.zipIdx.find? fun p => p.1.stage = .appended psa with
  | some (w, i) =>
    (r.mapStep f w.lbn (mapEntry psa) JKind.write).modFur f fun c => c.modGrn fun g =>
      { g with writes := g.writes.set i { w with stage := .recorded g.seq }, hostBlocks := g.hostBlocks + 1 }
  | none =>
    match g.rewrites.find? fun x => x.copy = psa with
    | some x =>
      let r := if r.mapGet f x.lbn = mapEntry x.old then r.mapStep f x.lbn (mapEntry psa) JKind.move else r
      r.modFur f fun c => c.modGrn fun g => { g with rewrites := g.rewrites.filter fun y => y.copy ≠ psa }
    | none =>
      r.modFur f fun c => c.modGrn fun g => { g with gc := g.gc.map fun j =>
        { j with scan := j.scan.map fun x => match x.2.2 with
            | some (p, d) => (x.1, x.2.1, some (p, d || p = psa))
            | none => x } }

/-- Every copy of a reclamation is durable. -/
def GcJob.copied (j : GcJob) : Bool := j.scan.all fun x => match x.2.2 with | some (_, d) => d | none => false

/-- A root record is appended to block 0 of one of the first two dies of each channel in service, in turn; a root block that is full is
erased first, when the other one holds the newest record (R349). -/
def Furrow.putRoot (c : Furrow) (x : RootRec) : Furrow :=
  c.modGrn fun g => (List.finRange 2).foldl (fun (g : Granary) n =>
    if g.mounted[n] && c.channelUp n.val then
      let die := x.seq.toNat % 2
      let mine := fun (p : Nat × NandSlot) => psaCh p.1 = n.val && psaDie p.1 = die && psaBlock p.1 = 0 && p.2.kind = SlotKind.root
      let used := (g.nand.slots.filter mine).length
      let full := decide (g.pagesPer n ≤ used)
      let kept := if full then g.nand.slots.filter fun p => !mine p else g.nand.slots
      { g with
        flashSlots := g.flashSlots + 1
        nand := { g.nand with slots := kept ++ [(psaOf n.val die 0 (if full then 0 else used) 0,
          { seq := x.seq, lbn := 0, kind := SlotKind.root, data := bytesToCells x.bytes, unreadable := false })] } }
    else g) { g with nand := { g.nand with roots := g.nand.roots ++ [x] } }

/-- The SEQ of the next root record. -/
def Nand.nextRoot (n : Nand) : W64 := (n.roots.map (·.seq)).foldl (fun a b => if a < b then b else a) 0 + 1

/-- The block table's first slot has been copied: a root record names its new place (R347, R349). -/
def Furrow.moveTable (c : Furrow) (psa : Nat) : Furrow :=
  match c.grn.nand.root with
  | some x => c.putRoot { x with seq := c.grn.nand.nextRoot, table := BitVec.ofNat 64 (mapEntry psa) }
  | none => c

/-- The map steps of a reclamation whose copies are durable; an entry that changed meanwhile takes none (R347). The copy of a system
slot takes no step: what names it is the root record and the checkpoint. -/
def Run.gcCommit (r : Run s₀) (f : FurrowIx) (j : GcJob) : Run s₀ :=
  let r := r.each j.scan fun r x =>
    match x.2.2, (r.fur f).grn.nand.slot? x.2.1 with
    | some (p, _), some y =>
      if y.kind = SlotKind.data then
        if r.mapGet f x.1 = mapEntry x.2.1 then r.mapStep f x.1 (mapEntry p) JKind.move else r
      else if y.kind = SlotKind.blockTable then r.modFur f fun c => c.moveTable p
      else r
    | _, _ => r
  r.modFur f fun c => c.modGrn fun g =>
    { g with gc := g.gc.map fun k => if k.ch = j.ch ∧ k.sb = j.sb then { k with stage := .committed g.seq } else k }

/-- Commit the reclamations that are ready to. -/
def Run.gcCommits (r : Run s₀) (f : FurrowIx) : Run s₀ :=
  r.each ((r.fur f).grn.gc.filter fun (j : GcJob) => j.stage = .copying && j.copied) fun r j => r.gcCommit f j

/-- Append again, on a channel, what a stripe holds that will not become durable (R353, log 45); its pads and its parity are not. -/
def Furrow.reappend (c : Furrow) (n : Fin 2) (t : Stripe) : Furrow :=
  (t.filled.filter fun x => x.slot.kind ≠ SlotKind.pad && x.slot.kind ≠ SlotKind.parity).foldl (fun (c : Furrow) x =>
    match c.grn.append c.ns n (c.grn.again x.slot x.slot.unreadable) with
    | none => c
    | some (g, psa) =>
      { c with grn := { g with
          writes := g.writes.map fun w => if w.stage = .appended x.psa then { w with stage := .appended psa } else w
          rewrites := g.rewrites.map fun w => if w.copy = x.psa then { w with copy := psa } else w
          gc := g.gc.map fun j => { j with scan := j.scan.map fun y => match y.2.2 with
            | some (p, d) => (y.1, y.2.1, some (if p = x.psa then psa else p, d))
            | none => y } } }) c

/-- A superblock that is being filled takes no more programs: it closes once its stripes are durable, and what waits in its open stripe
goes to another (R353; log 45). -/
def Furrow.shutSb (c : Furrow) (n : Fin 2) (k : Nat) : Furrow :=
  match c.grn.sb? n k with
  | none => c
  | some b =>
    if b.state = .opened then
      let open_ := fun (t : Stripe) => t.sb = k && !t.programming
      let ts := c.grn.stripes[n].filter open_
      ts.foldl (fun (c : Furrow) t => c.reappend n t) (c.modGrn fun g =>
        ((g.setStripes n (g.stripes[n].filter fun t => !open_ t)).modSb n k fun b => { b with pages := g.pagesPer n }).closeSb n k)
    else c

/-- A program has failed: its superblock is the next victim, and its slots are appended again (R353). -/
def Furrow.programFailed (c : Furrow) (n : Fin 2) (t : Stripe) : Furrow :=
  ((c.modGrn fun g => g.modSb n t.sb fun b => { b with urgent := true }).shutSb n t.sb).reappend n t

/-- A channel is isolated (R355): its reclamation stops, and what waited to be programmed there goes to the other channel (log 45). -/
def Furrow.isolate (c : Furrow) (n : Fin 2) : Furrow :=
  let ts := c.grn.stripes[n]
  let c := c.modGrn fun g =>
    { g.setStripes n [] with
      gc := g.gc.filter fun j => j.ch ≠ n
      fg := g.fg.set n false
      bg := g.bg.set n false
      sbs := g.sbs.map fun b => if b.ch = n ∧ b.state = .victim then { b with state := .closed } else b }
  ts.foldl (fun (c : Furrow) t => c.reappend (if n = 0 then 1 else 0) t) c

/-- The stripes of a word line that is programmed are durable: their slots' writes and copies go on (R337, R341). -/
def Run.lineDurable (r : Run s₀) (f : FurrowIx) (n : Fin 2) (t : Stripe) : Run s₀ :=
  let ts := (r.fur f).grn.onLine n t
  let r := r.modFur f fun c => c.modGrn fun g => g.setStripes n (ts.foldl (fun us t => dropStripe t us) g.stripes[n])
  let xs := (ts.flatMap (·.filled)).filter fun x => x.slot.kind ≠ SlotKind.pad && x.slot.kind ≠ SlotKind.parity
  ((r.each xs fun r x => r.slotDurable f x.psa).gcCommits f).modFur f fun c => c.modGrn fun g => g.closeSb n t.sb

/-- NAND_PROGRAM_DONE (R337, R341): the oldest programming stripe of a channel completes on every die, or fails. -/
def execNandProgramDone (f : FurrowIx) (n : Fin 2) (ok : Bool) (s : State) : Host.Outcome State Fault Refusal :=
  let r := Run.start s
  (match (s.furrow f).grn.programmed n with
   | none => r
   | some t =>
     let dies := match (s.furrow f).grn.sb? n t.sb with | some b => b.dies.length | none => 0
     let r := r.modFur f fun c => c.modGrn fun g =>
       { g with flashSlots := g.flashSlots + BitVec.ofNat 64 (dies * g.slotsPer n) }
     if ok then
       let r := r.modFur f fun c => c.modGrn fun g =>
         { g.setStripes n (g.stripes[n].map fun (u : Stripe) => if u.sb = t.sb ∧ u.page = t.page then { u with programmed := true } else u) with
           nand := g.nand.store t }
       if (r.fur f).grn.lineDone n t then r.lineDurable f n t else r
     else r.modFur f fun c => (c.modGrn fun g => g.setStripes n (dropStripe t g.stripes[n])).programFailed n t).done

/-- STRIPE_CLOSE_TIMEOUT (R337): the oldest slot of the open stripe has waited 100 µs. -/
def execStripeCloseTimeout (f : FurrowIx) (n : Fin 2) (s : State) : Host.Outcome State Fault Refusal :=
  ((Run.start s).modFur f fun c =>
    if c.grn.stripes[n].any fun t => !t.programming && !t.filled.isEmpty && decide (100000 ≤ elapsed c.ns t.since) then
      c.modGrn fun g => g.closeStripe n
    else c).done

/-! ### System slots (R336, R347, R349, R350) -/

/-- A page position for system slots: on the first channel in service that has one, in a superblock that is being filled. -/
def Furrow.systemPage (c : Furrow) : Option (Granary × Fin 2 × Superblock) :=
  (List.finRange 2).findSome? fun n =>
    if c.grn.mounted[n] && c.channelUp n.val then (c.grn.openSb n).map fun p => (p.1, n, p.2) else none

/-- The checkpoint slots of 512 entries of a map (R350); a slot of nothing but unmapped entries is left out (log 44). -/
def checkpointSlots (c : W64) (m : List (Nat × W64)) : List NandSlot :=
  (sortBy (fun (a b : Nat) => decide (a ≤ b)) (m.map (·.1 / 512)).eraseDups).map fun i =>
    { seq := c, lbn := 512 * i, kind := SlotKind.checkpoint, unreadable := false
      data := (sortBy (fun (a b : Nat × W64) => decide (a.1 ≤ b.1)) (m.filter fun p => p.1 / 512 = i)).flatMap fun p =>
        shiftCells (8 * (p.1 % 512)) (bytesToCells (leBytes 8 p.2.toNat)) }

/-- System slots are programmed, in stripes of their own (R337; log 44): the fuel is their number. Nothing is stored once no
superblock is free. -/
def Furrow.writeSystem : Nat → List NandSlot → Furrow → Furrow
  | 0, _, c => c
  | _ + 1, [], c => c
  | k + 1, x :: xs, c =>
    match c.systemPage with
    | none => c
    | some (g, n, b) =>
      let cap := max 1 ((b.dies.length - 1) * g.slotsPer n)
      let g := (g.modSb n b.num fun b => { b with pages := b.pages + 1 }).closeSb n b.num
      Furrow.writeSystem k ((x :: xs).drop cap)
        { c with grn := { g with
            flashSlots := g.flashSlots + BitVec.ofNat 64 (b.dies.length * g.slotsPer n)
            nand := { g.nand with slots := g.nand.slots ++ g.fillStripe n b b.pages ((x :: xs).take cap) } } }

/-- The map entry of the newest block-table slot (Table 15-6). -/
def Nand.tableEntry (n : Nand) : W64 :=
  match n.slots.reverse.find? fun p => p.2.kind = SlotKind.blockTable with | some p => BitVec.ofNat 64 (mapEntry p.1) | none => 0

/-- The first slot of a block table; the spec gives its contents no layout, and the model holds them apart (R350; log 44). -/
def tableSlot (seq : W64) : NandSlot :=
  { seq := seq, lbn := 0, kind := SlotKind.blockTable, data := [], unreadable := false }

/-- JOURNAL_DURABLE (R340–R342): the records so far are durable in their journal slots, and what waited on them is done. -/
def execJournalDurable (f : FurrowIx) (s : State) : Host.Outcome State Fault Refusal :=
  ((Run.start s).modFur f fun c =>
    let c := c.writeSystem c.grn.records.length (journalSlots c.grn.records.length c.grn.records)
    let c := c.modGrn fun g =>
      match g.records.getLast? with
      | none => g
      | some last =>
        { g with
          nand := { g.nand with journal := g.nand.journal ++ g.records }
          records := []
          durableSeq := last.seq
          writes := g.writes.filter fun w => match w.stage with | .recorded q => decide (last.seq < q) | _ => true }
    c.settleAll).done

/-! ### Reads (R344) -/

/-- A slot read is issued for a request: the map entry is looked up once. An unmapped block reads as zeros without touching the
NAND (R338). -/
def Run.grnIssueRead (r : Run s₀) (f : FurrowIx) (x : GrnRead) : Option (Run s₀) :=
  match mappedPsa (r.mapGet f x.lbn) with
  | none => none
  | some psa => some (r.modFur f fun c => c.modGrn fun g =>
      { g.issue c.ns ⟨psaCh psa % 2, Nat.mod_lt _ (by decide)⟩ with reads := g.reads ++ [{ x with psa := psa }] })

/-- A slot read counts against its block; 100,000 reads since the last erase schedule the superblock (R348). -/
def Granary.noteRead (g : Granary) (psa : Nat) : Granary :=
  g.modSb ⟨psaCh psa % 2, Nat.mod_lt _ (by decide)⟩ (psaBlock psa) fun b =>
    { b with reads := b.reads + 1, urgent := b.urgent || decide (100000 ≤ b.reads + 1) }

/-- A slot no longer decodes. -/
def Nand.spoil (n : Nand) (psa : Nat) : Nand :=
  { n with slots := n.slots.map fun p => if p.1 = psa then (p.1, { p.2 with unreadable := true }) else p }

/-- A slot is rewritten as a move by reclamation (R344, R348): a copy is appended, and its map step follows. -/
def Furrow.rewrite (c : Furrow) (lbn psa : Nat) : Furrow :=
  match c.grn.nand.slot? psa with
  | none => c
  | some x =>
    let n : Fin 2 := ⟨psaCh psa % 2, Nat.mod_lt _ (by decide)⟩
    match c.grn.append c.ns (c.copyChannel.getD n) (c.grn.dataSlot lbn x.data false) with
    | none => c
    | some (g, copy) => { c with grn := { g with rewrites := g.rewrites ++ [⟨lbn, psa, copy, false⟩] } }

/-- The error record of a slot that can be neither read nor rebuilt (Table 19-3): byte 48 is 1 when a rebuild was tried. -/
def nandUe (psa : Nat) (tried : Bool) (h : Handle) (tag : Tag) (op : Nat) : ErrRec :=
  { errRec 0x06 2 (bit tried) with
    ctx := BitVec.ofNat 16 h.val, tag := tag, opcode := BitVec.ofNat 8 op, addr := BitVec.ofNat 64 psa, part := BitVec.ofNat 8 (psaCh psa) }

/-- The DATA_ERROR of a request whose Granary read failed (R344, R355, R423). -/
def Furrow.nandFault (c : Furrow) (e : Eng) (psa : Nat) : Furrow × Ending :=
  c.dataError e (nandUe psa (c.channelUp (psaCh psa)) e.h e.tag e.op) 4

/-- Read a range of a context's Granary region at once, block by block (R338, R344): the bytes, and the PSA of the first block that can
be neither read nor rebuilt. THROTTLED is set when foreground reclamation shares a channel read (R346; log 50). -/
def Run.grnFetch (r : Run s₀) (f : FurrowIx) (h : Handle) (tag : Tag) (off n : Nat) : Run s₀ × Option Nat × List Byte :=
  let lo := off / 4096
  let lbns := (List.range ((off + n - 1) / 4096 + 1 - lo)).map fun i => (r.fur f).grnBaseLbn h + lo + i
  let bad := lbns.findSome? fun l => if (r.blockData f l).isNone then mappedPsa (r.mapGet f l) else none
  let bytes := match r.grnRead f h off n with | some xs => cellsToBytes xs n | none => []
  let r := r.each lbns fun r l =>
    match mappedPsa (r.mapGet f l) with
    | none => r
    | some psa =>
      r.modFur f fun c =>
        let n : Fin 2 := ⟨psaCh psa % 2, Nat.mod_lt _ (by decide)⟩
        let c := c.modGrn fun g => (g.issue c.ns n).noteRead psa
        let c := if c.grn.fg[n] then c.modReq h tag fun q => { q with throttled := true } else c
        if !c.slotReads psa && c.rebuilds psa then c.rewrite l psa else c
  (r, bad, bytes)

/-! ### Capacity and wear (R353–R356) -/

/-- U: the usable capacity in slots (R356). -/
def Furrow.usableSlots (c : Furrow) : Nat :=
  sumOf ((List.finRange 2).map fun n =>
    if c.grn.mounted[n] && c.channelUp n.val then
      sumOf (((sortBy (fun (a b : Superblock) => decide (c.grn.sbSlots a ≤ c.grn.sbSlots b)) (c.grn.sbs.filter fun b => b.ch = n)).drop 2).map
        c.grn.sbSlots)
    else 0)

/-- REPLACE and READ_ONLY follow the usable capacity (R356). -/
def Furrow.weighCapacity (c : Furrow) : Furrow :=
  if c.grn.usable then
    let u := c.usableSlots
    let l := c.grn.logicalMib.toNat * 256
    let c := if 100 * u < 107 * l then (if c.health.nandReplace then c else c.keepHealth fun h => { h with nandReplace := true }) else c
    if 100 * u < 102 * l then c.modGrn fun g => { g with state := .readOnly } else c
  else c

/-- A die is lost (R354): every superblock that includes it becomes a victim, those being filled take no more programs, and its slots are
rebuilt from now on. -/
def Furrow.loseDie (c : Furrow) (n : Fin 2) (d : Nat) : Furrow :=
  let c := c.modGrn fun g =>
    { g with
      lostDies := g.lostDies ++ [(n.val, d)]
      nand := { g.nand with dead := g.nand.dead ++ [(n.val, d)] }
      sbs := g.sbs.map fun b => if b.ch = n ∧ b.dies.contains d then
        (if b.state = .free then { b with dies := b.dies.filter (· ≠ d) } else { b with urgent := true }) else b }
  let filling := c.grn.sbs.filter fun b => b.ch = n && b.state = .opened && b.dies.contains d
  let c := filling.foldl (fun (c : Furrow) b => c.shutSb n b.num) c
  let c := c.keepHealth fun h => { h with lostDies := sat h.lostDies 1 }
  (c.raise { errRec 0x30 0 d with addr := BitVec.ofNat 64 (psaOf n.val d 0 0 0), part := BitVec.ofNat 8 n.val } []).weighCapacity

/-- 16 blocks of a die have been retired within 24 h (R354). -/
def Furrow.wornDie (c : Furrow) (n : Fin 2) (d : Nat) : Bool :=
  decide (16 ≤ (c.grn.retireLog.filter fun x => x.1 = n.val && x.2.1 = d && decide (elapsed c.ns x.2.2 < 86400000000000)).length) &&
    !c.grn.lostDies.contains (n.val, d)

/-- A block is retired (R353): its mark, its superblock's turn as a victim, the counts and the record; the 16th of a die within 24 h
loses the die. A superblock that is being filled takes no more programs. -/
def Furrow.retireBlock (c : Furrow) (ch : Fin 2) (die block : Nat) : Furrow :=
  if c.grn.retired ch.val die block then c
  else
    let c := c.modGrn fun g =>
      { (g.modBlock ch.val die block fun b => { b with retired := true }).modSb ch block fun b =>
          if b.state = .free then { b with dies := b.dies.filter (· ≠ die) } else { b with urgent := true } with
        retireLog := g.retireLog ++ [(ch.val, die, c.ns)] }
    let c := c.shutSb ch block
    let c := c.keepHealth fun h => { h with nandRetired := sat h.nandRetired 1 }
    let c := (c.raise { errRec 0x30 0 block with addr := BitVec.ofNat 64 (psaOf ch.val die block 0 0), part := BitVec.ofNat 8 ch.val }
      []).weighCapacity
    if c.wornDie ch die then c.loseDie ch die else c

/-- BLOCK_RETIRE (R353): a block of a mounted channel fails a program or erase, or reaches its rated endurance. -/
def execBlockRetire (f : FurrowIx) (b : NandBlock) (s : State) : Host.Outcome State Fault Refusal :=
  let c := s.furrow f
  (if c.grn.mounted[b.ch] ∧ b.die.val < c.grn.nand.parts[b.ch].dies.toNat ∧ b.block.toNat < c.grn.nand.parts[b.ch].blocks.toNat then
     ((Run.start s).modFur f fun c => c.retireBlock b.ch b.die.val b.block.toNat).weighHealth f
   else Run.start s).done

/-- DIE_LOST (R354): every superblock that includes the die becomes a victim, and its slots are rebuilt from now on. -/
def execDieLost (f : FurrowIx) (n : Fin 2) (die : Byte) (s : State) : Host.Outcome State Fault Refusal :=
  let c := s.furrow f
  let d := die.toNat
  (if c.grn.mounted[n] ∧ d < c.grn.nand.parts[n].dies.toNat ∧ !c.grn.lostDies.contains (n.val, d) then
     ((Run.start s).modFur f fun c => c.loseDie n d).weighHealth f
   else Run.start s).done

/-! ### Reclamation (R346–R348) -/

/-- Slots of a superblock that are still named, in ascending PSA: logical block and PSA. The map names data slots; the root record and
the current checkpoint name system slots (R347). -/
def Run.liveSlots (r : Run s₀) (f : FurrowIx) (n : Fin 2) (k : Nat) : List (Nat × Nat) :=
  let nand := (r.fur f).grn.nand
  let mine := nand.slots.filter fun p =>
    psaCh p.1 = n.val && psaBlock p.1 = k &&
      (if p.2.kind = SlotKind.data then r.mapGet f p.2.lbn = mapEntry p.1 else nand.refers p)
  (sortBy (fun (a b : Nat × NandSlot) => decide (a.1 ≤ b.1)) mine).map fun p => (p.2.lbn, p.1)

/-- The least erase count among the blocks of a superblock. -/
def Granary.sbErases (g : Granary) (b : Superblock) : Nat := (leastOf (b.dies.map fun d => g.erases b.ch.val d b.num)).getD 0

/-- Static wear levelling: the closed superblock with the least erase count, when the free ones have aged 256 beyond it (R348). -/
def Granary.wearVictim (g : Granary) (n : Fin 2) : Option Superblock :=
  let closed := sortBy (fun (a b : Superblock) => decide (g.sbErases a ≤ g.sbErases b)) (g.sbs.filter fun b => b.ch = n && b.state = .closed)
  match closed, leastOf ((g.sbs.filter fun b => b.ch = n && b.state = .free).map g.sbErases) with
  | b :: _, some e => if g.sbErases b + 256 ≤ e then some b else none
  | _, _ => none

/-- The victim of a channel (R347, R348, R353, R354): one scheduled first, the wear rule's, or the one with the fewest live slots,
ties to the earliest closed and then the lower number. -/
def Run.victim (r : Run s₀) (f : FurrowIx) (n : Fin 2) : Option Superblock :=
  let g := (r.fur f).grn
  let closed := g.sbs.filter fun b => b.ch = n && b.state = .closed
  match closed.find? (·.urgent), g.wearVictim n with
  | some b, _ => some b
  | none, some b => some b
  | none, none =>
    let live := fun (b : Superblock) => (r.liveSlots f n b.num).length
    (sortBy (fun (a b : Superblock) => decide (live a < live b) || (decide (live a = live b) && (decide (a.closedAt < b.closedAt) ||
      (decide (a.closedAt = b.closedAt) && decide (a.num ≤ b.num))))) closed).head?

/-- Copy a slot that a reclamation's scan found, if it is not copied yet and there is room (R347). -/
def Furrow.gcCopy (c : Furrow) (n : Fin 2) (psa : Nat) : Furrow :=
  match c.grn.nand.slot? psa with
  | none => c
  | some y =>
    match c.grn.append c.ns (c.copyChannel.getD n) (c.grn.again y (y.unreadable && !c.rebuilds psa)) with
    | none => c
    | some (g, copy) => { c with grn := { g with gc := g.gc.map fun j =>
        if j.ch = n then { j with scan := j.scan.map fun x => if x.2.1 = psa then (x.1, psa, some (copy, false)) else x } else j } }

/-- A channel's reclamation begins with its victim, or takes up the one that waits for room; every live slot is copied (R347). -/
def Run.gcBegin (r : Run s₀) (f : FurrowIx) (n : Fin 2) : Run s₀ :=
  let job := fun (g : Granary) => g.gc.find? fun j => j.ch = n
  let r := match job (r.fur f).grn, r.victim f n with
    | none, some b =>
      let live := r.liveSlots f n b.num
      r.modFur f fun c => c.modGrn fun g =>
        { g.modSb n b.num fun b => { b with state := .victim } with gc := g.gc ++ [⟨n, b.num, .copying, live.map fun x => (x.1, x.2, none)⟩] }
    | _, _ => r
  match job (r.fur f).grn with
  | some j => (r.each (j.scan.filter fun x => x.2.2.isNone) fun r x => r.modFur f fun c => c.gcCopy n x.2.1).gcCommits f
  | none => r

/-- A scheduled superblock of a channel waits (R348, R354). -/
def Granary.hasUrgent (g : Granary) (n : Fin 2) : Bool := g.sbs.any fun b => b.ch = n && b.state = .closed && b.urgent

/-- GC_BACKGROUND_START (R346): the channel is idle, and below BG_FREE or with a victim scheduled. -/
def execGcBackgroundStart (f : FurrowIx) (n : Fin 2) (s : State) : Host.Outcome State Fault Refusal :=
  let c := s.furrow f
  (if c.grn.usable && c.grn.mounted[n] && c.channelUp n.val && (decide (c.grn.freeSbs n < c.grn.bgFree.toNat) || c.grn.hasUrgent n) &&
      decide (c.grn.idleUs.toNat * 1000 ≤ elapsed c.ns c.grn.lastIssue[n]) then
     ((Run.start s).modFur f fun c => c.modGrn fun g => { g with bg := g.bg.set n true }).gcBegin f n
   else Run.start s).done

/-- A write waits because no channel has room for it (R345). -/
def Furrow.starved (c : Furrow) : Bool :=
  c.reqs.any fun q => q.waitNs.isSome && decide (c.hostRoom < (c.asking q.h q.tag).length)

/-- A GRN_RECLAIM runs for the channel and has not reached its target. -/
def Granary.wantsReclaim (g : Granary) (n : Fin 2) : Bool :=
  match g.reclaim with
  | some (_, _, ch, target, _, _) => ch.getLsbD n.val && decide (g.freeSbs n < target.toNat)
  | none => false

/-- Foreground reclamation runs on a channel (R345, R346, R358): it is below FG_FREE, a write waits for room, or GRN_RECLAIM runs on it. -/
def Furrow.needsFg (c : Furrow) (n : Fin 2) : Bool := decide (c.grn.freeSbs n < c.grn.fgFree.toNat) || c.starved || c.grn.wantsReclaim n

/-- GC_FOREGROUND_START (R345, R346, R358). -/
def execGcForegroundStart (f : FurrowIx) (n : Fin 2) (s : State) : Host.Outcome State Fault Refusal :=
  let c := s.furrow f
  (if c.grn.usable && c.grn.mounted[n] && c.channelUp n.val && c.needsFg n then
     ((Run.start s).modFur f fun c => c.modGrn fun g => { g with fg := g.fg.set n true }).gcBegin f n
   else Run.start s).done

/-- A superblock is erased (R347, R353): its blocks that are not retired nor of a lost die have one more erase, a block at its rated endurance is retired, and it is free
without its retired blocks, if it can still hold a stripe (R333). -/
def Furrow.eraseSb (c : Furrow) (n : Fin 2) (b : Superblock) : Furrow :=
  let live := b.dies.filter fun d => !c.grn.retired n.val d b.num && !c.grn.lostDies.contains (n.val, d)
  let c := live.foldl (fun (c : Furrow) d =>
    let c := c.modGrn fun g => g.modBlock n.val d b.num fun i => { i with erases := i.erases + 1 }
    if c.grn.nand.parts[n].endurance.toNat * 100 ≤ c.grn.erases n.val d b.num then c.retireBlock n d b.num else c) c
  c.modGrn fun g =>
    let g := g.modSb n b.num fun b => { b with state := .free, pages := 0, reads := 0, urgent := false, dirty := false, dies := g.diesOf n b.num }
    { g with sbs := g.sbs.filter fun x => !(x.ch = n && x.num = b.num) || decide (2 ≤ x.dies.length) }

/-- Reclamation of a channel goes on or stops after an erase (R346, R358). -/
def Furrow.gcStops (c : Furrow) (n : Fin 2) : Furrow :=
  c.modGrn fun g =>
    { g with
      fg := g.fg.set n (g.fg[n] && c.needsFg n)
      bg := g.bg.set n (g.bg[n] && (decide (g.freeSbs n < g.bgFree.toNat) || g.hasUrgent n)) }

/-- GC_ERASE (R347): the move records up to e are durable, and no read in flight looked up a slot of the victim: the erase begins. -/
def execGcErase (f : FurrowIx) (n : Fin 2) (s : State) : Host.Outcome State Fault Refusal :=
  let g := (s.furrow f).grn
  (match g.gc.find? fun (j : GcJob) => j.ch = n with
   | none => Run.start s
   | some j =>
     match j.stage with
     | .committed e =>
       if e ≤ g.durableSeq ∧ !g.reads.any (fun x => psaCh x.psa = n.val && psaBlock x.psa = j.sb) then
         (Run.start s).modFur f fun c => c.modGrn fun g =>
           { g with
             gc := g.gc.map fun (k : GcJob) => if k.ch = n then { k with stage := .erasing } else k
             nand := { g.nand with slots := g.nand.slots.filter fun p =>
               !(psaCh p.1 = n.val && psaBlock p.1 = j.sb && p.2.kind ≠ SlotKind.root) } }
       else Run.start s
     | _ => Run.start s).done

/-- A block that fails its erase is retired (R353): one of the victim that is being erased, or any block of a channel that a format
erases. -/
def Furrow.eraseFailed (c : Furrow) (n : Fin 2) (bad : Option NandBlock) : Furrow :=
  match bad with
  | none => c
  | some b =>
    let victim := c.grn.gc.any fun j => j.ch = n && j.stage = GcStage.erasing && decide (j.sb = b.block.toNat)
    if b.ch = n ∧ (victim ∨ c.grn.format.isSome) then c.retireBlock n b.die.val b.block.toNat else c

/-- NAND_ERASE_DONE (R347, R353): the erase of a victim is done on every die, and the superblock is free; reclamation goes on with the
next victim if it must. A block whose erase failed is retired. -/
def execNandEraseDone (f : FurrowIx) (n : Fin 2) (bad : Option NandBlock) (s : State) : Host.Outcome State Fault Refusal :=
  let r := (Run.start s).modFur f fun c => c.eraseFailed n bad
  let g := (r.fur f).grn
  (match g.gc.find? fun (j : GcJob) => j.ch = n && j.stage = GcStage.erasing with
   | none => r.weighHealth f
   | some j =>
     let r := r.modFur f fun c =>
       let c := match g.sb? n j.sb with | some b => c.eraseSb n b | none => c
       (c.modGrn fun g =>
         { g with
           gc := g.gc.filter fun k => k.ch ≠ n
           reclaim := match g.reclaim with
             | some (h, t, ch, target, lim, k) => some (h, t, ch, target, lim, if ch.getLsbD n.val then k + 1 else k)
             | none => none }).gcStops n
     let r := r.weighHealth f
     if (r.fur f).grn.fg[n] || (r.fur f).grn.bg[n] then r.gcBegin f n else r).done

/-- GRANARY_PATROL (R348): a closed superblock is read once in 7 days, and a slot that needed more than the first pass is moved; a system
slot moves with its superblock, which is scheduled as a victim. -/
def execGranaryPatrol (f : FurrowIx) (n : Fin 2) (sb : W16) (soft : Option (BitVec 40)) (s : State) :
    Host.Outcome State Fault Refusal :=
  ((Run.start s).modFur f fun c =>
    match c.grn.sb? n sb.toNat with
    | none => c
    | some b =>
      if b.state = .closed ∧ 604800000000000 ≤ elapsed c.ns b.patrol then
        let c := c.modGrn fun g => g.modSb n sb.toNat fun b => { b with patrol := c.ns }
        match soft with
        | some psa =>
          (match c.grn.nand.slot? psa.toNat with
           | some x =>
             if psaBlock psa.toNat ≠ sb.toNat ∨ psaCh psa.toNat ≠ n.val then c
             else if x.kind = SlotKind.data then c.rewrite x.lbn psa.toNat
             else c.modGrn fun g => g.modSb n sb.toNat fun b => { b with urgent := true }
           | none => c)
        | none => c
      else c).done

/-- ZQ_CALIBRATE (R332): short calibration every 100 ms while mounted. -/
def execZqCalibrate (f : FurrowIx) (s : State) : Host.Outcome State Fault Refusal :=
  ((Run.start s).modFur f fun c =>
    if c.grn.usable ∧ 100000000 ≤ elapsed c.ns c.grn.zqLast then
      c.modGrn fun g => { g with zqLast := c.ns, zqCount := g.zqCount + 1 }
    else c).done

/-! ### Checkpoints (R350) -/

/-- The map entries that are not zero after replaying journal records over a checkpoint's. -/
def replay (m : List (Nat × W64)) (rs : List JRec) : List (Nat × W64) :=
  rs.foldl (fun m x =>
    let m := m.filter fun p => p.1 ≠ x.lbn
    if x.new = 0 then m else m ++ [(x.lbn, x.new)]) m

/-- CHECKPOINT_START (R350). -/
def execCheckpointStart (f : FurrowIx) (s : State) : Host.Outcome State Fault Refusal :=
  ((Run.start s).modFur f fun c =>
    if c.grn.usable ∧ c.grn.ckptSeq = none ∧ 16777216 ≤ c.grn.sinceCkpt then c.modGrn fun g => { g with ckptSeq := some g.seq } else c).done

/-- The GEOMETRY field of a root record (Table 15-6). -/
def Granary.geometry (g : Granary) : W32 :=
  let p := if g.mounted[0] then g.nand.parts[0] else g.nand.parts[1]
  BitVec.ofNat 32 ((if g.mounted[0] then g.nand.parts[0].dies.toNat else 0) + 2 ^ 8 * (if g.mounted[1] then g.nand.parts[1].dies.toNat else 0) +
    2 ^ 16 * p.planes.toNat + 2 ^ 20 * (p.pageKib.toNat / 8))

/-- CHECKPOINT_DONE (R350): the checkpoint and the block table are durable, and a root record commits them; the records it covers
are freed. -/
def execCheckpointDone (f : FurrowIx) (s : State) : Host.Outcome State Fault Refusal :=
  ((Run.start s).modFur f fun c =>
    match c.grn.ckptSeq with
    | none => c
    | some e =>
      if c.grn.durableSeq < e then c
      else
        let base := match c.grn.nand.ckpt with | some (_, m) => m | none => []
        let m := replay base c.grn.nand.journal
        let rest := c.grn.nand.journal.filter fun x => decide (e < x.seq)
        let xs := checkpointSlots e m ++ [tableSlot e]
        let c := (c.writeSystem xs.length xs).modGrn fun g =>
          { g with
            ckptSeq := none, sinceCkpt := rest.length + g.records.length
            nand := { g.nand with ckpt := some (e, m), journal := rest, table := some ⟨g.blocks, g.hostBlocks, g.flashSlots⟩ } }
        c.putRoot ⟨c.grn.nand.nextRoot, c.grn.logicalMib, c.grn.geometry, e, c.grn.nand.tableEntry⟩).done

/-! ### Mount (R351, R352) -/

/-- GRN_MOUNT (R351): ENABLE = 1 while OFFLINE. A furrow that has been zeroised stays OFFLINE until its next reset (R402). -/
def execGrnMount (f : FurrowIx) (s : State) : Host.Outcome State Fault Refusal :=
  ((Run.start s).modFur f fun c =>
    if c.grn.state = .offline ∧ !c.grn.barred ∧ c.serves then c.modGrn fun g => { g with state := .mounting } else c).done

/-- The prefix of journal records whose SEQ follow one another from one on. -/
def gapless : W64 → List JRec → List JRec
  | _, [] => []
  | k, x :: xs => if x.seq = k + 1 then x :: gapless (k + 1) xs else []

/-- The channels that can be mounted: in service, with parts that meet R332. -/
def Furrow.mountable (c : Furrow) (n : Fin 2) : Bool := c.channelUp n.val && c.grn.nand.parts[n].meets

/-- The error of a mount (Table 15-7), or 0 (log 46). -/
def Furrow.mountError (c : Furrow) (readable : Bool) : Byte :=
  let g := { c.grn with mounted := #v[c.mountable 0, c.mountable 1] }
  if !c.channelUp 0 && !c.channelUp 1 then 5
  else if !c.mountable 0 && !c.mountable 1 then 3
  else match g.nand.root with
    | none => 1
    | some x =>
      let at_ := g.mapBase.toNat * hbmUnit
      let n := x.logicalMib.toNat * 2048
      if x.geometry ≠ g.geometry then 3
      else if hbmBytes < at_ + n ∨ c.hbmOwned at_ n then 2
      else if !readable ∨ g.nand.ckpt = none ∨ g.nand.table = none then 4
      else 0

/-- The superblocks of a channel after a mount: closed where the map, the root record or the checkpoint names a slot, free elsewhere
(R351). -/
def Granary.formSbs (g : Granary) (n : Fin 2) (named : List Nat) : List Superblock :=
  ((List.range g.nand.parts[n].blocks.toNat).map fun k =>
    let used := named.any fun p => psaCh p = n.val && psaBlock p = k
    let old := g.nand.slots.any fun p => psaCh p.1 = n.val && psaBlock p.1 = k && p.2.kind ≠ SlotKind.root
    (⟨n, k, if used then .closed else .free, g.diesOf n k, if used then g.pagesPer n else 0, 0, 0, 0, false, !used && old⟩ : Superblock)).filter
      fun b => decide (2 ≤ b.dies.length)

/-- The Granary after a mount that succeeds, over the map it has rebuilt. -/
def Granary.mountedFrom (g : Granary) (root : RootRec) (table : BlockTable) (last : W64) (m : List (Nat × W64)) (steps : Nat) : Granary :=
  let g := { g with blocks := table.blocks, hostBlocks := table.host, flashSlots := table.flash, logicalMib := root.logicalMib,
                    lostDies := g.nand.dead.filter fun d => (if d.1 = 0 then g.mounted[0] else g.mounted[1]) }
  let named := (m.filterMap fun p => mappedPsa p.2.toNat) ++ (g.nand.slots.filter g.nand.refers).map (·.1)
  { g with
    state := .ready, error := 0, seq := last, durableSeq := last, records := [], writes := [], reads := [], gc := [], rewrites := []
    stripes := Vector.replicate 2 [], sinceCkpt := steps, ckptSeq := none
    sbs := (if g.mounted[0] then g.formSbs 0 named else []) ++ if g.mounted[1] then g.formSbs 1 named else [] }

/-- GRN_MOUNT_DONE (R351, R352): the mount fails with an error, or the map is rebuilt from the checkpoint and the durable journal. -/
def execGrnMountDone (f : FurrowIx) (readable : Bool) (s : State) : Host.Outcome State Fault Refusal :=
  let c := s.furrow f
  let r := Run.start s
  (if c.grn.state ≠ .mounting then r
   else
     let e := c.mountError readable
     match c.grn.nand.root, c.grn.nand.ckpt, c.grn.nand.table with
     | some root, some (at_, base), some table =>
       if e ≠ 0 then r.modFur f fun c => c.modGrn fun g => { g with state := .offline, error := e }
       else
         let rs := gapless at_ c.grn.nand.journal
         let m := replay base rs
         let last := match rs.getLast? with | some x => x.seq | none => at_
         let r := r.modFur f fun c =>
           { c with grn := ({ c.grn with mounted := #v[c.mountable 0, c.mountable 1],
                                         zqLast := c.ns, nand := { c.grn.nand with journal := rs } }).mountedFrom root table last m rs.length }
         let base := (c.grn.mapBase.toNat * hbmUnit)
         let r := r.blank f (.hbm f) base (root.logicalMib.toNat * 2048)
         ((r.each m fun r p => r.write (.hbm f) (base + 8 * p.1) (leBytes 8 p.2.toNat)).modFur f fun c => c.weighCapacity).weighHealth f
     | _, _, _ => r.modFur f fun c => c.modGrn fun g => { g with state := .offline, error := if e = 0 then 4 else e }).done

/-! ### Descriptors (R358, R359) -/

/-- The checks at fetch of a GRN_DISCARD. The extent in a context's own region is one of them; handle 0's depends on LOGICAL_MIB and
is checked at the start (R476). -/
def fetchGrnDiscard (c : Furrow) (h : Handle) (d : List Byte) : Option Refuse :=
  firstFail [reservedField d 16 8 63 48, reservedBytes d 36 63, badIf (decide (df d 16 8 % 4096 ≠ 0)) 16,
    badIf (decide (df d 24 8 % 4096 ≠ 0) || decide (df d 24 8 = 0)) 24,
    badIf (decide (h ≠ 0 ∧ df d 32 4 = 0) && !c.grnInside h (df d 16 8) (df d 24 8)) 16]

/-- The checks of a GRN_DISCARD when it starts: on a span the member named checks its own Granary and region. -/
def startGrnDiscard (c : Furrow) (q : Request) : Option Refuse :=
  let d := q.desc
  let mine := decide (c.flatNumber q = df d 32 4)
  firstFail [badIf (mine && !c.grn.usable) 0, badIf (mine && !c.grnInside q.h (df d 16 8) (df d 24 8)) 16,
    badIf (q.origin.isNone && decide (c.spanFurrows q.h ≤ df d 32 4)) 32]

/-- GRN_DISCARD (R342): map steps to zero, and the end once their records are durable. -/
def execGrnDiscard (f : FurrowIx) (h : Handle) (tag : Tag) (s : State) : Host.Outcome State Fault Refusal :=
  (match (s.furrow f).atWork h tag 0x80 with
   | none => Run.start s
   | some q =>
     let d := q.desc
     if (s.furrow f).flatNumber q ≠ df d 32 4 then (Run.start s).engineEnds f h tag (Ending.ok 0 0)
     else
       let lo := (s.furrow f).grnBaseLbn h + df d 16 8 / 4096
       let n := df d 24 8 / 4096
       let r := (Run.start s).each ((List.range n).map (lo + ·)) fun r l => r.discard f h tag l
       r.awaitEnd f h tag (Ending.ok (satCount n) (r.fur f).grn.seq.toNat)).done

/-- The checks at fetch of a GRN_FORMAT. -/
def fetchGrnFormat (h : Handle) (d : List Byte) : Option Refuse :=
  firstFail [badIf (decide (h ≠ 0)) 0, reservedBits d 20 7 1, reservedBytes d 21 63, badIf (decide (df d 16 4 = 0)) 16]

/-- Blocks marked bad at the factory. -/
def NandPart.badBlocks (p : NandPart) (ch : Nat) : List BlockInfo := p.bad.map fun b => ⟨ch, b.1, b.2, 0, true⟩

/-- The Granary that a format finds: channels that can be mounted, the marks of blocks that fail in it, the old marks unless FRESH,
and the factory's. -/
def Furrow.formatView (c : Furrow) (fresh : Bool) (failed : List BlockInfo) : Granary :=
  let old := failed ++ (if fresh then [] else match c.grn.nand.table with | some t => t.blocks | none => []).filter fun (o : BlockInfo) =>
    !failed.any fun (b : BlockInfo) => o.ch = b.ch && o.die = b.die && o.block = b.block
  let factory := c.grn.nand.parts[0].badBlocks 0 ++ c.grn.nand.parts[1].badBlocks 1
  let g := { c.grn with
    mounted := #v[c.mountable 0, c.mountable 1]
    blocks := old ++ factory.filter fun (b : BlockInfo) => !old.any fun (o : BlockInfo) => o.ch = b.ch && o.die = b.die && o.block = b.block
    lostDies := c.grn.nand.dead }
  { g with sbs := (if c.mountable 0 then g.formSbs 0 [] else []) ++ if c.mountable 1 then g.formSbs 1 [] else [] }

/-- The checks of a GRN_FORMAT when it starts (R359). -/
def startGrnFormat (c : Furrow) (d : List Byte) : Option Refuse :=
  let g := c.formatView ((df d 20 1).testBit 0) []
  badIf (decide (c.grn.state ≠ .offline) || ((List.finRange 64).any fun h => decide (c.ctx[h].grnSize ≠ 0)) || c.grn.barred ||
    decide (93 * { c with grn := g }.usableSlots < 100 * (df d 16 4 * 256))) 16

/-- A format that has started shows in STATE (R358). -/
def Furrow.beginFormat (c : Furrow) (h : Handle) (tag : Tag) (d : List Byte) : Furrow :=
  c.modGrn fun g => { g with state := .formatting, blocks := [], format := some (h, tag, BitVec.ofNat 32 (df d 16 4)) }

/-- Every block that is not retired has been erased once more. -/
def Granary.erasedOnce (g : Granary) : List BlockInfo :=
  (List.finRange 2).flatMap fun n =>
    if g.mounted[n] then
      (List.range g.nand.parts[n].dies.toNat).flatMap fun d => (List.range g.nand.parts[n].blocks.toNat).map fun k =>
        if g.retired n.val d k then ⟨n.val, d, k, BitVec.ofNat 32 (g.erases n.val d k), true⟩
        else ⟨n.val, d, k, BitVec.ofNat 32 (g.erases n.val d k + 1), false⟩
    else []

/-- GRN_FORMAT (R358): the parts are erased, and an empty block table, a checkpoint of an unmapped map and a root record with SEQ 1
and CKPT_SEQ 1 are written; STATE is OFFLINE again. -/
def execGrnFormat (f : FurrowIx) (h : Handle) (tag : Tag) (s : State) : Host.Outcome State Fault Refusal :=
  runDesc 0x81 f h tag s fun q r =>
    let fresh := (df q.desc 20 1).testBit 0
    let mib' := df q.desc 16 4
    (r.modFur f fun c =>
      let g := c.formatView fresh (c.grn.blocks.filter (·.retired))
      let t : BlockTable := ⟨g.erasedOnce, if fresh then 0 else (c.grn.nand.table.map (·.host)).getD 0,
        if fresh then 0 else (c.grn.nand.table.map (·.flash)).getD 0⟩
      let erased := { c.grn.nand with slots := [], journal := [], ckpt := some (1, []), table := some t, roots := [] }
      let x := Furrow.writeSystem 1 [tableSlot 1] { c with grn := { g with nand := erased } }
      let g := (x.putRoot ⟨1, BitVec.ofNat 32 mib', x.grn.geometry, 1, x.grn.nand.tableEntry⟩).grn
      c.modGrn fun o => { o with state := .offline, format := none, nand := g.nand },
     Ending.ok 0 mib')

/-- The checks at fetch of a GRN_RECLAIM: CHANNELS selects some of N0 and N1, and nothing else. -/
def fetchGrnReclaim (h : Handle) (d : List Byte) : Option Refuse :=
  firstFail [badIf (decide (h ≠ 0)) 0, badIf (decide (df d 16 1 = 0) || decide (4 ≤ df d 16 1)) 16, reservedBytes d 17 17,
    reservedBytes d 24 63]

/-- The checks of a GRN_RECLAIM when it starts (R359). -/
def startGrnReclaim (c : Furrow) (d : List Byte) : Option Refuse :=
  firstFail [badIf (!c.grn.usable) 0,
    badIf (!(List.finRange 2).any fun n => (df d 16 1).testBit n.val && c.grn.mounted[n] && c.channelUp n.val) 16,
    badIf (decide (c.grn.bgFree.toNat < df d 18 2)) 18]

/-- A reclaim that has started: its limit runs from now on, and foreground reclamation may start on those of its channels that are in
service. -/
def Furrow.beginReclaim (c : Furrow) (h : Handle) (tag : Tag) (d : List Byte) : Furrow :=
  let up := sumOf ((List.finRange 2).map fun n => if (df d 16 1).testBit n.val && c.grn.mounted[n] && c.channelUp n.val then 2 ^ n.val else 0)
  (c.modGrn fun g => { g with reclaim := some (h, tag, BitVec.ofNat 2 up, BitVec.ofNat 16 (df d 18 2), BitVec.ofNat 32 (df d 20 4), 0) }).modReq
    h tag fun q => { q with waitNs := some c.ns }

/-- GRN_RECLAIM (R358): its end, once every channel chosen has TARGET free superblocks, or LIMIT has passed. -/
def execGrnReclaim (f : FurrowIx) (h : Handle) (tag : Tag) (s : State) : Host.Outcome State Fault Refusal :=
  (match (s.furrow f).atWork h tag 0x82, (s.furrow f).grn.reclaim with
   | some q, some (_, _, _, _, limit, freed) =>
     let c := s.furrow f
     let clear := fun (e : Ending) =>
       ((Run.start s).modFur f fun c => ((c.modGrn fun g => { g with reclaim := none }).gcStops 0).gcStops 1).engineEnds f h tag e
     if !c.grn.wantsReclaim 0 && !c.grn.wantsReclaim 1 then clear (Ending.ok (satCount freed) 0)
     else if limit.toNat * 1000 ≤ elapsed c.ns (q.waitNs.getD c.ns) then
       clear { (Ending.ok (satCount freed) 0) with
         status := Status.doneShort, detail := BitVec.ofNat 64 (c.grn.freeSbs 0 + 2 ^ 16 * c.grn.freeSbs 1) }
     else Run.start s
   | _, _ => Run.start s).done

/-- The estimate of a GRN_DISCARD (R359). -/
def costGrnDiscard (d : List Byte) : Cost := .flat (1000 + 2 * (df d 24 8 / 4096))

end Sys2Proof.Machine
end

