-- ==== Sys2Proof/Machine/Moves.lean ====
section
/-! DEFINITION. Movement between memory tiers (chapter 14): locations and moves, transfers over the Granary and the fabric, tiered
objects, and the opcodes 0x10–0x15. -/

namespace Sys2Proof.Machine

variable {s₀ : State}

/-! ### Transfers (R312, R315) -/

/-- A spot n bytes further on. -/
def Spot.at (p : Spot) (n : Nat) : Spot := { p with off := p.off + n }

/-- Open a transaction with another furrow: its packet, and the entry that waits for the answer (R365, R371). A read of n bytes
asks for them; a write carries them. -/
def Furrow.transact (c : Furrow) (f : FurrowIx) (h : Handle) (tag : Tag) (kind : Byte) (p : Spot) (n : Nat) (payload : List Byte)
    (dst : Spot) : Furrow :=
  let t := c.pyr.nextTag
  let read := kind = Kind.readReq
  let x : Outstanding :=
    { tag := t, h := h, req := tag, dest := p.peer, kind := kind, len := n, left := if read then n else 0, got := [], dst := dst,
      raddr := p.off, since := c.ns }
  (c.modPyr fun y => { y with nextTag := t + 1, txs := y.txs ++ [x] }).route f
    { c.packet f kind p.peer p.span t with
      addr := BitVec.ofNat 64 p.off, aux := if read then BitVec.ofNat 32 n else 0, payload := payload }

/-- Sparse cells of a part of a range. -/
def cellsIn (cells : List Host.Cell) (off n : Nat) : List Host.Cell :=
  (cells.filter fun c => decide (off ≤ c.1 ∧ c.1 < off + n)).map fun c => (c.1 - off, c.2)

/-- Bytes that a request brings into the copy of an attached object are an engine's writes, but for those of a TIER_FETCH (R322). -/
def Furrow.fetching (c : Furrow) (h : Handle) (tag : Tag) : Bool :=
  (c.request? h tag).any fun q => (opcodeOf q.desc).toNat = 0x13

/-- n bytes reach the spot they go to: a memory of this furrow, the host, blocks that wait for Granary slots, or WRITE packets. The scratch of
a core that no longer serves the context takes none (R309), nor does a host behind a lost port (R13). -/
def Run.arrive (r : Run s₀) (f : FurrowIx) (h : Handle) (tag : Tag) (dst : Spot) (n : Nat) (cells : List Host.Cell) : Run s₀ :=
  match dst.tier with
  | 3 => (inPieces 1024 (cellsToBytes cells n)).foldl (fun r p =>
      r.modFur f fun c => c.transact f h tag Kind.write (dst.at p.1) p.2.length p.2 dst) r
  | 4 => r.modFur f fun c => (List.range (n / 4096)).foldl (fun (c : Furrow) i =>
      c.grnQueue h tag (c.grnBaseLbn h + dst.off / 4096 + i) (cellsIn cells (4096 * i) 4096)) c
  | 5 => if r.now.hdl.carries then r.paste .host ((r.fur f).hostAt h dst.off) n cells else r
  | 0 => if (r.fur f).coreServes h dst.core then r.put f h dst.core 0 dst.off n cells else r
  | t => if (r.fur f).fetching h tag then r.put f h dst.core t dst.off n cells else r.storeCells f h dst.core t dst.off n cells

/-- The pieces of a byte range that lie in one unit each: offset in the range, address, length. -/
def cutAt (unit off n : Nat) : List (Nat × Nat × Nat) :=
  let lo := off / unit
  (List.range ((off + n - 1) / unit + 1 - lo)).map fun i =>
    let a := max off ((lo + i) * unit)
    (a - off, a, min (off + n) ((lo + i + 1) * unit) - a)

/-- Copy n bytes. What must be read from the Granary or another furrow is asked for, and goes on when it comes. -/
def Run.transfer (r : Run s₀) (f : FurrowIx) (h : Handle) (tag : Tag) (src dst : Spot) (n : Nat) : Run s₀ :=
  match src.tier with
  | 3 => (cutAt 4096 0 n).foldl (fun r p =>
      r.modFur f fun c => c.transact f h tag Kind.readReq (src.at p.1) p.2.2 [] (dst.at p.1)) r
  | 4 => (cutAt 4096 src.off n).foldl (fun r p =>
      let lbn := (r.fur f).grnBaseLbn h + p.2.1 / 4096
      match r.grnIssueRead f ⟨h, tag, lbn, 0, p.2.1 % 4096, p.2.2, dst.at p.1⟩ with
      | some r => r
      | none => r.arrive f h tag (dst.at p.1) p.2.2 []) r
  | 5 => r.arrive f h tag dst n ((r.now.mem .host).slice ((r.fur f).hostAt h src.off) n)
  | t => r.arrive f h tag dst n (r.loadCells f h src.core t src.off n)

/-- The bytes at a spot become undefined (Table 14-4): free bytes, but for the Granary, whose blocks are old or new. -/
def Run.undefine (r : Run s₀) (f : FurrowIx) (h : Handle) (tag : Tag) (dst : Spot) (n : Nat) : Run s₀ :=
  if dst.tier = 4 then r
  else
    let p := r.freeBytes n
    p.2.arrive f h tag dst n (bytesToCells p.1)

/-- The first piece of a local spot that holds uncorrectable data. -/
def Furrow.spotBad (c : Furrow) (f : FurrowIx) (h : Handle) (p : Spot) (n : Nat) : Option (Space × Nat × Nat) :=
  if p.tier < 3 then c.meets f h p.core p.tier p.off n else none

/-! ### Moves (Tables 14-2 and 14-3) -/

/-- A MOVE, or an entry of a MOVE_LIST. -/
structure Move where
  src     : Loc
  dst     : Loc
  len     : Nat
  measure : Bool

/-- The move that 41 bytes from an offset spell: SRC, DST, LENGTH, OPTS. -/
def Move.of (bs : List Byte) (o : Nat) : Move :=
  ⟨Loc.of bs o, Loc.of bs (o + 16), bitsOf (fieldAt bs (o + 32) 8) 40 0, (fieldAt bs (o + 40) 1).testBit 0⟩

/-- The executing member (R312). -/
def Move.executor (m : Move) : Nat :=
  if m.src.member = m.dst.member ∨ m.src.tier ≠ 2 then m.src.member else if m.dst.tier ≠ 2 then m.dst.member else m.src.member

/-- A location as a spot for a member that executes: HBM of another member is tier T3. -/
def Loc.spot (l : Loc) (exec : Nat) (ids : List (FabricId × W32)) : Spot :=
  if l.member = exec then ⟨l.tier, l.core, l.addr, 0, 0⟩
  else let x := ids.getD l.member (0, 0); ⟨3, 0, l.addr, x.1, x.2⟩

/-- Two location extents share bytes on one member and tier. -/
def Loc.overlap (a : Loc) (n : Nat) (b : Loc) (m : Nat) : Bool :=
  a.member == b.member && a.tier == b.tier && (a.tier != 0 || a.core == b.core) && overlaps a.addr n b.addr m

/-- The bytes of a location that its layout marks reserved or zero, at a base in the move's bytes (Table 14-2). -/
def locReserved (bs : List Byte) (b i : Nat) : Bool :=
  let v := (bs.getD (b + i) 0).toNat
  let tier := (bs.getD (b + 8) 0).toNat
  match i with
  | 6 | 7 => decide (tier ≠ 5 ∧ v ≠ 0)
  | 9 => if tier = 0 then decide (64 ≤ v) else decide (v ≠ 0)
  | 10 | 11 => decide (v ≠ 0)
  | _ => false

/-- The reserved bytes and bits of a move, in byte order (R54, R313, R314); `at_` gives the descriptor byte to name. -/
def moveReserved (bs : List Byte) (listed : Bool) (at_ : Nat → Nat) : Option Refuse :=
  (List.range (if listed then 48 else 41)).findSome? fun i =>
    let v := (bs.getD i 0).toNat
    failIf (if i < 16 then locReserved bs 0 i else if i < 32 then locReserved bs 16 (i - 16)
      else if i = 37 ∨ i = 40 then decide (2 ≤ v) else decide (37 < i ∧ v ≠ 0)) (.reserved (at_ i))

/-- What a location by itself must be (R311, R313): a known tier, alignment, and member 0 for a host. -/
def Loc.shape (l : Loc) (align b : Nat) (at_ : Nat → Nat) : Option Refuse :=
  firstFail [badIf (decide (l.addr % align ≠ 0)) (at_ b), badIf (!([0, 1, 2, 4, 5].contains l.tier)) (at_ (b + 8)),
    badIf (decide (l.tier = 5 ∧ l.member ≠ 0)) (at_ (b + 12))]

/-- The checks of a move on its own bytes (R311–R313, R316, R395). -/
def Move.shape (m : Move) (bs : List Byte) (at_ : Nat → Nat) : Option Refuse :=
  let align := if m.dst.tier = 4 then 4096 else 64
  firstFail [m.src.shape align 0 at_, m.dst.shape align 16 at_,
    badIf (decide (m.src.member ≠ m.dst.member ∧ m.src.tier ≠ 2 ∧ m.dst.tier ≠ 2)) (at_ 12),
    badIf (decide (m.len % align ≠ 0) || decide (m.len < 64) || (bs.getD 37 0 != 0 && decide (fieldAt bs 32 5 ≠ 0))) (at_ 32),
    badIf (m.src.overlap m.len m.dst m.len) (at_ 16),
    badIf (m.measure && m.dst.tier != 1 && m.dst.tier != 2) (at_ 40)]

/-- A location's part on the member it names (R313, R319): the core, the extent in T0, units, window or regions. -/
def Furrow.locPart (c : Furrow) (h : Handle) (l : Loc) (n b : Nat) (at_ : Nat → Nat) : Option Refuse :=
  match l.tier with
  | 0 => firstFail [badIf (!c.health.cores.getLsbD l.core || !c.health.clusters.getLsbD (l.core / 8) || !c.holdsIn h (l.core / 8)) (at_ (b + 9)),
      badIf (!c.inside h 0 l.addr n) (at_ b)]
  | 1 => badIf (!c.inside h 1 l.addr n || c.inWindow h l.addr n) (at_ b)
  | 2 => badIf (!c.inside h 2 l.addr n) (at_ b)
  | 4 => badIf (!c.grnInside h l.addr n) (at_ b)
  | _ => none

/-- The parts of a move that lie on one member: what the member checks (R174, R315). -/
def Furrow.moveParts (c : Furrow) (h : Handle) (own : Nat) (m : Move) (at_ : Nat → Nat) : Option Refuse :=
  firstFail [if m.src.member = own then c.locPart h m.src m.len 0 at_ else none,
    if m.dst.member = own then c.locPart h m.dst m.len 16 at_ else none]

/-- The Granary part of a move that lies on one member, by its registers: it takes requests, and writes unless READ_ONLY (R356). -/
def Furrow.moveGranary (c : Furrow) (own : Nat) (m : Move) (at_ : Nat → Nat) : Option Refuse :=
  let here := fun (l : Loc) => decide (l.tier = 4 ∧ l.member = own)
  firstFail [badIf (here m.src && !c.grn.usable) (at_ 0), badIf (here m.dst && !c.grn.usable) (at_ 16),
    failIf (here m.dst && c.grn.state = .readOnly) ⟨Reason.noCapacity, 0xFF, neverKept⟩]

/-- The members a move names are members of the span (R311). -/
def Move.members (m : Move) (n : Nat) (at_ : Nat → Nat) : Option Refuse :=
  firstFail [badIf (decide (n ≤ m.src.member)) (at_ 12), badIf (decide (n ≤ m.dst.member)) (at_ 28)]

/-- The byte of the descriptor that stands for a byte of a MOVE. -/
def inMove (i : Nat) : Nat := 16 + i

/-- The byte of the descriptor that stands for a byte of an entry of a MOVE_LIST: LIST (R476). -/
def inList (_ : Nat) : Nat := 16

/-- The log cannot take the entries that a load or a move needs (R395). -/
def logFull : Refuse := ⟨Reason.badOperand, 0xFF, neverKept⟩

/-- The entries of the log that moves need on one member. -/
def measuredOn (ms : List Move) (own : Nat) : List Move := ms.filter fun m => m.measure && decide (m.dst.member = own)

/-- The checks at fetch of a MOVE (R313, R314, R319, R476). -/
def fetchMove (c : Furrow) (h : Handle) (d : List Byte) : Option Refuse :=
  let bs := (d.drop 16).take 41
  let m := Move.of d 16
  firstFail [moveReserved bs false inMove, reservedBytes d 57 63, m.shape bs inMove, c.moveParts h 0 m inMove]

/-- The checks of moves by one member when they start (R174, R319, R395, R476): the root's include the members named. -/
def Furrow.startMoves (c : Furrow) (q : Request) (ms : List Move) (at_ : Nat → Nat) : Option Refuse :=
  let own := c.flatNumber q
  firstFail ((ms.map fun m => firstFail [if q.origin.isNone then m.members (c.spanFurrows q.h) at_ else none,
      c.moveParts q.h own m at_, c.moveGranary own m at_]) ++
    [failIf (!c.sec.logRoom (measuredOn ms own).length) logFull])

/-! ### Operands that travel with a descriptor (R376; log 35) -/

/-- The identifiers of every furrow of the span, in flat order, as the root carries them. -/
def idBytes (ids : List (FabricId × W32)) : List Byte :=
  leBytes 4 ids.length ++ ids.flatMap fun x => leBytes 2 x.1.toNat ++ zeros 2 ++ leBytes 4 x.2.toNat

/-- The identifiers that carried bytes begin with. -/
def idsIn (bs : List Byte) : List (FabricId × W32) :=
  (List.range (fieldAt bs 0 4)).map fun i => (BitVec.ofNat 16 (fieldAt bs (4 + 8 * i) 2), BitVec.ofNat 32 (fieldAt bs (8 + 8 * i) 4))

/-- What follows the identifiers. -/
def afterIds (bs : List Byte) : List Byte := bs.drop (4 + 8 * fieldAt bs 0 4)

/-- The identifiers of a request's span: a root's own knowledge, or what it carried to this member. -/
def Furrow.spanIds (c : Furrow) (f : FurrowIx) (q : Request) : List (FabricId × W32) :=
  if q.origin.isSome then idsIn q.carried else c.standsFor f q.h

/-- The list of a MOVE_LIST lies here: at the root, and on each member that runs a step program (R264). -/
def Request.ownList (q : Request) : Bool := q.origin.isNone || q.tag = boxTag

/-- The bytes of a MOVE_LIST's list. -/
def Run.moveBytes (r : Run s₀) (f : FurrowIx) (q : Request) : List Byte :=
  let t := tref q.desc 16
  if !q.ownList then afterIds q.carried else r.load f q.h 0 t.tier t.off (48 * df q.desc 24 2)

/-- The operands that the root of a span carries with a descriptor of the family. -/
def Run.carryMoves (r : Run s₀) (f : FurrowIx) (q : Request) : List Byte :=
  idBytes ((r.fur f).standsFor f q.h) ++ if (opcodeOf q.desc).toNat = 0x11 then r.moveBytes f q else []

/-- The entries of a list of n moves. -/
def entriesOf (bs : List Byte) (n : Nat) : List Move := (List.range n).map fun i => Move.of bs (48 * i)

/-- The moves that a request's MOVE or MOVE_LIST names. -/
def Run.movesOf (r : Run s₀) (f : FurrowIx) (q : Request) : List Move :=
  if (opcodeOf q.desc).toNat = 0x10 then [Move.of q.desc 16] else entriesOf (r.moveBytes f q) (df q.desc 24 2)

/-- The checks of a MOVE when it starts. -/
def startMove (r : Run s₀) (f : FurrowIx) (q : Request) : Option Refuse := (r.fur f).startMoves q [Move.of q.desc 16] inMove

/-- The checks at fetch of a MOVE_LIST. -/
def fetchMoveList (c : Furrow) (h : Handle) (d : List Byte) : Option Refuse :=
  let n := df d 24 2
  firstFail [reservedBytes d 26 63, c.refCheck h (tref d 16) (48 * n) 16 [1, 2], badIf (decide (n = 0) || decide (4096 < n)) 24]

/-- No destination of an entry overlaps another entry's source or destination (R317). -/
def listClash (ms : List Move) : Bool :=
  ms.zipIdx.any fun a => ms.zipIdx.any fun b => a.2 != b.2 &&
    (a.1.dst.overlap a.1.len b.1.src b.1.len || a.1.dst.overlap a.1.len b.1.dst b.1.len)

/-- The extent of a MOVE_LIST's list, which the root reads. -/
def listExtent (q : Request) : List Extent :=
  if !q.ownList then [] else [((tref q.desc 16).tier, (tref q.desc 16).off, 48 * df q.desc 24 2)]

/-- The checks of a MOVE_LIST when it starts; a list that cannot be read ends it later (R423). -/
def startMoveList (r : Run s₀) (f : FurrowIx) (q : Request) : Option Refuse :=
  if ((r.fur f).firstBad (q.eng f) (listExtent q)).isSome then none
  else
    let bs := r.moveBytes f q
    let n := df q.desc 24 2
    let ms := entriesOf bs n
    firstFail ((ms.zipIdx.map fun m =>
        let e := (bs.drop (48 * m.2)).take 48
        firstFail [moveReserved e true inList, m.1.shape e inList]) ++
      [badIf (listClash ms) 16, (r.fur f).startMoves q ms inList])

/-- The cores whose scratch moves name on the member that executes them: the moves run while those cores serve the context. -/
def moveCores (ms : List Move) (own : Nat) : List CoreIx :=
  (ms.filter fun m => m.executor = own).flatMap fun m => ([m.src, m.dst].filter fun l => l.tier = 0 && l.member = own).filterMap fun l =>
    if h : l.core < 64 then some ⟨l.core, h⟩ else none

/-- Moves begin on a member (also on one that only holds a destination): the cores they need, what is measured here, and the bytes
that others will write into it. -/
def Run.armMoves (r : Run s₀) (f : FurrowIx) (q : Request) : Run s₀ :=
  let ms := r.movesOf f q
  let own := (r.fur f).flatNumber q
  let here := measuredOn ms own
  r.modFur f fun c => c.modReq q.h q.tag fun q =>
    { q with
      uses := if ms.any fun m => m.executor = own then q.uses else []
      needs := moveCores ms own
      measures := here.map fun m => (m.dst.tier = 1, m.dst.addr, m.len)
      owed := sumOf ((here.filter fun m => m.executor ≠ own).map (·.len)) }

/-- Do the moves that this member executes, and wait for them (R312, R315, R317, R318); those of host memory wait while the host port is lost
(R13). Uncorrectable data in a source ends the
request with every destination undefined (Table 14-4). -/
def Run.moves (r : Run s₀) (f : FurrowIx) (q : Request) (ms : List Move) (e : Ending) : Run s₀ :=
  let c := r.fur f
  let own := c.flatNumber q
  let ids := c.spanIds f q
  let mine := (ms.zipIdx.filter fun m => m.1.executor = own).map fun m => (m.1.src.spot own ids, m.1.dst.spot own ids, m.1.len, m.2)
  if (mine.any fun m => m.1.tier = 5 || m.2.1.tier = 5) && !r.now.hdl.carries then r
  else match mine.find? fun m => (c.spotBad f q.h m.1 m.2.2.1).isSome with
  | some m =>
    let r := r.each mine fun r m => r.undefine f q.h q.tag m.2.1 m.2.2.1
    let x := r.readFault (q.eng f) ((c.spotBad f q.h m.1 m.2.2.1).getD (.hbm f, 0, 0))
    x.1.engineEnds f q.h q.tag { x.2 with count := if ms.length = 1 then 0 else BitVec.ofNat 16 m.2.2.2 }
  | none =>
    let r := r.each mine fun r m => r.transfer f q.h q.tag m.1 m.2.1 m.2.2.1
    r.awaitEnd f q.h q.tag (if mine.isEmpty then Ending.ok 0 0 else e)

/-- A MOVE goes on. -/
def Run.moveDesc (r : Run s₀) (f : FurrowIx) (h : Handle) (tag : Tag) : Run s₀ :=
  match (r.fur f).atWork h tag 0x10 with
  | none => r
  | some q => r.moves f q [Move.of q.desc 16] (Ending.ok 1 (df q.desc 32 8))

/-- A MOVE_LIST goes on. -/
def Run.moveListDesc (r : Run s₀) (f : FurrowIx) (h : Handle) (tag : Tag) : Run s₀ :=
  match (r.fur f).atWork h tag 0x11 with
  | none => r
  | some q =>
    match (r.fur f).firstBad (q.eng f) (listExtent q) with
    | some p => let x := r.readFault (q.eng f) p; x.1.engineEnds f h tag x.2
    | none => r.moves f q (r.movesOf f q) (Ending.ok (df q.desc 24 2) (df q.desc 16 8))

/-- MOVE (R312, R315). -/
def execMove (f : FurrowIx) (h : Handle) (tag : Tag) (s : State) : Host.Outcome State Fault Refusal :=
  ((Run.start s).moveDesc f h tag).done

/-- MOVE_LIST (R317). -/
def execMoveList (f : FurrowIx) (h : Handle) (tag : Tag) (s : State) : Host.Outcome State Fault Refusal :=
  ((Run.start s).moveListDesc f h tag).done

/-! ### Rounds of messages in a span (R376; log 35) -/

/-- A member's part serves the root's messages one after another: each goes on to what is below, is worked on here once everything below
has answered, and the answers go up; an empty message ends the part. -/
def Run.serveRounds (r : Run s₀) (f : FurrowIx) (q : Request) (work : Run s₀ → List Byte → Run s₀ × Except Ending (List Byte)) : Run s₀ :=
  match q.origin.bind fun o => q.heard o.1 with
  | none => r
  | some bs =>
    if bs.isEmpty then (r.modFur f fun c => c.sendDown f q q.collKey []).engineEnds f q.h q.tag (Ending.ok 0 0)
    else
      let r := if q.stage = 0 then r.modFur f fun c =>
          (c.sendDown f q q.collKey bs).modReq q.h q.tag fun q => { q with stage := 1 } else r
      match (r.fur f).piecesBelow q with
      | none => r
      | some rest =>
        match work r bs with
        | (r, .error e) => r.engineEnds f q.h q.tag e
        | (r, .ok own) => r.modFur f fun c => (c.passUp f q own rest).modReq q.h q.tag fun q => { q.clear q.collKey with stage := 0 }

/-- The root's descriptor ends, and with it every member's part. -/
def Run.endRounds (r : Run s₀) (f : FurrowIx) (q : Request) (e : Ending) : Run s₀ :=
  (r.modFur f fun c => c.sendDown f q q.collKey []).engineEnds f q.h q.tag e

/-! ### Tiered objects (R320–R326) -/

/-- The header of an object record (Table 14-5). -/
structure ObjRec where
  bytes : List Byte
  id    : Nat
  segs  : Nat
  len   : Nat
  copy  : Loc
  home  : Loc

/-- The header that 64 bytes spell. -/
def ObjRec.of (bs : List Byte) : ObjRec :=
  ⟨bs, fieldAt bs 2 2, fieldAt bs 4 4, fieldAt bs 8 8, Loc.of bs 16, Loc.of bs 32⟩

/-- The header at an offset of a context's region. -/
def Run.objAt (r : Run s₀) (f : FurrowIx) (h : Handle) (off : Nat) : ObjRec := .of (r.load f h 0 2 off 64)

/-- The object a context has attached under an identifier. -/
def Furrow.object? (c : Furrow) (h : Handle) (id : Nat) : Option Attached := c.attached.find? fun a => a.h = h && a.id.toNat = id

/-- Bytes of segment j. -/
def ObjRec.segLen (o : ObjRec) (j : Nat) : Nat := min hbmUnit (o.len - j * hbmUnit)

/-- What TIER_ATTACH refuses of a record whose CHECK holds (R313, R320, R321). -/
def Run.attachCheck (r : Run s₀) (f : FurrowIx) (q : Request) (o : ObjRec) : Option Refuse :=
  let c := r.fur f
  let own := c.flatNumber q
  let off := (tref q.desc 16).off
  let align := if o.home.tier = 4 then 4096 else 64
  let others := (c.attached.filter fun a => a.h = q.h).map fun a => r.objAt f q.h a.record.toNat
  let bad := fieldAt o.bytes 0 2 ≠ 1 || fieldAt o.bytes 56 4 ≠ 0 || c.attached.any (fun a => a.id.toNat = o.id) ||
    o.segs = 0 || 65536 < o.segs || o.segs ≠ ceilDiv o.len hbmUnit || o.len % align ≠ 0 ||
    (List.range 16).any (fun i => locReserved o.bytes 16 i || locReserved o.bytes 32 i) ||
    o.copy.member ≠ own || !([1, 2].contains o.copy.tier) || o.copy.addr % 64 ≠ 0 || (c.locPart q.h o.copy o.len 0 inList).isSome ||
    !(o.home.tier = 2 || (o.home.tier = 4 && o.home.member = own && c.grn.usable)) || o.home.addr % align ≠ 0 ||
    decide ((c.spanIds f q).length ≤ o.home.member) ||
    (o.home.member = own && (c.locPart q.h o.home o.len 0 inList).isSome) || o.copy.overlap o.len o.home o.len ||
    others.any (fun x => o.copy.overlap o.len x.copy x.len) || !c.inside q.h 2 off (64 + align64 (ceilDiv o.segs 8))
  firstFail [failIf (decide (256 ≤ c.attached.length)) ⟨Reason.badOperand, 0xFF, never⟩, badIf bad 16]

/-- The checks at fetch of a TIER_ATTACH. -/
def fetchTierAttach (c : Furrow) (h : Handle) (d : List Byte) : Option Refuse :=
  let t := tref d 16
  firstFail [reservedBytes d 28 63, badIf (decide (t.off % 4096 ≠ 0) || decide (t.tier ≠ 2) ||
    (decide (df d 24 4 = 0) && !c.inside h 2 t.off 64)) 16]

/-- A record that cannot be read, or fails its CHECK. -/
def Run.badRecord (r : Run s₀) (f : FurrowIx) (q : Request) (off : Nat) : Bool :=
  ((r.fur f).firstBad (q.eng f) [(2, off, 64)]).isSome ||
    (let bs := (r.objAt f q.h off).bytes; fieldAt bs 60 4 != crc32c (bs.take 60))

/-- The checks of a TIER_ATTACH when it starts; a record that fails CHECK or cannot be read ends it DATA_ERROR (R321). -/
def startTierAttach (r : Run s₀) (f : FurrowIx) (q : Request) : Option Refuse :=
  let c := r.fur f
  let m := df q.desc 24 4
  let off := (tref q.desc 16).off
  if q.origin.isNone ∧ c.spanFurrows q.h ≤ m then some (.operand 24)
  else if m ≠ c.flatNumber q then none
  else if !c.inside q.h 2 off 64 then some (.operand 16)
  else if r.badRecord f q off then none
  else r.attachCheck f q (r.objAt f q.h off)

/-- The record of a TIER_ATTACH as the member that it names finds it (R321): what ends the request, or the header. -/
def Run.attachHere (r : Run s₀) (f : FurrowIx) (q : Request) : Run s₀ × Except Ending ObjRec :=
  let e := q.eng f
  let off := (tref q.desc 16).off
  match (r.fur f).firstBad e [(2, off, 64)] with
  | some p => let x := r.readFault e p; (x.1, .error x.2)
  | none =>
    let o := r.objAt f q.h off
    if fieldAt o.bytes 60 4 ≠ crc32c (o.bytes.take 60) then
      let x := r.checkFault e ((r.fur f).hbmBase q.h + off); (x.1, .error x.2)
    else match r.attachCheck f q o with
      | some x => (r, .error x.atStart.ending)
      | none => (r, .ok o)

/-- The object enters the attach table. -/
def Furrow.attach (c : Furrow) (q : Request) (id : Nat) : Furrow :=
  { c with attached := c.attached ++ [⟨q.h, BitVec.ofNat 32 id, BitVec.ofNat 64 (tref q.desc 16).off, []⟩] }

/-- What the member says of a record: ID, and HOME in HBM with LENGTH; a HOME in the member's own Granary names nobody, as the member has
looked at it. -/
def ObjRec.report (o : ObjRec) : List Byte :=
  leBytes 2 o.id ++ leBytes 4 (if o.home.tier = 4 then 0xFFFFFFFF else o.home.member) ++ leBytes 8 o.home.addr ++ leBytes 8 o.len

/-- HOME of such a report, where it names this member, lies in the context's region here (R319). -/
def Furrow.homeOk (c : Furrow) (q : Request) (bs : List Byte) : Bool :=
  decide (fieldAt bs 2 4 ≠ c.flatNumber q) || c.hbmInside q.h (fieldAt bs 6 8) (fieldAt bs 14 8)

/-- A TIER_ATTACH names this member. -/
def Furrow.attaches (c : Furrow) (q : Request) : Bool := df q.desc 24 4 = c.flatNumber q

/-- A member's part of a TIER_ATTACH (R319; log 92): 1, the record; 2, the home in this region; 3, the attach. -/
def Run.answerAttach (r : Run s₀) (f : FurrowIx) (q : Request) (bs : List Byte) : Run s₀ × Except Ending (List Byte) :=
  let c := r.fur f
  if fieldAt bs 0 1 = 2 then (r, .ok (if c.homeOk q (bs.drop 1) then [] else [1]))
  else if !c.attaches q then (r, .ok [])
  else match r.attachHere f q with
    | (r, .error e) => (r, .error e)
    | (r, .ok o) => if fieldAt bs 0 1 = 1 then (r, .ok o.report) else (r.modFur f fun c => c.attach q o.id, .ok [])

/-- A TIER_ATTACH goes on at the root: the member that it names reads the record, the member that HOME names looks at its extent, and then
the object is attached. The root keeps the report among what it carries. -/
def Run.attachRoot (f : FurrowIx) (h : Handle) (tag : Tag) : Nat → Run s₀ → Run s₀
  | 0, r => r
  | k + 1, r =>
    match (r.fur f).atWork h tag 0x12 with
    | none => r
    | some q =>
      let say := fun (r : Run s₀) (bs : List Byte) => r.modFur f fun c => (c.modReq h tag fun q =>
        { q.clear q.collKey with stage := fieldAt bs 0 1, carried := if fieldAt bs 0 1 = 2 then bs.drop 1 else q.carried }).sendDown f q q.collKey bs
      if q.stage = 0 then Run.attachRoot f h tag k (say r [1])
      else match (r.fur f).piecesBelow q with
        | none => r
        | some rest =>
          let own := r.answerAttach f q (leBytes 1 q.stage ++ q.carried)
          match own.2 with
          | .error e => own.1.endRounds f q e
          | .ok x =>
            let bs := ((x :: rest.map (·.2)).find? fun y => !y.isEmpty).getD []
            if q.stage = 1 then Run.attachRoot f h tag k (say own.1 (2 :: bs))
            else if q.stage = 2 then
              if bs = [] then Run.attachRoot f h tag k (say own.1 [3]) else own.1.endRounds f q (Refuse.operand 16).atStart.ending
            else own.1.endRounds f q (Ending.ok 0 (fieldAt q.carried 0 2))

/-- A TIER_ATTACH goes on. -/
def Run.attachDesc (r : Run s₀) (f : FurrowIx) (h : Handle) (tag : Tag) : Run s₀ :=
  match (r.fur f).atWork h tag 0x12 with
  | none => r
  | some q => if q.origin.isSome then r.serveRounds f q fun r bs => r.answerAttach f q bs else Run.attachRoot f h tag 4 r

/-- TIER_ATTACH (R321). -/
def execTierAttach (f : FurrowIx) (h : Handle) (tag : Tag) (s : State) : Host.Outcome State Fault Refusal :=
  ((Run.start s).attachDesc f h tag).done

/-- The checks at fetch of TIER_FETCH, TIER_WRITEBACK and TIER_DETACH (Table 14-3). -/
def fetchTier (op : Nat) (d : List Byte) : Option Refuse :=
  firstFail [if op = 0x14 then reservedBytes d 18 19 else reservedBits d 18 7 1, reservedBytes d 19 (if op = 0x15 then 27 else 19),
    reservedBytes d 32 63]

/-- The member that a descriptor on an attached object names. -/
def tierMember (d : List Byte) : Nat := df d 28 4

/-- The segments that a TIER_FETCH or TIER_WRITEBACK covers; a TIER_DETACH covers all. -/
def ObjRec.covered (o : ObjRec) (d : List Byte) : Nat × Nat :=
  if (opcodeOf d).toNat = 0x15 then (0, o.segs)
  else (df d 20 4, if df d 24 4 = 0 then o.segs else df d 20 4 + df d 24 4)

/-- A descriptor writes back: TIER_WRITEBACK, or TIER_DETACH with WRITEBACK. -/
def writesBack (d : List Byte) : Bool := (opcodeOf d).toNat = 0x14 || ((opcodeOf d).toNat = 0x15 && (df d 18 1).testBit 0)

/-- The checks of TIER_FETCH, TIER_WRITEBACK and TIER_DETACH when they start (R319, R356). -/
def startTier (r : Run s₀) (f : FurrowIx) (q : Request) : Option Refuse :=
  let c := r.fur f
  let d := q.desc
  if q.origin.isNone ∧ c.spanFurrows q.h ≤ tierMember d then some (.operand 28)
  else if tierMember d ≠ c.flatNumber q then none
  else match c.object? q.h (df d 16 2) with
    | none => some (.operand 16)
    | some a =>
      if (c.firstBad (q.eng f) [(2, a.record.toNat, 64)]).isSome then none
      else
        let o := r.objAt f q.h a.record.toNat
        let seg := (opcodeOf d).toNat ≠ 0x15
        let use := seg || writesBack d
        firstFail [badIf (use && o.home.tier = 4 && !c.grn.usable) 16,
          failIf (writesBack d && o.home.tier = 4 && c.grn.state = .readOnly) ⟨Reason.noCapacity, 0xFF, neverKept⟩,
          badIf (seg && decide (o.segs ≤ df d 20 4)) 20, badIf (seg && decide (o.segs < (o.covered d).2)) 24]

/-- The DIRTY bit of a segment. -/
def Run.isDirty (r : Run s₀) (f : FurrowIx) (a : Attached) (j : Nat) : Bool :=
  (r.readNat (.hbm f) ((r.fur f).dirtyWord a j) 4).testBit (j % 32)

/-- Segments that a request has had in flight are done: those no write has reached have their bits cleared (R324). -/
def Run.landed (r : Run s₀) (f : FurrowIx) (h : Handle) (id : Nat) (tag : Tag) : Run s₀ :=
  match (r.fur f).object? h id with
  | none => r
  | some a =>
    let r := r.each (a.flight.filter fun x => x.1 = tag) fun r x =>
      let w := (r.fur f).dirtyWord a x.2
      let v := r.readNat (.hbm f) w 4
      if v.testBit (x.2 % 32) then r.write (.hbm f) w (leBytes 4 (v ^^^ (1 <<< (x.2 % 32)))) else r
    r.modFur f fun c => { c with attached := c.attached.map fun b =>
      if b.h = h ∧ b.id = a.id then { b with flight := b.flight.filter fun x => x.1 ≠ tag } else b }

/-- Segments of an object are in flight for a request (R324). -/
def Furrow.fly (c : Furrow) (h : Handle) (id : Nat) (tag : Tag) (js : List Nat) : Furrow :=
  { c with attached := c.attached.map fun b =>
      if b.h = h ∧ b.id.toNat = id then { b with flight := b.flight ++ js.map fun j => (tag, j) } else b }

/-- Copy segments between home and copy, without setting bits. -/
def Run.moveSegs (r : Run s₀) (f : FurrowIx) (q : Request) (o : ObjRec) (home : Bool) (js : List Nat) : Run s₀ :=
  let c := r.fur f
  let own := c.flatNumber q
  let ids := c.spanIds f q
  let x := o.copy.spot own ids
  let y := o.home.spot own ids
  (r.each js fun r j =>
    let a := x.at (j * hbmUnit)
    let b := y.at (j * hbmUnit)
    if home then r.transfer f q.h q.tag b a (o.segLen j) else r.transfer f q.h q.tag a b (o.segLen j)).modFur f fun c =>
      c.grantAll q.h q.tag

/-- The first segment whose source here holds uncorrectable data. -/
def Run.segBad (r : Run s₀) (f : FurrowIx) (q : Request) (o : ObjRec) (home : Bool) (js : List Nat) : Option (Space × Nat × Nat) :=
  let c := r.fur f
  let p := (if home then o.home else o.copy).spot (c.flatNumber q) (c.spanIds f q)
  js.findSome? fun j => c.spotBad f q.h (p.at (j * hbmUnit)) (o.segLen j)

/-- Uncorrectable data in a source: the destination segments are undefined (Table 14-4). -/
def Run.segFault (r : Run s₀) (f : FurrowIx) (q : Request) (o : ObjRec) (home : Bool) (js : List Nat) (p : Space × Nat × Nat) : Run s₀ :=
  let c := r.fur f
  let d := (if home then o.copy else o.home).spot (c.flatNumber q) (c.spanIds f q)
  let r := r.each js fun r j => r.undefine f q.h q.tag (d.at (j * hbmUnit)) (o.segLen j)
  let x := r.readFault (q.eng f) p
  x.1.engineEnds f q.h q.tag x.2

/-- Carry out a descriptor on an attached object of this member: its header is read first. -/
def Run.tierDesc (r : Run s₀) (op : Byte) (f : FurrowIx) (h : Handle) (tag : Tag) (work : Request → ObjRec → Attached → Run s₀ → Run s₀) :
    Run s₀ :=
  let c := r.fur f
  match c.atWork h tag op with
  | none => r
  | some q =>
    if tierMember q.desc ≠ c.flatNumber q then r.engineEnds f h tag (Ending.ok 0 0)
    else match c.object? h (df q.desc 16 2) with
      | none => r.engineEnds f h tag (Refuse.operand 16).atStart.ending
      | some a =>
        match c.firstBad (q.eng f) [(2, a.record.toNat, 64)] with
        | some p => let x := r.readFault (q.eng f) p; x.1.engineEnds f h tag x.2
        | none => work q (r.objAt f h a.record.toNat) a r

/-- The ending of a fetch, by segments copied and skipped (Table 14-4). -/
def fetchEnding (copied skipped id : Nat) : Ending :=
  let e := Ending.ok (satCount copied) id
  if skipped = 0 then e else { e with status := Status.doneShort, detail := BitVec.ofNat 64 (copied + 2 ^ 32 * skipped) }

/-- TIER_FETCH (R323): the segments come from the home; under FORCE the dirty ones too, whose bits are then cleared as R324 has it. -/
def Run.fetchDesc (r : Run s₀) (f : FurrowIx) (h : Handle) (tag : Tag) : Run s₀ :=
  r.tierDesc 0x13 f h tag fun q o a r =>
    let id := df q.desc 16 2
    let x := o.covered q.desc
    let all := (List.range (x.2 - x.1)).map (x.1 + ·)
    let force := (df q.desc 18 1).testBit 0
    let finish := fun (r : Run s₀) =>
      if (r.fur f).transfers h tag then r
      else (r.landed f h id tag).engineEnds f h tag (Ending.ok (satCount all.length) id)
    if q.stage ≠ 0 then finish r
    else
      let dirty := all.filter (r.isDirty f a)
      let js := if force then all else all.filter fun j => !dirty.contains j
      match r.segBad f q o true js with
      | some p => r.segFault f q o true js p
      | none =>
        let r := r.modFur f fun c => if force then c.fly h id tag dirty else c
        let r := r.moveSegs f q o true js
        if force then finish (r.modFur f fun c => c.modReq h tag fun q => { q with stage := 1 })
        else r.awaitEnd f h tag (fetchEnding js.length dirty.length id)

/-- TIER_FETCH. -/
def execTierFetch (f : FurrowIx) (h : Handle) (tag : Tag) (s : State) : Host.Outcome State Fault Refusal :=
  ((Run.start s).fetchDesc f h tag).done

/-- WRITEBACKS goes up by one, and the header is rewritten with its check (R324). -/
def Run.countWriteback (r : Run s₀) (f : FurrowIx) (h : Handle) (a : Attached) : Run s₀ :=
  let bs := (r.objAt f h a.record.toNat).bytes
  let x := bs.take 48 ++ leBytes 8 (fieldAt bs 48 8 + 1) ++ (bs.drop 56).take 4
  r.write (.hbm f) ((r.fur f).hbmBase h + a.record.toNat) (x ++ leBytes 4 (crc32c x))

/-- R324 from a segment on: dirty segments, at most 8 in flight. STAGE keeps the next segment plus 1, and 131,072 times the segments
copied, while some are in flight. -/
def Run.writeBack (r : Run s₀) (f : FurrowIx) (q : Request) (o : ObjRec) (a : Attached) (last : Nat) (fin : Run s₀ → Nat → Run s₀) :
    Nat → Nat → Nat → Run s₀
  | 0, _, copied => fin r copied
  | k + 1, j, copied =>
    let js := (((List.range (last - j)).map (j + ·)).filter (r.isDirty f a)).take 8
    match js.getLast? with
    | none => fin (r.countWriteback f q.h a) copied
    | some top =>
      match r.segBad f q o false js with
      | some p => r.segFault f q o false js p
      | none =>
        let r := (r.modFur f fun c => c.fly q.h o.id q.tag js).moveSegs f q o false js
        if (r.fur f).transfers q.h q.tag then
          r.modFur f fun c => c.modReq q.h q.tag fun q => { q with stage := top + 2 + 131072 * (copied + js.length) }
        else (r.landed f q.h o.id q.tag).writeBack f q o a last fin k (top + 1) (copied + js.length)

/-- Go on with a write-back: nothing while segments are in flight. -/
def Run.writeBackOn (r : Run s₀) (f : FurrowIx) (q : Request) (o : ObjRec) (a : Attached) (fin : Run s₀ → Nat → Run s₀) : Run s₀ :=
  let x := o.covered q.desc
  if q.stage = 0 then r.writeBack f q o a x.2 fin (o.segs + 1) x.1 0
  else if (r.fur f).transfers q.h q.tag then r
  else (r.landed f q.h o.id q.tag).writeBack f q o a x.2 fin (o.segs + 1) (q.stage % 131072 - 1) (q.stage / 131072)

/-- TIER_WRITEBACK (R324). -/
def Run.writebackDesc (r : Run s₀) (f : FurrowIx) (h : Handle) (tag : Tag) : Run s₀ :=
  r.tierDesc 0x14 f h tag fun q o a r =>
    r.writeBackOn f q o a fun r n => r.engineEnds f h tag (Ending.ok (satCount n) (df q.desc 16 2))

/-- TIER_WRITEBACK. -/
def execTierWriteback (f : FurrowIx) (h : Handle) (tag : Tag) (s : State) : Host.Outcome State Fault Refusal :=
  ((Run.start s).writebackDesc f h tag).done

/-- The object leaves the attach table (R325). -/
def Run.detach (r : Run s₀) (f : FurrowIx) (h : Handle) (tag : Tag) (id : Nat) : Run s₀ :=
  (r.modFur f fun c => { c with attached := c.attached.filter fun b => !(b.h = h && b.id.toNat = id) }).engineEnds f h tag (Ending.ok 0 id)

/-- TIER_DETACH (R325): with WRITEBACK the whole object is written back first. -/
def Run.detachDesc (r : Run s₀) (f : FurrowIx) (h : Handle) (tag : Tag) : Run s₀ :=
  r.tierDesc 0x15 f h tag fun q o a r =>
    let id := df q.desc 16 2
    if writesBack q.desc then r.writeBackOn f q o a fun r _ => r.detach f h tag id else r.detach f h tag id

/-- TIER_DETACH. -/
def execTierDetach (f : FurrowIx) (h : Handle) (tag : Tag) (s : State) : Host.Outcome State Fault Refusal :=
  ((Run.start s).detachDesc f h tag).done

/-! ### Estimates (R331) -/

/-- ns of a move of n bytes between two tiers. -/
def moveNs (a b n : Nat) : Nat :=
  1000 + (if a = 4 ∨ b = 4 then ceilDiv (n * 10) 72 else if a = 5 ∨ b = 5 then ceilDiv n 121
    else if a = 3 ∨ b = 3 then ceilDiv n 1600 else ceilDiv n 4920)

/-- ns of a move. -/
def Move.ns (m : Move) : Nat :=
  let t := fun (l : Loc) => if l.member = m.executor then l.tier else 3
  moveNs (t m.src) (t m.dst) m.len

/-- The estimate of a MOVE. -/
def costMove (d : List Byte) : Cost := .flat (Move.of d 16).ns

/-- The estimate of a MOVE_LIST: the sum over its entries. -/
def costMoveList (r : Run s₀) (f : FurrowIx) (q : Request) : Cost := .flat (sumOf ((r.movesOf f q).map Move.ns))

/-- The estimate of the descriptors on tiered objects (R331). Of another member's object the root knows neither its places nor its length: it
takes COUNT whole segments at the HBM rate, and one quantum for COUNT 0 (DESIGN CHOICE, log 86); so also for an object not attached. -/
def costTier (r : Run s₀) (f : FurrowIx) (q : Request) : Cost :=
  let d := q.desc
  let op := (opcodeOf d).toNat
  if op = 0x12 ∨ (op = 0x15 ∧ !writesBack d) then .flat 2000
  else match if tierMember d = (r.fur f).flatNumber q then (r.fur f).object? q.h (df d 16 2) else none with
    | none =>
      if op = 0x15 ∨ df d 24 4 = 0 then .unknown else .flat (moveNs 2 2 (df d 24 4 * hbmUnit))
    | some a =>
      let o := r.objAt f q.h a.record.toNat
      let x := o.covered d
      let n := min o.len (x.2 * hbmUnit) - min o.len (x.1 * hbmUnit)
      .flat ((if op = 0x15 then 2000 else 0) + moveNs o.copy.tier (if o.home.member = o.copy.member then o.home.tier else 3) n)

end Sys2Proof.Machine
end

