-- ==== Sys2Proof/Machine/Tables.lean ====
section
/-! DEFINITION. Embedding tables (chapter 13): rows and their quantisation, version areas and route tables, gathers, scatter-adds,
version switches and migrations, with the rounds of messages in which the members of a span take part. -/

namespace Sys2Proof.Machine

variable {s₀ : State}

/-! ### Slots and their areas (R293, R294) -/

/-- Bits of a code. -/
def TableSlot.codeBits (t : TableSlot) : Nat := if t.code4 then 4 else 8

/-- DIM. -/
def TableSlot.d (t : TableSlot) : Nat := t.dim.toNat

/-- RS: bytes of a row (R291). -/
def TableSlot.rowBytes (t : TableSlot) : Nat := align64 (t.d * t.codeBits / 8 + 4)

/-- The next 4 KiB boundary. -/
def align4k (n : Nat) : Nat := ceilDiv n 4096 * 4096

/-- Local rows of the shard: rows r with r mod NSHARD = SHARD. -/
def TableSlot.localRows (t : TableSlot) : Nat :=
  if t.shard.toNat < t.rows.toNat then (t.rows.toNat - 1 - t.shard.toNat) / max 1 t.nshard.toNat + 1 else 0

/-- Entries of the route table. -/
def TableSlot.routeN (t : TableSlot) : Nat := if t.logRoute = 0 then 0 else 2 ^ t.logRoute.toNat

/-- The route table's offset in a version area. -/
def TableSlot.routeOff (t : TableSlot) : Nat := 4096 + align4k (t.localRows * t.rowBytes)

/-- The guest rows' offset in a version area. -/
def TableSlot.guestOff (t : TableSlot) : Nat := t.routeOff + align4k (32 * t.routeN)

/-- Bytes of a version area. -/
def TableSlot.areaBytes (t : TableSlot) : Nat := t.guestOff + align4k (t.guest.toNat * t.rowBytes)

/-- The offset of the current version's area in the owner's region. -/
def TableSlot.base (t : TableSlot) : Nat := t.curBase.toNat * 4096

/-- The owner of a slot. -/
def TableSlot.handle (t : TableSlot) : Handle := t.owner.toFin

/-- The areas a slot holds in its owner's region: the current version's, and the old one while it drains. -/
def TableSlot.areas (t : TableSlot) : List (Nat × Nat) :=
  (if t.curVersion = 0 then [] else [(t.base, t.areaBytes)]) ++
    if t.oldDraining then [(t.oldBase.toNat * 4096, t.areaBytes)] else []

/-- The header of a version area (R294). -/
def TableSlot.header (t : TableSlot) (version : Nat) : List Byte :=
  let x := leBytes 4 version ++ leBytes 4 t.rows.toNat ++ leBytes 2 t.d ++ leBytes 1 (bit t.code4) ++ leBytes 1 t.logRoute.toNat ++
    leBytes 2 t.nshard.toNat ++ leBytes 2 t.shard.toNat ++ leBytes 2 t.guest.toNat ++ zeros 42
  x ++ leBytes 4 (crc32c x)

/-- The offset of a row at a slot of its shard: 0xFFFF is the home row (R297). -/
def TableSlot.rowAt (t : TableSlot) (base row slot : Nat) : Nat :=
  base + if slot = 0xFFFF then 4096 + row / max 1 t.nshard.toNat * t.rowBytes else t.guestOff + slot * t.rowBytes

/-- The table slot that a TABLE field names, SERVING under a context. -/
def Furrow.table? (c : Furrow) (h : Handle) (n : Nat) : Option TableIx :=
  if x : n < 16 then if c.tbl[n].state = .serving ∧ c.tbl[n].handle = h then some ⟨n, x⟩ else none else none

/-- Change one table slot. -/
def Furrow.modTbl (c : Furrow) (i : TableIx) (g : TableSlot → TableSlot) : Furrow := { c with tbl := c.tbl.set i (g c.tbl[i]) }

/-- An area in a context's region overlaps the area of another slot in use, or a search slot's structures (Table 13-3). -/
def Furrow.areaTaken (c : Furrow) (h : Handle) (i : TableIx) (off n : Nat) : Bool :=
  c.overSlots h 2 off n || (List.finRange 16).any fun j =>
    j != i && c.tbl[j].state != .idle && c.tbl[j].handle = h && (overlaps off n c.tbl[j].base c.tbl[j].areaBytes ||
      c.tbl[j].areas.any fun x => overlaps off n x.1 x.2)

/-- A range overlaps a version area of a table of the context (R304). -/
def Furrow.overTables (c : Furrow) (h : Handle) (tier off n : Nat) : Bool :=
  tier = 2 && c.tbl.toList.any fun t => t.state != .idle && t.handle = h && t.areas.any fun x => overlaps off n x.1 x.2

/-! ### Rows (R291, R292) -/

/-- The FP32 values of a row's bytes (R291). -/
def TableSlot.dequantise (t : TableSlot) (bs : List Byte) : List FVal :=
  let n := t.d * t.codeBits / 8
  let s := Fmt.fp16.value (fieldAt bs n 2)
  let o := Fmt.fp16.value (fieldAt bs (n + 2) 2)
  (List.range t.d).map fun d =>
    let b := fieldAt bs (d * t.codeBits / 8) 1
    add32 (mul32 s (.ofNat (if t.code4 then b >>> (4 * (d % 2)) % 16 else b))) o

/-- The code of one element. -/
def elemCode (qmax : Nat) (o s x : FVal) (how : Rounding) : Nat :=
  match div32 (sub32 x o) s with
  | .nan => 0
  | .inf neg => if neg then 0 else qmax
  | .fin neg m e => if neg then 0 else min qmax (roundAt m 1 e 0 how)

/-- A row of FP32 values as bytes (R292); `how` gives the rounding of an element. -/
def TableSlot.quantise (t : TableSlot) (how : Nat → Rounding) (x : List FVal) : List Byte :=
  let qmax := 2 ^ t.codeBits - 1
  let lo := minReduce x
  let hi := maxReduce x
  let off := (Fmt.fp16.convert true .nearest lo).1
  let o := Fmt.fp16.value off
  let sc := (Fmt.fp16.convert true .nearest (div32 (sub32 hi o) (.ofNat qmax))).1
  let s := Fmt.fp16.value sc
  let codes := x.zipIdx.map fun p => if FVal.zero.lt s then elemCode qmax o s p.1 (how p.2) else 0
  let packed := if t.code4 then Fmt.int4.pack codes else codes.map (BitVec.ofNat 8)
  bytesAt (packed ++ leBytes 2 sc ++ leBytes 2 off) 0 t.rowBytes

/-! ### Route entries (R297, Table 13-4) -/

/-- A place of a row: shard and slot. -/
abbrev RowPlace := Nat × Nat

/-- A route entry. -/
structure RouteEntry where
  row   : Nat
  state : Nat
  epoch : Nat
  cur   : RowPlace
  prev  : RowPlace
  next  : RowPlace
  deriving DecidableEq

/-- The entry that 32 bytes spell. -/
def RouteEntry.of (bs : List Byte) : RouteEntry :=
  ⟨fieldAt bs 0 4, fieldAt bs 4 1, fieldAt bs 8 8, (fieldAt bs 16 2, fieldAt bs 18 2), (fieldAt bs 20 2, fieldAt bs 22 2),
   (fieldAt bs 24 2, fieldAt bs 26 2)⟩

/-- The bytes of an entry. -/
def RouteEntry.bytes (x : RouteEntry) : List Byte :=
  leBytes 4 x.row ++ leBytes 1 x.state ++ zeros 3 ++ leBytes 8 x.epoch ++ leBytes 2 x.cur.1 ++ leBytes 2 x.cur.2 ++
    leBytes 2 x.prev.1 ++ leBytes 2 x.prev.2 ++ leBytes 2 x.next.1 ++ leBytes 2 x.next.2 ++ zeros 4

/-- The entries that location() looks at for a row, in order, from an index on: those in use, then the one it stops at (R297). -/
def Run.probe (r : Run s₀) (f : FurrowIx) (h : Handle) (t : TableSlot) (base row : Nat) : Nat → Nat → List (Nat × RouteEntry)
  | 0, _ => []
  | k + 1, i =>
    let x := RouteEntry.of (r.load f h 0 2 (base + t.routeOff + 32 * i) 32)
    if x.state = 0 ∨ x.row = row then [(i, x)] else (i, x) :: r.probe f h t base row k ((i + 1) % max 1 t.routeN)

/-- The entries looked at for a row. -/
def Run.probes (r : Run s₀) (f : FurrowIx) (h : Handle) (t : TableSlot) (base row : Nat) : List (Nat × RouteEntry) :=
  if t.routeN = 0 then []
  else r.probe f h t base row t.routeN ((row * 0x9E3779B9 % 2 ^ 32) >>> (32 - t.logRoute.toNat))

/-- The entry of a row. -/
def Run.routeEntry (r : Run s₀) (f : FurrowIx) (h : Handle) (t : TableSlot) (base row : Nat) : Option (Nat × RouteEntry) :=
  (r.probes f h t base row).find? fun x => x.2.state ≠ 0 && x.2.row = row

/-- A row's home. -/
def TableSlot.home (t : TableSlot) (row : Nat) : RowPlace := (row % max 1 t.nshard.toNat, 0xFFFF)

/-- location(r, s) of R297; without a snapshot, where the row is now. -/
def Run.location (r : Run s₀) (f : FurrowIx) (h : Handle) (t : TableSlot) (base row : Nat) (snapshot : Option Nat) : RowPlace :=
  match r.routeEntry f h t base row with
  | none => t.home row
  | some x => match snapshot with
    | some s => if x.2.epoch ≤ s then x.2.cur else x.2.prev
    | none => x.2.cur

/-- The extents of the entries looked at for rows. -/
def Run.probeExtents (r : Run s₀) (f : FurrowIx) (h : Handle) (t : TableSlot) (base : Nat) (rows : List Nat) : List Extent :=
  rows.flatMap fun row => (r.probes f h t base row).map fun x => (2, base + t.routeOff + 32 * x.1, 32)

/-! ### Enabling and draining (R295, Table 13-3) -/

/-- The header that an enable reads, and the route table, which only the root member's does (R294). -/
def TableSlot.headRead (t : TableSlot) : List Extent := if t.curVersion = 0 then [] else [(2, t.base, 64)]
def TableSlot.routeRead (t : TableSlot) (member : Bool) : List Extent :=
  if t.curVersion = 0 || member then [] else [(2, t.base + t.routeOff, 32 * t.routeN)]

/-- The slot belongs to a member's context: its route table is not read (R294). -/
def Furrow.memberTable? (c : Furrow) (i : TableIx) : Bool := c.ctx[c.tbl[i].handle].role = .member

/-- The uncorrectable data that an enable meets in what it reads. -/
def Furrow.enableBad (c : Furrow) (f : FurrowIx) (i : TableIx) (xs : List Extent) : Option (Space × Nat × Nat) :=
  c.firstBad ⟨f, c.tbl[i].handle, 0, 0, 0⟩ xs

/-- The first failing check of Table 13-3, in its order, or 0; of a header that cannot be read nothing but 0x07 can be said. -/
def Run.tableError (r : Run s₀) (f : FurrowIx) (i : TableIx) : Byte :=
  let c := r.fur f
  let t := c.tbl[i]
  let x := c.ctx[t.handle]
  if t.d < 64 ∨ 16384 < t.d ∨ t.d % 64 ≠ 0 ∨ t.rows = 0 ∨ t.rows = 0xFFFFFFFF then 1
  else if x.state ≠ .ready ∧ x.state ≠ .member then 2
  else if t.nshard.toNat ≤ t.shard.toNat then 3
  else if (t.logRoute ≠ 0 ∧ (t.logRoute.toNat < 6 ∨ 16 < t.logRoute.toNat)) ∨ t.routeN / 2 < t.guest.toNat then 4
  else if !c.hbmInside t.handle t.base t.areaBytes || c.areaTaken t.handle i t.base t.areaBytes then 5
  else if t.curVersion = 0 then 0
  else if (c.enableBad f i t.headRead).isSome then 7
  else if r.load f t.handle 0 2 t.base 64 ≠ t.header t.curVersion.toNat then 6
  else if (c.enableBad f i (t.routeRead (c.memberTable? i))).isSome then 7
  else 0

/-- The guest occupancy and the greatest epoch of a route table at enable, where it is read; a FORWARD entry becomes RESIDENT (R302). -/
def Run.readRoutes (r : Run s₀) (f : FurrowIx) (t : TableSlot) (member : Bool) : Run s₀ × List (Nat × Nat × Option Nat) × Nat :=
  (List.range (if t.curVersion = 0 || member then 0 else t.routeN)).foldl (fun (acc : Run s₀ × List (Nat × Nat × Option Nat) × Nat) k =>
    let at_ := t.base + t.routeOff + 32 * k
    let x := RouteEntry.of (acc.1.load f t.handle 0 2 at_ 32)
    if x.state = 0 then acc
    else
      let r := if x.state = 2 then acc.1.store f t.handle 0 2 at_ { x with state := 1, next := (0xFFFF, 0xFFFF) }.bytes else acc.1
      (r, if x.cur.2 = 0xFFFF then acc.2.1 else acc.2.1 ++ [(x.cur.1, x.cur.2, none)], max acc.2.2 x.epoch)) (r, [], 0)

/-- TBL_ENABLE (R295, R302). -/
def execTblEnable (f : FurrowIx) (i : TableIx) (s : State) : Host.Outcome State Fault Refusal :=
  let r := Run.start s
  let t := (s.furrow f).tbl[i]
  (if t.state ≠ .idle ∨ !s.reaches f 0x180000 then r
   else
     match r.tableError f i with
     | 0 =>
       let x := r.readRoutes f t ((s.furrow f).memberTable? i)
       x.1.modFur f fun c => c.modTbl i fun t =>
         { t with
           error := 0, enable := true, state := .serving, guests := x.2.1, routeEpoch := BitVec.ofNat 64 x.2.2, migrations := 0
           migration := none, window := [] }
     | e =>
       let r := match (r.fur f).enableBad f i (t.headRead ++ t.routeRead ((s.furrow f).memberTable? i)) with
         | some p =>
           if e = 7 then r.modFur f fun c => match c.badIn p with
             | some (b, at_) => c.raise (ueRecord b at_ t.handle 0xFFFFFFFF 0) []
             | none => c
           else r
         | none => r
       r.modFur f fun c => c.modTbl i fun t => { t with error := e, enable := false }).done

/-- The requests that a table slot serves. -/
def Furrow.tableUsers (c : Furrow) (i : TableIx) : List Request :=
  c.reqs.filter fun q => q.h = c.tbl[i].handle && q.phase = Phase.running &&
    (match (opcodeOf q.desc).toNat with
     | 0x70 | 0x71 => df q.desc 36 1 = i.val
     | 0x72 => df q.desc 28 1 = i.val
     | 0x73 => df q.desc 22 1 = i.val
     | _ => false)

/-- The ending of a migration whose table's version has changed, or whose slot drains (Table 13-6; log 53). -/
def migrateShort (cause : Nat) : Ending := { Ending.ok 0 0 with status := Status.doneShort, detail := BitVec.ofNat 64 cause }

/-- A migration in progress is abandoned (R295, R296): its request ends, and what it was holding with it. -/
def Run.abandon (r : Run s₀) (f : FurrowIx) (i : TableIx) : Run s₀ :=
  match ((r.fur f).tbl[i]).migration with
  | none => r
  | some m =>
    let r := r.modFur f fun c => c.modTbl i fun t => { t with migration := none, stale := t.stale || m.asked }
    match m.owner with
    | some (h, tag) => match (r.fur f).request? h tag with
      | some q => r.endRounds f q (migrateShort 4)
      | none => r
    | none => r

/-- TBL_DRAIN (R295, R155): a SERVING slot takes no more descriptors, a migration that has not switched is abandoned, and the slot is
IDLE once the descriptors that use it have ended; until then the command finds it DRAINING and waits. -/
def execTblDrain (f : FurrowIx) (i : TableIx) (s : State) : Host.Outcome State Fault Refusal :=
  let r := Run.start s
  let t := (s.furrow f).tbl[i]
  (if t.state = .idle ∨ (t.state = .serving ∧ !s.reaches f 0x180000) then r
   else
     let r := if t.state = .serving then
         (r.modFur f fun c => c.modTbl i fun t => { t with state := .draining, enable := false }).abandon f i
       else r
     if (r.fur f).tbl[i].holds.isEmpty && ((r.fur f).tableUsers i).isEmpty then
       r.modFur f fun c => c.modTbl i fun t => { t with state := .idle }
     else r).done

/-! ### References (R296) -/

/-- A gather or scatter-add takes a reference to the current version when it starts; a gather at the root its snapshot (R296, R298). -/
def Furrow.takeVersion (c : Furrow) (q : Request) : Furrow :=
  match c.table? q.h (df q.desc 36 1) with
  | none => c
  | some i => c.modTbl i fun t =>
      { t with
        curRefs := t.curRefs + 1
        holds := t.holds ++ [⟨q.h, q.tag, t.curVersion,
          if opcodeOf q.desc = 0x70 ∧ q.origin = none then some t.routeEpoch else none⟩] }

/-- The version a request holds, with its area and its snapshot. -/
def TableSlot.held (t : TableSlot) (h : Handle) (tag : Tag) : Nat × Nat × Nat :=
  match t.holds.find? fun v => v.h = h && v.tag = tag with
  | some v => (v.version.toNat, if v.version = t.curVersion then t.base else t.oldBase.toNat * 4096,
      (v.snapshot.getD t.routeEpoch).toNat)
  | none => (t.curVersion.toNat, t.base, t.routeEpoch.toNat)

/-! ### TBL_GATHER (R298, R299) -/

/-- The indices of a gather or scatter-add. -/
def Run.indices (r : Run s₀) (e : Eng) (d : List Byte) : List Nat :=
  (List.range (bitsOf (df d 32 4) 23 0)).map fun i => r.loadNat e.f e.h e.core (tref d 16).tier ((tref d 16).off + 4 * i) 4

/-- The extent of the indices. -/
def indexExtent (d : List Byte) : Extent := ((tref d 16).tier, (tref d 16).off, 4 * bitsOf (df d 32 4) 23 0)

/-- Distinct rows below ROWS, by first occurrence. -/
def TableSlot.distinct (t : TableSlot) (idx : List Nat) : List Nat := (idx.filter fun x => decide (x < t.rows.toNat)).eraseDups

/-- The format of byte 37. -/
def tableFmt (d : List Byte) : Fmt := (Fmt.ofCode (bitsOf (df d 37 1) 3 0)).getD .fp32

/-- Bytes of a row of a format, rounded up to 64. -/
def TableSlot.wide (t : TableSlot) (fmt : Fmt) : Nat := align64 (t.d * fmt.bits / 8)

/-- The checks at fetch of TBL_GATHER and TBL_SCATTER_ADD (Table 13-5, R304). -/
def fetchTblRows (c : Furrow) (h : Handle) (d : List Byte) : Option Refuse :=
  let g := opcodeOf d = 0x70
  let n := bitsOf (df d 32 4) 23 0
  firstFail [reservedBytes d 35 35, reservedBits d 37 7 (if g then 4 else 5), reservedBytes d 38 39, reservedBytes d (if g then 40 else 44) 63,
    c.refCheck h (tref d 16) (4 * n) 16 [1, 2], c.refCheck h (tref d 24) 64 24 [1, 2], badIf (decide (n = 0)) 32,
    badIf (decide (15 < df d 36 1)) 36, badIf (decide (2 < bitsOf (df d 37 1) 3 0)) 37]

/-- The checks of TBL_GATHER and TBL_SCATTER_ADD when they start: the shapes follow from the slot; members check their own (R304). -/
def startTblRows (c : Furrow) (q : Request) : Option Refuse :=
  let d := q.desc
  match c.table? q.h (df d 36 1) with
  | none => some (.operand 36)
  | some i =>
    let t := c.tbl[i]
    if t.curVersion = 0 then some (.operand 36)
    else if q.origin.isSome then none
    else
      let x := tref d 24
      let n := bitsOf (df d 32 4) 23 0
      let m := n * t.wide (tableFmt d) + if opcodeOf d = 0x70 then 64 else 0
      badIf (!c.inside q.h x.tier x.off m || (decide (opcodeOf d = 0x70) && (x.overlap m (tref d 16) (4 * n) || c.overTables q.h x.tier x.off m))) 24

/-- The estimate of TBL_GATHER and TBL_SCATTER_ADD (R305). -/
def costTblRows (c : Furrow) (h : Handle) (d : List Byte) : Cost :=
  match c.table? h (df d 36 1) with
  | none => .unknown
  | some i => .flat (1000 + ceilDiv (bitsOf (df d 32 4) 23 0 * (c.tbl[i].rowBytes + c.tbl[i].wide (tableFmt d))) 2048)

/-- A request for rows, as a message: the version area's offset, then row and slot of each, by shard (log 35). -/
def askRows (base : Nat) (xs : List (Nat × RowPlace)) : List Byte :=
  leBytes 8 base ++ xs.flatMap fun x => leBytes 4 x.1 ++ leBytes 2 x.2.1 ++ leBytes 2 x.2.2

/-- The rows that such a message asks for of a shard: row and slot. -/
def askedOf (bs : List Byte) (shard : Nat) : List (Nat × Nat) :=
  (List.range ((bs.length - 8) / 8)).filterMap fun i =>
    if fieldAt bs (12 + 8 * i) 2 = shard then some (fieldAt bs (8 + 8 * i) 4, fieldAt bs (14 + 8 * i) 2) else none

/-- Read rows that lie here, and count them (R301): row number and bytes of each. -/
def Run.readRows (r : Run s₀) (e : Eng) (i : TableIx) (base : Nat) (xs : List (Nat × Nat)) : Run s₀ × List (Nat × List Byte) :=
  let t := (r.fur e.f).tbl[i]
  let rows := xs.map fun x => (x.1, r.load e.f e.h e.core 2 (t.rowAt base x.1 x.2) t.rowBytes)
  (r.modFur e.f fun c => c.modTbl i fun t =>
    { t with window := xs.foldl (fun w x => match w.find? fun p => p.1 = x.1 with
        | some p => w.map fun y => if y.1 = x.1 then (x.1, p.2 + 1) else y
        | none => w ++ [(x.1, 1)]) t.window }, rows)

/-- The extents of rows that lie here. -/
def TableSlot.rowExtents (t : TableSlot) (base : Nat) (xs : List (Nat × Nat)) : List Extent :=
  xs.map fun x => (2, t.rowAt base x.1 x.2, t.rowBytes)

/-- A member's answer to a request for rows: each row of its shard, as number and bytes. -/
def Run.answerRows (r : Run s₀) (e : Eng) (i : TableIx) (bs : List Byte) : Run s₀ × Except Ending (List Byte) :=
  let t := (r.fur e.f).tbl[i]
  let base := fieldAt bs 0 8
  let xs := askedOf bs t.shard.toNat
  match (r.fur e.f).firstBad e (t.rowExtents base xs) with
  | some p => let x := r.readFault e p; (x.1, .error x.2)
  | none => let x := r.readRows e i base xs; (x.1, .ok (x.2.flatMap fun y => leBytes 4 y.1 ++ y.2))

/-- The rows that answers hold. -/
def rowsIn (rowBytes : Nat) : Nat → List Byte → List (Nat × List Byte)
  | 0, _ => []
  | k + 1, bs => if bs.length < 4 + rowBytes then [] else
      (fieldAt bs 0 4, (bs.drop 4).take rowBytes) :: rowsIn rowBytes k (bs.drop (4 + rowBytes))

/-- The extent of OUT. -/
def TableSlot.outExtent (t : TableSlot) (d : List Byte) : Extent :=
  ((tref d 24).tier, (tref d 24).off, 64 + bitsOf (df d 32 4) 23 0 * t.wide (tableFmt d))

/-- Write the gathered rows and their header (R298, R303). Rows of a shard that no member holds are free (log 53). -/
def Run.putGather (r : Run s₀) (e : Eng) (t : TableSlot) (d : List Byte) (idx : List Nat) (rows : List (Nat × List Byte)) :
    Run s₀ × Ending :=
  let o := tref d 24
  let fmt := tableFmt d
  let w := t.wide fmt
  let v := t.held e.h e.tag
  let n := t.distinct idx
  let lost := n.filter fun x => !rows.any fun y => y.1 = x
  let free := r.freeBytes (lost.length * t.rowBytes)
  let all := rows ++ lost.zipIdx.map fun x => (x.1, bytesAt free.1 (x.2 * t.rowBytes) t.rowBytes)
  let vals := all.map fun x => (x.1, bytesAt (fmt.pack ((t.dequantise x.2).map fun y => (fmt.convert true .nearest y).1)) 0 w)
  let pad := (idx.filter fun x => x = 0xFFFFFFFF).length
  let oor := (idx.filter fun x => decide (t.rows.toNat ≤ x ∧ x ≠ 0xFFFFFFFF)).length
  let body := idx.flatMap fun x => ((vals.find? fun y => y.1 = x).map (·.2)).getD (zeros w)
  let hd := leBytes 4 v.1 ++ leBytes 4 idx.length ++ leBytes 8 v.2.2 ++ leBytes 4 n.length ++ leBytes 4 pad ++ leBytes 4 oor ++ zeros 36
  let r := free.2.store e.f e.h e.core o.tier o.off (hd ++ body)
  let ok := Ending.ok (satCount n.length) (df d 24 8)
  (r, if oor = 0 then ok else
    { ok with status := Status.doneShort, detail := BitVec.ofNat 64 (idx.length - oor + 2 ^ 32 * oor) })

/-- Do a TBL_GATHER at the root: ask for every distinct row, then write what has come. -/
def Run.gather (r : Run s₀) (e : Eng) (q : Request) (i : TableIx) : Run s₀ :=
  let t := (r.fur e.f).tbl[i]
  let d := q.desc
  let v := t.held e.h e.tag
  let idx := r.indices e d
  let rows := t.distinct idx
  match (r.fur e.f).firstBad e (indexExtent d :: r.probeExtents e.f e.h t v.2.1 rows) with
  | some p => let x := r.spoil e p [t.outExtent d]; x.1.endRounds e.f q x.2
  | none =>
    let places := rows.map fun x => (x, r.location e.f e.h t v.2.1 x (some v.2.2))
    let r := if q.stage = 0 then r.modFur e.f fun c =>
        (c.sendDown e.f q q.collKey (askRows v.2.1 places)).modReq e.h e.tag fun q => { q with stage := 1 } else r
    match (r.fur e.f).piecesBelow q with
    | none => r
    | some rest =>
      let own := (places.filter fun x => x.2.1 = t.shard.toNat).map fun x => (x.1, x.2.2)
      match (r.fur e.f).firstBad e (t.rowExtents v.2.1 own) with
      | some p => let x := r.spoil e p [t.outExtent d]; x.1.endRounds e.f q x.2
      | none =>
        let x := r.readRows e i v.2.1 own
        let y := x.1.putGather e t d idx (x.2 ++ rest.flatMap fun p => rowsIn t.rowBytes p.2.length p.2)
        y.1.endRounds e.f q y.2

/-- Carry out a descriptor on a table: a member serves rounds, the root does the work. -/
def Run.tableDesc (r : Run s₀) (op : Byte) (at_ : Nat) (f : FurrowIx) (h : Handle) (tag : Tag)
    (serve : Request → TableIx → Run s₀ → List Byte → Run s₀ × Except Ending (List Byte)) (work : Request → TableIx → Run s₀ → Run s₀) :
    Run s₀ :=
  match (r.fur f).atWork h tag op with
  | none => r
  | some q =>
    let n := df q.desc at_ 1
    if x : n < 16 then
      (if q.origin.isSome then r.serveRounds f q (serve q ⟨n, x⟩) else work q ⟨n, x⟩ r)
    else r.engineEnds f h tag (Refuse.operand at_).atStart.ending

/-- A TBL_GATHER goes on. -/
def Run.gatherRows (r : Run s₀) (f : FurrowIx) (h : Handle) (tag : Tag) : Run s₀ :=
  r.tableDesc 0x70 36 f h tag (fun q i r bs => r.answerRows (q.eng f) i bs) fun q i r => r.gather (q.eng f) q i

/-- TBL_GATHER (R298). -/
def execTblGather (f : FurrowIx) (h : Handle) (tag : Tag) (s : State) : Host.Outcome State Fault Refusal :=
  ((Run.start s).gatherRows f h tag).done

/-! ### TBL_SCATTER_ADD (R300) -/

/-- The combined deltas of the distinct rows (R300): each row with its accumulated FP32 values. -/
def Run.deltas (r : Run s₀) (e : Eng) (t : TableSlot) (d : List Byte) (idx : List Nat) : List (Nat × List FVal) :=
  let fmt := tableFmt d
  let w := t.wide fmt
  let x := tref d 24
  (t.distinct idx).map fun row =>
    (row, (idx.zipIdx.filter fun p => p.1 = row).foldl (fun (acc : List FVal) p =>
      let bs := r.load e.f e.h e.core x.tier (x.off + p.2 * w) w
      acc.zipIdx.map fun a => add32 a.1 (fmt.value (fieldAt bs (a.2 * fmt.bits / 8) (fmt.bits / 8)))) (List.replicate t.d FVal.zero))

/-- Fold a delta into a row that lies here: false when it is rejected (R300). -/
def Run.applyRow (r : Run s₀) (e : Eng) (i : TableIx) (d : List Byte) (base : Nat) (x : Nat × Nat) (delta : List FVal) : Run s₀ × Bool :=
  let t := (r.fur e.f).tbl[i]
  let at_ := t.rowAt base x.1 x.2
  let old := t.dequantise (r.load e.f e.h e.core 2 at_ t.rowBytes)
  let new := List.zipWith (fun a b => add32 a b) old delta
  if new.any fun v => match v with | .fin _ _ _ => false | _ => true then (r, false)
  else
    let how := fun k => roundingOf ((df d 37 1).testBit 4) (df d 40 4) (x.1 * t.d + k)
    let r := r.store e.f e.h e.core 2 at_ (t.quantise how new)
    (r.modFur e.f fun c => c.modTbl i fun t => match t.migration with
      | some m => if m.row.toNat = x.1 then { t with migration := some { m with dirty := true } } else t
      | none => t, true)

/-- One row of a batch as a message carries it: row, shard, slot, and its delta as FP32. -/
def deltaBytes (x : Nat × RowPlace × List FVal) : List Byte :=
  leBytes 4 x.1 ++ leBytes 2 x.2.1.1 ++ leBytes 2 x.2.1.2 ++ x.2.2.flatMap fun v => leBytes 4 v.bits32

/-- A member applies the rows of a batch that are its shard's, in order: how many it wrote and how many it rejected (R300). -/
def Run.answerDeltas (r : Run s₀) (e : Eng) (i : TableIx) (d bs : List Byte) : Run s₀ × Except Ending (List Byte) :=
  let t := (r.fur e.f).tbl[i]
  let base := fieldAt bs 0 8
  let one := 8 + 4 * t.d
  let acc := (List.range ((bs.length - 8) / max 1 one)).foldl (fun (acc : Run s₀ × Except Ending (Nat × Nat)) k =>
    let b := bytesAt bs (8 + k * one) one
    match acc with
    | (r, .error x) => (r, .error x)
    | (r, .ok (n, m)) =>
      if fieldAt b 4 2 ≠ t.shard.toNat then (r, .ok (n, m))
      else
        let x := (fieldAt b 0 4, fieldAt b 6 2)
        match (r.fur e.f).firstBad e (t.rowExtents base [x]) with
        | some p => let y := r.readFault e p; (y.1, .error y.2)
        | none =>
          let y := r.applyRow e i d base x ((List.range t.d).map fun j => f32 (fieldAt b (8 + 4 * j) 4))
          (y.1, .ok (n + bit y.2, m + bit !y.2))) (r, .ok (0, 0))
  match acc with
  | (r, .error x) => (r, .error x)
  | (r, .ok (0, 0)) => (r, .ok [])
  | (r, .ok (n, m)) => (r, .ok (leBytes 4 n ++ leBytes 4 m))

/-- New updates of a row are held at the root (R302). -/
def TableSlot.holdsRow (t : TableSlot) (base row : Nat) : Bool :=
  decide (base = t.base) && match t.migration with
  | some m => m.row.toNat = row && (m.stage = .rereading || m.stage = .rewriting)
  | none => false

/-- The ending of a scatter-add (Table 13-6). -/
def scatterEnding (version written rejected oor : Nat) : Ending :=
  let ok := Ending.ok (satCount written) version
  if rejected = 0 ∧ oor = 0 then ok
  else { ok with
    status := Status.doneShort
    detail := BitVec.ofNat 64 (written % 2 ^ 32 + 2 ^ 32 * min rejected 65535 + 2 ^ 48 * min oor 65535) }

/-- The rows of a scatter-add from one on that go to one shard other than this, none of them held. -/
def batchFrom (t : TableSlot) (base : Nat) (xs : List (Nat × RowPlace × List FVal)) : List (Nat × RowPlace × List FVal) :=
  match xs with
  | [] => []
  | x :: _ => xs.takeWhile fun y => y.2.1.1 = x.2.1.1 && !t.holdsRow base y.1

/-- A scatter-add's progress as STAGE holds it: whether a batch is out, the rows applied so far, those rejected and those dropped. -/
structure Progress where
  out      : Bool
  row      : Nat
  rejected : Nat
  dropped  : Nat

/-- The progress that a stage holds. -/
def Progress.of (n : Nat) : Progress := ⟨n % 2 = 1, n / 2 % 2 ^ 25, n / 2 ^ 26 % 2 ^ 25, n / 2 ^ 51⟩

/-- The stage that holds a progress. -/
def Progress.code (p : Progress) : Nat := bit p.out + 2 * p.row + 2 ^ 26 * p.rejected + 2 ^ 51 * p.dropped

/-- Go on with a scatter-add at the root, row by row in order of first occurrence; rows of other members go to them in batches (R300). -/
def Run.scatter (e : Eng) (q : Request) (i : TableIx) (t : TableSlot) (base version oor : Nat) (xs : List (Nat × RowPlace × List FVal)) :
    Nat → Run s₀ → Progress → Run s₀
  | 0, r, _ => r
  | k + 1, r, p =>
    let keep := fun (r : Run s₀) (p : Progress) => r.modFur e.f fun c => c.modReq e.h e.tag fun q => { q with stage := p.code }
    match xs.drop p.row with
    | [] => r.endRounds e.f q (scatterEnding version (p.row - p.rejected - p.dropped) p.rejected oor)
    | x :: _ =>
      if p.out then
        let n := ((((r.fur e.f).request? e.h e.tag).map (·.batch)).getD []).length
        match ((r.fur e.f).request? e.h e.tag).bind fun q => (r.fur e.f).piecesBelow q with
        | none => r
        | some rest =>
          let lost := rest.foldl (fun n y => n + fieldAt y.2 4 4) 0
          let done := rest.foldl (fun n y => n + fieldAt y.2 0 4) 0
          let r := r.modFur e.f fun c => c.modReq e.h e.tag fun q => { q.clear q.collKey with batch := [] }
          let p : Progress := ⟨false, p.row + n, p.rejected + lost, p.dropped + (n - lost - done)⟩
          Run.scatter e q i t base version oor xs k (keep r p) p
      else if (r.fur e.f).tbl[i].holdsRow base x.1 then r
      else if x.2.1.1 = t.shard.toNat then
        match (r.fur e.f).firstBad e (t.rowExtents base [(x.1, x.2.1.2)]) with
        | some w => let y := r.readFault e w; y.1.endRounds e.f q y.2
        | none =>
          let y := r.applyRow e i q.desc base (x.1, x.2.1.2) x.2.2
          let p := { p with row := p.row + 1, rejected := p.rejected + bit !y.2 }
          Run.scatter e q i t base version oor xs k (keep y.1 p) p
      else
        let b := batchFrom t base (xs.drop p.row)
        let r := r.modFur e.f fun c =>
          ((c.sendDown e.f q q.collKey (leBytes 8 base ++ b.flatMap deltaBytes)).modReq e.h e.tag fun q =>
            { q with batch := b.map fun y => BitVec.ofNat 32 y.1 }).modTbl i fun t => match t.migration with
            | some m => if b.any fun y => y.1 = m.row.toNat then { t with migration := some { m with dirty := true } } else t
            | none => t
        Run.scatter e q i t base version oor xs k (keep r { p with out := true }) { p with out := true }

/-- The distinct rows of a scatter-add with their places now and their deltas. -/
def Run.scatterRows (r : Run s₀) (e : Eng) (t : TableSlot) (d : List Byte) (base : Nat) : List (Nat × RowPlace × List FVal) :=
  (r.deltas e t d (r.indices e d)).map fun x => (x.1, r.location e.f e.h t base x.1 none, x.2)

/-- Do a TBL_SCATTER_ADD at the root. -/
def Run.scatterAdd (r : Run s₀) (e : Eng) (q : Request) (i : TableIx) : Run s₀ :=
  let t := (r.fur e.f).tbl[i]
  let d := q.desc
  let v := t.held e.h e.tag
  let idx := r.indices e d
  match (r.fur e.f).firstBad e (indexExtent d :: ((tref d 24).tier, (tref d 24).off, idx.length * t.wide (tableFmt d)) ::
      r.probeExtents e.f e.h t v.2.1 (t.distinct idx)) with
  | some p => let x := r.readFault e p; x.1.endRounds e.f q x.2
  | none =>
    let oor := (idx.filter fun x => decide (t.rows.toNat ≤ x ∧ x ≠ 0xFFFFFFFF)).length
    let xs := r.scatterRows e t d v.2.1
    Run.scatter e q i t v.2.1 v.1 oor xs (2 * xs.length + 2) r (.of q.stage)

/-- A TBL_SCATTER_ADD goes on. -/
def Run.scatterDesc (r : Run s₀) (f : FurrowIx) (h : Handle) (tag : Tag) : Run s₀ :=
  r.tableDesc 0x71 36 f h tag (fun q i r bs => r.answerDeltas (q.eng f) i q.desc bs) fun q i r => r.scatterAdd (q.eng f) q i

/-- TBL_SCATTER_ADD (R300). -/
def execTblScatterAdd (f : FurrowIx) (h : Handle) (tag : Tag) (s : State) : Host.Outcome State Fault Refusal :=
  ((Run.start s).scatterDesc f h tag).done

/-- A batch of a scatter-add that is out holds a row: its update is routed and has not unlocked (R302). One that is being cancelled is out
until the members have answered. -/
def Furrow.routed (c : Furrow) (i : TableIx) (row : Nat) : Bool :=
  c.reqs.any fun q => q.h = c.tbl[i].handle && opcodeOf q.desc = 0x71 && df q.desc 36 1 = i.val && !q.isEnded &&
    q.batch.contains (BitVec.ofNat 32 row)

/-! ### TBL_SWITCH (R296) -/

/-- The checks at fetch of a TBL_SWITCH. -/
def fetchTblSwitch (d : List Byte) : Option Refuse :=
  firstFail [reservedField d 16 8 11 0, reservedField d 16 8 63 48, reservedBits d 29 7 1, reservedBytes d 30 63,
    badIf (decide (15 < df d 28 1)) 28]

/-- The checks of a TBL_SWITCH when it starts, on every member (R304). -/
def startTblSwitch (c : Furrow) (h : Handle) (d : List Byte) : Option Refuse :=
  match c.table? h (df d 28 1) with
  | none => some (.operand 28)
  | some i =>
    let t := c.tbl[i]
    let b := df d 16 8
    firstFail [badIf (!c.hbmInside h b t.areaBytes || c.areaTaken h i b t.areaBytes) 16,
      badIf (decide (df d 24 4 ≤ t.curVersion.toNat)) 24]

/-- The estimate of a TBL_SWITCH (R305). -/
def costTblSwitch (c : Furrow) (h : Handle) (d : List Byte) : Cost :=
  match c.table? h (df d 28 1) with
  | none => .unknown
  | some i => .flat (1000 + ceilDiv (1000 * (32 * c.tbl[i].routeN)) mib)

/-- A TBL_SWITCH waits unstarted while the previous old version drains, and while another switch of the table is under way, which will leave
one (R296). -/
def Furrow.switchWaits (c : Furrow) (h : Handle) (d : List Byte) : Bool :=
  match c.table? h (df d 28 1) with
  | none => false
  | some i => c.tbl[i].oldDraining || (c.tableUsers i).any fun q => opcodeOf q.desc = 0x72

/-- Write the header of a new version's area and zero its route table. -/
def Run.prepareArea (r : Run s₀) (e : Eng) (i : TableIx) (base version : Nat) : Run s₀ :=
  let t := (r.fur e.f).tbl[i]
  (r.store e.f e.h 0 2 base (t.header version)).storeCells e.f e.h 0 2 (base + t.routeOff) (32 * t.routeN) []

/-- TBL_CUR moves to TBL_OLD and the new version to TBL_CUR, in one step; the new version's route table is empty (R296). TBL_ROUTE_EPOCH
stays at the epoch of the latest row switch (Table 13-2, R9). -/
def TableSlot.switchTo (t : TableSlot) (base version : Nat) : TableSlot :=
  { t with
    oldVersion := t.curVersion, oldBase := t.curBase, oldRefs := BitVec.ofNat 31 t.curRefs.toNat, oldDraining := decide (t.curRefs ≠ 0)
    curVersion := BitVec.ofNat 32 version, curBase := BitVec.ofNat 36 (base / 4096), curRefs := 0, guests := [] }

/-- The updates that an abandoned migration was holding are abandoned with it (R296): each waiting scatter-add leaves out the row. -/
def Run.dropHeld (r : Run s₀) (f : FurrowIx) (i : TableIx) : Run s₀ :=
  let t := (r.fur f).tbl[i]
  r.each ((r.fur f).tableUsers i) fun r q =>
    let v := t.held q.h q.tag
    let p := Progress.of q.stage
    match (r.scatterRows (q.eng f) t q.desc v.2.1).drop p.row with
    | x :: _ =>
      if opcodeOf q.desc = 0x71 ∧ q.origin = none ∧ !p.out ∧ t.holdsRow v.2.1 x.1 then
        r.modFur f fun c => c.modReq q.h q.tag fun q => { q with stage := { p with row := p.row + 1, dropped := p.dropped + 1 }.code }
      else r
    | [] => r

/-- A member's part of a switch: its area first, then its registers. -/
def Run.answerSwitch (r : Run s₀) (e : Eng) (i : TableIx) (d bs : List Byte) : Run s₀ × Except Ending (List Byte) :=
  if fieldAt bs 0 1 = 1 then (r.prepareArea e i (df d 16 8) (df d 24 4), .ok [])
  else (r.modFur e.f fun c => c.modTbl i fun t => t.switchTo (df d 16 8) (df d 24 4), .ok [])

/-- Do a TBL_SWITCH at the root. Stages: 0 at the start, 1 the members' areas, 2 their registers, 3 the old version drains. -/
def Run.tblSwitch (r : Run s₀) (e : Eng) (q : Request) (i : TableIx) : Run s₀ :=
  let d := q.desc
  let to_ := fun (r : Run s₀) (n : Nat) => r.modFur e.f fun c => c.modReq e.h e.tag fun q => { q.clear q.collKey with stage := n }
  let finish := fun (r : Run s₀) =>
    if (df d 29 1).testBit 0 && (r.fur e.f).tbl[i].oldDraining then r else r.endRounds e.f q (Ending.ok 0 (df d 24 4))
  let registers := fun (r : Run s₀) => match (r.fur e.f).piecesBelow q with
    | none => r
    | some _ => finish (to_ r 3)
  let switch := fun (r : Run s₀) => match (r.fur e.f).piecesBelow q with
    | none => r
    | some _ =>
      let r := ((r.dropHeld e.f i).abandon e.f i).modFur e.f fun c => c.modTbl i fun t => t.switchTo (df d 16 8) (df d 24 4)
      let r := (to_ r 2).modFur e.f fun c => c.sendDown e.f q q.collKey [2]
      if ((r.fur e.f).below e.h).2.isEmpty then registers r else r
  match q.stage with
  | 0 => switch ((to_ (r.prepareArea e i (df d 16 8) (df d 24 4)) 1).modFur e.f fun c => c.sendDown e.f q q.collKey [1])
  | 1 => switch r
  | 2 => registers r
  | _ => finish r

/-- A TBL_SWITCH goes on. -/
def Run.switchDesc (r : Run s₀) (f : FurrowIx) (h : Handle) (tag : Tag) : Run s₀ :=
  r.tableDesc 0x72 28 f h tag (fun q i r bs => r.answerSwitch (q.eng f) i q.desc bs) fun q i r => r.tblSwitch (q.eng f) q i

/-- TBL_SWITCH (R296). -/
def execTblSwitch (f : FurrowIx) (h : Handle) (tag : Tag) (s : State) : Host.Outcome State Fault Refusal :=
  ((Run.start s).switchDesc f h tag).done

/-! ### Migration (R301, R302) -/

/-- No gather holds a snapshot of the current version below an epoch. -/
def TableSlot.noneBelow (t : TableSlot) (e : Nat) : Bool :=
  t.holds.all fun v => decide (v.version ≠ t.curVersion) || match v.snapshot with | some s => decide (e ≤ s.toNat) | none => true

/-- A guest slot is in use. -/
def TableSlot.guestUsed (t : TableSlot) (shard slot : Nat) : Bool :=
  (t.guests.any fun g => g.1 = shard && g.2.1 = slot && (match g.2.2 with | some e => !t.noneBelow e | none => true)) ||
    match t.migration with | some m => m.target.toNat = shard && m.slot.toNat = slot | none => false

/-- The first free guest slot of a shard. -/
def TableSlot.freeGuest (t : TableSlot) (shard : Nat) : Option Nat := (List.range t.guest.toNat).find? fun k => !t.guestUsed shard k

/-- What stands in the way of a migration (Table 13-6): 1 no guest slot, 2 the row is busy, 3 it is there already. A route table without
an empty entry for the row counts as no slot (log 53). -/
def Run.migrateBar (r : Run s₀) (f : FurrowIx) (t : TableSlot) (row target : Nat) : Except Nat (Nat × Nat × RouteEntry) :=
  let ps := r.probes f t.handle t t.base row
  let fresh : RouteEntry := ⟨row, 0, 0, t.home row, t.home row, (0xFFFF, 0xFFFF)⟩
  let entry := match ps.getLast? with
    | some x => if x.2.state = 0 then some (x.1, fresh) else if x.2.row = row then some x else none
    | none => none
  if (match entry with | some x => x.2.cur.1 | none => (t.home row).1) = target then .error 3
  else match entry, t.freeGuest target with
    | some x, some s => if t.noneBelow x.2.epoch then .ok (s, x.1, x.2) else .error 2
    | _, _ => .error 1

/-- The key of a migration's messages in the mailboxes of a table's owner (log 52). -/
def migrationKey (i : TableIx) : Nat := 4128 + i.val

/-- The key of a table's window reports in the mailbox of its root (log 52). -/
def reportKey (i : TableIx) : Nat := 4112 + i.val

/-- A message of a migration: 1 read or 2 write, the area, row and place, the tag of its request, and the row's bytes for a write. -/
def migrationMsg (kind base row : Nat) (p : RowPlace) (m : Migration) (data : List Byte) : List Byte :=
  leBytes 1 kind ++ leBytes 8 base ++ leBytes 4 row ++ leBytes 2 p.1 ++ leBytes 2 p.2 ++
    leBytes 4 (match m.owner with | some x => x.2.toNat | none => 0xFFFFFFFF) ++ data

/-- Read a row of this shard, or write one, for a migration. A row that cannot be read is recorded on this furrow, and gives the DETAIL of
its DATA_ERROR (R424). -/
def Run.migrateHere (r : Run s₀) (f : FurrowIx) (i : TableIx) (bs : List Byte) : Run s₀ × Except W64 (List Byte) :=
  let t := (r.fur f).tbl[i]
  let at_ := t.rowAt (fieldAt bs 1 8) (fieldAt bs 9 4) (fieldAt bs 15 2)
  if fieldAt bs 13 2 ≠ t.shard.toNat then (r, .ok [])
  else if fieldAt bs 0 1 = 1 then
    match (r.fur f).meets f t.handle 0 2 at_ t.rowBytes with
    | some p => let x := r.readFault ⟨f, t.handle, BitVec.ofNat 32 (fieldAt bs 17 4), 0x73, 0⟩ p; (x.1, .error x.2.detail)
    | none => (r, .ok (r.load f t.handle 0 2 at_ t.rowBytes))
  else (r.store f t.handle 0 2 at_ (bs.drop 21), .ok [])

/-- A member's answer as bytes: nothing, a row, or nine bytes with the DETAIL of a row that cannot be read. -/
def migrationAnswer : Except W64 (List Byte) → List Byte
  | .ok bs => bs
  | .error d => 0 :: leBytes 8 d.toNat

/-- What the members' answers say. -/
def migrationAnswered (xs : List (List Byte)) : Except W64 (List Byte) :=
  match xs.find? fun x => x.length = 9 with
  | some x => .error (BitVec.ofNat 64 (fieldAt x 1 8))
  | none => .ok ((xs.find? fun x => !x.isEmpty).getD [])

/-- The answers to what an abandoned migration asked have all come: they are dropped, and a new one may ask (R302). -/
def Run.unstale (r : Run s₀) (f : FurrowIx) (i : TableIx) : Run s₀ :=
  let c := r.fur f
  let h := c.tbl[i].handle
  if c.tbl[i].stale && (c.piecesLeft (c.box h) (migrationKey i)).isSome then
    r.modFur f fun c => (c.modBox h fun q => q.clear (migrationKey i)).modTbl i fun t => { t with stale := false }
  else r

/-- Do a step of a migration, here or by a message to the members; the answer once it is there. A read that is asked for leaves the row
clean, unless an update of it is out (R302). -/
def Run.migrateAt (r : Run s₀) (f : FurrowIx) (i : TableIx) (m : Migration) (bs : List Byte) : Run s₀ × Option (Except W64 (List Byte)) :=
  let h := ((r.fur f).tbl[i]).handle
  let ask := fun (r : Run s₀) (b : Bool) => r.modFur f fun c => c.modTbl i fun t => { t with migration := t.migration.map fun m => { m with asked := b } }
  let r := if fieldAt bs 0 1 = 1 ∧ !m.asked then r.modFur f fun c => c.modTbl i fun t =>
      { t with migration := t.migration.map fun m => { m with dirty := c.routed i m.row.toNat } } else r
  if fieldAt bs 13 2 = ((r.fur f).tbl[i]).shard.toNat ∨ ((r.fur f).below h).2.isEmpty then
    let x := r.migrateHere f i bs; (x.1, some x.2)
  else if !m.asked then
    (ask (r.modFur f fun c => let c := c.openBox h; c.sendDown f (c.box h) (migrationKey i) bs) true, none)
  else
    match (r.fur f).piecesUnder ((r.fur f).box h) (migrationKey i) with
    | none => (r, none)
    | some rest =>
      let r := (ask r false).modFur f fun c => c.modBox h fun q => q.clear (migrationKey i)
      (r, some (migrationAnswered (rest.map (·.2))))

/-- A migration ends: the request that asked for it with an ending; its entry stays FORWARD, which no reader heeds (R297, R302). -/
def Run.migrateEnds (r : Run s₀) (f : FurrowIx) (i : TableIx) (m : Migration) (e : Ending) : Run s₀ :=
  let r := r.modFur f fun c => c.modTbl i fun t => { t with migration := none }
  match m.owner with
  | none => r
  | some (h, tag) => match (r.fur f).request? h tag with
    | some q => r.endRounds f q e
    | none => r

/-- A row of a migration cannot be read: its request ends DATA_ERROR, with the DETAIL of the furrow that read it (Table 13-6, R424). -/
def Run.migrateFails (r : Run s₀) (f : FurrowIx) (i : TableIx) (m : Migration) (detail : W64) : Run s₀ :=
  r.migrateEnds f i m { Ending.bare Status.dataError 0 with detail := detail }

/-- The switch of a migration: one aligned 32-byte write of the entry (R302). -/
def Run.migrateSwitch (r : Run s₀) (f : FurrowIx) (i : TableIx) (m : Migration) : Run s₀ :=
  let t := (r.fur f).tbl[i]
  match r.routeEntry f t.handle t t.base m.row.toNat with
  | none => r.migrateEnds f i m (migrateShort 4)
  | some x =>
    let e := t.routeEpoch.toNat + 1
    let y : RouteEntry := { x.2 with prev := x.2.cur, cur := (m.target.toNat, m.slot.toNat), epoch := e, next := (0xFFFF, 0xFFFF), state := 1 }
    let r := r.store f t.handle 0 2 (t.base + t.routeOff + 32 * x.1) y.bytes
    let r := r.modFur f fun c => c.modTbl i fun t =>
      { t with
        routeEpoch := BitVec.ofNat 64 e, migrations := sat t.migrations 1
        guests := ((t.guests.filter fun g => !(g.1 = y.cur.1 && g.2.1 = y.cur.2)).map fun g =>
          if g.1 = y.prev.1 ∧ g.2.1 = y.prev.2 then (g.1, g.2.1, some e) else g) ++ [(y.cur.1, y.cur.2, none)] }
    r.migrateEnds f i m (Ending.ok 1 e)

/-- A migration's request is not being cancelled. -/
def Furrow.migrating (c : Furrow) (m : Migration) : Bool :=
  match m.owner with
  | some (h, tag) => (c.request? h tag).any fun q => q.phase = Phase.running
  | none => true

/-- A migration that is cancelled before its switch leaves its entry as it was: NEXT none, not FORWARD (Table 13-6). An entry that it had
inserted names the row's home. -/
def Run.unforward (r : Run s₀) (f : FurrowIx) (q : Request) : Run s₀ :=
  let n := df q.desc 22 1
  if x : n < 16 then
    let t := (r.fur f).tbl[n]
    match t.migration.filter fun m => m.owner = some (q.h, q.tag) with
    | none => r
    | some m => match r.routeEntry f t.handle t t.base m.row.toNat with
      | some y => r.store f t.handle 0 2 (t.base + t.routeOff + 32 * y.1) { y.2 with state := 1, next := (0xFFFF, 0xFFFF) }.bytes
      | none => r
  else r

/-- A migration goes on as far as it can; the copy is made first, and `hold` lets it go on to hold updates, replay and switch (R302). -/
def Run.migrate (f : FurrowIx) (i : TableIx) (hold : Bool) : Nat → Run s₀ → Run s₀
  | 0, r => r
  | k + 1, r =>
    let t := (r.fur f).tbl[i]
    match t.migration with
    | none => r
    | some m =>
      let set := fun (r : Run s₀) (g : Migration → Migration) => r.modFur f fun c => c.modTbl i fun t => { t with migration := t.migration.map g }
      let cur := match r.routeEntry f t.handle t t.base m.row.toNat with | some x => x.2.cur | none => t.home m.row.toNat
      let next := (m.target.toNat, m.slot.toNat)
      let read := fun (after : MigStage) => match r.migrateAt f i m (migrationMsg 1 t.base m.row.toNat cur m []) with
        | (r, none) => r
        | (r, some (.error d)) => r.migrateFails f i m d
        | (r, some (.ok bs)) => Run.migrate f i hold k (set r fun m => { m with stage := after, data := bs, asked := false })
      let write := fun (fin : Run s₀ → Run s₀) => match r.migrateAt f i m (migrationMsg 2 t.base m.row.toNat next m m.data) with
        | (r, none) => r
        | (r, some _) => fin r
      if !(r.fur f).migrating m then r
      else match m.stage with
      | .reading => read .writing
      | .writing => write fun r => Run.migrate f i hold k (set r fun m => { m with stage := .copied, asked := false })
      | .copied => if hold then Run.migrate f i hold k (set r fun m => { m with stage := .rereading, asked := false }) else r
      | .rereading =>
        if (r.fur f).routed i m.row.toNat then r
        else if m.dirty || m.asked then read .rewriting
        else r.migrateSwitch f i m
      | .rewriting => write fun r => r.migrateSwitch f i m

/-- Begin a migration: the entry names NEXT, and the copy begins (R302). -/
def Run.migrateBegin (r : Run s₀) (f : FurrowIx) (i : TableIx) (row target : Nat) (owner : Option (Handle × Tag))
    (x : Nat × Nat × RouteEntry) : Run s₀ :=
  let t := (r.fur f).tbl[i]
  let r := r.store f t.handle 0 2 (t.base + t.routeOff + 32 * x.2.1) { x.2.2 with state := 2, next := (target, x.1) }.bytes
  let m : Migration := ⟨BitVec.ofNat 32 row, BitVec.ofNat 16 target, BitVec.ofNat 16 x.1, owner, .reading, false, false, []⟩
  Run.migrate f i false 8 (r.modFur f fun c => c.modTbl i fun t => { t with migration := some m })

/-- The checks at fetch of a TBL_MIGRATE. -/
def fetchTblMigrate (d : List Byte) : Option Refuse := firstFail [reservedBytes d 23 63, badIf (decide (15 < df d 22 1)) 22]

/-- The checks of a TBL_MIGRATE when it starts (R304). -/
def startTblMigrate (c : Furrow) (h : Handle) (d : List Byte) : Option Refuse :=
  match c.table? h (df d 22 1) with
  | none => some (.operand 22)
  | some i => firstFail [badIf (decide (c.tbl[i].rows.toNat ≤ df d 16 4)) 16, badIf (decide (c.tbl[i].nshard.toNat ≤ df d 20 2)) 20]

/-- Do a TBL_MIGRATE at the root: it begins once no other migration of the table is in progress. -/
def Run.tblMigrate (r : Run s₀) (e : Eng) (q : Request) (i : TableIx) : Run s₀ :=
  let r := r.unstale e.f i
  let t := (r.fur e.f).tbl[i]
  let row := df q.desc 16 4
  if t.migration.isSome || t.stale then r
  else
    match (r.fur e.f).firstBad e (r.probeExtents e.f e.h t t.base [row]) with
    | some p => let x := r.readFault e p; x.1.endRounds e.f q x.2
    | none =>
      match r.migrateBar e.f t row (df q.desc 20 2) with
      | .error n => r.endRounds e.f q (migrateShort n)
      | .ok x => r.migrateBegin e.f i row (df q.desc 20 2) (some (e.h, e.tag)) x

/-- A TBL_MIGRATE goes on. -/
def Run.migrateDesc (r : Run s₀) (f : FurrowIx) (h : Handle) (tag : Tag) : Run s₀ :=
  r.tableDesc 0x73 22 f h tag (fun _ _ r _ => (r, .ok [])) fun q i r => r.tblMigrate (q.eng f) q i

/-- TBL_MIGRATE (R302): the request ends with the migration's switch. -/
def execTblMigrate (f : FurrowIx) (h : Handle) (tag : Tag) (s : State) : Host.Outcome State Fault Refusal :=
  ((Run.start s).migrateDesc f h tag).done

/-- TBL_VERSION_RECLAIM (R296): the old version's last reference is gone, nothing that an abandoned migration asked is still under way there,
and its area is no longer the furrow's. -/
def execTblVersionReclaim (f : FurrowIx) (i : TableIx) (s : State) : Host.Outcome State Fault Refusal :=
  (((Run.start s).unstale f i).modFur f fun c =>
    if c.tbl[i].oldDraining ∧ c.tbl[i].oldRefs = 0 ∧ !c.tbl[i].stale then c.modTbl i fun t => { t with oldDraining := false } else c).done

/-- A member carries out what a migration asks of it; the bits of the mailbox's ESTIMATE say which tables' messages have gone on. -/
def Run.migrateServe (r : Run s₀) (f : FurrowIx) (i : TableIx) : Run s₀ :=
  let h := ((r.fur f).tbl[i]).handle
  let q := (r.fur f).box h
  let key := migrationKey i
  match q.origin.bind fun o => gathered q.contrib key o.1 with
  | none => r
  | some bs =>
    let r := if q.estimate.testBit i.val then r else r.modFur f fun c =>
      (c.sendDown f q key bs).modBox h fun q => { q with estimate := q.estimate ^^^ (1 <<< i.val) }
    match (r.fur f).piecesUnder q key with
    | none => r
    | some rest =>
      let x := r.migrateHere f i bs
      x.1.modFur f fun c => (c.passUnder f q key (migrationAnswer x.2) rest).modBox h fun q =>
        { q.clear key with estimate := if q.estimate.testBit i.val then q.estimate ^^^ (1 <<< i.val) else q.estimate }

/-- TBL_MIGRATION_SWITCH (R302): the migration goes on to its switch; on a member, what it asks there is done. -/
def execTblMigrationSwitch (f : FurrowIx) (i : TableIx) (s : State) : Host.Outcome State Fault Refusal :=
  let r := Run.start s
  let c := s.furrow f
  (if c.ctx[c.tbl[i].handle].role = .member then r.migrateServe f i
   else if c.tbl[i].state = .serving then Run.migrate f i true 8 r else r).done

/-! ### Windows (R301) -/

/-- One shard's report: shard, reads, hottest row and its reads. -/
abbrev Report := Nat × Nat × Nat × Nat

/-- A report as bytes. -/
def reportBytes (x : Report) : List Byte := leBytes 2 x.1 ++ leBytes 4 x.2.1 ++ leBytes 4 x.2.2.1 ++ leBytes 4 x.2.2.2

/-- The reports that bytes hold. -/
def reportsIn (bs : List Byte) : List Report :=
  (List.range (bs.length / 14)).map fun i => (fieldAt bs (14 * i) 2, fieldAt bs (14 * i + 2) 4, fieldAt bs (14 * i + 6) 4, fieldAt bs (14 * i + 10) 4)

/-- The report of a slot's window: the hottest row, the lower one among equals. -/
def TableSlot.report (t : TableSlot) : Report :=
  let hot := t.window.foldl (fun (b : Nat × Nat) x => if b.2 < x.2 ∨ (b.2 = x.2 ∧ x.1 < b.1) then x else b) (0, 0)
  (t.shard.toNat, min (sumOf (t.window.map (·.2))) 0xFFFFFFFF, hot.1, hot.2)

/-- The rule of R301 over the reports: the row to move and where to. -/
def TableSlot.balance (t : TableSlot) (rs : List Report) : Option (Nat × Nat) :=
  let n := rs.length
  let sum := sumOf (rs.map (·.2.1))
  let top := rs.foldl (fun (b : Option Report) x => match b with
    | none => some x
    | some y => if y.2.1 < x.2.1 ∨ (y.2.1 = x.2.1 ∧ x.1 < y.1) then some x else some y) none
  let low := (rs.filter fun x => (t.freeGuest x.1).isSome).foldl (fun (b : Option Report) x => match b with
    | none => some x
    | some y => if x.2.1 < y.2.1 ∨ (y.2.1 = x.2.1 ∧ x.1 < y.1) then some x else some y) none
  match top, low with
  | some h, some g =>
    if t.ratio.toNat * sum < h.2.1 * 16 * n ∧ h.2.1 ≤ h.2.2.2 * 64 ∧ g.1 ≠ h.1 then some (h.2.2.1, g.1) else none
  | _, _ => none

/-- A window of one slot ends: it is published; a member reports it upward with what it has heard from below, and the root may begin a
migration. -/
def Run.tableWindow (r : Run s₀) (f : FurrowIx) (i : TableIx) : Run s₀ :=
  let t := (r.fur f).tbl[i]
  if t.state = .idle then r
  else
    let own := t.report
    let r := r.modFur f fun c => c.modTbl i fun t => { t with reads := BitVec.ofNat 32 own.2.1, window := [] }
    let c := r.fur f
    let q := c.box t.handle
    let heard := (c.below t.handle).2.flatMap fun m => match gathered q.contrib (reportKey i) m.id with
      | some bs => reportsIn bs
      | none => []
    match q.origin with
    | some (root, _) =>
      if c.ctx[t.handle].role = .member then
        r.modFur f fun c => c.sendColl f q (reportKey i) root c.ctx[t.handle].spanId boxTag ((own :: heard).flatMap reportBytes)
      else r
    | none =>
      let r := r.unstale f i
      if t.auto ∧ t.migration.isNone ∧ !(r.fur f).tbl[i].stale ∧ t.state = .serving ∧ t.curVersion ≠ 0 then
        match t.balance (own :: heard) with
        | none => r
        | some (row, g) =>
          if (c.firstBad ⟨f, t.handle, 0, 0, 0⟩ (r.probeExtents f t.handle t t.base [row])).isSome then r
          else match r.migrateBar f t row g with
            | .ok x => r.migrateBegin f i row g none x
            | .error _ => r
      else r

/-- TBL_LOAD_WINDOW (R301): FUR_NS has passed a multiple of 10 ms. -/
def execTblLoadWindow (f : FurrowIx) (s : State) : Host.Outcome State Fault Refusal :=
  let c := s.furrow f
  (if c.ns.toNat / 10000000 ≤ c.lastWindow.toNat / 10000000 then Run.start s
   else ((Run.start s).modFur f fun c => { c with lastWindow := c.ns }).each (List.finRange 16) fun r i => r.tableWindow f i).done

end Sys2Proof.Machine
end

