-- ==== Sys2Proof/Machine/Fabric.lean ====
section
/-! DEFINITION. The Poryar fabric (chapter 16): ports and their links, flits, link fences, remote reads and writes, and the
collectives 0x90 and 0x91. -/

namespace Sys2Proof.Machine

variable {s₀ : State}

/-! ### Ports (R360, R369, R385) -/

/-- A port is a neighbour link: P8 or P9 (R360). -/
def isNeighbour (p : PortIx) : Bool := decide (8 ≤ p.val)

/-- The furrow at the other end of a neighbour link (R360). -/
def neighbourOf (f : FurrowIx) (p : PortIx) : FurrowIx := if p.val = 8 then f + 1 else f - 1

/-- What a training learns of the peer: at a neighbour link, the furrow and the port that R360 connects. -/
def State.peerAt (s : State) (f : FurrowIx) (p : PortIx) (peer : FabricId) (peerPort : PortIx) : FabricId × PortIx :=
  let g := neighbourOf f p
  if isNeighbour p then ((s.furrow g).fabricId g, if p.val = 8 then 9 else 8) else (peer, peerPort)

/-- A port may train now: the block is ENABLED, the port too and in service, and both ends of a neighbour link are READY. -/
def State.mayTrain (s : State) (f : FurrowIx) (p : PortIx) : Bool :=
  let c := s.furrow f
  c.pyr.enabled && c.pyr.ports[p].enable && c.health.ports.getLsbD p.val && c.serves &&
    (!isNeighbour p || (s.furrow (neighbourOf f p)).serves)

/-- A port that is enabled trains as soon as it may, and is DOWN until then (R360, R385). -/
def Run.tryTrain (r : Run s₀) (f : FurrowIx) (p : PortIx) : Run s₀ :=
  let go := r.now.mayTrain f p
  r.modFur f fun c => c.modPort p fun t =>
    if t.enable && (t.state = .off || t.state = .down) && !t.idClash then { t with state := if go then .training else .down } else t

/-- A port leaves UP or DEGRADED (R369, R370): packets received in part are gone, a record is written, the flits sent and not
acknowledged are held, and a fence goes to the peer through the routing table. -/
def Furrow.leaveUp (c : Furrow) (f : FurrowIx) (p : PortIx) (st : PortState) : Furrow :=
  let t := c.pyr.ports[p]
  let held := (match t.fence with | some x => x.2.2 | none => []) ++ t.unacked
  let c := c.modPort p fun t =>
    { t with
      state := st, lanes := 0, losSeen := t.losSeen || st = .dark, partRx := Vector.replicate 4 [], unacked := []
      fence := some (c.ns, t.peerId, held), nakked := false, nakSent := false, waitSince := Vector.replicate 4 none }
  let c := c.raise { errRec 0x20 0 st.code with part := BitVec.ofNat 8 p.val } []
  c.route f { c.packet f Kind.linkFence t.peerId 0 0 with
    addr := BitVec.ofNat 64 ((t.rxSeq - 1).toNat + 2 ^ 16 * p.val) }

/-- A port is retired (R434): it is out of PORT_MAP for good, and OFF. -/
def Furrow.retirePort (c : Furrow) (p : PortIx) : Furrow :=
  (((c.keepHealth fun x => { x with ports := dropBit x.ports p.val }).modPort p fun t => { t with state := .off, lanes := 0 }).raise
    { retiredRecord 4 with part := BitVec.ofNat 8 p.val } []).degrade

/-- A port has left UP for a reason other than loss of light, or failed a training; the sixteenth retires it (R434). -/
def Run.countPort (r : Run s₀) (f : FurrowIx) (p : PortIx) (training : Bool) : Run s₀ :=
  let r := r.modFur f fun c => c.rollCounts.modCounts fun x =>
    if training then { x with portFails := x.portFails.set p (x.portFails[p] + 1) }
    else { x with portExits := x.portExits.set p (x.portExits[p] + 1) }
  let c := r.fur f
  if 16 ≤ (if training then c.counts.portFails[p] else c.counts.portExits[p]) ∧ c.health.ports.getLsbD p.val then
    (r.modFur f fun c => c.retirePort p).weighHealth f
  else r

/-- A live port leaves for a state; a light or a reason to count it (R369, R434). -/
def Run.portLeaves (r : Run s₀) (f : FurrowIx) (p : PortIx) (st : PortState) (counted : Bool) : Run s₀ :=
  let up := (r.fur f).pyr.ports[p].state = .up
  let r := r.modFur f fun c => c.leaveUp f p st
  if counted && up then r.countPort f p false else r

/-- PYR_ENABLE (R385): with ENABLE 1 the ports may train; a write of 0 is ignored while the furrow is in a span, and takes the ports
down. -/
def execPyrEnable (f : FurrowIx) (on : Bool) (s : State) : Host.Outcome State Fault Refusal :=
  let c := s.furrow f
  let r := Run.start s
  (if !s.reaches f 0x300000 then r
   else if on then (r.modFur f fun c => c.modPyr fun y => { y with enabled := true }).each (List.finRange 10) fun r p => r.tryTrain f p
   else if c.spanCount ≠ 0 then r
   else
     (r.each (List.finRange 10) fun r p =>
       if (r.fur f).pyr.ports[p].live then r.portLeaves f p .down true
       else r.modFur f fun c => c.modPort p fun t => if t.state = .training then { t with state := .down } else t).modFur f fun c =>
     c.modPyr fun y => { y with enabled := false }).done

/-- PORT_ENABLE (R385): 1 lets the port train, 0 turns it OFF with its transmitter dark. -/
def execPortEnable (f : FurrowIx) (p : PortIx) (on : Bool) (s : State) : Host.Outcome State Fault Refusal :=
  let r := (Run.start s).modFur f fun c => c.modPort p fun t => { t with enable := on, idClash := false }
  (if !s.reaches f 0x300100 then Run.start s
   else if on then r.tryTrain f p
   else if (r.fur f).pyr.ports[p].live then r.portLeaves f p .off true
   else r.modFur f fun c => c.modPort p fun t => { t with state := .off, lanes := 0 }).done

/-- A port that has trained, on both halves or one (R364, R369): the link layer starts afresh with the peer's full buffers. -/
def Port.trained (t : Port) (peer : FabricId) (peerPort : PortIx) (both : Bool) (ns : W64) : Port :=
  Port.pump { t with
    peerId := peer, peerPort := BitVec.ofNat 4 peerPort.val, lanes := if both then 8 else 4, laserLow := false, stalled := false
    state := if both then .up else .degraded, corrected := if both then 0 else t.corrected, txSeq := 0, rxSeq := 0, unacked := []
    nakked := false, nakSent := false, credits := fullCredits, peerFreed := Vector.replicate 4 0, freed := Vector.replicate 4 0
    partRx := Vector.replicate 4 [], waitSince := Vector.replicate 4 none, lightSince := some ns, lastFlit := ns } ns

/-- PORT_TRAINED (R369, R385): training ends UP with all lanes good, DEGRADED with one half good, DOWN when the peer reports this
furrow's own identifier, or fails. -/
def execPortTrained (f : FurrowIx) (p : PortIx) (peer : FabricId) (peerPort : PortIx) (low high : Bool) (s : State) :
    Host.Outcome State Fault Refusal :=
  let c := s.furrow f
  let r := Run.start s
  (if c.pyr.ports[p].state ≠ .training then r
   else if !low && !high then r.countPort f p true
   else if (s.peerAt f p peer peerPort).1 = c.fabricId f then
     r.modFur f fun c => c.modPort p fun t => { t with state := .down, idClash := true }
   else r.modFur f fun c =>
     (c.modPort p fun t => t.trained (s.peerAt f p peer peerPort).1 (s.peerAt f p peer peerPort).2 (low && high) c.ns).modCounts fun x => { x with portFails := x.portFails.set p 0 }).done

/-- PORT_LOSS_OF_LIGHT (R361, R369): every lane is below the threshold, or the laser input is low. -/
def execPortLossOfLight (f : FurrowIx) (p : PortIx) (laser : Bool) (s : State) : Host.Outcome State Fault Refusal :=
  let r := Run.start s
  (if isNeighbour p then r
   else
     let r := r.modFur f fun c => c.modPort p fun t => { t with laserLow := t.laserLow || laser, lightSince := none }
     if (r.fur f).pyr.ports[p].live then r.portLeaves f p .dark laser else r).done

/-- PORT_DEGRADE (R369): lanes are dark or too often corrected. With one half good the port goes on at half rate; with none it goes
dark. -/
def execPortDegrade (f : FurrowIx) (p : PortIx) (low high : Bool) (s : State) : Host.Outcome State Fault Refusal :=
  let t := (s.furrow f).pyr.ports[p]
  let r := Run.start s
  (if !t.live || (low && high) then r
   else if !low && !high then r.portLeaves f p .dark true
   else if t.state = .up then
     (r.modFur f fun c => (c.modPort p fun t => { t with state := .degraded, lanes := 4 }).raise
       { errRec 0x20 0 PortState.degraded.code with part := BitVec.ofNat 8 p.val } []).countPort f p false
   else r).done

/-- PORT_FLIT_TIMEOUT (R369): no flit with a passing CHECK for 10 µs. -/
def execPortFlitTimeout (f : FurrowIx) (p : PortIx) (s : State) : Host.Outcome State Fault Refusal :=
  let c := s.furrow f
  (if c.pyr.ports[p].live && decide (10000 ≤ elapsed c.ns c.pyr.ports[p].lastFlit) then (Run.start s).portLeaves f p .dark true
   else Run.start s).done

/-- PORT_RETRAIN (R369): light has been steady for 100 ms on a DARK port with AUTO_UP. -/
def execPortRetrain (f : FurrowIx) (p : PortIx) (s : State) : Host.Outcome State Fault Refusal :=
  let t := (s.furrow f).pyr.ports[p]
  (if t.state = .dark && t.autoUp && s.mayTrain f p then
     (Run.start s).modFur f fun c => c.modPort p fun t => { t with state := .training }
   else Run.start s).done

/-- PORT_STALL (R368): a packet of a VC has had no credit for STALL_MS. -/
def execPortStall (f : FurrowIx) (p : PortIx) (vc : Fin 4) (s : State) : Host.Outcome State Fault Refusal :=
  ((Run.start s).modFur f fun c =>
    let t := c.pyr.ports[p]
    match t.waitSince[vc] with
    | none => c
    | some since =>
      if !t.stalled ∧ c.pyr.stallMs.toNat * 1000000 ≤ elapsed c.ns since then
        (c.modPort p fun t => { t with stalled := true }).raise { errRec 0x21 0 vc.val with part := BitVec.ofNat 8 p.val } []
      else c).done

/-! ### Flits (R362–R364) -/

/-- The flits a peer has acknowledged leave the replay buffer (R363). -/
def Port.acked (t : Port) (ack : W16) : Port :=
  match t.unacked.findIdx? fun x => x.seq = ack with
  | none => t
  | some i => { t with unacked := t.unacked.drop (i + 1) }

/-- A NAK: the flits from ACK + 1 on are replayed (R363). -/
def Port.replay (t : Port) (ack : W16) : Port :=
  let t := t.acked ack
  { t with replayed := sat t.replayed t.unacked.length }

/-- Units of a VC that packets of a class still hold at the peer. -/
def Port.used (t : Port) (v : Fin 4) (cls : Fin 2) : Nat :=
  vcUnits v.val - t.credits[2 * v.val + cls.val]'(by have := v.isLt; have := cls.isLt; omega)

/-- Units that a CREDITS field returns (R362). -/
def Port.returned (t : Port) (v : Fin 4) (n : W16) : Nat := min (n - t.peerFreed[v]).toNat (t.used v 0 + t.used v 1)

/-- Credits return to a VC; the flit does not say how they fall to its two classes, so `pick` chooses among the ways they can
(log 56). STALLED clears (Table 16-12). -/
def Port.credit (t : Port) (v : Fin 4) (n : W16) (pick : Nat) : Port :=
  let k := t.returned v n
  if k = 0 then { t with peerFreed := t.peerFreed.set v n }
  else
    let lo := k - min k (t.used v 1)
    let hi := min k (t.used v 0)
    let a := lo + pick % (hi - lo + 1)
    let cs := t.credits.set (2 * v.val) (t.credits[2 * v.val] + a)
    { t with
      peerFreed := t.peerFreed.set v n, stalled := false
      credits := cs.set (2 * v.val + 1) (cs[2 * v.val + 1] + (k - a)) }

/-- The whole packets at the front of the bytes received on a VC, and the bytes left; a KIND of 0 is fill (R362, log 21). -/
def takePackets : Nat → List Byte → List Packet × List Byte
  | 0, bs => ([], bs)
  | k + 1, bs =>
    let n := 32 + fieldAt bs 6 2
    if bs.getD 0 0 = 0 then ([], [])
    else if bs.length < 32 ∨ bs.length < n then ([], bs)
    else
      let x := takePackets k (bs.drop n)
      (parsePacket (bs.take n) :: x.1, x.2)

/-- A packet has come in by a port: it is delivered, or passes on with HOPS raised (R365, R367). -/
def Furrow.receive (c : Furrow) (f : FurrowIx) (p : Packet) : Furrow :=
  if p.dest = c.fabricId f then c.deliver p
  else if 63 ≤ p.hops.toNat then
    if p.kind = Kind.noRoute then c else c.route f (noRouteFor p (c.fabricId f) p.dest)
  else c.route f { p with hops := p.hops + 1 }

/-- A data flit in order (R363): its packets are taken, and the units they held are free again. -/
def Furrow.acceptFlit (c : Furrow) (f : FurrowIx) (p : PortIx) (v : Fin 4) (payload : List Byte) : Furrow :=
  let t := c.pyr.ports[p]
  let x := takePackets 256 (t.partRx[v] ++ payload)
  let units := sumOf (x.1.map packetUnits)
  let c := c.modPort p fun t =>
    { t with
      rxSeq := t.rxSeq + 1, nakked := false, nakSent := false, partRx := t.partRx.set v x.2
      freed := t.freed.set v (t.freed[v] + BitVec.ofNat 16 units) }
  x.1.foldl (fun (c : Furrow) q => c.receive f q) c

/-- A data flit that is not taken: a NAK goes out, and data flits are discarded until the expected one (R363). -/
def Port.refuse (t : Port) : Port := { t with nakked := true, nakSent := true }

/-- FLIT_RECEIVE (R362–R364, R367): 256 bytes come in by a live port. -/
def execFlitReceive (f : FurrowIx) (p : PortIx) (flit : List Byte) (s : State) : Host.Outcome State Fault Refusal :=
  let bs := bytesAt flit 0 256
  let ctl := (bs.getD 4 0).toNat
  let v : Fin 4 := Fin.ofNat 4 ctl
  let kind := bitsOf ctl 3 2
  let cvc : Fin 4 := Fin.ofNat 4 (bitsOf ctl 5 4)
  let ack := BitVec.ofNat 16 (fieldAt bs 2 2)
  let r := Run.start s
  (if !(s.furrow f).pyr.ports[p].live then r
   else if fieldAt bs 252 4 ≠ crc32c (bs.take 252) then
     if kind = 0 then r.modFur f fun c => c.modPort p fun t => { t.refuse with crcFail := sat t.crcFail 1 } else r
   else
     let (x, r) := r.free
     let r := r.modFur f fun c => c.modPort p fun t =>
       Port.pump (({ t with lastFlit := c.ns }.acked ack).credit cvc (BitVec.ofNat 16 (fieldAt bs 6 2)) x.toNat) c.ns
     match kind with
     | 2 => r.modFur f fun c => c.modPort p fun t => t.replay ack
     | 0 => r.modFur f fun c =>
         if BitVec.ofNat 16 (fieldAt bs 0 2) = c.pyr.ports[p].rxSeq then c.acceptFlit f p v (bytesAt bs 8 244)
         else c.modPort p Port.refuse
     | _ => r).done

/-- FLIT_NAK (R363): a NAK has come, and the flits after ACK are replayed. -/
def execFlitNak (f : FurrowIx) (p : PortIx) (ack : W16) (s : State) : Host.Outcome State Fault Refusal :=
  ((Run.start s).modFur f fun c =>
    if c.pyr.ports[p].live then c.modPort p fun t => Port.pump (t.replay ack) c.ns else c).done

/-! ### Link fences (R370) -/

/-- The packets that a list of flits carries, each once. -/
def carried : List SentFlit → List Packet
  | [] => []
  | [x] => x.carries
  | x :: y :: rest => (if x.carries = y.carries then [] else x.carries) ++ carried (y :: rest)

/-- The flits after a SEQ; all of them when it is not among them. -/
def afterSeq (xs : List SentFlit) (seq : W16) : List SentFlit :=
  match xs.findIdx? fun x => x.seq = seq with
  | none => xs
  | some i => xs.drop (i + 1)

/-- A port whose link has failed gives up what it holds for the link. -/
def Port.unfence (t : Port) : Port := { t with fence := none, queue := if t.live then t.queue else [] }

/-- The packets a port still has to send when its fence is over: those of its flits, and those that wait while it is not live. -/
def Port.heldPackets (t : Port) (flits : List SentFlit) : List Packet := carried flits ++ if t.live then [] else t.queue

/-- A packet addressed to this furrow, of a kind that it takes now: its Poryar block is ENABLED (R385). -/
def Furrow.takes (c : Furrow) (f : FurrowIx) (kind : Byte) (p : Packet) : Bool :=
  c.pyr.enabled && c.serves && p.kind = kind && p.dest = c.fabricId f

/-- Carry out the command of a packet: it leaves the queue of delivered packets, if flits brought it (log 58). -/
def onPacket (kind : Byte) (f : FurrowIx) (p : Packet) (s : State) (work : Run s → Run s) : Host.Outcome State Fault Refusal :=
  (if (s.furrow f).takes f kind p then
     work ((Run.start s).modFur f fun c => c.modPyr fun y => { y with inbox := y.inbox.erase p })
   else Run.start s).done

/-- LINK_FENCE (R370): the peer says what it accepted last, and every packet after it goes out again through the routing table. -/
def execLinkFence (f : FurrowIx) (p : Packet) (s : State) : Host.Outcome State Fault Refusal :=
  onPacket Kind.linkFence f p s fun r => r.modFur f fun c =>
    match (List.finRange 10).find? fun i => (match c.pyr.ports[i].fence with | some x => x.2.1 = p.src | none => false) &&
        c.pyr.ports[i].peerPort = p.addr.extractLsb' 16 4 with
    | none => c
    | some i =>
      let t := c.pyr.ports[i]
      let flits := match t.fence with | some x => afterSeq x.2.2 (p.addr.extractLsb' 0 16) | none => []
      (t.heldPackets flits).foldl (fun (c : Furrow) q => c.route f q) (c.modPort i Port.unfence)

/-- FENCE_TIMEOUT (R370): no fence has come within FENCE_US; what is held for the link is discarded, with a NO_ROUTE to each
packet's source. -/
def execFenceTimeout (f : FurrowIx) (p : PortIx) (s : State) : Host.Outcome State Fault Refusal :=
  ((Run.start s).modFur f fun c =>
    let t := c.pyr.ports[p]
    match t.fence with
    | none => c
    | some (since, peer, flits) =>
      if elapsed c.ns since < c.pyr.fenceUs.toNat * 1000 then c
      else
        let qs := t.heldPackets flits
        let c := (c.modPort p Port.unfence).raise { errRec 0x22 0 qs.length with part := BitVec.ofNat 8 p.val } []
        (qs.filter fun q => q.kind ≠ Kind.noRoute).foldl (fun (c : Furrow) q => c.route f (noRouteFor q (c.fabricId f) peer)) c).done

/-! ### Remote memory (R372) -/

/-- The context that a packet's access is for: bound to its SPAN, with the whole access in its HBM region. -/
def Furrow.reaches (c : Furrow) (p : Packet) (n : Nat) : Option Handle :=
  match c.boundTo p.span with
  | none => none
  | some h => if c.hbmInside h p.addr.toNat n then some h else none

/-- Answer NO_ROUTE with this furrow's own identifier (R372). -/
def Furrow.denies (c : Furrow) (f : FurrowIx) (p : Packet) : Furrow := c.route f (noRouteFor p (c.fabricId f) (c.fabricId f))

/-- A read response to a request, of one piece. -/
def Furrow.readResp (c : Furrow) (f : FurrowIx) (p : Packet) : Packet := c.packet f Kind.readResp p.src p.span p.tag

/-- READ_REQ (R365, R372): the bytes go back in packets of at most 1,024. Uncorrectable data answers with no payload and the error
record's SEQ (R423; log 57). -/
def execReadReq (f : FurrowIx) (p : Packet) (s : State) : Host.Outcome State Fault Refusal :=
  onPacket Kind.readReq f p s fun r =>
    let c := r.fur f
    let n := p.aux.toNat
    match if n < 64 ∨ 4096 < n ∨ n % 64 ≠ 0 then none else c.reaches p n with
    | none => r.modFur f fun c => c.denies f p
    | some h =>
      match c.meets f h 0 2 p.addr.toNat n with
      | some bad =>
        r.modFur f fun c =>
          let rec_ := match c.badIn bad with | some (b, a) => ueRecord b a h 0xFFFFFFFF 0 | none => errRec 0x04 2 0
          let x := { c.readResp f p with addr := BitVec.ofNat 64 (bit (!c.err.handling.isEmpty)), aux := c.err.seq.extractLsb' 0 32 }
          (c.raise rec_ []).route f x
      | none =>
        (inPieces 1024 (r.load f h 0 2 p.addr.toNat n)).foldl (fun r x =>
          r.modFur f fun c => c.route f { c.readResp f p with addr := p.addr + BitVec.ofNat 64 x.1, payload := x.2 }) r

/-- The open transaction that an answer names. -/
def Furrow.answered (c : Furrow) (kind : Byte) (p : Packet) : Option Outstanding :=
  c.pyr.txs.find? fun x => x.tag = p.tag && x.kind = kind && x.dest = p.src

/-- A transaction is over. -/
def Furrow.closeTx (c : Furrow) (tag : W32) : Furrow :=
  c.modPyr fun y => { y with txs := y.txs.filter fun x => x.tag ≠ tag, orphans := y.orphans.filter fun x => x.tag ≠ tag }

/-- A request's part fails while its descriptor runs: the part ends so, and every member that has not ended gets SPAN_CANCEL
(R23, R371, R424). -/
def Run.partFails (r : Run s₀) (f : FurrowIx) (h : Handle) (tag : Tag) (e : Ending) : Run s₀ :=
  match (r.fur f).request? h tag with
  | none => r
  | some q =>
    if q.phase = .running then ((r.ruin f q).modFur f fun c => c.modReq h tag fun q => { q with await := none }).engineEnds f h tag e
    else r

/-- DETAIL of a DATA_ERROR over remote HBM: memory 3, with the furrow that detected it and its record's SEQ (R424). -/
def remoteDetail (p : Packet) (opcode : Nat) : Nat :=
  3 + 128 + 256 * opcode + 2 ^ 16 * p.src.toNat + 2 ^ 32 * p.aux.toNat

/-- READ_RESP (R365): data of an open read arrives; when all of it has come it goes where the transfer wants it. -/
def execReadResp (f : FurrowIx) (p : Packet) (s : State) : Host.Outcome State Fault Refusal :=
  onPacket Kind.readResp f p s fun r =>
    match (r.fur f).answered Kind.readReq p with
    | none => r
    | some x =>
      let op := match (r.fur f).request? x.h x.req with | some q => (opcodeOf q.desc).toNat | none => 0
      if p.payload.isEmpty then
        (r.modFur f fun c => (c.closeTx x.tag).modReq x.h x.req fun q => { q with nested := q.nested || p.addr.getLsbD 0 }).partFails f x.h x.req
          (.bare Status.dataError (remoteDetail p op))
      else
        let at_ := p.addr.toNat - x.raddr
        let got := x.got ++ (bytesToCells p.payload).map fun b => (at_ + b.1, b.2)
        let left := x.left - p.payload.length
        if left ≠ 0 then r.modFur f fun c => c.modPyr fun y =>
          { y with txs := y.txs.map fun z => if z.tag = x.tag then { z with got := got, left := left } else z }
        else ((r.modFur f fun c => c.closeTx x.tag).arrive f x.h x.req x.dst x.len got).modFur f fun c => c.advance x.h x.req

/-- A write of another member lands in an extent that a running move measures here (R394). -/
def Request.landsIn (q : Request) (off n : Nat) : Bool :=
  q.measures.any fun m => !m.1 && decide (m.2.1 ≤ off) && decide (off + n ≤ m.2.1 + m.2.2)

/-- WRITE (R315, R372): the payload is written, and the acknowledgement says that it is visible. -/
def execWrite (f : FurrowIx) (p : Packet) (s : State) : Host.Outcome State Fault Refusal :=
  onPacket Kind.write f p s fun r =>
    let n := p.payload.length
    match (r.fur f).reaches p n with
    | none => r.modFur f fun c => c.denies f p
    | some h =>
      let off := p.addr.toNat
      (r.store f h 0 2 off p.payload).modFur f fun c =>
        let waits := (c.outstanding h).filter fun q => q.landsIn off n && decide (n ≤ q.owed)
        let c := waits.foldl (fun (c : Furrow) q => (c.modReq h q.tag fun q => { q with owed := q.owed - n }).advance h q.tag) c
        c.route f (c.packet f Kind.writeAck p.src p.span p.tag)

/-- WRITE_ACK (R315): a write is visible, and its request may be done. -/
def execWriteAck (f : FurrowIx) (p : Packet) (s : State) : Host.Outcome State Fault Refusal :=
  onPacket Kind.writeAck f p s fun r => r.modFur f fun c =>
    match c.answered Kind.write p with
    | none => c.closeTx p.tag
    | some x => (c.closeTx x.tag).advance x.h x.req

/-! ### Contributions (R376, R381; log 35) -/

/-- The member context, if any, whose child span has an identifier (R373). -/
def Furrow.parentOf (c : Furrow) (span : W32) : Option Handle :=
  (List.finRange 64).find? fun h => c.ctx[h].role = .member && (match c.bind? h with | some b => b.child = span && span != 0 | none => false)

/-- The request that a span's packet belongs to: one of the context bound to the span, or the part that a member has passed into its
child span (R376, log 58). -/
def Furrow.partOf (c : Furrow) (span : W32) (tag : Tag) : Option Request :=
  match (c.boundTo span).bind fun h => c.request? h tag with
  | some q => some q
  | none => (c.parentOf span).bind fun h => c.request? h tag

/-- COLL (R372, R381): a contribution is kept for the descriptor it belongs to, by its sender and its place. -/
def execColl (f : FurrowIx) (p : Packet) (s : State) : Host.Outcome State Fault Refusal :=
  onPacket Kind.coll f p s fun r => r.modFur f fun c =>
    match c.boundTo p.span with
    | none => c.denies f p
    | some h =>
      if p.tag = boxTag then
        let key := p.addr.toNat % 2 ^ 13
        c.intoBox ((c.parentOf p.span).getD h) p (decide (4112 ≤ key ∧ key < 4128))
      else match c.partOf p.span p.tag with
        | none => c
        | some q => c.modReq q.h q.tag fun q => { q with contrib := q.contrib ++ [p] }

/-- The bytes of everything that takes part, in flat order, go up to the root, and what it makes of them comes down again to be put in
place; nothing while something is still to come. -/
def Run.allToAll (r : Run s₀) (f : FurrowIx) (q : Request) (own : List Byte) (make : List (List Byte) → List Byte)
    (place : Run s₀ → List Byte → Run s₀) : Run s₀ × Bool :=
  let c := r.fur f
  let key := q.collKey
  if q.stage ≠ 0 then
    match q.origin.bind fun o => q.heard o.1 with
    | none => (r, false)
    | some bs => (place (r.modFur f fun c => c.sendDown f q key bs) bs, true)
  else match c.piecesBelow q with
    | none => (r, false)
    | some rest =>
      if q.origin.isSome then
        (r.modFur f fun c => (c.passUp f q own rest).modReq q.h q.tag fun q => { q with stage := 1 }, false)
      else
        let bs := make ((sortBy (fun (a b : Nat × List Byte) => decide (a.1 ≤ b.1)) ((0, own) :: rest)).map (·.2))
        (place (r.modFur f fun c => c.sendDown f q key bs) bs, true)

/-! ### The opcodes 0x90 and 0x91 (R379, R380, R382–R384) -/

/-- One round of R379: pairs are joined, and one left over goes on. -/
def joinPairs {α : Type} (op : α → α → α) : List α → List α
  | a :: b :: rest => op a b :: joinPairs op rest
  | xs => xs

/-- Rounds of R379 until one value is left. -/
def joinAll {α : Type} (op : α → α → α) : Nat → List α → List α
  | 0, xs => xs
  | k + 1, xs => if xs.length ≤ 1 then xs else joinAll op k (joinPairs op xs)

/-- The operation on INT32 codes: sum modulo 2³², max or min of signed values. -/
def opInt (op a b : Nat) : Nat :=
  if op = 0 then (a + b) % 2 ^ 32
  else if (decide (signed 32 a < signed 32 b)) = (op = 1) then b else a

/-- The operation on FP32 values. -/
def opFloat (op : Nat) (a b : FVal) : FVal := if op = 0 then add32 a b else if op = 1 then a.max b else a.min b

/-- The code of an element reduced over the members' codes (R379). -/
def reduceCodes (t : Fmt) (op : Nat) (codes : List Nat) : Nat :=
  if t = .int32 then (joinAll (opInt op) codes.length codes).headD 0
  else (t.convert false .nearest ((joinAll (opFloat op) codes.length (codes.map t.value)).headD .zero)).1

/-- Bytes of an element. -/
def elemSize (t : Fmt) : Nat := t.bits / 8

/-- The bytes of n reduced elements. -/
def reduceBytes (t : Fmt) (op n : Nat) (bufs : List (List Byte)) : List Byte :=
  (List.range n).flatMap fun i =>
    leBytes (elemSize t) (reduceCodes t op (bufs.map fun b => fieldAt b (elemSize t * i) (elemSize t)))

/-- A format that ALL_REDUCE takes (Table 16-8). -/
def Fmt.reducible (t : Fmt) : Bool := t = .fp32 || t = .fp16 || t = .bf16 || t = .int32

/-- BUF of an ALL_REDUCE. -/
def reduceBuf (d : List Byte) : Extent := ((tref d 16).tier, (tref d 16).off, df d 24 3 * elemSize (fmtOf (df d 28 1)))

/-- The checks of ALL_REDUCE on one member (R383). -/
def fetchAllReduce (c : Furrow) (h : Handle) (d : List Byte) : Option Refuse :=
  firstFail [reservedBytes d 27 27, reservedBytes d 30 63, c.refCheck h (tref d 16) (reduceBuf d).2.2 16 [1, 2],
    badIf (decide (df d 24 3 = 0)) 24, badIf (!fmtOk (df d 28 1) Fmt.reducible) 28, badIf (decide (2 < df d 29 1)) 29]

/-- F as every part of a request knows it: the root from its member table, a member from what was carried. -/
def Furrow.furrowsOf (c : Furrow) (q : Request) : Nat := if q.origin.isSome then fieldAt q.carried 0 4 else c.spanFurrows q.h

/-- What the root carries with the family's descriptors: F. -/
def Furrow.carryCount (c : Furrow) (q : Request) : List Byte := leBytes 4 (c.furrowsOf q)

/-- The checks of ALL_GATHER on one member of a span of n furrows (R383). -/
def fetchAllGather (c : Furrow) (h : Handle) (d : List Byte) (n : Nat) : Option Refuse :=
  let len := df d 32 4
  firstFail [reservedBytes d 36 63, c.refCheck h (tref d 16) len 16 [1, 2], c.refCheck h (tref d 24) (n * len) 24 [1, 2],
    badIf ((tref d 24).overlap (n * len) (tref d 16) len) 24,
    badIf (decide (len % 64 ≠ 0) || decide (len < 64) || decide (16777216 < len)) 32]

/-- One part of an ALL_REDUCE: it ends, or waits for others. -/
def Run.allReduce (r : Run s₀) (f : FurrowIx) (q : Request) (e : Eng) (d : List Byte) : Run s₀ × Option Ending :=
  let x := reduceBuf d
  match if q.stage = 0 then (r.fur f).firstBad e [x] else none with
  | some p => let y := r.spoil e p [x]; (y.1, some y.2)
  | none =>
    let y := r.allToAll f q (r.load f q.h e.core x.1 x.2.1 x.2.2) (reduceBytes (fmtOf (df d 28 1)) (df d 29 1) (df d 24 3)) fun r bs =>
      r.store f q.h e.core x.1 x.2.1 bs
    (y.1, if y.2 then some (Ending.ok (satCount ((r.fur f).furrowsOf q)) (df d 16 8)) else none)

/-- One part of an ALL_GATHER. -/
def Run.allGather (r : Run s₀) (f : FurrowIx) (q : Request) (e : Eng) (d : List Byte) : Run s₀ × Option Ending :=
  let src := tref d 16
  let dst := tref d 24
  let n := (r.fur f).furrowsOf q
  match if q.stage = 0 then (r.fur f).firstBad e [(src.tier, src.off, df d 32 4)] else none with
  | some p => let y := r.spoil e p [(dst.tier, dst.off, n * df d 32 4)]; (y.1, some y.2)
  | none =>
    let y := r.allToAll f q (r.load f q.h e.core src.tier src.off (df d 32 4)) (·.flatten) fun r bs =>
      r.store f q.h e.core dst.tier dst.off bs
    (y.1, if y.2 then some (Ending.ok (satCount n) (df d 24 8)) else none)

/-- Carry out one part of a collective: it ends when it has all it needs. -/
def Run.coll (r : Run s₀) (op : Byte) (f : FurrowIx) (h : Handle) (tag : Tag) (work : Request → Run s₀ → Run s₀ × Option Ending) : Run s₀ :=
  match (r.fur f).atWork h tag op with
  | none => r
  | some q =>
    match work q r with
    | (r, none) => r
    | (r, some e) => r.engineEnds f h tag e

/-- A part of an ALL_REDUCE goes on. -/
def Run.reduceDesc (r : Run s₀) (f : FurrowIx) (h : Handle) (tag : Tag) : Run s₀ :=
  r.coll 0x90 f h tag fun q r => r.allReduce f q (q.eng f) q.desc

/-- A part of an ALL_GATHER goes on. -/
def Run.gatherDesc (r : Run s₀) (f : FurrowIx) (h : Handle) (tag : Tag) : Run s₀ :=
  r.coll 0x91 f h tag fun q r => r.allGather f q (q.eng f) q.desc

/-- ALL_REDUCE (R379). -/
def execAllReduce (f : FurrowIx) (h : Handle) (tag : Tag) (s : State) : Host.Outcome State Fault Refusal :=
  ((Run.start s).reduceDesc f h tag).done

/-- ALL_GATHER (R380). -/
def execAllGather (f : FurrowIx) (h : Handle) (tag : Tag) (s : State) : Host.Outcome State Fault Refusal :=
  ((Run.start s).gatherDesc f h tag).done

/-- ⌈log₂ n⌉. -/
def log2Up (n : Nat) : Nat := if n ≤ 1 then 0 else Nat.log2 (n - 1) + 1

/-- The estimate of ALL_REDUCE over n furrows (R384). -/
def costAllReduce (d : List Byte) (n : Nat) : Cost := .flat (1000 + ceilDiv (2 * (reduceBuf d).2.2) 200 + 600 * log2Up n)

/-- The estimate of ALL_GATHER over n furrows (R384). -/
def costAllGather (d : List Byte) (n : Nat) : Cost := .flat (1000 + ceilDiv (n * df d 32 4) 1600)

/-! ### The checks of SPAN_SET_MEMBER (R378, R383) -/

/-- A refusal with SPAN_INVALID. No descriptor byte offends where the other furrows do (Table 02-19; log 63). -/
def spanInvalid (off : Nat) : Refuse := ⟨Reason.spanInvalid, off, never⟩

/-- The checks of SPAN_SET_MEMBER on its own bytes (Table 16-8). -/
def fetchSpanSetMember (d : List Byte) : Option Refuse := reservedBytes d 20 63

/-- The member table of a context. -/
def Furrow.memberTable (c : Furrow) (h : Handle) : List MemberEntry := match c.bind? h with | some b => b.entries | none => []

/-- The checks of SPAN_SET_MEMBER when it starts (R383). -/
def startSpanSetMember (c : Furrow) (h : Handle) (d : List Byte) : Option Refuse :=
  firstFail [failIf (c.ctx[h].role != .root) (spanInvalid 0xFF), badIf (decide ((c.memberTable h).length ≤ df d 16 2)) 16]

end Sys2Proof.Machine
end

