-- ==== Sys2Proof/Machine/Rerank.lean ====
section
/-! DEFINITION. Re-rank and prompt packing (chapter 10): the passage store, CAND_FETCH, RR_FUSE and PACK. -/

namespace Sys2Proof.Machine

variable {s₀ : State}

/-! ### The passage store (R219) -/

/-- VS: bytes of a stored vector. -/
def SearchSlot.vecBytes (t : SearchSlot) : Nat := t.psDim.toNat * if t.psFmt = 1 ∨ t.psFmt = 2 then 2 else 1

/-- A directory entry's text: offset and length; none when the entry is unusable (R219). -/
def Furrow.textOf (c : Furrow) (h : Handle) (e : Nat) : Option (Nat × Nat) :=
  let n := bitsOf e 11 0
  let off := bitsOf e 63 20
  if n = 0 ∨ 4032 < n ∨ bitsOf e 19 12 ≠ 0 ∨ !c.grnInside h off n then none else some (off, n)

/-! ### Pair blocks (R224) -/

/-- A pair block. -/
structure PairBlock where
  bytes : List Byte
  tok   : Nat
  pad   : Nat
  seq   : Nat
  head  : Nat
  tail  : Nat

/-- The block that bytes spell. -/
def PairBlock.of (bs : List Byte) : PairBlock :=
  ⟨bs, fieldAt bs 0 4, fieldAt bs 4 4, fieldAt bs 8 2, fieldAt bs 10 2, fieldAt bs 12 2⟩

/-- Bytes of the block. -/
def PairBlock.size (p : PairBlock) : Nat := 16 + 4 * (p.head + p.tail)

/-- The head tokens, then the tail tokens. -/
def PairBlock.token (p : PairBlock) (i : Nat) : Nat := fieldAt p.bytes (16 + 4 * i) 4

/-- The block keeps R224. -/
def PairBlock.ok (p : PairBlock) : Bool :=
  decide (16 ≤ p.seq) && decide (p.seq ≤ 512) && decide (p.head + p.tail ≤ p.seq - 1) && decide (fieldAt p.bytes 14 2 = 0) &&
    decide (p.pad < 2 ^ 18) && (List.range (p.head + p.tail)).all fun i => decide (p.token i < 2 ^ 18)

/-- Room for passage tokens in a row. -/
def PairBlock.room (p : PairBlock) : Nat := p.seq - p.head - p.tail

/-- A row of SEQ tokens with a passage's first tokens in it. -/
def PairBlock.row (p : PairBlock) (toks : List Nat) : List Byte :=
  let xs := ((List.range p.head).map p.token) ++ toks ++ (List.range p.tail).map fun i => p.token (p.head + i)
  (xs ++ List.replicate (p.seq - xs.length) p.pad).flatMap fun t => leBytes 4 t

/-! ### CAND_FETCH (R222–R225) -/

/-- What the root carries: the furrows of the span, the candidates' entries, the pair block. -/
structure CandArgs where
  furrows : Nat
  n       : Nat
  entries : List Byte
  pair    : PairBlock

/-- The arguments as bytes. -/
def CandArgs.bytes (a : CandArgs) : List Byte := leBytes 4 a.furrows ++ leBytes 4 a.n ++ a.entries ++ a.pair.bytes

/-- The arguments that bytes spell. -/
def CandArgs.of (bs : List Byte) : CandArgs :=
  let n := fieldAt bs 4 4
  ⟨fieldAt bs 0 4, n, (bs.drop 8).take (16 * n), .of (bs.drop (8 + 16 * n))⟩

/-- Entry r of the candidates. -/
def CandArgs.entry (a : CandArgs) (r : Nat) : List Byte := bytesAt a.entries (16 * r) 16

/-- The slot here that holds a candidate's shard for a CAND_FETCH: one that serves, or that was serving when the descriptor started and has
turned DRAINING since (R155, R222, R235). Any identifier names a slot, 0xFFFF too (R145). -/
def Furrow.candSlot (c : Furrow) (q : Request) (shard : Nat) : Option SlotIx :=
  (List.finRange 8).find? fun t => c.srch[t].ownerIx = some q.h && c.srch[t].shardId.toNat = shard &&
    (c.srch[t].state = .serving || (c.srch[t].state = .draining && c.srch[t].users.contains (q.order, q.idx)))

/-- The slots here that the entries name, each once. -/
def Furrow.candSlots (c : Furrow) (q : Request) (a : CandArgs) : List SlotIx :=
  ((List.range a.n).filterMap fun i => c.candSlot q (fieldAt (a.entry i) 6 2)).eraseDups

/-- The DIM of the stores here that hold candidates: none where two differ, 0 for no store (R236). -/
def Furrow.candDim (c : Furrow) (q : Request) (a : CandArgs) : Option Nat :=
  match ((((c.candSlots q a).filter fun t => c.srch[t].psEn).map fun t => c.srch[t].psDim.toNat).eraseDups) with
  | [] => some 0
  | [n] => some n
  | _ => none

/-- The arguments of a CAND_FETCH, on the root from its memory and on a member as carried. -/
def Run.candArgs (r : Run s₀) (e : Eng) (q : Request) : CandArgs :=
  if q.origin.isSome ∨ !q.carried.isEmpty then .of q.carried
  else
    let d := q.desc
    let x := tref d 16
    let p := tref d 32
    let n := min (r.loadNat e.f e.h e.core x.tier x.off 4) (df d 48 2)
    let head := r.load e.f e.h e.core p.tier p.off 16
    ⟨(r.fur e.f).spanFurrows e.h, n, r.load e.f e.h e.core x.tier (x.off + 64) (16 * n),
      .of (r.load e.f e.h e.core p.tier p.off (PairBlock.of head).size)⟩

/-- What the root carries with a CAND_FETCH (R235). -/
def carryCandFetch (r : Run s₀) (e : Eng) (q : Request) : List Byte := (r.candArgs e q).bytes

/-- The extents that the root's checks of a CAND_FETCH read. -/
def Run.candExtents (r : Run s₀) (e : Eng) (q : Request) : List Extent :=
  if q.origin.isSome then []
  else
    let x := tref q.desc 16
    let p := tref q.desc 32
    let a := r.candArgs e q
    [(x.tier, x.off, 64 + 16 * a.n), (p.tier, p.off, a.pair.size)]

/-- The checks at fetch of a CAND_FETCH. -/
def fetchCandFetch (c : Furrow) (h : Handle) (d : List Byte) : Option Refuse :=
  firstFail [reservedBytes d 52 63, c.refCheck h (tref d 16) 64 16 [0, 1, 2], c.refCheck h (tref d 24) 8192 24 [2],
    c.refCheck h (tref d 32) 16 32 [0, 1, 2], c.refCheck h (tref d 40) 256 40 [0, 1, 2],
    badIf (decide (df d 48 2 = 0) || decide (16384 < df d 48 2)) 48]

/-- What the root's QVEC must be for a DIM: in the region or units, and clear of the records at OUT (R236). -/
def Furrow.qvecCheck (c : Furrow) (h : Handle) (d : List Byte) (furrows dim : Nat) : Option Refuse :=
  let v := tref d 40
  badIf (!c.inside h v.tier v.off (4 * dim) || (tref d 24).overlap (8192 * ceilDiv (df d 48 2) furrows) v (4 * dim)) 40

/-- The checks of a CAND_FETCH when it starts (R174, R236): operands that cannot be read end it later. On a span each member answers with
its DIM, and the root checks them together. -/
def startCandFetch (r : Run s₀) (e : Eng) (q : Request) : Option Refuse :=
  let c := r.fur e.f
  let d := q.desc
  let root := q.origin.isNone
  if (c.firstBad e (r.candExtents e q)).isSome then none
  else
    let a := r.candArgs e q
    let x := tref d 16
    let o := tref d 24
    let p := tref d 32
    let ob := 8192 * ceilDiv (df d 48 2) a.furrows
    firstFail [
      badIf (root && (!c.inside e.h x.tier x.off (64 + 16 * a.n) || r.loadNat e.f e.h e.core x.tier (x.off + 51) 1 != 0x80)) 16,
      badIf (!c.inside e.h 2 o.off ob || c.overSlots e.h 2 o.off ob ||
        (root && (o.overlap ob x (64 + 16 * a.n) || o.overlap ob p a.pair.size))) 24,
      badIf ((root && !c.inside e.h p.tier p.off a.pair.size) || !a.pair.ok || (c.tok? e.h a.pair.tok).isNone) 32,
      match c.candDim q a with
      | none => some (.operand 40)
      | some n => if root then c.qvecCheck e.h d a.furrows n else none]

/-- The DIM that a furrow's part of a CAND_FETCH answers its root with. -/
def Run.candDimHere (r : Run s₀) (e : Eng) (q : Request) : Nat := ((r.fur e.f).candDim q (r.candArgs e q)).getD 0

/-- The DIMs of all holders of a CAND_FETCH taken together: that DIM, or the refusal when two differ or QVEC does not fit it (R236). -/
def Run.candDims (r : Run s₀) (e : Eng) (q : Request) (members : List Nat) : Nat × Option Refuse :=
  match ((r.candDimHere e q :: members).filter (· ≠ 0)).eraseDups with
  | [] => (0, none)
  | [n] => (n, if q.origin.isSome then none else (r.fur e.f).qvecCheck e.h q.desc (r.candArgs e q).furrows n)
  | _ => (0, some (.operand 40))

/-- A CAND_FETCH begins: it counts as a search of the shards it names (R235). -/
def Run.armCands (r : Run s₀) (f : FurrowIx) (q : Request) : Run s₀ :=
  let ts := (r.fur f).candSlots q (r.candArgs (q.eng f) q)
  r.modFur f fun c => ts.foldl (fun (c : Furrow) t => c.useSlot t q) c
/-- What a furrow knows of a candidate: whether it serves the shard, has its vector, its text. -/
structure CandData where
  /-- 0 it does not serve the shard, 1 no store, 2 vector only, 3 vector and text. -/
  kind : Nat
  fmt  : Nat
  vec  : List Byte
  text : List Byte
  /-- The passage's token count and the tokens that fit. -/
  count : Nat
  toks : List Nat

/-- The data as bytes. -/
def CandData.bytes (x : CandData) : List Byte :=
  leBytes 1 x.kind ++ leBytes 1 x.fmt ++ leBytes 2 x.vec.length ++ leBytes 2 x.text.length ++ leBytes 2 x.toks.length ++ leBytes 4 x.count ++
    x.vec ++ x.text ++ x.toks.flatMap fun t => leBytes 4 t

/-- The data of n candidates that bytes spell. -/
def parseCands : Nat → List Byte → List CandData
  | 0, _ => []
  | k + 1, bs =>
    let v := fieldAt bs 2 2
    let t := fieldAt bs 4 2
    let n := fieldAt bs 6 2
    let rest := bs.drop 12
    ⟨fieldAt bs 0 1, fieldAt bs 1 1, rest.take v, (rest.drop v).take t, fieldAt bs 8 4,
      (List.range n).map fun i => fieldAt rest (v + t + 4 * i) 4⟩ :: parseCands k (rest.drop (v + t + 4 * n))

/-- A candidate whose shard no store here serves. -/
def CandData.none_ (kind : Nat) : CandData := ⟨kind, 0, [], [], 0, []⟩

/-- No member holds a candidate's shard. -/
def noHolder : Nat := 0xFFFFFFFF

/-- Read one candidate as its holder (R222): its data, or the ending when the Granary cannot give it. -/
def Run.candidate (r : Run s₀) (e : Eng) (q : Request) (a : CandArgs) (g : TokImage) (entry : List Byte) : Run s₀ × Except Ending CandData :=
  let c := r.fur e.f
  let node := fieldAt entry 12 4
  let fail := fun (r : Run s₀) (psa : Nat) =>
    let x := (r.fur e.f).nandFault e psa
    (r.setFur e.f x.1, (Except.error x.2 : Except Ending CandData))
  match c.candSlot q (fieldAt entry 6 2) with
  | none => (r, .ok (.none_ 0))
  | some i =>
    let t := c.srch[i]
    if !t.psEn || decide (t.nodeCap.toNat ≤ node) then (r, .ok (.none_ 1))
    else
      let v := r.grnFetch e.f e.h e.tag (baseOf t.psVec + node * t.vecBytes) t.vecBytes
      let w := v.1.grnFetch e.f e.h e.tag (baseOf t.psDir + 8 * node) 8
      match v.2.1, w.2.1 with
      | some psa, _ => fail w.1 psa
      | none, some psa => fail w.1 psa
      | none, none =>
        match c.textOf e.h (leNat w.2.2) with
        | none => (w.1, .ok ⟨2, t.psFmt.toNat, v.2.2, [], 0, []⟩)
        | some (off, n) =>
          let x := w.1.grnFetch e.f e.h e.tag off n
          match x.2.1 with
          | some psa => fail x.1 psa
          | none =>
            let ts := g.untrusted x.2.2
            (x.1, .ok ⟨3, t.psFmt.toNat, v.2.2, x.2.2, ts.length, ts.take a.pair.room⟩)

/-- Read every candidate of which this furrow is the holder; `who` names the holder of each by its flat number. -/
def Run.candidates (r : Run s₀) (e : Eng) (q : Request) (a : CandArgs) (who : List Nat) : Run s₀ × Except Ending (List CandData) :=
  match (r.fur e.f).tok? e.h a.pair.tok with
  | none => (r, .error (Refuse.operand 32).atStart.ending)
  | some b =>
    let g := r.image e.f b
    (List.range a.n).foldl (fun (acc : Run s₀ × Except Ending (List CandData)) i =>
      match acc with
      | (r, .error x) => (r, .error x)
      | (r, .ok xs) =>
        if who.getD i noHolder ≠ (r.fur e.f).flatNumber q then (r, .ok (xs ++ [.none_ 0]))
        else match r.candidate e q a g (a.entry i) with
          | (r, .error x) => (r, .error x)
          | (r, .ok x) => (r, .ok (xs ++ [x]))) (r, .ok [])

/-- A format of a store by its code. -/
def storeFmt (k : Nat) : Fmt := (Fmt.ofCode k).getD .fp32

/-- DOT (R225): the FP32 row against a stored vector. -/
def dotOf (q : List FVal) (fmt : Nat) (vec : List Byte) : Nat :=
  let t := storeFmt fmt
  let w := t.bits / 8
  (sumReduce (q.zipIdx.map fun x => mul32 x.1 (t.value (fieldAt vec (w * x.2) w)))).bits32

/-- The canonical NaN of FP32. -/
def nan32 : Nat := 0x7FC00000

/-- A candidate record (Table 10-4) from what its holder gave. FUSED, which the spec does not state before RR_FUSE, is free (log 51). -/
def candRecord (a : CandArgs) (rank : Nat) (x : CandData) (q : List FVal) (fused : List Byte) : List Byte :=
  let entry := a.entry rank
  let dot := if x.kind < 2 then nan32 else dotOf (q.take (x.vec.length * 8 / (storeFmt x.fmt).bits)) x.fmt x.vec
  bytesAt (bytesAt (entry.take 12 ++ leBytes 4 rank ++ leBytes 4 dot ++ leBytes 4 nan32 ++ bytesAt fused 0 4 ++ leBytes 2 x.text.length ++
      leBytes 2 x.toks.length ++ leBytes 1 (bit (decide (x.kind ≠ 3)) + 2 * bit (decide (a.pair.room < x.count)))) 0 64 ++
    bytesAt x.vec 0 2048 ++ bytesAt (a.pair.row x.toks) 0 2048 ++ x.text) 0 8192

/-- A padding record (R223). -/
def padRecord : List Byte := bytesAt (leBytes 5 0xFFFFFFFFFF ++ zeros 27 ++ [4]) 0 8192

/-- Which candidates this furrow serves the shard of: a byte each. -/
def Run.servedHere (r : Run s₀) (e : Eng) (q : Request) (a : CandArgs) : List Byte :=
  (List.range a.n).flatMap fun i => leBytes 1 (bit ((r.fur e.f).candSlot q (fieldAt (a.entry i) 6 2)).isSome)

/-- The holder of every candidate: the lowest-numbered member that serves its shard (R222). -/
def holdersOf (n : Nat) (served : List (Nat × List Byte)) : List Nat :=
  let ps := sortBy (fun (a b : Nat × List Byte) => decide (a.1 ≤ b.1)) served
  (List.range n).map fun i => ((ps.find? fun p => fieldAt p.2 i 1 = 1).map (·.1)).getD noHolder

/-- The data of every candidate, as its holder gave it. -/
def holders (who : List Nat) (pieces : List (Nat × List CandData)) : List CandData :=
  who.zipIdx.map fun w => ((pieces.find? fun p => p.1 = w.1).bind fun p => p.2[w.2]?).getD (.none_ 0)

/-- Send shares of a member's range down to the furrows below, each with the shares of all it stands for (R222; log 35). -/
def Furrow.sendShares (c : Furrow) (f : FurrowIx) (q : Request) (shares : List (Nat × List Byte)) : Furrow :=
  let b := c.below q.h
  let own := c.flatNumber q
  b.2.foldl (fun (c : Furrow) m =>
    let lo := own + m.first.toNat
    c.sendColl f q q.collKey m.id b.1 q.tag ((shares.filter fun p => decide (lo ≤ p.1 ∧ p.1 < lo + m.furrows.toNat)).flatMap fun p =>
      spanPiece p.1 p.2)) c

/-- Write a furrow's records at OUT. -/
def Run.putShare (r : Run s₀) (e : Eng) (q : Request) (bs : List Byte) : Run s₀ := r.store e.f e.h e.core 2 (tref q.desc 24).off bs

/-- The ending of a CAND_FETCH (Table 10-7). -/
def candEnding (d : List Byte) (n texts : Nat) : Ending :=
  let e := Ending.ok n (df d 24 8)
  if texts < df d 50 2 then { e with status := Status.doneShort, detail := BitVec.ofNat 64 (texts + 2 ^ 32 * (n - texts)) } else e

/-- The root has every furrow's data: it makes the records, writes its own and sends the others (R222). -/
def Run.candRoot (r : Run s₀) (e : Eng) (q : Request) (a : CandArgs) (who : List Nat) (own : List CandData) (rest : List (Nat × List Byte)) :
    Run s₀ × Ending :=
  let v := tref q.desc 40
  let xs := holders who ((0, own) :: rest.map fun p => (p.1, parseCands a.n p.2))
  let dim := (xs.map fun x => x.vec.length * 8 / (storeFmt x.fmt).bits).foldl max 0
  r.reading e [(v.tier, v.off, 4 * dim)] [(2, (tref q.desc 24).off, 8192 * ceilDiv (df q.desc 48 2) a.furrows)] fun r =>
    let qv := (List.range dim).map fun i => f32 (r.loadNat e.f e.h e.core v.tier (v.off + 4 * i) 4)
    let fused := r.freeBytes (4 * a.n)
    let rec_ := fun i => match xs[i]? with | some x => candRecord a i x qv (fused.1.drop (4 * i)) | none => padRecord
    let s := ceilDiv (df q.desc 48 2) a.furrows
    let share := fun m => (List.range s).flatMap fun j => rec_ (j * a.furrows + m)
    let r := (fused.2.putShare e q (share 0)).modFur e.f fun c =>
      c.sendShares e.f q ((List.range a.furrows).map fun m => (m, share m))
    (r, candEnding q.desc a.n (xs.filter fun x => x.kind = 3).length)

/-- The share of a furrow among those that a byte string holds. -/
def shareOf (bs : List Byte) (n : Nat) : List Byte := (((parsePieces bs.length bs).find? fun p => p.1 = n).map (·.2)).getD []

/-- The holders that a message from above or the root's own note gives, four bytes each. -/
def whoOf (n : Nat) (bs : List Byte) : List Nat := (List.range n).map fun i => fieldAt bs (4 * i) 4

/-- A CAND_FETCH goes to a stage, with nothing heard yet for it. -/
def Furrow.candStage (c : Furrow) (q : Request) (n : Nat) : Furrow := c.modReq q.h q.tag fun q => { q.clear q.collKey with stage := n }

/-- This furrow reads what it holds, and the data of all below is there: the root makes the records, a member passes them up. -/
def Run.candRead (r : Run s₀) (e : Eng) (q : Request) (who : List Nat) (rest : List (Nat × List Byte)) : Run s₀ :=
  let a := r.candArgs e q
  match r.candidates e q a who with
  | (r, .error x) => r.engineEnds e.f e.h e.tag x
  | (r, .ok own) =>
    if q.origin.isNone then
      let x := r.candRoot e q a who own rest
      x.1.engineEnds e.f e.h e.tag x.2
    else r.modFur e.f fun c => (c.passUp e.f q (own.flatMap CandData.bytes) rest).candStage q 3

/-- One stage of a CAND_FETCH (R222). 0: what each furrow serves goes up, and the root names the holders. 1: the holders come down. 2: what
they read goes up. 3: each member's records come down. -/
def Run.candStep (r : Run s₀) (f : FurrowIx) (h : Handle) (tag : Tag) : Run s₀ :=
  let c := r.fur f
  match c.atWork h tag 0x58 with
  | none => r
  | some q =>
    let e := q.eng f
    let above := q.origin.bind fun o => q.heard o.1
    match q.stage, c.piecesBelow q, above with
    | 0, some rest, _ =>
      match c.firstBad e (if q.origin.isSome then [] else r.candExtents e q) with
      | some p => let x := r.readFault e p; x.1.engineEnds f h tag x.2
      | none =>
        let a := r.candArgs e q
        let own := r.servedHere e q a
        if q.origin.isSome then r.modFur f fun c => (c.passUp f q own rest).candStage q 1
        else
          let who := (holdersOf a.n ((0, own) :: rest)).flatMap fun n => leBytes 4 n
          r.modFur f fun c => ((c.sendDown f q q.collKey who).candStage q 2).modReq h tag fun q => { q with carried := a.bytes ++ who }
    | 1, _, some who => r.modFur f fun c => (c.sendDown f q q.collKey who).modReq h tag fun q => { q with stage := 2 }
    | 2, some rest, some who => r.candRead e q (whoOf (r.candArgs e q).n who) rest
    | 2, some rest, none =>
      if q.origin.isSome then r
      else let n := (r.candArgs e q).n; r.candRead e q (whoOf n (q.carried.drop (q.carried.length - 4 * n))) rest
    | 3, _, some bs =>
      ((r.putShare e q (shareOf bs (c.flatNumber q))).modFur f fun c => c.sendShares f q (parsePieces bs.length bs)).engineEnds
        f h tag (Ending.ok 0 0)
    | _, _, _ => r

/-- CAND_FETCH (R222): as far as it can go with what has been heard. -/
def execCandFetch (f : FurrowIx) (h : Handle) (tag : Tag) (s : State) : Host.Outcome State Fault Refusal :=
  (((Run.start s).candStep f h tag).candStep f h tag).done

/-- The estimate of a CAND_FETCH (R238). -/
def costCandFetch (c : Furrow) (h : Handle) (d : List Byte) : Cost := .flat (ceilDiv (1200 * df d 48 2) (c.spanFurrows h))

/-- SLOT_DRAIN_DONE (R155, R235): the last search, update or CAND_FETCH on a DRAINING slot has ended. -/
def execSlotDrainDone (f : FurrowIx) (t : SlotIx) (s : State) : Host.Outcome State Fault Refusal :=
  let r := Run.start s
  let c := s.furrow f
  (if c.srch[t].state = .draining ∧ c.srch[t].views.isEmpty ∧ !c.slotUsed t then
     r.modFur f fun c => { c with srch := c.srch.set t { c.srch[t] with state := .idle, users := [] } }
   else r).done

/-! ### RR_FUSE (R226, R227) -/

/-- F for a part of a span's request: the root's own count, or the one it carried. -/
def Furrow.partFurrows (c : Furrow) (q : Request) : Nat := if q.origin.isSome then fieldAt q.carried 0 4 else c.spanFurrows q.h

/-- What the root carries with an RR_FUSE. -/
def carryRrFuse (c : Furrow) (h : Handle) : List Byte := leBytes 4 (c.spanFurrows h)

/-- The checks at fetch of an RR_FUSE. -/
def fetchRrFuse (c : Furrow) (h : Handle) (d : List Byte) : Option Refuse :=
  firstFail [reservedBytes d 46 47, reservedBytes d 56 63, c.refCheck h (tref d 16) 8192 16 [2], c.refCheck h (tref d 24) 80 24 [2],
    badIf (decide (df d 44 2 = 0) || decide (16384 < df d 44 2)) 44,
    if df d 48 8 = 0 then none else c.refCheck h (tref d 48) 4 48 [1, 2]]

/-- The checks of an RR_FUSE when it starts, on each furrow for its own part (R174, R236). -/
def startRrFuse (c : Furrow) (q : Request) : Option Refuse :=
  let d := q.desc
  let s := ceilDiv (df d 44 2) (max 1 (c.partFurrows q))
  let x := tref d 16
  let o := tref d 24
  let ce := tref d 48
  let cb := if df d 48 8 = 0 then 0 else 4 * s
  firstFail [badIf (!c.inside q.h 2 x.off (8192 * s) || c.overSlots q.h 2 x.off (8192 * s)) 16,
    badIf (!c.inside q.h 2 o.off (64 + 16 * s) || c.overSlots q.h 2 o.off (64 + 16 * s) || o.overlap (64 + 16 * s) x (8192 * s)) 24,
    badIf (decide (cb ≠ 0) && (!c.inside q.h ce.tier ce.off cb || ce.overlap cb x (8192 * s) || ce.overlap cb o (64 + 16 * s))) 48]

/-- FUSED of a record (R227). -/
def fusedOf (d rec_ : List Byte) (ce : FVal) : Nat :=
  if (rec_.getD 32 0).getLsbD 0 then nan32
  else
    let dist := rne32 (FVal.ofNat (fieldAt rec_ 8 4))
    (add32 (add32 (mul32 (f32 (df d 32 4)) dist) (mul32 (f32 (df d 36 4)) (f32 (fieldAt rec_ 16 4)))) (mul32 (f32 (df d 40 4)) ce)).bits32

/-- Do an RR_FUSE on this furrow: scores into CE, FUSED into the records, and the fused list at OUT (log 42). -/
def Run.rrFuse (r : Run s₀) (e : Eng) (q : Request) : Run s₀ × Ending :=
  let d := q.desc
  let s := ceilDiv (df d 44 2) (max 1 ((r.fur e.f).partFurrows q))
  let x := tref d 16
  let o := tref d 24
  let ce := tref d 48
  let some_ := decide (df d 48 8 ≠ 0)
  let at_ := fun j => x.off + 8192 * j
  let ins : List Extent := ((List.range s).map fun j => (2, at_ j, 64)) ++ if some_ then [(ce.tier, ce.off, 4 * s)] else []
  r.reading e ins [(2, o.off, 64 + 16 * s)] fun r =>
    let score := fun j => if some_ then f32 (r.loadNat e.f e.h e.core ce.tier (ce.off + 4 * j) 4) else FVal.zero
    let recs := (List.range s).map fun j => r.load e.f e.h e.core 2 (at_ j) 64
    let live := fun (rec_ : List Byte) => !(rec_.getD 32 0).getLsbD 2
    let fused := recs.zipIdx.map fun p => if live p.1 then fusedOf d p.1 (score p.2) else fieldAt p.1 24 4
    let bits := (List.range s).map fun j => if some_ then r.load e.f e.h e.core ce.tier (ce.off + 4 * j) 4 else []
    let r := r.each (List.range s) fun r j => r.store e.f e.h e.core 2 (at_ j + 20) (bits.getD j [])
    let r := r.each ((recs.zip fused).zipIdx) fun r p =>
      if live p.1.1 then r.store e.f e.h e.core 2 (at_ p.2 + 24) (leBytes 4 p.1.2) else r
    let n := (recs.filter live).length
    let head := bytesAt (leBytes 4 n ++ leBytes 4 s ++ zeros 40 ++ leBytes 2 0xFFFF) 0 64
    let list := (recs.zip fused).flatMap fun p => p.1.take 8 ++ leBytes 4 p.2 ++ bytesAt p.1 12 4
    (r.store e.f e.h e.core 2 o.off (head ++ list), Ending.ok n (df d 24 8))

/-- RR_FUSE (R226, R227). -/
def execRrFuse (f : FurrowIx) (h : Handle) (tag : Tag) (s : State) : Host.Outcome State Fault Refusal :=
  runDesc 0x59 f h tag s fun q r => r.rrFuse (q.eng f) q

/-- The estimate of an RR_FUSE (R238). -/
def costRrFuse (d : List Byte) : Cost := .flat (50 * df d 44 2)

/-! ### PACK (R229–R233) -/

/-- A template segment. -/
structure Segment where
  kind   : Nat
  flags  : Nat
  a      : List Nat
  b      : List Nat
  c      : List Nat

/-- The counts of a segment's arrays and where they begin. -/
def segShape (bs : List Byte) (i : Nat) : Nat × Nat × Nat × Nat :=
  let o := 64 + 16 * i
  (fieldAt bs (o + 4) 2, fieldAt bs (o + 6) 2, fieldAt bs (o + 8) 2, fieldAt bs (o + 12) 4)

/-- Segment i of a template. -/
def segmentAt (bs : List Byte) (i : Nat) : Segment :=
  let o := 64 + 16 * i
  let (na, nb, nc, off) := segShape bs i
  let arr := fun lo n => (List.range n).map fun k => fieldAt bs (off + 4 * (lo + k)) 4
  ⟨fieldAt bs o 1, fieldAt bs (o + 1) 1, arr 0 na, arr na nb, arr (na + nb) nc⟩

/-- The segments of a template. -/
def segmentsIn (bs : List Byte) : List Segment := (List.range (fieldAt bs 2 1)).map (segmentAt bs)

/-- A template keeps R229; `bs` holds its TOTAL bytes. -/
def templateOk (bs : List Byte) : Bool :=
  let n := fieldAt bs 2 1
  let total := bs.length
  let shape := fun i =>
    let o := 64 + 16 * i
    let (na, nb, nc, off) := segShape bs i
    let kind := fieldAt bs o 1
    (1 ≤ kind && kind ≤ 3) && decide (fieldAt bs (o + 1) 1 < 2) && fieldAt bs (o + 2) 2 == 0 && fieldAt bs (o + 10) 2 == 0 &&
      (kind != 1 || (nb == 0 && nc == 0)) && (kind != 2 || nc == 0) && decide (off + 4 * (na + nb + nc) ≤ total)
  fieldAt bs 0 2 == 1 && decide (1 ≤ n) && decide (n ≤ 16) && fieldAt bs 3 1 == 0 && (bytesAt bs 12 52).all (· == 0) &&
    decide (64 + 16 * n ≤ total) && (List.range n).all shape &&
    (segmentsIn bs).all (fun s => (s.a ++ s.b ++ s.c).all fun t => decide (t < 2 ^ 18)) &&
    ((segmentsIn bs).filter fun s => s.kind = 2).length == 1 && decide (((segmentsIn bs).filter fun s => s.kind = 3).length ≤ 1)

/-- The template of a PACK, TOTAL bytes of it. -/
def Run.template (r : Run s₀) (e : Eng) (d : List Byte) : List Byte :=
  let t := tref d 24
  r.load e.f e.h e.core t.tier t.off (max 64 (r.loadNat e.f e.h e.core t.tier (t.off + 8) 4))

/-- The ranks that a PACK may need, in fused order: those of the first MAX_P valid entries. -/
def Run.packRanks (r : Run s₀) (e : Eng) (d : List Byte) : List Nat :=
  let t := tref d 16
  (List.range (min (r.loadNat e.f e.h e.core t.tier t.off 4) (df d 61 1))).map fun i =>
    r.loadNat e.f e.h e.core t.tier (t.off + 64 + 16 * i + 12) 4

/-- What the root carries with a PACK: F and the ranks. -/
def carryPack (r : Run s₀) (e : Eng) (d : List Byte) : List Byte :=
  leBytes 4 ((r.fur e.f).spanFurrows e.h) ++ (r.packRanks e d).flatMap fun n => leBytes 4 n

/-- Bytes of OUT: the prompt and the citation table (R233). -/
def packOut (d : List Byte) : Nat := align64 (4 * df d 58 2) + 16 * df d 61 1

/-- The checks at fetch of a PACK. -/
def fetchPack (c : Furrow) (h : Handle) (d : List Byte) : Option Refuse :=
  let o := tref d 40
  let q := tref d 32
  firstFail [reservedBits d 62 7 1, reservedBytes d 63 63, c.refCheck h (tref d 16) 64 16 [0, 1, 2], c.refCheck h (tref d 24) 64 24 [0, 1, 2],
    c.refCheck h q (df d 56 2) 32 [0, 1, 2], c.refCheck h o (packOut d) 40 [1, 2], badIf (o.overlap (packOut d) q (df d 56 2)) 40,
    c.refCheck h (tref d 48) 8192 48 [2],
    badIf (decide (df d 56 2 = 0) || decide (16384 < df d 56 2)) 56, badIf (decide (df d 58 2 = 0)) 58,
    badIf (decide (df d 61 1 < df d 60 1)) 60, badIf (decide (df d 61 1 = 0)) 61]

/-- The extents that the checks of a PACK read at the root. -/
def Run.packExtents (r : Run s₀) (e : Eng) (d : List Byte) : List Extent :=
  let t := tref d 24
  let x := tref d 16
  [(x.tier, x.off, 64 + 16 * (r.packRanks e d).length), (t.tier, t.off, (r.template e d).length)]

/-- The ranks that a part of a PACK keeps records of: at the root from the fused list, on a member as carried. -/
def Run.ownRanks (r : Run s₀) (e : Eng) (q : Request) : List Nat :=
  let c := r.fur e.f
  let f := max 1 (c.partFurrows q)
  let ranks := if q.origin.isSome then (List.range ((q.carried.length - 4) / 4)).map fun i => fieldAt q.carried (4 + 4 * i) 4
    else r.packRanks e q.desc
  ranks.filter fun n => n % f = c.flatNumber q

/-- The extent of the records that a PACK may need of this furrow: from CAND to the last of them. -/
def Run.packRecords (r : Run s₀) (e : Eng) (q : Request) : Nat :=
  let f := max 1 ((r.fur e.f).partFurrows q)
  8192 * ((r.ownRanks e q).map fun n => n / f + 1).foldl max 0

/-- The checks of a PACK when it starts (R236): each furrow those of its records, the root those of what it holds too. -/
def startPack (r : Run s₀) (e : Eng) (q : Request) : Option Refuse :=
  let c := r.fur e.f
  let d := q.desc
  let x := tref d 16
  let t := tref d 24
  let o := tref d 40
  let k := tref d 48
  let qt := tref d 32
  let rb := r.packRecords e q
  let records := badIf (!c.inside e.h 2 k.off rb || c.overSlots e.h 2 k.off rb) 48
  if q.origin.isSome then records
  else if (c.firstBad e (r.packExtents e d)).isSome then none
  else
    let n := 64 + 16 * (r.packRanks e d).length
    let bs := r.template e d
    let valid := min (r.loadNat e.f e.h e.core x.tier x.off 4) 65536
    firstFail [badIf (!c.inside e.h x.tier x.off (64 + 16 * valid)) 16,
      badIf (!c.inside e.h t.tier t.off bs.length || !templateOk bs || (c.tok? e.h (fieldAt bs 4 4)).isNone) 24,
      badIf (o.overlap (packOut d) x n || o.overlap (packOut d) t bs.length || (o.tier = 2 && c.overSlots e.h 2 o.off (packOut d)) ||
        o.overlap (packOut d) k rb) 40,
      records, badIf (k.overlap rb x n || k.overlap rb t bs.length || k.overlap rb qt (df d 56 2)) 48]

/-- A terminator at the head of a text: its bytes; 0 for none (R232). -/
def termLen (bs : List Byte) : Nat :=
  match bs.getD 0 0, bs.getD 1 0, bs.getD 2 0 with
  | 0x2E, _, _ => 1
  | 0x21, _, _ => 1
  | 0x3F, _, _ => 1
  | 0xE3, 0x80, 0x82 => 3
  | 0xEF, 0xBC, 0x81 => 3
  | 0xEF, 0xBC, 0x9F => 3
  | _, _, _ => 0

/-- The closing marks at the head of a text (R232); the fuel is its length. -/
def closerLen : Nat → List Byte → Nat
  | 0, _ => 0
  | k + 1, bs =>
    match bs.getD 0 0, bs.getD 1 0, bs.getD 2 0 with
    | 0x22, _, _ => 1 + closerLen k (bs.drop 1)
    | 0x27, _, _ => 1 + closerLen k (bs.drop 1)
    | 0x29, _, _ => 1 + closerLen k (bs.drop 1)
    | 0xE2, 0x80, 0x9D => 3 + closerLen k (bs.drop 3)
    | _, _, _ => 0

/-- The lengths of the prefixes that end at a sentence boundary, ascending (R232). -/
def boundaries (bs : List Byte) : List Nat :=
  (List.range bs.length).filterMap fun i =>
    let x := bs.drop i
    let t := termLen x
    if t = 0 then none
    else
      let n := t + closerLen x.length (x.drop t)
      if [0x20, 0x0A, 0x09, 0x0D].contains (x.getD n 0) then some (i + n) else none

/-- A packed passage: its entry, its tokens, and whether it was cut. -/
structure Packed where
  entry : List Byte
  toks  : List Nat
  cut   : Bool

/-- Why the record of a rank cannot be had: uncorrectable data here, an address outside the region here, either on the member that keeps it,
or that member is lost. -/
inductive NoRecord
  | bad (p : Space × Nat × Nat)
  | outside
  | there
  | lost

/-- The packing as it stands; `halt` holds the rank of a needed record that could not be had, and why. -/
structure Packing where
  packed : List Packed
  room   : Nat
  stop   : Bool
  halt   : Option (NoRecord × Nat)

/-- The decimal digits of a number as characters. -/
def digitsOf (n : Nat) : List Byte := (Nat.toDigits 10 n).map fun c => BitVec.ofNat 8 c.toNat

/-- One entry of R231's loop. -/
def Packing.step (g : TokImage) (seg : Segment) (maxP : Nat) (sentence : Bool)
    (text : Nat → Except NoRecord (List Byte)) (x : Packing) (entry : List Byte) : Packing :=
  if x.stop || x.halt.isSome || decide (maxP ≤ x.packed.length) then { x with stop := true }
  else
    let n := x.packed.length + 1
    let lead := seg.a.length + (if seg.flags.testBit 0 then (g.untrusted (digitsOf n)).length else 0) + seg.b.length + seg.c.length
    match text (fieldAt entry 12 4) with
    | .error p => { x with halt := some (p, fieldAt entry 12 4) }
    | .ok bs =>
      let t := g.untrusted bs
      if lead + t.length ≤ x.room then
        { x with packed := x.packed ++ [⟨entry, t, false⟩], room := x.room - lead - t.length }
      else
        let cut := if sentence then
            ((boundaries bs).reverse.map fun n => g.untrusted (bs.take n)).find? fun u => decide (lead + u.length ≤ x.room)
          else none
        match cut with
        | some u => { x with packed := if u.isEmpty then x.packed else x.packed ++ [⟨entry, u, true⟩], stop := true }
        | none => { x with stop := true }

/-- The prompt's tokens, and for each packed passage the index of its first token (R231, R233). -/
def emit (g : TokImage) (segs : List Segment) (question : List Nat) (ps : List Packed) : List Nat × List Nat :=
  segs.foldl (fun (acc : List Nat × List Nat) s =>
    match s.kind with
    | 1 => (acc.1 ++ s.a, acc.2)
    | 2 => (acc.1 ++ s.a ++ question ++ s.b, acc.2)
    | _ => ps.zipIdx.foldl (fun (acc : List Nat × List Nat) p =>
        let lead := acc.1 ++ s.a ++ (if s.flags.testBit 0 then g.untrusted (digitsOf (p.2 + 1)) else []) ++ s.b
        (lead ++ p.1.toks ++ s.c, acc.2 ++ [lead.length])) acc) ([], [])

/-- The citation table (R233). -/
def citations (ps : List Packed) (starts : List Nat) : List Byte :=
  ps.zipIdx.flatMap fun p => p.1.entry.take 5 ++ leBytes 1 (bit p.1.cut) ++ leBytes 2 (p.2 + 1) ++ leBytes 4 (starts.getD p.2 0) ++
    leBytes 4 p.1.toks.length

/-- The text of a record on this furrow. -/
def Run.recordText (r : Run s₀) (e : Eng) (cand : TRef) (j : Nat) : Except NoRecord (List Byte) :=
  let at_ := cand.off + 8192 * j
  let c := r.fur e.f
  if !c.inside e.h 2 at_ 8192 then .error .outside
  else match c.firstBad e [(2, at_, 8192)] with
    | some p => .error (.bad p)
    | none => .ok (r.load e.f e.h e.core 2 (at_ + 4160) (min 4032 (r.loadNat e.f e.h e.core 2 (at_ + 28) 2)))

/-- What a member returns for the ranks it keeps: a byte that says whether the text could be had, and the text. -/
def Run.packPart (r : Run s₀) (e : Eng) (q : Request) : List Byte :=
  let f := max 1 ((r.fur e.f).partFurrows q)
  (r.ownRanks e q).flatMap fun n => spanPiece n (match r.recordText e (tref q.desc 48) (n / f) with
    | .ok t => leBytes 1 0 ++ t
    | .error _ => leBytes 1 1)

/-- The ending of a request that needed a furrow which is lost or cannot be reached (R371). -/
def Furrow.lostEnding (c : Furrow) (f : FurrowIx) (id : FabricId) : Ending :=
  .bare Status.furrowLost (lostDetail c id (id = c.fabricId f))

/-- A needed record could not be had (Tables 03-13, 10-7): uncorrectable data, an address outside the region, a member that is lost; what a
member met, that member reports. -/
def Run.recordFault (r : Run s₀) (e : Eng) (q : Request) (why : NoRecord) (rank : Nat) : Run s₀ × Ending :=
  let f := max 1 ((r.fur e.f).partFurrows q)
  match why with
  | .bad p => r.readFault e p
  | .outside => (r.violate e ((tref q.desc 48).off + 8192 * (rank / f)) 8192, .bare Status.contextFault 0)
  | .there => (r, Ending.ok 0 0)
  | .lost => (r, (r.fur e.f).lostEnding e.f ((((r.fur e.f).standsFor e.f e.h)[rank % f]?.map (·.1)).getD 0))

/-- PACK at the root (R231): the texts from below, and its own as the loop comes to them; a record that the loop does not come to is not
needed. The last part of the answer is the rank that a member is to report of. -/
def Run.packRoot (r : Run s₀) (e : Eng) (q : Request) (texts : List (Nat × List Byte)) : Run s₀ × Ending × Nat :=
  let d := q.desc
  let x := tref d 16
  let qt := tref d 32
  let o := tref d 40
  let f := (r.fur e.f).spanFurrows e.h
  match (r.fur e.f).firstBad e (r.packExtents e d ++ [(qt.tier, qt.off, df d 56 2)]) with
  | some p => let x := r.readFault e p; (x.1, x.2, noHolder)
  | none =>
    let bs := r.template e d
    match (r.fur e.f).tok? e.h (fieldAt bs 4 4) with
    | none => (r, (Refuse.operand 24).atStart.ending, noHolder)
    | some b =>
      let g := r.image e.f b
      let segs := segmentsIn bs
      let question := g.untrusted (r.load e.f e.h e.core qt.tier qt.off (df d 56 2))
      let fixed := sumOf ((segs.filter fun s => s.kind ≠ 3).map fun s => s.a.length + s.b.length) + question.length
      let budget := df d 58 2
      let short := fun (e : Ending) (n why : Nat) =>
        { e with status := Status.doneShort, detail := BitVec.ofNat 64 (n + 2 ^ 32 * why) }
      if budget < fixed then (r, short (Ending.ok 0 (df d 40 8)) 0 1, noHolder)
      else
        let text := fun n =>
          if n % f = 0 then r.recordText e (tref d 48) (n / f)
          else match texts.find? fun p => p.1 = n with
            | some p => if fieldAt p.2 0 1 = 0 then .ok (p.2.drop 1) else (.error .there : Except NoRecord (List Byte))
            | none => .error .lost
        let entries := (List.range (r.loadNat e.f e.h e.core x.tier x.off 4)).map fun i =>
          r.load e.f e.h e.core x.tier (x.off + 64 + 16 * i) 16
        let p := match segs.find? fun s => s.kind = 3 with
          | none => (⟨[], budget - fixed, true, none⟩ : Packing)
          | some s => (entries.take (df d 61 1)).foldl (Packing.step g s (df d 61 1) ((df d 62 1).testBit 0) text) ⟨[], budget - fixed, false, none⟩
        match p.halt with
        | some y => let x := r.recordFault e q y.1 y.2; (x.1, x.2, match y.1 with | .there => y.2 | _ => noHolder)
        | none =>
          let m := emit g segs question p.packed
          let r := r.store e.f e.h e.core o.tier o.off (m.1.flatMap fun t => leBytes 4 t)
          let r := r.store e.f e.h e.core o.tier (o.off + align64 (4 * budget)) (citations p.packed m.2)
          let ok := Ending.ok m.1.length (df d 40 8)
          (r, if p.packed.length < df d 60 1 then short ok p.packed.length 2 else ok, noHolder)

/-- A member hears what became of the texts it gave: it reports of the record that the root needs and could not have (R237), or is done. -/
def Run.packVerdict (r : Run s₀) (e : Eng) (q : Request) (rank : Nat) : Run s₀ × Ending :=
  let f := max 1 ((r.fur e.f).partFurrows q)
  if rank = noHolder ∨ rank % f ≠ (r.fur e.f).flatNumber q then (r, Ending.ok 0 0)
  else match r.recordText e (tref q.desc 48) (rank / f) with
    | .ok _ => (r, Ending.ok 0 0)
    | .error why => r.recordFault e q why rank

/-- PACK (R231): the members give the texts they keep, the root packs, and the members hear whether a record is missing. -/
def execPack (f : FurrowIx) (h : Handle) (tag : Tag) (s : State) : Host.Outcome State Fault Refusal :=
  let r := Run.start s
  let c := s.furrow f
  (match c.atWork h tag 0x5A with
   | none => r
   | some q =>
     let e := q.eng f
     match q.stage, c.piecesLeft q q.collKey, q.origin.bind fun o => q.heard o.1 with
     | 0, some rest, _ =>
       if q.origin.isNone then
         let x := r.packRoot e q (rest.flatMap fun (p : Nat × List Byte) => parsePieces p.2.length p.2)
         (x.1.modFur f fun c => c.sendDown f q q.collKey (leBytes 4 x.2.2)).engineEnds f h tag x.2.1
       else r.modFur f fun c => (c.passUp f q (r.packPart e q) rest).modReq h tag fun q => { q.clear q.collKey with stage := 1 }
     | 1, _, some bs =>
       let x := (r.modFur f fun c => c.sendDown f q q.collKey bs).packVerdict e q (fieldAt bs 0 4)
       x.1.engineEnds f h tag x.2
     | _, _, _ => r).done

/-- The estimate of a PACK (R238). -/
def costPack (d : List Byte) : Cost := .flat (40 * df d 58 2 + 2000 * df d 61 1)

end Sys2Proof.Machine
end

