-- ==== Sys2Proof/Machine/Plans.lean ====
section
/-! DEFINITION. Generator plans and KV caches (chapter 12): plan images and their checks (R263–R265), step programs (R264), cache
headers (R266, R267), GEN_PLAN_LOAD, GEN_PLAN_UNLOAD, GEN_CACHE_INIT, and the attention of GEN_ATTEND (R269). -/

namespace Sys2Proof.Machine

variable {s₀ : State}

/-! ### Plan images (R263, Table 12-1) -/

/-- The header of a plan image. -/
abbrev PlanImage := List Byte

namespace PlanImage

/-- D. -/
def draft (g : PlanImage) : Nat := fieldAt g 2 1
/-- LOGITS_FMT, as the code says. -/
def logitsCode (g : PlanImage) : Nat := fieldAt g 3 1
/-- LOGITS_FMT. -/
def logitsFmt (g : PlanImage) : Fmt := fmtOf g.logitsCode
/-- VOCAB. -/
def vocab (g : PlanImage) : Nat := fieldAt g 4 4
/-- TOK. -/
def tok (g : PlanImage) : Nat := fieldAt g 8 4
/-- EB. -/
def eb (g : PlanImage) : Nat := fieldAt g 12 4
/-- MAX_CTX. -/
def maxCtx (g : PlanImage) : Nat := fieldAt g 16 4
/-- MAX_ROWS. -/
def maxRows (g : PlanImage) : Nat := fieldAt g 20 2
/-- CHUNK. -/
def chunk (g : PlanImage) : Nat := fieldAt g 22 2
/-- MIX. -/
def mix (g : PlanImage) : Nat := fieldAt g 24 2
/-- STEP_N. -/
def stepN (g : PlanImage) : Nat := fieldAt g 26 2
/-- STEP_OFF. -/
def stepOff (g : PlanImage) : Nat := fieldAt g 28 4
/-- Where slot n lies (Table 12-1). -/
def slotAt (g : PlanImage) (n : Nat) : Nat := fieldAt g (32 + 8 * n) 8
/-- SCRATCH_LEN. -/
def scratchLen (g : PlanImage) : Nat := fieldAt g 72 4
/-- STEP_NS. -/
def stepNs (g : PlanImage) : Nat := fieldAt g 76 4
/-- TOTAL. -/
def total (g : PlanImage) : Nat := fieldAt g 80 4
/-- LOGIT_ROWS. -/
def logitRows (g : PlanImage) : Nat := fieldAt g 84 2

/-- Bytes of slot n. -/
def slotLen (g : PlanImage) (n : Nat) : Nat :=
  match n with
  | 0 => 4 * g.maxRows
  | 1 => 32 * g.maxRows
  | 2 => g.logitRows * (g.vocab * g.logitsFmt.bits / 8)
  | 3 => 32 * g.logitRows
  | _ => g.scratchLen

end PlanImage

/-- A loaded plan of a context. -/
def Furrow.plan? (c : Furrow) (h : Handle) (n : Nat) : Option PlanBind := c.plans.find? fun b => b.h = h && b.n.toNat = n

/-- The header of a plan image at an offset of a context's region. -/
def Run.planAt (r : Run s₀) (f : FurrowIx) (h : Handle) (off : Nat) : PlanImage := r.load f h 0 2 off 128

/-- The header of a loaded plan. -/
def Run.planOf (r : Run s₀) (f : FurrowIx) (h : Handle) (n : Nat) : Option (Nat × PlanImage) :=
  ((r.fur f).plan? h n).map fun b => (b.off, r.planAt f h b.off)

/-- The header meets Table 12-1, apart from its slots, TOK and the program. -/
def PlanImage.headerOk (g : PlanImage) : Bool :=
  decide (fieldAt g 0 2 = 1) && decide (g.draft ≤ 7) && decide (g.logitsCode ≤ 2) && decide (64 ≤ g.eb) && decide (g.eb ≤ 1048576) &&
    decide (1 ≤ g.maxCtx) && decide (g.maxCtx ≤ 1048576) && decide (1 ≤ g.maxRows) && decide (g.maxRows ≤ 4096) && decide (1 ≤ g.chunk) &&
    decide (g.chunk ≤ g.maxRows) && decide (g.mix ≤ g.maxRows) && decide (1 ≤ g.stepN) && decide (g.stepN ≤ 4096) &&
    decide (g.stepOff % 64 = 0) && decide (g.stepOff + 64 * g.stepN ≤ g.total) &&
    (List.range 5).all (fun n => decide (g.slotAt n % 64 = 0)) && decide (1 ≤ g.logitRows) && decide (g.logitRows ≤ g.maxRows) &&
    (bytesAt g 86 42).all (· = 0)

/-- The slots lie in the context's region; LOGITS and DRAFTS are the root's (Table 12-1). -/
def Furrow.slotsInside (c : Furrow) (h : Handle) (root : Bool) (g : PlanImage) : Bool :=
  (List.range 5).all fun n => (decide (n = 2 ∨ n = 3) && !root) || c.hbmInside h (g.slotAt n) (g.slotLen n)

/-! ### The step program (R264) -/

/-- The descriptors of a plan's program, as the image holds them. -/
def Run.programAt (r : Run s₀) (f : FurrowIx) (h : Handle) (off : Nat) (g : PlanImage) : List (List Byte) :=
  (List.range g.stepN).map fun i => r.load f h 0 2 (off + g.stepOff + 64 * i) 64

/-- Where an opcode's descriptor holds tensor references. -/
def trefOffsets (op : Nat) : List Nat :=
  match op with
  | 0x11 | 0x12 | 0x90 => [16]
  | 0x70 | 0x71 | 0x91 => [16, 24]
  | 0x20 | 0x21 | 0x22 | 0x23 | 0x24 | 0x25 | 0x26 | 0x27 | 0x40 | 0x41 | 0x68 => [16, 24, 32]
  | _ => []

/-- Where an opcode's descriptor holds a 24-bit M or ROWS field. -/
def rowsOffset (op : Nat) : Option Nat :=
  if 0x20 ≤ op ∧ op ≤ 0x27 then some 40 else if op = 0x68 then some 56 else none

/-- Bytes put over a descriptor's bytes from an offset. -/
def overwrite (d : List Byte) (off : Nat) (bs : List Byte) : List Byte := d.take off ++ bs ++ d.drop (off + bs.length)

/-- A reference with TIER 3 names a slot and a byte offset within it (R264). -/
def resolveRef (g : PlanImage) (d : List Byte) (off : Nat) : List Byte :=
  let w := df d off 8
  if bitsOf w 63 62 = 3 ∧ w % 2 ^ 16 < 5 ∧ bitsOf w 47 16 < g.slotLen (w % 2 ^ 16) then
    overwrite d off (leBytes 8 (2 ^ 63 + bitsOf w 61 48 * 2 ^ 48 + (g.slotAt (w % 2 ^ 16) + bitsOf w 47 16) % 2 ^ 48))
  else d

/-- A row field with a special value takes R or S (R264). -/
def resolveRows (rows sampled : Nat) (d : List Byte) (off : Nat) : List Byte :=
  if df d off 3 = 0xFFFFFF then overwrite d off (leBytes 3 rows)
  else if df d off 3 = 0xFFFFFE then overwrite d off (leBytes 3 sampled) else d

/-- A descriptor of the program as a step with R rows and S sampled ones runs it. -/
def resolve (g : PlanImage) (rows sampled : Nat) (d : List Byte) : List Byte :=
  let op := (opcodeOf d).toNat
  let d := (trefOffsets op).foldl (resolveRef g) d
  match rowsOffset op with
  | some off => resolveRows rows sampled d off
  | none => d

/-! ### GEN_ATTEND (R269, Table 12-3) -/

/-- The fields of a GEN_ATTEND. -/
structure AttDesc where
  q : TRef
  kv : TRef
  out : TRef
  layer : Nat
  hq : Nat
  hkv : Nat
  hd : Nat
  qf : Fmt
  kf : Fmt
  scale : FVal
  rows : Nat

/-- The fields that a descriptor's bytes hold. -/
def AttDesc.of (d : List Byte) : AttDesc :=
  { q := tref d 16, kv := tref d 24, out := tref d 32, layer := df d 40 4, hq := df d 44 2, hkv := df d 46 2, hd := df d 48 2,
    qf := fmtOf (bitsOf (df d 50 1) 7 4), kf := fmtOf (bitsOf (df d 50 1) 3 0), scale := f32 (df d 52 4), rows := df d 56 3 }

/-- Q, KV_NEW and OUT as tensors of n rows. -/
def AttDesc.tq (a : AttDesc) (n : Nat) : Tensor := ⟨a.q, a.qf, n, a.hq * a.hd, false⟩
def AttDesc.tkv (a : AttDesc) (n : Nat) : Tensor := ⟨a.kv, a.qf, n, 2 * a.hkv * a.hd, false⟩
def AttDesc.tout (a : AttDesc) (n : Nat) : Tensor := ⟨a.out, .fp32, n, a.hq * a.hd, false⟩

/-- Bytes of the layer's part of an entry. -/
def AttDesc.width (a : AttDesc) : Nat := 2 * a.hkv * a.hd * (a.kf.bits / 8)

/-- The checks of a GEN_ATTEND in a program (Table 12-3). -/
def fetchAttend (c : Furrow) (h : Handle) (d : List Byte) (eb : Nat) : Option Refuse :=
  let a := AttDesc.of d
  firstFail [reservedBytes d 51 51, reservedBytes d 59 63, badIf (decide (eb < a.layer + a.width)) 40,
    badIf (decide (a.hq = 0) || decide (256 < a.hq) || decide (a.hkv = 0) || decide (a.hq % a.hkv ≠ 0)) 44,
    badIf (decide (256 < a.hkv)) 46, badIf (decide (a.hd < 32) || decide (256 < a.hd) || decide (a.hd % 32 ≠ 0)) 48,
    badIf (!fmtOk (bitsOf (df d 50 1) 7 4) (fun t => t == .fp32 || t == .fp16 || t == .bf16) ||
      !fmtOk (bitsOf (df d 50 1) 3 0) fun t => t == .fp16 || t == .bf16 || t == .e5m2 || t == .e4m3) 50,
    c.refCheck h a.q (a.tq a.rows).bytes 16 [2], c.refCheck h a.kv (a.tkv a.rows).bytes 24 [2],
    c.refCheck h a.out (a.tout a.rows).bytes 32 [2],
    badIf (a.out.overlap (a.tout a.rows).bytes a.q (a.tq a.rows).bytes || a.out.overlap (a.tout a.rows).bytes a.kv (a.tkv a.rows).bytes) 32]

/-- Where the layer's part of an entry of a cache lies. -/
def AttDesc.entryAt (a : AttDesc) (cache eb p : Nat) : Nat := cache + 4096 + p * eb + a.layer

/-- The KV_FMT code of an element of a KV_NEW row (R104 with SAT 1). -/
def Run.newCode (r : Run s₀) (e : Eng) (a : AttDesc) (n i j : Nat) : Nat :=
  (a.kf.convert true .nearest (a.qf.value (r.code e (a.tkv n) i j))).1

/-- The keys a row meets, each as its elements: keys first, then values (R269). -/
def Run.keysOf (r : Run s₀) (e : Eng) (a : AttDesc) (eb : Nat) (rows : List StepRow) (x : StepRow) : List (Nat → FVal) :=
  let w := a.kf.bits / 8
  let old := (List.range x.base).map fun p => fun j => a.kf.value (r.loadNat e.f e.h e.core 2 (a.entryAt x.cache eb p + j * w) w)
  let new := sortBy (fun (u v : StepRow × Nat) => decide (u.1.pos ≤ v.1.pos)) (rows.zipIdx.filter fun u => u.1.req = x.req && decide (u.1.pos ≤ x.pos))
  old ++ new.map fun u => fun j => a.kf.value (r.newCode e a rows.length u.2 j)

/-- The attention of one row: OUT's elements in order. -/
def Run.attendRow (r : Run s₀) (e : Eng) (a : AttDesc) (eb : Nat) (rows : List StepRow) (i : Nat) (x : StepRow) : List FVal :=
  let keys := r.keysOf e a eb rows x
  (List.range a.hq).flatMap fun hh =>
    let g := hh / (a.hq / max 1 a.hkv)
    let q := (List.range a.hd).map fun d => a.qf.value (r.code e (a.tq rows.length) i (hh * a.hd + d))
    let s := keys.map fun k => sumReduce (q.zipIdx.map fun u => mul32 u.1 (k (g * a.hd + u.2)))
    let y := softmaxRow (s.map fun v => mul32 v a.scale)
    (List.range a.hd).map fun d => sumReduce (List.zipWith (fun p k => mul32 p (k ((a.hkv + g) * a.hd + d))) y keys)

/-- Do a GEN_ATTEND over the rows of a step: every row is read before any entry is written. -/
def Run.attend (r : Run s₀) (e : Eng) (d : List Byte) (eb : Nat) (all : List StepRow) : Run s₀ × Ending :=
  let a := AttDesc.of d
  let rows := all.take a.rows
  let n := rows.length
  let entries := rows.flatMap fun x => (List.range x.base).map fun p => ((2, a.entryAt x.cache eb p, a.width) : Extent)
  r.reading e ((a.tq n).extents 1 ++ (a.tkv n).extents 1 ++ entries.eraseDups) ((a.tout n).extents 1) fun r =>
    let out := rows.zipIdx.map fun x => (r.attendRow e a eb rows x.2 x.1).map FVal.bits32
    let kv := rows.zipIdx.map fun x => (a.entryAt x.1.cache eb x.1.pos, a.kf.pack ((List.range (2 * a.hkv * a.hd)).map (r.newCode e a n x.2)))
    let r := r.each out.zipIdx fun r x => r.putRow e (a.tout n) x.2 x.1
    (r.each kv fun r x => r.store e.f e.h e.core 2 x.1 x.2, Ending.ok 0 0)

/-! ### The checks of a program's descriptors (R265) -/

/-- The checks at fetch of the opcodes that a step program may hold, for one member of a span of n furrows; own is its number. -/
def stepFetch (c : Furrow) (h : Handle) (d : List Byte) (own n eb : Nat) : Option Refuse :=
  let unknown : Option Refuse := some ⟨Reason.unknownOpcode, 0, never⟩
  match (opcodeOf d).toNat with
  | 0x10 => let m := Move.of d 16
            firstFail [moveReserved ((d.drop 16).take 41) false inMove, reservedBytes d 57 63, m.shape ((d.drop 16).take 41) inMove, c.moveParts h own m inMove]
  | 0x11 => fetchMoveList c h d
  | 0x12 => fetchTierAttach c h d
  | 0x13 | 0x14 | 0x15 => fetchTier (opcodeOf d).toNat d
  | 0x20 | 0x21 => fetchMatmul c h d
  | 0x22 | 0x23 | 0x24 | 0x25 | 0x26 | 0x27 => fetchVector c h d
  | 0x40 => fetchWnwSelect c h d
  | 0x41 => fetchWnwMerge c h d
  | 0x68 => fetchAttend c h d eb
  | 0x70 | 0x71 => fetchTblRows c h d
  | 0x72 => fetchTblSwitch d
  | 0x73 => fetchTblMigrate d
  | 0x90 => fetchAllReduce c h d
  | 0x91 => fetchAllGather c h d n
  | 0x92 => fetchSpanSetMember d
  | _ => unknown

/-- The checks at start of the same opcodes. -/
def stepStart (r : Run s₀) (f : FurrowIx) (q : Request) : Option Refuse :=
  let c := r.fur f
  match (opcodeOf q.desc).toNat with
  | 0x10 => startMove r f q
  | 0x11 => startMoveList r f q
  | 0x12 => startTierAttach r f q
  | 0x13 | 0x14 | 0x15 => startTier r f q
  | 0x40 => startWnwSelect c q.h
  | 0x41 => startWnwMerge c q.h q
  | 0x70 | 0x71 => startTblRows c q
  | 0x72 => startTblSwitch c q.h q.desc
  | 0x73 => startTblMigrate c q.h q.desc
  | 0x92 => if q.origin.isSome then none else startSpanSetMember c q.h q.desc
  | _ => none

/-- A program descriptor's header: no reserved flag, the loading context's handle, and one tag for the whole run (R53, R54). -/
def programHead (h : Handle) (root : Bool) (first d : List Byte) : Bool :=
  decide (bitsOf (df d 1 1) 7 3 = 0) && (!root || decide (df d 2 2 = h.val)) && decide (df d 4 4 = df first 4 4) && decide (df d 4 4 ≠ 0xFFFFFFFF)

/-- Every descriptor of a plan's program passes its checks, with each special row field at its largest (R265). -/
def Run.programOk (r : Run s₀) (f : FurrowIx) (q : Request) (off : Nat) (g : PlanImage) : Bool :=
  let c := r.fur f
  let ds := r.programAt f q.h off g
  ds.all fun d =>
    let x := resolve g g.maxRows g.logitRows d
    programHead q.h q.origin.isNone (ds.headD []) d && (stepFetch c q.h x (c.flatNumber q) (c.furrowsOf q) g.eb).isNone &&
      (stepStart r f { q with descs := [x], idx := 0 }).isNone

/-! ### GEN_PLAN_LOAD and GEN_PLAN_UNLOAD (R265, R285) -/

/-- HANDLE of the two opcodes. -/
def planHandle (d : List Byte) : Nat := df d 24 4

/-- The checks at fetch of a GEN_PLAN_LOAD. -/
def fetchGenPlanLoad (c : Furrow) (h : Handle) (d : List Byte) : Option Refuse :=
  firstFail [reservedBytes d 28 63, c.refCheck h (tref d 16) 128 16 [2], badIf (decide (planHandle d = 0) || decide (planHandle d = 0xFFFFFFFF)) 24]

/-- The extent of a plan image as far as its header can be followed. -/
def Run.planExtent (r : Run s₀) (f : FurrowIx) (h : Handle) (off : Nat) : Extent :=
  let n := (r.planAt f h off).total
  (2, off, if (r.fur f).inside h 2 off n then max 128 n else 128)

/-- The checks of the image (R265, R287). -/
def Run.planOk (r : Run s₀) (f : FurrowIx) (q : Request) (off : Nat) : Bool :=
  let c := r.fur f
  let g := r.planAt f q.h off
  g.headerOk && c.inside q.h 2 off g.total && c.slotsInside q.h q.origin.isNone g &&
    (match c.tok? q.h g.tok with | some b => decide ((r.image f b).vocab = g.vocab) | none => false) && r.programOk f q off g

/-- The checks of a GEN_PLAN_LOAD when it starts; an image that cannot be read ends the load later (R423). -/
def startGenPlanLoad (r : Run s₀) (f : FurrowIx) (q : Request) : Option Refuse :=
  let c := r.fur f
  let off := (tref q.desc 16).off
  let unread := (c.firstBad (q.eng f) [r.planExtent f q.h off]).isSome
  firstFail [badIf (!unread && !r.planOk f q off) 16,
    badIf ((c.plan? q.h (planHandle q.desc)).isSome || decide (64 ≤ c.plans.length)) 24, failIf (!c.sec.logRoom 1) logFull]

/-- Do a GEN_PLAN_LOAD: bind the image to its handle, and measure it (R265, R394). -/
def Run.planLoad (r : Run s₀) (e : Eng) (d : List Byte) : Run s₀ × Ending :=
  let off := (tref d 16).off
  r.reading e [r.planExtent e.f e.h off] [] fun r =>
    (r.modFur e.f fun c =>
      { c with plans := c.plans ++ [(⟨e.h, BitVec.ofNat 32 (planHandle d), off⟩ : PlanBind)] }.measure LogKind.plan e.h (planHandle d) e.tag false off
        (r.planAt e.f e.h off).total,
     Ending.ok 0 (planHandle d))

/-- GEN_PLAN_LOAD (R265). -/
def execGenPlanLoad (f : FurrowIx) (h : Handle) (tag : Tag) (s : State) : Host.Outcome State Fault Refusal :=
  runDesc 0x60 f h tag s fun q r => r.planLoad (q.eng f) q.desc

/-- The checks at fetch of a GEN_PLAN_UNLOAD. -/
def fetchGenPlanUnload (d : List Byte) : Option Refuse := firstFail [reservedBytes d 16 23, reservedBytes d 28 63]

/-- The checks of a GEN_PLAN_UNLOAD when it starts. -/
def startGenPlanUnload (c : Furrow) (h : Handle) (d : List Byte) : Option Refuse := badIf (c.plan? h (planHandle d)).isNone 24

/-- The plan a started GENERATE runs on. -/
def Request.planNow (q : Request) : Nat := match q.gen with | some g => g.plan.toNat | none => df q.desc 16 4

/-- A started request of the context uses a plan (R285). -/
def Furrow.planBusy (c : Furrow) (h : Handle) (n : Nat) : Bool :=
  c.reqs.any (fun q => q.h = h && q.phase = Phase.running && opcodeOf q.desc = 0x63 && q.planNow = n) ||
    c.steps.any fun w => w.h = h && w.plan.toNat = n

/-- One exchange of a request's parts with the root: each part's bytes go up under a key, and the root's answer comes down. The stage is
2k before, 2k + 1 while a member waits, 2k + 2 after (log 35). -/
def Run.roundTrip (r : Run s₀) (f : FurrowIx) (q : Request) (k : Nat) (own : List Byte) (make : List (List Byte) → List Byte) :
    Run s₀ × Option (List Byte) :=
  let stage := fun (r : Run s₀) (n : Nat) => r.modFur f fun c => c.modReq q.h q.tag fun q => { q with stage := n }
  if q.stage = 2 * k + 1 then
    match q.origin.bind fun o => gathered q.contrib k o.1 with
    | none => (r, none)
    | some bs => (stage (r.modFur f fun c => c.sendDown f q k bs) (2 * k + 2), some bs)
  else match (r.fur f).piecesUnder q k with
    | none => (r, none)
    | some rest =>
      if q.origin.isSome then (stage (r.modFur f fun c => c.passUnder f q k own rest) (2 * k + 1), none)
      else
        let bs := make ((sortBy (fun (a b : Nat × List Byte) => decide (a.1 ≤ b.1)) ((0, own) :: rest)).map (·.2))
        (stage (r.modFur f fun c => c.sendDown f q k bs) (2 * k + 2), some bs)

/-- GEN_PLAN_UNLOAD (R285): the handle is free once no started request uses it. On a span the root, which knows the plan that each GENERATE
is at, says when (R280). -/
def execGenPlanUnload (f : FurrowIx) (h : Handle) (tag : Tag) (s : State) : Host.Outcome State Fault Refusal :=
  let r := Run.start s
  (match (s.furrow f).atWork h tag 0x61 with
   | none => r
   | some q =>
     let n := planHandle q.desc
     if q.origin.isNone && (s.furrow f).planBusy h n then r
     else match r.roundTrip f q 0 [] fun _ => [] with
       | (r, none) => r
       | (r, some _) => (r.modFur f fun c =>
           { c with plans := c.plans.filter fun b => !(b.h = h && b.n.toNat = n) }.unmeasure LogKind.plan h n).engineEnds f h tag (Ending.ok 0 n)).done

/-! ### KV caches (R266, Table 12-2) -/

/-- The header of a cache object. -/
structure CacheHead where
  plan      : Nat
  cap       : Nat
  committed : Nat
  eb        : Nat
  pending   : Nat
  state     : Nat
  expiry    : Nat
  restarts  : Nat
  ttl       : Nat
  seq       : Nat
  ok        : Bool

/-- The header that 64 bytes hold; `ok` says that CHECK holds. -/
def CacheHead.of (bs : List Byte) : CacheHead :=
  { plan := fieldAt bs 0 4, cap := fieldAt bs 4 4, committed := fieldAt bs 8 4, eb := fieldAt bs 12 4, pending := fieldAt bs 16 4,
    state := fieldAt bs 20 1, expiry := fieldAt bs 24 8, restarts := fieldAt bs 32 4, ttl := fieldAt bs 36 4, seq := fieldAt bs 40 8,
    ok := fieldAt bs 60 4 = crc32c (bs.take 60) }

/-- The 64 bytes of a header, with its CHECK. -/
def CacheHead.bytes (x : CacheHead) : List Byte :=
  let b := leBytes 4 x.plan ++ leBytes 4 x.cap ++ leBytes 4 x.committed ++ leBytes 4 x.eb ++ leBytes 4 x.pending ++ leBytes 1 x.state ++
    zeros 3 ++ leBytes 8 x.expiry ++ leBytes 4 x.restarts ++ leBytes 4 x.ttl ++ leBytes 8 x.seq ++ zeros 12
  b ++ leBytes 4 (crc32c b)

/-- PENDING when there is none. -/
def noToken : Nat := 0xFFFFFFFF

/-- The header is LIVE. -/
def CacheHead.live (x : CacheHead) : Bool := x.ok && x.state = 1

/-- The header of a cache at an offset of a context's region. -/
def Run.cacheAt (r : Run s₀) (f : FurrowIx) (h : Handle) (off : Nat) : CacheHead := .of (r.load f h 0 2 off 64)

/-- Bytes of a cache object. -/
def cacheBytes (cap eb : Nat) : Nat := 4096 + cap * eb

/-- A cache's switch: one aligned write of its header (R266). -/
def Run.switchCache (r : Run s₀) (f : FurrowIx) (h : Handle) (off : Nat) (x : CacheHead) : Run s₀ :=
  r.store f h 0 2 off { x with seq := x.seq + 1 }.bytes

/-- A cache reference: TIER 2, 4 KiB-aligned, with its header in the region (R266). -/
def cacheRef (c : Furrow) (h : Handle) (d : List Byte) (at_ : Nat) : Option Refuse :=
  firstFail [badIf (decide ((tref d at_).off % 4096 ≠ 0)) at_, c.refCheck h (tref d at_) 4096 at_ [2]]

/-! ### PARAMS (R286) -/

namespace GenWork

/-- INV_TEMP. -/
def invTemp (g : GenWork) : FVal := f32 (fieldAt g.params 0 4)
/-- TOP_K. -/
def topK (g : GenWork) : Nat := fieldAt g.params 4 4
/-- TOP_P. -/
def topP (g : GenWork) : FVal := f32 (fieldAt g.params 8 4)
/-- SEED. -/
def seed (g : GenWork) : Nat := fieldAt g.params 12 4
/-- MAX_NEW. -/
def maxNew (g : GenWork) : Nat := fieldAt g.params 16 4
/-- A bit of OPTS. -/
def opt (g : GenWork) (i : Nat) : Bool := (fieldAt g.params 21 1).testBit i
/-- The STOP tokens. -/
def stops (g : GenWork) : List Nat := (List.range (fieldAt g.params 20 1)).map fun i => fieldAt g.params (24 + 4 * i) 4
/-- FB_CACHE. -/
def fbCache (g : GenWork) : Nat := (TRef.of (fieldAt g.params 40 8)).off
/-- GRAM. -/
def gram (g : GenWork) : TRef := .of (fieldAt g.params 48 8)

end GenWork

/-- FB_CACHE of a PARAMS block, with FB_EN. -/
def fallbackCache (p : List Byte) : Option TRef := if (fieldAt p 21 1).testBit 3 then some (.of (fieldAt p 40 8)) else none

/-- The PARAMS block that a GENERATE goes by. -/
def Run.paramsOf (r : Run s₀) (f : FurrowIx) (q : Request) : List Byte :=
  match q.gen with | some g => g.params | none => r.load f q.h 0 2 (tref q.desc 40).off 64

/-- The caches that a request works on: a GENERATE has its cache, and at the root its FB_CACHE too. -/
def Run.cachesOf (r : Run s₀) (f : FurrowIx) (q : Request) : List Nat :=
  match (opcodeOf q.desc).toNat with
  | 0x63 =>
    let own := match q.gen with | some g => g.cache | none => (tref q.desc 24).off
    own :: if q.origin.isSome then [] else ((fallbackCache (r.paramsOf f q)).map (·.off)).toList
  | 0x62 => (tref q.desc 16).off :: if (df q.desc 44 1).testBit 0 then [(tref q.desc 24).off] else []
  | 0x64 | 0x65 => [(tref q.desc 16).off]
  | _ => []

/-- A cache is used by a started request other than this one (R287). -/
def Run.cacheBusy (r : Run s₀) (f : FurrowIx) (q : Request) (off : Nat) : Bool :=
  (r.fur f).reqs.any fun x => x.h = q.h && x.tag ≠ q.tag && x.phase = Phase.running && (r.cachesOf f x).contains off

/-- A LIVE cache of a plan, whole in the region (R287). -/
def Run.liveCache (r : Run s₀) (f : FurrowIx) (h : Handle) (off plan eb : Nat) : Bool :=
  let x := r.cacheAt f h off
  x.live && decide (x.plan = plan) && decide (x.eb = eb) && (r.fur f).hbmInside h off (cacheBytes x.cap x.eb)

/-- The checks at fetch of a GEN_CACHE_INIT. -/
def fetchGenCacheInit (c : Furrow) (h : Handle) (d : List Byte) : Option Refuse :=
  firstFail [reservedBits d 44 7 1, reservedBytes d 45 63, cacheRef c h d 16, if (df d 44 1).testBit 0 then cacheRef c h d 24 else none,
    badIf (decide (df d 36 4 = 0)) 36]

/-- The checks of a GEN_CACHE_INIT when it starts (R287). A source header that cannot be read ends it later. -/
def startGenCacheInit (r : Run s₀) (f : FurrowIx) (q : Request) : Option Refuse :=
  let c := r.fur f
  let d := q.desc
  let off := (tref d 16).off
  let src := (tref d 24).off
  match r.planOf f q.h (df d 32 4) with
  | none => some (.operand 32)
  | some (_, g) =>
    let n := cacheBytes (df d 36 4) g.eb
    let x := r.cacheAt f q.h src
    let en := (df d 44 1).testBit 0 && (c.firstBad (q.eng f) [(2, src, 64)]).isNone
    firstFail [badIf (!c.hbmInside q.h off n || r.cacheBusy f q off) 16,
      badIf (en && (!r.liveCache f q.h src (df d 32 4) g.eb || r.cacheBusy f q src || overlaps off n src (cacheBytes x.cap x.eb))) 24,
      badIf (decide (g.maxCtx < df d 36 4)) 36, badIf (en && (decide (x.committed < df d 40 4) || decide (df d 36 4 < df d 40 4))) 40]

/-- Do a GEN_CACHE_INIT (Table 12-6): the entries first, then the header's switch. -/
def Run.cacheInit (r : Run s₀) (e : Eng) (d : List Byte) : Run s₀ × Ending :=
  let off := (tref d 16).off
  let src := (tref d 24).off
  let en := (df d 44 1).testBit 0
  let eb := match r.planOf e.f e.h (df d 32 4) with | some x => x.2.eb | none => 0
  let n := if en then df d 40 4 else 0
  r.reading e (if en then [(2, src, 64), (2, src + 4096, n * eb)] else []) [] fun r =>
    let old := r.cacheAt e.f e.h off
    let r := r.storeCells e.f e.h 0 2 (off + 4096) (n * eb) (r.loadCells e.f e.h 0 2 (src + 4096) (n * eb))
    (r.switchCache e.f e.h off
       { plan := df d 32 4, cap := df d 36 4, committed := n, eb := eb, pending := noToken, state := 1, expiry := 0, restarts := 0, ttl := 0,
         seq := if old.ok then old.seq else 0, ok := true },
     Ending.ok 0 (df d 16 8))

/-- GEN_CACHE_INIT (R285). -/
def execGenCacheInit (f : FurrowIx) (h : Handle) (tag : Tag) (s : State) : Host.Outcome State Fault Refusal :=
  runDesc 0x62 f h tag s fun q r => r.cacheInit (q.eng f) q.desc

/-! ### Estimates (R288) -/

/-- The estimate of a GEN_CACHE_INIT. -/
def costGenCacheInit (r : Run s₀) (f : FurrowIx) (h : Handle) (d : List Byte) : Cost :=
  if (df d 44 1).testBit 0 then
    match r.planOf f h (df d 32 4) with
    | none => .unknown
    | some (_, g) => .flat (1000 + ceilDiv (df d 40 4 * g.eb) 4920)
  else .flat 1000

end Sys2Proof.Machine
end

