-- ==== Sys2Proof/Machine/Steps.lean ====
section
/-! DEFINITION. Generation (chapter 12): GENERATE, the composition and running of a step (R270), sampling (R272, R273), verification and
commit (R274–R280), and the deadline monitor (R87). -/

namespace Sys2Proof.Machine

variable {s₀ : State}

/-! ### The checks of PARAMS (R286, R287) -/

/-- The PARAMS block is in range (R286, R287). -/
def paramsOk (p : List Byte) : Bool :=
  decide (1 ≤ fieldAt p 4 4) && decide (fieldAt p 4 4 ≤ 65536) && decide (0 < fieldAt p 8 4) && decide (fieldAt p 8 4 ≤ 0x3F800000) &&
    decide (fieldAt p 16 4 ≤ 1048576) && decide (fieldAt p 20 1 ≤ 4) && decide (fieldAt p 21 1 < 16) && decide (fieldAt p 22 2 = 0) &&
    decide (fieldAt p 56 8 = 0)

/-- A GRAM instance is in order, and its definition has the plan's VOCAB (R287). -/
def Run.gramFits (r : Run s₀) (e : Eng) (t : TRef) (vocab : Nat) : Bool :=
  let gt := r.instGram e t
  (decide (t.tier = 1) || decide (t.tier = 2)) && decide (t.off % 64 = 0) && (r.fur e.f).inside e.h t.tier t.off instBytes && r.gramOk e gt &&
    instOk (r.load e.f e.h e.core t.tier t.off instBytes) (r.gramDef e gt).nStates && decide ((r.gramDef e gt).vocab = vocab)

/-! ### GENERATE (R270, R285–R288) -/

/-- NP. -/
def promptLen (d : List Byte) : Nat := df d 20 4

/-- The checks at fetch of a GENERATE. -/
def fetchGenerate (c : Furrow) (h : Handle) (d : List Byte) : Option Refuse :=
  firstFail [reservedBytes d 56 63, badIf (decide (1048576 < promptLen d)) 20, cacheRef c h d 24,
    c.refCheck h (tref d 32) (4 * promptLen d) 32 [1, 2], c.refCheck h (tref d 40) 64 40 [2], badIf (decide (df d 48 8 % 64 ≠ 0)) 48]

/-- FB_CACHE under FB_EN is a cache reference, and no started request uses it (R287); whether it is LIVE the monitor looks at (R280). -/
def Run.fallbackOk (r : Run s₀) (f : FurrowIx) (q : Request) (p : List Byte) : Bool :=
  match fallbackCache p with
  | none => true
  | some t => decide (t.off % 4096 = 0) && ((r.fur f).refCheck q.h t 4096 40 [2]).isNone && !r.cacheBusy f q t.off && decide (t.off ≠ (tref q.desc 24).off)

/-- The text area that OUT leaves takes the longest text (R287): no field gives its size, and it goes as far as the host's addresses
(DEDUCED, log 88). -/
def Run.textFits (r : Run s₀) (f : FurrowIx) (q : Request) (g : PlanImage) (p : List Byte) : Bool :=
  let n := fieldAt p 16 4
  match if (fieldAt p 21 1).testBit 1 then (r.fur f).tok? q.h g.tok else none with
  | none => true
  | some b => decide (df q.desc 48 8 + align64 (64 + 4 * n) + 3 * ((r.image f b).maxLen * n + 3) ≤ 2 ^ 64)

/-- The checks of a GENERATE when it starts, on every member; what only the root has it checks alone (R287). -/
def startGenerate (r : Run s₀) (f : FurrowIx) (q : Request) : Option Refuse :=
  let c := r.fur f
  let d := q.desc
  let e := q.eng f
  let off := (tref d 24).off
  match r.planOf f q.h (df d 16 4) with
  | none => some (.operand 16)
  | some (_, g) =>
    if q.origin.isSome then firstFail [cacheRef c q.h d 24, badIf (!r.liveCache f q.h off (df d 16 4) g.eb || r.cacheBusy f q off) 24]
    else if (c.firstBad e [(2, off, 64), (2, (tref d 40).off, 64)]).isSome then none
    else
      let x := r.cacheAt f q.h off
      let p := r.load f q.h 0 2 (tref d 40).off 64
      firstFail [badIf (decide (x.cap < x.committed + promptLen d + 1) ||
          (decide (promptLen d = 0) && decide (x.pending = noToken) && decide (fieldAt p 16 4 ≠ 0))) 20,
        badIf (!r.liveCache f q.h off (df d 16 4) g.eb || r.cacheBusy f q off) 24,
        badIf (!paramsOk p || ((fieldAt p 21 1).testBit 0 && !r.gramFits e (.of (fieldAt p 48 8)) g.vocab) || !r.fallbackOk f q p) 40,
        badIf (!r.textFits f q g p) 48]

/-- The estimate of a GENERATE (R288). -/
def costGenerate (r : Run s₀) (f : FurrowIx) (h : Handle) (d : List Byte) : Cost :=
  match r.planOf f h (df d 16 4) with
  | none => .unknown
  | some (_, g) =>
    let n := ceilDiv (promptLen d) g.chunk
    let m := r.loadNat f h 0 2 ((tref d 40).off + 16) 4
    ⟨(n + ceilDiv m (g.draft + 1)) * g.stepNs, (n + 1) * g.stepNs, true⟩

/-- OUT. -/
def Request.out (q : Request) : Nat := df q.desc 48 8

/-- A GENERATE ends by its own commit: byte 8 of the stream header, then the ending on every member (R278, R279). -/
def Run.genEnds (r : Run s₀) (f : FurrowIx) (q : Request) (code : Nat) (e : Ending) : Run s₀ :=
  (r.toHost ((r.fur f).hostAt q.h (q.out + 8)) (leBytes 1 code)).endRounds f q e

/-- A GENERATE begins at the root: PARAMS and PROMPT are read, the pending token goes before the prompt, and the stream header is
cleared (R277, R285). With nothing to prefill and MAX_NEW = 0 it is over at once. -/
def Run.genBegin (r : Run s₀) (f : FurrowIx) (q : Request) : Run s₀ :=
  let d := q.desc
  let e := q.eng f
  let off := (tref d 24).off
  let t := tref d 32
  match (r.fur f).firstBad e [(2, (tref d 40).off, 64), (t.tier, t.off, 4 * promptLen d), (2, off, 64)] with
  | some p => let x := r.readFault e p; x.1.endRounds f q x.2
  | none =>
    let p := r.load f q.h 0 2 (tref d 40).off 64
    let prompt := r.tokensAt e t (promptLen d)
    let x := r.cacheAt f q.h off
    let pending := if x.pending ≠ noToken ∧ (prompt ≠ [] ∨ fieldAt p 16 4 = 0) then [x.pending] else []
    let g : GenWork :=
      { plan := BitVec.ofNat 32 (df d 16 4), cache := off, params := p, prompt := prompt, todo := pending ++ prompt, emitted := [], drafts := [],
        held := [], textLen := 0, switched := none, committing := false, cancel := false }
    let r := (r.toHost ((r.fur f).hostAt q.h q.out) (zeros 64)).modFur f fun c => c.modReq q.h q.tag fun q => { q with gen := some g }
    if g.maxNew = 0 ∧ g.todo = [] then r.genEnds f q 2 (Ending.ok 0 q.out) else r

/-- The tokenizer handle that a started descriptor uses: GENERATE with TEXT uses its plan's (R277). -/
def Run.tokOf (r : Run s₀) (f : FurrowIx) (q : Request) : Option Nat :=
  let d := q.desc
  let e := q.eng f
  match (opcodeOf d).toNat with
  | 0x52 | 0x53 => some (df d 48 4)
  | 0x58 => some (r.candArgs e q).pair.tok
  | 0x5A => if q.origin.isSome then none else some (r.loadNat e.f e.h e.core (tref d 24).tier ((tref d 24).off + 4) 4)
  | 0x63 =>
    if q.origin.isNone && (fieldAt (r.paramsOf f q) 21 1).testBit 1 then (r.planOf f q.h q.planNow).map fun g => g.2.tok else none
  | _ => none

/-- A started request of the context uses the handle (R258). -/
def Run.tokBusy (r : Run s₀) (f : FurrowIx) (h : Handle) (n : Nat) : Bool :=
  (r.fur f).reqs.any fun q => q.h = h && q.phase = Phase.running && r.tokOf f q = some n

/-- TXT_UNLOAD (R258): the handle is free once no started request uses it; until then the command finds nothing to do. -/
def execTxtUnload (f : FurrowIx) (h : Handle) (tag : Tag) (s : State) : Host.Outcome State Fault Refusal :=
  (match (s.furrow f).atWork h tag 0x51 with
   | none => Run.start s
   | some q =>
     let n := df q.desc 48 4
     if (Run.start s).tokBusy f h n then Run.start s
     else ((Run.start s).modFur f fun c =>
       { c with toks := c.toks.filter fun b => !(b.h = h && b.n.toNat = n) }.unmeasure LogKind.tokenizer h n).engineEnds f h tag
       (Ending.ok 0 n)).done

/-- GENERATE (R270): it begins; its steps carry it on, and on a member it ends with the root's. -/
def execGenerate (f : FurrowIx) (h : Handle) (tag : Tag) (s : State) : Host.Outcome State Fault Refusal :=
  (match (s.furrow f).atWork h tag 0x63 with
   | none => Run.start s
   | some q =>
     if q.origin.isSome then (Run.start s).serveRounds f q fun r _ => (r, .ok [])
     else if q.gen.isSome then Run.start s else (Run.start s).genBegin f q).done

/-! ### Composing a step (R270) -/

/-- The keys of a step's messages in a context's mailbox (log 52): its start, a furrow's report that everything from it down is over, the
commit, a furrow's report that it has switched, the step's end without a commit, and a failure. -/
def StepKey.start : Nat := 4096
def StepKey.report : Nat := 4097
def StepKey.commit : Nat := 4098
def StepKey.switched : Nat := 4099
def StepKey.quit : Nat := 4100
def StepKey.failed : Nat := 4101

/-- A step as it is composed: shares in order, with the rows of each, its sampled rows first. -/
structure Draft where
  parts : List (StepPart × List (Nat × Nat) × List (Nat × Nat))
  rows  : Nat
  samples : Nat

/-- The requests of a plan that a step can take, in fetch order. -/
def Furrow.stepReqs (c : Furrow) (h : Handle) (plan : Nat) : List (Request × GenWork) :=
  c.reqs.filterMap fun q =>
    match q.gen with
    | some g => if q.h = h ∧ q.phase = .running ∧ opcodeOf q.desc = 0x63 ∧ q.origin = none ∧ g.plan.toNat = plan then some (q, g) else none
    | none => none

/-- A request in decode joins a step with its drafts, if there is room for its rows; otherwise it waits (R270). It has drafts only after a
step that emitted tokens (log 52). -/
def Draft.decode (x : Draft) (img : PlanImage) (q : Request) (g : GenWork) (head : CacheHead) : Draft :=
  let d := min (min img.draft g.drafts.length) (min (head.cap - head.committed - 1) (g.maxNew - g.emitted.length - 1))
  if img.maxRows < x.rows + d + 1 ∨ img.logitRows < x.samples + d + 1 then x
  else
    let toks := head.pending :: g.drafts.take d
    ⟨x.parts ++ [(⟨q.tag, d + 1, x.samples, d + 1, g.drafts.take d, 0, head.committed⟩, toks.zipIdx.map fun t => (t.1, head.committed + t.2), [])],
     x.rows + d + 1, x.samples + d + 1⟩

/-- A request in prefill joins a step with its next tokens, as far as there is room; the last one is sampled (R270; log 52). -/
def Draft.prefill (x : Draft) (img : PlanImage) (limit : Nat) (q : Request) (g : GenWork) (head : CacheHead) : Draft :=
  let n := min (min g.todo.length (limit - x.rows)) (min (img.maxRows - x.rows) (head.cap - head.committed))
  let last := decide (n = g.todo.length) && decide (0 < g.maxNew)
  let full := last && decide (img.logitRows ≤ x.samples)
  let n := if full then n - 1 else n
  if n = 0 then x
  else
    let k := bit (last && !full)
    let rows := (g.todo.take n).zipIdx.map fun t => (t.1, head.committed + t.2)
    ⟨x.parts ++ [(⟨q.tag, n, x.samples, k, [], n, head.committed⟩, rows.drop (n - k), rows.take (n - k))], x.rows + n, x.samples + k⟩

/-- The step that the requests of a plan make (R270). -/
def Run.compose (r : Run s₀) (f : FurrowIx) (h : Handle) (plan : Nat) (img : PlanImage) : Draft :=
  let qs := (r.fur f).stepReqs h plan
  let x := (qs.filter fun q => q.2.todo.isEmpty).foldl (fun (x : Draft) q => x.decode img q.1 q.2 (r.cacheAt f h q.2.cache)) ⟨[], 0, 0⟩
  let limit := x.rows + if x.parts.isEmpty then img.chunk else img.mix
  (qs.filter fun q => !q.2.todo.isEmpty).foldl (fun (x : Draft) q => x.prefill img limit q.1 q.2 (r.cacheAt f h q.2.cache)) x

/-- The rows of a composed step in the order of TOKENS and ROWTAB: sampled rows first. -/
def Draft.table (x : Draft) (cacheOf : Tag → Nat) : List StepRow :=
  let row := fun (p : (StepPart × List (Nat × Nat) × List (Nat × Nat)) × Nat) (t : Nat × Nat) (s : Option Nat) =>
    (⟨cacheOf p.1.1.tag, t.2, p.1.1.len, t.1, p.2, s⟩ : StepRow)
  (x.parts.zipIdx.flatMap fun p => p.1.2.1.zipIdx.map fun t => row p t.1 (some (p.1.1.first + t.2))) ++
    x.parts.zipIdx.flatMap fun p => p.1.2.2.map fun t => row p t none

/-- A row table entry (Table 12-4). -/
def StepRow.bytes (x : StepRow) : List Byte :=
  leBytes 8 x.cache ++ leBytes 4 x.pos ++ leBytes 4 x.base ++ leBytes 4 x.token ++ leBytes 4 x.req ++ leBytes 4 (x.sample.getD 0xFFFFFFFF) ++ zeros 4

/-- The row that an entry holds. -/
def StepRow.of (b : List Byte) : StepRow :=
  ⟨fieldAt b 0 8, fieldAt b 8 4, fieldAt b 12 4, fieldAt b 16 4, fieldAt b 20 4, if fieldAt b 24 4 = 0xFFFFFFFF then none else some (fieldAt b 24 4)⟩

/-- What the root tells the members of a step: plan, rows, requests with their rows, the row table, the span's identifiers. -/
def stepMsg (plan : Nat) (rows : List StepRow) (parts : List StepPart) (ids : List Byte) : List Byte :=
  leBytes 4 plan ++ leBytes 4 rows.length ++ leBytes 4 parts.length ++ (parts.flatMap fun p => leBytes 4 p.tag.toNat ++ leBytes 4 p.rows) ++
    rows.flatMap StepRow.bytes ++ ids

/-! ### Running a step on one furrow -/

/-- The step of a context. -/
def Furrow.step? (c : Furrow) (h : Handle) : Option StepWork := c.steps.find? fun w => w.h = h

/-- Change the step of a context. -/
def Furrow.modStep (c : Furrow) (h : Handle) (g : StepWork → StepWork) : Furrow :=
  { c with steps := c.steps.map fun w => if w.h = h then g w else w }

/-- The engines that a step program uses on a furrow, each with a request's weight: its rows (R81, R271; log 55). -/
def Furrow.stepUses (c : Furrow) (h : Handle) (prog : List (List Byte)) (rows : Nat) : List EngUse :=
  let ks := (prog.flatMap fun d => opClasses (opcodeOf d).toNat).eraseDups
  let cores := (List.finRange 64).filter fun k => c.cores[k].now = some h
  (ks.filter coreClass).flatMap (fun k => cores.map fun n => ⟨k, n.val, rows⟩) ++ if ks.contains .move then [⟨.move, 0, rows⟩] else []

/-- A step begins on a furrow: TOKENS and ROWTAB are written, and the program waits for its first descriptor (R264, R270). -/
def Run.stepBegin (r : Run s₀) (f : FurrowIx) (h : Handle) (plan : Nat) (rows : List StepRow) (parts : List StepPart) (ids : List Byte) : Run s₀ :=
  let s := (rows.filter fun x => x.sample.isSome).length
  let w : StepWork :=
    { h := h, plan := BitVec.ofNat 32 plan, rows := rows, sampled := s, parts := parts, ended := none, told := false, failed := false, commits := none,
      quit := false }
  match r.planOf f h plan with
  | none => r.modFur f fun c => { c.openBox h with steps := c.steps ++ [{ w with ended := some (Refuse.operand 16).atStart.ending }] }
  | some (off, g) =>
    let e : Eng := ⟨f, h, boxTag, 0x63, 0⟩
    let heads := (rows.map fun x => ((2, x.cache, 64) : Extent)).eraseDups
    match (r.fur f).firstBad e (r.planExtent f h off :: heads) with
    | some p =>
      let y := r.readFault e p
      y.1.modFur f fun c => { c.openBox h with steps := c.steps ++ [{ w with ended := some y.2 }] }
    | none =>
      let prog := (r.programAt f h off g).map (resolve g rows.length s)
      let r := r.store f h 0 2 (g.slotAt 0) (rows.flatMap fun x => leBytes 4 x.token)
      let r := r.store f h 0 2 (g.slotAt 1) (rows.flatMap StepRow.bytes)
      r.modFur f fun c =>
        let c := parts.foldl (fun (c : Furrow) p => c.modReq h p.tag fun q => { q with uses := c.stepUses h prog p.rows }) c
        { c.modBox h fun q =>
            { q with
              descs := prog, idx := 0, phase := .queued, gone := true, carried := ids, pinned := [], place := none, needs := [], await := none
              stage := 0, asked := 0, owed := 0, measures := [], waitNs := none } with steps := c.steps ++ [w] }

/-- An engine of a core that a step program's descriptor needs runs an operation of a request that has no part in the step (R18). -/
def Furrow.coreTaken (c : Furrow) (q : Request) (k : CoreIx) : Bool :=
  let parts := match c.step? q.h with | some w => w.parts.map fun (p : StepPart) => p.tag | none => []
  c.reqs.any fun x => x.h = q.h && !parts.contains x.tag && x.uses.any fun e =>
    e.cls != .walk && coreClass e.cls && e.place = k.val && (opClasses (opcodeOf q.desc).toNat).contains e.cls

/-- The core that a step program's descriptor runs on now, of those that serve the context and whose engines are free: the pinned one, or
the lowest of its CLUSTER under SCOPE 0; the lowest of all otherwise (R18, R475; log 37). -/
def Furrow.coreFor (c : Furrow) (q : Request) : Option CoreIx :=
  let serving := (List.finRange 64).filter fun k => c.cores[k].now = some q.h && !c.coreTaken q k
  match scopeOf q.desc with
  | some (0, cl) =>
    match q.pinned.find? fun p => p.1.val = cl with
    | some p => serving.find? fun k => k.val = p.1.val * 8 + p.2.val
    | none => serving.find? fun k => k.val / 8 = cl
  | some (1, cl) => serving.find? fun k => k.val / 8 = cl
  | _ => serving.head?

/-- The cores pinned by a run once a descriptor has named or been given a core (R475). -/
def pinCore (pins : List (ClusterIx × Fin 8)) (k : CoreIx) : List (ClusterIx × Fin 8) :=
  let cl : ClusterIx := ⟨k.val / 8, by have := k.isLt; omega⟩
  if pins.any fun p => p.1 = cl then pins else pins ++ [(cl, ⟨k.val % 8, Nat.mod_lt _ (by decide)⟩)]

/-- The pins of a request after its present descriptor: the core of a SCOPE 0 descriptor, or those that its TIER 0 locations name. -/
def Run.pinsAfter (r : Run s₀) (f : FurrowIx) (q : Request) (k : Option CoreIx) : List (ClusterIx × Fin 8) :=
  match (opcodeOf q.desc).toNat with
  | 0x10 | 0x11 =>
    let own := (r.fur f).flatNumber q
    ((r.movesOf f q).flatMap fun m => ([m.src, m.dst].filter fun l => l.tier = 0 && l.member = own)).foldl (fun pins l =>
      if h : l.core < 64 then pinCore pins ⟨l.core, h⟩ else pins) q.pinned
  | _ => match scopeOf q.desc, k with
    | some (0, _), some k => pinCore q.pinned k
    | _, _ => q.pinned

/-- The next descriptor of a step program starts, if a core that it needs serves the context. SPAN_SET_MEMBER waits until no other request
of the span is outstanding (R378), and the GENERATE that the step is for is one. -/
def Run.progBegin (r : Run s₀) (f : FurrowIx) (q : Request) : Option (Run s₀) :=
  let c := r.fur f
  let op := (opcodeOf q.desc).toNat
  let core := c.coreFor q
  if ((opClasses op).any coreClass && core.isNone) || (decide (op = 0x72) && c.switchWaits q.h q.desc) ||
      decide (op = 0x92) then none
  else match stepStart r f q with
    | some x => some (r.engineEnds f q.h q.tag x.atStart.ending)
    | none =>
      let pins := r.pinsAfter f q core
      let r := r.modFur f fun c => c.modReq q.h q.tag fun q =>
        { q with
          phase := .running, place := if (opClasses op).any coreClass then core.map .core else none, pinned := pins, needs := [], await := none
          stage := 0, asked := 0, owed := 0, measures := [], waitNs := none }
      some (if op = 0x10 ∨ op = 0x11 then r.armMoves f q
        else if op = 0x70 ∨ op = 0x71 then r.modFur f fun c => c.takeVersion q else r)

/-- The descriptor that a step program is at goes on. -/
def Run.progOp (r : Run s₀) (f : FurrowIx) (h : Handle) (w : StepWork) (eb : Nat) (op : Nat) : Run s₀ :=
  match op with
  | 0x10 => r.moveDesc f h boxTag
  | 0x11 => r.moveListDesc f h boxTag
  | 0x12 => r.attachDesc f h boxTag
  | 0x13 => r.fetchDesc f h boxTag
  | 0x14 => r.writebackDesc f h boxTag
  | 0x15 => r.detachDesc f h boxTag
  | 0x20 | 0x21 => r.desc (BitVec.ofNat 8 op) f h boxTag fun q r => r.matmul (q.eng f) q.desc q.following
  | 0x22 | 0x23 | 0x24 | 0x25 | 0x26 | 0x27 => r.desc (BitVec.ofNat 8 op) f h boxTag fun q r => r.vector (q.eng f) q.desc
  | 0x40 => r.desc 0x40 f h boxTag fun q r => r.wnwSelect (q.eng f) q.desc
  | 0x41 => r.mergeDesc f h boxTag
  | 0x68 => r.desc 0x68 f h boxTag fun q r => r.attend (q.eng f) q.desc eb w.rows
  | 0x70 => r.gatherRows f h boxTag
  | 0x71 => r.scatterDesc f h boxTag
  | 0x72 => r.switchDesc f h boxTag
  | 0x73 => r.migrateDesc f h boxTag
  | 0x90 => r.reduceDesc f h boxTag
  | 0x91 => r.gatherDesc f h boxTag
  | _ => r

/-- A finished descriptor of a step program gives way to the next one. -/
def Furrow.progNext (c : Furrow) (h : Handle) : Furrow :=
  let c := c.modReq h boxTag fun q => { q.clear q.idx with idx := q.idx + 1, phase := .queued, place := none, needs := [] }
  { c with tbl := c.tbl.map fun t => t.releaseReq h boxTag }

/-- The step program of a context runs as far as it can: one linked run that posts no records (R264). -/
def Run.program (f : FurrowIx) (h : Handle) (eb : Nat) : Nat → Run s₀ → Run s₀
  | 0, r => r
  | k + 1, r =>
    let ends := fun (e : Ending) => r.modFur f fun c => c.modStep h fun w => { w with ended := some e }
    match (r.fur f).request? h boxTag, (r.fur f).step? h with
    | some q, some w =>
      if w.ended.isSome then r
      else if q.descs.length ≤ q.idx then ends (Ending.ok 0 0)
      else match q.phase with
        | .queued => match r.progBegin f q with
          | some r => Run.program f h eb k r
          | none => r
        | .running =>
          let r := r.progOp f h w eb (opcodeOf q.desc).toNat
          match (r.fur f).request? h boxTag with
          | some q => if q.phase = .running then r else Run.program f h eb k r
          | none => r
        | .engineDone e =>
          if e.status = Status.done ∨ e.status = Status.doneShort then Run.program f h eb k (r.modFur f fun c => c.progNext h)
          else ends e
        | _ => r
    | _, _ => r

/-- Run the program of a context's step. -/
def Run.runProgram (r : Run s₀) (f : FurrowIx) (h : Handle) : Run s₀ :=
  match (r.fur f).step? h, (r.fur f).request? h boxTag with
  | some w, some q =>
    match r.planOf f h w.plan.toNat with
    | some (_, g) => Run.program f h g.eb (3 * q.descs.length + 3) r
    | none => r
  | _, _ => r

/-- A step's program stops where it is. -/
def Furrow.stopProgram (c : Furrow) (h : Handle) (e : Ending) : Furrow :=
  ((c.modReq h boxTag fun q => { q with descs := [], phase := .queued, uses := [], await := none }).release h boxTag).modStep h fun w =>
    { w with ended := some (w.ended.getD e), failed := true }

/-- A step is over on this furrow: its requests' engines stop, and the mailbox keeps only what belongs to no step. -/
def Furrow.dropStep (c : Furrow) (h : Handle) : Furrow :=
  let tags := match c.step? h with | some w => w.parts.map fun (p : StepPart) => p.tag | none => []
  let c := tags.foldl (fun (c : Furrow) t => c.modReq h t fun q => { q with uses := [] }) c
  let c := c.modReq h boxTag fun q => { q with descs := [], idx := 0, phase := .queued, contrib := q.contrib.filter fun p => decide (4112 ≤ p.addr.toNat % 2 ^ 13) }
  { c with steps := c.steps.filter fun w => w.h ≠ h }

/-- An ending as a message. -/
def endingBytes (e : Ending) : List Byte := leBytes 1 e.status.toNat ++ leBytes 2 e.count.toNat ++ leBytes 8 e.result.toNat ++ leBytes 8 e.detail.toNat

/-- The ending that a message holds. -/
def endingOf (b : List Byte) : Ending :=
  ⟨BitVec.ofNat 8 (fieldAt b 0 1), BitVec.ofNat 16 (fieldAt b 1 2), BitVec.ofNat 64 (fieldAt b 3 8), BitVec.ofNat 64 (fieldAt b 11 8)⟩

/-- The step has failed here or below, or has no request left: the ending of its requests. -/
def Furrow.stepFailure (c : Furrow) (h : Handle) (w : StepWork) : Option Ending :=
  if w.parts.isEmpty then some (.bare Status.cancelled 0)
  else match w.ended.filter fun e => e.status ≠ Status.done with
    | some e => some e
    | none => ((c.below h).2.findSome? fun m => gathered (c.box h).contrib StepKey.failed m.id).map endingOf

/-- The engine time that members have reported for a request's parts. -/
def memberNs (reports : List (Nat × List Byte)) (tag : Tag) : Nat :=
  sumOf (reports.map fun x => sumOf ((List.range (x.2.length / 12)).map fun i =>
    if fieldAt x.2 (12 * i) 4 = tag.toNat then fieldAt x.2 (12 * i + 4) 8 else 0))

/-- A step goes on at the root: its program, then the members' reports. A failure ends every request of the step (Table 12-8). -/
def Run.stepRoot (r : Run s₀) (f : FurrowIx) (h : Handle) : Run s₀ :=
  let r := r.runProgram f h
  match (r.fur f).step? h with
  | none => r
  | some w =>
    let r := if w.failed then r else match (r.fur f).stepFailure h w with
      | none => r
      | some e =>
        let r := w.parts.foldl (fun (r : Run s₀) p => r.partFails f h p.tag e) r
        r.modFur f fun c => let c := c.stopProgram h e; c.sendDown f (c.box h) StepKey.quit [0]
    let c := r.fur f
    match c.step? h with
    | none => r
    | some w =>
      if w.ended.isSome && (w.told || (c.piecesLeft (c.box h) StepKey.report).isSome) then
        r.modFur f fun c => if w.failed then c.dropStep h else c.modStep h fun w => { w with told := true }
      else r

/-- A step goes on at a member: what the root says, the program, then the report upward. -/
def Run.stepMember (r : Run s₀) (f : FurrowIx) (h : Handle) : Run s₀ :=
  let c := r.fur f
  let q := c.box h
  let from_ := fun (key : Nat) => q.origin.bind fun o => gathered q.contrib key o.1
  let r := match c.step? h, from_ StepKey.start with
    | none, some bs =>
      let n := fieldAt bs 4 4
      let m := fieldAt bs 8 4
      let parts := (List.range m).map fun i => (⟨BitVec.ofNat 32 (fieldAt bs (12 + 8 * i) 4), fieldAt bs (16 + 8 * i) 4, 0, 0, [], 0, 0⟩ : StepPart)
      let rows := (List.range n).map fun i => StepRow.of (bytesAt bs (12 + 8 * m + 32 * i) 32)
      (r.modFur f fun c => (c.sendDown f q StepKey.start bs).modBox h fun q => q.clear StepKey.start).stepBegin f h (fieldAt bs 0 4) rows parts
        (bs.drop (12 + 8 * m + 32 * n))
    | some _, _ =>
      if (from_ StepKey.quit).isSome then r.modFur f fun c =>
        ((c.sendDown f q StepKey.quit [0]).stopProgram h (.bare Status.cancelled 0)).modBox h (fun q => q.clear StepKey.quit) |>.modStep h fun w => { w with quit := true }
      else r
    | _, _ => r
  let r := r.runProgram f h
  match (r.fur f).step? h with
  | none => r
  | some w =>
    let r := if w.failed then r else match (r.fur f).stepFailure h w with
      | none => r
      | some e => r.modFur f fun c =>
          let c := c.stopProgram h e
          match q.origin with
          | some (root, _) => c.sendColl f (c.box h) StepKey.failed root c.ctx[h].spanId boxTag (endingBytes e)
          | none => c
    let c := r.fur f
    match c.step? h with
    | none => r
    | some w =>
      let r := match if w.ended.isSome && !w.told then c.piecesLeft (c.box h) StepKey.report else none with
        | none => r
        | some rest =>
          let own := w.parts.flatMap fun (p : StepPart) => leBytes 4 p.tag.toNat ++ leBytes 8 (match c.request? h p.tag with | some x => x.engineNs.toNat | none => 0)
          r.modFur f fun c => (c.passUnder f (c.box h) StepKey.report own rest).modStep h fun w => { w with told := true }
      r.modFur f fun c => match c.step? h with
        | some w => if w.told && w.quit then c.dropStep h else c
        | none => c

/-- A step of a plan is composed at the root, and every member hears of it (R270). -/
def Run.stepCompose (r : Run s₀) (f : FurrowIx) (h : Handle) (plan : Nat) : Run s₀ :=
  match r.planOf f h plan with
  | none => r
  | some (_, img) =>
    let x := r.compose f h plan img
    if x.parts.isEmpty then r
    else
      let c := r.fur f
      let rows := x.table fun t => match (c.request? h t).bind (·.gen) with | some g => g.cache | none => 0
      let parts := x.parts.map (·.1)
      let ids := idBytes (c.standsFor f h)
      let r := r.modFur f fun c => let c := c.openBox h; c.sendDown f (c.box h) StepKey.start (stepMsg plan rows parts ids)
      r.stepBegin f h plan rows parts ids

/-- GEN_STEP_START (R270): the root composes a step of the plan, unless one is under way, and every furrow runs its step program as far as
it goes; a member does what the root's message says. -/
def execGenStepStart (f : FurrowIx) (h : Handle) (plan : W32) (s : State) : Host.Outcome State Fault Refusal :=
  let c := s.furrow f
  let r := Run.start s
  (if !c.serves then r
   else if c.ctx[h].role = .member then r.stepMember f h
   else match c.step? h with
     | some w => if w.plan = plan ∧ w.commits.isNone then r.stepRoot f h else r
     | none => (r.stepCompose f h plan.toNat).stepRoot f h).done

/-! ### Sampling (R272, R273) -/

/-- The draw of an output position (R273). -/
def drawOf (seed k : Nat) : FVal := .fin false (rndWord seed k >>> 8) (-24)

/-- The inputs of a row of V logits under a mask, without the NaN ones (R199, R272). -/
def unmasked (t : KeyFmt) (mask : Option Nat) (bits : List Nat) : List Input :=
  (bits.zipIdx.filter fun x => (match mask with | some m => m.testBit x.2 | none => true) && !(t.value x.1).isNan).map fun x => ⟨x.2, x.1, []⟩

/-- The sums of R272: after each selected entry, the sum of the exponentials so far. -/
def runningSums (top : FVal) (ys : List FVal) : List FVal :=
  (ys.foldl (fun (acc : FVal × List FVal) y => let c := add32 acc.1 (special .exp (sub32 y top)); (c, acc.2 ++ [c])) (.zero, [])).2

/-- sample() of R272 over the bits of a row's logits: the token, or none for no_candidate. Where the sums are no numbers, the rule
names no token, and a free one of those selected is taken (log 61). -/
def Run.sample (r : Run s₀) (g : GenWork) (fmt : Fmt) (bits : List Nat) (mask : Option Nat) (k : Nat) : Run s₀ × Option Nat :=
  if g.invTemp.isZero then
    let t : KeyFmt := match fmt with | .fp16 => .fp16 | .bf16 => .bf16 | _ => .fp32
    (r, (select t 1 true (unmasked t mask bits)).sel.head?.map (·.pos))
  else
    let ys := bits.map fun b => (mul32 (fmt.value b) g.invTemp).bits32
    let sel := (select .fp32 g.topK true (unmasked .fp32 mask ys)).sel
    match sel with
    | [] => (r, none)
    | x :: _ =>
      let top := f32 x.bits
      if top = .inf false then (r, some x.pos)
      else
        let cum := runningSums top (sel.map fun y => f32 y.bits)
        let t := mul32 g.topP (cum.getLastD .zero)
        match cum.findIdx? fun c => !(c.lt t) && !c.isNan && !t.isNan with
        | none => let y := r.free; (y.2, (sel[y.1.toNat % sel.length]?).map (·.pos))
        | some i =>
          let v := mul32 (drawOf g.seed k) (cum.getD i .zero)
          let j := match (cum.take (i + 1)).findIdx? fun c => v.lt c with | some j => j | none => i
          (r, (sel[j]?).map (·.pos))

/-- The bits of a row of the LOGITS slot. -/
def Run.logits (r : Run s₀) (e : Eng) (img : PlanImage) (row : Nat) : List Nat :=
  let t : Tensor := ⟨⟨2, 0, img.slotAt 2⟩, img.logitsFmt, img.logitRows, img.vocab, false⟩
  (List.range img.vocab).map fun j => r.code e t row j

/-! ### Verification and commit (R274, R276) -/

/-- The samples of a request's rows: none for a row that is not sampled. -/
def Run.samples (r : Run s₀) (e : Eng) (g : GenWork) (img : PlanImage) (p : StepPart) (masks : Option (List Nat)) : Run s₀ × List (Option Nat) :=
  (List.range p.samples).foldl (fun (acc : Run s₀ × List (Option Nat)) i =>
    match masks with
    | some ms => match ms[i]? with
      | none => (acc.1, acc.2 ++ [none])
      | some m => let y := acc.1.sample g img.logitsFmt (acc.1.logits e img (p.first + i)) (some m) (g.emitted.length + i); (y.1, acc.2 ++ [y.2])
    | none => let y := acc.1.sample g img.logitsFmt (acc.1.logits e img (p.first + i)) none (g.emitted.length + i); (y.1, acc.2 ++ [y.2])) (r, [])

/-- How many drafts are accepted (R274). -/
def accepted : List Nat → List (Option Nat) → Nat
  | d :: ds, some g :: some g' :: rest => if d = g then 1 + accepted ds (some g' :: rest) else 0
  | _, _ => 0

/-- A list up to and with its first element of a set: a stop token ends what is emitted (R275, R278; log 61). -/
def throughFirst (stop : List Nat) : List Nat → List Nat
  | [] => []
  | t :: ts => if stop.contains t then [t] else t :: throughFirst stop ts

/-- What the sampling and the commit of a request read. -/
def Run.commitExtents (r : Run s₀) (e : Eng) (g : GenWork) (img : PlanImage) (p : StepPart) : List Extent :=
  let row := img.vocab * img.logitsFmt.bits / 8
  let gt := r.instGram e g.gram
  ((List.range p.samples).map fun i => ((2, img.slotAt 2 + (p.first + i) * row, row) : Extent)) ++
    ((List.range p.samples).map fun i => ((2, img.slotAt 3 + (p.first + i) * 32, 32) : Extent)) ++
    (if g.opt 0 ∧ p.samples ≠ 0 then [(g.gram.tier, g.gram.off, instBytes), (gt.tier, gt.off, (r.gramDef e gt).total)] else []) ++
    (match if g.opt 1 && decide (p.samples ≠ 0) then (r.fur e.f).tok? e.h img.tok else none with
     | some b => [b.extent]
     | none => [])

/-- no_candidate ends a request GRAMMAR_DEAD_END with reason 4 (R272). -/
def noCandidate (state count position : Nat) : Ending :=
  { status := Status.grammarDeadEnd, count := BitVec.ofNat 16 (satCount count), result := 0,
    detail := BitVec.ofNat 64 (state % 2 ^ 24 + 2 ^ 24 * 4 + 2 ^ 32 * (position % 2 ^ 32)) }

/-- Sample, verify and advance the grammar of one request (R272–R274): what the commit will write. -/
def Run.verify (r : Run s₀) (e : Eng) (g : GenWork) (img : PlanImage) (p : StepPart) (pending : W32) : Run s₀ × StepCommit :=
  let base : StepCommit :=
    { tag := e.tag, cache := g.cache, committed := p.len + p.prefill, pending := if p.prefill = 0 then pending else BitVec.ofNat 32 noToken,
      toks := [], part := p, fail := none }
  if p.samples = 0 then (r, base)
  else
    let inst := r.load e.f e.h e.core g.gram.tier g.gram.off instBytes
    let def_ := r.gramDef e (r.instGram e g.gram)
    let pos := instPos inst
    let masks := if g.opt 0 then some ((pos :: (def_.steps pos p.drafts).1).map fun x => def_.mask x.state x.stk) else none
    let y := r.samples e g img p masks
    match y.2.head?.join with
    | none => (y.1, { base with fail := some (if g.opt 0 then noCandidate pos.state g.emitted.length (fieldAt inst 16 8) else noCandidate 0 g.emitted.length 0) })
    | some _ =>
      let a := accepted p.drafts y.2
      let new := throughFirst g.stops (p.drafts.take a ++ [((y.2[a]?).join).getD 0])
      let at_ := if p.prefill = 0 then p.len else p.len + p.prefill - 1
      if g.opt 0 then
        let z := y.1.advance e g.gram new
        let n := z.2.2.1
        match z.2.2.2 with
        | none => (z.1, { base with committed := at_ + new.length, pending := BitVec.ofNat 32 (new.getLastD 0), toks := new })
        | some x => (z.1,
            { base with
              committed := at_ + n + 1, pending := BitVec.ofNat 32 noToken, toks := new.take n
              fail := some (x.ending z.2.1.state (g.emitted.length + n) (fieldAt inst 16 8 + n)) })
      else (y.1, { base with committed := at_ + new.length, pending := BitVec.ofNat 32 (new.getLastD 0), toks := new })

/-- A cache takes what a commit gives it; a commit that leaves COMMITTED is no switch. -/
def Run.commitCache (r : Run s₀) (f : FurrowIx) (h : Handle) (cache committed pending : Nat) : Run s₀ :=
  let x := r.cacheAt f h cache
  if committed = x.committed then r else r.switchCache f h cache { x with committed := committed, pending := pending }

/-- The commit begins at the root: samples, grammar advances, and the root's own cache switches; the members are told theirs (R276). -/
def Run.commitBegin (r : Run s₀) (f : FurrowIx) (h : Handle) (w : StepWork) (img : PlanImage) : Run s₀ :=
  let x := w.parts.foldl (fun (acc : Run s₀ × List StepCommit) p =>
    match ((acc.1.fur f).request? h p.tag).bind fun q => q.gen.map fun g => (q, g) with
    | none => acc
    | some (q, g) =>
      let e := q.eng f
      match (acc.1.fur f).firstBad e (acc.1.commitExtents e g img p) with
      | some bad => let y := acc.1.readFault e bad; (y.1.partFails f h p.tag y.2, acc.2)
      | none => let y := acc.1.verify e g img p (BitVec.ofNat 32 (acc.1.cacheAt f h g.cache).pending); (y.1, acc.2 ++ [y.2])) (r, [])
  let r := x.2.foldl (fun (r : Run s₀) k => r.commitCache f h k.cache k.committed k.pending.toNat) x.1
  r.modFur f fun c =>
    let c := x.2.foldl (fun (c : Furrow) k => c.modReq h k.tag fun q => { q with gen := q.gen.map fun g => { g with committing := true } }) c
    let c := c.modStep h fun w => { w with commits := some x.2 }
    c.sendDown f (c.box h) StepKey.commit
      (leBytes 4 x.2.length ++ x.2.flatMap fun k => leBytes 8 k.cache ++ leBytes 4 k.committed ++ leBytes 4 k.pending.toNat)

/-- A member's part of a commit: its own cache switches, and the answer once everything below has switched (R268, R276). -/
def Run.commitMember (r : Run s₀) (f : FurrowIx) (h : Handle) (w : StepWork) : Run s₀ :=
  let q := (r.fur f).box h
  let r := match w.commits, q.origin.bind fun o => gathered q.contrib StepKey.commit o.1 with
    | none, some bs =>
      let r := r.modFur f fun c => (c.sendDown f q StepKey.commit bs).modStep h fun w => { w with commits := some [] }
      (List.range (fieldAt bs 0 4)).foldl (fun (r : Run s₀) i =>
        r.commitCache f h (fieldAt bs (4 + 16 * i) 8) (fieldAt bs (12 + 16 * i) 4) (fieldAt bs (16 + 16 * i) 4)) r
    | _, _ => r
  let c := r.fur f
  match if (c.step? h).any fun w => w.commits.isSome then c.piecesLeft (c.box h) StepKey.switched else none with
  | none => r
  | some rest => r.modFur f fun c => (c.passUnder f (c.box h) StepKey.switched [] rest).dropStep h

/-! ### After the commit: streaming, ends and the deadline monitor -/

/-- The reason for which a request in decode ends DONE after a commit (R278, Table 12-5), or a prefill that has come to its end. -/
def Run.doneCode (r : Run s₀) (e : Eng) (g : GenWork) (img : PlanImage) (head : CacheHead) : Option Nat :=
  if g.todo.isEmpty then
    if g.maxNew = 0 then some 2
    else if g.emitted.getLast?.any fun t => g.stops.contains t then some 1
    else if g.maxNew ≤ g.emitted.length then some 2
    else if head.cap ≤ head.committed ∨ img.maxCtx ≤ head.committed then some 3
    else if g.opt 0 ∧ (r.loadNat e.f e.h e.core g.gram.tier (g.gram.off + 14) 1).testBit 1 then some 4
    else none
  else if head.cap ≤ head.committed then some 3 else none

/-- The ending of a request that its commit ends (R278, Table 12-8; FELL_BACK after a switch, Table 03-13a). -/
def GenWork.ending (g : GenWork) (out : Nat) : Ending :=
  let e := Ending.ok (satCount g.emitted.length) out
  match g.switched with
  | none => e
  | some n => { e with status := Status.fellBack, detail := BitVec.ofNat 64 (g.plan.toNat + 2 ^ 32 * n) }

/-- The monitor predicts a miss (R87). The work to the first result is what R288 estimates of it (log 61). A context without engine time in
its last 10 quanta has rate 0, by which R87 divides: a miss (DESIGN CHOICE, log 77). -/
def Furrow.predictsMiss (c : Furrow) (q : Request) (g : GenWork) (img : PlanImage) : Bool :=
  if q.firstNs.isNone ∧ q.ttfrNs ≠ 0 then
    let busy := sumOf c.ctx[q.h].lastQuanta
    let work := (ceilDiv g.todo.length img.chunk + 1) * img.stepNs
    let left := q.ttfrNs - elapsed c.ns q.fetchNs
    decide (busy = 0) || decide (q.ttfrNs < elapsed c.ns q.fetchNs) || decide (left * busy < work * 500000)
  else decide (q.stepNs ≠ 0) && decide (q.lastSteps.length = 2) && q.lastSteps.all fun t => decide (9 * q.stepNs < 10 * t.toNat)

/-- The fallback plan that a request can switch to now (R87, R280). -/
def Run.fallbackOf (r : Run s₀) (f : FurrowIx) (q : Request) (g : GenWork) (img : PlanImage) : Option Nat :=
  let c := r.fur f
  match c.ctx[q.h].pairs.find? fun p => p.1 = g.plan with
  | none => none
  | some (_, fb) =>
    match r.planOf f q.h fb.toNat with
    | none => none
    | some (_, y) =>
      let x := r.cacheAt f q.h g.fbCache
      if g.opt 3 ∧ g.switched = none ∧ x.live ∧ x.plan = fb.toNat ∧ y.vocab = img.vocab ∧ y.tok = img.tok then some fb.toNat else none

/-- The deadline monitor at a step boundary (R87): a request that will miss goes over to its fallback, which prefills the prompt and
every token emitted so far (R280). -/
def Run.monitor (r : Run s₀) (f : FurrowIx) (q : Request) (g : GenWork) (img : PlanImage) : GenWork :=
  match if (r.fur f).predictsMiss q g img then r.fallbackOf f q g img else none with
  | none => g
  | some fb =>
    { g with
      plan := BitVec.ofNat 32 fb, cache := g.fbCache, todo := g.prompt ++ g.emitted, drafts := [], switched := some g.emitted.length }

/-- A progress interval ends (R85, R277). -/
def Request.progress (q : Request) (now : W64) : Request :=
  match q.firstNs with
  | none => { q with firstNs := some now, lastNs := now }
  | some _ =>
    let step := now - q.lastNs
    { q with lastNs := now, worstNs := if q.worstNs.toNat < step.toNat then step else q.worstNs, lastSteps := (step :: q.lastSteps).take 2 }

/-- The progress record of a step (R277). -/
def progressRecord (q : Request) (ns count result total text : Nat) : Record :=
  { tag := q.tag, status := Status.done, late := false, nested := q.nested, widened := q.widened, throttled := q.throttled, partial_ := true,
    count := BitVec.ofNat 16 (satCount count), engineNs := BitVec.ofNat 64 ns, result := BitVec.ofNat 64 result,
    detail := BitVec.ofNat 64 (total % 2 ^ 32 + 2 ^ 32 * text) }

/-- The text of a commit's tokens: the detokenizer stream goes on, and is flushed at the request's end (R277). -/
def Run.genText (r : Run s₀) (f : FurrowIx) (h : Handle) (g : GenWork) (img : PlanImage) (toks : List Nat) (final : Bool) : DetokState :=
  match if g.opt 1 then (r.fur f).tok? h img.tok else none with
  | none => ⟨[], [], 0⟩
  | some b => DetokState.run (r.image f b) (g.opt 2) final ⟨g.held, [], 0⟩ toks

/-- The commit of one request ends: its tokens and text reach the host buffer, then its progress record; then it ends, is cancelled, ends as
its context's fault or a lost member has it (log 90), or is looked at by the monitor (R276–R281). -/
def Run.commitOne (r : Run s₀) (f : FurrowIx) (h : Handle) (img : PlanImage) (reports : List (Nat × List Byte)) (k : StepCommit) : Run s₀ :=
  match ((r.fur f).request? h k.tag).bind fun q => q.gen.map fun g => (q, g) with
  | none => r
  | some (q, g) =>
    let e := q.eng f
    let n := k.toks.length
    let drafts := if n = 0 then [] else
      (List.range img.draft).map fun i => r.loadNat f h 0 2 (img.slotAt 3 + (k.part.first + n - 1) * 32 + 4 * i) 4
    let g1 := { g with todo := g.todo.drop k.part.prefill, emitted := g.emitted ++ k.toks, drafts := drafts, committing := false, cancel := false }
    let code := if k.fail.isSome then some 5 else r.doneCode e g1 img (r.cacheAt f h g.cache)
    let t := r.genText f h g img k.toks (code.isSome && decide (n ≠ 0))
    let g1 := { g1 with held := t.held, textLen := g.textLen + t.out.length }
    let first := q.out + 64 + 4 * g.emitted.length
    let r := r.modFur f fun c => { c with tally := c.tally.tokens h k.part.prefill n }
    let r := if n = 0 then r else
      let r := r.toHost ((r.fur f).hostAt q.h first) (k.toks.flatMap fun x => leBytes 4 x)
      let r := r.toHost ((r.fur f).hostAt q.h (q.out + align64 (64 + 4 * g.maxNew) + g.textLen)) t.out
      let r := r.toHost ((r.fur f).hostAt q.h q.out) (leBytes 4 g1.emitted.length ++ leBytes 4 g1.textLen)
      (r.modFur f fun c => c.modReq h k.tag fun q => q.progress c.ns).post f h
        (progressRecord q (q.engineNs.toNat + memberNs reports k.tag) n first g1.emitted.length g1.textLen)
    let keep := fun (r : Run s₀) (g : GenWork) => r.modFur f fun c => c.modReq h k.tag fun q => { q with gen := some g }
    match code with
    | some 5 => (keep r g1).genEnds f q 5 { (k.fail.getD (Ending.ok 0 0)) with count := BitVec.ofNat 16 (satCount g1.emitted.length) }
    | some code => (keep r g1).genEnds f q code (g1.ending q.out)
    | none =>
      let c := r.fur f
      if g.cancel then (keep r g1).modFur f fun c => c.cancelReq f h k.tag
      else match c.ctx[h].fault, (c.below h).2.find? fun m => m.lost with
      | some (cause, _), _ => (keep r g1).faultEnds f h cause q
      | none, some m => (keep r g1).partFails f h k.tag (c.lostEnding f m.id)
      | none, none =>
        let q := ((r.fur f).request? h k.tag).getD q
        let g2 := r.monitor f q g1 img
        let x := r.cacheAt f h g2.cache
        if g2.switched ≠ g1.switched ∧ x.cap ≤ x.committed then (keep r g2).genEnds f q 3 (g2.ending q.out) else keep r g2

/-- Room for a progress record of every request of a step (R59). -/
def Rings.roomFor (g : Rings) (n : Nat) : Bool :=
  decide (n ≤ (if g.holding.isEmpty then 2 ^ g.cqLog.toNat - g.used else 0) + (192 - g.holding.length))

/-- The commit of a step ends at the root, once every member has switched. -/
def Run.commitEnd (r : Run s₀) (f : FurrowIx) (h : Handle) (w : StepWork) (img : PlanImage) : Run s₀ :=
  let c := r.fur f
  match w.commits, c.piecesLeft (c.box h) StepKey.switched, c.piecesLeft (c.box h) StepKey.report with
  | some ks, some _, some reports =>
    (ks.foldl (fun (r : Run s₀) k => r.commitOne f h img reports k) r).modFur f fun c => c.dropStep h
  | _, _, _ => r

/-- The progress records that a step's commit posts: of the requests that emit tokens, as far as is known those with a sampled row (R59, R277). -/
def StepWork.toPost (w : StepWork) : Nat :=
  match w.commits with
  | some ks => (ks.filter fun k => !k.toks.isEmpty).length
  | none => (w.parts.filter fun p => decide (p.samples ≠ 0)).length

/-- GEN_STEP_COMMIT (R276): once every furrow's program is over, the root samples, verifies and commits; the members switch their caches
before anything is posted (R268). The commit waits for room for its progress records. -/
def execGenStepCommit (f : FurrowIx) (h : Handle) (plan : W32) (s : State) : Host.Outcome State Fault Refusal :=
  let c := s.furrow f
  let r := Run.start s
  (match if c.serves then c.step? h else none with
   | none => r
   | some w =>
     if c.ctx[h].role = SpanRole.member then r.commitMember f h w
     else match if w.plan = plan ∧ w.told ∧ !w.failed then r.planOf f h plan.toNat else none with
       | none => r
       | some (_, img) =>
         if !c.ctx[h].rings.roomFor w.toPost then r
         else
           let r := if w.commits.isNone then r.commitBegin f h w img else r
           match (r.fur f).step? h with
           | some w => r.commitEnd f h w img
           | none => r).done

end Sys2Proof.Machine
end

