-- ==== Sys2Proof/Machine/Pause.lean ====
section
/-! DEFINITION. Pausing a conversation (chapter 12): the pause table (R289), GEN_PAUSE (R282), GEN_RESUME (R283), GEN_DISCARD and
PAUSE_SWEEP (R284). -/

namespace Sys2Proof.Machine

variable {s₀ : State}

/-! ### The pause table (R289) -/

/-- An entry of a pause table. -/
structure PauseEntry where
  off       : Nat
  kind      : Nat
  discarded : Bool
  shift     : Nat
  expiry    : Nat
  restarts  : Nat

/-- The entry that 32 bytes hold. -/
def PauseEntry.of (b : List Byte) : PauseEntry :=
  ⟨fieldAt b 0 8, fieldAt b 8 1, (fieldAt b 9 1).testBit 0, fieldAt b 10 2, fieldAt b 16 8, fieldAt b 24 4⟩

/-- The 32 bytes of an entry. -/
def PauseEntry.bytes (x : PauseEntry) : List Byte :=
  leBytes 8 x.off ++ leBytes 1 x.kind ++ leBytes 1 (bit x.discarded) ++ leBytes 2 x.shift ++ zeros 4 ++ leBytes 8 x.expiry ++ leBytes 4 x.restarts ++
    zeros 4

/-- The table of a context: its offset and number of entries; none when LOG2_N is 0 or it leaves the region. -/
def Furrow.pauseTable (c : Furrow) (h : Handle) : Option (Nat × Nat) :=
  let off := c.ptOffset[h].toNat * 4096
  let n := 2 ^ c.ptLog[h].toNat
  if c.ptLog[h] = 0 ∨ !c.hbmInside h off (32 * n) then none else some (off, n)

/-- The entries of a context's table, each with its number. -/
def Run.pauseEntries (r : Run s₀) (f : FurrowIx) (h : Handle) : List (Nat × PauseEntry) :=
  match (r.fur f).pauseTable h with
  | none => []
  | some (off, n) => (List.range n).map fun i => (i, .of (r.load f h 0 2 (off + 32 * i) 32))

/-- The entry of an image. -/
def Run.pauseEntry (r : Run s₀) (f : FurrowIx) (h : Handle) (off kind shift : Nat) : Option (Nat × PauseEntry) :=
  (r.pauseEntries f h).find? fun x => x.2.off = off && x.2.kind = kind && x.2.shift = shift

/-- The entry that a pause takes: a free one, or the oldest DISCARDED one (R284; log 62). -/
def Run.pauseSlot (r : Run s₀) (f : FurrowIx) (h : Handle) : Option Nat :=
  let xs := r.pauseEntries f h
  match xs.find? fun x => x.2.kind = 0 with
  | some x => some x.1
  | none => ((xs.filter fun x => x.2.discarded).foldl (fun (b : Option (Nat × PauseEntry)) x => match b with
      | none => some x
      | some y => if x.2.expiry < y.2.expiry then some x else some y) none).map (·.1)

/-- Write an entry; PAUSED counts the entries in use (Table 12-10). -/
def Run.setPause (r : Run s₀) (f : FurrowIx) (h : Handle) (i : Nat) (x : PauseEntry) : Run s₀ :=
  match (r.fur f).pauseTable h with
  | none => r
  | some (off, _) =>
    let r := r.store f h 0 2 (off + 32 * i) x.bytes
    let used := ((r.pauseEntries f h).filter fun y => y.2.kind ≠ 0).length
    r.modFur f fun c => { c with ptPaused := c.ptPaused.set h (BitVec.ofNat 17 used) }

/-- Free the entry of an image, if there is one. -/
def Run.freePause (r : Run s₀) (f : FurrowIx) (h : Handle) (off kind shift : Nat) : Run s₀ :=
  match r.pauseEntry f h off kind shift with
  | none => r
  | some (i, _) => r.setPause f h i ⟨0, 0, false, 0, 0, 0⟩

/-! ### Images -/

/-- OFFSET, KIND and SHIFT of the three opcodes (Table 12-7). -/
def imageOff (d : List Byte) : Nat := df d 24 8
def imageKind (d : List Byte) : Nat := df d 32 1
def imageShift (d : List Byte) : Nat := df d 34 2

/-- Where the image of this member lies (KIND 1: its Granary region; KIND 2: the HBM of member (m + SHIFT) mod F). -/
def Furrow.imageSpot (c : Furrow) (f : FurrowIx) (q : Request) : Spot :=
  let d := q.desc
  if imageKind d = 1 then ⟨4, 0, imageOff d, 0, 0⟩
  else
    let own := c.flatNumber q
    let ids := c.spanIds f q
    let m := (own + imageShift d) % max 1 ids.length
    if m = own then ⟨2, 0, imageOff d, 0, 0⟩
    else let x := ids.getD m (0, 0); ⟨3, 0, imageOff d, x.1, x.2⟩

/-- The header of the image that lies here: this member's own in the Granary, or one that another member keeps in this HBM. -/
def Run.imageHere (r : Run s₀) (f : FurrowIx) (h : Handle) (off kind : Nat) : List Byte :=
  if kind = 1 then (match r.grnRead f h off 64 with | some xs => cellsToBytes xs 64 | none => zeros 64) else r.load f h 0 2 off 64

/-- A header is that of a good image (R283). -/
def CacheHead.image (x : CacheHead) : Bool := x.ok && x.state = 2

/-- Bytes of an image in the Granary: whole blocks. -/
def CacheHead.blocks (x : CacheHead) : Nat := 1 + ceilDiv (x.committed * x.eb) 4096

/-- Discard an image: its Granary blocks, or its remote header (R284). Of an image without a good header, the header's block goes. -/
def Run.dropImage (r : Run s₀) (f : FurrowIx) (h : Handle) (tag : Tag) (p : Spot) : Run s₀ :=
  if p.tier = 4 then
    let x := CacheHead.of (r.imageHere f h p.off 1)
    let base := (r.fur f).grnBaseLbn h + p.off / 4096
    let n := if x.image && (r.fur f).grnInside h p.off (4096 * x.blocks) then x.blocks else 1
    r.each ((List.range n).map (base + ·)) fun r l => if r.mapGet f l = 0 then r else r.discard f h tag l
  else r.arrive f h tag p 64 []

/-- The checks at fetch of the three opcodes (Table 12-7). -/
def fetchGenPause (c : Furrow) (h : Handle) (d : List Byte) : Option Refuse :=
  let op := (opcodeOf d).toNat
  firstFail [if op = 0x66 then reservedBytes d 16 23 else none, reservedBytes d 33 33, reservedBytes d (if op = 0x64 then 40 else 36) 63,
    if op = 0x66 then none else cacheRef c h d 16,
    badIf (decide (imageOff d % 4096 ≠ 0) || (decide (imageKind d = 1) && !c.grnInside h (imageOff d) 4096) ||
      (decide (imageKind d = 2) && !c.hbmInside h (imageOff d) 64)) 24,
    badIf (decide (imageKind d ≠ 1) && decide (imageKind d ≠ 2)) 32,
    badIf (decide (op = 0x64) && (decide (df d 36 4 = 0) || decide (31536000 < df d 36 4))) 36]

/-- The cache of a GEN_PAUSE or GEN_RESUME is LIVE, of a loaded plan with its EB, and nobody else's (R287). -/
def Run.pauseCacheOk (r : Run s₀) (f : FurrowIx) (q : Request) : Bool :=
  let off := (tref q.desc 16).off
  let x := r.cacheAt f q.h off
  (match r.planOf f q.h x.plan with | some (_, g) => decide (g.eb = x.eb) | none => false) && r.liveCache f q.h off x.plan x.eb &&
    !r.cacheBusy f q off

/-- The checks of the three opcodes when they start, on every member (R287, R356). -/
def startGenPause (r : Run s₀) (f : FurrowIx) (q : Request) : Option Refuse :=
  let c := r.fur f
  let d := q.desc
  let op := (opcodeOf d).toNat
  let kind := imageKind d
  let off := (tref d 16).off
  let own := if op = 0x66 then none else match c.firstBad (q.eng f) [(2, off, 64)] with
    | some _ => none
    | none =>
      let x := r.cacheAt f q.h off
      firstFail [badIf (!r.pauseCacheOk f q) 16,
        badIf (decide (op = 0x64) && !(if kind = 1 then c.grnInside q.h (imageOff d) (4096 * x.blocks)
          else c.hbmInside q.h (imageOff d) (cacheBytes x.committed x.eb))) 24]
  firstFail [own, badIf (decide (kind = 1) && !c.grn.usable) 24,
    failIf (decide (kind = 1 ∧ op = 0x64) && c.grn.state = .readOnly) ⟨Reason.noCapacity, 0xFF, neverKept⟩,
    badIf (decide (op = 0x64) && (r.pauseSlot f q.h).isNone) 0xFF]

/-- What the root carries with the three opcodes (R282, R283): the span's identifiers, and EXPIRY or the resume's stamp, with the
calendar's restarts and whether it is valid. -/
def Run.carryPause (r : Run s₀) (f : FurrowIx) (q : Request) : List Byte :=
  let c := r.fur f
  let now := c.cal.stamp.toNat
  let stamp := if (opcodeOf q.desc).toNat = 0x64 then now + df q.desc 36 4 * 32768 else now
  idBytes (c.standsFor f q.h) ++ leBytes 8 stamp ++ leBytes 4 c.health.restarts.toNat ++ leBytes 1 (bit c.cal.valid)

/-- The carried stamp, restarts and validity. -/
def carriedStamp (q : Request) : Nat × Nat × Bool :=
  let b := afterIds q.carried
  (fieldAt b 0 8, fieldAt b 8 4, (fieldAt b 12 1).testBit 0)

/-! ### GEN_PAUSE (R282) -/

/-- The image is written: entries first, then the header with STATE IMAGE. Until the pause comes to its end the image is invalid (R282;
log 89). -/
def Run.writeImage (r : Run s₀) (f : FurrowIx) (q : Request) (x : CacheHead) : Run s₀ :=
  let off := (tref q.desc 16).off
  let p := (r.fur f).imageSpot f q
  let s := carriedStamp q
  let n := x.committed * x.eb
  let len := if p.tier = 4 then ceilDiv n 4096 * 4096 else n
  let head := { x with state := 2, expiry := s.1, restarts := s.2.1, ttl := df q.desc 36 4 }.bytes
  let r := r.modFur f fun c => { c with halfImages := (c.halfImages.filter fun x => x ≠ (q.h, p)) ++ [(q.h, p)] }
  let r := if len = 0 then r else r.arrive f q.h q.tag (p.at 4096) len (r.loadCells f q.h 0 2 (off + 4096) n)
  let r := r.arrive f q.h q.tag p (if p.tier = 4 then 4096 else 64) (bytesToCells head)
  r.modFur f fun c => (c.modReq q.h q.tag fun q => { q with stage := 1 }).advance q.h q.tag

/-- The image is complete everywhere: the pause-table entry, then the live header's switch. -/
def Run.emptyCache (r : Run s₀) (f : FurrowIx) (q : Request) : Run s₀ :=
  let d := q.desc
  let off := (tref d 16).off
  let s := carriedStamp q
  let x := r.cacheAt f q.h off
  let r := match r.pauseSlot f q.h with
    | some i => r.setPause f q.h i ⟨imageOff d, imageKind d, false, imageShift d, s.1, s.2.1⟩
    | none => r
  let p := (r.fur f).imageSpot f q
  let r := r.modFur f fun c =>
    { c with
      halfImages := c.halfImages.filter fun x => x ≠ (q.h, p)
      peers := if p.tier = 4 then c.peers else
        (c.peers.filter fun y => !(y.1 = q.h && y.2.1 = imageOff d && y.2.2.1 = imageShift d)) ++ [(q.h, imageOff d, imageShift d, p)] }
  r.switchCache f q.h off { x with state := 0 }

/-- GEN_PAUSE (R282): the live caches are emptied once every member's image is written, and durable where it lies in the Granary. -/
def Run.genPause (r : Run s₀) (f : FurrowIx) (q : Request) : Run s₀ :=
  let off := (tref q.desc 16).off
  let x := r.cacheAt f q.h off
  let go := fun (r : Run s₀) => match (r.fur f).request? q.h q.tag with
    | none => r
    | some q =>
      if q.stage = 1 ∧ (r.fur f).transfers q.h q.tag then r
      else
        let q := { q with stage := max q.stage 2 }
        match r.roundTrip f q 1 [] (fun _ => []) with
        | (r, none) => r
        | (r, some _) => (r.emptyCache f q).engineEnds f q.h q.tag (Ending.ok 0 (if q.origin.isSome then 0 else imageOff q.desc))
  if q.stage ≠ 0 then go r
  else match (r.fur f).firstBad (q.eng f) [(2, off, 64), (2, off + 4096, x.committed * x.eb)] with
    | some p => let y := r.readFault (q.eng f) p; y.1.engineEnds f q.h q.tag y.2
    | none => go (r.writeImage f q x)

/-- GEN_PAUSE. -/
def execGenPause (f : FurrowIx) (h : Handle) (tag : Tag) (s : State) : Host.Outcome State Fault Refusal :=
  (match (s.furrow f).atWork h tag 0x64 with
   | none => Run.start s
   | some q => (Run.start s).genPause f q).done

/-! ### GEN_RESUME (R283) -/

/-- An EXPIRED ending. -/
def expired (reason : Nat) : Ending := .bare Status.expired reason

/-- The root's judgement of a resume (R283): 0 when it goes on, or the reason it is EXPIRED. `entry` is the root's pause-table entry, and
`heads` the image headers of the members in flat order. -/
def resumeReason (stamp restarts : Nat) (valid : Bool) (entry : Option (Nat × Nat)) (heads : List (List Byte)) : Nat :=
  let root := CacheHead.of (heads.headD [])
  match if entry.isSome then entry else if root.image then some (root.expiry, root.restarts) else none with
  | none => 3
  | some (expiry, n) =>
    if n ≠ restarts ∨ !valid then 2
    else if expiry ≤ stamp then 1
    else if heads.all fun b =>
      let x := CacheHead.of b
      x.image && decide (x.plan = root.plan) && decide (x.committed = root.committed) && decide (x.pending = root.pending) && decide (x.expiry = root.expiry)
    then 0 else 3

/-- What a member says of a resume: the image header that lies here, and 1 where its own image is invalid, its pause not having come to its
end (R282). -/
def Run.imageReport (r : Run s₀) (f : FurrowIx) (q : Request) : List Byte :=
  let c := r.fur f
  bytesAt (r.imageHere f q.h (imageOff q.desc) (imageKind q.desc)) 0 64 ++ leBytes 1 (bit (c.halfImages.contains (q.h, c.imageSpot f q)))

/-- The answer that the root gives every member: the reason, then the image headers in flat order; an invalid image has none. -/
def Run.judgeResume (r : Run s₀) (f : FurrowIx) (q : Request) (pieces : List (List Byte)) : List Byte :=
  let d := q.desc
  let n := pieces.length
  let at_ := fun (m : Nat) => if imageKind d = 1 then m else (m + imageShift d) % max 1 n
  let heads := (List.range n).map fun m => if fieldAt (pieces.getD m []) 64 1 = 1 then zeros 64 else bytesAt (pieces.getD (at_ m) []) 0 64
  let s := carriedStamp q
  let entry := (r.pauseEntry f q.h (imageOff d) (imageKind d) (imageShift d)).map fun x => (x.2.expiry, x.2.restarts)
  leBytes 1 (resumeReason s.1 s.2.1 s.2.2 entry heads) ++ heads.flatMap fun b => bytesAt b 0 64

/-- A resume that is EXPIRED: a DISCARDED entry that names the image is freed (R284); the image stays as it is (R290). -/
def Run.resumeExpired (r : Run s₀) (f : FurrowIx) (q : Request) (reason : Nat) : Run s₀ :=
  let d := q.desc
  let gone := (r.pauseEntry f q.h (imageOff d) (imageKind d) (imageShift d)).any fun x => x.2.discarded
  let r := if gone then r.freePause f q.h (imageOff d) (imageKind d) (imageShift d) else r
  r.awaitEnd f q.h q.tag (if q.origin.isSome then Ending.ok 0 0 else expired reason)

/-- The image of this member can go into its cache: same plan and EB, and no longer than CAP (log 62). -/
def Run.imageFits (r : Run s₀) (f : FurrowIx) (q : Request) (x : CacheHead) : Bool :=
  let y := r.cacheAt f q.h (tref q.desc 16).off
  let n := cacheBytes x.committed x.eb
  decide (x.plan = y.plan) && decide (x.eb = y.eb) && decide (x.committed ≤ y.cap) &&
    (if imageKind q.desc = 1 then (r.fur f).grnInside q.h (imageOff q.desc) n else (r.fur f).hbmInside q.h (imageOff q.desc) n)

/-- The entries are copied into the cache. -/
def Run.copyImage (r : Run s₀) (f : FurrowIx) (q : Request) (x : CacheHead) : Run s₀ :=
  let off := (tref q.desc 16).off
  let p := ((r.fur f).imageSpot f q).at 4096
  let n := x.committed * x.eb
  if !r.imageFits f q x then r.engineEnds f q.h q.tag (Refuse.operand 24).atStart.ending
  else match (r.fur f).spotBad f q.h p n with
    | some bad => let y := r.readFault (q.eng f) bad; y.1.engineEnds f q.h q.tag y.2
    | none =>
      let r := if n = 0 then r else r.transfer f q.h q.tag p ⟨2, 0, off + 4096, 0, 0⟩ n
      r.modFur f fun c => c.modReq q.h q.tag fun q => { q with stage := 3, measures := [], contrib := q.contrib }

/-- The cache is LIVE with the image's contents; the image is used up (R283). -/
def Run.resumeCache (r : Run s₀) (f : FurrowIx) (q : Request) (x : CacheHead) : Run s₀ :=
  let d := q.desc
  let off := (tref d 16).off
  let y := r.cacheAt f q.h off
  let r := r.switchCache f q.h off { x with cap := y.cap, state := 1, expiry := 0, restarts := 0, ttl := 0, seq := y.seq }
  let r := (r.dropImage f q.h q.tag ((r.fur f).imageSpot f q)).freePause f q.h (imageOff d) (imageKind d) (imageShift d)
  r.awaitEnd f q.h q.tag (Ending.ok 0 (if q.origin.isSome then 0 else df d 16 8))

/-- GEN_RESUME (R283) goes on: the root judges the image headers of all members, each copies its entries, and once all have, each
switches its cache. The root's answer waits among the contributions under key 0. -/
def Run.genResume (f : FurrowIx) (h : Handle) (tag : Tag) : Nat → Run s₀ → Run s₀
  | 0, r => r
  | k + 1, r =>
    match (r.fur f).atWork h tag 0x65 with
    | none => r
    | some q =>
      let c := r.fur f
      let head := CacheHead.of (bytesAt q.carried (q.carried.length - 64) 64)
      if q.stage < 2 then
        let own := r.imageReport f q
        let bad := if imageKind q.desc = 1 ∨ q.stage = 1 then none else c.firstBad (q.eng f) [(2, imageOff q.desc, 64)]
        let y := if imageKind q.desc = 1 ∧ q.stage = 0 then r.grnFetch f h tag (imageOff q.desc) 64 else (r, none, [])
        match bad, y.2.1 with
        | some p, _ => let z := r.readFault (q.eng f) p; z.1.engineEnds f h tag z.2
        | none, some psa => let z := (y.1.fur f).nandFault (q.eng f) psa; (y.1.setFur f z.1).engineEnds f h tag z.2
        | none, none =>
          match y.1.roundTrip f q 0 own (fun ps => r.judgeResume f q ps) with
          | (r, none) => r
          | (r, some bs) =>
            let reason := fieldAt bs 0 1
            if reason ≠ 0 then r.resumeExpired f q reason
            else Run.genResume f h tag k (r.modFur f fun c => c.modReq h tag fun q =>
              { q with carried := q.carried ++ bytesAt bs (1 + 64 * c.flatNumber q) 64 })
      else if q.stage = 2 then Run.genResume f h tag k (r.copyImage f q head)
      else if q.stage = 3 then
        if c.transfers h tag then r else Run.genResume f h tag k (r.modFur f fun c => c.modReq h tag fun q => { q with stage := 4 })
      else match r.roundTrip f q 2 [] (fun _ => []) with
        | (r, none) => r
        | (r, some _) => r.resumeCache f q head

/-- GEN_RESUME. -/
def execGenResume (f : FurrowIx) (h : Handle) (tag : Tag) (s : State) : Host.Outcome State Fault Refusal :=
  (Run.genResume f h tag 5 (Run.start s)).done

/-! ### GEN_DISCARD and PAUSE_SWEEP (R284, R285) -/

/-- GEN_DISCARD (R285): every member discards its image and clears its entry. -/
def execGenDiscard (f : FurrowIx) (h : Handle) (tag : Tag) (s : State) : Host.Outcome State Fault Refusal :=
  let r := Run.start s
  (match (s.furrow f).atWork h tag 0x66 with
   | none => r
   | some q =>
     let d := q.desc
     let p := (r.fur f).imageSpot f q
     let r := ((r.dropImage f h tag p).freePause f h (imageOff d) (imageKind d) (imageShift d)).modFur f fun c =>
       { c with halfImages := c.halfImages.filter fun x => x ≠ (h, p) }
     r.awaitEnd f h tag (Ending.ok 0 (if q.origin.isSome then 0 else imageOff d))).done

/-- A running resume holds an image (R284). -/
def Furrow.resumeHolds (c : Furrow) (h : Handle) (x : PauseEntry) : Bool :=
  c.reqs.any fun q => q.h = h && q.phase = Phase.running && opcodeOf q.desc = 0x65 && imageOff q.desc = x.off && imageKind q.desc = x.kind &&
    imageShift q.desc = x.shift

/-- Where the image of a pause-table entry lies, as the pause left it; none where the furrow no longer knows the member that keeps it, as
after a reset (log 62). -/
def Furrow.entrySpot (c : Furrow) (h : Handle) (x : PauseEntry) : Option Spot :=
  if x.kind = 1 then some ⟨4, 0, x.off, 0, 0⟩
  else match c.peers.find? fun y => y.1 = h && y.2.1 = x.off && y.2.2.1 = x.shift with
    | some y => some y.2.2.2
    | none => if x.shift = 0 then some ⟨2, 0, x.off, 0, 0⟩ else none

/-- The discard of a sweep is MOVE time of the context: the rule gives no amount, and it is free (R284; log 62). -/
def Run.chargeSweep (r : Run s₀) (f : FurrowIx) (h : Handle) : Run s₀ :=
  let x := r.free
  let n := x.1.toNat
  x.2.modFur f fun c =>
    let k := classIx .move
    { (c.modCtx h fun y => { y with nsDue := y.nsDue.set k (y.nsDue[k] + BitVec.ofNat 64 n), thisQuantum := y.thisQuantum + n }) with
      tally := c.tally.charge h .move n }

/-- The sweep of one context's table: expired images are discarded, and their entries kept as DISCARDED (R284). -/
def Run.sweepContext (r : Run s₀) (f : FurrowIx) (h : Handle) : Run s₀ :=
  (r.pauseEntries f h).foldl (fun (r : Run s₀) x =>
    let c := r.fur f
    let e := x.2
    if e.kind = 0 ∨ e.discarded ∨ c.cal.stamp.toNat < e.expiry ∨ c.resumeHolds h e then r
    else
      let r := match c.entrySpot h e with | some p => r.dropImage f h boxTag p | none => r
      (r.chargeSweep f h).setPause f h x.1 { e with discarded := true }) r

/-- PAUSE_SWEEP (R284): once a second of calendar time, while the calendar clock is valid. -/
def execPauseSweep (f : FurrowIx) (s : State) : Host.Outcome State Fault Refusal :=
  let c := s.furrow f
  (if !c.cal.valid ∨ !c.serves ∨ c.cal.stamp.toNat / 32768 = c.lastSweep.toNat / 32768 then Run.start s
   else ((Run.start s).modFur f fun c => { c with lastSweep := c.cal.stamp }).each (List.finRange 64) fun r h =>
     if (s.furrow f).ctx[h].owns then r.sweepContext f h else r).done

/-- The estimates of the three opcodes (R288). -/
def costGenPause (r : Run s₀) (f : FurrowIx) (h : Handle) (d : List Byte) : Cost :=
  let op := (opcodeOf d).toNat
  if op = 0x66 then .flat 1000
  else
    let x := if op = 0x64 then r.cacheAt f h (tref d 16).off else CacheHead.of (r.imageHere f h (imageOff d) (imageKind d))
    if x.ok then .flat (1000 * ceilDiv (cacheBytes x.committed x.eb) 65536) else .unknown

end Sys2Proof.Machine
end

