-- ==== Sys2Proof/Machine/Bind.lean ====
section
/-! DEFINITION. Binding contexts to spans (R21, R22, R373–R375, R378): CTX_BIND_SPAN, SPAN_SET_MEMBER, and the join traffic. -/

namespace Sys2Proof.Machine

variable {s₀ : State}

/-! ### Join traffic (KIND 0x0D; log 35) -/

/-- Bits of AUX in binding traffic: END, an answer, a check that failed, the binding is to be recorded, or forgotten again, or a span that a
group holds is to change. -/
def Join.isEnd (p : Packet) : Bool := p.aux.getLsbD 0
def Join.isAnswer (p : Packet) : Bool := p.aux.getLsbD 1
def Join.refused (p : Packet) : Bool := p.aux.getLsbD 2
def Join.records (p : Packet) : Bool := p.aux.getLsbD 3
def Join.forgets (p : Packet) : Bool := p.aux.getLsbD 4
def Join.regroups (p : Packet) : Bool := p.aux.getLsbD 5

/-- An entry of a member table: identifier, FURROWS, and its first flat number (R374). -/
structure TableEntry where
  id      : FabricId
  furrows : Nat
  first   : Nat

/-- The entries that a member table's bytes hold (R374). -/
def tableEntries (bs : List Byte) : List TableEntry :=
  ((List.range (bs.length / 8)).foldl (fun (acc : List TableEntry × Nat) i =>
    let n := fieldAt bs (8 * i + 4) 4
    (acc.1 ++ [⟨BitVec.ofNat 16 (fieldAt bs (8 * i) 2), n, acc.2⟩], acc.2 + n)) ([], 1)).1

/-- A join packet for an entry: ADDR holds its flat number and FURROWS. -/
def Furrow.joinPacket (c : Furrow) (f : FurrowIx) (x : TableEntry) (span tag : W32) (aux : Nat) : Packet :=
  { c.packet f Kind.spanJoin x.id span tag with addr := BitVec.ofNat 64 (x.first % 2 ^ 32 + 2 ^ 32 * x.furrows), aux := BitVec.ofNat 32 aux }

/-- Send join packets to entries, and wait for an answer from each. -/
def Furrow.join (c : Furrow) (f : FurrowIx) (q : Request) (span : W32) (xs : List TableEntry) (aux stage : Nat) : Furrow :=
  (xs.foldl (fun (c : Furrow) x => c.route f (c.joinPacket f x span q.tag aux)) c).modReq q.h q.tag fun q =>
    { q with acks := xs.map (·.id), stage := stage, waitNs := some c.ns }

/-- The identifiers that a member has answered with, once every piece is there. -/
def joinIds (ps : List Packet) (src : FabricId) : Option (List (FabricId × W32)) :=
  let mine := ps.filter fun p => p.src = src
  match mine.find? fun p => p.addr = 0 with
  | none => none
  | some p0 =>
    let parts := (List.range (ceilDiv (4 + 8 * fieldAt p0.payload 0 4) 1024)).map fun i => mine.find? fun p => p.addr.toNat = 1024 * i
    if parts.all (·.isSome) then some (idsIn (parts.flatMap fun p => match p with | some p => p.payload | none => [])) else none

/-- No identifier appears twice, and no more than 8,192 modules and 65,536 furrows take part (R22, R375). -/
def spanIdsOk (ids : List FabricId) : Bool :=
  ids.eraseDups.length == ids.length && decide ((ids.map fun i => i.toNat / 8).eraseDups.length ≤ 8192) && decide (ids.length ≤ 65536)

/-! ### CTX_BIND_SPAN -/

/-- The fields of a CTX_BIND_SPAN (Tables 03-9, 16-7). -/
def bindRole (d : List Byte) : Nat := df d 18 1
def bindSpan (d : List Byte) : W32 := BitVec.ofNat 32 (df d 20 4)
def bindTable (d : List Byte) : TRef := tref d 24
def bindEntries (d : List Byte) : Nat := df d 32 4
def bindChild (d : List Byte) : W32 := BitVec.ofNat 32 (df d 28 4)

/-- The checks of CTX_BIND_SPAN on its own bytes (Table 16-7), and those of Table 03-9a up to the first that reads the furrow (R75, R476;
log 82). -/
def fetchCtxBindSpan (h : Handle) (d : List Byte) : Option Refuse :=
  firstFail [onlyManager h, reservedBytes d 19 19, if bindRole d = 2 then reservedBytes d 32 63 else if bindRole d = 1 then reservedBytes d 36 63 else none,
    checkHandle d false]

/-- The checks of CTX_BIND_SPAN that read the furrow (Table 03-9a, R22). -/
def startCtxBindSpan (c : Furrow) (d : List Byte) : Option Refuse :=
  firstFail [goneHandle c d, badIf (decide (bindRole d ≠ 1) && decide (bindRole d ≠ 2)) 18, badIf (decide (bindSpan d = 0)) 20,
    badIf (decide (bindRole d = 2) && (decide (bindChild d = bindSpan d) || decide (bindChild d ≠ 0)) &&
      (decide (bindChild d = bindSpan d) || !(List.finRange 64).any fun g => c.ctx[g].role = .root && c.ctx[g].spanId = bindChild d)) 28,
    badIf (match opHandle d with
      | some g => c.ctx[g].state != .ready || c.ctx[g].rings.state != .disabled || !(c.outstanding g).isEmpty || c.ctx[g].role != .none
      | none => true) 16,
    if bindRole d = 2 then badIf (decide (df d 26 2 = 0)) 26
    else firstFail [badIf (decide ((bindTable d).tier ≠ 2) || decide ((bindTable d).off % 64 ≠ 0)) 24,
      badIf (decide (bindEntries d = 0) || decide (65535 < bindEntries d)) 32],
    match opHandle d with
    | some g => if bindRole d = 1 then c.refCheck g (bindTable d) (8 * bindEntries d) 24 [2] else none
    | none => none,
    failIf ((List.finRange 64).any fun g => c.ctx[g].role != .none && c.ctx[g].spanId = bindSpan d) (spanInvalid 20)]

/-- The span binding of a context as it is recorded; what its mailbox held goes. -/
def Furrow.setBind (c : Furrow) (h : Handle) (span : W32) (role : SpanRole) (b : SpanBind) : Furrow :=
  let c := (c.modPyr fun y => { y with spans := (y.spans.filter fun x => x.h ≠ h) ++ [b] }).dropReq h boxTag
  c.modCtx h fun x => { x with spanId := span, role := role, state := if role = .member then .member else x.state }

/-- The group that a span is a member of is told the identifiers that the span stands for, in the furrow as it is or as it is to be (R22;
log 85). -/
def Furrow.tellGroup (c : Furrow) (f : FurrowIx) (span tag : W32) (after : Furrow) : Furrow :=
  match (c.parentOf span).bind c.bind? with
  | none => c
  | some b => (inPieces 1024 (idBytes (after.standsFor f b.h))).foldl (fun (c : Furrow) x =>
      c.route f { c.packet f Kind.spanJoin b.rootId c.ctx[b.h].spanId tag with addr := BitVec.ofNat 64 x.1, aux := 32, payload := x.2 }) c

/-- A binding that has not been made fails: members that recorded it forget it, and a group that had accepted it is told so (R22, R375). -/
def Run.joinFails (r : Run s₀) (f : FurrowIx) (q : Request) (span : W32) (xs : List TableEntry) : Run s₀ :=
  (r.modFur f fun c =>
    if q.stage = 2 then
      let c := xs.foldl (fun (c : Furrow) x => c.route f (c.joinPacket f x span q.tag 16)) c
      if opcodeOf q.desc = 0x92 then c.tellGroup f span q.tag c else c
    else c).engineEnds f q.h q.tag (spanInvalid 0xFF).ending

/-- CTX_BIND_SPAN (R373–R375): a member's binding waits for its root's join; a root's joins every entry of its table. -/
def execCtxBindSpan (f : FurrowIx) (h : Handle) (tag : Tag) (s : State) : Host.Outcome State Fault Refusal :=
  (match (s.furrow f).atWork h tag 0xFA with
   | none => Run.start s
   | some q =>
     let d := q.desc
     let r := Run.start s
     match opHandle d with
     | none => r.engineEnds f h tag (Refuse.operand 16).ending
     | some g =>
       if q.stage ≠ 0 then r
       else if bindRole d = 2 then
         (r.modFur f fun c => c.setBind g (bindSpan d) .member
           { h := g, entries := [], rootId := BitVec.ofNat 16 (df d 24 2), number := BitVec.ofNat 32 (df d 26 2), child := bindChild d
             lastBeat := c.ns, recorded := false, sentBeat := 0, pins := [], asking := [], asked := none }).engineEnds f h tag (Ending.ok 0 0)
       else
         let t := bindTable d
         match (s.furrow f).firstBad { q.eng f with h := g } [(2, t.off, 8 * bindEntries d)] with
         | some p => let x := r.readFault (q.eng f) p; x.1.engineEnds f h tag x.2
         | none =>
           let bs := r.load f g 0 2 t.off (8 * bindEntries d)
           let xs := tableEntries bs
           if !spanIdsOk ((s.furrow f).fabricId f :: xs.map fun (x : TableEntry) => x.id) then r.joinFails f q (bindSpan d) xs
           else r.modFur f fun c =>
             (c.modReq h tag fun q => { q with carried := bs }).join f q (bindSpan d) xs 0 1).done

/-! ### SPAN_SET_MEMBER (R378) -/

/-- NEW_ID in place of the entry it replaces, with the entry's flat numbers. -/
def Furrow.newEntry (c : Furrow) (h : Handle) (d : List Byte) : Option TableEntry :=
  ((c.memberTable h)[df d 16 2]?).map fun m => ⟨BitVec.ofNat 16 (df d 18 2), m.furrows.toNat, m.first.toNat⟩

/-- SPAN_SET_MEMBER (R378): the new furrow is asked to join. -/
def execSpanSetMember (f : FurrowIx) (h : Handle) (tag : Tag) (s : State) : Host.Outcome State Fault Refusal :=
  (match (s.furrow f).atWork h tag 0x92 with
   | none => Run.start s
   | some q =>
     match (s.furrow f).newEntry h q.desc with
     | none => (Run.start s).engineEnds f h tag (Refuse.operand 16).atStart.ending
     | some x =>
       if q.stage ≠ 0 then Run.start s
       else (Run.start s).modFur f fun c => c.join f q c.ctx[h].spanId [x] 0 1).done

/-! ### The joining furrow's side -/

/-- The member context that a join is for: bound to the span with this ROOT_ID and MEMBER (R375, step 2). -/
def Furrow.joining (c : Furrow) (p : Packet) : Option Handle :=
  (List.finRange 64).find? fun h => c.ctx[h].state = .member && c.ctx[h].role = .member && c.ctx[h].spanId = p.span &&
    (match c.bind? h with | some b => b.rootId = p.src && b.number = p.addr.extractLsb' 0 32 | none => false)

/-- FURROWS is 1, or matches the child span (R375, step 2). -/
def Furrow.furrowsMatch (c : Furrow) (h : Handle) (n : Nat) : Bool :=
  match c.bind? h with
  | none => false
  | some b => if b.child = 0 then decide (n = 1) else (c.childRoot h).isSome && decide (n = c.spanFurrows h)

/-- An answer to binding traffic. -/
def Furrow.joinAnswer (c : Furrow) (f : FurrowIx) (p : Packet) (aux : Nat) (off : Nat) (bs : List Byte) : Packet :=
  { c.packet f Kind.spanJoin p.src p.span p.tag with addr := BitVec.ofNat 64 off, aux := BitVec.ofNat 32 aux, payload := bs }

/-- The root context of a span whose member table holds an identifier. -/
def Furrow.rootOver (c : Furrow) (span : W32) (id : FabricId) : Option SpanBind :=
  ((List.finRange 64).find? fun h => c.ctx[h].role = .root && c.ctx[h].spanId = span && (c.memberTable h).any fun m => m.id = id).bind c.bind?

/-- The table of a root with a member standing for other furrows. -/
def SpanBind.standing (b : SpanBind) (id : FabricId) (ids : List (FabricId × W32)) : SpanBind :=
  { b with entries := b.entries.map fun m => if m.id = id then { m with stands := ids } else m }

/-- A group's root hears what a member's own span would stand for (R22): it checks every identifier of the group, asks the group above if
there is one, and answers. -/
def Furrow.regroup (c : Furrow) (f : FurrowIx) (p : Packet) : Furrow :=
  match c.rootOver p.span p.src with
  | none => c.route f (c.joinAnswer f p (2 + 4 + 32) 0 [])
  | some b =>
    let ps := b.asking ++ [p]
    match joinIds ps p.src with
    | none => c.modBind b.h fun b => { b with asking := ps }
    | some ids =>
      let c := c.modBind b.h fun b => { b with asking := b.asking.filter fun x => x.src ≠ p.src }
      let new := b.standing p.src ids
      if !spanIdsOk (c.fabricId f :: (new.entries.flatMap (·.stands)).map (·.1)) then c.route f (c.joinAnswer f p (2 + 4 + 32) 0 [])
      else if (c.parentOf p.span).isSome then
        let c' := (c.modBind b.h fun _ => new)
        (c.modBind b.h fun b => { b with asked := some (p.src, p.tag, ids) }).tellGroup f p.span p.tag c'
      else (c.modBind b.h fun b => b.standing p.src ids).route f (c.joinAnswer f p (2 + 32) 0 [])

/-- The group above has answered a group's root that asked it for a member: the change is made or not, and the member is told. -/
def Furrow.regrouped (c : Furrow) (f : FurrowIx) (p : Packet) : Furrow :=
  match c.pyr.spans.find? fun b => match b.asked with | some x => x.2.1 = p.tag && (c.parentOf c.ctx[b.h].spanId).any fun g => c.ctx[g].spanId = p.span | none => false with
  | none => c
  | some b =>
    match b.asked with
    | none => c
    | some x =>
      let c := c.modBind b.h fun b => { (if Join.refused p then b else b.standing x.1 x.2.2) with asked := none }
      c.route f { c.packet f Kind.spanJoin x.1 c.ctx[b.h].spanId x.2.1 with aux := BitVec.ofNat 32 (2 + 32 + 4 * bit (Join.refused p)) }

/-- SPAN_JOIN (R375): a member checks its binding and returns the identifiers of every furrow it stands for; at the root's word it
records the binding. -/
def execSpanJoin (f : FurrowIx) (p : Packet) (s : State) : Host.Outcome State Fault Refusal :=
  onPacket Kind.spanJoin f p s fun r => r.modFur f fun c =>
    if Join.isEnd p || Join.isAnswer p then c
    else if Join.regroups p then c.regroup f p
    else match c.joining p with
      | none => if Join.forgets p then c else c.route f (c.joinAnswer f p (2 + 4) 0 [])
      | some h =>
        if Join.forgets p then c.modBind h fun b => { b with recorded := false }
        else if Join.records p then
          (c.modBind h fun b => { b with recorded := true, lastBeat := c.ns }).route f (c.joinAnswer f p (2 + 8) 0 [])
        else if c.furrowsMatch h (p.addr.toNat / 2 ^ 32) then
          (inPieces 1024 (idBytes (c.standsFor f h))).foldl (fun (c : Furrow) x => c.route f (c.joinAnswer f p 2 x.1 x.2)) c
        else c.route f (c.joinAnswer f p (2 + 4) 0 [])

/-- SPAN_END (R24, R377): the root's context has ended, and the member context is torn down. -/
def execSpanEnd (f : FurrowIx) (p : Packet) (s : State) : Host.Outcome State Fault Refusal :=
  onPacket Kind.spanJoin f p s fun r =>
    let c := r.fur f
    if !Join.isEnd p then r
    else match (List.finRange 64).find? fun h => c.ctx[h].role = .member && c.ctx[h].spanId = p.span &&
        (match c.bind? h with | some b => b.rootId = p.src && b.recorded | none => false) with
      | none => r
      | some h => r.teardown f h .spanRootLost 0

/-! ### The root's side -/

/-- The span and the entries that a join request is about. -/
def Furrow.joinsFor (c : Furrow) (q : Request) : W32 × List TableEntry :=
  if opcodeOf q.desc = 0xFA then (bindSpan q.desc, tableEntries q.carried)
  else (c.ctx[q.h].spanId, (c.newEntry q.h q.desc).toList)

/-- The request that binding traffic of a span belongs to. -/
def Furrow.joinRequest (c : Furrow) (p : Packet) : Option Request :=
  c.reqs.find? fun q => q.tag = p.tag && q.phase = Phase.running && decide (q.stage ≠ 0) && (opcodeOf q.desc = 0xFA || opcodeOf q.desc = 0x92) &&
    ((c.joinsFor q).1 = p.span || decide (q.stage = 3) && Join.regroups p) && q.acks.contains p.src

/-- An entry of the root's table, joined. -/
def joinedEntry (now : W64) (contrib : List Packet) (x : TableEntry) : MemberEntry :=
  { id := x.id, furrows := BitVec.ofNat 32 x.furrows, first := BitVec.ofNat 32 x.first, lastEcho := now, lost := false
    stands := (joinIds contrib x.id).getD [] }

/-- The identifiers of a span with the members that have answered, to be checked in step 4 of R375. -/
def Furrow.joinedIds (c : Furrow) (f : FurrowIx) (q : Request) : List FabricId :=
  let fresh := (c.joinsFor q).2.flatMap fun x => ((joinIds q.contrib x.id).getD []).map (·.1)
  let kept := if opcodeOf q.desc = 0xFA then [] else
    (((c.memberTable q.h).eraseIdx (df q.desc 16 2)).flatMap fun m => m.stands).map (·.1)
  c.fabricId f :: (kept ++ fresh)

/-- The change that a SPAN_SET_MEMBER makes has passed its own span's check: a group that holds the span is asked, or the binding is
recorded (R22, R375). -/
def Furrow.askGroup (c : Furrow) (f : FurrowIx) (q : Request) : Furrow :=
  let x := c.joinsFor q
  match if opcodeOf q.desc = 0x92 then (c.parentOf x.1).bind c.bind? else none with
  | none => c.join f q x.1 x.2 8 2
  | some b =>
    let new := x.2.map (joinedEntry c.ns q.contrib)
    let c' := c.modBind q.h fun b => { b with entries := b.entries.zipIdx.map fun m => if m.2 = df q.desc 16 2 then new.headD m.1 else m.1 }
    (c.tellGroup f x.1 q.tag c').modReq q.h q.tag fun q => { q with acks := [b.rootId], stage := 3, waitNs := some c.ns }

/-- Every member has recorded the binding, and the root records its own. -/
def Run.joined (r : Run s₀) (f : FurrowIx) (q : Request) : Run s₀ :=
  let c := r.fur f
  let x := c.joinsFor q
  let new := x.2.map (joinedEntry c.ns q.contrib)
  if opcodeOf q.desc = 0xFA then
    match (opHandle q.desc).filter fun g => c.ctx[g].state = .ready && c.ctx[g].role = .none with
    | none => r.joinFails f q x.1 x.2
    | some g =>
      (r.modFur f fun c => c.setBind g x.1 .root
        { h := g, entries := new, rootId := 0, number := 0, child := 0, lastBeat := c.ns, recorded := true, sentBeat := c.ns, pins := [], asking := [], asked := none }).engineEnds
        f q.h q.tag (Ending.ok 0 0)
  else
    (r.modFur f fun c => c.modBind q.h fun b =>
      { b with entries := b.entries.zipIdx.map fun m => if m.2 = df q.desc 16 2 then new.headD m.1 else m.1 }).engineEnds f q.h q.tag
      (Ending.ok (satCount (c.spanFurrows q.h)) (df q.desc 18 2))

/-- SPAN_JOIN_REPLY (R375): the root collects the answers; once all are there it checks them and has the binding recorded. -/
def execSpanJoinReply (f : FurrowIx) (p : Packet) (s : State) : Host.Outcome State Fault Refusal :=
  onPacket Kind.spanJoin f p s fun r =>
    if !Join.isAnswer p || Join.isEnd p then r
    else match (r.fur f).joinRequest p with
      | none => if Join.regroups p then r.modFur f fun c => c.regrouped f p else r
      | some q =>
        let x := (r.fur f).joinsFor q
        if Join.refused p then r.joinFails f q x.1 x.2
        else if q.stage = 3 then if Join.regroups p then r.modFur f fun c => c.join f q x.1 x.2 8 2 else r
        else if q.stage = 2 then
          if !Join.records p then r
          else
            let r := r.modFur f fun c => c.modReq q.h q.tag fun q => { q with acks := q.acks.erase p.src }
            match (r.fur f).request? q.h q.tag with
            | some q => if q.acks.isEmpty then r.joined f q else r
            | none => r
        else
          let r := r.modFur f fun c => c.modReq q.h q.tag fun q =>
            let contrib := q.contrib ++ [p]
            { q with contrib := contrib, acks := if (joinIds contrib p.src).isSome then q.acks.erase p.src else q.acks }
          match (r.fur f).request? q.h q.tag with
          | some q =>
            if !q.acks.isEmpty then r
            else if spanIdsOk ((r.fur f).joinedIds f q) then r.modFur f fun c => c.askGroup f q
            else r.joinFails f q x.1 x.2
          | none => r

/-- SPAN_JOIN_TIMEOUT (R375): an entry has not answered within 10 ms. -/
def execSpanJoinTimeout (f : FurrowIx) (h : Handle) (tag : Tag) (s : State) : Host.Outcome State Fault Refusal :=
  (match (s.furrow f).request? h tag with
   | none => Run.start s
   | some q =>
     let c := s.furrow f
     if q.phase = Phase.running ∧ (opcodeOf q.desc = 0xFA ∨ opcodeOf q.desc = 0x92) ∧ q.stage ≠ 0 ∧ q.acks ≠ [] ∧
         10000000 ≤ elapsed c.ns (q.waitNs.getD c.ns) then
       (Run.start s).joinFails f q (c.joinsFor q).1 (c.joinsFor q).2
     else Run.start s).done

end Sys2Proof.Machine
end

