-- ==== Sys2Proof/Machine/Opcodes.lean ====
section
/-! DEFINITION. The opcode table of the descriptors (Table 02-17): for each opcode its checks at fetch and at start (R476), its
estimate (R82), what a span's root carries with it (R376), and what begins with its start. -/

namespace Sys2Proof.Machine

variable {s₀ : State}

/-- The opcode of a request's present descriptor, as a number. -/
def Request.op (q : Request) : Nat := (opcodeOf q.desc).toNat

/-- An opcode that acts on every member of a span, with its operands in each member context (R20); every other one runs on the root
furrow alone: text and grammar (R239), an update's shard operations that R191 and R212 keep off a span, and control descriptors but BARRIER (R68; log 81). -/
def spanWide (op : Nat) : Bool :=
  [0x10, 0x11, 0x12, 0x13, 0x14, 0x15, 0x20, 0x21, 0x22, 0x23, 0x24, 0x25, 0x26, 0x27, 0x30, 0x31, 0x38, 0x39, 0x3A, 0x3B, 0x41, 0x50, 0x51,
   0x58, 0x59, 0x5A, 0x60, 0x61, 0x62, 0x63, 0x64, 0x65, 0x66, 0x70, 0x71, 0x72, 0x73, 0x80, 0x90, 0x91, 0xF2].contains op

/-- An opcode that a root forwards to the one member that owns the shard's slot (R191). -/
def forwarded (op : Nat) : Bool := [0x38, 0x39, 0x3A, 0x3B].contains op

/-- The byte that SHARD of a forwarded opcode begins at. -/
def shardOffset (op : Nat) : Nat := if op = 0x3B then 16 else 24

/-- This furrow owns the slot of a forwarded opcode (R191). -/
def Furrow.ownsSlot (c : Furrow) (q : Request) : Bool :=
  if q.op = 0x3B then (c.slotNamed q.h (df q.desc 16 2) (decide (q.h = 0))).isSome
  else (c.slotNamed q.h (UpdDesc.of q.desc).shard false).isSome

/-- Bytes of the items of an update for the slot that this furrow owns. -/
def Furrow.itemBytes (c : Furrow) (q : Request) : Nat :=
  if q.op = 0x3B then 0
  else match c.slotNamed q.h (UpdDesc.of q.desc).shard false with
    | some i => (UpdDesc.of q.desc).bytes c.srch[i]
    | none => 0

/-- The checks of a descriptor at fetch, with its opcode (R476, Table 02-19). -/
def fetchOp (c : Furrow) (h : Handle) (d : List Byte) : Option Refuse :=
  match (opcodeOf d).toNat with
  | 0x10 => fetchMove c h d
  | 0x11 => fetchMoveList c h d
  | 0x12 => fetchTierAttach c h d
  | 0x13 | 0x14 | 0x15 => fetchTier (opcodeOf d).toNat d
  | 0x20 | 0x21 => fetchMatmul c h d
  | 0x22 | 0x23 | 0x24 | 0x25 | 0x26 | 0x27 => fetchVector c h d
  | 0x30 => fetchSearch c h d
  | 0x31 => fetchHammingScan c h d
  | 0x38 | 0x39 | 0x3A => fetchUpdate c h d
  | 0x3B => fetchMerge d
  | 0x3C => fetchShardRestore d
  | 0x40 => fetchWnwSelect c h d
  | 0x41 => fetchWnwMerge c h d
  | 0x50 => fetchTxtLoad c h d
  | 0x51 => fetchTxtUnload d
  | 0x52 | 0x53 => fetchText c h d
  | 0x54 | 0x55 | 0x56 => fetchGram c h d
  | 0x58 => fetchCandFetch c h d
  | 0x59 => fetchRrFuse c h d
  | 0x5A => fetchPack c h d
  | 0x60 => fetchGenPlanLoad c h d
  | 0x61 => fetchGenPlanUnload d
  | 0x62 => fetchGenCacheInit c h d
  | 0x63 => fetchGenerate c h d
  | 0x64 | 0x65 | 0x66 => fetchGenPause c h d
  | 0x68 => some (.operand 0)
  | 0x70 | 0x71 => fetchTblRows c h d
  | 0x72 => fetchTblSwitch d
  | 0x73 => fetchTblMigrate d
  | 0x80 => fetchGrnDiscard c h d
  | 0x81 => fetchGrnFormat h d
  | 0x82 => fetchGrnReclaim h d
  | 0x90 => fetchAllReduce c h d
  | 0x91 => fetchAllGather c h d (c.spanFurrows h)
  | 0x92 => fetchSpanSetMember d
  | 0xF0 | 0xF1 | 0xF2 => fetchControl (opcodeOf d).toNat d
  | 0xF8 => fetchCtxCreate h d
  | 0xF9 => fetchCtxSetShares h d
  | 0xFA => fetchCtxBindSpan h d
  | 0xFB => fetchCtxPairFallback h d
  | 0xFC | 0xFD => fetchCtxHandleOnly h d
  | _ => some ⟨Reason.unknownOpcode, 0, never⟩

/-- The checks of a request's present descriptor when it starts, on this furrow (R476). -/
def startOp (r : Run s₀) (f : FurrowIx) (q : Request) : Option Refuse :=
  let c := r.fur f
  let e := q.eng f
  let d := q.desc
  match q.op with
  | 0x10 => startMove r f q
  | 0x11 => startMoveList r f q
  | 0x12 => startTierAttach r f q
  | 0x13 | 0x14 | 0x15 => startTier r f q
  | 0x30 => startSearch r e q
  | 0x38 | 0x39 | 0x3A => startUpdate r e q
  | 0x3B => startMerge c q.h q
  | 0x3C => startShardRestore c q.h d
  | 0x40 => startWnwSelect c q.h
  | 0x41 => startWnwMerge c q.h q
  | 0x50 => startTxtLoad r e d
  | 0x51 => startTxtUnload c q.h d
  | 0x52 | 0x53 => startText r e d
  | 0x54 | 0x55 | 0x56 => startGram r e d
  | 0x58 => startCandFetch r e q
  | 0x59 => startRrFuse c q
  | 0x5A => startPack r e q
  | 0x60 => startGenPlanLoad r f q
  | 0x61 => startGenPlanUnload c q.h d
  | 0x62 => startGenCacheInit r f q
  | 0x63 => startGenerate r f q
  | 0x64 | 0x65 | 0x66 => startGenPause r f q
  | 0x70 | 0x71 => startTblRows c q
  | 0x72 => startTblSwitch c q.h d
  | 0x73 => startTblMigrate c q.h d
  | 0x80 => startGrnDiscard c q
  | 0x81 => startGrnFormat c d
  | 0x82 => startGrnReclaim c d
  | 0x92 => startSpanSetMember c q.h d
  | 0xF8 => startCtxCreate c d
  | 0xF9 => startCtxSetShares c d
  | 0xFD => goneHandle c d
  | 0xFA => startCtxBindSpan c d
  | 0xFB => startCtxPairFallback c d
  | 0xFC => startCtxRecover c d
  | _ => none

/-- The hint of a check that fails at a start (R476); the five operations of R75 keep theirs. -/
def startRefusal (op : Nat) (x : Refuse) : Refuse := if 0xF9 ≤ op then x else x.atStart

/-- The checks that a span's member makes of a descriptor its root forwards (R174): those at start, and those at fetch whose operands
lie in the member's own context. -/
def memberCheck (r : Run s₀) (f : FurrowIx) (q : Request) : Option Refuse :=
  let c := r.fur f
  let own := match q.op with
    | 0x20 | 0x21 | 0x22 | 0x23 | 0x24 | 0x25 | 0x26 | 0x27 | 0x31 | 0x50 | 0x51 | 0x60 | 0x61 | 0x62 | 0x64 | 0x65 | 0x66 | 0x90 =>
        fetchOp c q.h q.desc
    | 0x91 => fetchAllGather c q.h q.desc (c.furrowsOf q)
    | _ => none
  firstFail [own, startOp r f q]

/-- The estimate of a request's present descriptor (R82). -/
def costOp (r : Run s₀) (f : FurrowIx) (q : Request) : Cost :=
  let c := r.fur f
  let e := q.eng f
  let d := q.desc
  match q.op with
  | 0x10 => costMove d
  | 0x11 => costMoveList r f q
  | 0x12 | 0x13 | 0x14 | 0x15 => costTier r f q
  | 0x20 | 0x21 => costMatmul c d
  | 0x22 | 0x23 | 0x24 | 0x25 | 0x26 | 0x27 => costVector c d
  | 0x30 => costSearch c q.h d
  | 0x31 => costHammingScan c d
  | 0x38 | 0x39 | 0x3A => costUpdate d
  | 0x3B | 0x3C | 0x60 | 0x81 | 0x82 | 0x92 => .quantum
  | 0x40 => costWnwSelect c d
  | 0x41 => costWnwMerge c q.h d
  | 0x50 => costTxtLoad r e d
  | 0x51 => .flat (cyclesNs 64)
  | 0x52 | 0x53 => costText r e d
  | 0x54 | 0x55 | 0x56 => costGram r e d
  | 0x58 => costCandFetch c q.h d
  | 0x59 => costRrFuse d
  | 0x5A => costPack d
  | 0x61 => .flat 1000
  | 0x62 => costGenCacheInit r f q.h d
  | 0x63 => costGenerate r f q.h d
  | 0x64 | 0x65 | 0x66 => costGenPause r f q.h d
  | 0x70 | 0x71 => costTblRows c q.h d
  | 0x72 => costTblSwitch c q.h d
  | 0x73 => .flat 5000
  | 0x80 => costGrnDiscard d
  | 0x90 => costAllReduce d (c.spanFurrows q.h)
  | 0x91 => costAllGather d (c.spanFurrows q.h)
  | _ => .flat 0

/-- The operands that the root of a span carries with its present descriptor (R376). -/
def Run.carryOp (r : Run s₀) (f : FurrowIx) (q : Request) : List Byte :=
  let c := r.fur f
  let e := q.eng f
  match q.op with
  | 0x10 | 0x11 => r.carryMoves f q
  | 0x12 | 0x13 | 0x14 | 0x15 => idBytes (c.standsFor f q.h)
  | 0x30 => carrySearch r e q
  | 0x38 | 0x39 | 0x3A => r.carryUpdate e q.desc
  | 0x58 => carryCandFetch r e q
  | 0x59 => carryRrFuse c q.h
  | 0x5A => carryPack r e q.desc
  | 0x60 => idBytes (c.standsFor f q.h)
  | 0x64 | 0x65 | 0x66 => r.carryPause f q
  | 0x90 | 0x91 => c.carryCount q
  | _ => []

/-- The walks, keys or rows of a descriptor, by which an engine that several requests share is divided (R81). -/
def Furrow.weightFor (c : Furrow) (q : Request) : Nat :=
  let d := q.desc
  max 1 (match q.op with
    | 0x20 | 0x21 => (MatDesc.of d).m
    | 0x30 => (c.slotsFor q.h (SearchDesc.of d).shard).length
    | 0x31 => (ScanDesc.of d).n
    | 0x40 => (SelDesc.of d).n
    | 0x70 | 0x71 => df d 32 3
    | _ => 1)

/-- The cores of a descriptor's SCOPE that are in service: the one it runs on, those of a cluster, all (Table 05-9). -/
def Furrow.coresOf (c : Furrow) (q : Request) (n : CoreIx) : List CoreIx :=
  match scopeOf q.desc with
  | some (scope, cl) => if scope = 0 then [n] else (scopeCores scope cl).filter fun k => c.placeUp (.core k)
  | none => [n]

/-- The engines that a descriptor occupies from its start (R81): every instance of its SCOPE (R136); a search's Hamming units are those of
its walk's cluster, over which its side-list scans are split (R165); a matrix descriptor that a copy into the weight window goes with has
MOVE too (R329). -/
def Furrow.usesFor (c : Furrow) (q : Request) : List EngUse :=
  let w := c.weightFor q
  let copies := match q.following with
    | some n => opcodeOf n = opcodeOf q.desc && streamsW q.desc && streamsW n && !(c.windowPlan q.h q.tag 0 n).isEmpty
    | none => false
  (if copies then [⟨.move, 0, 1⟩] else []) ++ (opClasses q.op).flatMap fun k =>
    match k, q.place with
    | .move, _ => [⟨.move, 0, w⟩]
    | .text, some (.text t) => [⟨.text, t.val, w⟩]
    | .text, _ => []
    | k, some (.core n) =>
      (if q.op = 0x30 ∧ k = .hamming then (scopeCores 1 (n.val / 8)).filter fun m => c.placeUp (.core m) else c.coresOf q n).map fun m =>
        ⟨k, m.val, w⟩
    | _, _ => []

/-- A descriptor begins its work on this furrow: views, versions, merges, moves, a format or a reclaim. -/
def Run.armOp (r : Run s₀) (f : FurrowIx) (q : Request) : Run s₀ :=
  let d := q.desc
  match q.op with
  | 0x10 | 0x11 => r.armMoves f q
  | 0x30 => (r.modFur f fun c => c.takeViews q).fillRooms f q.h q.tag
  | 0x38 | 0x39 | 0x3A => r.modFur f fun c =>
      match c.slotNamed q.h (UpdDesc.of d).shard false with | some i => c.useSlot i q | none => c
  | 0x3B => (r.modFur f fun c => c.armMerge q).fillRooms f q.h q.tag
  | 0x58 => r.armCands f q
  | 0x70 | 0x71 => r.modFur f fun c => c.takeVersion q
  | 0x81 => r.modFur f fun c => c.beginFormat q.h q.tag d
  | 0x82 => r.modFur f fun c => c.beginReclaim q.h q.tag d
  | _ => r

/-- The segments that a descriptor on an attached object writes into a local copy or home. -/
def Run.tierOuts (r : Run s₀) (f : FurrowIx) (q : Request) : List (Nat × Nat × Nat × Nat) :=
  let c := r.fur f
  let d := q.desc
  match if tierMember d = c.flatNumber q then c.object? q.h (df d 16 2) else none with
  | none => []
  | some a =>
    let o := r.objAt f q.h a.record.toNat
    let x := o.covered d
    let dst := (if writesBack d then o.home else o.copy).spot (c.flatNumber q) (c.spanIds f q)
    let all := (List.range (x.2 - x.1)).map (x.1 + ·)
    let js := if writesBack d then all.filter (r.isDirty f a)
      else if (df d 18 1).testBit 0 then all else all.filter fun j => !r.isDirty f a j
    if dst.tier < 3 then js.map fun j => (dst.core, dst.tier, dst.off + j * hbmUnit, o.segLen j) else []

/-- What a descriptor writes on this furrow, and leaves undefined when it is cut off (R89, Tables 05-10 to 16-9). Objects that change
at a switch, and Granary blocks, are not among it. -/
def Run.outsOf (r : Run s₀) (f : FurrowIx) (q : Request) : List (Nat × Nat × Nat × Nat) :=
  let c := r.fur f
  let e := q.eng f
  let d := q.desc
  let at_ := fun (x : Extent) => (e.core, x.1, x.2.1, x.2.2)
  let own := c.flatNumber q
  let share := ceilDiv (df d 48 2) (max 1 (c.partFurrows q))
  match q.op with
  | 0x10 | 0x11 => ((r.movesOf f q).filter fun m => decide ((m.dst.member = own ∧ m.dst.tier < 3) ∨ (m.executor = own ∧ m.dst.tier = 5))).map
      fun m => (m.dst.core, m.dst.tier, m.dst.addr, m.len)
  | 0x13 | 0x14 => r.tierOuts f q
  | 0x15 => if writesBack d then r.tierOuts f q else []
  | 0x20 | 0x21 => let a := MatDesc.of d; (a.ty.extents a.batch).map at_
  | 0x22 | 0x23 | 0x24 | 0x25 | 0x26 | 0x27 => ((VecDesc.of d).ty.extents 1).map at_
  | 0x30 =>
    let a := SearchDesc.of d
    let n := ((List.finRange 8).filter fun t => c.srch[t].views.any fun v => v.h = q.h && v.tag = q.tag && !v.merge).length
    [at_ (2, a.out.off, n * areaBytes a.k)]
  | 0x31 => let a := ScanDesc.of d; [at_ (a.out.tier, a.out.off, 4 * a.n)]
  | 0x40 => let a := SelDesc.of d; [at_ (a.out.tier, a.out.off, a.outBytes)]
  | 0x41 =>
    let a := MergeDesc.of d
    if q.origin.isSome then [] else
      [at_ (a.out.tier, a.out.off, resultBytes a.k 16), at_ (a.work.tier, a.work.off, a.workBytes (c.spanFurrows q.h))]
  | 0x52 | 0x53 => let a := TextDesc.of d; [at_ (a.out.tier, a.out.off, a.outBytes)]
  | 0x55 =>
    let g := r.gramDef e (r.instGram e (tref d 16))
    [at_ ((tref d 32).tier, (tref d 32).off, g.maskBytes * (df d 40 1 + 1))]
  | 0x58 => [at_ (2, (tref d 24).off, 8192 * share)]
  | 0x59 =>
    let s := ceilDiv (df d 44 2) (max 1 (c.partFurrows q))
    [at_ (2, (tref d 16).off, 8192 * s), at_ (2, (tref d 24).off, 64 + 16 * s)]
  | 0x5A => if q.origin.isSome then [] else [at_ ((tref d 40).tier, (tref d 40).off, packOut d)]
  | 0x70 => if q.origin.isSome then [] else match c.table? q.h (df d 36 1) with
      | some i => [at_ (c.tbl[i].outExtent d)]
      | none => []
  | 0x90 => [at_ (reduceBuf d)]
  | 0x91 => [at_ ((tref d 24).tier, (tref d 24).off, c.furrowsOf q * df d 32 4)]
  | _ => []

/-- What a descriptor writes into operand memory on this furrow, its stream, grammar instance or cache included (R262, R285). -/
def Run.writesOf (r : Run s₀) (f : FurrowIx) (q : Request) : List Extent :=
  let d := q.desc
  ((r.outsOf f q).map fun x => (x.2 : Extent)) ++ match q.op with
    | 0x52 | 0x53 => let a := TextDesc.of d; if a.strmEn then [(a.strm.tier, a.strm.off, a.strmBytes)] else []
    | 0x54 => [((tref d 24).tier, (tref d 24).off, instBytes)]
    | 0x56 => [((tref d 16).tier, (tref d 16).off, instBytes)]
    | _ => []

/-- The memory from which a descriptor's estimate takes a value (R178, R262, R288, R331). -/
def Run.costExtents (r : Run s₀) (f : FurrowIx) (q : Request) : List Extent :=
  let d := q.desc
  let e := q.eng f
  let at_ := fun (t : TRef) (n : Nat) => ((t.tier, t.off, n) : Extent)
  match q.op with
  | 0x11 => [at_ (tref d 16) (48 * df d 24 2)]
  | 0x13 | 0x14 | 0x15 => match (r.fur f).object? q.h (df d 16 2) with | some a => [(2, a.record.toNat, 64)] | none => []
  | 0x50 => [at_ (tref d 16) 64]
  | 0x52 => let a := TextDesc.of d; if a.strmEn then [at_ a.strm a.strmBytes] else []
  | 0x54 => [at_ (tref d 16) 64]
  | 0x55 | 0x56 => [at_ (tref d 16) instBytes, at_ (r.instGram e (tref d 16)) 64]
  | 0x63 => [at_ (tref d 40) 64]
  | 0x64 => [at_ (tref d 16) 64]
  | _ => []

/-- An opcode makes or changes the registers or objects from which another's estimate takes a value. -/
def costMaker (op maker : Nat) : Bool :=
  match op with
  | 0x13 | 0x14 | 0x15 => maker = 0x12 || maker = 0x15
  | 0x30 => [0x38, 0x39, 0x3A, 0x3B, 0x3C].contains maker
  | 0x62 => maker = 0x60 || maker = 0x61
  | 0x63 => maker = 0x60 || maker = 0x61
  | 0x64 => [0x62, 0x63, 0x65].contains maker
  | 0x65 => [0x10, 0x11, 0x64, 0x66].contains maker
  | _ => false

/-- An estimate of a later descriptor of a run needs a value that an earlier one of the run makes (R82; log 39). -/
def Run.costWaits (r : Run s₀) (f : FurrowIx) (q : Request) : Bool :=
  let xs := r.costExtents f q
  (List.range q.idx).any fun i =>
    let p := { q with idx := i }
    costMaker q.op p.op || (r.writesOf f p).any fun y => xs.any fun x => x.1 = y.1 && overlaps x.2.1 x.2.2 y.2.1 y.2.2

/-- The work of a descriptor begins: its engines are charged from now on, and its part on this furrow may run. -/
def Run.beginWork (r : Run s₀) (f : FurrowIx) (q : Request) : Run s₀ :=
  let r := (r.modFur f fun c => c.modReq q.h q.tag fun q => { q with uses := c.usesFor q, keyNs := c.keyPassNs q, gone := true }).armOp f q
  let xs := r.outsOf f q
  r.modFur f fun c => c.modReq q.h q.tag fun q => { q with outs := xs }

end Sys2Proof.Machine
end

