-- ==== Sys2Proof/Machine/Spans.lean ====
section
/-! DEFINITION. How a span acts as one furrow (R23, R24, R174, R371, R376, R377): descriptors carried to members with their
acknowledgements, GO and final statuses; cancels; beats; and furrows that are lost or cannot be reached. -/

namespace Sys2Proof.Machine

variable {s₀ : State}

/-! ### Carrying a descriptor (R174, R376; log 35) -/

/-- A part's descriptor is the first of its run. -/
def Request.opensRun (q : Request) : Bool := if q.origin.isSome then q.first = 1 else decide (q.idx = 0)

/-- AUX of a SPAN_DESC: GO, the first descriptor of a run, and the flat number of the sender (log 35). -/
def Furrow.descAux (c : Furrow) (q : Request) (go : Bool) : W32 :=
  BitVec.ofNat 32 (bit go + 2 * bit q.opensRun + 2 ^ 16 * c.flatNumber q)

/-- Carried operands in pieces of 960 bytes: the last one is shorter. -/
def carryPieces (bs : List Byte) : List (Nat × List Byte) :=
  inPieces 960 bs ++ if bs.isEmpty ∨ bs.length % 960 ≠ 0 then [] else [(bs.length, [])]

/-- A SPAN_DESC of a request to a direct member below it. -/
def Furrow.descPacket (c : Furrow) (f : FurrowIx) (q : Request) (go : Bool) (m : FabricId) (x : Nat × List Byte) : Packet :=
  { c.packet f Kind.spanDesc m (c.below q.h).1 q.tag with
    addr := BitVec.ofNat 64 x.1, aux := c.descAux q go, payload := bytesAt q.desc 0 64 ++ x.2 }

/-- The direct members that a request's descriptor goes to; a BARRIER passes over those that are lost (R68; log 81). -/
def Furrow.asks (c : Furrow) (q : Request) : List MemberEntry := (c.below q.h).2.filter fun m => q.op != 0xF2 || !m.lost

/-- Carry a request's descriptor to every direct member, and wait for their acknowledgements. -/
def Furrow.sendDesc (c : Furrow) (f : FurrowIx) (q : Request) : Furrow :=
  let ids := (c.asks q).map (·.id)
  (ids.foldl (fun (c : Furrow) m => (carryPieces q.carried).foldl (fun (c : Furrow) x => c.route f (c.descPacket f q false m x)) c) c).modReq
    q.h q.tag fun q => { q with acks := ids, dones := ids, memberEnds := [], waitNs := some c.ns }

/-- GO to the members that have a part. -/
def Furrow.sendGo (c : Furrow) (f : FurrowIx) (q : Request) : Furrow :=
  (q.dones.foldl (fun (c : Furrow) m => c.route f (c.descPacket f q true m (0, []))) c).modReq q.h q.tag fun q =>
    { q with goSent := true, gone := true, memberEnds := [], waitNs := none }

/-- This furrow carries out a part of the descriptor itself: any, but a forwarded one only where the slot is. -/
def Furrow.hasPart (c : Furrow) (q : Request) : Bool := !forwarded q.op || c.ownsSlot q

/-- A part that the furrow does not carry out itself: a MERGE elsewhere is over at once, an update's return is awaited (R191). -/
def Run.beginRelay (r : Run s₀) (f : FurrowIx) (q : Request) : Run s₀ :=
  if q.op = 0x3B then r.engineEnds f q.h q.tag (Ending.ok 0 0)
  else r.modFur f fun c => c.modReq q.h q.tag fun q => { q with phase := .running, uses := [] }

/-! ### Acknowledgements -/

/-- A member's answer to a check: REFUSED with its reason, or DONE; COUNT holds how many furrows there own the slot of a forwarded
opcode, RESULT the bytes of its items. -/
def ackEnding (p : Packet) : Ending :=
  let a := p.aux.toNat
  let e := Ending.ok (bitsOf p.addr.toNat 31 0) (p.addr.toNat / 2 ^ 32)
  if a % 256 = 0 then e
  else { e with status := Status.refused, detail := BitVec.ofNat 64 (refuseDetail (a % 256) (a / 256) (if a.testBit 16 then never else 0)) }

/-- The SPAN_ACK of a part: reason and offset of a failed check, with the count and size for a forwarded opcode (log 35). -/
def Furrow.ackPacket (c : Furrow) (f : FurrowIx) (q : Request) (x : Option Refuse) (holders bytes : Nat) : List Packet :=
  match q.origin with
  | none => []
  | some (root, tag) =>
    [{ c.packet f Kind.spanAck root c.ctx[q.h].spanId tag with
       addr := BitVec.ofNat 64 (holders + 2 ^ 32 * bytes)
       aux := match x with
         | none => 0
         | some y => BitVec.ofNat 32 (y.reason % 256 + 256 * (y.off % 256) + 2 ^ 16 * bit (decide (y.retry % 2 ^ 32 = never) && decide (y.retry ≠ never))) }]

/-- A part acknowledges; one that has failed its check, or has nothing to do, is gone. -/
def Furrow.ack (c : Furrow) (f : FurrowIx) (q : Request) (x : Option Refuse) (holders bytes : Nat) (keep : Bool) : Furrow :=
  let c := (c.ackPacket f q x holders bytes).foldl (fun (c : Furrow) p => c.route f p) c
  if keep then c else c.dropReq q.h q.tag

/-- The outcome of all checks of a request: how many furrows own the slot, the bytes of its items (of a CAND_FETCH the DIM of its stores), and the failure (R174, R191, R236). -/
structure AckSum where
  holders : Nat
  bytes   : Nat
  fail    : Option Refuse

/-- The sum over a furrow's own check and the answers from below. -/
def Run.ackSum (r : Run s₀) (f : FurrowIx) (q : Request) : AckSum :=
  let c := r.fur f
  let refusal := fun (e : Ending) => (⟨e.detail.toNat % 256, e.detail.toNat / 256 % 256, if e.detail.toNat / 2 ^ 32 = never then neverKept else 0⟩ : Refuse)
  if !forwarded q.op then
    let dims := if q.op = 0x58 then r.candDims (q.eng f) q (q.memberEnds.map fun m => m.2.result.toNat) else (0, none)
    ⟨0, dims.1, firstFail [(q.memberEnds.find? fun m => m.2.status = Status.refused).map fun m => refusal m.2, dims.2]⟩
  else
    let own := c.ownsSlot q
    let n := bit own + sumOf (q.memberEnds.map fun m => m.2.count.toNat)
    let bytes := (if own then c.itemBytes q else 0) + sumOf (q.memberEnds.map fun m => m.2.result.toNat)
    let fail := if n ≠ 1 then some (Refuse.operand (shardOffset q.op))
      else if own then (if q.origin.isSome then memberCheck r f q else startOp r f q)
      else (q.memberEnds.find? fun m => m.2.count ≠ 0 && m.2.status = Status.refused).map fun m => refusal m.2
    ⟨n, bytes, fail⟩

/-- Some answer tells of a furrow that is lost or of a part that has ended already. -/
def Request.lostEnd (q : Request) : Option Ending :=
  (q.memberEnds.find? fun m => m.2.status ≠ Status.done && m.2.status ≠ Status.doneShort && m.2.status ≠ Status.refused).map (·.2)

/-- A part that has not begun ends with a status that is no refusal: SPAN_DONE tells its root. -/
def Run.partEnds (r : Run s₀) (f : FurrowIx) (q : Request) (e : Ending) : Run s₀ :=
  r.modFur f fun c => (c.cancelMembers f q).finish f q.h q.tag e

/-- Every direct member has acknowledged: the request is refused, or goes on (R174). -/
def Run.allAcked (r : Run s₀) (f : FurrowIx) (q : Request) : Run s₀ :=
  match q.lostEnd with
  | some e => if q.origin.isSome then r.partEnds f q e else r.partFails f q.h q.tag e
  | none =>
    let x := r.ackSum f q
    if q.origin.isSome then
      r.modFur f fun c =>
        match x.fail with
        | some y => (c.cancelMembers f q).ack f q (some y) x.holders x.bytes false
        | none => c.ack f q none x.holders x.bytes true
    else
      match x.fail with
      | some y => r.partFails f q.h q.tag (startRefusal q.op y).ending
      | none =>
        let own := (r.fur f).hasPart q
        let a := UpdDesc.of q.desc
        match if own then none else (r.fur f).firstBad (q.eng f) [(a.items.tier, a.items.off, x.bytes)] with
        | some p => let y := r.readFault (q.eng f) p; y.1.partFails f q.h q.tag y.2
        | none =>
          let r := r.modFur f fun c => c.sendGo f q
          if own then r.beginWork f q else r.beginRelay f q

/-! ### SPAN_DESC at a member -/

/-- The operands that pieces of a SPAN_DESC make up, once all are there. -/
def carriedOf (ps : List Packet) : Option (List Byte) :=
  match ps.find? fun p => decide (p.payload.length < 1024) with
  | none => none
  | some last =>
    let parts := (List.range (last.addr.toNat / 960 + 1)).map fun i => ps.find? fun p => p.addr.toNat = 960 * i
    if parts.all (·.isSome) then some (parts.flatMap fun p => match p with | some p => p.payload.drop 64 | none => []) else none

/-- The pins that a run has made on this furrow with its earlier descriptors (R475). -/
def Furrow.pinsOf (c : Furrow) (h : Handle) (tag : Tag) : List (ClusterIx × Fin 8) :=
  match c.bind? h with
  | some b => ((b.pins.find? fun x => x.1 = tag).map (·.2)).getD []
  | none => []

/-- A part as its first piece arrives. -/
def Furrow.newPart (c : Furrow) (h : Handle) (p : Packet) : Request :=
  let first := p.aux.getLsbD 1
  { Request.fresh h p.tag c.order (BitVec.ofNat 32 (bit first)) (bytesAt p.payload 0 64) c.ns with
    phase := .partRun, origin := some (p.src, p.tag), base := p.aux.toNat / 2 ^ 16, pinned := if first then [] else c.pinsOf h p.tag }

/-- A part has its descriptor and operands: it makes its check, and asks the members below it for theirs (R83, R174, R376). -/
def Run.checkPart (r : Run s₀) (f : FurrowIx) (q : Request) : Run s₀ :=
  let own := memberCheck r f q
  let r := if q.op = 0x50 && own.isSome then r.noteLoad (q.eng f) q.desc else r
  let cost := costOp r f q
  let q := { q with estimate := cost.ns, estClass := (opClasses q.op).headD .move }
  let r := r.modFur f fun c => c.modReq q.h q.tag fun _ => q
  r.modFur f fun c =>
    if own.isSome && !forwarded q.op then c.ack f q own 0 0 false
    else if (c.asks q).isEmpty then
      if !forwarded q.op then c.ack f q none 0 (if q.op = 0x58 then r.candDimHere (q.eng f) q else 0) true
      else if c.ownsSlot q then c.ack f q own 1 (c.itemBytes q) own.isNone
      else c.ack f q (some (.operand (shardOffset q.op))) 0 0 false
    else c.sendDesc f q

/-- The member context that a span's packet from its root is for. -/
def Furrow.memberFor (c : Furrow) (p : Packet) : Option Handle :=
  (c.boundTo p.span).filter fun h => c.ctx[h].role = .member && (match c.bind? h with | some b => b.rootId = p.src && b.recorded | none => false)

/-- SPAN_DESC (R376): a member collects the descriptor, checks it and acknowledges; on GO its part may start. -/
def execSpanDesc (f : FurrowIx) (p : Packet) (s : State) : Host.Outcome State Fault Refusal :=
  onPacket Kind.spanDesc f p s fun r =>
    let c := r.fur f
    match c.memberFor p with
    | none => r.modFur f fun c => c.denies f p
    | some h =>
      match p.aux.getLsbD 0, c.request? h p.tag with
      | true, some q =>
        if q.phase = .queued ∧ !q.gone ∧ q.acks = [] then
          let r := r.modFur f fun c => c.sendGo f q
          if c.hasPart q then r else r.beginRelay f q
        else r
      | true, none => r
      | false, old =>
        let r := match old with
          | some q => if q.phase = Phase.partRun then r.modFur f fun c => c.modReq h p.tag fun q => { q with contrib := q.contrib ++ [p] } else r
          | none => r.modFur f fun c => { c with reqs := c.reqs ++ [{ c.newPart h p with contrib := [p] }], order := c.order + 1 }
        match (r.fur f).request? h p.tag with
        | some q =>
          match if q.phase = Phase.partRun then carriedOf q.contrib else none with
          | some bs => r.checkPart f { q with phase := .queued, carried := bs, contrib := [] }
          | none => r
        | none => r

/-- SPAN_ACK (R376): a member's check result; once all have answered the request is refused or goes on. An answer for a request that
is over is answered with a cancel. -/
def execSpanAck (f : FurrowIx) (p : Packet) (s : State) : Host.Outcome State Fault Refusal :=
  onPacket Kind.spanAck f p s fun r =>
    let e := ackEnding p
    let nothing := e.status = Status.refused
    match (r.fur f).partOf p.span p.tag with
    | none => if nothing then r else r.modFur f fun c => c.route f (c.packet f Kind.spanCancel p.src p.span p.tag)
    | some q =>
      if !q.acks.contains p.src then r
      else
        let r := r.modFur f fun c => c.modReq q.h q.tag fun q =>
          { q with
            acks := q.acks.erase p.src, memberEnds := q.memberEnds ++ [(p.src, e)]
            dones := if nothing then q.dones.erase p.src else q.dones }
        match (r.fur f).request? q.h q.tag with
        | some q => if q.acks = [] ∧ (q.phase = .running ∨ q.phase = .queued) then r.allAcked f q else r
        | none => r

/-! ### Final statuses and cancels -/

/-- The ending that a SPAN_DONE reports (log 23). -/
def doneEnding (p : Packet) : Ending :=
  ⟨p.aux.extractLsb' 0 8, p.aux.extractLsb' 16 16, p.addr, BitVec.ofNat 64 (fieldAt p.payload 8 8)⟩

/-- The ending that a root sees of a part. A member whose context was torn down or destroyed stops echoing, so that its root finds it
lost (R91, R377; log 64). -/
def Furrow.seenEnding (c : Furrow) (src : FabricId) (gone : Bool) (e : Ending) : Ending :=
  if gone then .bare Status.furrowLost (lostDetail c src false) else e

/-- SPAN_DONE (R27, R376, R424): a part's final status, engine time and flags. A part that has failed ends the request on every other
member as under cancellation. An update that had committed before the cancel came ends with its own outcome (R181). -/
def execSpanDone (f : FurrowIx) (p : Packet) (s : State) : Host.Outcome State Fault Refusal :=
  onPacket Kind.spanDone f p s fun r =>
    match (r.fur f).partOf p.span p.tag with
    | none => r
    | some q =>
      if !q.dones.contains p.src then r
      else
        let e := (r.fur f).seenEnding p.src (p.aux.getLsbD 15) (doneEnding p)
        let fl := p.aux.extractLsb' 8 8
        let r := r.modFur f fun c => c.modReq q.h q.tag fun q =>
          { q with
            acks := q.acks.erase p.src, dones := q.dones.erase p.src, memberEnds := q.memberEnds ++ [(p.src, e)]
            engineNs := q.engineNs + BitVec.ofNat 64 (fieldAt p.payload 0 8)
            nested := q.nested || fl.getLsbD 1, widened := q.widened || fl.getLsbD 2, throttled := q.throttled || fl.getLsbD 3 }
        if q.phase = Phase.aborting ∧ forwarded q.op ∧ !failed e then
          r.modFur f fun c => c.modReq q.h q.tag fun q => { q with phase := .running, cancelNs := none }
        else if q.acks ≠ [] then
          match (r.fur f).request? q.h q.tag with
          | some q => if q.acks = [] ∧ (q.phase = .running ∨ q.phase = .queued) then r.allAcked f q else r
          | none => r
        else if failed e then
          if q.phase = .running then r.partFails f q.h q.tag e
          else if q.phase = .queued then r.partEnds f { q with dones := q.dones.erase p.src } e
          else r
        else r

/-- SPAN_CANCEL (R376): a member aborts its part; one that has none answers at once. -/
def execSpanCancel (f : FurrowIx) (p : Packet) (s : State) : Host.Outcome State Fault Refusal :=
  onPacket Kind.spanCancel f p s fun r => r.modFur f fun c =>
    match c.memberFor p with
    | none => c
    | some h =>
      match if p.tag = boxTag then none else c.request? h p.tag with
      | some _ => c.cancelReq f h p.tag
      | none => c.route f { c.packet f Kind.spanDone p.src p.span p.tag with aux := Status.cancelled.setWidth 32, payload := zeros 16 }

/-! ### Furrows that are lost -/

/-- A request goes on without a furrow that is lost: a BARRIER (log 81), and a PACK under way, which may not need that member's records
(R237). -/
def Request.passesOver (q : Request) : Bool := q.op = 0xF2 || (q.op = 0x5A && q.goSent)

/-- A request loses a furrow that it needed; a commit under way comes to its end first (R276; log 90). -/
def Run.requestLoses (r : Run s₀) (f : FurrowIx) (h : Handle) (tag : Tag) (id : FabricId) : Run s₀ :=
  let e := (r.fur f).lostEnding f id
  let asked := ((r.fur f).request? h tag).any fun q => q.acks.contains id
  let r := r.modFur f fun c => c.modReq h tag fun q =>
    { q with
      acks := q.acks.erase id, dones := q.dones.erase id
      memberEnds := if q.passesOver || q.inCommit then q.memberEnds else q.memberEnds ++ [(id, e)] }
  match (r.fur f).request? h tag with
  | none => r
  | some q =>
    if q.passesOver then if asked ∧ q.acks = [] ∧ (q.phase = .running ∨ q.phase = .queued) then r.allAcked f q else r
    else if q.inCommit then r
    else if q.phase = .running then r.partFails f h tag e
    else if q.phase = .queued ∧ q.origin.isSome then r.partEnds f q e
    else r

/-- The requests of a context's step. -/
def Furrow.stepTags (c : Furrow) (h : Handle) : List Tag :=
  match c.step? h with | some w => w.parts.map fun (p : StepPart) => p.tag | none => []

/-- A direct member of a root's context is lost: every request with work on it ends FURROW_LOST (R23, R377). -/
def Run.loseMember (r : Run s₀) (f : FurrowIx) (h : Handle) (id : FabricId) : Run s₀ :=
  let c := r.fur f
  let hs := h :: (c.parentOf c.ctx[h].spanId).toList
  let r := r.modFur f fun c => c.modBind h fun b => { b with entries := b.entries.map fun m => if m.id = id then { m with lost := true } else m }
  r.each (c.reqs.filter fun q => hs.contains q.h && (q.acks.contains id || q.dones.contains id)) fun r q => r.requestLoses f q.h q.tag id

/-- NO_ROUTE (R371): the request that owns the transaction, or the part of a span's request that a packet was for, ends FURROW_LOST. -/
def execNoRoute (f : FurrowIx) (p : Packet) (s : State) : Host.Outcome State Fault Refusal :=
  onPacket Kind.noRoute f p s fun r =>
    let c := r.fur f
    let bad : FabricId := p.aux.extractLsb' 0 16
    let kind := p.addr.extractLsb' 0 8
    match if kind = 0 ∨ kind = Kind.readReq ∨ kind = Kind.write then c.pyr.txs.find? fun x => x.tag = p.tag else none with
    | some x => (r.modFur f fun c => c.closeTx x.tag).requestLoses f x.h x.req bad
    | none =>
      if !(kind = 0 || kind = Kind.coll || kind = Kind.spanDesc || kind = Kind.spanCancel) then r
      else if p.tag = boxTag then
        match c.boundTo p.span with
        | some h =>
          let g := (c.parentOf p.span).getD h
          r.each (c.stepTags g) fun r t => r.requestLoses f g t bad
        | none => r
      else match c.partOf p.span p.tag with
        | some q => r.requestLoses f q.h q.tag bad
        | none => r

/-- TRANSACTION_TIMEOUT (R371): nothing has answered a transaction for 16 × FENCE_US; a SPAN_DESC without its acknowledgement is one
too. -/
def execTransactionTimeout (f : FurrowIx) (tag : W32) (s : State) : Host.Outcome State Fault Refusal :=
  let c := s.furrow f
  let late := fun (t : W64) => decide (16 * c.pyr.fenceUs.toNat * 1000 ≤ elapsed c.ns t)
  let r := Run.start s
  (match c.pyr.txs.find? fun (x : Outstanding) => x.tag = tag with
   | some x => if late x.since then (r.modFur f fun c => c.closeTx tag).requestLoses f x.h x.req x.dest else r
   | none =>
     match c.reqs.find? fun (q : Request) => q.tag = tag && spanWide q.op && !q.acks.isEmpty && (match q.waitNs with | some t => late t | none => false) with
     | some q => r.each q.acks fun r id => r.requestLoses f q.h tag id
     | none => r).done

/-! ### Beats (R377) -/

/-- ms of BEAT_MS. -/
def Furrow.beatNs (c : Furrow) : Nat := c.pyr.beatMs.toNat * 1000000

/-- SPAN_BEAT_SEND (R377): the root beats every direct member each BEAT_MS. -/
def execSpanBeatSend (f : FurrowIx) (h : Handle) (s : State) : Host.Outcome State Fault Refusal :=
  ((Run.start s).modFur f fun c =>
    match c.bind? h with
    | none => c
    | some b =>
      if c.ctx[h].role = .root ∧ c.beatNs ≤ elapsed c.ns b.sentBeat then
        b.entries.foldl (fun (c : Furrow) (m : MemberEntry) => c.route f (c.packet f Kind.spanBeat m.id c.ctx[h].spanId 0))
          (c.modBind h fun b => { b with sentBeat := c.ns })
      else c).done

/-- SPAN_BEAT (R377): a member notes the root's beat and echoes it; the root notes the echo. -/
def execSpanBeat (f : FurrowIx) (p : Packet) (s : State) : Host.Outcome State Fault Refusal :=
  onPacket Kind.spanBeat f p s fun r => r.modFur f fun c =>
    match c.boundTo p.span with
    | none => c
    | some h =>
      if c.ctx[h].role = .root then
        c.modBind h fun b => { b with entries := b.entries.map fun m => if m.id = p.src then { m with lastEcho := c.ns } else m }
      else match c.memberFor p with
        | none => c
        | some h => (c.modBind h fun b => { b with lastBeat := c.ns }).route f (c.packet f Kind.spanBeat p.src p.span p.tag)

/-- SPAN_BEAT_TIMEOUT (R24, R377): a member that has had no beat for LOST_BEATS intervals, counted from its binding at the earliest
(log 73), treats its root as unreachable; a root that has had no echo from a member treats it as lost. -/
def execSpanBeatTimeout (f : FurrowIx) (h : Handle) (m : W32) (s : State) : Host.Outcome State Fault Refusal :=
  let c := s.furrow f
  let limit := c.pyr.lostBeats.toNat * c.beatNs
  let r := Run.start s
  (match c.bind? h with
   | none => r
   | some b =>
     if c.ctx[h].role = SpanRole.member then
       if limit ≤ elapsed c.ns b.lastBeat then r.teardown f h .spanRootLost 0 else r
     else match b.entries[m.toNat]? with
       | some x => if c.ctx[h].role = SpanRole.root ∧ !x.lost ∧ limit ≤ elapsed c.ns x.lastEcho then r.loseMember f h x.id else r
       | none => r).done

end Sys2Proof.Machine
end

