-- ==== Sys2Proof/Machine/Ends.lean ====
section
/-! DEFINITION. How descriptors and requests come to their end: the sum that a span's root makes of its members' endings (R376, R424),
the next descriptor of a linked run (R53), cancellation (R88, R89), and the Granary reads, erases and isolations that end them. -/

namespace Sys2Proof.Machine

variable {s₀ : State}

/-! ### Endings of a span -/

/-- An ending that says nothing of a part's own: DONE with COUNT and RESULT zero. -/
def Ending.plain (e : Ending) : Bool := e = Ending.ok 0 0

/-- Two 32-bit halves of DETAIL, added each within 32 bits. -/
def addHalves (a b : W64) : W64 :=
  BitVec.ofNat 64 (sat32 (a.toNat % 2 ^ 32 + b.toNat % 2 ^ 32) + 2 ^ 32 * sat32 (a.toNat / 2 ^ 32 + b.toNat / 2 ^ 32))

/-- Counts of two parts added. -/
def addCounts (a b : W16) : W16 := BitVec.ofNat 16 (satCount (a.toNat + b.toNat))

/-- What a part has done, with what the parts below it report: a failure of any of them is the whole's (R424); searches add their
totals (R175), the matrix and vector families their NaN counts (R133), fused lists their records, and of the descriptors that one member carries out, that member's ending stands. -/
def Request.combine (q : Request) (e : Ending) : Ending :=
  if failed e then e
  else match (q.memberEnds.map (·.2)).find? failed with
    | some x => x
    | none =>
      let others := q.memberEnds.map (·.2)
      match q.op with
      | 0x30 =>
        if !q.isPart then e
        else
          let sum := others.foldl (fun (a : Ending) b => { a with count := addCounts a.count b.count, detail := addHalves a.detail b.detail }) e
          if q.origin.isSome then sum
          else searchEnding q.desc sum.count.toNat (sum.detail.toNat % 2 ^ 32) (sum.detail.toNat / 2 ^ 32)
      | 0x20 | 0x21 | 0x22 | 0x23 | 0x24 | 0x25 | 0x26 | 0x27 | 0x59 => others.foldl (fun (a : Ending) b => { a with count := addCounts a.count b.count }) e
      | 0x10 | 0x11 | 0x12 | 0x13 | 0x14 | 0x15 | 0x38 | 0x39 | 0x3A | 0x3B | 0x80 =>
        if e.plain then (others.find? fun x => !x.plain).getD e else e
      | _ => e

/-- DESCRIPTOR_COMPLETE (R53, R81, R376): the engines have finished a descriptor, here and on every member. A DONE goes on to the next
linked descriptor; any other status, or the last descriptor, ends the request. -/
def execDescriptorComplete (f : FurrowIx) (h : Handle) (tag : Tag) (s : State) : Host.Outcome State Fault Refusal :=
  let r := Run.start s
  (match if tag = boxTag then none else (s.furrow f).request? h tag with
   | none => r
   | some q =>
     match q.phase with
     | .engineDone e =>
       if !q.dones.isEmpty then r
       else
         let e := q.combine e
         let r := r.modFur f fun c => c.modCtx h Context.updateNs
         if e.status = Status.done ∧ q.idx + 1 < q.descs.length then r.modFur f fun c => c.modReq h tag fun q => q.nextDesc c.ns
         else
           ((r.closeStream f h tag e.status).modFur f fun c => c.finish f h tag e).when (e.status = Status.dataError) fun r =>
             r.weighHealth f
     | _ => r).done

/-! ### Cancellation -/

/-- The segments of a write-back whose home is another member's HBM: they are undefined when it is cut off (Table 14-4; log 65). -/
def Run.ruinHome (r : Run s₀) (f : FurrowIx) (q : Request) : Run s₀ :=
  let c := r.fur f
  let d := q.desc
  match if writesBack d && q.gone && decide (tierMember d = c.flatNumber q) then c.object? q.h (df d 16 2) else none with
  | none => r
  | some a =>
    let o := r.objAt f q.h a.record.toNat
    let dst := o.home.spot (c.flatNumber q) (c.spanIds f q)
    let x := o.covered d
    if dst.tier = 3 then
      r.each (((List.range (x.2 - x.1)).map (x.1 + ·)).filter (r.isDirty f a)) fun r j =>
        r.undefine f q.h q.tag (dst.at (j * hbmUnit)) (o.segLen j)
    else r

/-- CANCEL_ABORT_DONE (R88, R89): every engine and member has aborted; what the descriptor was to write is undefined, and CANCELLED is
posted. -/
def execCancelAbortDone (f : FurrowIx) (h : Handle) (tag : Tag) (s : State) : Host.Outcome State Fault Refusal :=
  let r := Run.start s
  (match if tag = boxTag then none else (s.furrow f).request? h tag with
   | none => r
   | some q =>
     if q.phase = Phase.aborting ∧ q.dones.isEmpty then
       (((r.ruin f q).ruinHome f q).when (decide (q.op = 0x73)) fun r => r.unforward f q).finishPost f h tag (.bare Status.cancelled 0)
     else r).done

/-! ### Granary reads that complete (R344, R355) -/

/-- The bytes a Granary read wants of a block's data. -/
def GrnRead.wanted (x : GrnRead) (data : List Host.Cell) : List Host.Cell := cellsIn data x.off x.len

/-- The data of a slot by its PSA: durable, or still on its way to the NAND. -/
def Furrow.psaData (c : Furrow) (psa : Nat) : List Host.Cell :=
  match c.grn.nand.slot? psa with
  | some x => x.data
  | none => ((c.grn.stripes.toList.flatten.flatMap (·.filled)).find? fun x => x.psa = psa).elim [] (·.slot.data)

/-- COUNT of a MOVE_LIST's DATA_ERROR: the first entry that reads the block (Table 14-4). -/
def Run.entryAt (r : Run s₀) (f : FurrowIx) (q : Request) (lbn : Nat) : Nat :=
  let own := (r.fur f).flatNumber q
  let base := (r.fur f).grnBaseLbn q.h
  if q.op = 0x11 then
    ((r.movesOf f q).findIdx? fun m => decide (m.executor = own ∧ m.src.tier = 4 ∧ base + m.src.addr / 4096 ≤ lbn ∧
      lbn < base + ceilDiv (m.src.addr + m.len) 4096)).getD 0
  else 0

/-- The corrected error of a slot that took soft passes (Table 19-3). -/
def softRecord (psa passes : Nat) : ErrRec :=
  { errRec 0x05 1 passes with addr := BitVec.ofNat 64 psa, part := BitVec.ofNat 8 (psaCh psa) }

/-- The number of a channel's decoder as a source of corrected errors (R426). -/
def nandSource (ch : Nat) : Nat := 5000 + ch

/-- NAND_READ_DONE (R344): the oldest slot read in flight completes. A slot that does not decode, or stands on a lost die, is rebuilt
from its stripe and rewritten; when that fails too, or the channel is isolated, the request ends DATA_ERROR. -/
def execNandReadDone (f : FurrowIx) (quality : ReadQuality) (s : State) : Host.Outcome State Fault Refusal :=
  let r := Run.start s
  (match (s.furrow f).grn.reads with
   | [] => r
   | x :: rest =>
     let r := r.modFur f fun c =>
       let c := c.modGrn fun g => { g.noteRead x.psa with reads := rest }
       match quality with
       | .fails => c.modGrn fun g => { g with nand := g.nand.spoil x.psa }
       | .soft p => c.raiseCorrected (nandSource (psaCh x.psa)) (softRecord x.psa p.val)
       | .first => c
     let c := r.fur f
     let own := c.slotReads x.psa
     if own || c.rebuilds x.psa then
       let r := r.arrive f x.h x.tag x.dst x.len (x.wanted (c.psaData x.psa))
       r.modFur f fun c => (if own then c else c.rewrite x.lbn x.psa).advance x.h x.tag
     else match c.request? x.h x.tag with
       | none => r
       | some q =>
         let y := c.nandFault (q.eng f) x.psa
         let r := (r.setFur f (y.1.modGrn fun g => { g with reads := g.reads.filter fun z => !(z.h = x.h && z.tag = x.tag) })).ruin f q
         if q.phase = Phase.running then
           (r.modFur f fun c => c.modReq x.h x.tag fun q => { q with await := none }).engineEnds f x.h x.tag { y.2 with count := BitVec.ofNat 16 (r.entryAt f q x.lbn) }
         else r).done

/-- NAND_OVERCURRENT (R355, R459): a channel that draws too much is switched off and isolated. -/
def execNandOvercurrent (f : FurrowIx) (n : Fin 2) (s : State) : Host.Outcome State Fault Refusal :=
  let r := Run.start s
  (if (s.furrow f).pwr.nandOc.getLsbD n.val then r
   else
     let rec_ := fun (kind : Nat) => { errRec kind 0 n.val with part := BitVec.ofNat 8 n.val }
     (r.modFur f fun c =>
       let c := c.modPwr fun p => { p with nandOc := addBit p.nandOc n.val }
       ((((c.isolate n).raise (rec_ 0x74) []).raise (rec_ 0x31) []).weighCapacity)).weighHealth f).done

end Sys2Proof.Machine
end

