-- ==== Sys2Proof/Machine/Errors.lean ====
section
/-! DEFINITION. Errors, self-test and ageing (chapter 19): the error ring, corrected and uncorrectable data, patrol scrubbing, the loss
of a furrow, the headland's own failures, self-test slices and the re-plan of margins. -/

namespace Sys2Proof.Machine

variable {s₀ : State}

/-! ### The error ring (R425, R426, R472) -/

/-- ER_RING_ENABLE (R425, R472, Table 19-8): a write of REL_ER_CFG. ENABLE 1 while it reads 0 zeroes HEAD and TAIL. -/
def execErRingEnable (f : FurrowIx) (v : W64) (s : State) : Host.Outcome State Fault Refusal :=
  ((Run.start s).modFur f fun c => if !s.reaches f 0x600008 then c else (writeRel f c 0x08 (BitVec.allOnes 64) v).modErr fun e =>
    if v.getLsbD 31 then
      (if c.err.enable then { e with enable := true } else { e with enable := true, head := 0, tail := 0 })
    else e).done

/-- A head value that R48 would accept for the ring: within it, and not behind the last accepted one (R425). -/
def ErrRing.headOk (e : ErrRing) (v : W32) : Bool :=
  decide ((e.tail - v).toNat ≤ 2 ^ e.log2Size.toNat) && decide ((e.tail - v).toNat ≤ (e.tail - e.head).toNat)

/-- ER_HEAD_WRITE (R425). -/
def execErHeadWrite (f : FurrowIx) (v : W32) (s : State) : Host.Outcome State Fault Refusal :=
  ((Run.start s).modFur f fun c =>
    if !s.reaches f 0x600010 then c else c.modErr fun e => if e.headOk v then { e with head := v } else { e with badHead := true }).done

/-- The error ring takes a record now. -/
def ErrRing.open_ (e : ErrRing) : Bool := e.enable && decide ((e.tail - e.head).toNat < 2 ^ e.log2Size.toNat)

/-- The slot of the error ring at its tail. -/
def ErrRing.slot (e : ErrRing) : Nat := e.base.toNat * 4096 + e.tail.toNat % 2 ^ e.log2Size.toNat * 64

/-- A record has been posted: its error's 10 ms run from now on (R427, R428; log 18). -/
def ErrRing.noted (e : ErrRing) (seq ns : W64) : ErrRing :=
  { e with handling := e.handling.map fun k => if k.seq = seq then { k with posted := true, since := ns } else k }

/-- ERROR_RECORD_POST (R425, R426): the oldest queued record is written, and a record that waited in its unit takes the entry.
With the host port lost the records wait (R13; log 75). -/
def execErrorRecordPost (f : FurrowIx) (s : State) : Host.Outcome State Fault Refusal :=
  let r := Run.start s
  let e := (s.furrow f).err
  (match if e.open_ && (s.furrow f).life != FurState.reset && s.hdl.carries then e.queue else [] with
   | [] => r
   | x :: rest =>
     (r.write .host e.slot (x.bytes e.tail e.log2Size.toNat)).modFur f fun c =>
       let c := c.modErr fun e => ({ e with queue := rest, tail := e.tail + 1 }.noted x.seq c.ns).takeIn
       (c.noteVector 0).settle).done

/-- ER_WRITE_FAIL (R472): the write of the oldest queued record fails. The slot may hold anything, the ring stops, and the record stays
in the queue. -/
def execErWriteFail (f : FurrowIx) (s : State) : Host.Outcome State Fault Refusal :=
  let r := Run.start s
  let e := (s.furrow f).err
  (if e.open_ && !e.queue.isEmpty && (s.furrow f).life != FurState.reset then
     let p := r.freeBytes 64
     (p.2.toHost e.slot p.1).modFur f fun c => c.modErr fun e => { e with enable := false, writeFail := true }
   else r).done

/-! ### Corrected and uncorrectable data (R421–R424) -/

/-- The number of a decoder as a source of corrected errors (R426): NAND channels from 5,000. -/
def sourceOf : ErrorPlace → Nat
  | .scratch k off _ => 16 * k.val + off.toNat / 131072
  | .unit c u _ _ => 2000 + 16 * c.val + u.val
  | .hbm off _ _ _ => 3000 + off.toNat / 4096 % 4
  | .nand psa _ => nandSource (psaCh psa.toNat)
  | .path _ => 6000

/-- An HBM error that is corrected: at most two symbols with nothing reported by on-die ECC, or the re-read decodes (Table 19-1). -/
def hbmCorrects (symbols : Byte) (onDie retried : Bool) : Bool := retried || (decide (symbols.toNat ≤ 2) && !onDie)

/-- The block or word where an error lies, and its physical place. -/
def badWordOf : ErrorPlace → Option (BadWord × Nat)
  | .scratch k off _ => let a := k.val * hbmUnit + off.toNat / 8 * 8; some (⟨0, a / 8, 0⟩, a)
  | .unit c u off _ => let a := (16 * c.val + u.val) * mib + off.toNat / 8 * 8; some (⟨1, a / 8, 0⟩, a)
  | .hbm off _ onDie _ => some (⟨2, off.toNat / 64, if onDie then 2 else 1⟩, off.toNat)
  | _ => none

/-- The record of a corrected error (Tables 19-2, 19-3). -/
def correctedRecord (p : ErrorPlace) : ErrRec :=
  match p with
  | .scratch k off b => { errRec 0x01 1 b.toNat with
      cluster := BitVec.ofNat 8 (k.val / 8), core := BitVec.ofNat 8 (k.val % 8), bank := BitVec.ofNat 8 (off.toNat / 131072) }
  | .unit c u _ b => { errRec 0x01 1 b.toNat with cluster := BitVec.ofNat 8 c.val, bank := BitVec.ofNat 8 u.val }
  | .hbm off n _ again => { errRec 0x03 1 n.toNat with
      addr := BitVec.ofNat 64 off.toNat, part := BitVec.ofNat 8 (off.toNat / 4096 % 4), retried := again }
  | .nand psa n => softRecord psa.toNat n.toNat
  | .path code => errRec 0x07 2 code.toNat

/-- A corrected error is counted, and its record joins those of its source (R421, R426). -/
def Furrow.corrected (c : Furrow) (p : ErrorPlace) : Furrow :=
  let c := c.rollCounts
  let c := match p with
    | .scratch _ _ _ | .unit _ _ _ _ => c.modCounts fun x => { x with sram := x.sram + 1 }
    | .hbm off n _ _ => c.modCounts fun x =>
        let k := off.toNat / 4096 % 4
        { x with hbm := x.hbm + BitVec.ofNat 32 n.toNat,
                 stackCe := x.stackCe.set k (sat (x.stackCe[k]'(Nat.mod_lt _ (by decide))) n.toNat) (Nat.mod_lt _ (by decide)) }
    | _ => c
  c.raiseCorrected (sourceOf p) (correctedRecord p)

/-- CORRECTED_ERROR (R421). A datapath's parity corrects nothing, so that such an event is none of these. -/
def execCorrectedError (f : FurrowIx) (p : ErrorPlace) (s : State) : Host.Outcome State Fault Refusal :=
  (match p with
   | .path _ => Run.start s
   | .hbm _ n onDie again =>
     if hbmCorrects n onDie again then ((Run.start s).modFur f fun c => c.corrected p).weighHealth f else Run.start s
   | _ => ((Run.start s).modFur f fun c => c.corrected p).weighHealth f).done

/-- Data at a place cannot be corrected any more: it stays so until it is written (R422). -/
def Furrow.markBad (c : Furrow) (p : ErrorPlace) : Furrow :=
  match p, badWordOf p with
  | .nand psa _, _ => c.modGrn fun g => { g with nand := g.nand.spoil psa.toNat }
  | _, some (b, _) => c.modCounts fun x => { x with bad := x.bad.filter (fun y => !(y.mem = b.mem && y.num = b.num)) ++ [b] }
  | _, none => c

/-- The record of uncorrectable data for a request's opcode (Tables 19-2, 19-3), with the memory's code in DETAIL (R424). -/
def lossRecord (c : Furrow) (p : ErrorPlace) (h : Handle) (tag : Tag) (op : Nat) : ErrRec × Nat :=
  match p, badWordOf p with
  | .nand psa _, _ => (nandUe psa.toNat (c.channelUp (psaCh psa.toNat)) h tag op, 4)
  | .path code, _ => ({ errRec 0x07 2 code.toNat with ctx := BitVec.ofNat 16 h.val, tag := tag, opcode := BitVec.ofNat 8 op }, 5)
  | _, some (b, a) => (ueRecord b a h tag op, b.mem.val)
  | _, none => (errRec 0x07 2 0, 5)

/-- A record without a request. -/
def ErrRec.unowned (e : ErrRec) : ErrRec := { e with ctx := 0xFFFF, tag := 0xFFFFFFFF, opcode := 0 }

/-- A running request meets uncorrectable data: its engines abort, its outputs are undefined, and it ends DATA_ERROR (R423, R424). -/
def Run.containRead (r : Run s₀) (f : FurrowIx) (q : Request) (rec_ : ErrRec) (memory : Nat) : Run s₀ :=
  let x := (r.fur f).dataError (q.eng f) rec_ memory
  (((r.setFur f x.1).ruin f q).modFur f fun c => c.modReq q.h q.tag fun q => { q with await := none }).engineEnds f q.h q.tag x.2

/-- UNCORRECTABLE_DATA (R423): a read finds a block or word that its code cannot correct. HBM whose re-read decodes is a corrected
event (Table 19-1). -/
def execUncorrectableData (f : FurrowIx) (p : ErrorPlace) (who : Option Owner) (s : State) : Host.Outcome State Fault Refusal :=
  let r := Run.start s
  let c := s.furrow f
  let fixed := match p with | .hbm _ n onDie again => hbmCorrects n onDie again | _ => false
  (if fixed then r.modFur f fun c => c.corrected p
   else
     let r := r.modFur f fun c => c.markBad p
     match who.bind fun w => (c.request? w.h w.tag).filter fun q => q.phase = Phase.running with
     | some q => let x := lossRecord c p q.h q.tag q.op; r.containRead f q x.1 x.2
     | none => r.modFur f fun c => c.raise (lossRecord c p 0 0 0).1.unowned []).weighHealth f |>.done

/-- HOST_POISON (R424): a poisoned completion for a data read ends the request, memory 6; one for a descriptor fetch tears the context
down. -/
def execHostPoison (f : FurrowIx) (h : Handle) (tag : Option Tag) (addr : W64) (s : State) : Host.Outcome State Fault Refusal :=
  let r := Run.start s
  let c := s.furrow f
  (match tag with
   | none => if c.ctx[h].state = CtxState.ready ∧ c.ctx[h].rings.state = RingState.active then r.teardown f h .hostAbort addr else r
   | some t =>
     match (c.request? h t).filter fun (q : Request) => q.phase = Phase.running with
     | none => r
     | some q => r.containRead f q { errRec 0x09 2 0 with
         ctx := BitVec.ofNat 16 h.val, tag := t, opcode := BitVec.ofNat 8 q.op, addr := addr } 6).done

/-- The context whose memory holds a block or word (R422): the region it lies in, the unit's holder, or the context a core serves. -/
def Furrow.holderOf (c : Furrow) (p : ErrorPlace) : W16 :=
  let of := fun (h : Option Handle) => match h with | some h => BitVec.ofNat 16 h.val | none => 0xFFFF
  match p with
  | .scratch k _ _ => of c.cores[k].now
  | .unit cl u _ _ => if x : 16 * cl.val + u.val < 128 then of c.t1Owner[16 * cl.val + u.val] else 0xFFFF
  | .hbm off _ _ _ =>
    BitVec.ofNat 16 (((List.finRange 64).find? fun (h : Handle) => decide (h ≠ 0) && c.ctx[h].owns &&
      overlaps off.toNat 1 (c.ctx[h].hbmBase.toNat * hbmUnit) (c.ctx[h].hbmSize.toNat * hbmUnit)).getD (0 : Handle)).val
  | _ => 0xFFFF

/-- PATROL_SCRUB (R422): the scrubber reads a block of HBM or a word of SRAM. What it corrects it rewrites and counts; what it finds
uncorrectable it leaves, and records for the context that holds it. -/
def execPatrolScrub (f : FurrowIx) (p : ErrorPlace) (x : ScrubResult) (s : State) : Host.Outcome State Fault Refusal :=
  let r := Run.start s
  (match x, badWordOf p with
   | .corrected, some _ => (r.modFur f fun c => c.corrected p).weighHealth f
   | .uncorrectable, some (b, a) =>
     (r.modFur f fun c => (c.markBad p).raise { (ueRecord b a 0 0 0).unowned with kind := 0x08, ctx := c.holderOf p } []).weighHealth f
   | _, _ => r).done

/-! ### Furrow loss (R428, R429) -/

/-- The codes of R428's conditions. -/
def lossCode : LossCause → Nat
  | .memory => 1
  | .handling => 2
  | .watchdog => 3
  | .clock => 4
  | .link => 5

/-- Every engine stops, and every transmitter goes dark (Table 19-4). -/
def Furrow.halt (c : Furrow) (cause : Nat) : Furrow :=
  { c with
    lossCause := some (BitVec.ofNat 8 cause), steps := []
    cores := Vector.replicate 64 .idle, texts := Vector.replicate 8 .idle
    pyr := { c.pyr with inbox := [], ports := c.pyr.ports.map fun t => if t.state = .off then t else { t with state := .dark, lanes := 0 } } }

/-- One request of a lost furrow ends FURROW_LOST, naming this furrow with SELF set (R371, R429); a span member's part just stops. -/
def Run.loseRequest (r : Run s₀) (f : FurrowIx) (q : Request) : Run s₀ :=
  if q.origin.isSome then r.modFur f fun c => c.dropReq q.h q.tag
  else if q.isEnded then r.postFinal f q.h q.tag
  else
    let e := Ending.bare Status.furrowLost (lostDetail (r.fur f) ((r.fur f).fabricId f) true)
    (((r.closeStream f q.h q.tag Status.furrowLost).modFur f fun c => c.finish f q.h q.tag e)).postFinal f q.h q.tag

/-- The headland's shadow copy takes up what a furrow reports of its identity and state registers (R14; log 75). -/
def Run.shadow (r : Run s₀) (f : FurrowIx) (life : FurState) : Run s₀ :=
  let c := { r.fur f with life := life }
  r.modHdl fun d =>
    { d with shadowId := d.shadowId.set f (readIdentity f c 0x00), shadowState := d.shadowState.set f (readIdentity f c 0x08) }

/-- The headland marks a furrow LOST in its shadow and fires PF0 vector 2 (R14, Table 19-4), unless it has failed itself. -/
def Run.markLost (r : Run s₀) (f : FurrowIx) : Run s₀ :=
  if r.now.hdl.failed then r else (((r.shadow f .lost).modHdl fun d => { d with lostMap := addBit d.lostMap f.val })).raisePf0 2

/-- The furrow goes offline, in the order of Table 19-4 (R429). -/
def Run.lose (r : Run s₀) (f : FurrowIx) (cause : Nat) : Run s₀ :=
  if (r.fur f).life = .reset ∨ (r.fur f).life = .lost then r
  else
    let open_ := (List.finRange 64).flatMap fun h => (r.fur f).outstanding h
    let r := r.each open_ fun r q => if q.isEnded then r else r.ruin f q
    let r := (r.modFur f fun c => c.halt cause).markLost f
    let r := r.each open_ fun r q => r.loseRequest f q
    r.modFur f fun c => { c.raise { errRec 0xF0 4 cause with last := true } [] with life := .lost }

/-- HANDLING_PATH_FAIL (R428): cause 0x02 needs an error that has been in handling for 10 ms. -/
def execHandlingPathFail (f : FurrowIx) (cause : LossCause) (s : State) : Host.Outcome State Fault Refusal :=
  let c := s.furrow f
  let r := Run.start s
  (if cause = .handling ∧ !(c.err.handling.any fun k => k.posted && decide (10000000 ≤ elapsed c.ns k.since)) then r
   else r.lose f (lossCode cause)).done

/-- HEADLAND_LINK_TIMEOUT (R14): a furrow has not answered the headland for 1 ms. -/
def execHeadlandLinkTimeout (f : FurrowIx) (s : State) : Host.Outcome State Fault Refusal :=
  (if s.hdl.lostMap.getLsbD f.val then Run.start s else (Run.start s).markLost f).done

/-- HEADLAND_FAILURE (R13): the host port is lost; the furrows go on. -/
def execHeadlandFailure (s : State) : Host.Outcome State Fault Refusal :=
  ((Run.start s).modHdl fun d => { d with failed := true, portUp := false }).done

/-- HEADLAND_FAULT (R437): uncorrectable data in the headland's switch buffers; ATTN_N is asserted, and PF0 vector 3 fires. -/
def execHeadlandFault (s : State) : Host.Outcome State Fault Refusal :=
  (((Run.start s).modHdl fun d => { d with fault := true }).raisePf0 3).done

/-! ### Self-test (R430–R433) -/

/-- The number of a slice, in the order of Table 19-6 (DEDUCED, log 66). -/
def sliceIndex : BistTarget → Nat
  | .core k n => 4 * k.val + n.val
  | .text c => 256 + c.val
  | .unit c u => 264 + 16 * c.val + u.val

/-- The slices of a pass (Table 19-6). -/
def allSlices : List BistTarget :=
  ((List.finRange 64).flatMap fun k => (List.finRange 4).map fun n => .core k n) ++ (List.finRange 8).map .text ++
    (List.finRange 8).flatMap fun c => (List.finRange 16).map fun u => .unit c u

/-- The number of a unit. -/
def unitNo (c : ClusterIx) (u : Fin 16) : Fin 128 := ⟨16 * c.val + u.val, by have := c.isLt; have := u.isLt; omega⟩

/-- The place that a slice takes from service. -/
def slicePlace : BistTarget → Option Place
  | .core k _ => some (.core k)
  | .text c => some (.text c)
  | .unit _ _ => none

/-- A slice's target is in service. -/
def Furrow.targetUp (c : Furrow) : BistTarget → Bool
  | .core k _ => c.health.cores.getLsbD k.val && c.health.clusters.getLsbD (k.val / 8)
  | .text t => c.health.text.getLsbD t.val && c.health.clusters.getLsbD t.val
  | .unit cl u => c.unitUp (unitNo cl u)

/-- The conditions of R431 and R432 for a slice to start. -/
def Furrow.sliceFit (c : Furrow) (b : BistTarget) (locked : Bool) (tj : Byte) : Bool :=
  locked && decide (720 ≤ c.pwr.coreMv.toNat) && decide (c.pwr.coreMv.toNat ≤ 820) && decide (tj.toNat ≤ 95) &&
    (match b with | .unit cl u => c.t1Owner[unitNo cl u].isNone || c.bist.saveValid | _ => true)

/-- A slice starts: its place serves no context, and a held unit is first copied to the save area (R432). -/
def Run.startSlice (r : Run s₀) (f : FurrowIx) (b : BistTarget) (again : Bool) : Run s₀ :=
  let r := match b with
    | .unit cl u =>
      let c := r.fur f
      if c.t1Owner[unitNo cl u].isSome then
        let a := c.bist.save.toNat * hbmUnit
        (r.paste (.hbm f) a mib ((r.now.mem (.t1 f)).slice ((unitNo cl u).val * mib) mib)).modFur f fun c => c.mend (.hbm f, a, mib)
      else r
    | _ => r
  let r := match slicePlace b with | some u => r.leave f u | none => r
  r.modFur f fun c => c.modBist fun x => { x with running := some ⟨b, again, c.ns⟩ }

/-- A slice is deferred or abandoned (R431). -/
def Bist.defer (x : Bist) (b : BistTarget) : Bist :=
  { x with deferred := sat x.deferred 1, waiting := if x.waiting.contains b then x.waiting else x.waiting ++ [b] }

/-- The slot has been used: the next falls 220 s later (R430). -/
def Bist.nextSlot_ (x : Bist) : Bist := { x with nextSlot := x.nextSlot + 220000000000, tried := [] }

/-- A pass is over once every slice in service has been taken up (R430; log 66). -/
def Furrow.passOver (c : Furrow) : Furrow :=
  if c.bist.running.isNone && !c.bist.slices.isEmpty && allSlices.all fun b => c.bist.slices.contains b || !c.targetUp b then
    c.modBist fun x => { x with passes := x.passes + 1, slices := [] }
  else c

/-- BIST_SLICE_START (R430–R433): at a quantum boundary, the slice of a withheld target runs again; in a slot of its own a deferred
slice is tried before the next new one. -/
def execBistSliceStart (f : FurrowIx) (b : BistTarget) (locked : Bool) (tj : Byte) (s : State) : Host.Outcome State Fault Refusal :=
  let c := s.furrow f
  let x := c.bist
  let r := Run.start s
  let fit := c.sliceFit b locked tj
  (if !c.serves || !c.boundaryDue || x.running.isSome || !c.targetUp b then r
   else if x.withheld.contains b then
     if fit then r.startSlice f b true else r.modFur f fun c => c.modBist fun x => { x with deferred := sat x.deferred 1 }
   else if !x.en || c.ns.toNat < x.nextSlot.toNat then r
   else if x.waiting.contains b then
     if x.tried.contains b then r
     else if fit then (r.startSlice f b false).modFur f fun c => c.modBist fun x => { x.nextSlot_ with waiting := x.waiting.erase b }
     else r.modFur f fun c => c.modBist fun x => { x.defer b with tried := x.tried ++ [b] }
   else if x.slices.contains b || !(x.waiting.all fun y => x.tried.contains y || !c.targetUp y) then r
   else
     let r := r.modFur f fun c => c.modBist fun x =>
       { x.nextSlot_ with slices := x.slices ++ [b], done := if x.slices.isEmpty then 0 else x.done }
     if fit then r.startSlice f b false else r.modFur f fun c => (c.modBist fun x => x.defer b).passOver).done

/-- A target is retired after a second difference (R433). -/
def Furrow.retireTarget (c : Furrow) (b : BistTarget) : Furrow :=
  match b with
  | .core k _ =>
    ((c.keepHealth fun x => { x with cores := dropBit x.cores k.val }).raise
      { retiredRecord 1 with cluster := BitVec.ofNat 8 (k.val / 8), core := BitVec.ofNat 8 (k.val % 8) } []).degrade
  | .text t =>
    ((c.keepHealth fun x => { x with text := dropBit x.text t.val }).raise { retiredRecord 3 with cluster := BitVec.ofNat 8 t.val } []).degrade
  | .unit cl u =>
    let n := unitNo cl u
    let at_ := fun (what : Nat) => { retiredRecord what with cluster := BitVec.ofNat 8 cl.val, bank := BitVec.ofNat 8 u.val }
    if c.t1Owner[n].isSome then
      (c.modBist fun x => { x with unitsPending := addBit x.unitsPending n.val }).raise (at_ 5) []
    else ((c.keepHealth fun x => { x with units := dropBit x.units n.val }).raise (at_ 2) []).degrade

/-- A slice is complete. -/
def Bist.complete (x : Bist) (b : BistTarget) (ns : W64) : Bist :=
  { x with
    done := if x.done.toNat < 392 then x.done + 1 else x.done
    withheld := x.withheld.erase b, lastDone := x.lastDone.filter (fun p => p.1 ≠ b) ++ [(b, ns)] }

/-- A slice's signature differs (R433): the first time its target is withheld, the second time it is retired. -/
def Furrow.sliceDiffers (c : Furrow) (b : BistTarget) (again : Bool) : Furrow :=
  let c := (c.modBist fun x => { x with mismatch := sat x.mismatch 1 }).raise (errRec 0x40 0 (sliceIndex b)) []
  if again then (c.modBist fun x => x.complete b c.ns).retireTarget b
  else c.modBist fun x => { x with withheld := x.withheld ++ [b] }

/-- BIST_SLICE_END (R431, R433): the running slice's signature is compared, or the slice is abandoned; a lent core is cleared before it
is returned (R432). -/
def execBistSliceEnd (f : FurrowIx) (b : BistTarget) (o : BistOutcome) (s : State) : Host.Outcome State Fault Refusal :=
  let r := Run.start s
  (match (s.furrow f).bist.running.filter fun (x : BistRun) => x.target = b with
   | none => r
   | some x =>
     let r := match b with | .core k _ => r.blank f (.t0 f) (k.val * hbmUnit) hbmUnit | _ => r
     let r := r.modFur f fun c =>
       let c := c.modBist fun y => { y with running := none }
       (match o with
        | .same => c.modBist fun y => y.complete b c.ns
        | .differs => c.sliceDiffers b x.again
        | .abandoned => c.modBist fun y => if x.again then { y with deferred := sat y.deferred 1 } else y.defer b).passOver
     r.weighHealth f).done

/-- BIST_LATE (R431): a target has not completed its slices within 48 h. -/
def execBistLate (f : FurrowIx) (b : BistTarget) (s : State) : Host.Outcome State Fault Refusal :=
  ((Run.start s).modFur f fun c =>
    let last := ((c.bist.lastDone.find? fun p => p.1 = b).map (·.2)).getD 0
    if c.serves && c.targetUp b && decide (2 * dayNs ≤ elapsed c.ns last) then
      (c.modBist fun x => { x with late := true, lastDone := x.lastDone.filter (fun p => p.1 ≠ b) ++ [(b, c.ns)] }).raise
        (errRec 0x44 0 (sliceIndex b)) []
    else c).done

/-! ### Ageing (R435) -/

/-- The slacks of one reading, by cluster; the last of the readings stands for those that would follow. -/
def readingAt (xs : List W16) (i : Nat) (c : ClusterIx) : W16 := xs.getD (8 * min i (xs.length / 8 - 1) + c.val) 0

/-- Some cluster in service has less than 30 ps of slack in a reading. -/
def Furrow.tight (c : Furrow) (xs : List W16) (i : Nat) : Bool :=
  (List.finRange 8).any fun k => c.health.clusters.getLsbD k.val && decide ((readingAt xs i k).toNat < 30)

/-- A record of a margin step (Table 19-3): 1 voltage, 2 clock. -/
def marginRecord (what value : Nat) : ErrRec := errRec 0x42 0 (what + 2 ^ 16 * value)

/-- Raise the voltage offset while some slack is short and there is room (R435), and the regulator answers (R441): the furrow, and
which reading stands. -/
def Furrow.raiseVolts (c : Furrow) (f : FurrowIx) (xs : List W16) : Nat → Nat → Furrow × Nat
  | 0, i => (c, i)
  | k + 1, i =>
    let v := c.health.vofs.toNat + 5
    if c.tight xs i ∧ v ≤ vlim f ∧ !c.pwr.avsFault then
      let c := c.keepHealth fun x => { x with vofs := BitVec.ofNat 8 v }
      let c := (c.modPwr fun p => { p with reqMv := BitVec.ofNat 16 (Config.vnom f + v) }).raise (marginRecord 1 v) []
      c.raiseVolts f xs k (i + 1)
    else (c, i)

/-- A cluster whose slack is still short is clocked down (R435). -/
def Furrow.slowCluster (c : Furrow) (xs : List W16) (i : Nat) (k : ClusterIx) : Furrow :=
  if c.health.clusters.getLsbD k.val ∧ (readingAt xs i k).toNat < 30 then
    let m := max (c.health.clocks[k].toNat - 50) 1600
    (c.keepHealth fun x => { x with clocks := x.clocks.set k (BitVec.ofNat 16 m) }).raise
      { marginRecord 2 m with cluster := BitVec.ofNat 8 k.val } []
  else c

/-- MARGIN_REPLAN (R435): after a reset and every 24 h, at a quantum boundary. The readings are those before each voltage step and
after the last. -/
def execMarginReplan (f : FurrowIx) (slack ro : List W16) (s : State) : Host.Outcome State Fault Refusal :=
  let c := s.furrow f
  let r := Run.start s
  (if c.serves && c.boundaryDue && decide (8 ≤ slack.length) && (decide (c.age.lastNs = 0) || decide (dayNs ≤ elapsed c.ns c.age.lastNs)) then
     (r.modFur f fun c =>
       let x := c.raiseVolts f slack 11 0
       let c := (List.finRange 8).foldl (fun (c : Furrow) k => c.slowCluster slack x.2 k) x.1
       c.modAge fun a =>
         { a with
           roCount := Vector.ofFn fun k => if c.health.clusters.getLsbD k.val then readingAt ro x.2 k else a.roCount[k]
           slack := Vector.ofFn fun k => if c.health.clusters.getLsbD k.val then readingAt slack x.2 k else a.slack[k]
           lastNs := c.ns }).weighHealth f
   else r).done

end Sys2Proof.Machine
end

