-- ==== Sys2Proof/Machine/Security.lean ====
section
/-! DEFINITION. The root of trust (chapter 17): boot and firmware update, the digests of the measurement log, the attestation
report, the SPDM responder, debug unlock with its zeroisation, and boundary scan. -/

namespace Sys2Proof.Machine

variable {s₀ : State}

/-! ### Firmware images (R388) -/

/-- Security version of an image. -/
def FwImage.svn (im : FwImage) : Nat := fieldAt im.header 4 4

/-- The image's digest. -/
def FwImage.digest (im : FwImage) : BitVec 512 := Config.sha512 (bytesAt im.header 0 128)

/-- The digest of an image that runs; zero while none does. -/
def digestOf (im : Option FwImage) : BitVec 512 := im.elim 0 FwImage.digest

/-- The security version of an image that runs; zero while none does. -/
def svnOf (im : Option FwImage) : Nat := im.elim 0 FwImage.svn

/-- The index of the ROM key an image names, 0–3. -/
def FwImage.key (im : FwImage) : Fin 6 := ⟨fieldAt im.header 3 1 % 4, by omega⟩

/-- The fixed fields of a header. -/
def FwImage.headerOk (im : FwImage) (kind : Nat) : Bool :=
  decide (im.header.length = 256) && decide (fieldAt im.header 0 2 = 1) && decide (fieldAt im.header 2 1 = kind) &&
    decide (fieldAt im.header 3 1 < 4) && decide (1 ≤ im.svn) && decide (im.svn ≤ 64) &&
    decide (fieldAt im.header 8 4 = im.body.length) && ((bytesAt im.header 12 52 ++ bytesAt im.header 192 64).all (· = 0))

/-- The fused security version of a kind: the bits set in its thermometer code (Table 17-1). -/
def Fuses.svn (x : Fuses) (kind : Nat) : Nat := if kind = 1 then popCount x.svnRot else popCount x.svnCtrl

/-- The signature verifies under the ROM key that the image names. -/
def FwImage.signed (im : FwImage) : Bool := Config.romVerifies im.key (bytesAt im.header 0 128) (bytesAt im.header 128 64)

/-- The body's digest matches. -/
def FwImage.whole (im : FwImage) : Bool := decide (bytesAt im.header 64 64 = bytes64 (Config.sha512 im.body))

/-- An image is valid for its kind: 1 root-of-trust firmware, 2 control firmware. -/
def FwImage.valid (im : FwImage) (kind : Nat) (x : Fuses) : Bool :=
  im.headerOk kind && im.signed && !x.keyRevoke.getLsbD im.key.val && decide (x.svn kind ≤ im.svn) && im.whole

/-- The slots of a kind. -/
def Sec.slots (z : Sec) (kind : Nat) : FwSlots := if kind = 1 then z.rot else z.ctrl

/-- The running image of a kind. -/
def Sec.running (z : Sec) (kind : Nat) : Option FwImage := if kind = 1 then z.rotRun else z.ctrlRun

/-- The slot of a kind that runs, B when true. -/
def Sec.slotB (z : Sec) (kind : Nat) : Bool := if kind = 1 then z.rotSlot else z.ctrlSlot

/-- One of a kind's slots. -/
def FwSlots.get (s : FwSlots) (b : Bool) : Option FwImage := if b then s.b else s.a

/-- One of a kind's slots replaced. -/
def FwSlots.put (s : FwSlots) (b : Bool) (im : Option FwImage) : FwSlots := if b then { s with b := im } else { s with a := im }

/-- The slot that boots: the valid image of greater SVN, A on a tie (R389). -/
def FwSlots.choose (s : FwSlots) (kind : Nat) (x : Fuses) : Option (Bool × FwImage) :=
  match s.a.filter (·.valid kind x), s.b.filter (·.valid kind x) with
  | some a, some b => if a.svn < b.svn then some (true, b) else some (false, a)
  | some a, none => some (false, a)
  | none, some b => some (true, b)
  | none, none => none

/-! ### Boot (R389, R390, R409) -/

/-- The log entry of a firmware image (R393, Table 17-3). -/
def firmwareEntry (c : Furrow) (kind : Byte) (len : Nat) (digest : BitVec 512) : LogEntry :=
  { kind := kind, state := .loaded, handle := 0xFFFF, object := 0, offset := 0, length := BitVec.ofNat 64 len, seq := 0,
    stamp := c.cal.stamp, tag := 0, digest := digest, inT1 := false }

/-- The Tally's image is signed and whole. -/
def Tally.sound (t : Tally) : Option FwImage :=
  t.image.filter fun im => Config.tallyVerifies (bytesAt im.header 0 128) (bytesAt im.header 128 64) && im.whole

/-- A context that exists has a record open (R415). -/
def Furrow.openMissing (c : Furrow) : Furrow :=
  (List.finRange 64).foldl (fun c h =>
    if c.ctx[h].state = .free ∨ c.tally.open_[h].isSome then c else c.tallyOpen h) c

/-- The Tally ROM checks its image before the root of trust reads its digest (R409). -/
def Furrow.tallyCheck (c : Furrow) : Furrow :=
  match c.tally.sound with
  | some im =>
    let c := c.modTally fun t =>
      { t with
        version := BitVec.ofNat 32 im.svn
        state := if t.runs then t.state else .metering }
    (c.modSec fun z => { z with tallyDigest := im.digest }).openMissing
  | none =>
    let c := c.modTally fun t => { t with state := .failed, version := 0, open_ := Vector.replicate 64 none }
    (c.modSec fun z => { z with tallyDigest := 0 }).raise (errRec 0x51 0 0) []

/-- The cause that stops a boot: BOOT_ERROR (Table 17-9), in the order of Table 17-2. -/
def Sec.bootCause (z : Sec) (x : Fuses) : Byte :=
  if z.selfTestBad then 3
  else if z.fuseReadBad then 4
  else if (z.rot.choose 1 x).isNone then 1
  else if (z.ctrl.choose 2 x).isNone then 2 else 0

/-- A furrow boots (Table 17-2) up to its 98 ms step; FURROW_READY is the rest. What fails leaves it in BOOT with its cause. -/
def Furrow.boot (c : Furrow) (x : Fuses) : Furrow :=
  let z := c.sec
  let e := z.bootCause x
  let rot := if e = 0 ∨ e = 2 then z.rot.choose 1 x else none
  let ctrl := if e = 0 then z.ctrl.choose 2 x else none
  let c : Furrow :=
    { c with
      life := .boot
      sec := { z with
        bootError := e, rotSlot := (rot.map (·.1)).getD false, ctrlSlot := (ctrl.map (·.1)).getD false
        rotRun := rot.map (·.2), ctrlRun := ctrl.map (·.2)
        hbmLocked := z.scrubPending && !decide (e = 3 ∨ e = 4), log := [], logSeq := 0, debugKey := false, extest := none } }
  match rot, ctrl with
  | some a, some b =>
    let c := c.tallyCheck
    let t := (c.tally.image.map (·.body.length)).getD 0
    [firmwareEntry c LogKind.rot a.2.body.length a.2.digest, firmwareEntry c LogKind.ctrl b.2.body.length b.2.digest,
      firmwareEntry c LogKind.tally t c.sec.tallyDigest].foldl (fun c e => c.modSec fun z => z.logAppend e) c
  | _, _ => c

/-! ### Updating firmware (R391, R392) -/

/-- STATUS codes of SEC_FW_CMD (Table 17-12). -/
def FwStatus.idle : Byte := 0x00
def FwStatus.badLength : Byte := 0x10
def FwStatus.hostRead : Byte := 0x11
def FwStatus.badHeader : Byte := 0x12
def FwStatus.badSignature : Byte := 0x13
def FwStatus.keyRevoked : Byte := 0x14
def FwStatus.svnLow : Byte := 0x15
def FwStatus.storeWrite : Byte := 0x16
def FwStatus.notRunning : Byte := 0x17

/-- What is wrong with an image read from the host (R388, R391). A digest that does not match is a bad signature (DEDUCED, log 68). -/
def stageFault (im : FwImage) (len kind : Nat) (x : Fuses) : Option Byte :=
  if !(im.headerOk kind && decide (kind = 1 ∨ kind = 2) && decide (256 + im.body.length = len)) then some FwStatus.badHeader
  else if x.keyRevoke.getLsbD im.key.val then some FwStatus.keyRevoked
  else if !(im.signed && im.whole) then some FwStatus.badSignature
  else if im.svn < x.svn kind then some FwStatus.svnLow else none

/-- A write of SEC_FW_CMD sets LENGTH and KIND (Table 17-12). -/
def Sec.fwCmd (z : Sec) (v : W64) : Sec := { z with fwLength := v.extractLsb' 40 24, fwKind := v.extractLsb' 4 4 }

/-- The furrow takes a STAGE of a kind: in recovery only of the kind that is missing (R390). -/
def Sec.takesStage (z : Sec) (kind : Nat) : Bool :=
  decide (z.bootError = 0) || (decide (z.bootError = 1) && decide (kind = 1)) || (decide (z.bootError = 2) && decide (kind = 2))

/-- The slot a staged image goes to: the one that does not run, A while none runs (R391; log 68). -/
def Sec.spare (z : Sec) (kind : Nat) : Bool := (z.running kind).isSome && !z.slotB kind

/-- A slot of a kind takes an image. -/
def Sec.store (z : Sec) (kind : Nat) (b : Bool) (im : Option FwImage) : Sec :=
  if kind = 1 then { z with rot := z.rot.put b im } else { z with ctrl := z.ctrl.put b im }

/-- FW_STAGE (R391): an image is read from the host, checked, and written to the slot of its kind that does not run. -/
def execFwStage (f : FurrowIx) (v : W64) (hostFails storeFails : Bool) (s : State) : Host.Outcome State Fault Refusal :=
  let r := Run.start s
  (if !s.reaches f 0x400018 ∨ v.extractLsb' 0 4 ≠ 1 then r
   else
     let r := r.modFur f fun c => c.modSec fun z => z.fwCmd v
     let z := (r.fur f).sec
     let kind := z.fwKind.toNat
     let len := z.fwLength.toNat
     let a := z.fwAddr.toNat * 64
     let status := fun (x : Byte) => r.modFur f fun c => c.modSec fun z => { z with fwStatus := x }
     if !z.takesStage kind then r
     else if len < 256 then status FwStatus.badLength
     else if hostFails then status FwStatus.hostRead
     else
       let im : FwImage := ⟨r.read .host a 256, r.read .host (a + 256) (len - 256)⟩
       match stageFault im len kind s.fuses[f] with
       | some e => status e
       | none => r.modFur f fun c => c.modSec fun z =>
           { z.store kind (z.spare kind) (if storeFails then none else some im) with
             fwStatus := if storeFails then FwStatus.storeWrite else FwStatus.idle }).done

/-- The fuses that raise a kind's security version to n: a thermometer code of n bits (R392, Table 17-1). -/
def Fuses.raiseTo (kind n : Nat) : Fuses :=
  { lifecycle := 0, debugOpen := 0, keyRevoke := 0, svnRot := if kind = 1 then BitVec.ofNat 64 (2 ^ n - 1) else 0,
    svnCtrl := if kind = 1 then 0 else BitVec.ofNat 64 (2 ^ n - 1) }

/-- Debug is unlocked or open on this part. -/
def debugOn (z : Sec) (x : Fuses) : Bool := z.debugUnlocked || decide (x.debugOpen = 1)

/-- COMMIT_SVN (R392): the fused version of a kind rises to that of its running image, unless the inactive slot holds a newer one. -/
def execCommitSvn (f : FurrowIx) (v : W64) (s : State) : Host.Outcome State Fault Refusal :=
  let r := Run.start s
  let x := s.fuses[f]
  (if !s.reaches f 0x400018 ∨ v.extractLsb' 0 4 ≠ 2 then r
   else
     let r := r.modFur f fun c => c.modSec fun z => z.fwCmd v
     let z := (r.fur f).sec
     let kind := z.fwKind.toNat
     if debugOn z x || z.bootError != 0 || !(decide (kind = 1) || decide (kind = 2)) then r
     else match z.running kind with
       | none => r
       | some im =>
         let newer := (((z.slots kind).get (!z.slotB kind)).filter fun o => o.valid kind x && decide (im.svn < o.svn)).isSome
         if newer then r.modFur f fun c => c.modSec fun z => { z with fwStatus := FwStatus.notRunning }
         else (r.act (.burn f (Fuses.raiseTo kind im.svn))).modFur f fun c => c.modSec fun z => { z with fwStatus := FwStatus.idle }).done

/-! ### Digests (R394) -/

/-- An entry waits for its digest. -/
def LogEntry.isPending (e : LogEntry) : Bool := match e.state with | .pending _ => true | _ => false

/-- One of the four digest engines has an entry: it is among the first four that wait. -/
def Sec.atEngine (z : Sec) (seq : W64) : Option LogEntry := ((z.log.filter (·.isPending)).take 4).find? fun e => e.seq = seq

/-- An entry whose digest has been made: LOADED, or UNLOADED when its object has gone meanwhile (R395). -/
def LogEntry.finish (e : LogEntry) (d : BitVec 512) : LogEntry :=
  { e with digest := d, state := if e.state = .pending true then .unloaded else .loaded }

/-- An entry takes its digest. -/
def Sec.finishDigest (z : Sec) (seq : W64) (d : BitVec 512) : Sec :=
  { z with log := z.log.map fun e => if e.seq = seq ∧ e.isPending then e.finish d else e }

/-- DIGEST_DONE (R394): an engine has read an object where the load put it. Bytes that cannot be read leave a free digest (log 68). -/
def execDigestDone (f : FurrowIx) (seq : W64) (s : State) : Host.Outcome State Fault Refusal :=
  let r := Run.start s
  let c := s.furrow f
  (match c.sec.atEngine seq with
   | none => r
   | some e =>
     if hh : e.handle.toNat < 64 then
       let h : Handle := ⟨e.handle.toNat, hh⟩
       let tier := if e.inT1 then 1 else 2
       match (c.meets f h 0 tier e.offset.toNat e.length.toNat).bind c.badIn with
       | some (b, at_) =>
         let d := r.freeBytes 64
         d.2.modFur f fun c =>
           (c.raise (ueRecord b at_ h e.tag 0).unowned []).modSec fun z => z.finishDigest seq (BitVec.ofNat 512 (leNat d.1))
       | none =>
         let d := Config.sha512 (r.load f h 0 tier e.offset.toNat e.length.toNat)
         r.modFur f fun c => c.modSec fun z => z.finishDigest seq d
     else r).done

/-! ### The attestation report (R396, R397) -/

/-- One level of the Merkle tree above another. -/
def merkleUp : List (BitVec 512) → List (BitVec 512)
  | a :: b :: rest => Config.sha512 (0x01 :: (bytes64 a ++ bytes64 b)) :: merkleUp rest
  | [a] => [a]
  | [] => []

/-- The levels of the tree, up to the root; fuel bounds their number. -/
def merkleTop : Nat → List (BitVec 512) → BitVec 512
  | _, [] => 0
  | _, [a] => a
  | 0, a :: _ => a
  | n + 1, xs => merkleTop n (merkleUp xs)

/-- MERKLE_ROOT over entries in ascending SEQ (R397). -/
def merkle (es : List LogEntry) : BitVec 512 := merkleTop 13 (es.map fun e => Config.sha512 (0x00 :: e.bytes))

/-- The debug byte (Table 17-5). -/
def debugByte (z : Sec) (x : Fuses) : Nat := x.debugOpen.toNat + 2 * bit z.debugUnlocked

/-- The alias key in use (R387). -/
def aliasKey (f : FurrowIx) (z : Sec) (x : Fuses) : Config.KeyId :=
  .alias_ f (digestOf z.rotRun) (BitVec.ofNat 32 (svnOf z.rotRun)) (BitVec.ofNat 8 x.lifecycle.toNat)
    (BitVec.ofNat 8 (x.debugOpen.toNat + 2 * bit z.debugKey))

/-- The region entry of a context (Table 17-4). -/
def regionEntry (c : Furrow) (h : Handle) : List Byte :=
  let x := c.ctx[h]
  leBytes 2 h.val ++ leBytes 1 x.state.code ++ leBytes 1 (c.unitsOf h).length ++ leBytes 4 x.hbmBase.toNat ++
    leBytes 4 x.hbmSize.toNat ++ leBytes 4 x.grnBase.toNat ++ leBytes 4 x.grnSize.toNat ++ leBytes 4 x.spanId.toNat ++
    leBytes 1 x.role.code ++ zeros 7

/-- The contexts and log entries a report of a scope holds. -/
def reportParts (c : Furrow) : Option Handle → List Handle × List LogEntry
  | none => ((List.finRange 64).filter fun h => c.ctx[h].state ≠ .free, c.sec.log)
  | some h => ([h], c.sec.log.filter fun e => e.handle = 0xFFFF ∨ e.handle.toNat = h.val)

/-- The report of the furrow, or of one context (Table 17-4). -/
def report (s : State) (f : FurrowIx) (scope : Option Handle) (nonce : List Byte) : List Byte :=
  let c := s.furrow f
  let x := s.fuses[f]
  let z := c.sec
  let p := reportParts c scope
  let len := 512 + 32 * p.1.length + 128 * p.2.length + 64
  let body := leBytes 2 1 ++ leBytes 1 (bit scope.isSome) ++ leBytes 1 (scope.elim 0 fun h => h.val) ++
    leBytes 2 (c.fabricId f).toNat ++ leBytes 2 p.2.length ++ leBytes 4 len ++ leBytes 2 p.1.length ++ zeros 2 ++
    bytesAt nonce 0 32 ++ leBytes 8 c.cal.stamp.toNat ++ leBytes 4 c.health.restarts.toNat ++ leBytes 1 (bit c.cal.valid) ++
    zeros 3 ++ bytes32 (publicKeyOf (.device f)) ++ bytes32 (publicKeyOf (aliasKey f z x)) ++
    leBytes 8 (Config.serial f).toNat ++ leBytes 2 0x0832 ++ [Config.stepping f] ++ leBytes 1 f.val ++
    leBytes 1 x.lifecycle.toNat ++ leBytes 1 (debugByte z x) ++ leBytes 1 x.keyRevoke.toNat ++ zeros 1 ++
    leBytes 4 (svnOf z.rotRun) ++ leBytes 4 (svnOf z.ctrlRun) ++ leBytes 4 c.tally.version.toNat ++
    leBytes 1 (popCount x.svnRot) ++ leBytes 1 (popCount x.svnCtrl) ++ zeros 34 ++ bytes64 (digestOf z.rotRun) ++
    bytes64 (digestOf z.ctrlRun) ++ bytes64 z.tallyDigest ++ bytes64 (merkle p.2) ++ zeros 64 ++
    p.1.flatMap (regionEntry c) ++ p.2.flatMap LogEntry.bytes
  body ++ bytes64 (signWith (aliasKey f z x) body)

/-! ### SPDM (R398; message layouts of DSP0274: PRESUMED, log 67) -/

/-- A response of the negotiated version. -/
def Spdm.msg (x : Spdm) (code p1 p2 : Nat) (body : List Byte) : List Byte :=
  x.version.getD 0x10 :: (leBytes 1 code ++ leBytes 1 p1 ++ leBytes 1 p2 ++ body)

/-- An ERROR response. -/
def Spdm.err (x : Spdm) (code data : Nat) (ext : List Byte) : List Byte := x.msg 0x7F code data ext

/-- Error codes of the responder. -/
def SpdmErr.invalid : Nat := 0x01
def SpdmErr.unexpected : Nat := 0x04
def SpdmErr.unspecified : Nat := 0x05
def SpdmErr.unsupported : Nat := 0x07
def SpdmErr.large : Nat := 0x0F
def SpdmErr.mismatch : Nat := 0x41
def SpdmErr.notReady : Nat := 0x42

/-- An answer with the connection it leaves; a slow one is deferred. -/
structure SpdmReply where
  conn  : Spdm
  bytes : List Byte
  slow  : Bool

/-- A request is refused with an error; the connection stays. -/
def Spdm.no (x : Spdm) (code : Nat) : SpdmReply := ⟨x, x.err code 0 [], false⟩

/-- A request is answered, and both messages join the transcript. -/
def Spdm.yes (x : Spdm) (req resp : List Byte) (slow : Bool) : SpdmReply :=
  ⟨{ x with transcript := x.transcript ++ req ++ resp }, resp, slow⟩

/-- A request is answered with a signature over the transcript with it and the answer. -/
def Spdm.sign (x : Spdm) (k : Config.KeyId) (chal : Bool) (req resp : List Byte) (slow : Bool) : SpdmReply :=
  let t := x.transcript ++ req ++ resp
  ⟨{ x with transcript := t }, resp ++ bytes64 (signWith k (Config.spdmSigned (x.version.getD 0x10) chal t)), slow⟩

/-- Nothing that follows the negotiation is answered before it. -/
def Spdm.open_ (x : Spdm) : Bool := x.version.isSome && x.caps && x.algorithms

/-- VERSION: 1.0, 1.1 and 1.2. -/
def spdmVersions : List Byte :=
  [0x10, 0x04, 0, 0, 0, 3] ++ leBytes 2 0x1000 ++ leBytes 2 0x1100 ++ leBytes 2 0x1200

/-- GET_VERSION starts a connection anew. -/
def spdmVersion (req : List Byte) : SpdmReply :=
  ⟨{ Spdm.initial with version := some 0x12, transcript := req ++ spdmVersions }, spdmVersions, false⟩

/-- The responder's capability flags: CERT_CAP, CHAL_CAP, MEAS_CAP with signature, CHUNK_CAP (Table 17-6). -/
def spdmFlags : Nat := 2 ^ 1 + 2 ^ 2 + 2 ^ 4 + 2 ^ 17

/-- CAPABILITIES, in the version that the request is made in. -/
def spdmCapabilities (f : FurrowIx) (x : Spdm) (req : List Byte) : SpdmReply :=
  let v := req.getD 0 0
  if x.version.isNone || x.caps then x.no SpdmErr.unexpected
  else if !(v = 0x10 || v = 0x11 || v = 0x12) then x.no SpdmErr.mismatch
  else
    let x := { x with version := some v, caps := true, transfer := if v = 0x12 then fieldAt req 12 4 else 0 }
    let tail := if v = 0x12 then leBytes 4 (Config.spdmTransfer f).toNat ++ leBytes 4 (Config.spdmMessage f).toNat else []
    x.yes req (x.msg 0x61 0 0 ([0, Config.spdmExponent f, 0, 0] ++ leBytes 4 spdmFlags ++ tail)) false

/-- ALGORITHMS: EdDSA Ed25519 and SHA-512, or none of a kind the request does not offer (Table 17-6). -/
def spdmAlgorithms (x : Spdm) (req : List Byte) : SpdmReply :=
  if x.version.isNone || !x.caps || x.algorithms then x.no SpdmErr.unexpected
  else
    let spec := bitsOf (fieldAt req 6 1) 0 0
    let asym := if (fieldAt req 8 4).testBit 10 then 2 ^ 10 else 0
    let hash := if (fieldAt req 12 4).testBit 2 then 2 ^ 2 else 0
    let x := { x with algorithms := true }
    x.yes req (x.msg 0x63 0 0 (leBytes 2 36 ++ leBytes 1 spec ++ [0] ++ leBytes 4 (if spec = 1 then 2 ^ 3 else 0) ++ leBytes 4 asym ++
      leBytes 4 hash ++ zeros 16)) false

/-- DIGESTS: the digest of slot 0's chain, which ends with the alias key in use. -/
def spdmDigests (x : Spdm) (k : Config.KeyId) (req : List Byte) : SpdmReply :=
  if !x.open_ then x.no SpdmErr.unexpected
  else x.yes req (x.msg 0x01 0 1 (bytes64 (Config.sha512 (Config.certificateChain k)))) false

/-- CERTIFICATE: a portion of slot 0's chain. -/
def spdmCertificate (x : Spdm) (k : Config.KeyId) (req : List Byte) : SpdmReply :=
  let chain := Config.certificateChain k
  let off := fieldAt req 4 2
  if !x.open_ then x.no SpdmErr.unexpected
  else if req.getD 2 0 ≠ 0 ∨ chain.length ≤ off then x.no SpdmErr.invalid
  else
    let n := min (fieldAt req 6 2) (chain.length - off)
    x.yes req (x.msg 0x02 0 0 (leBytes 2 n ++ leBytes 2 (chain.length - off - n) ++ bytesAt chain off n)) false

/-- The size field of a measurement block, of 16 bits: a free value where the size exceeds it (log 67). -/
def spdmSize (n free : Nat) : Nat := if n < 65536 then n else free

/-- A measurement block: digests, or raw bit streams. -/
def spdmBlock (free : Nat) (index : Byte) (raw : Bool) (value : List Byte) : List Byte :=
  [index, 0x01] ++ leBytes 2 (spdmSize (value.length + 3) free) ++
    leBytes 1 ((Config.spdmValueKind index).toNat + 128 * bit raw) ++ leBytes 2 (spdmSize value.length free) ++ value

/-- The block of an index; none where it is absent (Table 17-6). -/
def spdmValue (s : State) (f : FurrowIx) (nonce : List Byte) (index : Nat) : Option (Bool × List Byte) :=
  let z := (s.furrow f).sec
  match index with
  | 1 => some (false, bytes64 (digestOf z.rotRun))
  | 2 => some (false, bytes64 (digestOf z.ctrlRun))
  | 3 => some (false, bytes64 z.tallyDigest)
  | 4 => some (true, bytesAt (report s f none nonce) 128 32)
  | 0x10 => some (true, report s f none nonce)
  | i =>
    if hh : 0x20 ≤ i ∧ i - 0x20 < 64 then
      let h : Handle := ⟨i - 0x20, hh.2⟩
      if (s.furrow f).ctx[h].state = .free then none else some (true, report s f (some h) nonce)
    else none

/-- The indices a request asks for: 0xFF returns 1–4 and 0x10. -/
def spdmIndices (op : Nat) : List Nat := if op = 0xFF then [1, 2, 3, 4, 0x10] else [op]

/-- MEASUREMENTS: the number of blocks, or blocks, signed when the request asks so (R396). -/
def spdmMeasurements (s : State) (f : FurrowIx) (k : Config.KeyId) (fresh : Nat) (x : Spdm) (req : List Byte) : SpdmReply :=
  let signed := (req.getD 2 0).getLsbD 0
  let op := (req.getD 3 0).toNat
  let nonce := if signed then bytesAt req 4 32 else zeros 32
  let free := ((Config.freeBits fresh).extractLsb' 0 16).toNat
  let vs := (spdmIndices op).map fun i => (spdmValue s f nonce i).map fun v => spdmBlock free (BitVec.ofNat 8 i) v.1 v.2
  let total := 5 + ((List.finRange 64).filter fun h => (s.furrow f).ctx[h].state ≠ .free).length
  let tail := bytes32 (Config.nonce (fresh + 1)) ++ leBytes 2 0
  if !x.open_ then x.no SpdmErr.unexpected
  else if op ≠ 0 ∧ vs.any Option.isNone then x.no SpdmErr.invalid
  else if signed ∧ 37 ≤ req.length ∧ bitsOf (req.getD 36 0).toNat 3 0 ≠ 0 then x.no SpdmErr.invalid
  else
    let blocks := if op = 0 then [] else vs.filterMap id
    let body := x.msg 0x60 (if op = 0 then total else 0) 0 (leBytes 1 blocks.length ++ leBytes 3 blocks.flatten.length ++ blocks.flatten ++ tail)
    let slow := decide (op = 0xFF) || decide (0x10 ≤ op)
    if signed then x.sign k false req body slow else x.yes req body slow

/-- CHALLENGE_AUTH: signed with the alias key in use. -/
def spdmChallenge (s : State) (f : FurrowIx) (k : Config.KeyId) (fresh : Nat) (x : Spdm) (req : List Byte) : SpdmReply :=
  let type_ := req.getD 3 0
  let blocks := ([1, 2, 3, 4, 0x10] : List Nat).filterMap fun i => (spdmValue s f (zeros 32) i).map (·.2)
  if !x.open_ then x.no SpdmErr.unexpected
  else if req.getD 2 0 ≠ 0 ∨ !(type_ = 0 ∨ type_ = 1 ∨ type_ = 0xFF) then x.no SpdmErr.invalid
  else x.sign k true req (x.msg 0x03 0 1 (bytes64 (Config.sha512 (Config.certificateChain k)) ++
    bytes32 (Config.nonce (fresh + 1)) ++ (if type_ = 0 then [] else bytes64 (Config.spdmSummary type_ blocks)) ++ leBytes 2 0)) false

/-- The answer to a request that no chunk carries. -/
def spdmAnswer (s : State) (f : FurrowIx) (x : Spdm) (fresh : Nat) (req : List Byte) : SpdmReply :=
  let k := aliasKey f (s.furrow f).sec s.fuses[f]
  match req.getD 1 0 with
  | 0x84 => spdmVersion req
  | 0xE1 => spdmCapabilities f x req
  | 0xE3 => spdmAlgorithms x req
  | 0x81 => spdmDigests x k req
  | 0x82 => spdmCertificate x k req
  | 0x83 => spdmChallenge s f k fresh x req
  | 0xE0 => spdmMeasurements s f k fresh x req
  | _ => ⟨x, x.err SpdmErr.unsupported (req.getD 1 0).toNat [], false⟩

/-- An answer above the requester's transfer size waits to be read in chunks. -/
def Spdm.send (x : Spdm) (resp : List Byte) : Spdm :=
  if x.version = some 0x12 ∧ 0 < x.transfer ∧ x.transfer < resp.length then
    { x with getting := some (0, 0, resp), answer := x.err SpdmErr.large 0 [0] }
  else { x with answer := resp }

/-- An answer goes out, or waits under a token for RESPOND_IF_READY while its report is being signed (log 67). -/
def SpdmReply.give (a : SpdmReply) (req : List Byte) : Spdm :=
  if a.slow then
    { a.conn with deferred := some (0, a.bytes), answer := a.conn.err SpdmErr.notReady 0 [0, req.getD 1 0, 0, 0] }
  else a.conn.send a.bytes

/-- The connection of a path. -/
def Sec.conn (z : Sec) : SpdmChannel → Spdm
  | .pcie => z.pcie
  | .i3c => z.i3c

/-- The connection of a path replaced. -/
def Sec.setConn (z : Sec) (c : SpdmChannel) (x : Spdm) : Sec :=
  match c with
  | .pcie => { z with pcie := x }
  | .i3c => { z with i3c := x }

/-- A path reaches the root of trust: its firmware runs, and on PCI Express the host port does (R390, R399). -/
def spdmReaches (s : State) (f : FurrowIx) (c : SpdmChannel) : Bool :=
  (s.furrow f).sec.rotRun.isSome && (c = .i3c || (s.hdl.portUp && !s.hdl.failed))

/-- A request of a code arrives on a path. A RETURNED furrow answers only with errors (R386). -/
def runSpdm (code : Byte) (f : FurrowIx) (c : SpdmChannel) (req : List Byte) (s : State) (work : Spdm → Nat → Spdm) : Run s :=
  let r := Run.start s
  if !spdmReaches s f c ∨ req.getD 1 0 ≠ code then r
  else
    let x := (s.furrow f).sec.conn c
    let y := if s.fuses[f].lifecycle = 2 then { x with answer := x.err SpdmErr.unspecified 0 [] } else work x s.fresh
    (r.act (.draw 2)).modFur f fun k => k.modSec fun z => z.setConn c y

/-- A request that stands alone. -/
def runRequest (code : Byte) (f : FurrowIx) (c : SpdmChannel) (req : List Byte) (s : State) : Host.Outcome State Fault Refusal :=
  (runSpdm code f c req s fun x fresh => (spdmAnswer s f x fresh req).give req).done

/-- GET_VERSION (R398). -/
def execGetVersion (f : FurrowIx) (c : SpdmChannel) (msg : List Byte) (s : State) : Host.Outcome State Fault Refusal :=
  runRequest 0x84 f c msg s

/-- GET_CAPABILITIES (R398). -/
def execGetCapabilities (f : FurrowIx) (c : SpdmChannel) (msg : List Byte) (s : State) : Host.Outcome State Fault Refusal :=
  runRequest 0xE1 f c msg s

/-- NEGOTIATE_ALGORITHMS (R398). -/
def execNegotiateAlgorithms (f : FurrowIx) (c : SpdmChannel) (msg : List Byte) (s : State) : Host.Outcome State Fault Refusal :=
  runRequest 0xE3 f c msg s

/-- GET_DIGESTS (R398). -/
def execGetDigests (f : FurrowIx) (c : SpdmChannel) (msg : List Byte) (s : State) : Host.Outcome State Fault Refusal :=
  runRequest 0x81 f c msg s

/-- GET_CERTIFICATE (R398). -/
def execGetCertificate (f : FurrowIx) (c : SpdmChannel) (msg : List Byte) (s : State) : Host.Outcome State Fault Refusal :=
  runRequest 0x82 f c msg s

/-- CHALLENGE (R398). -/
def execChallenge (f : FurrowIx) (c : SpdmChannel) (msg : List Byte) (s : State) : Host.Outcome State Fault Refusal :=
  runRequest 0x83 f c msg s

/-- GET_MEASUREMENTS (R396, R398): the report's snapshot is taken as the request is registered. -/
def execGetMeasurements (f : FurrowIx) (c : SpdmChannel) (msg : List Byte) (s : State) : Host.Outcome State Fault Refusal :=
  runRequest 0xE0 f c msg s

/-- A chunk of a large request: the last one has the request answered. -/
def chunkSent (s : State) (f : FurrowIx) (x : Spdm) (fresh : Nat) (req : List Byte) : Spdm :=
  let handle := req.getD 3 0
  let no := fieldAt req 4 2
  let size := fieldAt req 8 4
  let chunk := bytesAt req (if no = 0 then 16 else 12) size
  let before : Option (List Byte) :=
    if no = 0 then some [] else (x.sending.filter fun p => p.1 = handle ∧ p.2.1.toNat = no).map (·.2.2)
  let ack := fun (early : Nat) (more : List Byte) => x.msg 0x05 early handle.toNat (leBytes 2 no ++ more)
  if !x.open_ then { x with answer := x.err SpdmErr.unexpected 0 [] }
  else match before with
    | none => { x with sending := none, answer := ack 1 (x.err SpdmErr.invalid 0 []) }
    | some bs =>
      let all := bs ++ chunk
      if (req.getD 2 0).getLsbD 0 then
        let a := spdmAnswer s f { x with sending := none } fresh all
        let y := a.give all
        { y with answer := ack 0 y.answer }
      else { x with sending := some (handle, BitVec.ofNat 16 (no + 1), all), answer := ack 0 [] }

/-- CHUNK_SEND (R398). -/
def execChunkSend (f : FurrowIx) (c : SpdmChannel) (msg : List Byte) (s : State) : Host.Outcome State Fault Refusal :=
  (runSpdm 0x85 f c msg s fun x fresh => chunkSent s f x fresh msg).done

/-- The next chunk of a large response. -/
def chunkGot (x : Spdm) (req : List Byte) : Spdm :=
  let handle := req.getD 3 0
  let no := fieldAt req 4 2
  match x.getting.filter fun p => p.1 = handle ∧ p.2.1.toNat = no with
  | none => { x with answer := x.err SpdmErr.invalid 0 [] }
  | some (_, _, rest) =>
    let room := x.transfer - (if no = 0 then 16 else 12)
    let n := min room rest.length
    let last := decide (rest.length ≤ room)
    { x with
      getting := if last then none else some (handle, BitVec.ofNat 16 (no + 1), rest.drop n)
      answer := x.msg 0x06 (bit last) handle.toNat (leBytes 2 no ++ zeros 2 ++ leBytes 4 n ++
        (if no = 0 then leBytes 4 rest.length else []) ++ rest.take n) }

/-- CHUNK_GET (R398). -/
def execChunkGet (f : FurrowIx) (c : SpdmChannel) (msg : List Byte) (s : State) : Host.Outcome State Fault Refusal :=
  (runSpdm 0x86 f c msg s fun x _ => chunkGot x msg).done

/-- RESPOND_IF_READY (R398): a deferred response is ready. -/
def execRespondIfReady (f : FurrowIx) (c : SpdmChannel) (msg : List Byte) (s : State) : Host.Outcome State Fault Refusal :=
  (runSpdm 0xFF f c msg s fun x _ =>
    match x.deferred.filter fun p => p.1 = msg.getD 3 0 with
    | some p => { x with deferred := none }.send p.2
    | none => { x with answer := x.err SpdmErr.unexpected 0 [] }).done

/-- MCTP_SET_EID (R399): the bus owner assigns an endpoint identifier. -/
def execMctpSetEid (f : FurrowIx) (eid : Byte) (s : State) : Host.Outcome State Fault Refusal :=
  ((Run.start s).modFur f fun c => if c.sec.rotRun.isSome then c.modSec fun z => { z with eid := eid } else c).done

/-! ### Debug unlock and zeroisation (R400–R402) -/

/-- The root of trust answers its TAP: its firmware runs. -/
def Furrow.tapUp (c : Furrow) : Bool := c.sec.rotRun.isSome && c.life != .reset

/-- The 64 bytes of a debug challenge (R401). -/
def challengeBytes (f : FurrowIx) (z : Sec) (x : Fuses) (nonce : BitVec 256) : List Byte :=
  leBytes 8 (Config.serial f).toNat ++ leBytes 2 0x0832 ++ leBytes 1 f.val ++ leBytes 1 x.lifecycle.toNat ++
    leBytes 4 (svnOf z.rotRun) ++ bytes32 nonce ++ zeros 16

/-- DBG_CHALLENGE (R401): a fresh challenge replaces the one before; after eight failures only zeros come out. -/
def execDbgChallenge (f : FurrowIx) (s : State) : Host.Outcome State Fault Refusal :=
  let r := Run.start s
  let c := s.furrow f
  (if !c.tapUp then r
   else if 8 ≤ c.sec.unlockFails.toNat then r.modFur f fun c => c.modSec fun z => { z with tapOut := zeros 64, challenge := none }
   else
     let bs := challengeBytes f c.sec s.fuses[f] (Config.nonce s.fresh)
     (r.act (.draw 1)).modFur f fun c => c.modSec fun z => { z with tapOut := bs, challenge := some ⟨bs, c.ns⟩ }).done

/-- The challenge is still valid: 600 s of FUR_NS have not passed (R401). -/
def Furrow.openChallenge (c : Furrow) : Option (List Byte) :=
  (c.sec.challenge.filter fun x => decide (elapsed c.ns x.since < 600000000000)).map (·.bytes)

/-- A grant verifies under a debug-grant key, index 4 or 5, that is not revoked. -/
def grantVerifies (x : Fuses) (bytes grant : List Byte) : Bool :=
  ([4, 5] : List (Fin 6)).any fun k => !x.keyRevoke.getLsbD k.val && Config.romVerifies k bytes grant

/-- Steps 1 and 2 of R402: fetching stops, and every outstanding request ends CANCELLED. A part of another furrow's request stops. -/
def Run.zeroiseRequests (r : Run s₀) (f : FurrowIx) : Run s₀ :=
  let r := r.modFur f fun c => { c with life := .zeroising }
  let open_ := (List.finRange 64).flatMap fun h => (r.fur f).outstanding h
  r.each open_ fun r q =>
    if q.origin.isSome then r.modFur f fun c => c.dropReq q.h q.tag
    else
      let r := if q.isEnded then r else
        ((r.modFur f fun c => c.cancelReq f q.h q.tag).closeStream f q.h q.tag Status.cancelled).modFur f fun c =>
          c.finish f q.h q.tag (.bare Status.cancelled 0)
      r.postFinal f q.h q.tag

/-- Step 3 of R402: every context other than handle 0 becomes FREE, and the Tally closes its record. -/
def Furrow.zeroiseContexts (c : Furrow) (f : FurrowIx) : Furrow :=
  ((List.finRange 64).filter fun h => h ≠ 0).foldl (fun (c : Furrow) h =>
    if c.ctx[h].state = .free then c
    else ((((c.tallyClose f h 0x04 false).endBinding f h).freeUnitsOf h).modCtx h fun _ => Context.initial)) c

/-- Step 5 of R402: slots and handles return to their reset values, the log keeps SEQ 0–2, and the Granary goes OFFLINE. -/
def Furrow.zeroiseUnits (c : Furrow) : Furrow :=
  { c with
    reqs := c.reqs.filter fun q => q.h = 0 ∧ q.isEnded
    cores := Vector.replicate 64 .idle, texts := Vector.replicate 8 .idle
    counts := { c.counts with bad := [] }
    srch := Vector.replicate 8 .initial, tbl := Vector.replicate 16 .initial, attached := []
    winEn := Vector.replicate 64 false, winSize := Vector.replicate 64 0, windows := []
    toks := [], tokStatus := Vector.replicate 64 (0, 0), plans := [], ptOffset := Vector.replicate 64 0
    ptLog := Vector.replicate 64 0, ptPaused := Vector.replicate 64 0, steps := [], peers := [], halfImages := []
    pyr := { c.pyr with txs := [], inbox := [], spans := [], orphans := [] }
    grn := { Granary.initial c.grn.nand with
      mapBase := c.grn.mapBase, idleUs := c.grn.idleUs, bgFree := c.grn.bgFree, fgFree := c.grn.fgFree, barred := true } }

/-- The furrow zeroises on a successful grant (R402). -/
def Run.zeroise (r : Run s₀) (f : FurrowIx) : Run s₀ :=
  let r := (r.zeroiseRequests f).modFur f fun c => c.zeroiseContexts f
  let r := ((r.act (.wipe (.hbm f))).act (.wipe (.t1 f))).act (.wipe (.t0 f))
  r.modFur f fun c =>
    let c := (c.zeroiseUnits).modCtx 0 fun x =>
      { x with spanId := 0, role := .none, pairs := [], rings := { x.rings with kept := [], openRun := none } }
    { c with
      life := .ready
      sec := { c.sec with log := c.sec.log.filter fun e => decide (e.seq.toNat < 3)
                          debugKey := true, debugUnlocked := true, scrubPending := true } }

/-- DBG_GRANT (R401, R402): a grant that verifies unlocks debug and zeroises the furrow; one that fails counts. -/
def execDbgGrant (f : FurrowIx) (grant : List Byte) (s : State) : Host.Outcome State Fault Refusal :=
  let r := Run.start s
  let c := s.furrow f
  let good := match c.openChallenge with
    | some bs => decide (grant.length = 64) && grantVerifies s.fuses[f] bs grant
    | none => false
  (if !c.tapUp ∨ !c.serves then r
   else
     let r := r.modFur f fun c => c.modSec fun z => { z with challenge := none }
     if good then r.zeroise f
     else r.modFur f fun c => c.modSec fun z => { z with unlockFails := BitVec.ofNat 4 (min 8 (z.unlockFails.toNat + 1)) }).done

/-- DBG_CHALLENGE_EXPIRY (R401): a challenge of 600 s ago is no longer valid. -/
def execDbgChallengeExpiry (f : FurrowIx) (s : State) : Host.Outcome State Fault Refusal :=
  ((Run.start s).modFur f fun c => if c.openChallenge.isNone then c.modSec fun z => { z with challenge := none } else c).done

/-- A boundary-scan instruction is loaded (R400): in reset it takes effect and sets SCRUB_PENDING; out of reset it selects BYPASS
unless debug is on, and then only sets SCRUB_PENDING (DEDUCED, log 68). -/
def Run.scan (r : Run s₀) (f : FurrowIx) (code : Byte) : Run s₀ :=
  let x := r.now.fuses[f]
  r.modFur f fun c =>
    if c.life = .reset then c.modSec fun z => { z with extest := some code, scrubPending := true }
    else if debugOn c.sec x then c.modSec fun z => { z with scrubPending := true } else c

/-- EXTEST (R400). -/
def execExtest (f : FurrowIx) (s : State) : Host.Outcome State Fault Refusal := ((Run.start s).scan f 0).done

/-- EXTEST_PULSE (R400). -/
def execExtestPulse (f : FurrowIx) (s : State) : Host.Outcome State Fault Refusal := ((Run.start s).scan f 1).done

/-- EXTEST_TRAIN (R400). -/
def execExtestTrain (f : FurrowIx) (s : State) : Host.Outcome State Fault Refusal := ((Run.start s).scan f 2).done

end Sys2Proof.Machine
end

