-- ==== Sys2Proof/Machine/Power.lean ====
section
/-! DEFINITION. Power, clocks, resets and the calendar (chapter 20), with the input lands of chapter 21. -/

namespace Sys2Proof.Machine

variable {s₀ : State}

/-- The furrow runs: it is neither held in reset nor LOST. -/
def Furrow.alive (c : Furrow) : Bool := c.life != .reset && c.life != .lost

/-- A record of the furrow, while its error ring runs. -/
def Furrow.report (c : Furrow) (e : ErrRec) : Furrow := if c.alive then c.raise e [] else c

/-! ### The calendar (R452–R455, R459) -/

/-- CAL_SET (R455): it takes effect only while the calendar is invalid. -/
def execCalSet (f : FurrowIx) (v : W64) (s : State) : Host.Outcome State Fault Refusal :=
  ((Run.start s).modFur f fun c =>
    if s.reaches f 0x700050 ∧ !c.cal.valid then c.modCal fun k => { k with stamp := v, valid := true } else c).done

/-- CAL_SLEW_WRITE (R455): −200 to +200 ppm; other values leave the field unchanged (Table 20-9). -/
def execCalSlewWrite (f : FurrowIx) (v : W16) (s : State) : Host.Outcome State Fault Refusal :=
  ((Run.start s).modFur f fun c =>
    if s.reaches f 0x700058 ∧ -200 ≤ v.toInt ∧ v.toInt ≤ 200 then c.modCal fun k => { k with slew := v } else c).done

/-- XTAL_FAIL (R454, R412): no edge for 1 ms. The calendar becomes invalid, the Tally enters CLOCK_FAULT, and the
records open from now on carry CAL_INVALID (R413). -/
def execXtalFail (f : FurrowIx) (s : State) : Host.Outcome State Fault Refusal :=
  ((Run.start s).modFur f fun c =>
    if !c.cal.running ∨ !c.cal.latch then c
    else
      let c := (c.modCal fun k => { k with running := false, xtalFail := true, valid := false }).report (errRec 0x76 0 0)
      let c := if c.tally.runs then c.tallyFault f 0 else c
      c.modTally fun t => { t with open_ := t.open_.map fun o => o.map fun x => { x with calBad := true } }).done

/-- XTAL_RESTART (R454): the crystal gives edges again; the count goes on from where it stopped. -/
def execXtalRestart (f : FurrowIx) (s : State) : Host.Outcome State Fault Refusal :=
  ((Run.start s).modFur f fun c =>
    if c.cal.running ∨ !c.cal.latch then c
    else (c.modCal fun k => { k with running := true, xtalFail := false }).keepHealth fun x => { x with restarts := x.restarts + 1 }).done

/-- VBAT_SAMPLE (R459): missing, reversed or below 2.0 V is reported once, when it starts. The reading is 0 for a reversed cell. -/
def execVbatSample (f : FurrowIx) (mv : W16) (s : State) : Host.Outcome State Fault Refusal :=
  let low := decide (mv.toNat < 2000)
  if !s.hdl.vaux then (Run.start s).done
  else (((Run.start s).modHdl fun d => { d with vbat := !low }).modFur f fun c =>
    let onset := low && !c.cal.vbatBad
    let c := c.modCal fun k => { k with vbatBad := low }
    if onset then c.report (errRec 0x75 0 0) else c).done

/-! ### Core voltage (R440–R442) -/

/-- VNOM + VOFS in mV (R440). -/
def Furrow.coreRequest (c : Furrow) (f : FurrowIx) : W16 := BitVec.ofNat 16 (Config.vnom f + c.health.vofs.toNat)

/-- AVS_FRAME_FAIL (R441): the third attempt of a frame has failed; the voltage last confirmed stands. -/
def execAvsFrameFail (f : FurrowIx) (s : State) : Host.Outcome State Fault Refusal :=
  ((Run.start s).modFur f fun c =>
    if !c.alive ∨ !c.pwr.vrEn ∨ c.pwr.avsFault then c
    else (c.modPwr fun p => { p with avsFault := true, reqMv := p.confMv }).report (errRec 0x78 0 3)).done

/-- AVS_POLL (R441): the link is polled while it is at fault; an answer ends that. -/
def execAvsPoll (f : FurrowIx) (answers : Bool) (s : State) : Host.Outcome State Fault Refusal :=
  ((Run.start s).modFur f fun c =>
    if c.alive ∧ c.pwr.avsFault ∧ answers then c.modPwr fun p => { p with avsFault := false } else c).done

/-- The core voltage lies within ±3 % of the request. -/
def Power.inRange (p : Power) (mv : W16) : Bool :=
  decide (100 * mv.toNat ≤ 103 * p.reqMv.toNat) && decide (97 * p.reqMv.toNat ≤ 100 * mv.toNat)

/-- The core voltage lies outside 0.62–0.92 V. -/
def farOut (mv : W16) : Bool := decide (mv.toNat < 620) || decide (920 < mv.toNat)

/-- What a reading of the core rail leaves: the registers, and since when the voltage has been out, in and far out. A rail fault ends
after 10 ms within range; a reading within range confirms the request (log 69). -/
def Power.sampled (p : Power) (mv da : W16) (ns : W64) : Power :=
  let ok := p.inRange mv
  let inn := if ok then some (p.inSince.getD ns) else none
  { p with
    coreMv := mv, coreDa := da, confMv := if ok then p.reqMv else p.confMv
    outSince := if ok then none else some (p.outSince.getD ns)
    inSince := inn
    farSince := if farOut mv then some (p.farSince.getD ns) else none
    railFault := p.railFault && !(inn.any fun t => decide (10000000 ≤ elapsed ns t))
    nextSample := ns + 100000 }

/-- CORE_RAIL_SAMPLE (R442): every 100 µs. -/
def execCoreRailSample (f : FurrowIx) (mv da : W16) (s : State) : Host.Outcome State Fault Refusal :=
  ((Run.start s).modFur f fun c =>
    if c.alive ∧ c.pwr.vrEn ∧ c.pwr.nextSample.toNat ≤ c.ns.toNat then c.modPwr fun p => p.sampled mv da c.ns else c).done

/-- Since a moment at least so many ns have passed. -/
def lasting (ns : W64) (t : Option W64) (n : Nat) : Bool := t.any fun t => decide (n ≤ elapsed ns t)

/-- The level in force reaches every choice that waits for its boundary (R80, R458). -/
def Furrow.raiseTops (c : Furrow) : Furrow :=
  { c with cores := c.cores.map fun x => x.raise c.pwr.level, texts := c.texts.map fun x => x.raise c.pwr.level }

/-- RAIL_FAULT (R442): outside ±3 % for 1 ms. -/
def execRailFault (f : FurrowIx) (s : State) : Host.Outcome State Fault Refusal :=
  ((Run.start s).modFur f fun c =>
    if c.alive ∧ !c.pwr.railFault ∧ lasting c.ns c.pwr.outSince 1000000 then
      ((c.modPwr fun p => { p with railFault := true, level := 15 }).raiseTops).report
        (errRec 0x73 0 (c.pwr.coreMv.toNat + 2 ^ 16 * c.pwr.reqMv.toNat))
    else c).done

/-- RAIL_OUT_OF_LIMITS (R442): outside 0.62–0.92 V for 100 µs takes the furrow offline with cause 0x11. -/
def execRailOutOfLimits (f : FurrowIx) (s : State) : Host.Outcome State Fault Refusal :=
  let c := s.furrow f
  (if lasting c.ns c.pwr.farSince 100000 then (Run.start s).lose f 0x11 else Run.start s).done

/-! ### The headland's buses and outputs (R443, R459, R469) -/

/-- Regulator k is to be read (HDL_PMB_ADDR). -/
def Headland.polls (d : Headland) (k : Fin 4) : Bool := d.pmbAddr.getLsbD (8 * k.val + 7) && !d.failed && d.mainPower && !d.perst

/-- PMBUS_POLL (R443): a reading, or no answer. Any set bit of STATUS_WORD counts as a fault (log 69). -/
def execPmbusPoll (k : Fin 4) (a : Option PmbReading) (s : State) : Host.Outcome State Fault Refusal :=
  let r := Run.start s
  (if !s.hdl.polls k then r
   else match a with
     | none => r.modHdl fun d => { d with pmbSince := d.pmbSince.set k (d.pmbSince[k] + 1), alert := false }
     | some x =>
       let r := r.modHdl fun d =>
         { d with
           alert := false, pmbSince := d.pmbSince.set k 0
           pmb := d.pmb.set k { voutMv := x.voutMv, ioutDa := x.ioutDa, temp := x.temp, status := x.status, stale := false } }
       if x.status = 0 then r else r.raisePf0 1).done

/-- PMBUS_STALE (R443): a regulator that has not answered for 35 ms, three polls and more. -/
def execPmbusStale (k : Fin 4) (s : State) : Host.Outcome State Fault Refusal :=
  ((Run.start s).modHdl fun d =>
    if d.polls k ∧ 3 ≤ d.pmbSince[k] then { d with pmb := d.pmb.set k { d.pmb[k] with stale := true } } else d).done

/-- An INPUT_EVENT record (Table 20-8). -/
def inputEvent (land : Byte) : ErrRec := errRec 0x77 0 land.toNat

/-- An INPUT_EVENT of a module land goes to every furrow in READY or DEGRADED (R469). -/
def Run.landEvent (r : Run s₀) (land : Byte) : Run s₀ :=
  if r.now.hdl.failed then r
  else r.each (List.finRange 8) fun r f => r.modFur f fun c => if c.serves then c.raiseLand land (inputEvent land) else c

/-- PMB_ALERT (R469): the line falls. One interrupt, then polling; a second fall before the next poll is an INPUT_EVENT (log 69). -/
def execPmbAlert (s : State) : Host.Outcome State Fault Refusal :=
  let r := Run.start s
  (if s.hdl.failed ∨ s.hdl.perst then r
   else if s.hdl.alert then r.landEvent 0x06
   else (r.modHdl fun d => { d with alert := true }).raisePf0 1).done

/-- BUS_HELD_LOW (R459, R469): a land held low for 35 ms. The PMBus is cleared and the regulator's values are STALE; the sideband
endpoint releases its bus. -/
def execBusHeldLow (b : BusLine) (clock : Bool) (s : State) : Host.Outcome State Fault Refusal :=
  let r := Run.start s
  (if s.hdl.failed then r
   else match b with
     | .pmbus k => (r.modHdl fun d => { d with pmb := d.pmb.set k { d.pmb[k] with stale := true } }).landEvent (if clock then 0x08 else 0x07)
     | .i3c _ => r.landEvent (if clock then 0x0A else 0x09)).done

/-- SIDEBAND_SHORT (R459, R457): a driven output disagrees with its pin for 100 µs, or is found good again at the next try. -/
def execSidebandShort (p : SidebandPin) (gone : Bool) (s : State) : Host.Outcome State Fault Refusal :=
  let r := Run.start s
  (match p with
   | .attn => r.modHdl fun d => if gone then { d with attnShort := false } else { d with attnShort := d.attnShort || d.attn }
   | .thermtrip => r.modHdl fun d => if gone then { d with tripShort := false } else { d with tripShort := d.tripShort || d.thermtrip }
   | .vrEn f =>
     if gone then r
     else (r.lose f 0x11).modFur f fun c => if c.life = FurState.reset then c.modPwr fun p => { p with vrEn := false } else c
   | .hdlVrEn => if gone then r else r.modHdl fun d => { d with portUp := false }).done

/-! ### Temperature and power (R456–R458) -/

/-- The level and flags that an evaluation leaves (R458). A stack at 95 °C counts as a hot junction. -/
def Power.throttled (p : Power) (m : ThermalReading) : Power :=
  let above := decide (p.limitW.toNat < m.powerW.toNat)
  let hot := decide (p.tThrottle.toNat ≤ m.tj.toNat) || decide (95 ≤ m.hbm.toNat)
  let cool := decide (m.powerW.toNat + 20 < p.limitW.toNat) && decide (m.tj.toNat + 3 < p.tThrottle.toNat) && decide (m.hbm.toNat < 95)
  let n := p.level.toNat
  let n := if p.railFault then 15 else if above || hot then min (n + 1) 15 else if cool then n - 1 else n
  { p with
    level := BitVec.ofNat 4 n, thermal := hot || (p.thermal && n != 0), power := above || (p.power && n != 0)
    powerW := m.powerW, tjMax := m.tj, hbmTmax := m.hbm }

/-- The records that an evaluation writes at the onset of throttling (Table 20-8). -/
def Furrow.throttleRecords (c : Furrow) (old : Power) (m : ThermalReading) : Furrow :=
  let c := if c.pwr.thermal && !old.thermal then
      c.report (errRec 0x70 0 (if old.tThrottle.toNat ≤ m.tj.toNat then m.tj.toNat else m.hbm.toNat)) else c
  if c.pwr.power && !old.power then c.report (errRec 0x71 0 m.powerW.toNat) else c

/-- THROTTLE_EVAL (R458): every 100 µs. MODULE_W is the sum of the furrows' readings (log 69). -/
def execThrottleEval (f : FurrowIx) (m : ThermalReading) (s : State) : Host.Outcome State Fault Refusal :=
  let c := s.furrow f
  let r := Run.start s
  (if !c.alive ∨ c.ns.toNat < c.pwr.nextEval.toNat then r
   else
     let r := r.modFur f fun c =>
       (c.modPwr fun p => { p.throttled m with nextEval := c.ns + 100000 }).raiseTops.throttleRecords c.pwr m
     if r.now.hdl.failed then r
     else r.modHdl fun d => { d with moduleW := BitVec.ofNat 16 (sumOf ((List.finRange 8).map fun g => (r.fur g).pwr.powerW.toNat)) }).done

/-- A reading over its trip limit: 115 °C at a junction, 105 °C at a stack (Table 20-6). -/
def trips (m : ThermalReading) : Bool := decide (115 ≤ m.tj.toNat) || decide (105 ≤ m.hbm.toNat)

/-- DETAIL of THERMAL_TRIP: °C, and 0xFF for a junction or the stack. -/
def tripDetail (m : ThermalReading) : Nat :=
  if 115 ≤ m.tj.toNat then m.tj.toNat + 256 * 0xFF else m.hbm.toNat + 256 * m.stack.val

/-- THERMAL_TRIP (R456): the furrow goes offline with cause 0x10, VR_EN_Fn is released, and THERMTRIP_N is asserted. -/
def execThermalTrip (f : FurrowIx) (m : ThermalReading) (s : State) : Host.Outcome State Fault Refusal :=
  let r := Run.start s
  (if !trips m ∨ !(s.furrow f).alive then r
   else
     let r := (r.modFur f fun c => c.report (errRec 0x72 4 (tripDetail m))).lose f 0x10
     let r := r.modFur f fun c => c.modPwr fun p => { p with vrEn := false }
     if r.now.hdl.failed then r
     else r.modHdl fun d => { d with thermtrip := true, tripMap := addBit d.tripMap f.val }).done

/-- HEADLAND_TRIP (R456, R457): the headland stops its PCIe port, asserts THERMTRIP_N and releases HDL_VR_EN. -/
def execHeadlandTrip (tj : Byte) (s : State) : Host.Outcome State Fault Refusal :=
  ((Run.start s).modHdl fun d =>
    if d.failed ∨ tj.toNat < 115 then d
    else { d with tj := tj, portUp := false, thermtrip := true, hdlVrEn := false, hdlTripped := true, failed := true }).done

/-- REFCLK_LOSS (R451): the reference stops or leaves ±1,000 ppm after lock. -/
def execRefclkLoss (f : FurrowIx) (s : State) : Host.Outcome State Fault Refusal := ((Run.start s).lose f 0x04).done

/-! ### Resets (R446–R449) -/

/-- The stacks whose contents a reset keeps: those in service whose controller ran, and those already in self-refresh (R448). -/
def Furrow.keptStacks (c : Furrow) : BitVec 4 :=
  if c.serves || c.life = .lost || c.life = .zeroising then c.health.hbmMap else c.pwr.selfRefresh

/-- The health record as read at reset: the newer copy that checks, or everything in service (R436). -/
def Furrow.readHealth (c : Furrow) : Health :=
  (if newerCopy c.healthA c.healthB then c.healthA else c.healthB).getD .fresh

/-- The root of trust after a furrow reset: what its boot store, its island and SCRUB_PENDING keep. -/
def Sec.afterReset (z : Sec) (scrub : Bool) : Sec :=
  { Sec.initial z.rot z.ctrl with scrubPending := scrub, selfTestBad := z.selfTestBad, fuseReadBad := z.fuseReadBad }

/-- A furrow held in reset: every register at its Reset value, and what no reset touches as it was (R447, R448). -/
def Furrow.held (c : Furrow) (f : FurrowIx) (kept : BitVec 4) (scrub vrEn : Bool) : Furrow :=
  let b := Furrow.initial f
  let x := c.readHealth
  { b with
    order := c.order, health := x, t1Owner := x.unitsAtReset, healthA := c.healthA, healthB := c.healthB
    recordFail := c.healthA.isNone && c.healthB.isNone
    counts := { b.counts with bad := c.counts.bad }
    pwr := { Power.initial (BitVec.ofNat 16 (Config.vnom f + x.vofs.toNat)) with
      hbmKept := kept, selfRefresh := kept, vrEn := vrEn, confMv := c.pwr.confMv }
    cal := c.cal, tally := { c.tally with good := 0, lastNs := 0 }
    sec := c.sec.afterReset scrub, grn := Granary.initial c.grn.nand }

/-- A furrow reset up to its boot (R448, R449): the Tally closes its open records, and a zeroisation under way leaves the next boot to
clear HBM. -/
def Furrow.resetFor (c : Furrow) (f : FurrowIx) (vrEn : Bool) : Furrow :=
  (c.tallyCloseAll f 0x05 false).held f c.keptStacks (c.sec.scrubPending || c.life = .zeroising) vrEn

/-- A furrow boots once its PLL locks; else it stays RESET with PLL_FAIL set (R445). -/
def Furrow.start (c : Furrow) (x : Fuses) (locked : Bool) : Furrow :=
  if locked then c.boot x else c.modPwr fun p => { p with pllFail := true }

/-- FURROW_RESET (R447–R449): a function-level reset of PF1–PF8, which the host port carries. The headland's shadow of that furrow is
reset with it, and reads LOST until a LOST furrow is READY again (R14, Table 20-4). -/
def execFurrowReset (f : FurrowIx) (locked : Bool) (s : State) : Host.Outcome State Fault Refusal :=
  let r := Run.start s
  (if s.hdl.perst ∨ !s.hdl.mainPower ∨ !s.hdl.portUp ∨ s.hdl.failed then r
   else
     let r := r.modFur f fun c => (c.resetFor f true).start s.fuses[f] locked
     r.shadow f (if s.hdl.lostMap.getLsbD f.val then .lost else (r.fur f).life)).done

/-- The headland after PERST# or power-up: its registers at their reset values, its supplies and pins as they stand. -/
def Headland.held (d : Headland) : Headland :=
  { Headland.initial with
    hdlVrEn := d.hdlVrEn, hdlTripped := d.hdlTripped, vaux := d.vaux, vbat := d.vbat, mainPower := d.mainPower,
    failed := !d.hdlVrEn }

/-- PERST_ASSERT (R446, R447, R460): an assertion of 10 µs or more resets the module; HBM goes to self-refresh, and VR_EN_Fn is
released. -/
def execPerstAssert (s : State) : Host.Outcome State Fault Refusal :=
  (if s.hdl.perst ∨ !s.hdl.vaux then Run.start s
   else ((Run.start s).each (List.finRange 8) fun r f => r.modFur f fun c => c.resetFor f false).modHdl Headland.held).done

/-- VR_EN_ASSERT (R444): the furrow senses the rails of steps 3 and 4, asserts VR_EN_Fn and requests VNOM + VOFS; one whose regulator
does not answer stays in RESET. -/
def execVrEnAssert (f : FurrowIx) (answers : Bool) (s : State) : Host.Outcome State Fault Refusal :=
  ((Run.start s).modFur f fun c =>
    if c.life ≠ .reset ∨ c.pwr.vrEn ∨ !s.hdl.mainPower then c
    else c.modPwr fun p =>
      { p with
        vrEn := true, reqMv := c.coreRequest f, avsFault := !answers
        confMv := if answers then c.coreRequest f else p.confMv }).done

/-- PERST_RELEASE (R445): the headland leaves reset, and each furrow whose core rail is up boots once its PLL locks. -/
def execPerstRelease (locked : Byte) (s : State) : Host.Outcome State Fault Refusal :=
  (if !s.hdl.perst ∨ !s.hdl.mainPower then Run.start s
   else ((Run.start s).modHdl fun d => { d with perst := false, portUp := d.hdlVrEn, failed := !d.hdlVrEn }).each (List.finRange 8)
     fun r f => r.modFur f fun c =>
       if c.pwr.vrEn ∧ !c.pwr.avsFault then c.start s.fuses[f] (locked.getLsbD f.val) else c).done

/-- PERST_FILTERED (R460, R469): an assertion shorter than 10 µs has no effect but its record. -/
def execPerstFiltered (s : State) : Host.Outcome State Fault Refusal :=
  (if s.hdl.perst then Run.start s else (Run.start s).landEvent 0x01).done

/-- PF0_FLR (R31): the headland's management registers and PF0's vectors are reset; what tells of the furrows, its pins and its
supplies stand, and the furrows carry on (log 69). -/
def execPf0Flr (s : State) : Host.Outcome State Fault Refusal :=
  (if !s.hdl.portUp ∨ s.hdl.failed then Run.start s
   else (Run.start s).modHdl fun d =>
     { d with
       discarded := Headland.initial.discarded, ones := Headland.initial.ones, fault := false, moduleW := 0, tj := 0, pmbAddr := 0
       pmb := Headland.initial.pmb, pmbSince := Headland.initial.pmbSince, alert := false, msix := Headland.initial.msix }).done

/-- HBM_CLEAR_DONE (R389, R400): the clear that a boot queued ends; HBM is zero, the lock lifts and SCRUB_PENDING clears. -/
def execHbmClearDone (f : FurrowIx) (s : State) : Host.Outcome State Fault Refusal :=
  let c := s.furrow f
  (if c.life = .boot ∧ c.sec.hbmLocked then
     ((Run.start s).act (.wipe (.hbm f))).modFur f fun c =>
       { c with
         sec := { c.sec with hbmLocked := false, scrubPending := false }
         counts := { c.counts with bad := c.counts.bad.filter fun b => b.mem ≠ 2 } }
   else Run.start s).done

/-- The stacks that fail training or their test are retired, and so is a cluster with fewer than two cores (R433, R434). -/
def Furrow.resetRetire (c : Furrow) (bad : BitVec 4) : Furrow :=
  let c := if c.health.hbmMap &&& bad = 0 then c else c.keepHealth fun x => { x with hbmMap := x.hbmMap &&& ~~~bad }
  (List.finRange 8).foldl (fun (c : Furrow) k =>
    if c.health.clusters.getLsbD k.val ∧ 6 < c.health.coresLost k.val then
      c.keepHealth fun x => { x with clusters := dropBit x.clusters k.val } else c) c

/-- Ports of other furrows that waited for this one to be READY train now (R360). -/
def Run.wakeNeighbours (r : Run s₀) (f : FurrowIx) : Run s₀ :=
  r.each ((List.finRange 8).flatMap fun g => ([8, 9] : List PortIx).map fun p => (g, p)) fun r x =>
    if neighbourOf x.1 x.2 = f ∧ (r.fur x.1).pyr.ports[x.2].state = .down then r.tryTrain x.1 x.2 else r

/-- FURROW_READY (R445): boot and HBM training end; FUR_STATE reads READY, or DEGRADED with retired capacity, and the headland clears
its bit of LOST_MAP (R449). -/
def execFurrowReady (f : FurrowIx) (bad : BitVec 4) (s : State) : Host.Outcome State Fault Refusal :=
  let c := s.furrow f
  let r := Run.start s
  (if c.life ≠ .boot ∨ c.sec.bootError ≠ 0 ∨ c.sec.hbmLocked then r
   else
     let r := r.modFur f fun c =>
       let c := c.resetRetire bad
       { c with life := if c.health.whole then .ready else .degraded, pwr := { c.pwr with selfRefresh := 0 } }
     let r := if r.now.hdl.failed then r else
         (r.shadow f (r.fur f).life).modHdl fun d => { d with lostMap := dropBit d.lostMap f.val }
     (r.weighHealth f).wakeNeighbours f).done

/-! ### Supplies (R444, R446, R454) -/

/-- What power-up makes of a calendar island: one whose latch is clear starts again and counts a restart (R454). -/
def Furrow.islandUp (c : Furrow) (vbat : Bool) : Furrow :=
  if c.cal.latch then c
  else { c with cal := { Calendar.initial with vbatBad := !vbat } }.keepHealth fun x => { x with restarts := x.restarts + 1 }

/-- What power-up makes of the Tally: its registers take their reset values, and it closes its interim records (R416, Table 18-4). -/
def Furrow.tallyUp (c : Furrow) (f : FurrowIx) : Furrow :=
  let v := (c.tally.sound.map fun im => BitVec.ofNat 32 im.svn).getD 0
  (c.modTally fun t =>
    { t with
      state := .boot, version := v, cmdStatus := 0, cmdAddr := 0, cmdArg := 0, count := 0, unattributed := 0
      open_ := Vector.replicate 64 none, good := 0, lastNs := 0 }).tallyBoot f

/-- POWER_UP (R447, R444): VAUX reaches range and the other rails follow; the islands start, and PERST# holds the module in reset. -/
def execPowerUp (s : State) : Host.Outcome State Fault Refusal :=
  (if s.hdl.vaux then Run.start s
   else
     let r := (Run.start s).modHdl fun d =>
       { Headland.initial with vbat := d.vbat, vaux := true, mainPower := true, hdlVrEn := true, perst := true }
     r.each (List.finRange 8) fun r f => r.modFur f fun c =>
       ((c.held f 0 false false).islandUp s.hdl.vbat).tallyUp f).done

/-- A calendar island that loses VAUX: it stops when VBAT is absent too (R454). -/
def Calendar.onBattery (k : Calendar) (vbat : Bool) : Calendar := if vbat then k else { k with latch := false, running := false }

/-- POWER_LOSS (R446): main power and VAUX go. HBM and SRAM contents are lost, and counts since the last interim write. -/
def execPowerLoss (s : State) : Host.Outcome State Fault Refusal :=
  (if !s.hdl.vaux then Run.start s
   else
     let r := (Run.start s).modHdl fun d =>
       { Headland.initial with vbat := d.vbat, vaux := false, mainPower := false, hdlVrEn := false, perst := true, failed := true }
     r.each (List.finRange 8) fun r f =>
       (((r.act (.wipe (.hbm f))).act (.wipe (.t1 f))).act (.wipe (.t0 f))).modFur f fun c =>
         let c := c.held f 0 c.sec.scrubPending false
         { c with
           cal := c.cal.onBattery s.hdl.vbat
           counts := { c.counts with bad := [] }
           tally := { c.tally with open_ := Vector.replicate 64 none } }).done

end Sys2Proof.Machine
end

