-- ==== Sys2Proof/Machine/Fetch.lean ====
section
/-! DEFINITION. The life of a request up to its start: the fetch of descriptors (R38–R40, R50, R51, R53, R55, R58), their checks at
fetch and admission (R54, R82, R476), and the start of a descriptor (R65–R67, R475, R476). -/

namespace Sys2Proof.Machine

variable {s₀ : State}

/-! ### Checks at fetch -/

/-- The checks of a descriptor's header (Table 02-19): the tag, the reserved FLAGS, the opcode, the handle. Where several fail the first in
this order is reported, and DUPLICATE_TAG before an opcode's own checks (DESIGN CHOICE, log 77: R62 gives the reasons no order). -/
def headFail (c : Furrow) (h : Handle) (tag : Tag) (d : List Byte) : Option Refuse :=
  firstFail [failIf (decide (tag = boxTag) || decide (df d 4 4 ≠ tag.toNat)) ⟨Reason.malformedHeader, 4, never⟩, reservedBits d 1 7 3,
    (fetchOp c h d).filter fun x => decide (x.reason = Reason.unknownOpcode),
    failIf (decide (df d 2 2 ≠ h.val)) ⟨Reason.wrongHandle, 2, never⟩]

/-- The checks at fetch of a whole run, descriptor by descriptor (R476). -/
def Furrow.runFail (c : Furrow) (q : Request) : Option Refuse :=
  q.descs.findSome? fun d => firstFail [headFail c q.h q.tag d, fetchOp c q.h d]

/-- A member of the context's span is lost that some descriptor of a run would act on (R377). -/
def Furrow.lostBelow (c : Furrow) (q : Request) : Option FabricId :=
  if q.descs.any fun d => spanWide (opcodeOf d).toNat && decide (opcodeOf d ≠ 0xF2) then ((c.below q.h).2.find? fun m => m.lost).map (·.id) else none

/-! ### Admission (R82) -/

/-- The estimates of a run's descriptors. -/
def Run.runCosts (r : Run s₀) (f : FurrowIx) (q : Request) : List Cost :=
  (List.range q.descs.length).map fun i =>
    let p := { q with idx := i }
    if r.costWaits f p then Cost.unknown else costOp r f p

/-- An engine of a class is in service in the clusters where a context holds units. -/
def Furrow.capable (c : Furrow) (h : Handle) (k : EngClass) : Bool :=
  match k with
  | .move => true
  | .text => (List.finRange 8).any fun t => c.holdsIn h t.val && c.health.clusters.getLsbD t.val && c.health.text.getLsbD t.val
  | _ => (List.finRange 64).any fun n => c.holdsIn h (n.val / 8) && c.health.clusters.getLsbD (n.val / 8) && c.health.cores.getLsbD n.val

/-- The shares of the contexts with an outstanding request, the context's own in every case. -/
def Furrow.sharesOut (c : Furrow) (h : Handle) : Nat :=
  sumOf (((List.finRange 64).filter fun g => decide (g = h) || !(c.outstanding g).isEmpty).map fun g => c.ctx[g].shares.toNat)

/-- The classes that a request's descriptors need. -/
def Request.classes (q : Request) : List EngClass := (q.descs.flatMap fun d => opClasses (opcodeOf d).toNat).eraseDups

/-- A retry-after hint: an excess of n / k ns in µs, rounded up to a multiple of 50. -/
def hintUs (n k : Nat) : Nat := min (ceilDiv n (max 1 k * 50000) * 50) (never - 1)

/-- The work of a run up to its first result: GENERATE gives its own early, every other run its final record. -/
def firstWork : List (List Byte × Cost) → Nat
  | [] => 0
  | x :: xs => if opcodeOf x.1 = 0x63 then x.2.first else x.2.ns + firstWork xs

/-- The estimate that a fetched and unstarted request has in the backlog; of a run in part that of the descriptors fetched so far (R82). -/
def Run.waiting (r : Run s₀) (f : FurrowIx) (q : Request) : Nat :=
  if q.phase = .partRun then sumOf (((r.runCosts f q).filter (·.backlog)).map (·.ns)) else q.estimate

/-- The three rules of admission. What counts in no backlog is left out of the other requests' part of W (R194). -/
def Run.admission (r : Run s₀) (f : FurrowIx) (q : Request) (costs : List Cost) : Option Refuse :=
  let c := r.fur f
  let others := (c.outstanding q.h).filter fun x => decide (x.tag ≠ q.tag) && !x.isEnded
  let total := c.sharesOut q.h
  let own := max 1 c.ctx[q.h].shares.toNat
  let w := (sumOf ((others.filter fun x => !x.isStarted).map (r.waiting f)) + sumOf (costs.map (·.ns))) * total
  let first := firstWork (q.descs.zip costs)
  let ahead := sumOf ((others.filter fun x => x.classes.any q.classes.contains).map fun x => x.estimate - x.engineNs.toNat)
  let p := (ahead + first) * total
  firstFail [
    failIf ((opClasses (opcodeOf q.head).toNat).any fun k => !c.capable q.h k) ⟨Reason.noCapacity, 0xFF, never⟩,
    failIf (decide (20000000 * own < w)) ⟨Reason.backlog, 0xFF, hintUs (w - 20000000 * own) own⟩,
    failIf (decide (q.ttfrNs ≠ 0) && decide (q.ttfrNs * own < p)) ⟨Reason.overload, 0xFF, hintUs (p - q.ttfrNs * own) own⟩]

/-! ### Fetch -/

/-- A ring may be fetched from (R44, R45, R50, R55, R58, R426), and no SPAN_SET_MEMBER of it is under way (R378). -/
def Furrow.mayFetch (c : Furrow) (h : Handle) : Bool :=
  let g := c.ctx[h].rings
  c.serves && c.ctx[h].state = CtxState.ready && c.ctx[h].fault.isNone && g.state = RingState.active && g.sqHead != g.sqTail &&
    decide ((c.outstanding h).length < 4096) && decide (g.holding.length < 256) && !c.err.stall &&
    !((c.outstanding h).any fun q => (q.phase = Phase.queued || q.phase = Phase.running) && q.op = 0x92)

/-- A ring position lies before a count (R51). -/
def before (pos count : W32) : Bool := decide (pos ≠ count) && decide ((count - pos).toNat < 2 ^ 31)

/-- A run is whole: it is checked, then admitted or refused. -/
def Run.runWhole (r : Run s₀) (f : FurrowIx) (h : Handle) (tag : Tag) : Run s₀ :=
  match (r.fur f).request? h tag with
  | none => r
  | some q =>
    let c := r.fur f
    match c.runFail q with
    | some x => r.finishPost f h tag x.ending
    | none =>
      match c.lostBelow q with
      | some id => r.finishPost f h tag (c.lostEnding f id)
      | none =>
        let costs := r.runCosts f q
        match r.admission f q costs with
        | some x => r.finishPost f h tag x.ending
        | none => r.modFur f fun c => c.modReq h tag fun q =>
            { q with
              phase := .queued, estimate := sumOf ((costs.filter (·.backlog)).map (·.ns))
              estClass := (opClasses (opcodeOf q.head).toNat).headD .move }

/-- A request that ends at the fetch of its first descriptor, before it joins the others: a cancel kept for it catches it (R51), its tag
is not a tag, or is that of an outstanding request (log 70). -/
def Run.endsAtFetch (r : Run s₀) (f : FurrowIx) (q : Request) (e : Ending) : Run s₀ :=
  let q := { q with phase := .ended e }
  (r.modFur f fun c => { c with reqs := c.reqs ++ [q] }).postFinal f q.h q.tag

/-- The first descriptor of a run. A run that has ended already leaves the tag of no request open, so that its rest is passed over. -/
def Run.openRun (r : Run s₀) (f : FurrowIx) (h : Handle) (pos : W32) (d : List Byte) : Run s₀ :=
  let c := r.fur f
  let tag : Tag := BitVec.ofNat 32 (df d 4 4)
  let q := { Request.fresh h tag c.order pos d c.ns with phase := .partRun }
  let caught := c.ctx[h].rings.kept.any fun k => (k.1 = 0xFFFFFFFF || k.1 = tag) && before pos k.2
  let dup := (c.request? h tag).isSome
  let early := caught || tag = boxTag || dup
  let r := r.modFur f fun c =>
    { c.modRings h fun g => { g with openRun := if !linkOf d then none else some (if early then boxTag else tag) } with order := c.order + 1 }
  if early then
    r.endsAtFetch f q (if caught then .bare Status.cancelled 0
      else ((headFail c h tag d).getD ⟨Reason.duplicateTag, 4, 0⟩).ending)
  else
    let r := r.modFur f fun c => { c with reqs := c.reqs ++ [q] }
    if linkOf d then r else r.runWhole f h tag

/-- A further descriptor of a run. -/
def Run.addToRun (r : Run s₀) (f : FurrowIx) (h : Handle) (tag : Tag) (d : List Byte) : Run s₀ :=
  let r := if linkOf d then r else r.modFur f fun c => c.modRings h fun g => { g with openRun := none }
  match ((r.fur f).request? h tag).filter fun q => q.phase = Phase.partRun && decide (tag ≠ boxTag) with
  | none => r
  | some _ =>
    let r := r.modFur f fun c => c.modReq h tag fun q => { q with descs := q.descs ++ [d] }
    if linkOf d then r else r.runWhole f h tag

/-- One descriptor is read from the submission head (R38, R39); cancels whose count it reaches are no longer kept (R51). -/
def Run.fetchOne (r : Run s₀) (f : FurrowIx) (h : Handle) : Run s₀ :=
  let g := (r.fur f).ctx[h].rings
  let d := r.read .host ((r.fur f).hostAt h (g.sqBase.toNat * 4096 + g.sqHead.toNat % 2 ^ g.sqLog.toNat * 64)) 64
  let r := r.modFur f fun c => c.modRings h fun g => { g with sqHead := g.sqHead + 1 }
  let r := match g.openRun with
    | none => r.openRun f h g.sqHead d
    | some tag => r.addToRun f h tag d
  r.modFur f fun c => c.modRings h fun g => { g with kept := g.kept.filter fun k => before g.sqHead k.2 }

/-- A burst of at most n descriptors. -/
def Run.fetchBurst (r : Run s₀) (f : FurrowIx) (h : Handle) : Nat → Run s₀
  | 0 => r
  | n + 1 => if (r.fur f).mayFetch h then (r.fetchOne f h).fetchBurst f h n else r

/-- DESCRIPTOR_FETCH (R50, R40): one burst of up to 64 descriptors, then the head shadow. Nothing is fetched once the host port is lost
(R13). -/
def execDescriptorFetch (f : FurrowIx) (h : Handle) (s : State) : Host.Outcome State Fault Refusal :=
  let r := Run.start s
  (if !s.hdl.carries ∨ !(s.furrow f).mayFetch h then r
   else
     let r := r.fetchBurst f h 64
     let g := (r.fur f).ctx[h].rings
     if g.shadowEn then r.toHost ((r.fur f).hostAt h (g.shadowAddr.toNat * 8)) (leBytes 8 g.sqHead.toNat) else r).done

/-! ### Start -/

/-- FENCE and BARRIER (R65). -/
def isFence (d : List Byte) : Bool := opcodeOf d = 0xF1 || opcodeOf d = 0xF2

/-- A fence of a request has still to complete (R66). -/
def Request.fenced (q : Request) : Bool :=
  (q.descs.drop (match q.phase with | .engineDone _ => q.idx + 1 | _ => q.idx)).any isFence

/-- The requests of a ring fetched before one that are still outstanding. -/
def Furrow.earlier (c : Furrow) (q : Request) : List Request :=
  (c.outstanding q.h).filter fun x => decide (x.order < q.order)

/-- The order of a ring lets a request's first descriptor start: what came before has started (R67), none of it has a fence to complete
(R66), and under FENCE all of it is gone. SPAN_SET_MEMBER waits until nothing else is outstanding (R378). -/
def Furrow.mayStart (c : Furrow) (q : Request) : Bool :=
  (decide (q.idx ≠ 0) || q.origin.isSome || ((c.earlier q).all fun x => x.isEnded || (x.isStarted && !x.fenced)) &&
    (!fenceOf q.head || (c.earlier q).isEmpty)) &&
  (decide (q.op ≠ 0x92) || decide ((c.outstanding q.h).length = 1)) &&
  (decide (q.op ≠ 0x72) || !c.switchWaits q.h q.desc)

/-- A core is one that a descriptor may run on: of its CLUSTER, and the pinned one under SCOPE 0 (R475). -/
def Request.fitsCore (q : Request) (k : CoreIx) : Bool :=
  match scopeOf q.desc with
  | some (0, cl) => decide (k.val / 8 = cl) && (q.pinned.all fun p => p.1.val ≠ cl || decide (k.val = p.1.val * 8 + p.2.val))
  | some (1, cl) => decide (k.val / 8 = cl)
  | _ => true

/-- The place a descriptor is bound to: GENERATE's work is its steps', and a move has none. -/
def Request.placeOn (q : Request) (u : Place) : Option Place :=
  if q.op ≠ 0x63 ∧ (opClasses q.op).any (placeTakes u) then some u else none

/-- A request's operation has an engine: it occupies it, or waits for members' answers to begin on it. -/
def Furrow.occupies (c : Furrow) (q : Request) (e : EngUse) : Bool :=
  (if q.acks = [] then q.uses else c.usesFor q).any fun x => x.cls = e.cls && x.place = e.place

/-- Every engine that a request's descriptor needs is free for it: each runs one operation at a time, but a walker holds up to 1,024
walks (R18), whose searches share the Hamming unit (R161, R165). -/
def Furrow.enginesFree (c : Furrow) (q : Request) : Bool :=
  (c.usesFor q).all fun e =>
    let xs := c.reqs.filter fun x => x.h = q.h && x.tag ≠ q.tag && c.occupies x e
    match e.cls with
    | .move => true
    | .walk => decide (sumOf (xs.map c.weightFor) + e.weight ≤ 1024)
    | .hamming => if q.op = 0x30 then xs.all fun x => x.op = 0x30 else xs.isEmpty
    | _ => xs.isEmpty

/-- The walks of a search or a merge that starts find room in the unit that holds their storage, with those of searches which wait for
members' answers to begin (R162). -/
def Furrow.roomFor (c : Furrow) (q : Request) : Bool :=
  let sizes := fun (x : Request) => List.replicate (c.weightFor x) (walkBytes (SearchDesc.of x.desc).beam)
  let waits := c.reqs.filter fun x => x.h = q.h && x.tag ≠ q.tag && x.op = 0x30 && x.phase = Phase.running && x.acks != [] && x.cluster = q.cluster
  q.op != 0x30 || (c.walkRooms q.h q.cluster (sizes q ++ waits.flatMap sizes)).isSome

/-- A place can take a request's descriptor: it serves the context, in the class the descriptor needs, and its engines are free. One that
needs neither a core nor a text engine can go to any place. -/
def Furrow.placeFits (c : Furrow) (q : Request) (u : Place) : Bool :=
  let ks := opClasses q.op
  (match u with
   | .core k => if ks.any coreClass then c.cores[k].worksFor c.ns q.h && q.fitsCore k else !ks.contains .text
   | .text t => if ks.contains .text then c.texts[t].worksFor c.ns q.h else !ks.any coreClass) &&
    c.enginesFree { q with place := q.placeOn u } && (q.phase = Phase.running || c.roomFor { q with place := q.placeOn u })

/-- The tensor references of an opcode without SCOPE that may be TIER 0 (R475). -/
def scratchRefs (d : List Byte) : List Nat :=
  (match (opcodeOf d).toNat with
   | 0x30 => [16]
   | 0x58 => [16, 32, 40]
   | 0x5A => [16, 24, 32]
   | _ => ([] : List Nat)).filter fun off => (tref d off).tier = 0

/-- A TIER 0 reference of a descriptor without SCOPE needs exactly one pinned core (R475). -/
def Request.scratchFail (q : Request) : Option Refuse :=
  if q.origin.isSome ∨ q.pinned.length = 1 then none else (scratchRefs q.desc).head?.map Refuse.operand

/-- The core whose scratch such a reference reads; it has to serve the context. -/
def Request.scratchCore (q : Request) : List CoreIx :=
  match q.pinned, scratchRefs q.desc with
  | [p], _ :: _ => [⟨p.1.val * 8 + p.2.val, by have := p.1.isLt; have := p.2.isLt; omega⟩]
  | _, _ => []

/-- The checks of a descriptor at its start on the furrow that fetched it; a forwarded one is checked where its slot is (R174, R191). -/
def Run.startFail (r : Run s₀) (f : FurrowIx) (q : Request) : Option Refuse :=
  let c := r.fur f
  if forwarded q.op ∧ !(c.below q.h).2.isEmpty ∧ !c.ownsSlot q then none else firstFail [q.scratchFail, startOp r f q]

/-- A descriptor that has passed its checks starts: on a span its members are asked, otherwise its work begins (R83, R376). -/
def Run.launch (r : Run s₀) (f : FurrowIx) (q : Request) (u : Place) : Run s₀ :=
  let k := match u with | .core k => some k | .text _ => none
  let q := { q with pinned := r.pinsAfter f q k, phase := .running, await := none }
  let wide := spanWide q.op && !((r.fur f).asks q).isEmpty
  let q := if q.origin.isSome then q
    else { q with carried := if wide || [0x30, 0x64, 0x65].contains q.op then r.carryOp f q else [] }
  let r := r.modFur f fun c => c.modReq q.h q.tag fun _ => q
  if wide && q.origin.isNone then r.modFur f fun c => c.sendDesc f q else r.beginWork f q

/-- DESCRIPTOR_START (R53, R67, R476): a queued descriptor is dispatched to a place that serves its context; a part of a span's request
starts once GO has come. A running descriptor whose place no longer serves the context may move to another one that does (R80), but a
search, whose walks run wholly on one core (R161). -/
def execDescriptorStart (f : FurrowIx) (h : Handle) (tag : Tag) (place : Place) (s : State) : Host.Outcome State Fault Refusal :=
  let r := Run.start s
  let c := s.furrow f
  (match if tag = boxTag then none else c.request? h tag with
   | none => r
   | some q =>
     if !c.placeFits q place then r
     else if q.phase = Phase.running then
       if q.place.isSome ∧ q.acks = [] ∧ !c.servedAt q ∧ q.op ≠ 0x30 then
         r.modFur f fun c => c.modReq h tag fun q =>
           let q := { q with place := q.placeOn place }
           if q.uses = [] then q else { q with uses := c.usesFor q }
       else r
     else if q.phase ≠ Phase.queued ∨ !c.mayStart q then r
     else
       let q := { q with place := q.placeOn place }
       if q.origin.isSome then if q.gone then r.launch f q place else r
       else
         let q := { q with needs := q.scratchCore }
         match r.startFail f q with
         | some x =>
           let r := if q.op = 0x50 then r.noteLoad (q.eng f) q.desc else r
           r.engineEnds f h tag (startRefusal q.op x).ending
         | none => r.launch f q place).done

end Sys2Proof.Machine
end

