-- ==== Sys2Proof/Machine/Dispatch.lean ====
section
/-! DEFINITION. Which meaning each command of the opcode table has: one arm for every row. -/

namespace Sys2Proof.Machine

/-- The effect of one command on everything but the queue of waiting commands. -/
def exec (i : Instr) (s : State) : Host.Outcome State Fault Refusal :=
  match i with
  | .registerWrite fn a v => Sys2Proof.Machine.execRegisterWrite fn a v s
  | .furNsLowRead fn a => Sys2Proof.Machine.execFurNsLowRead fn a s
  | .lostFurrowAccess f a v => Sys2Proof.Machine.execLostFurrowAccess f a v s
  | .ringEnable f h => Sys2Proof.Machine.execRingEnable f h s
  | .ringDrain f h => Sys2Proof.Machine.execRingDrain f h s
  | .ringDrainDone f h => Sys2Proof.Machine.execRingDrainDone f h s
  | .dbSqTail f h t => Sys2Proof.Machine.execDbSqTail f h t s
  | .dbCqHead f h c => Sys2Proof.Machine.execDbCqHead f h c s
  | .dbCancel f h tag => Sys2Proof.Machine.execDbCancel f h tag s
  | .descriptorFetch f h => Sys2Proof.Machine.execDescriptorFetch f h s
  | .descriptorStart f h tag place => Sys2Proof.Machine.execDescriptorStart f h tag place s
  | .descriptorComplete f h tag => Sys2Proof.Machine.execDescriptorComplete f h tag s
  | .recordPost f h tag => Sys2Proof.Machine.execRecordPost f h tag s
  | .msixFire fn n => Sys2Proof.Machine.execMsixFire fn n s
  | .budgetExpiry f h tag => Sys2Proof.Machine.execBudgetExpiry f h tag s
  | .quantumBoundary f => Sys2Proof.Machine.execQuantumBoundary f s
  | .coreIdleSchedule f u => Sys2Proof.Machine.execCoreIdleSchedule f u s
  | .enginePreempt f u => Sys2Proof.Machine.execEnginePreempt f u s
  | .cancelAbortDone f h tag => Sys2Proof.Machine.execCancelAbortDone f h tag s
  | .contextFault f h cause addr => Sys2Proof.Machine.execContextFault f h cause addr s
  | .ctxRecover0 f => Sys2Proof.Machine.execCtxRecover0 f s
  | .nop f h tag => Sys2Proof.Machine.execNop f h tag s
  | .fence f h tag => Sys2Proof.Machine.execFence f h tag s
  | .barrier f h tag => Sys2Proof.Machine.execBarrier f h tag s
  | .ctxCreate f h tag => Sys2Proof.Machine.execCtxCreate f h tag s
  | .ctxSetShares f h tag => Sys2Proof.Machine.execCtxSetShares f h tag s
  | .ctxBindSpan f h tag => Sys2Proof.Machine.execCtxBindSpan f h tag s
  | .ctxPairFallback f h tag => Sys2Proof.Machine.execCtxPairFallback f h tag s
  | .ctxRecover f h tag => Sys2Proof.Machine.execCtxRecover f h tag s
  | .ctxDestroy f h tag => Sys2Proof.Machine.execCtxDestroy f h tag s
  | .matmul f h tag => Sys2Proof.Machine.execMatmul f h tag s
  | .matmulBatch f h tag => Sys2Proof.Machine.execMatmulBatch f h tag s
  | .vecMap f h tag => Sys2Proof.Machine.execVecMap f h tag s
  | .vecNorm f h tag => Sys2Proof.Machine.execVecNorm f h tag s
  | .vecSoftmax f h tag => Sys2Proof.Machine.execVecSoftmax f h tag s
  | .vecConvert f h tag => Sys2Proof.Machine.execVecConvert f h tag s
  | .signProject f h tag => Sys2Proof.Machine.execSignProject f h tag s
  | .vecReduce f h tag => Sys2Proof.Machine.execVecReduce f h tag s
  | .search f h tag => Sys2Proof.Machine.execSearch f h tag s
  | .hammingScan f h tag => Sys2Proof.Machine.execHammingScan f h tag s
  | .insert f h tag => Sys2Proof.Machine.execInsert f h tag s
  | .delete f h tag => Sys2Proof.Machine.execDelete f h tag s
  | .replace f h tag => Sys2Proof.Machine.execReplace f h tag s
  | .merge f h tag => Sys2Proof.Machine.execMerge f h tag s
  | .mergeWake f h tag => Sys2Proof.Machine.execMergeWake f h tag s
  | .shardRestore f h tag => Sys2Proof.Machine.execShardRestore f h tag s
  | .slotEnable f t => Sys2Proof.Machine.execSlotEnable f t s
  | .slotDrain f t => Sys2Proof.Machine.execSlotDrain f t s
  | .slotDrainDone f t => Sys2Proof.Machine.execSlotDrainDone f t s
  | .wnwSelect f h tag => Sys2Proof.Machine.execWnwSelect f h tag s
  | .wnwMerge f h tag => Sys2Proof.Machine.execWnwMerge f h tag s
  | .candFetch f h tag => Sys2Proof.Machine.execCandFetch f h tag s
  | .rrFuse f h tag => Sys2Proof.Machine.execRrFuse f h tag s
  | .pack f h tag => Sys2Proof.Machine.execPack f h tag s
  | .txtLoad f h tag => Sys2Proof.Machine.execTxtLoad f h tag s
  | .txtUnload f h tag => Sys2Proof.Machine.execTxtUnload f h tag s
  | .tokenize f h tag => Sys2Proof.Machine.execTokenize f h tag s
  | .detokenize f h tag => Sys2Proof.Machine.execDetokenize f h tag s
  | .gramInit f h tag => Sys2Proof.Machine.execGramInit f h tag s
  | .gramMask f h tag => Sys2Proof.Machine.execGramMask f h tag s
  | .gramAdvance f h tag => Sys2Proof.Machine.execGramAdvance f h tag s
  | .genPlanLoad f h tag => Sys2Proof.Machine.execGenPlanLoad f h tag s
  | .genPlanUnload f h tag => Sys2Proof.Machine.execGenPlanUnload f h tag s
  | .genCacheInit f h tag => Sys2Proof.Machine.execGenCacheInit f h tag s
  | .generate f h tag => Sys2Proof.Machine.execGenerate f h tag s
  | .genStepStart f h plan => Sys2Proof.Machine.execGenStepStart f h plan s
  | .genStepCommit f h plan => Sys2Proof.Machine.execGenStepCommit f h plan s
  | .genPause f h tag => Sys2Proof.Machine.execGenPause f h tag s
  | .genResume f h tag => Sys2Proof.Machine.execGenResume f h tag s
  | .genDiscard f h tag => Sys2Proof.Machine.execGenDiscard f h tag s
  | .pauseSweep f => Sys2Proof.Machine.execPauseSweep f s
  | .tblGather f h tag => Sys2Proof.Machine.execTblGather f h tag s
  | .tblScatterAdd f h tag => Sys2Proof.Machine.execTblScatterAdd f h tag s
  | .tblSwitch f h tag => Sys2Proof.Machine.execTblSwitch f h tag s
  | .tblMigrate f h tag => Sys2Proof.Machine.execTblMigrate f h tag s
  | .tblLoadWindow f => Sys2Proof.Machine.execTblLoadWindow f s
  | .tblMigrationSwitch f t => Sys2Proof.Machine.execTblMigrationSwitch f t s
  | .tblVersionReclaim f t => Sys2Proof.Machine.execTblVersionReclaim f t s
  | .tblEnable f t => Sys2Proof.Machine.execTblEnable f t s
  | .tblDrain f t => Sys2Proof.Machine.execTblDrain f t s
  | .move f h tag => Sys2Proof.Machine.execMove f h tag s
  | .moveList f h tag => Sys2Proof.Machine.execMoveList f h tag s
  | .tierAttach f h tag => Sys2Proof.Machine.execTierAttach f h tag s
  | .tierFetch f h tag => Sys2Proof.Machine.execTierFetch f h tag s
  | .tierWriteback f h tag => Sys2Proof.Machine.execTierWriteback f h tag s
  | .tierDetach f h tag => Sys2Proof.Machine.execTierDetach f h tag s
  | .grnDiscard f h tag => Sys2Proof.Machine.execGrnDiscard f h tag s
  | .grnFormat f h tag => Sys2Proof.Machine.execGrnFormat f h tag s
  | .grnReclaim f h tag => Sys2Proof.Machine.execGrnReclaim f h tag s
  | .grnMount f => Sys2Proof.Machine.execGrnMount f s
  | .grnMountDone f readable => Sys2Proof.Machine.execGrnMountDone f readable s
  | .granaryReserveGrant f h tag => Sys2Proof.Machine.execGranaryReserveGrant f h tag s
  | .granaryReserveTimeout f h tag => Sys2Proof.Machine.execGranaryReserveTimeout f h tag s
  | .stripeCloseTimeout f n => Sys2Proof.Machine.execStripeCloseTimeout f n s
  | .nandProgramDone f n ok => Sys2Proof.Machine.execNandProgramDone f n ok s
  | .journalDurable f => Sys2Proof.Machine.execJournalDurable f s
  | .nandReadDone f q => Sys2Proof.Machine.execNandReadDone f q s
  | .gcBackgroundStart f n => Sys2Proof.Machine.execGcBackgroundStart f n s
  | .gcForegroundStart f n => Sys2Proof.Machine.execGcForegroundStart f n s
  | .gcErase f n => Sys2Proof.Machine.execGcErase f n s
  | .checkpointStart f => Sys2Proof.Machine.execCheckpointStart f s
  | .checkpointDone f => Sys2Proof.Machine.execCheckpointDone f s
  | .zqCalibrate f => Sys2Proof.Machine.execZqCalibrate f s
  | .granaryPatrol f n sb soft => Sys2Proof.Machine.execGranaryPatrol f n sb soft s
  | .blockRetire f b => Sys2Proof.Machine.execBlockRetire f b s
  | .dieLost f n die => Sys2Proof.Machine.execDieLost f n die s
  | .nandOvercurrent f n => Sys2Proof.Machine.execNandOvercurrent f n s
  | .allReduce f h tag => Sys2Proof.Machine.execAllReduce f h tag s
  | .allGather f h tag => Sys2Proof.Machine.execAllGather f h tag s
  | .spanSetMember f h tag => Sys2Proof.Machine.execSpanSetMember f h tag s
  | .pyrEnable f on => Sys2Proof.Machine.execPyrEnable f on s
  | .portEnable f p on => Sys2Proof.Machine.execPortEnable f p on s
  | .portTrained f p peer peerPort low high => Sys2Proof.Machine.execPortTrained f p peer peerPort low high s
  | .portLossOfLight f p laser => Sys2Proof.Machine.execPortLossOfLight f p laser s
  | .portDegrade f p low high => Sys2Proof.Machine.execPortDegrade f p low high s
  | .portFlitTimeout f p => Sys2Proof.Machine.execPortFlitTimeout f p s
  | .portRetrain f p => Sys2Proof.Machine.execPortRetrain f p s
  | .portStall f p vc => Sys2Proof.Machine.execPortStall f p vc s
  | .flitReceive f p flit => Sys2Proof.Machine.execFlitReceive f p flit s
  | .flitNak f p ack => Sys2Proof.Machine.execFlitNak f p ack s
  | .readReq f p => Sys2Proof.Machine.execReadReq f p s
  | .readResp f p => Sys2Proof.Machine.execReadResp f p s
  | .write f p => Sys2Proof.Machine.execWrite f p s
  | .writeAck f p => Sys2Proof.Machine.execWriteAck f p s
  | .coll f p => Sys2Proof.Machine.execColl f p s
  | .spanDesc f p => Sys2Proof.Machine.execSpanDesc f p s
  | .spanAck f p => Sys2Proof.Machine.execSpanAck f p s
  | .spanDone f p => Sys2Proof.Machine.execSpanDone f p s
  | .spanCancel f p => Sys2Proof.Machine.execSpanCancel f p s
  | .spanBeat f p => Sys2Proof.Machine.execSpanBeat f p s
  | .spanBeatSend f h => Sys2Proof.Machine.execSpanBeatSend f h s
  | .spanBeatTimeout f h m => Sys2Proof.Machine.execSpanBeatTimeout f h m s
  | .linkFence f p => Sys2Proof.Machine.execLinkFence f p s
  | .fenceTimeout f p => Sys2Proof.Machine.execFenceTimeout f p s
  | .noRoute f p => Sys2Proof.Machine.execNoRoute f p s
  | .transactionTimeout f tag => Sys2Proof.Machine.execTransactionTimeout f tag s
  | .spanJoin f p => Sys2Proof.Machine.execSpanJoin f p s
  | .spanEnd f p => Sys2Proof.Machine.execSpanEnd f p s
  | .spanJoinTimeout f h tag => Sys2Proof.Machine.execSpanJoinTimeout f h tag s
  | .fwStage f v hostFails storeFails => Sys2Proof.Machine.execFwStage f v hostFails storeFails s
  | .commitSvn f v => Sys2Proof.Machine.execCommitSvn f v s
  | .digestDone f seq => Sys2Proof.Machine.execDigestDone f seq s
  | .getVersion f c msg => Sys2Proof.Machine.execGetVersion f c msg s
  | .getCapabilities f c msg => Sys2Proof.Machine.execGetCapabilities f c msg s
  | .negotiateAlgorithms f c msg => Sys2Proof.Machine.execNegotiateAlgorithms f c msg s
  | .getDigests f c msg => Sys2Proof.Machine.execGetDigests f c msg s
  | .getCertificate f c msg => Sys2Proof.Machine.execGetCertificate f c msg s
  | .challenge f c msg => Sys2Proof.Machine.execChallenge f c msg s
  | .getMeasurements f c msg => Sys2Proof.Machine.execGetMeasurements f c msg s
  | .chunkSend f c msg => Sys2Proof.Machine.execChunkSend f c msg s
  | .chunkGet f c msg => Sys2Proof.Machine.execChunkGet f c msg s
  | .respondIfReady f c msg => Sys2Proof.Machine.execRespondIfReady f c msg s
  | .mctpSetEid f eid => Sys2Proof.Machine.execMctpSetEid f eid s
  | .dbgChallenge f => Sys2Proof.Machine.execDbgChallenge f s
  | .dbgGrant f grant => Sys2Proof.Machine.execDbgGrant f grant s
  | .dbgChallengeExpiry f => Sys2Proof.Machine.execDbgChallengeExpiry f s
  | .extest f => Sys2Proof.Machine.execExtest f s
  | .extestPulse f => Sys2Proof.Machine.execExtestPulse f s
  | .extestTrain f => Sys2Proof.Machine.execExtestTrain f s
  | .tallyRead f v fails => Sys2Proof.Machine.execTallyRead f v fails s
  | .tallyAck f v => Sys2Proof.Machine.execTallyAck f v s
  | .tallyCert f v fails => Sys2Proof.Machine.execTallyCert f v fails s
  | .tallyStage f v fails => Sys2Proof.Machine.execTallyStage f v fails s
  | .configWrite f a v => Sys2Proof.Machine.execConfigWrite f a v s
  | .tallyClockCheck f deltaNs => Sys2Proof.Machine.execTallyClockCheck f deltaNs s
  | .tallyPeriodClose f => Sys2Proof.Machine.execTallyPeriodClose f s
  | .tallyInterimWrite f => Sys2Proof.Machine.execTallyInterimWrite f s
  | .calSet f v => Sys2Proof.Machine.execCalSet f v s
  | .calSlewWrite f v => Sys2Proof.Machine.execCalSlewWrite f v s
  | .xtalFail f => Sys2Proof.Machine.execXtalFail f s
  | .vbatSample f mv => Sys2Proof.Machine.execVbatSample f mv s
  | .erRingEnable f v => Sys2Proof.Machine.execErRingEnable f v s
  | .erHeadWrite f v => Sys2Proof.Machine.execErHeadWrite f v s
  | .errorRecordPost f => Sys2Proof.Machine.execErrorRecordPost f s
  | .erWriteFail f => Sys2Proof.Machine.execErWriteFail f s
  | .correctedError f w => Sys2Proof.Machine.execCorrectedError f w s
  | .uncorrectableData f w who => Sys2Proof.Machine.execUncorrectableData f w who s
  | .hostPoison f h tag addr => Sys2Proof.Machine.execHostPoison f h tag addr s
  | .patrolScrub f w r => Sys2Proof.Machine.execPatrolScrub f w r s
  | .handlingPathFail f cause => Sys2Proof.Machine.execHandlingPathFail f cause s
  | .headlandLinkTimeout f => Sys2Proof.Machine.execHeadlandLinkTimeout f s
  | .headlandFailure => Sys2Proof.Machine.execHeadlandFailure s
  | .bistSliceStart f b locked tj => Sys2Proof.Machine.execBistSliceStart f b locked tj s
  | .bistSliceEnd f b o => Sys2Proof.Machine.execBistSliceEnd f b o s
  | .bistLate f b => Sys2Proof.Machine.execBistLate f b s
  | .marginReplan f slack ro => Sys2Proof.Machine.execMarginReplan f slack ro s
  | .avsFrameFail f => Sys2Proof.Machine.execAvsFrameFail f s
  | .avsPoll f answers => Sys2Proof.Machine.execAvsPoll f answers s
  | .coreRailSample f mv da => Sys2Proof.Machine.execCoreRailSample f mv da s
  | .railFault f => Sys2Proof.Machine.execRailFault f s
  | .railOutOfLimits f => Sys2Proof.Machine.execRailOutOfLimits f s
  | .pmbusPoll k a => Sys2Proof.Machine.execPmbusPoll k a s
  | .pmbusStale k => Sys2Proof.Machine.execPmbusStale k s
  | .pmbAlert => Sys2Proof.Machine.execPmbAlert s
  | .busHeldLow b clock => Sys2Proof.Machine.execBusHeldLow b clock s
  | .sidebandShort p gone => Sys2Proof.Machine.execSidebandShort p gone s
  | .throttleEval f m => Sys2Proof.Machine.execThrottleEval f m s
  | .thermalTrip f m => Sys2Proof.Machine.execThermalTrip f m s
  | .headlandTrip tj => Sys2Proof.Machine.execHeadlandTrip tj s
  | .refclkLoss f => Sys2Proof.Machine.execRefclkLoss f s
  | .powerUp => Sys2Proof.Machine.execPowerUp s
  | .powerLoss => Sys2Proof.Machine.execPowerLoss s
  | .perstAssert => Sys2Proof.Machine.execPerstAssert s
  | .perstRelease locked => Sys2Proof.Machine.execPerstRelease locked s
  | .pf0Flr => Sys2Proof.Machine.execPf0Flr s
  | .furrowReset f locked => Sys2Proof.Machine.execFurrowReset f locked s
  | .hbmClearDone f => Sys2Proof.Machine.execHbmClearDone f s
  | .furrowReady f bad => Sys2Proof.Machine.execFurrowReady f bad s
  | .msixUnmask fn n => Sys2Proof.Machine.execMsixUnmask fn n s
  | .nandEraseDone f n bad => Sys2Proof.Machine.execNandEraseDone f n bad s
  | .xtalRestart f => Sys2Proof.Machine.execXtalRestart f s
  | .spanJoinReply f p => Sys2Proof.Machine.execSpanJoinReply f p s
  | .vrEnAssert f answers => Sys2Proof.Machine.execVrEnAssert f answers s
  | .perstFiltered => Sys2Proof.Machine.execPerstFiltered s
  | .headlandFault => Sys2Proof.Machine.execHeadlandFault s

end Sys2Proof.Machine
end

