-- ==== Sys2Proof/Safety.lean ====
section
/-! DEFINITION. What counts as a safe state and a safe step, in the terms that claims use. -/

namespace Sys2Proof.Machine

/-- Every memory of the module is in canonical form, so equal contents are equal data. -/
def State.canonical (s : State) : Prop := ∀ sp : Space, (s.mem sp).wf = true

/-- Every bit that one set of fuses has blown, the other has too (Table 17-1: a blown fuse stays blown). -/
def Fuses.within (a b : Fuses) : Prop := a.burn b = b

/-- From one state to another, no fuse has healed on any furrow. -/
def State.fusesKept (s t : State) : Prop := ∀ f : FurrowIx, (s.fuses[f]).within (t.fuses[f])

/-- From one state to another nothing outside a furrow has changed: not host memory, the headland, any fuse, the queue, nor the control
part or a memory of another furrow. -/
def State.onlyFurrow (s : State) (f : FurrowIx) (t : State) : Prop :=
  t.host = s.host ∧ t.hdl = s.hdl ∧ t.fuses = s.fuses ∧ t.pending = s.pending ∧
    ∀ g : FurrowIx, g ≠ f → t.furrow g = s.furrow g ∧ t.mems[g] = s.mems[g]

/-- The request of a tag on a furrow has finished its present descriptor with an ending, and holds no engine. -/
def State.descriptorEnded (t : State) (f : FurrowIx) (h : Handle) (tag : Tag) (e : Ending) : Prop :=
  ∃ q, (t.furrow f).request? h tag = some q ∧ q.phase = .engineDone e ∧ q.uses = []

/-- From one state of a furrow to another its units stand as they were: slots, Granary, fabric, error ring, cores, cluster SRAM, bindings
of chapters 11 and 12, interrupt vectors, security, Tally and power. What may differ is the requests, the contexts' engine time, the
uncorrectable blocks that a write has made good, the flight of attached segments, and the windows' copies. -/
def Furrow.unitsKept (c d : Furrow) : Prop :=
  d.life = c.life ∧ d.ns = c.ns ∧ d.srch = c.srch ∧ d.tbl = c.tbl ∧ d.grn = c.grn ∧ d.pyr = c.pyr ∧ d.err = c.err ∧ d.cores = c.cores ∧
    d.texts = c.texts ∧ d.t1Owner = c.t1Owner ∧ d.toks = c.toks ∧ d.plans = c.plans ∧ d.msix = c.msix ∧ d.sec = c.sec ∧ d.tally = c.tally ∧
    d.pwr = c.pwr ∧ d.cal = c.cal ∧ d.health = c.health ∧
    ∀ k : Handle, d.ctx[k] = c.ctx[k] ∨ d.ctx[k] = c.ctx[k].updateNs

/-- A furrow takes a packet off the queue of those delivered to it. -/
def Run.took (s : State) (f : FurrowIx) (p : Packet) : Run s :=
  (Run.start s).modFur f fun c => c.modPyr fun y => { y with inbox := y.inbox.erase p }

/-- The state in which a furrow has taken a packet. -/
def State.took (s : State) (f : FurrowIx) (p : Packet) : State := (Run.took s f p).now

/-- An outcome that is a next state: the block takes every command to a next state. -/
def completes (o : Host.Outcome State Fault Refusal) : Prop := ∃ t, o = .next t

end Sys2Proof.Machine
end

