-- ==== Sys2Proof/Certificates/Slice0/Obligations.lean ====
section
/-! DEFINITION. The statements for the provers: what the commands of the RG-832 do, family by family, in the terms of the spec's
numbered rules. -/

open Sys2Proof Sys2Proof.Machine

/-! ### The module as a whole -/

/-- A step takes the command at the front of the queue, first in, first out, and answers what exec answers on the state with the
queue's rest. -/
def Obligations.StepRunsFrontCommand : Prop :=
  ∀ (c : Instr) (rest : List Instr) (s : State), step { s with pending := c :: rest } = exec c { s with pending := rest }

/-- A step with no command waiting is one reference cycle of every furrow, and touches nothing else (log 4). -/
def Obligations.IdleStepIsOneCycleOfEveryFurrow : Prop :=
  ∀ s : State, s.pending = [] → ∃ t, step s = .next t ∧ t.pending = [] ∧ t.hdl = s.hdl ∧ t.fuses = s.fuses ∧ t.fresh = s.fresh ∧
    (∀ sp : Space, t.mem sp = s.mem sp) ∧ ∀ f : FurrowIx, t.furrow f = (s.furrow f).tick

/-- Each furrow counts its own nanoseconds: on successive reference cycles FUR_NS gains 6, 7, 6, 7, 6, so it is exact at every fifth cycle
and never more than 0.4 ns from the true elapsed time between (R26). A furrow in RESET, or LOST with the cause of a lost reference, does
not count. -/
def Obligations.FurNsGainsThirtyTwoInFiveCycles : Prop :=
  (∀ s : State, s.pending = [] → ∃ t, step s = .next t ∧ ∀ f : FurrowIx, t.furrow f = (s.furrow f).tick) ∧
  (∀ c : Furrow, c.life ≠ .reset → (c.life = .lost → c.lossCause ≠ some 4) → c.refCycle = 0 →
    ((List.range 6).map fun k => (Furrow.tick^[k] c).ns) = [0, 6, 13, 19, 26, 32].map (c.ns + ·) ∧
    (∀ n : Nat, (Furrow.tick^[5 * n] c).ns = c.ns + 32 * BitVec.ofNat 64 n ∧ (Furrow.tick^[5 * n] c).refCycle = 0) ∧
    ∀ n : Nat, ∃ d : Nat, (Furrow.tick^[n] c).ns = c.ns + BitVec.ofNat 64 d ∧ 64 * n ≤ 10 * d + 4 ∧ 10 * d ≤ 64 * n + 4) ∧
  ∀ c : Furrow, c.life = .reset ∨ (c.life = .lost ∧ c.lossCause = some 4) → c.tick.ns = c.ns

/-- Every command of the table, with whatever operands and in whatever state, answers a next state; it leaves the queue as it is and
only ever draws free values forward. -/
def Obligations.EveryCommandAnswersANextState : Prop :=
  ∀ (c : Instr) (s : State), ∃ t, exec c s = .next t ∧ t.pending = s.pending ∧ s.fresh ≤ t.fresh

/-- No step heals a fuse: on every furrow, each bit that was blown before the step is blown after it. -/
def Obligations.NoStepClearsAFuseBit : Prop :=
  ∀ s t : State, step s = .next t → s.fusesKept t

/-- Every step keeps the canonical form of every memory of the module, from every state that has it. -/
def Obligations.EveryStepKeepsMemoriesCanonical : Prop :=
  ∀ s t : State, s.canonical → step s = .next t → t.canonical

/-- The state after reset has the canonical form in every memory, lists no byte and holds no command.
After reset every furrow is in RESET with FUR_NS 0 and no request; handle 0 has 1,024 shares and every other handle is FREE;
every ring group is DISABLED with its counts at 0 and the Reset values of its table; and the timing of the fabric, the limits of the
Granary's reclamation, the power and temperature limits and the error ring's configuration have the Reset values of theirs. -/
def Obligations.ResetIsCanonicalWithTheTablesValues : Prop :=
  (State.reset.canonical ∧ State.reset.pending = [] ∧ ∀ (sp : Space) (a : Nat), (State.reset.mem sp).get a = 0) ∧
  (∀ f : FurrowIx,
     (State.reset.furrow f).life = .reset ∧ (State.reset.furrow f).ns = 0 ∧ (State.reset.furrow f).reqs = [] ∧
     (State.reset.furrow f).ctx[(0 : Handle)].shares = 0x400 ∧
     (∀ h : Handle, h ≠ 0 → (State.reset.furrow f).ctx[h] = Context.initial) ∧ Context.initial.state = .free ∧
     (∀ h : Handle, (State.reset.furrow f).ctx[h].rings = Rings.initial) ∧
     Rings.initial.state = .disabled ∧ Rings.initial.sqLog = 4 ∧ Rings.initial.cqLog = 4 ∧ Rings.initial.irqBatch = 1 ∧
     Rings.initial.sqHead = 0 ∧ Rings.initial.sqTail = 0 ∧ Rings.initial.cqHead = 0 ∧ Rings.initial.cqTail = 0 ∧
     (State.reset.furrow f).pyr.fenceUs = 0x1F4 ∧ (State.reset.furrow f).pyr.beatMs = 0x0A ∧ (State.reset.furrow f).pyr.lostBeats = 3 ∧
     (State.reset.furrow f).grn.idleUs = 0x3E8 ∧ (State.reset.furrow f).grn.bgFree = 0x20 ∧ (State.reset.furrow f).grn.fgFree = 4 ∧
     (State.reset.furrow f).pwr.tThrottle = 0x64 ∧ (State.reset.furrow f).pwr.limitW = 0x1EA ∧
     (State.reset.furrow f).err.enable = false ∧ (State.reset.furrow f).err.log2Size = 6)

/-! ### Host interface (chapter 02) -/

/-- REGISTER_WRITE to the ring group of a furrow that the access reaches: while STATE is not DISABLED the writes of RING_SQ_BASE, RING_SQ_CFG, RING_CQ_BASE and of
RING_CQ_CFG.LOG2_SIZE are ignored, and while it is DISABLED they take the written bits; IRQ_GAP, IRQ_BATCH, IRQ_EN and RING_SQ_SHADOW take
them at once in every state (R43). Nothing else of the module changes. -/
def Obligations.RingSetupWrittenOnlyWhileDisabled : Prop :=
  ∀ (f : FurrowIx) (h : Handle) (v : W64) (s : State), s.reaches f 0x20000 = true →
    let write := fun (k : Nat) => exec (.registerWrite (.furrow f) ⟨.bar0, BitVec.ofNat 24 (0x20000 + 0x40 * h.val + k), 8⟩ v) s
    let rings := fun (g : Rings → Rings) => (.next (s.setFurrow f ((s.furrow f).modRings h g)) : Host.Outcome State Fault Refusal)
    let size := fun (old : BitVec 5) => if 4 ≤ (v.extractLsb' 0 5).toNat ∧ (v.extractLsb' 0 5).toNat ≤ 16 then v.extractLsb' 0 5 else old
    ((s.furrow f).ctx[h].rings.state ≠ .disabled →
      write 0x00 = .next s ∧ write 0x08 = .next s ∧ write 0x18 = .next s ∧
      write 0x20 = rings fun g => { g with irqGap := v.extractLsb' 16 10, irqBatch := v.extractLsb' 8 8, irqEn := v.getLsbD 5 }) ∧
    ((s.furrow f).ctx[h].rings.state = .disabled →
      (write 0x00 = rings fun g => { g with sqBase := v.extractLsb' 12 52 }) ∧
      (write 0x08 = rings fun g => { g with sqLog := size g.sqLog }) ∧
      (write 0x18 = rings fun g => { g with cqBase := v.extractLsb' 12 52 }) ∧
      write 0x20 = rings fun g =>
        { g with irqGap := v.extractLsb' 16 10, irqBatch := v.extractLsb' 8 8, irqEn := v.getLsbD 5, cqLog := size g.cqLog }) ∧
    write 0x10 = rings fun g => { g with shadowAddr := v.extractLsb' 3 61, shadowEn := v.getLsbD 0 }

/-- FUR_NS read through a host port that carries the access, of a furrow that it reaches: a read of all 64 bits answers it; the read of
the low half answers that half and latches the high half; the next read of the high half answers what was latched, whatever FUR_NS has
become, and gives the latch up; without a latch it answers the high half as it is (R16). No read changes any memory or the count. -/
def Obligations.LowHalfReadLatchesHighHalf : Prop :=
  ∀ (f : FurrowIx) (s : State), s.reaches f 0x20 = true →
    let c := s.furrow f
    let latch := fun (c : Furrow) => c.latches.find? fun p => p.1 = 0x20
    let reads := fun (off : BitVec 24) (size : Nat) (v : W64) (after : Option W32) =>
      ∃ t, exec (.furNsLowRead (.furrow f) ⟨.bar0, off, size⟩) s = .next t ∧ t.hdl = { s.hdl with readData := v } ∧
        (latch (t.furrow f)).map (·.2) = after ∧ t = { s.setFurrow f { c with latches := (t.furrow f).latches } with hdl := t.hdl }
    reads 0x20 8 c.ns none ∧ reads 0x20 4 (c.ns &&& 0xFFFFFFFF) (some (c.ns.extractLsb' 32 32)) ∧
    (latch c = none → reads 0x24 4 (c.ns >>> 32) none) ∧
    ∀ p, latch c = some p → reads 0x24 4 (p.2.zeroExtend 64) none

/-- A furrow that the headland marks LOST, read or written while the host port carries accesses: a read of its FUR_ID or FUR_STATE is
answered from the shadow copy, any other read of its BAR0 or BAR2 with all ones, which the headland counts, and a write to either BAR
changes nothing but the headland's count of discarded writes; the furrow and every memory stay as they are (R14, Table 19-9). -/
def Obligations.LostFurrowAnsweredByHeadland : Prop :=
  ∀ (f : FurrowIx) (s : State), s.hdl.carries = true → s.hdl.lostMap.getLsbD f.val = true →
    exec (.lostFurrowAccess f ⟨.bar0, 0, 8⟩ none) s = .next { s with hdl := { s.hdl with readData := s.hdl.shadowId[f] } } ∧
    exec (.lostFurrowAccess f ⟨.bar0, 8, 8⟩ none) s = .next { s with hdl := { s.hdl with readData := s.hdl.shadowState[f] } } ∧
    (∀ a : HostAccess, a.bar = .bar2 ∨ (a.bar = .bar0 ∧ 16 ≤ a.off.toNat) →
      exec (.lostFurrowAccess f a none) s = .next { s with hdl := { s.hdl with
        readData := BitVec.allOnes 64, ones := s.hdl.ones.set (fnIx f) (sat (s.hdl.ones[fnIx f]) 1) } }) ∧
    ∀ (a : HostAccess) (v : W64), a.bar = .bar0 ∨ a.bar = .bar2 →
      exec (.lostFurrowAccess f a (some v)) s = .next { s with hdl := { s.hdl with
        discarded := s.hdl.discarded.set (fnIx f) (sat (s.hdl.discarded[fnIx f]) 1) } }

/-- The life of a ring group: ENABLE = 1 on a DISABLED group of a context in use that is not lent to a span makes it ACTIVE with all
four counts 0, and has no effect otherwise; ENABLE = 0 makes an ACTIVE group DRAINING; and a DRAINING group with no request outstanding
and no record held becomes DISABLED (R42, R44). -/
def Obligations.RingGroupLifeCycle : Prop :=
  ∀ (f : FurrowIx) (h : Handle) (s : State), s.reaches f 0x20030 = true →
    ((s.furrow f).ctx[h].state ≠ .free → (s.furrow f).ctx[h].role ≠ .member → (s.furrow f).ctx[h].rings.state = .disabled →
      exec (.ringEnable f h) s = .next (s.setFurrow f ((s.furrow f).modRings h fun g =>
        { g with
          state := .active, sqHead := 0, cqTail := 0, sqTail := 0, cqHead := 0, holding := [], kept := [], openRun := none }))) ∧
    ((s.furrow f).ctx[h].state = .free ∨ (s.furrow f).ctx[h].role = .member ∨ (s.furrow f).ctx[h].rings.state ≠ .disabled →
      exec (.ringEnable f h) s = .next s) ∧
    ((s.furrow f).ctx[h].rings.state = .active →
      (∃ t, exec (.ringDrain f h) s = .next t ∧ (t.furrow f).ctx[h].rings.state = .draining ∧ t = s.setFurrow f (t.furrow f)) ∧
      ((s.furrow f).partRuns h = [] →
        exec (.ringDrain f h) s = .next (s.setFurrow f ((s.furrow f).modRings h fun g =>
          { g with state := .draining, kept := [], openRun := none })))) ∧
    ((s.furrow f).ctx[h].rings.state ≠ .active → exec (.ringDrain f h) s = .next s) ∧
    ((s.furrow f).ctx[h].rings.state ≠ .draining ∨ (s.furrow f).outstanding h ≠ [] → exec (.ringDrainDone f h) s = .next s) ∧
    ((s.furrow f).ctx[h].rings.state = .draining → (s.furrow f).outstanding h = [] → (s.furrow f).ctx[h].rings.holding = [] →
      exec (.ringDrainDone f h) s = .next (s.setFurrow f ((s.furrow f).modRings h fun g => { g with state := .disabled })))

/-- DB_SQ_TAIL and DB_CQ_HEAD while ACTIVE: a tail at most 2ⁿ past the submission head is accepted, and so is a head that is at most 2ⁿ
behind the completion tail and not behind the last accepted head; any other value is ignored, with BAD_DOORBELL and an error record of
kind 0x12, and the rings stay ACTIVE (R48). A register write to the context's doorbell page is that doorbell (R46). -/
def Obligations.DoorbellAcceptedOrFlagged : Prop :=
  ∀ (f : FurrowIx) (h : Handle) (v : W32) (s : State), s.reaches f 0x20038 = true →
    (s.furrow f).ctx[h].rings.state = .active →
    let g := (s.furrow f).ctx[h].rings
    let flagged := fun (o : Host.Outcome State Fault Refusal) =>
      ∃ t, o = .next t ∧ t = s.setFurrow f (t.furrow f) ∧
        (t.furrow f).ctx = ((s.furrow f).modRings h fun g => { g with badDoorbell := true }).ctx ∧ (t.furrow f).reqs = (s.furrow f).reqs ∧
        (t.furrow f).err.seq = (s.furrow f).err.seq + 1 ∧
        ∃ e, (e ∈ (t.furrow f).err.queue ∨ e ∈ (t.furrow f).err.waiting) ∧ e.kind = 0x12 ∧ e.seq = (s.furrow f).err.seq ∧
          e.ctx = BitVec.ofNat 16 h.val
    let page := fun (k : Nat) => exec (.registerWrite (.furrow f) ⟨.bar2, BitVec.ofNat 24 (0x1000 * h.val + k), 4⟩ (v.zeroExtend 64)) s
    (page 0x000 = exec (.dbSqTail f h v) s ∧ page 0x008 = exec (.dbCqHead f h v) s ∧ page 0x010 = exec (.dbCancel f h v) s) ∧
    ((v - g.sqHead).toNat ≤ 2 ^ g.sqLog.toNat →
      exec (.dbSqTail f h v) s = .next (s.setFurrow f ((s.furrow f).modRings h fun g => { g with sqTail := v }))) ∧
    (2 ^ g.sqLog.toNat < (v - g.sqHead).toNat → flagged (exec (.dbSqTail f h v) s)) ∧
    ((g.cqTail - v).toNat ≤ 2 ^ g.cqLog.toNat → (g.cqTail - v).toNat ≤ (g.cqTail - g.cqHead).toNat →
      (∃ t, exec (.dbCqHead f h v) s = .next t ∧ (t.furrow f).ctx[h].rings.cqHead = v ∧ (t.furrow f).ctx[h].rings.state = .active ∧
        (t.furrow f).ctx[h].rings.badDoorbell = g.badDoorbell) ∧
      (g.holding = [] →
        exec (.dbCqHead f h v) s = .next (s.setFurrow f ((s.furrow f).modRings h fun g => { g with cqHead := v })))) ∧
    (2 ^ g.cqLog.toNat < (g.cqTail - v).toNat ∨ (g.cqTail - g.cqHead).toNat < (g.cqTail - v).toNat →
      flagged (exec (.dbCqHead f h v) s))

/-- Doorbells in the other ring states: in DISABLED and ERROR every doorbell write leaves the whole module as it is, flags and counts too;
in DRAINING a write of DB_SQ_TAIL does so too, DB_CQ_HEAD is accepted under R48's bounds, and DB_CANCEL acts on every fetched request
as it does in ACTIVE (R49). -/
def Obligations.DoorbellsOutsideActive : Prop :=
  ∀ (f : FurrowIx) (h : Handle) (v : W32) (tag : Tag) (s : State),
    let g := (s.furrow f).ctx[h].rings
    (g.state = .disabled ∨ g.state = .error →
      exec (.dbSqTail f h v) s = .next s ∧ exec (.dbCqHead f h v) s = .next s ∧ exec (.dbCancel f h tag) s = .next s) ∧
    (g.state = .draining → exec (.dbSqTail f h v) s = .next s) ∧
    (g.state = .draining → s.reaches f 0x20038 = true →
      ((g.cqTail - v).toNat ≤ 2 ^ g.cqLog.toNat → (g.cqTail - v).toNat ≤ (g.cqTail - g.cqHead).toNat →
        ∃ t, exec (.dbCqHead f h v) s = .next t ∧ (t.furrow f).ctx[h].rings.cqHead = v ∧ (t.furrow f).ctx[h].rings.state = .draining ∧
          (t.furrow f).ctx[h].rings.badDoorbell = g.badDoorbell) ∧
      (2 ^ g.cqLog.toNat < (g.cqTail - v).toNat ∨ (g.cqTail - g.cqHead).toNat < (g.cqTail - v).toNat →
        ∃ t, exec (.dbCqHead f h v) s = .next t ∧
          (t.furrow f).ctx = ((s.furrow f).modRings h fun g => { g with badDoorbell := true }).ctx ∧
          (t.furrow f).err.seq = (s.furrow f).err.seq + 1 ∧ t.host = s.host ∧ t.mems = s.mems) ∧
      exec (.dbCancel f h tag) s = .next (s.setFurrow f ((s.furrow f).cancelTag f h tag)))

/-- DESCRIPTOR_FETCH of a ring that may be fetched, with the host port up: it reads between 1 and 64 descriptors, and SQ_HEAD counts them;
it stops short of 64 only where the ring may be fetched no more; and SQ_HEAD then goes to the head shadow when that is enabled (R40, R50).
A single announced descriptor with no open run, no kept cancel and a new tag becomes a request of those 64 bytes: queued, when the checks
at fetch, the span and admission let it pass, and otherwise ended with the first reason that they give (R54, R82). A ring that is not
ACTIVE, that is empty, or whose context has 4,096 requests outstanding is not fetched at all (R45, R55). -/
def Obligations.FetchReadsOneBurstThenShadow : Prop :=
  ∀ (f : FurrowIx) (h : Handle) (s : State),
    let c := s.furrow f
    let g := c.ctx[h].rings
    (s.hdl.carries = true → c.mayFetch h = true →
      (∃ t n, exec (.descriptorFetch f h) s = .next t ∧ t.mems = s.mems ∧ t.fuses = s.fuses ∧ t.hdl = s.hdl ∧
        (∀ e : FurrowIx, e ≠ f → t.furrow e = s.furrow e) ∧
        1 ≤ n ∧ n ≤ 64 ∧ (t.furrow f).ctx[h].rings.sqHead = g.sqHead + BitVec.ofNat 32 n ∧ (n < 64 → (t.furrow f).mayFetch h = false) ∧
        (g.shadowEn = true → s.canonical → t.host.read ((t.furrow f).hostAt h (g.shadowAddr.toNat * 8)) 8 =
          leBytes 8 (t.furrow f).ctx[h].rings.sqHead.toNat)) ∧
      ∀ d : List Byte, g.sqTail = g.sqHead + 1 → g.openRun = none → g.kept = [] →
        d = s.host.read (c.hostAt h (g.sqBase.toNat * 4096 + g.sqHead.toNat % 2 ^ g.sqLog.toNat * 64)) 64 → linkOf d = false →
        let tag : Tag := BitVec.ofNat 32 (df d 4 4)
        tag ≠ boxTag → c.request? h tag = none →
        let q := { Request.fresh h tag c.order g.sqHead d c.ns with phase := .partRun }
        let c' := { c.modRings h fun g => { g with sqHead := g.sqHead + 1 } with order := c.order + 1, reqs := c.reqs ++ [q] }
        let r := (Run.start s).setFur f c'
        (c'.runFail q = none → c'.lostBelow q = none → r.admission f q (r.runCosts f q) = none →
          ∃ t, exec (.descriptorFetch f h) s = .next t ∧ ∃ p, (t.furrow f).request? h tag = some p ∧ p.descs = [d] ∧
            p.phase = .queued ∧ p.fetchNs = c.ns ∧ p.order = c.order) ∧
        ∀ e : Ending, (c'.runFail q).map (·.ending) = some e ∨
            (c'.runFail q = none ∧ c'.lostBelow q = none ∧ (r.admission f q (r.runCosts f q)).map (·.ending) = some e) →
          e.status = Status.refused ∧ ∃ t, exec (.descriptorFetch f h) s = .next t ∧
            ((t.furrow f).request? h tag = none ∨ ∃ p, (t.furrow f).request? h tag = some p ∧ p.phase = .ended e)) ∧
    (g.state ≠ .active ∨ g.sqHead = g.sqTail ∨ 4096 ≤ (c.outstanding h).length → exec (.descriptorFetch f h) s = .next s)

/-- DB_CANCEL on ACTIVE rings: every fetched request that the tag matches is cancelled at once, and while descriptors up to the last
tail are not all fetched the cancel is kept with the count of that tail (R51).
CANCEL_ABORT_DONE: once every engine and member of an aborting request has aborted, the request ends CANCELLED, with what its
descriptor was to write left as free values (R88, R89). -/
def Obligations.CancelsReachAndEnd : Prop :=
  (∀ (f : FurrowIx) (h : Handle) (tag : Tag) (s : State), s.reaches f 0x20038 = true →
     (s.furrow f).ctx[h].rings.state = .active →
     ((s.furrow f).ctx[h].rings.sqHead = (s.furrow f).ctx[h].rings.sqTail →
       exec (.dbCancel f h tag) s = .next (s.setFurrow f ((s.furrow f).cancelTag f h tag))) ∧
     ((s.furrow f).ctx[h].rings.sqHead ≠ (s.furrow f).ctx[h].rings.sqTail →
       exec (.dbCancel f h tag) s = .next (s.setFurrow f (((s.furrow f).cancelTag f h tag).modRings h fun g =>
         { g with kept := g.kept ++ [(tag, (s.furrow f).ctx[h].rings.sqTail)] }))) ∧
     ∀ q, (s.furrow f).request? h tag = some q → q.phase = .running → q.gen = none → q.dones = [] → (s.furrow f).steps = [] →
       tag ≠ 0xFFFFFFFF → ((s.furrow f).reqs.filter fun p => p.h = h && p.tag = tag).length = 1 →
       ∃ t, exec (.dbCancel f h tag) s = .next t ∧ (t.furrow f).request? h tag = some (q.abortAt (s.furrow f).ns)) ∧
  (∀ (f : FurrowIx) (h : Handle) (tag : Tag) (q : Request) (s : State), tag ≠ boxTag → (s.furrow f).request? h tag = some q →
     (q.phase = .aborting → q.dones = [] →
       exec (.cancelAbortDone f h tag) s = .next
         (((((Run.start s).ruin f q).ruinHome f q).when (decide (q.op = 0x73)) fun r => r.unforward f q).finishPost f h tag (.bare Status.cancelled 0)).now) ∧
     (q.phase ≠ .aborting ∨ q.dones ≠ [] → exec (.cancelAbortDone f h tag) s = .next s))

/-- DESCRIPTOR_START: a queued descriptor of this furrow's own ring, whose turn has come and which passes the checks made at its start,
is launched on a place that serves its context; one that fails them does not run, and ends with that refusal; at a place that does not
fit nothing happens (R67, R476).
DESCRIPTOR_COMPLETE: a descriptor that ended DONE hands over to the next of its linked run, which is then queued with the step's
time measured; the last descriptor, or any other status, ends the request (R53, R85). -/
def Obligations.DescriptorsStartAndEnd : Prop :=
  (∀ (f : FurrowIx) (h : Handle) (tag : Tag) (place : Place) (q : Request) (s : State), tag ≠ boxTag →
     (s.furrow f).request? h tag = some q → q.phase = .queued → q.origin = none →
     ((s.furrow f).placeFits q place = false → exec (.descriptorStart f h tag place) s = .next s) ∧
     ((s.furrow f).placeFits q place = true → (s.furrow f).mayStart q = true →
     let p := { { q with place := q.placeOn place } with needs := ({ q with place := q.placeOn place } : Request).scratchCore }
     ((Run.start s).startFail f p = none →
       exec (.descriptorStart f h tag place) s = .next ((Run.start s).launch f p place).now) ∧
     ∀ x, (Run.start s).startFail f p = some x →
       exec (.descriptorStart f h tag place) s = .next
         ((if p.op = 0x50 then (Run.start s).noteLoad (p.eng f) p.desc else Run.start s).engineEnds f h tag (startRefusal p.op x).ending).now)) ∧
  (∀ (f : FurrowIx) (h : Handle) (tag : Tag) (q : Request) (e : Ending) (s : State), tag ≠ boxTag →
     (s.furrow f).request? h tag = some q → q.phase = .engineDone e → q.dones = [] →
     ((q.combine e).status = Status.done → q.idx + 1 < q.descs.length →
       ∃ t, exec (.descriptorComplete f h tag) s = .next t ∧
         (t.furrow f).request? h tag = some (q.nextDesc (s.furrow f).ns) ∧ (q.nextDesc (s.furrow f).ns).idx = q.idx + 1 ∧
         (q.nextDesc (s.furrow f).ns).phase = .queued ∧ ∀ sp : Space, t.mem sp = s.mem sp) ∧
     ((q.combine e).status ≠ Status.done ∨ q.descs.length ≤ q.idx + 1 →
       exec (.descriptorComplete f h tag) s = .next
         (((((Run.start s).modFur f fun c => c.modCtx h Context.updateNs).closeStream f h tag (q.combine e).status).modFur f fun c =>
           c.finish f h tag (q.combine e)).when (decide ((q.combine e).status = Status.dataError)) fun r => r.weighHealth f).now))

/-- RECORD_POST with nothing held: with room in the completion ring the 32 bytes of the final record are written at the completion
tail, with PHASE the inverse of bit n of the completion count, CQ_TAIL counts it, the request is outstanding no longer, and no other
byte of any memory changes; with the ring full, or the host port lost, the record goes to the holding queue and no byte of memory
changes (R55–R58, R13). -/
def Obligations.FinalRecordWrittenAtTailOrHeld : Prop :=
  ∀ (f : FurrowIx) (h : Handle) (tag : Tag) (q : Request) (e : Ending) (s : State),
    (s.furrow f).reqs.find? (fun p => p.awaits h tag false) = some q → q.phase = .ended e →
    (s.furrow f).ctx[h].rings.state = .active ∨ (s.furrow f).ctx[h].rings.state = .draining →
    (s.furrow f).ctx[h].rings.holding = [] →
    (s.hdl.carries = true → (s.furrow f).ctx[h].rings.full = false →
      ∃ t, exec (.recordPost f h tag) s = .next t ∧
        t.host = s.host.write ((s.furrow f).hostAt h (s.furrow f).ctx[h].rings.cqSlot)
          ((q.finalRecord e).bytes (s.furrow f).ctx[h].rings.cqTail (s.furrow f).ctx[h].rings.cqLog.toNat) ∧
        ((q.finalRecord e).bytes (s.furrow f).ctx[h].rings.cqTail (s.furrow f).ctx[h].rings.cqLog.toNat).length = 32 ∧
        (((q.finalRecord e).bytes (s.furrow f).ctx[h].rings.cqTail (s.furrow f).ctx[h].rings.cqLog.toNat).getD 5 0).getLsbD 7 =
          !(s.furrow f).ctx[h].rings.cqTail.getLsbD (s.furrow f).ctx[h].rings.cqLog.toNat ∧
        (t.furrow f).ctx[h].rings.cqTail = (s.furrow f).ctx[h].rings.cqTail + 1 ∧
        (t.furrow f).reqs = dropOne (fun p => p.awaits h tag false) (s.furrow f).reqs ∧ t.mems = s.mems) ∧
    (s.hdl.carries = false ∨ (s.furrow f).ctx[h].rings.full = true →
      ∃ t, exec (.recordPost f h tag) s = .next t ∧ t.host = s.host ∧ t.mems = s.mems ∧
        (t.furrow f).ctx[h].rings.holding = [q.finalRecord e] ∧ (t.furrow f).ctx[h].rings.cqTail = (s.furrow f).ctx[h].rings.cqTail)

/-- MSIX_FIRE and MSIX_UNMASK: a vector whose two conditions hold fires at that instant; an unmasked one sends its message, a masked one
sets its pending bit instead, and both restart the gap and the count. Without the conditions nothing fires. Unmasking sends the
pending message, and that is no further firing (R64). -/
def Obligations.VectorFiresOrGoesPending : Prop :=
  ∀ (f : FurrowIx) (n : Fin 65) (s : State),
    (((s.furrow f).irqOf n).1 = true → (s.furrow f).msix[n].due (s.furrow f).ns ((s.furrow f).irqOf n).2.1 ((s.furrow f).irqOf n).2.2 = true →
      ∃ t, exec (.msixFire (.furrow f) n) s = .next t ∧
        (t.furrow f).msix[n].sent = (if (s.furrow f).msix[n].masked then (s.furrow f).msix[n].sent else (s.furrow f).msix[n].sent + 1) ∧
        (t.furrow f).msix[n].pendingBit = ((s.furrow f).msix[n].pendingBit || (s.furrow f).msix[n].masked) ∧
        (t.furrow f).msix[n].since = 0 ∧ (t.furrow f).msix[n].lastFire = some (s.furrow f).ns ∧
        (∀ m : Fin 65, m ≠ n → (t.furrow f).msix[m] = (s.furrow f).msix[m]) ∧ t.host = s.host ∧ t.hdl = s.hdl ∧ t.mems = s.mems) ∧
    (((s.furrow f).irqOf n).1 = false ∨
        (s.furrow f).msix[n].due (s.furrow f).ns ((s.furrow f).irqOf n).2.1 ((s.furrow f).irqOf n).2.2 = false →
      exec (.msixFire (.furrow f) n) s = .next s) ∧
    (s.hdl.carries = false → exec (.msixUnmask (.furrow f) n) s = .next s) ∧
    (s.hdl.carries = true → ∃ t, exec (.msixUnmask (.furrow f) n) s = .next t ∧ (t.furrow f).msix[n].masked = false ∧ (t.furrow f).msix[n].pendingBit = false ∧
      (t.furrow f).msix[n].sent = (if (s.furrow f).msix[n].pendingBit then (s.furrow f).msix[n].sent + 1 else (s.furrow f).msix[n].sent) ∧
      (t.furrow f).msix[n].lastFire = (s.furrow f).msix[n].lastFire ∧ (t.furrow f).msix[n].since = (s.furrow f).msix[n].since ∧
      exec (.msixFire .pf0 n) s = .next s ∧
      ∀ m : Fin 4, n.val = m.val →
        exec (.msixUnmask .pf0 n) s = .next { s with hdl := { s.hdl with msix := s.hdl.msix.set m (s.hdl.msix[m].unmask none) } })

/-! ### Contexts, scheduling and admission (chapter 03) -/

/-- BUDGET_EXPIRY at the furrow that fetched the request: a cancellable request with TTFR_BUDGET not zero whose first descriptor has not
started when the budget has passed since its fetch leaves the queue and ends DEFERRED, whatever retry-after its record carries; a request
that has started, even in that same nanosecond, is never DEFERRED, and neither is one with budget 0 or one whose budget has not passed
(R86). -/
def Obligations.UnstartedRequestDeferredAtBudget : Prop :=
  ∀ (f : FurrowIx) (h : Handle) (tag : Tag) (q : Request) (s : State), (s.furrow f).request? h tag = some q → q.origin = none →
    (q.cancellable = true → q.isStarted = false → q.ttfrNs ≠ 0 → q.ttfrNs ≤ elapsed (s.furrow f).ns q.fetchNs →
      ∃ n : Nat, exec (.budgetExpiry f h tag) s = .next (((Run.start s).free.2).finishPost f h tag (.bare Status.deferred
        (usOf (elapsed (s.furrow f).ns q.fetchNs) + 2 ^ 32 * n))).now) ∧
    (q.isStarted = true ∨ q.ttfrNs = 0 ∨ elapsed (s.furrow f).ns q.fetchNs < q.ttfrNs → exec (.budgetExpiry f h tag) s = .next s)

/-- QUANTUM_BOUNDARY: at a boundary that has fallen, every context's recorded shares take effect and its CTX_NS counters are brought up
to date, and every place chooses; away from a boundary nothing happens (R78, R79).
CORE_IDLE_SCHEDULE: a core or text engine in service that serves nobody takes, of its ready set, the context of least virtual time, a
core with its scratch cleared, and with an empty ready set stays idle; one whose context has no work left for it is cleared and chooses;
and one whose context has work goes on (R17, R78). -/
def Obligations.BoundariesAndIdlePlacesChoose : Prop :=
  (∀ (f : FurrowIx) (s : State),
     ((s.furrow f).boundaryDue = true →
       ∃ t, exec (.quantumBoundary f) s = .next t ∧ (t.furrow f).boundaryDue = false ∧ (t.furrow f).quanta = (s.furrow f).quanta + 1 ∧
         (∀ h : Handle, (t.furrow f).ctx[h].shares = (s.furrow f).ctx[h].nextShares.getD (s.furrow f).ctx[h].shares ∧
           (t.furrow f).ctx[h].nextShares = none ∧ (t.furrow f).ctx[h].ns = (s.furrow f).ctx[h].updateNs.ns) ∧
         t.host = s.host ∧ t.hdl = s.hdl) ∧
     ((s.furrow f).boundaryDue = false → exec (.quantumBoundary f) s = .next s)) ∧
  (∀ (f : FurrowIx) (u : Place) (s : State),
     (((s.furrow f).serveAt u).now = none → (s.furrow f).placeUp u = true →
       (∀ h, ((s.furrow f).catchUp ((s.furrow f).ready u)).leastVt ((s.furrow f).ready u) = some h →
         ∃ t, exec (.coreIdleSchedule f u) s = .next t ∧ (t.furrow f).serveAt u = .only h ∧
           (∀ v : Place, v ≠ u → (t.furrow f).serveAt v = (s.furrow f).serveAt v) ∧ (∀ sp : Space, sp ≠ .t0 f → t.mem sp = s.mem sp) ∧
           ∀ k : CoreIx, u = .core k → ∀ a : Nat, (t.mem (.t0 f)).get a =
             if k.val * hbmUnit ≤ a ∧ a < (k.val + 1) * hbmUnit then 0 else (s.mem (.t0 f)).get a) ∧
       (((s.furrow f).catchUp ((s.furrow f).ready u)).leastVt ((s.furrow f).ready u) = none →
         ∃ t, exec (.coreIdleSchedule f u) s = .next t ∧ (t.furrow f).cores = (s.furrow f).cores ∧
           (t.furrow f).texts = (s.furrow f).texts ∧ ∀ sp : Space, t.mem sp = s.mem sp)) ∧
     ∀ h, ((s.furrow f).serveAt u).now = some h →
       (((s.furrow f).reqs.any fun q => q.h = h && q.hasWork u) = true → exec (.coreIdleSchedule f u) s = .next s) ∧
       (((s.furrow f).reqs.any fun q => q.h = h && q.hasWork u) = false → exec (.coreIdleSchedule f u) s = .next
         ((((Run.start s).modFur f fun c => c.modCtx h Context.updateNs).leave f u).choose f u).now))

/-- ENGINE_PREEMPT: at a place's pre-emption boundary the chosen context takes it, and the old context's CTX_NS are brought up to date; the
whole scratch of a core reads as zeros to it, and no other byte of any memory changes (R17, R80). A place at which no other context has
been chosen stays as it is. -/
def Obligations.PreemptedCoreIsClearedForNextContext : Prop :=
  ∀ (f : FurrowIx) (u : Place) (s : State),
    (∀ g h : Handle, ((s.furrow f).serveAt u).now = some g → ((s.furrow f).serveAt u).next = some h →
      ∃ t, exec (.enginePreempt f u) s = .next t ∧ (t.furrow f).serveAt u = .only h ∧
        (t.furrow f).ctx[g].ns = (s.furrow f).ctx[g].updateNs.ns ∧ (∀ sp : Space, sp ≠ .t0 f → t.mem sp = s.mem sp) ∧
        (∀ e, u = .text e → t.mem (.t0 f) = s.mem (.t0 f)) ∧
        ∀ k : CoreIx, u = .core k → ∀ a : Nat, (t.mem (.t0 f)).get a =
          if k.val * hbmUnit ≤ a ∧ a < (k.val + 1) * hbmUnit then 0 else (s.mem (.t0 f)).get a) ∧
    (((s.furrow f).serveAt u).now = none ∨ ((s.furrow f).serveAt u).next = none → exec (.enginePreempt f u) s = .next s)

/-- CONTEXT_FAULT: a READY or MEMBER context that begins its teardown fetches no more. When every record of its requests has been posted,
or none can be because the completion write itself failed, it is left FAULTED with its rings in ERROR, no request outstanding and no
binding, and CTX_FAULT holds the cause and the address; while a record finds no room the rest waits, with the fault kept (R45, R58, R91).
A context that is FREE, FAULTED or being destroyed is left as it is. -/
def Obligations.FaultingContextIsTornDown : Prop :=
  ∀ (f : FurrowIx) (h : Handle) (cause : FaultCause) (addr : W64) (s : State),
    let c := s.furrow f
    let torn := fun (t : State) => (t.furrow f).ctx[h].state = .faulted ∧ (t.furrow f).ctx[h].fault = none ∧
      (t.furrow f).ctx[h].rings.state = .error ∧ (t.furrow f).outstanding h = [] ∧ (t.furrow f).ctx[h].role = .none ∧
      (t.furrow f).ctx[h].faultReason = BitVec.ofNat 8 (causeCode cause) ∧ (t.furrow f).err.seq = c.err.seq + 1 ∧
      (t.furrow f).ctx[h].faultAddr = if cause = .planInvalid ∨ cause = .spanRootLost then 0 else addr.extractLsb' 12 52
    (c.ctx[h].state = .ready ∨ c.ctx[h].state = .member → c.ctx[h].fault = none →
      let r := (Run.start s).faultRequests f h cause addr
      ((r.fur f).faultPosted h cause = true → ∃ t, exec (.contextFault f h cause addr) s = .next t ∧ torn t) ∧
      ((r.fur f).faultPosted h cause = false → ∃ t, exec (.contextFault f h cause addr) s = .next t ∧
        (t.furrow f).ctx[h].fault = some (cause, addr) ∧ (t.furrow f).mayFetch h = false) ∧
      (c.outstanding h = [] → c.ctx[h].rings.holding = [] → ∃ t, exec (.contextFault f h cause addr) s = .next t ∧ torn t)) ∧
    (c.ctx[h].state ≠ .ready → c.ctx[h].state ≠ .member → exec (.contextFault f h cause addr) s = .next s)

/-- CTX_RECOVER0: handle 0, when FAULTED, returns to READY with its rings DISABLED, unbound, and its regions and shares kept; when it is
not FAULTED the write has no effect (R73, Table 03-8).
The context operations of Table 03-9 that only write the context table, on another handle than the ring's own: CTX_SET_SHARES records the
shares for the next boundary, CTX_PAIR_FALLBACK pairs or unpairs, CTX_RECOVER returns the named handle to READY with its rings DISABLED;
each ends DONE with COUNT, RESULT and DETAIL 0 and changes no other context but for the engine time of the ring's own, and no memory
(R73, R75, R77, R79). -/
def Obligations.RecoveryAndTableOperationsTakeEffect : Prop :=
  (∀ (f : FurrowIx) (s : State),
     (s.reaches f 0x10008 = true → (s.furrow f).ctx[(0 : Handle)].state = .faulted →
       ∃ t, exec (.ctxRecover0 f) s = .next t ∧
         (t.furrow f).ctx[(0 : Handle)] =
           { (s.furrow f).ctx[(0 : Handle)] with
             state := .ready, fault := none, spanId := 0, role := .none
             rings := { (s.furrow f).ctx[(0 : Handle)].rings with state := .disabled } } ∧
         (∀ k : Handle, k ≠ 0 → (t.furrow f).ctx[k] = (s.furrow f).ctx[k]) ∧ s.onlyFurrow f t ∧ t.mems = s.mems) ∧
     (s.reaches f 0x10008 = false ∨ (s.furrow f).ctx[(0 : Handle)].state ≠ .faulted → exec (.ctxRecover0 f) s = .next s)) ∧
  (∀ (f : FurrowIx) (h g : Handle) (tag : Tag) (q : Request) (s : State), opHandle q.desc = some g → g ≠ h →
     let x := (s.furrow f).ctx[g]
     let becomes := fun (c : Instr) (y : Context) => ∃ t, exec c s = .next t ∧ t.descriptorEnded f h tag (Ending.ok 0 0) ∧
       (t.furrow f).ctx[g] = y ∧ (t.furrow f).ctx[h] = (s.furrow f).ctx[h].updateNs ∧
       (∀ k : Handle, k ≠ g → k ≠ h → (t.furrow f).ctx[k] = (s.furrow f).ctx[k]) ∧ s.onlyFurrow f t ∧ t.mems = s.mems
     ((s.furrow f).atWork h tag 0xF9 = some q →
       becomes (.ctxSetShares f h tag) { x with nextShares := some (BitVec.ofNat 16 (df q.desc 18 2)) }) ∧
     ((s.furrow f).atWork h tag 0xFB = some q →
       becomes (.ctxPairFallback f h tag)
         { x with
           pairs := (x.pairs.filter fun p => p.1 ≠ BitVec.ofNat 32 (df q.desc 20 4)) ++
             (if BitVec.ofNat 32 (df q.desc 24 4) = 0 then []
              else [(BitVec.ofNat 32 (df q.desc 20 4), BitVec.ofNat 32 (df q.desc 24 4))]) }) ∧
     ((s.furrow f).atWork h tag 0xFC = some q →
       becomes (.ctxRecover f h tag)
         { x with state := .ready, fault := none, spanId := 0, role := .none, rings := { x.rings with state := .disabled } }))

/-- NOP, FENCE and BARRIER on their own furrow: a NOP at work completes DONE with no result; a FENCE completes DONE once no earlier request of
its ring is outstanding, a BARRIER once in addition every write of the context to the Granary and over the fabric is over and every member
has done its part; each then writes its 8-byte signal value to the host address of its descriptor, or nothing when that is 0, and until
then it waits (R65, R66, R68). -/
def Obligations.FencesWaitThenSignal : Prop :=
  ∀ (f : FurrowIx) (h : Handle) (tag : Tag) (q : Request) (s : State), q.origin = none →
    let c := s.furrow f
    let ends := fun (o : Host.Outcome State Fault Refusal) (host : Mem) => ∃ t, o = .next t ∧ t.descriptorEnded f h tag (Ending.ok 0 0) ∧
      t.host = host ∧ t.mems = s.mems ∧ t.hdl = s.hdl ∧ ∀ g : FurrowIx, g ≠ f → t.furrow g = s.furrow g
    let signalled := if df q.desc 16 8 = 0 ∨ s.hdl.carries = false then s.host
      else s.host.write (c.hostAt h (df q.desc 16 8)) (bytesAt q.desc 24 8)
    (c.atWork h tag 0xF0 = some q → ends (exec (.nop f h tag) s) s.host) ∧
    (c.atWork h tag 0xF1 = some q → c.earlierGone h q.order = true → ends (exec (.fence f h tag) s) signalled) ∧
    (c.atWork h tag 0xF1 = some q → c.earlierGone h q.order = false → exec (.fence f h tag) s = .next s) ∧
    (c.atWork h tag 0xF2 = some q → q.dones = [] → c.earlierGone h q.order = true → c.granaryQuiet h = true →
      ends (exec (.barrier f h tag) s) signalled) ∧
    (c.atWork h tag 0xF2 = some q → q.dones ≠ [] ∨ c.earlierGone h q.order = false ∨ c.granaryQuiet h = false →
      exec (.barrier f h tag) s = .next s)

/-- CTX_CREATE of another handle than the ring's own: the named handle becomes READY with the shares, PASID and regions of the descriptor,
its rings as they are first; its HBM region reads as zero, the entries of its Granary region are unmapped where the Granary is mounted,
and no other byte of HBM changes; the descriptor ends DONE (R74, R310).
CTX_DESTROY of another handle: once every request of the named context is over and its records are posted, the handle is FREE with nothing
of the old context left, holds no unit, its HBM region reads as zero, and the descriptor ends DONE; until then the context is DESTROYING
and the descriptor runs on (R76). -/
def Obligations.ContextsAreCreatedAndDestroyed : Prop :=
  (∀ (f : FurrowIx) (h g : Handle) (tag : Tag) (q : Request) (s : State), (s.furrow f).atWork h tag 0xF8 = some q →
     opHandle q.desc = some g → g ≠ h → s.canonical →
     let d := q.desc
     let grn := (s.furrow f).grn
     let lo := df d 24 4 * hbmUnit
     let hi := lo + df d 28 4 * hbmUnit
     let entries := fun (a : Nat) => grn.usable = true ∧ grn.mapAddr (df d 32 4 * 256) ≤ a ∧ a < grn.mapAddr ((df d 32 4 + df d 36 4) * 256)
     ∃ t, exec (.ctxCreate f h tag) s = .next t ∧ t.descriptorEnded f h tag (Ending.ok 0 0) ∧ s.onlyFurrow f t ∧
       (t.furrow f).ctx[g] =
         { Context.initial with
           state := .ready, shares := BitVec.ofNat 16 (df d 18 2), pasid := BitVec.ofNat 20 (df d 20 4)
           hbmBase := BitVec.ofNat 32 (df d 24 4), hbmSize := BitVec.ofNat 32 (df d 28 4)
           grnBase := BitVec.ofNat 32 (df d 32 4), grnSize := BitVec.ofNat 32 (df d 36 4) } ∧
       (∀ a : Nat, lo ≤ a → a < hi → (t.mem (.hbm f)).get a = 0) ∧
       (∀ a : Nat, entries a → (t.mem (.hbm f)).get a = 0) ∧
       (∀ a : Nat, a < lo ∨ hi ≤ a → ¬entries a → (t.mem (.hbm f)).get a = (s.mem (.hbm f)).get a) ∧
       t.mem (.t1 f) = s.mem (.t1 f) ∧ t.mem (.t0 f) = s.mem (.t0 f)) ∧
  (∀ (f : FurrowIx) (h g : Handle) (tag : Tag) (q : Request) (s : State), (s.furrow f).atWork h tag 0xFD = some q → opHandle q.desc = some g →
     g ≠ h → s.canonical →
     ((((Run.start s).destroyRequests f g).fur f).drained g = true →
       ∃ t, exec (.ctxDestroy f h tag) s = .next t ∧ t.descriptorEnded f h tag (Ending.ok 0 0) ∧ (t.furrow f).ctx[g] = Context.initial ∧
         (t.furrow f).outstanding g = [] ∧ (∀ u : Fin 128, (t.furrow f).t1Owner[u] ≠ some g) ∧
         ∀ a : Nat, (s.furrow f).ctx[g].hbmBase.toNat * hbmUnit ≤ a →
           a < ((s.furrow f).ctx[g].hbmBase.toNat + (s.furrow f).ctx[g].hbmSize.toNat) * hbmUnit → (t.mem (.hbm f)).get a = 0) ∧
     ((((Run.start s).destroyRequests f g).fur f).drained g = false →
       ∃ t, exec (.ctxDestroy f h tag) s = .next t ∧ t = ((Run.start s).destroyRequests f g).now ∧ (t.furrow f).ctx[g].state = .destroying))

/-- CTX_BIND_SPAN for another handle than the ring's own, and its time limit: a binding as member sets the context down as a MEMBER of the
span and the descriptor ends DONE, with no memory changed; a binding as root whose member table reads well and breaks no rule of the span
sends its joins to the table's entries and waits for them; and a join that an entry has not answered in 10 ms ends REFUSED with
SPAN_INVALID (R373–R375). -/
def Obligations.BindingToASpan : Prop :=
  ∀ (f : FurrowIx) (h g : Handle) (tag : Tag) (q : Request) (s : State),
    ((s.furrow f).atWork h tag 0xFA = some q → opHandle q.desc = some g → g ≠ h → q.stage = 0 → bindRole q.desc = 2 →
      ∃ t, exec (.ctxBindSpan f h tag) s = .next t ∧ t.descriptorEnded f h tag (Ending.ok 0 0) ∧ s.onlyFurrow f t ∧ t.mems = s.mems ∧
        (t.furrow f).ctx[g].role = .member ∧ (t.furrow f).ctx[g].spanId = bindSpan q.desc ∧ (t.furrow f).ctx[g].state = .member) ∧
    (∀ bs xs, (s.furrow f).atWork h tag 0xFA = some q → opHandle q.desc = some g → q.stage = 0 → bindRole q.desc ≠ 2 →
      (s.furrow f).firstBad { q.eng f with h := g } [(2, (bindTable q.desc).off, 8 * bindEntries q.desc)] = none →
      bs = (Run.start s).load f g 0 2 (bindTable q.desc).off (8 * bindEntries q.desc) → xs = tableEntries bs →
      spanIdsOk ((s.furrow f).fabricId f :: xs.map fun (x : TableEntry) => x.id) = true →
      exec (.ctxBindSpan f h tag) s = .next (s.setFurrow f
        (((s.furrow f).modReq h tag fun q => { q with carried := bs }).join f q (bindSpan q.desc) xs 0 1))) ∧
    ((s.furrow f).request? h tag = some q → q.phase = .running → opcodeOf q.desc = 0xFA ∨ opcodeOf q.desc = 0x92 → q.stage ≠ 0 →
      q.acks ≠ [] → 10000000 ≤ elapsed (s.furrow f).ns (q.waitNs.getD (s.furrow f).ns) →
      ∃ t, exec (.spanJoinTimeout f h tag) s = .next t ∧ t.descriptorEnded f h tag (spanInvalid 0xFF).ending ∧ s.onlyFurrow f t ∧
        t.mems = s.mems)

/-! ### Arithmetic, search and updates (chapters 05–08) -/

/-- MATMUL, MATMUL_BATCH and the vector opcodes: while the furrow knows of no uncorrectable data, a descriptor at work ends DONE with a
COUNT of at most 65,535, RESULT its bytes 32–39 and DETAIL 0, and no unit of the furrow and nothing outside it changes; with
uncorrectable data about it ends so or with DATA_ERROR (R133, R423). A command whose request is not at such a descriptor does nothing.
HAMMING_SCAN, when what it reads is good, stores at OUT one 4-byte distance for each code, the number of bits in which the code differs
from the query, and ends DONE with COUNT the number of codes, at most 65,535, and RESULT its bytes 32–39 (R177, R137). -/
def Obligations.MatrixVectorAndScanRowsEnd : Prop :=
  (∀ (c : Instr) (op : Byte) (f : FurrowIx) (h : Handle) (tag : Tag) (s : State),
     ((c, op) ∈ ([(.matmul f h tag, 0x20), (.matmulBatch f h tag, 0x21), (.vecMap f h tag, 0x22), (.vecNorm f h tag, 0x23),
       (.vecSoftmax f h tag, 0x24), (.vecConvert f h tag, 0x25), (.signProject f h tag, 0x26), (.vecReduce f h tag, 0x27)] :
         List (Instr × Byte))) →
     ((s.furrow f).atWork h tag op = none → exec c s = .next s) ∧
     ∀ q, (s.furrow f).atWork h tag op = some q →
       ((s.furrow f).counts.bad = [] → ∃ t n, exec c s = .next t ∧ n ≤ 65535 ∧ t.descriptorEnded f h tag (Ending.ok n (df q.desc 32 8)) ∧
         (s.furrow f).unitsKept (t.furrow f) ∧ s.onlyFurrow f t) ∧
       ∃ t e, exec c s = .next t ∧ t.descriptorEnded f h tag e ∧ s.onlyFurrow f t ∧
         (e.status = Status.dataError ∨ ∃ n, n ≤ 65535 ∧ e = Ending.ok n (df q.desc 32 8))) ∧
  (∀ (f : FurrowIx) (h : Handle) (tag : Tag) (q : Request) (s : State), (s.furrow f).atWork h tag 0x31 = some q →
     let a := ScanDesc.of q.desc
     let e := q.eng f
     let r := Run.start s
     (s.furrow f).firstBad e ((a.q.tier, a.q.off, a.bytes) :: a.codes.rowExtents a.n a.bytes) = none →
       ∃ ds : List Nat, ds.length = a.n ∧
         (∀ i, i < a.n → ds[i]? = some (((List.range (8 * a.bytes)).filter fun b =>
           (r.loadNat f h e.core a.codes.tier (a.codes.row a.bytes i) a.bytes).testBit b !=
             (r.loadNat f h e.core a.q.tier a.q.off a.bytes).testBit b).length)) ∧
         exec (.hammingScan f h tag) s = .next ((r.store f h e.core a.out.tier a.out.off (ds.flatMap fun x => leBytes 4 x)).engineEnds
           f h tag (Ending.ok (min a.n 65535) (df q.desc 32 8))).now)

/-- SEARCH, while the furrow knows of no uncorrectable data, ends DONE or DONE_SHORT with COUNT the number of shards it holds views of
and RESULT its bytes 24–31; whatever its ending it then holds no view of any slot, and no slot's EPOCH changes (R159, R175).
MERGE that has begun, while the furrow knows of no uncorrectable data, ends DONE with COUNT the number of entries folded, at most
65,535, and RESULT the slot's floor: NODE_COUNT and SIDE_HEAD have risen by that number, and the merge holds no view and runs no more;
one that waits does nothing (R185).
MERGE_WAKE: a merge that waits on its slot begins when MERGE_DUE is set or was not waited for and its walks have room (R162, R184). -/
def Obligations.SearchAndMergeReleaseTheirViews : Prop :=
  ∀ (f : FurrowIx) (h : Handle) (tag : Tag) (q : Request) (s : State),
    let c := s.furrow f
    let released := fun (t : State) => ∀ (i : SlotIx) (v : View), v ∈ (t.furrow f).srch[i].views → ¬(v.h = h ∧ v.tag = tag)
    (c.atWork h tag 0x30 = some q →
      ∃ t e, exec (.search f h tag) s = .next t ∧ t.descriptorEnded f h tag e ∧ s.onlyFurrow f t ∧ released t ∧
        (∀ i : SlotIx, (t.furrow f).srch[i].epoch = c.srch[i].epoch) ∧
        (c.counts.bad = [] → (e.status = Status.done ∨ e.status = Status.doneShort) ∧ e.result = BitVec.ofNat 64 (df q.desc 24 8) ∧
          e.count = BitVec.ofNat 16 ((List.finRange 8).filter fun (i : SlotIx) =>
            c.srch[i].views.any fun v => v.h = h && v.tag = tag && !v.merge).length)) ∧
    (c.atWork h tag 0x3B = some q → ∀ i v, c.mergeHeld h tag = some (i, v) →
      ∃ t e, exec (.merge f h tag) s = .next t ∧ t.descriptorEnded f h tag e ∧ s.onlyFurrow f t ∧ released t ∧
        (c.counts.bad = [] → ∃ n, e = Ending.ok (min n 65535) c.srch[i].floor.toNat ∧ (t.furrow f).srch[i].mergeRunning = false ∧
          (t.furrow f).srch[i].nodeCount = c.srch[i].nodeCount + BitVec.ofNat 32 n ∧
          (t.furrow f).srch[i].sideHead = c.srch[i].sideHead + BitVec.ofNat 32 n ∧
          (t.furrow f).srch[i].floor = c.srch[i].floor ∧ (t.furrow f).srch[i].epoch = c.srch[i].epoch)) ∧
    (c.mergeHeld h tag = none → exec (.merge f h tag) s = .next s) ∧
    (c.request? h tag = some q → ∀ i x, c.slotNamed h (df q.desc 16 2) (decide (h = 0)) = some i → q.phase = .running →
      opcodeOf q.desc = 0x3B → q.merge = some ⟨true⟩ → c.srch[i].mergeDue = true ∨ (df q.desc 18 1).testBit 0 = false → c.mergeRoom q = some x →
      exec (.mergeWake f h tag) s = .next (s.setFurrow f ({ c with srch := c.srch.set i (c.srch[i].beginMerge h tag x) }.modReq h tag
        fun q => { q with merge := some ⟨false⟩, uses := q.walkerUse })))

/-- INSERT, DELETE and REPLACE on the furrow of the slot, in its turn: while the furrow knows of no uncorrectable data the descriptor ends
DONE or DONE_SHORT with RESULT the slot's EPOCH; the slot stands as it was when COUNT is 0, else its EPOCH has risen by one; no other slot
changes, and nothing outside the furrow (R181). An INSERT with room for all its items ends DONE with COUNT their number, and SIDE_TAIL has
risen by it; a DELETE with room in the log for all its items ends DONE; and a REPLACE with room whose old passage stands ends DONE with
COUNT 1 (R184). Out of its turn an update waits (R179).
On a furrow with no such slot and no member below, the reference is refused; on the root of a span the items that come back end it DONE
(R191).
SHARD_RESTORE, while the furrow knows of no uncorrectable data: a switch area whose CRC and shard identifier are right, with a delete log
that names nodes of the shard, sets the slot's registers from it, marks it restored, and ends DONE with its EPOCH in RESULT; any other
ends with DATA_ERROR (R190, R183). -/
def Obligations.UpdatesAndRestoreMoveTheEpoch : Prop :=
  (∀ (c : Instr) (op : Byte) (f : FurrowIx) (h : Handle) (tag : Tag) (q : Request) (s : State),
     (c, op) ∈ ([(.insert f h tag, 0x38), (.delete f h tag, 0x39), (.replace f h tag, 0x3A)] : List (Instr × Byte)) →
     (s.furrow f).atWork h tag op = some q →
     let a := UpdDesc.of q.desc
     (∀ i, (s.furrow f).slotNamed h a.shard false = some i → (s.furrow f).updateTurn i q = true → (s.furrow f).counts.bad = [] →
       let x := (s.furrow f).srch[i]
       ∃ t e, exec c s = .next t ∧ t.descriptorEnded f h tag e ∧ s.onlyFurrow f t ∧ (e.status = Status.done ∨ e.status = Status.doneShort) ∧
         e.result = (t.furrow f).srch[i].epoch ∧
         (e.count = 0 → (t.furrow f).srch[i] = x) ∧ (e.count ≠ 0 → (t.furrow f).srch[i].epoch = x.epoch + 1) ∧
         (∀ j : SlotIx, j ≠ i → (t.furrow f).srch[j] = (s.furrow f).srch[j]) ∧
         (op = 0x38 → (∀ k, k < a.n → x.full true false k 0 false = none) →
           e.status = Status.done ∧ e.count = BitVec.ofNat 16 (min a.n 65535) ∧
             (t.furrow f).srch[i].sideTail = x.sideTail + BitVec.ofNat 32 a.n) ∧
         (op = 0x39 → (x.dlogTail - x.dlogHead).toNat + a.n ≤ 65536 → e.status = Status.done) ∧
         (op = 0x3A → x.full true true 0 0 false = none → (∃ n, x.present a.old = some n ∧ (Run.start s).tombed f x n = false) → a.n ≤ 1 →
           e.status = Status.done ∧ e.count = 1 ∧ (t.furrow f).srch[i].sideTail = x.sideTail + 1)) ∧
     (∀ i, (s.furrow f).slotNamed h a.shard false = some i → (s.furrow f).updateTurn i q = false → exec c s = .next s) ∧
     ((s.furrow f).slotNamed h a.shard false = none → ((s.furrow f).below q.h).2.isEmpty = true →
       exec c s = .next ((Run.start s).engineEnds f h tag (Refuse.operand 24).atStart.ending).now) ∧
     ((s.furrow f).slotNamed h a.shard false = none → ((s.furrow f).below q.h).2.isEmpty = false → ∀ bs, (s.furrow f).backFrom q = some bs →
       ∃ t, exec c s = .next t ∧ t.descriptorEnded f h tag (Ending.ok 0 0) ∧ s.onlyFurrow f t)) ∧
  (∀ (f : FurrowIx) (h : Handle) (tag : Tag) (q : Request) (s : State), (s.furrow f).atWork h tag 0x3C = some q →
     (s.furrow f).counts.bad = [] →
     let i := restoreSlot q.desc
     let x := (s.furrow f).srch[i]
     let sw := (Run.start s).shard f x x.switchAt 64
     let log := countsFrom (BitVec.ofNat 32 (fieldAt sw 28 4)) (BitVec.ofNat 32 (fieldAt sw 32 4))
     let good := fieldAt sw 60 4 = crc32c (sw.take 60) ∧ fieldAt sw 36 2 = x.shardId.toNat ∧
       ∀ n, n ∈ log → (Run.start s).shardNat f x (x.dlogAt n + 8) 4 < x.nodeCap.toNat
     (good → ∃ t, exec (.shardRestore f h tag) s = .next t ∧ t.descriptorEnded f h tag (Ending.ok 0 (fieldAt sw 0 8)) ∧ s.onlyFurrow f t ∧
       (t.furrow f).srch[i] =
         { x with
           epoch := BitVec.ofNat 64 (fieldAt sw 0 8), floor := BitVec.ofNat 64 (fieldAt sw 8 8), restored := true
           nodeCount := BitVec.ofNat 32 (fieldAt sw 16 4), sideHead := BitVec.ofNat 32 (fieldAt sw 20 4)
           sideTail := BitVec.ofNat 32 (fieldAt sw 24 4), dlogHead := BitVec.ofNat 32 (fieldAt sw 28 4)
           dlogTail := BitVec.ofNat 32 (fieldAt sw 32 4) }) ∧
     (¬good → ∃ t e, exec (.shardRestore f h tag) s = .next t ∧ t.descriptorEnded f h tag e ∧ s.onlyFurrow f t ∧
       e.status = Status.dataError ∧ (t.furrow f).srch[i] = x))

/-- The life of a search slot: an IDLE slot that passes every check of its enable becomes SERVING with ERROR 0 and no bad edges, its floor
its EPOCH unless a restore has set a floor no higher; one that fails keeps its registers and shows the code of the check (R153, R183).
SLOT_DRAIN: a SERVING slot takes no more descriptors, and a running update or merge that has started on it, when it is the only one, ends
as R193 says. SLOT_DRAIN_DONE: a DRAINING slot becomes IDLE once no view of it is held and no descriptor that started on it is left (R155).
In any other state of the slot, or when the access does not reach the furrow, these do nothing. -/
def Obligations.SearchSlotLifeCycle : Prop :=
  ∀ (f : FurrowIx) (i : SlotIx) (s : State),
    let c := s.furrow f
    let x := c.srch[i]
    (s.reaches f 0x100000 = true → x.state = .idle → (Run.start s).enableError f i = 0 →
      exec (.slotEnable f i) s = .next (s.setFurrow f { c with srch := c.srch.set i (
          { x.compare with
            error := 0, enable := true, badEdges := 0, users := [], state := .serving,
            floor := if x.restored ∧ x.floor.toNat ≤ x.epoch.toNat then x.floor else x.epoch }) })) ∧
    (s.reaches f 0x100000 = true → x.state = .idle → (Run.start s).enableError f i ≠ 0 →
      ∃ t, exec (.slotEnable f i) s = .next t ∧ s.onlyFurrow f t ∧ t.mems = s.mems ∧
        (t.furrow f).srch[i] = { x with error := (Run.start s).enableError f i, enable := false }) ∧
    (x.state ≠ .idle ∨ s.reaches f 0x100000 = false → exec (.slotEnable f i) s = .next s) ∧
    (s.reaches f 0x100000 = true → x.state = .serving →
      ∃ t, exec (.slotDrain f i) s = .next t ∧ s.onlyFurrow f t ∧ t.mems = s.mems ∧ (t.furrow f).srch[i].state = .draining ∧
        (t.furrow f).srch[i].enable = false ∧
        ∀ q, c.updatesOn x = [q] → c.request? q.h q.tag = some q → t.descriptorEnded f q.h q.tag (drainEnding x q.desc)) ∧
    (x.state ≠ .serving ∨ s.reaches f 0x100000 = false → exec (.slotDrain f i) s = .next s) ∧
    (x.state = .draining → x.views = [] → c.slotUsed i = false →
      exec (.slotDrainDone f i) s = .next (s.setFurrow f { c with srch := c.srch.set i { x with state := .idle, users := [] } })) ∧
    (x.state ≠ .draining ∨ x.views ≠ [] ∨ c.slotUsed i = true → exec (.slotDrainDone f i) s = .next s)

/-! ### Winnow, rerank and text (chapters 09–11) -/

/-- While the furrow knows of no uncorrectable data:
WNW_SELECT ends DONE or DONE_SHORT with COUNT its rows and RESULT its bytes 24–31, and no unit of the furrow changes (R215).
WNW_MERGE, once what is below has come, ends at the root DONE or DONE_SHORT with COUNT 1 and RESULT its bytes 24–31, and on a member DONE;
until then it waits (R206, R208, R215).
CAND_FETCH at a root with nothing below and its tokenizer loaded, when no slot has a passage store, ends DONE or DONE_SHORT with COUNT its
candidates and RESULT its bytes 24–31 (R222); with something below that has not come it waits.
RR_FUSE ends DONE with RESULT its bytes 24–31, and no unit of the furrow changes (R226, R227).
PACK at a root with nothing below, its tokenizer loaded and the records of its ranks in the region, ends DONE or DONE_SHORT with RESULT its
bytes 40–47 (R231, R237); with something below that has not come it waits. -/
def Obligations.SelectionAndRerankRowsEnd : Prop :=
  ∀ (f : FurrowIx) (h : Handle) (tag : Tag) (q : Request) (s : State), (s.furrow f).counts.bad = [] →
    let c := s.furrow f
    let e := q.eng f
    let r := Run.start s
    let ends := fun (i : Instr) (p : Ending → Prop) => ∃ t x, exec i s = .next t ∧ t.descriptorEnded f h tag x ∧ s.onlyFurrow f t ∧ p x
    let good := fun (x : Ending) => x.status = Status.done ∨ x.status = Status.doneShort
    (c.atWork h tag 0x40 = some q →
      ∃ t x, exec (.wnwSelect f h tag) s = .next t ∧ t.descriptorEnded f h tag x ∧ s.onlyFurrow f t ∧ c.unitsKept (t.furrow f) ∧ good x ∧
        x.count = BitVec.ofNat 16 (SelDesc.of q.desc).rows ∧ x.result = BitVec.ofNat 64 (df q.desc 24 8)) ∧
    (c.atWork h tag 0x41 = some q →
      (c.piecesBelow q = none → exec (.wnwMerge f h tag) s = .next s) ∧
      ∀ rest, c.piecesBelow q = some rest →
        (q.origin = none → ends (.wnwMerge f h tag) fun x => good x ∧ x.count = 1 ∧ x.result = BitVec.ofNat 64 (df q.desc 24 8)) ∧
        (q.origin ≠ none → ends (.wnwMerge f h tag) fun x => x = Ending.ok 0 0)) ∧
    (c.atWork h tag 0x58 = some q → q.stage = 0 →
      (c.piecesBelow q = none → exec (.candFetch f h tag) s = .next s) ∧
      (q.origin = none → (c.below q.h).2 = [] → q.carried = [] → (c.tok? h (r.candArgs e q).pair.tok).isSome = true →
        (∀ i : SlotIx, c.srch[i].psEn = false) →
        ends (.candFetch f h tag) fun x => good x ∧ x.count = BitVec.ofNat 16 (r.candArgs e q).n ∧ x.result = BitVec.ofNat 64 (df q.desc 24 8))) ∧
    (c.atWork h tag 0x59 = some q →
      ∃ t n, exec (.rrFuse f h tag) s = .next t ∧ t.descriptorEnded f h tag (Ending.ok n (df q.desc 24 8)) ∧ s.onlyFurrow f t ∧
        c.unitsKept (t.furrow f)) ∧
    (c.atWork h tag 0x5A = some q → q.stage = 0 →
      (c.piecesLeft q q.collKey = none → exec (.pack f h tag) s = .next s) ∧
      (q.origin = none → (c.below q.h).2 = [] → (c.tok? h (fieldAt (r.template e q.desc) 4 4)).isSome = true →
        (∀ i, i < min (r.loadNat f h e.core (tref q.desc 16).tier (tref q.desc 16).off 4) (df q.desc 61 1) →
          c.inside h 2 ((tref q.desc 48).off + 8192 * fieldAt (r.load f h e.core (tref q.desc 16).tier ((tref q.desc 16).off + 64 + 16 * i) 16)
            12 4) 8192 = true) →
        ends (.pack f h tag) fun x => good x ∧ x.result = BitVec.ofNat 64 (df q.desc 40 8)))

/-- While the furrow knows of no uncorrectable data:
TXT_LOAD, off a span, of an image that passes its checks binds the handle to the image's bytes and ends DONE with RESULT the handle; one
that fails a check is refused, and nothing is bound (R241). TXT_UNLOAD frees a handle that no started request uses, and ends DONE with
RESULT the handle; until then it waits (R258).
TOKENIZE and DETOKENIZE with their tokenizer loaded end DONE with a COUNT of at most 65,535, and no unit of the furrow changes; with none
loaded the handle is refused (R245, R250, R259).
GRAM_INIT ends DONE when the START state can be entered; GRAM_MASK ends DONE with RESULT its bytes 32–39; GRAM_ADVANCE whose tokens all
step ends DONE with COUNT their number; one that fails ends with GRAMMAR_DEAD_END or GRAMMAR_OVERFLOW; and no unit of the furrow changes
(R255–R258). -/
def Obligations.TextRowsEnd : Prop :=
  ∀ (f : FurrowIx) (h : Handle) (tag : Tag) (q : Request) (s : State), (s.furrow f).counts.bad = [] →
    let c := s.furrow f
    let e := q.eng f
    let r := Run.start s
    let k := df q.desc 48 4
    let kept := fun (t : State) => s.onlyFurrow f t ∧ c.unitsKept (t.furrow f)
    (c.atWork h tag 0x50 = some q → q.stage = 0 → q.origin = none → (c.below q.h).2 = [] →
      ((r.loadCheck e q.desc).1 = 0 →
        ∃ t, exec (.txtLoad f h tag) s = .next t ∧ t.descriptorEnded f h tag (Ending.ok 0 k) ∧ s.onlyFurrow f t ∧ t.mems = s.mems ∧
          (t.furrow f).toks = c.toks ++ [⟨h, BitVec.ofNat 32 k, (tref q.desc 16).tier, (tref q.desc 16).off,
            r.loadNat f h e.core (tref q.desc 16).tier ((tref q.desc 16).off + 52) 4⟩] ∧
          (t.furrow f).tokStatus[h] = (BitVec.ofNat 32 (r.loadCheck e q.desc).2, 0)) ∧
      ((r.loadCheck e q.desc).1 ≠ 0 →
        ∃ t x, exec (.txtLoad f h tag) s = .next t ∧ t.descriptorEnded f h tag x ∧ x.status = Status.refused ∧ (t.furrow f).toks = c.toks ∧
          t.mems = s.mems)) ∧
    (c.atWork h tag 0x51 = some q →
      (r.tokBusy f h k = true → exec (.txtUnload f h tag) s = .next s) ∧
      (r.tokBusy f h k = false →
        ∃ t, exec (.txtUnload f h tag) s = .next t ∧ t.descriptorEnded f h tag (Ending.ok 0 k) ∧ s.onlyFurrow f t ∧ t.mems = s.mems ∧
          (t.furrow f).toks = c.toks.filter fun b => !(b.h = h && b.n.toNat = k))) ∧
    (∀ (i : Instr) (op : Byte), (i, op) ∈ ([(.tokenize f h tag, 0x52), (.detokenize f h tag, 0x53)] : List (Instr × Byte)) →
      c.atWork h tag op = some q →
      (c.tok? h k = none → exec i s = .next (r.engineEnds f h tag (Refuse.operand 48).atStart.ending).now) ∧
      ((c.tok? h k).isSome = true →
        ∃ t n m, exec i s = .next t ∧ n ≤ 65535 ∧ t.descriptorEnded f h tag (Ending.ok n m) ∧ kept t)) ∧
    (c.atWork h tag 0x54 = some q →
      let g := r.gramDef e (tref q.desc 16)
      (g.enter g.start [] = none → ∃ t, exec (.gramInit f h tag) s = .next t ∧
        t.descriptorEnded f h tag (Ending.ok 0 (instResult ⟨g.start, []⟩ (g.isFinal g.start))) ∧ kept t) ∧
      ∀ x, g.enter g.start [] = some x →
        exec (.gramInit f h tag) s = .next (r.engineEnds f h tag (x.ending g.start 0 0)).now) ∧
    (c.atWork h tag 0x55 = some q →
      ∃ t n, exec (.gramMask f h tag) s = .next t ∧ t.descriptorEnded f h tag (Ending.ok n (df q.desc 32 8)) ∧ kept t) ∧
    (c.atWork h tag 0x56 = some q →
      let g := r.gramDef e (r.instGram e (tref q.desc 16))
      let p := instPos (r.load f h e.core (tref q.desc 16).tier (tref q.desc 16).off instBytes)
      let ts := r.tokensAt e (tref q.desc 24) (df q.desc 32 1)
      ((g.steps p ts).2 = none →
        ∃ t m, exec (.gramAdvance f h tag) s = .next t ∧ t.descriptorEnded f h tag (Ending.ok (df q.desc 32 1) m) ∧ kept t) ∧
      ((g.steps p ts).2 ≠ none →
        ∃ t x, exec (.gramAdvance f h tag) s = .next t ∧ t.descriptorEnded f h tag x ∧ s.onlyFurrow f t ∧
          (x.status = Status.grammarDeadEnd ∨ x.status = Status.grammarOverflow)))

/-! ### Generation (chapter 12) -/

/-- GEN_PLAN_LOAD, while the furrow knows of no uncorrectable data, binds the plan's handle to its image; GEN_PLAN_UNLOAD off a span frees
a handle that nothing started uses, and waits until then; each ends DONE with RESULT the handle (R265, R285).
GEN_CACHE_INIT, while the furrow knows of no uncorrectable data, ends DONE with RESULT its bytes 16–23 (R285).
GENERATE at the root, when PARAMS, PROMPT and the cache can be read, begins with its plan, its cache and its prompt, nothing emitted; with
nothing to prefill and MAX_NEW 0 it ends DONE with RESULT its bytes 48–55 (R277, R285); once begun it leaves the rest to its steps.
GEN_STEP_START at a root composes a step where none is under way and carries on the one of its plan that has not come to its commit.
GEN_STEP_COMMIT does nothing before every furrow's program is over, nor while its progress records have no room; else it begins the
commit, if that has not begun, and ends it once every member has switched (R59, R270, R276). -/
def Obligations.GenerationRows : Prop :=
  (∀ (f : FurrowIx) (h : Handle) (tag : Tag) (q : Request) (s : State), (s.furrow f).counts.bad = [] →
     let c := s.furrow f
     (c.atWork h tag 0x60 = some q →
       ∃ t, exec (.genPlanLoad f h tag) s = .next t ∧ t.descriptorEnded f h tag (Ending.ok 0 (planHandle q.desc)) ∧
         (t.furrow f).plans = c.plans ++ [⟨h, BitVec.ofNat 32 (planHandle q.desc), (tref q.desc 16).off⟩] ∧ s.onlyFurrow f t ∧
         t.mems = s.mems) ∧
     (c.atWork h tag 0x61 = some q → q.origin = none → q.stage = 0 → (c.below q.h).2 = [] →
       (c.planBusy h (planHandle q.desc) = true → exec (.genPlanUnload f h tag) s = .next s) ∧
       (c.planBusy h (planHandle q.desc) = false →
         ∃ t, exec (.genPlanUnload f h tag) s = .next t ∧ t.descriptorEnded f h tag (Ending.ok 0 (planHandle q.desc)) ∧
           (t.furrow f).plans = (c.plans.filter fun b => !(b.h = h && b.n.toNat = planHandle q.desc)) ∧ s.onlyFurrow f t ∧
           t.mems = s.mems)) ∧
     (c.atWork h tag 0x62 = some q →
       ∃ t, exec (.genCacheInit f h tag) s = .next t ∧ t.descriptorEnded f h tag (Ending.ok 0 (df q.desc 16 8)) ∧ s.onlyFurrow f t ∧
         c.unitsKept (t.furrow f)) ∧
     (c.atWork h tag 0x63 = some q → q.origin = none →
       (q.gen = none →
         ∃ t p g, exec (.generate f h tag) s = .next t ∧ (t.furrow f).request? h tag = some p ∧ p.gen = some g ∧
           g.plan = BitVec.ofNat 32 (df q.desc 16 4) ∧ g.cache = (tref q.desc 24).off ∧ g.emitted = [] ∧
           g.prompt = (Run.start s).tokensAt (q.eng f) (tref q.desc 32) (promptLen q.desc) ∧
           (g.maxNew = 0 → g.todo = [] → t.descriptorEnded f h tag (Ending.ok 0 (df q.desc 48 8)))) ∧
       (q.gen ≠ none → exec (.generate f h tag) s = .next s))) ∧
  (∀ (f : FurrowIx) (h : Handle) (plan : W32) (s : State), (s.furrow f).serves = true → (s.furrow f).ctx[h].role ≠ .member →
     let c := s.furrow f
     let r := Run.start s
     (c.step? h = none → exec (.genStepStart f h plan) s = .next ((r.stepCompose f h plan.toNat).stepRoot f h).now ∧
       exec (.genStepCommit f h plan) s = .next s) ∧
     ∀ w, c.step? h = some w →
       (w.plan = plan → w.commits = none → exec (.genStepStart f h plan) s = .next (r.stepRoot f h).now) ∧
       (w.plan ≠ plan ∨ w.commits ≠ none → exec (.genStepStart f h plan) s = .next s) ∧
       (w.plan ≠ plan ∨ w.told = false ∨ w.failed = true ∨ c.ctx[h].rings.roomFor w.toPost = false →
         exec (.genStepCommit f h plan) s = .next s) ∧
       ∀ x img, r.planOf f h plan.toNat = some (x, img) → w.plan = plan → w.told = true → w.failed = false →
         c.ctx[h].rings.roomFor w.toPost = true →
         (w.commits ≠ none → exec (.genStepCommit f h plan) s = .next (r.commitEnd f h w img).now) ∧
         (w.commits = none → ∀ v, ((r.commitBegin f h w img).fur f).step? h = some v →
           exec (.genStepCommit f h plan) s = .next ((r.commitBegin f h w img).commitEnd f h v img).now))

/-- GEN_PAUSE, GEN_RESUME and GEN_DISCARD carry on the request they name, and leave everything as it is where it is not at such a
descriptor. Where nothing is below, the image lies in this furrow's HBM and no transfer of the request is under way: a pause, while the
furrow knows of no uncorrectable data, ends DONE with RESULT the image's offset, and the image is valid; a resume that has copied its
entries ends DONE with RESULT its bytes 16–23; and a discard ends DONE with RESULT the image's offset (R282, R283, R285).
PAUSE_SWEEP acts once in a second of calendar time, and only while the calendar clock is valid and the furrow serves (R284). -/
def Obligations.PauseRowsAndSweep : Prop :=
  (∀ (f : FurrowIx) (h : Handle) (tag : Tag) (q : Request) (s : State),
     let c := s.furrow f
     let r := Run.start s
     (c.atWork h tag 0x64 = some q → exec (.genPause f h tag) s = .next (r.genPause f q).now) ∧
     (c.atWork h tag 0x65 = some q → exec (.genResume f h tag) s = .next (Run.genResume f h tag 5 r).now) ∧
     (c.atWork h tag 0x66 = some q →
       exec (.genDiscard f h tag) s = .next ((((r.dropImage f h tag (c.imageSpot f q)).freePause f h (imageOff q.desc) (imageKind q.desc)
         (imageShift q.desc)).modFur f fun c =>
           { c with halfImages := c.halfImages.filter fun x => x ≠ (h, (s.furrow f).imageSpot f q) }).awaitEnd f h tag
             (Ending.ok 0 (if q.origin.isSome then 0 else imageOff q.desc))).now) ∧
     ((c.atWork h tag 0x64 = none → exec (.genPause f h tag) s = .next s) ∧
       (c.atWork h tag 0x65 = none → exec (.genResume f h tag) s = .next s) ∧
       (c.atWork h tag 0x66 = none → exec (.genDiscard f h tag) s = .next s)) ∧
     (q.origin = none → (c.below q.h).2 = [] → (c.imageSpot f q).tier = 2 → c.transfers h tag = false → c.counts.bad = [] →
       (c.atWork h tag 0x64 = some q → q.stage = 0 →
         ∃ t, exec (.genPause f h tag) s = .next t ∧ t.descriptorEnded f h tag (Ending.ok 0 (imageOff q.desc)) ∧
           (h, c.imageSpot f q) ∉ (t.furrow f).halfImages ∧ s.onlyFurrow f t) ∧
       (c.atWork h tag 0x65 = some q → q.stage = 4 →
         ∃ t, exec (.genResume f h tag) s = .next t ∧ t.descriptorEnded f h tag (Ending.ok 0 (df q.desc 16 8)) ∧ s.onlyFurrow f t) ∧
       (c.atWork h tag 0x66 = some q →
         ∃ t, exec (.genDiscard f h tag) s = .next t ∧ t.descriptorEnded f h tag (Ending.ok 0 (imageOff q.desc)) ∧ s.onlyFurrow f t))) ∧
  (∀ (f : FurrowIx) (s : State),
     ((s.furrow f).cal.valid = false ∨ (s.furrow f).serves = false ∨
       (s.furrow f).cal.stamp.toNat / 32768 = (s.furrow f).lastSweep.toNat / 32768 → exec (.pauseSweep f) s = .next s) ∧
     ((s.furrow f).cal.valid = true → (s.furrow f).serves = true →
       (s.furrow f).cal.stamp.toNat / 32768 ≠ (s.furrow f).lastSweep.toNat / 32768 →
       ∃ t, exec (.pauseSweep f) s = .next t ∧ (t.furrow f).lastSweep = (s.furrow f).cal.stamp ∧ exec (.pauseSweep f) t = .next t))

/-! ### Embedding tables (chapter 13) -/

/-- The table opcodes. A request that is not at such a descriptor stays as it is, and a table number above 15 is refused at its field (R304).
Off a span, while the furrow knows of no uncorrectable data: TBL_GATHER ends DONE or DONE_SHORT with COUNT the distinct rows, at most
65,535, and RESULT its bytes 24–31 (R298, R303); TBL_SCATTER_ADD from its first row, with no migration in progress, ends DONE or DONE_SHORT
with RESULT the version it holds (R300); TBL_SWITCH without WAIT ends DONE with RESULT the new version, the slot's current version has
become the old one, and the epoch stays (R296); TBL_MIGRATE begins when no other is in progress, or ends DONE_SHORT with the code of what
bars it (R302).
A table slot: an IDLE slot that passes every check of its enable becomes SERVING with what its route table holds, one that fails shows the
check's code; draining takes it to IDLE once nothing uses it; an old version that nothing refers to stops draining; a migration goes on at
its root only while the slot serves; and at each 10 ms every slot in use reports its reads (R295, R296, R301, R302). -/
def Obligations.TableRowsAndSlots : Prop :=
  (∀ (f : FurrowIx) (h : Handle) (tag : Tag) (q : Request) (s : State), q.origin = none →
     let c := s.furrow f
     let r := Run.start s
     (∀ (x : Instr) (op : Byte) (at_ : Nat), (x, op, at_) ∈ ([(.tblGather f h tag, 0x70, 36), (.tblScatterAdd f h tag, 0x71, 36),
         (.tblSwitch f h tag, 0x72, 28), (.tblMigrate f h tag, 0x73, 22)] : List (Instr × Byte × Nat)) →
       (c.atWork h tag op = none → exec x s = .next s) ∧
       (c.atWork h tag op = some q → 16 ≤ df q.desc at_ 1 →
         exec x s = .next (r.engineEnds f h tag (Refuse.operand at_).atStart.ending).now)) ∧
     ∀ i : TableIx, (c.below q.h).2 = [] → c.counts.bad = [] →
       let v := c.tbl[i].held h tag
       (c.atWork h tag 0x70 = some q → df q.desc 36 1 = i.val →
         ∃ t e, exec (.tblGather f h tag) s = .next t ∧ t.descriptorEnded f h tag e ∧ s.onlyFurrow f t ∧
           (e.status = Status.done ∨ e.status = Status.doneShort) ∧ e.result = BitVec.ofNat 64 (df q.desc 24 8) ∧
           e.count = BitVec.ofNat 16 (min (c.tbl[i].distinct (r.indices (q.eng f) q.desc)).length 65535)) ∧
       (c.atWork h tag 0x71 = some q → df q.desc 36 1 = i.val → q.stage = 0 → c.tbl[i].migration = none →
         ∃ t e, exec (.tblScatterAdd f h tag) s = .next t ∧ t.descriptorEnded f h tag e ∧ s.onlyFurrow f t ∧
           (e.status = Status.done ∨ e.status = Status.doneShort) ∧ e.result = BitVec.ofNat 64 v.1) ∧
       (c.atWork h tag 0x72 = some q → df q.desc 28 1 = i.val → q.stage = 0 → (df q.desc 29 1).testBit 0 = false →
         ∃ t, exec (.tblSwitch f h tag) s = .next t ∧ t.descriptorEnded f h tag (Ending.ok 0 (df q.desc 24 4)) ∧ s.onlyFurrow f t ∧
           (t.furrow f).tbl[i].curVersion = BitVec.ofNat 32 (df q.desc 24 4) ∧
           (t.furrow f).tbl[i].curBase = BitVec.ofNat 36 (df q.desc 16 8 / 4096) ∧
           (t.furrow f).tbl[i].oldVersion = c.tbl[i].curVersion ∧ (t.furrow f).tbl[i].oldBase = c.tbl[i].curBase ∧
           (t.furrow f).tbl[i].curRefs = 0 ∧ (t.furrow f).tbl[i].migration = none ∧
           (t.furrow f).tbl[i].routeEpoch = c.tbl[i].routeEpoch) ∧
       (c.atWork h tag 0x73 = some q → df q.desc 22 1 = i.val →
         (c.tbl[i].migration ≠ none → c.tbl[i].stale = false → exec (.tblMigrate f h tag) s = .next s) ∧
         (c.tbl[i].migration = none → c.tbl[i].stale = false →
           (∀ n, r.migrateBar f c.tbl[i] (df q.desc 16 4) (df q.desc 20 2) = .error n →
             ∃ t, exec (.tblMigrate f h tag) s = .next t ∧ t.descriptorEnded f h tag (migrateShort n) ∧ s.onlyFurrow f t ∧
               t.mems = s.mems) ∧
           ∀ x, r.migrateBar f c.tbl[i] (df q.desc 16 4) (df q.desc 20 2) = .ok x →
             exec (.tblMigrate f h tag) s = .next (r.migrateBegin f i (df q.desc 16 4) (df q.desc 20 2) (some (h, tag)) x).now))) ∧
  (∀ (f : FurrowIx) (i : TableIx) (s : State),
     let c := s.furrow f
     let x := c.tbl[i]
     let r := Run.start s
     let reached := s.reaches f 0x180000
     let sets := fun (g : TableSlot → TableSlot) => Host.Outcome.next (s.setFurrow f (c.modTbl i g))
     (x.state = .idle → reached = true → r.tableError f i = 0 →
       let y := r.readRoutes f x (c.memberTable? i)
       exec (.tblEnable f i) s = .next (y.1.modFur f fun c => c.modTbl i fun t =>
         { t with
           error := 0, enable := true, state := .serving, guests := y.2.1, routeEpoch := BitVec.ofNat 64 y.2.2, migrations := 0
           migration := none, window := [] }).now) ∧
     (x.state = .idle → reached = true → r.tableError f i ≠ 0 →
       ∃ t, exec (.tblEnable f i) s = .next t ∧ s.onlyFurrow f t ∧ t.mems = s.mems ∧
         (t.furrow f).tbl[i] = { x with error := r.tableError f i, enable := false }) ∧
     (x.state ≠ .idle ∨ reached = false → exec (.tblEnable f i) s = .next s) ∧
     (x.state = .idle ∨ x.state = .serving ∧ reached = false → exec (.tblDrain f i) s = .next s) ∧
     (x.state = .serving → reached = true → x.migration = none →
       (x.holds = [] ∧ c.tableUsers i = [] → exec (.tblDrain f i) s = sets fun t => { t with state := .idle, enable := false }) ∧
       (x.holds ≠ [] ∨ c.tableUsers i ≠ [] → exec (.tblDrain f i) s = sets fun t => { t with state := .draining, enable := false })) ∧
     (x.state = .draining →
       (x.holds = [] ∧ c.tableUsers i = [] → exec (.tblDrain f i) s = sets fun t => { t with state := .idle }) ∧
       (x.holds ≠ [] ∨ c.tableUsers i ≠ [] → exec (.tblDrain f i) s = .next s)) ∧
     (x.stale = false → x.oldDraining = true → x.oldRefs = 0 →
       exec (.tblVersionReclaim f i) s = sets fun t => { t with oldDraining := false }) ∧
     (x.stale = false → x.oldDraining = false ∨ x.oldRefs ≠ 0 → exec (.tblVersionReclaim f i) s = .next s) ∧
     (c.ctx[x.handle].role = .member → exec (.tblMigrationSwitch f i) s = .next (r.migrateServe f i).now) ∧
     (c.ctx[x.handle].role ≠ .member → x.state = .serving →
       exec (.tblMigrationSwitch f i) s = .next (Run.migrate f i true 8 r).now) ∧
     (c.ctx[x.handle].role ≠ .member → x.state ≠ .serving ∨ x.migration = none → exec (.tblMigrationSwitch f i) s = .next s) ∧
     (c.ns.toNat / 10000000 ≤ c.lastWindow.toNat / 10000000 → exec (.tblLoadWindow f) s = .next s) ∧
     (c.lastWindow.toNat / 10000000 < c.ns.toNat / 10000000 →
       ∃ t, exec (.tblLoadWindow f) s = .next t ∧ (t.furrow f).lastWindow = c.ns ∧ t.host = s.host ∧
         (x.state ≠ .idle → (t.furrow f).tbl[i].reads = BitVec.ofNat 32 x.report.2.1)))

/-! ### Memory tiers (chapter 14) -/

/-- MOVE and MOVE_LIST, with no transfer of the request under way and the furrow knowing of no uncorrectable data. A MOVE of this member
between its HBM and its HBM or host memory, while the host port works, puts the source's bytes at the destination, changes no other byte
where the context has nothing attached, and ends DONE with COUNT 1 and RESULT its bytes 32–39 (R312, R315). One of host memory waits while
the host port is lost (R13). A MOVE_LIST within this member's cluster SRAM and HBM ends DONE with COUNT its entries and RESULT its bytes
16–23 (R317).
The opcodes on attached objects, with no transfer of the request under way and the furrow knowing of no uncorrectable data.
TIER_ATTACH at a root with nothing below, of a record whose CHECK holds and whose fields pass, adds the object and ends DONE with RESULT its
ID (R321). TIER_FETCH, TIER_WRITEBACK and TIER_DETACH end DONE on a member they do not name, and are refused where the object is not
attached (R319). Where HOME and copy are memories of this member, TIER_FETCH ends with the segments it copied and, without FORCE, those it
skipped; TIER_WRITEBACK ends DONE with COUNT the segments it copied; and TIER_DETACH, with WRITEBACK or without, takes the object out and
ends DONE, each with RESULT the ID (R323–R325). -/
def Obligations.MoveAndTierRows : Prop :=
  (∀ (f : FurrowIx) (h : Handle) (tag : Tag) (q : Request) (s : State),
       let c := s.furrow f
       let own := c.flatNumber q
       c.counts.bad = [] → c.transfers h tag = false →
       (c.atWork h tag 0x10 = some q →
         let m := Move.of q.desc 16
         let at_ := fun (l : Loc) => if l.tier = 5 then c.hostAt h l.addr else c.hbmBase h + l.addr
         let sp := fun (l : Loc) => if l.tier = 5 then Space.host else Space.hbm f
         m.src.member = own → m.dst.member = own → m.src.tier = 2 ∨ m.src.tier = 5 → m.dst.tier = 2 ∨ m.dst.tier = 5 →
         (s.hdl.carries = true → s.canonical → (∀ a, a ∈ c.attached → a.h ≠ h) →
           ∃ t, exec (.move f h tag) s = .next t ∧ t.descriptorEnded f h tag (Ending.ok 1 (df q.desc 32 8)) ∧
             (∀ n, n < m.len → (t.mem (sp m.dst)).get (at_ m.dst + n) = (s.mem (sp m.src)).get (at_ m.src + n)) ∧
             ∀ (x : Space) (a : Nat), (x = sp m.dst → a < at_ m.dst ∨ at_ m.dst + m.len ≤ a) → (t.mem x).get a = (s.mem x).get a) ∧
         (s.hdl.carries = false → m.src.tier = 5 ∨ m.dst.tier = 5 → exec (.move f h tag) s = .next s)) ∧
       (c.atWork h tag 0x11 = some q →
         let ms := (Run.start s).movesOf f q
         ms ≠ [] → (∀ m, m ∈ ms → m.src.member = own ∧ m.dst.member = own ∧ (m.src.tier = 1 ∨ m.src.tier = 2) ∧ (m.dst.tier = 1 ∨ m.dst.tier = 2)) →
         ∃ t, exec (.moveList f h tag) s = .next t ∧ t.descriptorEnded f h tag (Ending.ok (df q.desc 24 2) (df q.desc 16 8)) ∧
           s.onlyFurrow f t)) ∧
  (∀ (f : FurrowIx) (h : Handle) (tag : Tag) (q : Request) (s : State),
       let c := s.furrow f
       let own := c.flatNumber q
       let id := df q.desc 16 2
       let r := Run.start s
       c.counts.bad = [] → c.transfers h tag = false →
       (c.atWork h tag 0x12 = some q → q.origin = none → q.stage = 0 → (c.below q.h).2 = [] → df q.desc 24 4 = own →
         let o := r.objAt f h (tref q.desc 16).off
         fieldAt o.bytes 60 4 = crc32c (o.bytes.take 60) → r.attachCheck f q o = none → c.homeOk q o.report = true →
         ∃ t, exec (.tierAttach f h tag) s = .next t ∧ t.descriptorEnded f h tag (Ending.ok 0 o.id) ∧ s.onlyFurrow f t ∧ t.mems = s.mems ∧
           (t.furrow f).attached = c.attached ++ [⟨h, BitVec.ofNat 32 o.id, BitVec.ofNat 64 (tref q.desc 16).off, []⟩]) ∧
       (∀ (i : Instr) (op : Byte), (i, op) ∈ ([(.tierFetch f h tag, 0x13), (.tierWriteback f h tag, 0x14), (.tierDetach f h tag, 0x15)] :
           List (Instr × Byte)) → c.atWork h tag op = some q →
         (tierMember q.desc ≠ own → exec i s = .next (r.engineEnds f h tag (Ending.ok 0 0)).now) ∧
         (tierMember q.desc = own → c.object? h id = none →
           exec i s = .next (r.engineEnds f h tag (Refuse.operand 16).atStart.ending).now)) ∧
       ∀ a, tierMember q.desc = own → c.object? h id = some a →
         let o := r.objAt f h a.record.toNat
         let out := fun (t : State) => (t.furrow f).object? h id = none
         (o.home.spot own (c.spanIds f q)).tier < 3 → (o.copy.spot own (c.spanIds f q)).tier < 3 →
         (c.atWork h tag 0x13 = some q → q.stage = 0 →
           let js := (List.range ((o.covered q.desc).2 - (o.covered q.desc).1)).map ((o.covered q.desc).1 + ·)
           let dirty := js.filter (r.isDirty f a)
           let clean := js.filter fun j => !dirty.contains j
           ∃ t, exec (.tierFetch f h tag) s = .next t ∧ s.onlyFurrow f t ∧ t.descriptorEnded f h tag
             (if (df q.desc 18 1).testBit 0 then Ending.ok (satCount js.length) id else fetchEnding clean.length dirty.length id)) ∧
         (c.atWork h tag 0x14 = some q → q.stage = 0 →
           ∃ t n, exec (.tierWriteback f h tag) s = .next t ∧ n ≤ 65535 ∧ t.descriptorEnded f h tag (Ending.ok n id) ∧ s.onlyFurrow f t) ∧
         (c.atWork h tag 0x15 = some q → q.stage = 0 →
           ∃ t, exec (.tierDetach f h tag) s = .next t ∧ t.descriptorEnded f h tag (Ending.ok 0 id) ∧ out t ∧ s.onlyFurrow f t))

/-! ### The Granary (chapter 15) -/

/-- GRN_DISCARD maps its blocks to nothing on the member it names, each a journal record, and ends once those are durable; elsewhere it ends
DONE (R342). GRN_FORMAT ends DONE with RESULT its LOGICAL_MIB, the Granary OFFLINE with an empty journal, no data slot, and one root record
with SEQ and CKPT_SEQ 1. GRN_RECLAIM ends DONE when no channel it chose wants more, or DONE_SHORT at its limit, and else goes on (R358).
Mounting: an OFFLINE Granary of a furrow that serves becomes MOUNTING; a mount that meets an error leaves it OFFLINE with the error's
code, and one that meets none takes requests with SEQ at the end of the gapless journal (R351, R352).
Waiting blocks of a request take slots as R345 has it; a request whose blocks find no room ends THROTTLED_GC once its budget has passed
(R318, R345). -/
def Obligations.GranaryCommandsAndMounting : Prop :=
  (∀ (f : FurrowIx) (h : Handle) (tag : Tag) (q : Request) (s : State),
     let c := s.furrow f
     (c.atWork h tag 0x80 = some q →
       (c.flatNumber q ≠ df q.desc 32 4 → exec (.grnDiscard f h tag) s = .next ((Run.start s).engineEnds f h tag (Ending.ok 0 0)).now) ∧
       (c.flatNumber q = df q.desc 32 4 →
         let n := df q.desc 24 8 / 4096
         let r := (Run.start s).each ((List.range n).map (c.grnBaseLbn h + df q.desc 16 8 / 4096 + ·)) fun r l => r.discard f h tag l
         r.now.host = s.host ∧ (r.now.furrow f).grn.seq = c.grn.seq + BitVec.ofNat 64 n ∧
           exec (.grnDiscard f h tag) s = .next (r.awaitEnd f h tag (Ending.ok (satCount n) (r.now.furrow f).grn.seq.toNat)).now)) ∧
     (c.atWork h tag 0x81 = some q →
       ∃ t, exec (.grnFormat f h tag) s = .next t ∧ t.descriptorEnded f h tag (Ending.ok 0 (df q.desc 16 4)) ∧ s.onlyFurrow f t ∧
         t.mems = s.mems ∧ (t.furrow f).grn.state = .offline ∧ (t.furrow f).grn.format = none ∧ (t.furrow f).grn.nand.journal = [] ∧
         (t.furrow f).grn.nand.ckpt = some (1, []) ∧ (∀ p, p ∈ (t.furrow f).grn.nand.slots → p.2.kind ≠ SlotKind.data) ∧
         (t.furrow f).grn.nand.roots.map (fun x => (x.seq, x.logicalMib, x.ckptSeq)) = [(1, BitVec.ofNat 32 (df q.desc 16 4), 1)]) ∧
     ∀ o ot ch target limit freed, c.atWork h tag 0x82 = some q → c.grn.reclaim = some (o, ot, ch, target, limit, freed) →
       (c.grn.wantsReclaim 0 = false → c.grn.wantsReclaim 1 = false →
         ∃ t, exec (.grnReclaim f h tag) s = .next t ∧ t.descriptorEnded f h tag (Ending.ok (satCount freed) 0) ∧ s.onlyFurrow f t ∧
           (t.furrow f).grn = { c.grn with reclaim := none } ∧ t.mems = s.mems) ∧
       (c.grn.wantsReclaim 0 = true ∨ c.grn.wantsReclaim 1 = true →
         (elapsed c.ns (q.waitNs.getD c.ns) < limit.toNat * 1000 → exec (.grnReclaim f h tag) s = .next s) ∧
         (limit.toNat * 1000 ≤ elapsed c.ns (q.waitNs.getD c.ns) →
           ∃ t e, exec (.grnReclaim f h tag) s = .next t ∧ t.descriptorEnded f h tag e ∧ e.status = Status.doneShort ∧
             e.count = BitVec.ofNat 16 (satCount freed) ∧ (t.furrow f).grn = { c.grn with reclaim := none }))) ∧
  (∀ (f : FurrowIx) (h : Handle) (tag : Tag) (readable : Bool) (s : State),
     let c := s.furrow f
     (c.grn.state = .offline → c.grn.barred = false → c.serves = true →
       exec (.grnMount f) s = .next (s.setFurrow f (c.modGrn fun g => { g with state := .mounting }))) ∧
     (c.grn.state ≠ .offline ∨ c.grn.barred = true ∨ c.serves = false → exec (.grnMount f) s = .next s) ∧
     (c.grn.state ≠ .mounting → exec (.grnMountDone f readable) s = .next s) ∧
     (c.grn.state = .mounting → c.mountError readable ≠ 0 →
       exec (.grnMountDone f readable) s = .next (s.setFurrow f (c.modGrn fun g =>
         { g with state := .offline, error := c.mountError readable }))) ∧
     (∀ root x table, c.grn.state = .mounting → c.grn.nand.root = some root → c.grn.nand.ckpt = some x → c.grn.nand.table = some table →
       c.mountError readable = 0 →
       ∃ t, exec (.grnMountDone f readable) s = .next t ∧ ((t.furrow f).grn.state = .ready ∨ (t.furrow f).grn.state = .readOnly) ∧
         (t.furrow f).grn.error = 0 ∧ (t.furrow f).grn.logicalMib = root.logicalMib ∧
         (t.furrow f).grn.seq = (match (gapless x.1 c.grn.nand.journal).getLast? with | some y => y.seq | none => x.1) ∧ t.host = s.host) ∧
     exec (.granaryReserveGrant f h tag) s = .next (s.setFurrow f (c.grantAll h tag)) ∧
     (c.asking h tag = [] → exec (.granaryReserveGrant f h tag) s = .next s) ∧
     ∀ q, c.request? h tag = some q → q.phase = .running → q.ttfrNs ≠ 0 → c.asking h tag ≠ [] →
       (c.hostRoom < (c.asking h tag).length → q.ttfrNs ≤ elapsed c.ns q.fetchNs →
         exec (.granaryReserveTimeout f h tag) s = .next ((Run.start s).engineEnds f h tag (.bare Status.throttledGc
           (sat32 q.asked + 2 ^ 32 * usOf (elapsed c.ns (q.waitNs.getD c.ns))))).now) ∧
       (elapsed c.ns q.fetchNs < q.ttfrNs ∨ (c.asking h tag).length ≤ c.hostRoom → exec (.granaryReserveTimeout f h tag) s = .next s))

/-- What reaches the flash: an open stripe whose oldest slot has waited 100 µs begins its program. The oldest program that completes well,
with no reclamation under way, puts its slots on the NAND and counts those it wrote; one that fails does not put them there (R337, R353).
The journal makes every record so far durable, in order, and a request that waited for those alone ends with its ending (R340–R342). A
slot read that decodes leaves the list of reads (R344).
Reclamation: it begins in the background on an idle channel below BG_FREE or with a victim scheduled, in the foreground below FG_FREE,
while a write waits for room or under GRN_RECLAIM, and not otherwise; the victim's erase begins once its move records are durable and no read of it is in flight, taking
all but root slots off the NAND; and with the erase the superblock, if it can hold a stripe still, is free (R345–R347, R358). -/
def Obligations.GranaryWritesAndReclaims : Prop :=
  (∀ (f : FurrowIx) (n : Fin 2) (s : State),
     let g := (s.furrow f).grn
     (∀ t, t ∈ g.stripes[n] → t.programming = false → t.filled ≠ [] → 100000 ≤ elapsed (s.furrow f).ns t.since →
       exec (.stripeCloseTimeout f n) s = .next (s.setFurrow f ((s.furrow f).modGrn fun g => g.closeStripe n))) ∧
     (g.stripes[n] = [] → exec (.stripeCloseTimeout f n) s = .next s ∧ exec (.nandProgramDone f n true) s = .next s) ∧
     (∀ t b, g.programmed n = some t → g.sb? n t.sb = some b → g.gc = [] → ∀ ok : Bool,
       ∃ u, exec (.nandProgramDone f n ok) s = .next u ∧ s.onlyFurrow f u ∧
         (u.furrow f).grn.flashSlots = g.flashSlots + BitVec.ofNat 64 (b.dies.length * g.slotsPer n) ∧
         (ok = true → (u.furrow f).grn.nand = g.nand.store t)) ∧
     (∀ last, g.records.getLast? = some last →
       ∃ t, exec (.journalDurable f) s = .next t ∧ (t.furrow f).grn.records = [] ∧ (t.furrow f).grn.durableSeq = last.seq ∧
         (t.furrow f).grn.nand.journal = g.nand.journal ++ g.records ∧ s.onlyFurrow f t ∧ t.mems = s.mems ∧
         ∀ (h : Handle) (tag : Tag) (q : Request) (e : Ending), (s.furrow f).request? h tag = some q → q.phase = .running →
           q.await = some e → q.owed = 0 → (g.reads.any fun x => x.h = h && x.tag = tag) = false →
           ((s.furrow f).pyr.txs.any fun x => x.h = h && x.req = tag) = false →
           (∀ w, w ∈ g.writes → w.h = h → w.tag = tag → ∃ k, w.stage = .recorded k ∧ k ≤ last.seq) → t.descriptorEnded f h tag e) ∧
     (g.reads = [] → ∀ x, exec (.nandReadDone f x) s = .next s) ∧
     ∀ x rest, g.reads = x :: rest → (s.furrow f).slotReads x.psa = true →
       ∃ t, exec (.nandReadDone f .first) s = .next t ∧ (t.furrow f).grn.reads = rest ∧ t.hdl = s.hdl ∧ t.fuses = s.fuses) ∧
  (∀ (f : FurrowIx) (n : Fin 2) (s : State),
     let c := s.furrow f
     let g := c.grn
     (g.usable = true → g.mounted[n] = true → c.channelUp n.val = true →
       (g.freeSbs n < g.bgFree.toNat ∨ g.hasUrgent n = true → g.idleUs.toNat * 1000 ≤ elapsed c.ns g.lastIssue[n] →
         exec (.gcBackgroundStart f n) s =
           .next (((Run.start s).modFur f fun c => c.modGrn fun g => { g with bg := g.bg.set n true }).gcBegin f n).now) ∧
       (g.freeSbs n < g.fgFree.toNat ∨ c.starved = true ∨ g.wantsReclaim n = true →
         exec (.gcForegroundStart f n) s =
           .next (((Run.start s).modFur f fun c => c.modGrn fun g => { g with fg := g.fg.set n true }).gcBegin f n).now)) ∧
     (elapsed c.ns g.lastIssue[n] < g.idleUs.toNat * 1000 ∨ g.bgFree.toNat ≤ g.freeSbs n ∧ g.hasUrgent n = false ∨ g.usable = false →
       exec (.gcBackgroundStart f n) s = .next s) ∧
     (g.fgFree.toNat ≤ g.freeSbs n ∧ c.starved = false ∧ g.wantsReclaim n = false ∨ g.usable = false → exec (.gcForegroundStart f n) s = .next s) ∧
     (∀ j e, g.gc.find? (fun (j : GcJob) => j.ch = n) = some j → j.stage = .committed e →
       (e ≤ g.durableSeq → (g.reads.any fun x => psaCh x.psa = n.val && psaBlock x.psa = j.sb) = false →
         ∃ t, exec (.gcErase f n) s = .next t ∧ s.onlyFurrow f t ∧ t.mems = s.mems ∧
           (∀ p, p ∈ (t.furrow f).grn.nand.slots ↔
             p ∈ g.nand.slots ∧ ¬(psaCh p.1 = n.val ∧ psaBlock p.1 = j.sb ∧ p.2.kind ≠ SlotKind.root)) ∧
           ∀ k, k ∈ (t.furrow f).grn.gc → k.ch = n → k.stage = .erasing) ∧
       (g.durableSeq < e → exec (.gcErase f n) s = .next s)) ∧
     (g.gc = [] → exec (.gcErase f n) s = .next s) ∧
     ∀ j, g.gc.find? (fun (j : GcJob) => j.ch = n && j.stage = GcStage.erasing) = some j →
       ∃ t, exec (.nandEraseDone f n none) s = .next t ∧ t.host = s.host ∧
         ((t.furrow f).grn.fg[n] = false → (t.furrow f).grn.bg[n] = false → (∀ k, k ∈ (t.furrow f).grn.gc → k.ch ≠ n) ∧
           ∀ b, b ∈ (t.furrow f).grn.sbs → b.ch = n → b.num = j.sb → b.state = .free))

/-- Upkeep of the Granary: a checkpoint is due after 16,777,216 records and commits with a new root record once its own are durable; short
calibration each 100 ms; a closed superblock is read once in seven days; a block that fails is retired once; a lost die and a channel
that draws too much are recorded once (R350, R332, R348, R353–R355). -/
def Obligations.GranaryUpkeep : Prop :=
  ∀ (f : FurrowIx) (n : Fin 2) (s : State),
    let c := s.furrow f
    let g := c.grn
    (g.usable = true → g.ckptSeq = none → 16777216 ≤ g.sinceCkpt →
      exec (.checkpointStart f) s = .next (s.setFurrow f (c.modGrn fun g => { g with ckptSeq := some g.seq }))) ∧
    (g.sinceCkpt < 16777216 ∨ g.ckptSeq ≠ none ∨ g.usable = false → exec (.checkpointStart f) s = .next s) ∧
    (g.ckptSeq = none → exec (.checkpointDone f) s = .next s) ∧
    (∀ e, g.ckptSeq = some e →
      (e ≤ g.durableSeq →
        ∃ t m x, exec (.checkpointDone f) s = .next t ∧ s.onlyFurrow f t ∧ t.mems = s.mems ∧ (t.furrow f).grn.ckptSeq = none ∧
          (t.furrow f).grn.nand.ckpt = some (e, m) ∧ (∀ y, y ∈ (t.furrow f).grn.nand.journal ↔ y ∈ g.nand.journal ∧ e < y.seq) ∧
          (t.furrow f).grn.nand.roots = g.nand.roots ++ [x] ∧ x.seq = g.nand.nextRoot ∧ x.logicalMib = g.logicalMib ∧ x.ckptSeq = e) ∧
      (g.durableSeq < e → exec (.checkpointDone f) s = .next s)) ∧
    (g.usable = true → 100000000 ≤ elapsed c.ns g.zqLast →
      exec (.zqCalibrate f) s = .next (s.setFurrow f (c.modGrn fun g => { g with zqLast := c.ns, zqCount := g.zqCount + 1 }))) ∧
    (elapsed c.ns g.zqLast < 100000000 ∨ g.usable = false → exec (.zqCalibrate f) s = .next s) ∧
    (∀ (sb : W16) (b : Superblock), g.sb? n sb.toNat = some b →
      (b.state = .closed → 604800000000000 ≤ elapsed c.ns b.patrol →
        exec (.granaryPatrol f n sb none) s = .next (s.setFurrow f (c.modGrn fun g =>
          g.modSb n sb.toNat fun b => { b with patrol := c.ns }))) ∧
      (b.state ≠ .closed ∨ elapsed c.ns b.patrol < 604800000000000 → ∀ x, exec (.granaryPatrol f n sb x) s = .next s)) ∧
    (∀ b : NandBlock, (g.mounted[b.ch] = false → exec (.blockRetire f b) s = .next s) ∧
      (g.mounted[b.ch] = true → b.die.val < g.nand.parts[b.ch].dies.toNat → b.block.toNat < g.nand.parts[b.ch].blocks.toNat →
        exec (.blockRetire f b) s = .next (((Run.start s).modFur f fun c => c.retireBlock b.ch b.die.val b.block.toNat).weighHealth f).now ∧
        (g.retired b.ch.val b.die.val b.block.toNat = true → c.retireBlock b.ch b.die.val b.block.toNat = c))) ∧
    (∀ die : Byte, g.mounted[n] = true → die.toNat < g.nand.parts[n].dies.toNat →
      (g.lostDies.contains (n.val, die.toNat) = true → exec (.dieLost f n die) s = .next s) ∧
      (g.lostDies.contains (n.val, die.toNat) = false →
        ∃ t, exec (.dieLost f n die) s = .next t ∧ (t.furrow f).grn.lostDies = g.lostDies ++ [(n.val, die.toNat)] ∧
          t.host = s.host ∧ t.mems = s.mems ∧ exec (.dieLost f n die) t = .next t)) ∧
    (c.pwr.nandOc.getLsbD n.val = true → exec (.nandOvercurrent f n) s = .next s) ∧
    (c.pwr.nandOc.getLsbD n.val = false →
      ∃ t, exec (.nandOvercurrent f n) s = .next t ∧ (t.furrow f).pwr.nandOc.getLsbD n.val = true ∧ (t.furrow f).grn.stripes[n] = [] ∧
        t.host = s.host ∧ t.mems = s.mems ∧ exec (.nandOvercurrent f n) t = .next t)

/-! ### The Poryar fabric and spans (chapter 16) -/

/-- ALL_REDUCE and ALL_GATHER, their operands free of uncorrectable data: one that stands alone, with nothing below it, ends DONE at once
with COUNT 1 and RESULT its bytes 16–23 or 24–31, and no unit of the furrow changes; one that waits for what is below it stays as it is
(R379, R380). SPAN_SET_MEMBER sends the new furrow a SPAN_JOIN with the replaced entry's numbers, and waits for its answer; a member number
that is not there is refused (R378). -/
def Obligations.CollectivesEndOrWait : Prop :=
  ∀ (f : FurrowIx) (h : Handle) (tag : Tag) (q : Request) (s : State),
    ((s.furrow f).atWork h tag 0x90 = some q → q.stage = 0 → (s.furrow f).firstBad (q.eng f) [reduceBuf q.desc] = none →
      ((s.furrow f).piecesBelow q = none → exec (.allReduce f h tag) s = .next s) ∧
      (q.origin = none → ((s.furrow f).below q.h).2 = [] →
        ∃ t, exec (.allReduce f h tag) s = .next t ∧ t.descriptorEnded f h tag (Ending.ok 1 (df q.desc 16 8)) ∧ s.onlyFurrow f t ∧
          (s.furrow f).unitsKept (t.furrow f))) ∧
    ((s.furrow f).atWork h tag 0x91 = some q → q.stage = 0 →
      (s.furrow f).firstBad (q.eng f) [((tref q.desc 16).tier, (tref q.desc 16).off, df q.desc 32 4)] = none →
      ((s.furrow f).piecesBelow q = none → exec (.allGather f h tag) s = .next s) ∧
      (q.origin = none → ((s.furrow f).below q.h).2 = [] →
        ∃ t, exec (.allGather f h tag) s = .next t ∧ t.descriptorEnded f h tag (Ending.ok 1 (df q.desc 24 8)) ∧ s.onlyFurrow f t ∧
          (s.furrow f).unitsKept (t.furrow f))) ∧
    ((s.furrow f).atWork h tag 0x92 = some q →
      ((s.furrow f).newEntry h q.desc = none →
        exec (.spanSetMember f h tag) s = .next ((Run.start s).engineEnds f h tag (Refuse.operand 16).atStart.ending).now) ∧
      ∀ x, (s.furrow f).newEntry h q.desc = some x →
        (q.stage = 0 → exec (.spanSetMember f h tag) s =
          .next (s.setFurrow f ((s.furrow f).join f q (s.furrow f).ctx[h].spanId [x] 0 1))) ∧
        (q.stage ≠ 0 → exec (.spanSetMember f h tag) s = .next s))

/-- Enabling, by a write that reaches the furrow: PYR_CTRL.ENABLE 1 lets every enabled port that is OFF or DOWN and has met no identifier
clash train if it may, else leaves it DOWN; a 0 is ignored while a context is bound to a span and otherwise leaves no port UP or DEGRADED; a
port's own ENABLE does the same for one port, and a 0 turns it OFF. Training ends UP or DEGRADED with the peer's identifier, which at a
neighbour link is that of the furrow that R360 connects; DOWN where that is this furrow's own identifier; and with no good half it is counted
as failed (R360, R369, R385).
Leaving: a live optical port without light goes DARK, or OFF where a laser that is low retires it; a live port with no good half or no
good flit for 10 µs goes DARK, or OFF where that retires it; with one good half an UP port goes on DEGRADED with 4 lanes, or OFF; a DARK
port with AUTO_UP trains again when it may; a neighbour link has no light; and a VC whose packet has had no credit for STALL_MS marks its
port STALLED with an error record (R361, R368, R369, R434). A port that trains or leaves changes no host memory, no memory of a furrow and
no other furrow. -/
def Obligations.PortsTrainAndLeave : Prop :=
  (∀ (f : FurrowIx) (p : PortIx) (s : State),
     let kept := fun (t : State) => t.host = s.host ∧ t.mems = s.mems ∧ ∀ g : FurrowIx, g ≠ f → t.furrow g = s.furrow g
     let peerId := fun (peer : FabricId) (pp : PortIx) => (s.peerAt f p peer pp).1
     let can := fun (p : PortIx) => (s.furrow f).health.ports.getLsbD p.val && (s.furrow f).serves &&
       (!isNeighbour p || (s.furrow (neighbourOf f p)).serves)
     (s.reaches f 0x300000 = true →
       (∃ t, exec (.pyrEnable f true) s = .next t ∧ s.onlyFurrow f t ∧ (t.furrow f).pyr.enabled = true ∧
         ∀ p : PortIx, (s.furrow f).pyr.ports[p].enable = true → (s.furrow f).pyr.ports[p].idClash = false →
           (s.furrow f).pyr.ports[p].state = .off ∨ (s.furrow f).pyr.ports[p].state = .down →
           (t.furrow f).pyr.ports[p].state = if can p then .training else .down) ∧
       ((s.furrow f).spanCount ≠ 0 → exec (.pyrEnable f false) s = .next s) ∧
       ((s.furrow f).spanCount = 0 → ∃ t, exec (.pyrEnable f false) s = .next t ∧ (t.furrow f).pyr.enabled = false ∧
         (∀ p : PortIx, (t.furrow f).pyr.ports[p].live = false) ∧ kept t)) ∧
     (s.reaches f 0x300100 = true →
       exec (.portEnable f p true) s = .next (s.setFurrow f ((s.furrow f).modPort p fun t =>
         { t with
           enable := true, idClash := false,
           state := if t.state = .off ∨ t.state = .down then (if (s.furrow f).pyr.enabled && can p then .training else .down) else t.state })) ∧
       ((s.furrow f).pyr.ports[p].live = false → exec (.portEnable f p false) s = .next (s.setFurrow f ((s.furrow f).modPort p fun t =>
         { t with enable := false, idClash := false, state := .off, lanes := 0 }))) ∧
       ((s.furrow f).pyr.ports[p].live = true → ∃ t, exec (.portEnable f p false) s = .next t ∧ (t.furrow f).pyr.ports[p].state = .off ∧
         (t.furrow f).pyr.ports[p].enable = false ∧ kept t)) ∧
     ∀ (peer : FabricId) (pp : PortIx) (low high : Bool),
       ((s.furrow f).pyr.ports[p].state ≠ .training → exec (.portTrained f p peer pp low high) s = .next s) ∧
       ((s.furrow f).pyr.ports[p].state = .training →
         exec (.portTrained f p peer pp false false) s = .next ((Run.start s).countPort f p true).now ∧
         (low = true ∨ high = true →
           (peerId peer pp = (s.furrow f).fabricId f →
             exec (.portTrained f p peer pp low high) s = .next (s.setFurrow f ((s.furrow f).modPort p fun t =>
               { t with state := .down, idClash := true }))) ∧
           (peerId peer pp ≠ (s.furrow f).fabricId f → ∃ t, exec (.portTrained f p peer pp low high) s = .next t ∧ s.onlyFurrow f t ∧ t.mems = s.mems ∧
             (t.furrow f).pyr.ports[p].state = (if low && high then .up else .degraded) ∧ (t.furrow f).pyr.ports[p].peerId = peerId peer pp ∧
             (t.furrow f).pyr.ports[p].rxSeq = 0 ∧ ((s.furrow f).pyr.ports[p].queue = [] → (t.furrow f).pyr.ports[p].txSeq = 0))))) ∧
  (∀ (f : FurrowIx) (p : PortIx) (s : State),
     let kept := fun (t : State) => t.host = s.host ∧ t.mems = s.mems ∧ ∀ g : FurrowIx, g ≠ f → t.furrow g = s.furrow g
     let gone := fun (t : State) => ((t.furrow f).pyr.ports[p].state = .dark ∨ (t.furrow f).pyr.ports[p].state = .off) ∧ kept t
     (∀ laser, (isNeighbour p = true → exec (.portLossOfLight f p laser) s = .next s) ∧
       (isNeighbour p = false → (s.furrow f).pyr.ports[p].live = false →
         exec (.portLossOfLight f p laser) s = .next (s.setFurrow f ((s.furrow f).modPort p fun t =>
           { t with laserLow := t.laserLow || laser, lightSince := none }))) ∧
       (isNeighbour p = false → (s.furrow f).pyr.ports[p].live = true →
         ∃ t, exec (.portLossOfLight f p laser) s = .next t ∧ gone t ∧ (laser = false → (t.furrow f).pyr.ports[p].state = .dark) ∧
           (t.furrow f).pyr.ports[p].losSeen = true)) ∧
     ((s.furrow f).pyr.ports[p].live = true →
       exec (.portDegrade f p true true) s = .next s ∧
       (∃ t, exec (.portDegrade f p false false) s = .next t ∧ gone t) ∧
       (∀ low high, (low != high) = true →
         ((s.furrow f).pyr.ports[p].state = .degraded → exec (.portDegrade f p low high) s = .next s) ∧
         ((s.furrow f).pyr.ports[p].state = .up → ∃ t, exec (.portDegrade f p low high) s = .next t ∧ kept t ∧
           (((t.furrow f).pyr.ports[p].state = .degraded ∧ (t.furrow f).pyr.ports[p].lanes = 4) ∨ (t.furrow f).pyr.ports[p].state = .off))) ∧
       (elapsed (s.furrow f).ns (s.furrow f).pyr.ports[p].lastFlit < 10000 → exec (.portFlitTimeout f p) s = .next s) ∧
       (10000 ≤ elapsed (s.furrow f).ns (s.furrow f).pyr.ports[p].lastFlit → ∃ t, exec (.portFlitTimeout f p) s = .next t ∧ gone t)) ∧
     ((s.furrow f).pyr.ports[p].live = false → exec (.portFlitTimeout f p) s = .next s ∧ ∀ a b, exec (.portDegrade f p a b) s = .next s) ∧
     ((s.furrow f).pyr.ports[p].state = .dark → (s.furrow f).pyr.ports[p].autoUp = true →
       (s.mayTrain f p = true → exec (.portRetrain f p) s = .next (s.setFurrow f ((s.furrow f).modPort p fun t => { t with state := .training }))) ∧
       (s.mayTrain f p = false → exec (.portRetrain f p) s = .next s)) ∧
     ((s.furrow f).pyr.ports[p].state ≠ .dark ∨ (s.furrow f).pyr.ports[p].autoUp = false → exec (.portRetrain f p) s = .next s) ∧
     ∀ vc : Fin 4, ((s.furrow f).pyr.ports[p].waitSince[vc] = none → exec (.portStall f p vc) s = .next s) ∧
       ∀ since, (s.furrow f).pyr.ports[p].waitSince[vc] = some since → (s.furrow f).pyr.ports[p].stalled = false →
         (elapsed (s.furrow f).ns since < (s.furrow f).pyr.stallMs.toNat * 1000000 → exec (.portStall f p vc) s = .next s) ∧
         ((s.furrow f).pyr.stallMs.toNat * 1000000 ≤ elapsed (s.furrow f).ns since → ∃ t, exec (.portStall f p vc) s = .next t ∧
           (t.furrow f).pyr.ports[p].stalled = true ∧ (t.furrow f).err.seq = (s.furrow f).err.seq + 1 ∧ s.onlyFurrow f t ∧ t.mems = s.mems))

/-- The link layer: flits that come by a port that is not live do nothing; a data flit whose CHECK fails is refused with a NAK and counted,
another flit whose CHECK fails does nothing; a data flit that passes is taken when its SEQ is the one expected, which then advances by one,
and otherwise is refused with a NAK and delivers nothing; a flit of another kind that passes delivers nothing and leaves the expected SEQ;
and a NAK replays what the peer has not acknowledged and counts it, and the port sends what it now can (R363). -/
def Obligations.FlitsAreTakenInOrder : Prop :=
  ∀ (f : FurrowIx) (p : PortIx) (flit : List Byte) (ack : W16) (s : State),
    let bs := bytesAt flit 0 256
    let kind := bitsOf (bs.getD 4 0).toNat 3 2
    ((s.furrow f).pyr.ports[p].live = false → exec (.flitReceive f p flit) s = .next s ∧ exec (.flitNak f p ack) s = .next s) ∧
    ((s.furrow f).pyr.ports[p].live = true →
      (fieldAt bs 252 4 ≠ crc32c (bs.take 252) →
        (kind = 0 → exec (.flitReceive f p flit) s = .next (s.setFurrow f ((s.furrow f).modPort p fun t =>
          { t.refuse with crcFail := sat t.crcFail 1 }))) ∧
        (kind ≠ 0 → exec (.flitReceive f p flit) s = .next s)) ∧
      (fieldAt bs 252 4 = crc32c (bs.take 252) → kind = 0 →
        (BitVec.ofNat 16 (fieldAt bs 0 2) = (s.furrow f).pyr.ports[p].rxSeq → ∃ t, exec (.flitReceive f p flit) s = .next t ∧ s.onlyFurrow f t ∧
          t.mems = s.mems ∧ (t.furrow f).pyr.ports[p].rxSeq = (s.furrow f).pyr.ports[p].rxSeq + 1) ∧
        (BitVec.ofNat 16 (fieldAt bs 0 2) ≠ (s.furrow f).pyr.ports[p].rxSeq → ∃ t, exec (.flitReceive f p flit) s = .next t ∧ s.onlyFurrow f t ∧
          t.mems = s.mems ∧ (t.furrow f).pyr.ports[p].rxSeq = (s.furrow f).pyr.ports[p].rxSeq ∧ (t.furrow f).pyr.ports[p].nakked = true ∧
          (t.furrow f).pyr.inbox = (s.furrow f).pyr.inbox)) ∧
      (fieldAt bs 252 4 = crc32c (bs.take 252) → kind ≠ 0 → ∃ t, exec (.flitReceive f p flit) s = .next t ∧ s.onlyFurrow f t ∧
        t.mems = s.mems ∧ (t.furrow f).pyr.ports[p].rxSeq = (s.furrow f).pyr.ports[p].rxSeq ∧
        (t.furrow f).pyr.inbox = (s.furrow f).pyr.inbox) ∧
      exec (.flitNak f p ack) s = .next (s.setFurrow f ((s.furrow f).modPort p fun t => Port.pump (t.replay ack) (s.furrow f).ns)))

/-- A packet that the furrow does not take (its fabric block is not ENABLED, it is not in service, or the packet is of another kind or for
another furrow) changes nothing. A packet that it takes leaves the queue of those delivered.
READ_REQ of a size or place that R372 does not allow is denied; another answers with the bytes in packets of at most 1,024, or, where they
meet uncorrectable data, with one error record and no memory changed. A READ_RESP that answers no open read does nothing more; one with data
is kept until all has come, which then goes where the transfer wants it. A WRITE_ACK closes the write that it answers, and one that answers
none closes a write that was given up (R315, R365, R372, R385).
WRITE into the region of the context bound to its span, which has no segment attached: the payload is readable at its place in the
context's HBM region from then on, no byte of any other memory changes, and, with no request of the context outstanding, the fabric is as
when the acknowledgement alone is routed to the sender; a write outside that region is denied (R315, R372). COLL keeps a contribution with
the request it belongs to, or in the mailbox that its tag names, and is denied where no context is bound to its span (R381). -/
def Obligations.FabricReadsAndWrites : Prop :=
  (∀ (f : FurrowIx) (p : Packet) (s : State),
     (∀ (c : Instr) (k : Byte), (c, k) ∈ ([(.readReq f p, Kind.readReq), (.readResp f p, Kind.readResp), (.write f p, Kind.write),
         (.writeAck f p, Kind.writeAck), (.coll f p, Kind.coll), (.spanDesc f p, Kind.spanDesc), (.spanAck f p, Kind.spanAck),
         (.spanDone f p, Kind.spanDone), (.spanCancel f p, Kind.spanCancel), (.spanBeat f p, Kind.spanBeat), (.linkFence f p, Kind.linkFence),
         (.noRoute f p, Kind.noRoute), (.spanJoin f p, Kind.spanJoin), (.spanEnd f p, Kind.spanJoin), (.spanJoinReply f p, Kind.spanJoin)] :
         List (Instr × Byte)) → (s.furrow f).takes f k p = false → exec c s = .next s) ∧
     let u := s.took f p
     ((s.furrow f).takes f Kind.readReq p = true →
       (p.aux.toNat < 64 ∨ 4096 < p.aux.toNat ∨ p.aux.toNat % 64 ≠ 0 ∨ (u.furrow f).reaches p p.aux.toNat = none →
         exec (.readReq f p) s = .next (u.setFurrow f ((u.furrow f).denies f p))) ∧
       ∀ h, 64 ≤ p.aux.toNat → p.aux.toNat ≤ 4096 → p.aux.toNat % 64 = 0 → (u.furrow f).reaches p p.aux.toNat = some h →
         (u.furrow f).meets f h 0 2 p.addr.toNat p.aux.toNat = none →
         exec (.readReq f p) s = .next (u.setFurrow f ((inPieces 1024 ((Run.took s f p).load f h 0 2 p.addr.toNat p.aux.toNat)).foldl
           (fun c x => c.route f { c.readResp f p with addr := p.addr + BitVec.ofNat 64 x.1, payload := x.2 }) (u.furrow f)))) ∧
     ((s.furrow f).takes f Kind.readReq p = true →
       ∀ h, 64 ≤ p.aux.toNat → p.aux.toNat ≤ 4096 → p.aux.toNat % 64 = 0 → (u.furrow f).reaches p p.aux.toNat = some h →
         (u.furrow f).meets f h 0 2 p.addr.toNat p.aux.toNat ≠ none →
         ∃ t, exec (.readReq f p) s = .next t ∧ s.onlyFurrow f t ∧ t.mems = s.mems ∧ (t.furrow f).err.seq = (s.furrow f).err.seq + 1) ∧
     ((s.furrow f).takes f Kind.readResp p = true →
       ((u.furrow f).answered Kind.readReq p = none → exec (.readResp f p) s = .next u) ∧
       ∀ x, (u.furrow f).answered Kind.readReq p = some x → p.payload ≠ [] →
         let got := x.got ++ (bytesToCells p.payload).map fun b => (p.addr.toNat - x.raddr + b.1, b.2)
         (p.payload.length < x.left → exec (.readResp f p) s = .next (u.setFurrow f ((u.furrow f).modPyr fun y =>
           { y with txs := y.txs.map fun z => if z.tag = x.tag then { z with got := got, left := x.left - p.payload.length } else z }))) ∧
         (x.left ≤ p.payload.length → exec (.readResp f p) s = .next ((((Run.took s f p).modFur f fun c => c.closeTx x.tag).arrive f x.h x.req
           x.dst x.len got).modFur f fun c => c.advance x.h x.req).now)) ∧
     ((s.furrow f).takes f Kind.writeAck p = true →
       ((u.furrow f).answered Kind.write p = none → exec (.writeAck f p) s = .next (u.setFurrow f ((u.furrow f).closeTx p.tag))) ∧
       ∀ x, (u.furrow f).answered Kind.write p = some x →
         exec (.writeAck f p) s = .next (u.setFurrow f (((u.furrow f).closeTx x.tag).advance x.h x.req)))) ∧
  (∀ (f : FurrowIx) (p : Packet) (s : State),
     let u := s.took f p
     ((s.furrow f).takes f Kind.write p = true →
       ((u.furrow f).reaches p p.payload.length = none → exec (.write f p) s = .next (u.setFurrow f ((u.furrow f).denies f p))) ∧
       ∀ h, (u.furrow f).reaches p p.payload.length = some h → s.canonical → ((u.furrow f).attached.filter fun a => a.h = h) = [] →
         let a := (u.furrow f).hbmBase h + p.addr.toNat
         ∃ t, exec (.write f p) s = .next t ∧ s.onlyFurrow f t ∧ (t.mem (.hbm f)).read a p.payload.length = p.payload ∧
           (∀ b, b < a ∨ a + p.payload.length ≤ b → (t.mem (.hbm f)).get b = (s.mem (.hbm f)).get b) ∧
           (∀ sp : Space, sp ≠ .hbm f → t.mem sp = s.mem sp) ∧
           ((u.furrow f).outstanding h = [] →
             (t.furrow f).pyr = ((u.furrow f).route f ((u.furrow f).packet f Kind.writeAck p.src p.span p.tag)).pyr)) ∧
     ((s.furrow f).takes f Kind.coll p = true →
       ((u.furrow f).boundTo p.span = none → exec (.coll f p) s = .next (u.setFurrow f ((u.furrow f).denies f p))) ∧
       ∀ h, (u.furrow f).boundTo p.span = some h →
         (p.tag = boxTag → exec (.coll f p) s = .next (u.setFurrow f ((u.furrow f).intoBox (((u.furrow f).parentOf p.span).getD h) p
           (decide (4112 ≤ p.addr.toNat % 2 ^ 13 ∧ p.addr.toNat % 2 ^ 13 < 4128))))) ∧
         (p.tag ≠ boxTag → (u.furrow f).partOf p.span p.tag = none → exec (.coll f p) s = .next u) ∧
         ∀ q, p.tag ≠ boxTag → (u.furrow f).partOf p.span p.tag = some q →
           exec (.coll f p) s = .next (u.setFurrow f ((u.furrow f).modReq q.h q.tag fun q => { q with contrib := q.contrib ++ [p] }))))

/-- A request on a span, its packets taken from the queue of those delivered: SPAN_DESC to a member keeps the first piece of a descriptor
as a part; a descriptor that fits in one packet is checked and acknowledged; GO to a part that has acknowledged sets it going, where the
furrow carries it out; one for no member context is denied. SPAN_ACK is noted with its sender's answer, and the last one lets the request go
on or refuses it; an answer for a part that is over is met with SPAN_CANCEL, unless it was a refusal. SPAN_DONE without a failure adds the
member's engine time and takes it from those awaited. SPAN_CANCEL cancels the part, or is answered at once when there is none (R174,
R376). -/
def Obligations.SpanRequestsAreAcknowledged : Prop :=
  ∀ (f : FurrowIx) (p : Packet) (s : State),
    let u := s.took f p
    ((s.furrow f).takes f Kind.spanDesc p = true →
      ((u.furrow f).memberFor p = none → exec (.spanDesc f p) s = .next (u.setFurrow f ((u.furrow f).denies f p))) ∧
      ∀ h, (u.furrow f).memberFor p = some h →
        (p.aux.getLsbD 0 = false → (u.furrow f).request? h p.tag = none → carriedOf [p] = none →
          exec (.spanDesc f p) s = .next (u.setFurrow f { (u.furrow f) with
            reqs := (u.furrow f).reqs ++ [{ (u.furrow f).newPart h p with contrib := [p] }], order := (u.furrow f).order + 1 })) ∧
        (∀ bs, p.aux.getLsbD 0 = false → p.tag ≠ boxTag → (u.furrow f).request? h p.tag = none → carriedOf [p] = some bs →
          exec (.spanDesc f p) s = .next (((Run.took s f p).modFur f fun c =>
            { c with reqs := c.reqs ++ [{ c.newPart h p with contrib := [p] }], order := c.order + 1 }).checkPart f
              { (u.furrow f).newPart h p with phase := .queued, carried := bs, contrib := [] }).now) ∧
        ∀ q, p.aux.getLsbD 0 = true → (u.furrow f).request? h p.tag = some q → q.phase = .queued → q.gone = false → q.acks = [] →
          ((u.furrow f).hasPart q = true → exec (.spanDesc f p) s = .next (u.setFurrow f ((u.furrow f).sendGo f q))) ∧
          ((u.furrow f).hasPart q = false → exec (.spanDesc f p) s = .next (((Run.took s f p).modFur f fun c => c.sendGo f q).beginRelay f q).now)) ∧
    ((s.furrow f).takes f Kind.spanAck p = true →
      ((u.furrow f).partOf p.span p.tag = none → exec (.spanAck f p) s = .next (if (ackEnding p).status = Status.refused then u
        else u.setFurrow f ((u.furrow f).route f ((u.furrow f).packet f Kind.spanCancel p.src p.span p.tag)))) ∧
      ∀ q, (u.furrow f).partOf p.span p.tag = some q →
        (q.acks.contains p.src = false → exec (.spanAck f p) s = .next u) ∧
        let heard := fun (q : Request) =>
          { q with
            acks := q.acks.erase p.src, memberEnds := q.memberEnds ++ [(p.src, ackEnding p)],
            dones := if (ackEnding p).status = Status.refused then q.dones.erase p.src else q.dones }
        let r := (Run.took s f p).modFur f fun c => c.modReq q.h q.tag heard
        (q.acks.contains p.src = true → q.acks.erase p.src ≠ [] → exec (.spanAck f p) s = .next r.now) ∧
        (q.acks.contains p.src = true → q.acks.erase p.src = [] → q.phase = .running ∨ q.phase = .queued →
          exec (.spanAck f p) s = .next (r.allAcked f (heard q)).now)) ∧
    ((s.furrow f).takes f Kind.spanDone p = true →
      ((u.furrow f).partOf p.span p.tag = none → exec (.spanDone f p) s = .next u) ∧
      ∀ q, (u.furrow f).partOf p.span p.tag = some q →
        (q.dones.contains p.src = false → exec (.spanDone f p) s = .next u) ∧
        (q.dones.contains p.src = true → q.acks = [] → failed ((u.furrow f).seenEnding p.src (p.aux.getLsbD 15) (doneEnding p)) = false →
          ∃ t, exec (.spanDone f p) s = .next t ∧ s.onlyFurrow f t ∧ t.mems = s.mems ∧ (t.furrow f).pyr = (u.furrow f).pyr ∧
            ∃ q', (t.furrow f).request? q.h q.tag = some q' ∧ q'.dones = q.dones.erase p.src ∧
              q'.engineNs = q.engineNs + BitVec.ofNat 64 (fieldAt p.payload 0 8))) ∧
    ((s.furrow f).takes f Kind.spanCancel p = true → p.tag ≠ boxTag →
      ((u.furrow f).memberFor p = none → exec (.spanCancel f p) s = .next u) ∧
      ∀ h, (u.furrow f).memberFor p = some h →
        ((u.furrow f).request? h p.tag = none → exec (.spanCancel f p) s = .next (u.setFurrow f ((u.furrow f).route f
          { (u.furrow f).packet f Kind.spanDone p.src p.span p.tag with aux := Status.cancelled.setWidth 32, payload := zeros 16 }))) ∧
        ((u.furrow f).request? h p.tag ≠ none → exec (.spanCancel f p) s = .next (u.setFurrow f ((u.furrow f).cancelReq f h p.tag))))

/-- Beats: the root notes an echo; a member notes its root's beat and echoes it; the root beats its members each BEAT_MS; after LOST_BEATS
intervals without a beat a member begins its teardown, which leaves it FAULTED at once when it has no request outstanding and no record
held, and a root loses the member that has not echoed (R24, R377).
Binding traffic: a member that a join names with its own number answers with every furrow it stands for when FURROWS matches, and otherwise
that it refuses; at the root's word it records the binding, or forgets it; a join that no binding awaits is answered as refused; a group's
root hears what a member's own span is to stand for; the end of the root's context begins the teardown of the member's. At the root a refusal
fails the binding, an answer is collected until all have come, the last one has the identifiers checked and the binding recorded or failed,
and when the last member has recorded it the request has it made (R22, R375, R377, R378). -/
def Obligations.SpansAreBoundAndKeptAlive : Prop :=
  (∀ (f : FurrowIx) (p : Packet) (h : Handle) (m : W32) (s : State),
     let u := s.took f p
     ((s.furrow f).takes f Kind.spanBeat p = true →
       ((u.furrow f).boundTo p.span = none → exec (.spanBeat f p) s = .next u) ∧
       ∀ g, (u.furrow f).boundTo p.span = some g →
         ((u.furrow f).ctx[g].role = .root → exec (.spanBeat f p) s = .next (u.setFurrow f ((u.furrow f).modBind g fun b =>
           { b with entries := b.entries.map fun m => if m.id = p.src then { m with lastEcho := (u.furrow f).ns } else m }))) ∧
         ((u.furrow f).ctx[g].role ≠ .root → (u.furrow f).memberFor p = none → exec (.spanBeat f p) s = .next u) ∧
         ((u.furrow f).ctx[g].role ≠ .root → ∀ k, (u.furrow f).memberFor p = some k →
           exec (.spanBeat f p) s = .next (u.setFurrow f (((u.furrow f).modBind k fun b => { b with lastBeat := (u.furrow f).ns }).route f
             ((u.furrow f).packet f Kind.spanBeat p.src p.span p.tag))))) ∧
     ((s.furrow f).bind? h = none → exec (.spanBeatSend f h) s = .next s ∧ exec (.spanBeatTimeout f h m) s = .next s) ∧
     ∀ b, (s.furrow f).bind? h = some b →
       ((s.furrow f).ctx[h].role = .root →
         (elapsed (s.furrow f).ns b.sentBeat < (s.furrow f).beatNs → exec (.spanBeatSend f h) s = .next s) ∧
         ((s.furrow f).beatNs ≤ elapsed (s.furrow f).ns b.sentBeat → exec (.spanBeatSend f h) s = .next (s.setFurrow f
           (b.entries.foldl (fun c m => c.route f (c.packet f Kind.spanBeat m.id c.ctx[h].spanId 0))
             ((s.furrow f).modBind h fun b => { b with sentBeat := (s.furrow f).ns })))) ∧
         ∀ x, b.entries[m.toNat]? = some x → x.lost = false →
           (elapsed (s.furrow f).ns x.lastEcho < (s.furrow f).pyr.lostBeats.toNat * (s.furrow f).beatNs →
             exec (.spanBeatTimeout f h m) s = .next s) ∧
           ((s.furrow f).pyr.lostBeats.toNat * (s.furrow f).beatNs ≤ elapsed (s.furrow f).ns x.lastEcho →
             exec (.spanBeatTimeout f h m) s = .next ((Run.start s).loseMember f h x.id).now)) ∧
       ((s.furrow f).ctx[h].role = .member →
         (elapsed (s.furrow f).ns b.lastBeat < (s.furrow f).pyr.lostBeats.toNat * (s.furrow f).beatNs →
           exec (.spanBeatTimeout f h m) s = .next s) ∧
         ((s.furrow f).pyr.lostBeats.toNat * (s.furrow f).beatNs ≤ elapsed (s.furrow f).ns b.lastBeat →
           exec (.spanBeatTimeout f h m) s = .next ((Run.start s).teardown f h .spanRootLost 0).now ∧
           ((s.furrow f).outstanding h = [] → (s.furrow f).ctx[h].rings.holding = [] → ∃ t, exec (.spanBeatTimeout f h m) s = .next t ∧
             (t.furrow f).ctx[h].state = .faulted ∧ (t.furrow f).ctx[h].rings.state = .error ∧ (t.furrow f).ctx[h].role = .none)))) ∧
  (∀ (f : FurrowIx) (p : Packet) (s : State), (s.furrow f).takes f Kind.spanJoin p = true →
     let u := s.took f p
     (Join.isEnd p = true ∨ Join.isAnswer p = true → exec (.spanJoin f p) s = .next u) ∧
     (Join.isEnd p = false → Join.isAnswer p = false → Join.regroups p = true →
       exec (.spanJoin f p) s = .next (u.setFurrow f ((u.furrow f).regroup f p))) ∧
     (Join.isEnd p = false → Join.isAnswer p = false → Join.regroups p = false → Join.forgets p = true →
       ((u.furrow f).joining p = none → exec (.spanJoin f p) s = .next u) ∧
       ∀ h, (u.furrow f).joining p = some h →
         exec (.spanJoin f p) s = .next (u.setFurrow f ((u.furrow f).modBind h fun b => { b with recorded := false }))) ∧
     (Join.isEnd p = false → Join.isAnswer p = false → Join.regroups p = false → Join.forgets p = false →
       ((u.furrow f).joining p = none →
         exec (.spanJoin f p) s = .next (u.setFurrow f ((u.furrow f).route f ((u.furrow f).joinAnswer f p 6 0 [])))) ∧
       ∀ h, (u.furrow f).joining p = some h →
         (Join.records p = true → exec (.spanJoin f p) s = .next (u.setFurrow f
           (((u.furrow f).modBind h fun b => { b with recorded := true, lastBeat := (u.furrow f).ns }).route f
             ((u.furrow f).joinAnswer f p 10 0 [])))) ∧
         (Join.records p = false → (u.furrow f).furrowsMatch h (p.addr.toNat / 2 ^ 32) = true →
           exec (.spanJoin f p) s = .next (u.setFurrow f ((inPieces 1024 (idBytes ((u.furrow f).standsFor f h))).foldl
             (fun c x => c.route f (c.joinAnswer f p 2 x.1 x.2)) (u.furrow f)))) ∧
         (Join.records p = false → (u.furrow f).furrowsMatch h (p.addr.toNat / 2 ^ 32) = false →
           exec (.spanJoin f p) s = .next (u.setFurrow f ((u.furrow f).route f ((u.furrow f).joinAnswer f p 6 0 []))))) ∧
     (Join.isEnd p = false → exec (.spanEnd f p) s = .next u) ∧
     (Join.isEnd p = true →
       let named := (List.finRange 64).find? fun h => (u.furrow f).ctx[h].role = .member && (u.furrow f).ctx[h].spanId = p.span &&
         (match (u.furrow f).bind? h with | some b => b.rootId = p.src && b.recorded | none => false)
       (named = none → exec (.spanEnd f p) s = .next u) ∧
       ∀ h, named = some h →
         exec (.spanEnd f p) s = .next ((Run.took s f p).teardown f h .spanRootLost 0).now ∧
         ((u.furrow f).outstanding h = [] → (u.furrow f).ctx[h].rings.holding = [] → ∃ t, exec (.spanEnd f p) s = .next t ∧
           (t.furrow f).ctx[h].state = .faulted ∧ (t.furrow f).ctx[h].rings.state = .error ∧ (t.furrow f).ctx[h].role = .none)) ∧
     (Join.isAnswer p = false → exec (.spanJoinReply f p) s = .next u) ∧
     (Join.isAnswer p = true → Join.isEnd p = false →
       ((u.furrow f).joinRequest p = none → Join.regroups p = false → exec (.spanJoinReply f p) s = .next u) ∧
       ((u.furrow f).joinRequest p = none → Join.regroups p = true →
         exec (.spanJoinReply f p) s = .next (u.setFurrow f ((u.furrow f).regrouped f p))) ∧
       ∀ q, (u.furrow f).joinRequest p = some q →
         let x := (u.furrow f).joinsFor q
         (Join.refused p = true → exec (.spanJoinReply f p) s = .next ((Run.took s f p).joinFails f q x.1 x.2).now) ∧
         (Join.refused p = false → (u.furrow f).request? q.h q.tag = some q →
           (q.stage = 3 → Join.regroups p = true →
             exec (.spanJoinReply f p) s = .next (u.setFurrow f ((u.furrow f).join f q x.1 x.2 8 2))) ∧
           (q.stage = 2 → Join.records p = true →
             let heard := fun (q : Request) => { q with acks := q.acks.erase p.src }
             let r := (Run.took s f p).modFur f fun c => c.modReq q.h q.tag heard
             exec (.spanJoinReply f p) s = .next (if q.acks.erase p.src = [] then r.joined f (heard q) else r).now) ∧
           (q.stage ≠ 2 → q.stage ≠ 3 →
             let heard := fun (q : Request) =>
               { q with
                 contrib := q.contrib ++ [p]
                 acks := if (joinIds (q.contrib ++ [p]) p.src).isSome then q.acks.erase p.src else q.acks }
             let r := (Run.took s f p).modFur f fun c => c.modReq q.h q.tag heard
             exec (.spanJoinReply f p) s = .next (if (heard q).acks ≠ [] then r
               else if spanIdsOk ((r.fur f).joinedIds f (heard q)) then r.modFur f fun c => c.askGroup f (heard q)
               else r.joinFails f (heard q) x.1 x.2).now))))

/-- Failed links: a LINK_FENCE from the peer of a fenced port sends again what the peer has not accepted; without one for FENCE_US the
port's fence is over, with an error record, and NO_ROUTE answers what was held for the link; a NO_ROUTE ends the request that owned the
transaction, or the part of a span's request, that needed the furrow, and one for another kind does nothing; and a transaction unanswered for
16 times FENCE_US, a SPAN_DESC without its acknowledgement among them, ends its request so (R370, R371). -/
def Obligations.FailedLinksAndTransactions : Prop :=
  ∀ (f : FurrowIx) (port : PortIx) (p : Packet) (tag : W32) (s : State),
    let u := s.took f p
    ((s.furrow f).takes f Kind.linkFence p = true →
      let match? := (List.finRange 10).find? fun i => (match (u.furrow f).pyr.ports[i].fence with | some x => x.2.1 = p.src | none => false) &&
        (u.furrow f).pyr.ports[i].peerPort = p.addr.extractLsb' 16 4
      (match? = none → exec (.linkFence f p) s = .next u) ∧
      ∀ i x, match? = some i → (u.furrow f).pyr.ports[i].fence = some x →
        exec (.linkFence f p) s = .next (u.setFurrow f (((u.furrow f).pyr.ports[i].heldPackets (afterSeq x.2.2 (p.addr.extractLsb' 0 16))).foldl
          (fun c q => c.route f q) ((u.furrow f).modPort i Port.unfence)))) ∧
    ((s.furrow f).pyr.ports[port].fence = none → exec (.fenceTimeout f port) s = .next s) ∧
    (∀ since peer flits, (s.furrow f).pyr.ports[port].fence = some (since, peer, flits) →
      (elapsed (s.furrow f).ns since < (s.furrow f).pyr.fenceUs.toNat * 1000 → exec (.fenceTimeout f port) s = .next s) ∧
      ((s.furrow f).pyr.fenceUs.toNat * 1000 ≤ elapsed (s.furrow f).ns since →
        ∃ t, exec (.fenceTimeout f port) s = .next t ∧ s.onlyFurrow f t ∧ t.mems = s.mems ∧ (t.furrow f).pyr.ports[port].fence = none ∧
          (t.furrow f).err.seq = (s.furrow f).err.seq + 1)) ∧
    ((s.furrow f).takes f Kind.noRoute p = true →
      (∀ x, (u.furrow f).pyr.txs.find? (fun x => x.tag = p.tag) = some x → p.addr.extractLsb' 0 8 = Kind.readReq ∨ p.addr.extractLsb' 0 8 = Kind.write →
        exec (.noRoute f p) s = .next (((Run.took s f p).modFur f fun c => c.closeTx x.tag).requestLoses f x.h x.req (p.aux.extractLsb' 0 16)).now) ∧
      (p.addr.extractLsb' 0 8 = Kind.writeAck → exec (.noRoute f p) s = .next u) ∧
      (p.addr.extractLsb' 0 8 = Kind.coll ∨ p.addr.extractLsb' 0 8 = Kind.spanDesc ∨ p.addr.extractLsb' 0 8 = Kind.spanCancel → p.tag ≠ boxTag →
        ((u.furrow f).partOf p.span p.tag = none → exec (.noRoute f p) s = .next u) ∧
        ∀ q, (u.furrow f).partOf p.span p.tag = some q →
          exec (.noRoute f p) s = .next ((Run.took s f p).requestLoses f q.h q.tag (p.aux.extractLsb' 0 16)).now)) ∧
    ((s.furrow f).pyr.txs.find? (fun x => x.tag = tag) = none →
      let waits := (s.furrow f).reqs.find? fun q => q.tag = tag && spanWide q.op && !q.acks.isEmpty &&
        (match q.waitNs with | some t => decide (16 * (s.furrow f).pyr.fenceUs.toNat * 1000 ≤ elapsed (s.furrow f).ns t) | none => false)
      (waits = none → exec (.transactionTimeout f tag) s = .next s) ∧
      ∀ q, waits = some q →
        exec (.transactionTimeout f tag) s = .next ((Run.start s).each q.acks fun r id => r.requestLoses f q.h tag id).now) ∧
    ∀ x, (s.furrow f).pyr.txs.find? (fun x => x.tag = tag) = some x →
      (elapsed (s.furrow f).ns x.since < 16 * (s.furrow f).pyr.fenceUs.toNat * 1000 → exec (.transactionTimeout f tag) s = .next s) ∧
      (16 * (s.furrow f).pyr.fenceUs.toNat * 1000 ≤ elapsed (s.furrow f).ns x.since →
        exec (.transactionTimeout f tag) s = .next (((Run.start s).modFur f fun c => c.closeTx tag).requestLoses f x.h x.req x.dest).now)

/-! ### Security (chapter 17) -/

/-- Firmware, by commands that reach the furrow: a STAGE whose image is whole, signed and new enough goes to the slot that does not run, and
one that is not leaves only its status; one whose store write fails leaves that slot empty; COMMIT_SVN, with debug off and no boot error,
raises the fused version of the kind to that of its running image and lowers none, unless the other slot holds a newer image, and otherwise
sets only its fields. A digest whose object can be read is entered; the bus owner's endpoint identifier is kept while the root of trust runs
(R391, R392, R394, R399). -/
def Obligations.FirmwareCommands : Prop :=
  ∀ (f : FurrowIx) (v : W64) (a b : Bool) (s : State),
    (s.reaches f 0x400018 = false → exec (.fwStage f v a b) s = .next s ∧ exec (.commitSvn f v) s = .next s) ∧
    (s.reaches f 0x400018 = true → v.extractLsb' 0 4 = 1 →
      let z := (s.furrow f).sec.fwCmd v
      let kind := z.fwKind.toNat
      let im : FwImage := ⟨s.host.read (z.fwAddr.toNat * 64) 256, s.host.read (z.fwAddr.toNat * 64 + 256) (z.fwLength.toNat - 256)⟩
      (z.takesStage kind = false → exec (.fwStage f v a b) s = .next (s.setFurrow f ((s.furrow f).modSec fun _ => z))) ∧
      (z.takesStage kind = true → z.fwLength.toNat < 256 →
        exec (.fwStage f v a b) s = .next (s.setFurrow f ((s.furrow f).modSec fun _ => { z with fwStatus := FwStatus.badLength }))) ∧
      (z.takesStage kind = true → 256 ≤ z.fwLength.toNat →
        exec (.fwStage f v true b) s = .next (s.setFurrow f ((s.furrow f).modSec fun _ => { z with fwStatus := FwStatus.hostRead })) ∧
        (∀ e, stageFault im z.fwLength.toNat kind s.fuses[f] = some e →
          exec (.fwStage f v false b) s = .next (s.setFurrow f ((s.furrow f).modSec fun _ => { z with fwStatus := e }))) ∧
        exec (.fwStage f v false false) s = .next (s.setFurrow f ((s.furrow f).modSec fun _ =>
          match stageFault im z.fwLength.toNat kind s.fuses[f] with
          | some e => { z with fwStatus := e }
          | none => { z.store kind (z.spare kind) (some im) with fwStatus := FwStatus.idle })) ∧
        (stageFault im z.fwLength.toNat kind s.fuses[f] = none →
          exec (.fwStage f v false true) s = .next (s.setFurrow f ((s.furrow f).modSec fun _ =>
            { z.store kind (z.spare kind) none with fwStatus := FwStatus.storeWrite }))))) ∧
    (s.reaches f 0x400018 = true → v.extractLsb' 0 4 = 2 → debugOn (s.furrow f).sec s.fuses[f] = true ∨ (s.furrow f).sec.bootError ≠ 0 →
      exec (.commitSvn f v) s = .next (s.setFurrow f ((s.furrow f).modSec fun z => z.fwCmd v))) ∧
    (s.reaches f 0x400018 = true → v.extractLsb' 0 4 = 2 → debugOn (s.furrow f).sec s.fuses[f] = false → (s.furrow f).sec.bootError = 0 →
      let z := (s.furrow f).sec.fwCmd v
      let kind := z.fwKind.toNat
      kind = 1 ∨ kind = 2 → ∀ im, z.running kind = some im →
        ∃ t, exec (.commitSvn f v) s = .next t ∧ s.onlyFurrow f { t with fuses := s.fuses } ∧ t.mems = s.mems ∧
          (∀ g : FurrowIx, g ≠ f → t.fuses[g] = s.fuses[g]) ∧
          (t.fuses[f], (t.furrow f).sec.fwStatus) =
            if (((z.slots kind).get (!z.slotB kind)).filter fun o => o.valid kind s.fuses[f] && decide (im.svn < o.svn)) = none then
              (s.fuses[f].burn (Fuses.raiseTo kind im.svn), FwStatus.idle)
            else (s.fuses[f], FwStatus.notRunning)) ∧
    ((s.furrow f).sec.atEngine v = none → exec (.digestDone f v) s = .next s) ∧
    (∀ e (hh : e.handle.toNat < 64), (s.furrow f).sec.atEngine v = some e →
      (s.furrow f).meets f ⟨e.handle.toNat, hh⟩ 0 (if e.inT1 then 1 else 2) e.offset.toNat e.length.toNat = none →
      exec (.digestDone f v) s = .next (s.setFurrow f ((s.furrow f).modSec fun z => z.finishDigest v
        (Config.sha512 ((Run.start s).load f ⟨e.handle.toNat, hh⟩ 0 (if e.inT1 then 1 else 2) e.offset.toNat e.length.toNat))))) ∧
    ∀ eid : Byte,
      ((s.furrow f).sec.rotRun = none → exec (.mctpSetEid f eid) s = .next s) ∧
      ((s.furrow f).sec.rotRun ≠ none → exec (.mctpSetEid f eid) s = .next (s.setFurrow f ((s.furrow f).modSec fun z => { z with eid := eid })))

/-- The SPDM requests: one that does not reach the root of trust, or is of another code, changes nothing; a RETURNED furrow answers only
with an error; and any other furrow answers on the connection of the request's path, drawing two fresh values and leaving the rest of the
module as it is (R386, R398, R399). The messages' layouts are the model's (log 67). -/
def Obligations.SpdmRequestsAreAnsweredOnTheirPath : Prop :=
  ∀ (f : FurrowIx) (ch : SpdmChannel) (m : List Byte) (s : State),
    let x := (s.furrow f).sec.conn ch
    let answers := fun (y : Spdm) => { s.setFurrow f ((s.furrow f).modSec fun z => z.setConn ch y) with fresh := s.fresh + 2 }
    ∀ (c : Instr) (code : Byte) (y : Spdm), (c, code, y) ∈ ([
        (.getVersion f ch m, 0x84, (spdmAnswer s f x s.fresh m).give m), (.getCapabilities f ch m, 0xE1, (spdmAnswer s f x s.fresh m).give m),
        (.negotiateAlgorithms f ch m, 0xE3, (spdmAnswer s f x s.fresh m).give m), (.getDigests f ch m, 0x81, (spdmAnswer s f x s.fresh m).give m),
        (.getCertificate f ch m, 0x82, (spdmAnswer s f x s.fresh m).give m), (.challenge f ch m, 0x83, (spdmAnswer s f x s.fresh m).give m),
        (.getMeasurements f ch m, 0xE0, (spdmAnswer s f x s.fresh m).give m), (.chunkSend f ch m, 0x85, chunkSent s f x s.fresh m),
        (.chunkGet f ch m, 0x86, chunkGot x m),
        (.respondIfReady f ch m, 0xFF, match x.deferred.filter fun p => p.1 = m.getD 3 0 with
          | some p => { x with deferred := none }.send p.2
          | none => { x with answer := x.err SpdmErr.unexpected 0 [] })] : List (Instr × Byte × Spdm)) →
      (spdmReaches s f ch = false ∨ m.getD 1 0 ≠ code → exec c s = .next s) ∧
      (spdmReaches s f ch = true → m.getD 1 0 = code →
        (s.fuses[f].lifecycle = 2 → exec c s = .next (answers { x with answer := x.err SpdmErr.unspecified 0 [] })) ∧
        (s.fuses[f].lifecycle ≠ 2 → exec c s = .next (answers y)))

/-- Debug access, while the TAP is answered: a challenge comes out of it, and only zeros after eight failures; a grant to a furrow in service
that fails uses the challenge up and counts; one that verifies unlocks debug and leaves every memory of the furrow zero; a furrow that is not
in service takes no grant; an old challenge expires; and a boundary-scan instruction takes effect in reset, setting SCRUB_PENDING, and out of
reset only while debug is on, setting SCRUB_PENDING alone (R400–R402; the last is the model's reading, log 68). -/
def Obligations.DebugAndBoundaryScan : Prop :=
  ∀ (f : FurrowIx) (grant : List Byte) (s : State),
    ((s.furrow f).tapUp = false → exec (.dbgChallenge f) s = .next s ∧ exec (.dbgGrant f grant) s = .next s) ∧
    ((s.furrow f).tapUp = true →
      (8 ≤ (s.furrow f).sec.unlockFails.toNat → exec (.dbgChallenge f) s = .next (s.setFurrow f ((s.furrow f).modSec fun z =>
        { z with tapOut := zeros 64, challenge := none }))) ∧
      ((s.furrow f).sec.unlockFails.toNat < 8 → ∃ t, exec (.dbgChallenge f) s = .next t ∧ s.onlyFurrow f t ∧ t.mems = s.mems ∧
        (t.furrow f).sec.tapOut = challengeBytes f (s.furrow f).sec s.fuses[f] (Config.nonce s.fresh) ∧ (t.furrow f).sec.tapOut.length = 64 ∧
        (t.furrow f).sec.challenge = some ⟨(t.furrow f).sec.tapOut, (s.furrow f).ns⟩)) ∧
    ((s.furrow f).tapUp = true → (s.furrow f).serves = true →
      let good := match (s.furrow f).openChallenge with | some bs => decide (grant.length = 64) && grantVerifies s.fuses[f] bs grant | none => false
      if good then ∃ t, exec (.dbgGrant f grant) s = .next t ∧ (t.furrow f).sec.debugUnlocked = true ∧ (t.furrow f).sec.debugKey = true ∧
        (t.furrow f).sec.scrubPending = true ∧ (t.furrow f).sec.challenge = none ∧ t.fuses = s.fuses ∧
        ∀ a : Nat, (t.mem (.hbm f)).get a = 0 ∧ (t.mem (.t1 f)).get a = 0 ∧ (t.mem (.t0 f)).get a = 0
      else exec (.dbgGrant f grant) s = .next (s.setFurrow f ((s.furrow f).modSec fun z =>
        { z with challenge := none, unlockFails := BitVec.ofNat 4 (min 8 (z.unlockFails.toNat + 1)) }))) ∧
    ((s.furrow f).serves = false → exec (.dbgGrant f grant) s = .next s) ∧
    ((s.furrow f).openChallenge = none → exec (.dbgChallengeExpiry f) s = .next (s.setFurrow f ((s.furrow f).modSec fun z =>
      { z with challenge := none }))) ∧
    ((s.furrow f).openChallenge ≠ none → exec (.dbgChallengeExpiry f) s = .next s) ∧
    ∀ (c : Instr) (code : Byte), (c, code) ∈ ([(.extest f, 0), (.extestPulse f, 1), (.extestTrain f, 2)] : List (Instr × Byte)) →
      ((s.furrow f).life = .reset →
        exec c s = .next (s.setFurrow f ((s.furrow f).modSec fun z => { z with extest := some code, scrubPending := true }))) ∧
      ((s.furrow f).life ≠ .reset → debugOn (s.furrow f).sec s.fuses[f] = false → exec c s = .next s) ∧
      ((s.furrow f).life ≠ .reset → debugOn (s.furrow f).sec s.fuses[f] = true →
        exec c s = .next (s.setFurrow f ((s.furrow f).modSec fun z => { z with scrubPending := true })))

/-! ### The Tally and the calendar (chapters 18 and 20) -/

/-- The Tally's commands, where they reach it: READ logs its event and writes the entries asked for to host memory, or answers a range that
is not there or a failed write by its status; ACK frees the entries through a SEQ and is logged; CERT writes the certificate; STAGE logs its
event and takes an image only where its result is 0; a write to another register changes nothing and is logged; and while one free entry or
none remains every command but ACK is refused (R409, R410, R417–R419). -/
def Obligations.TallyCommands : Prop :=
  ∀ (f : FurrowIx) (v : W64) (a : HostAccess) (s : State),
    let c := (s.furrow f).tallyCmd v
    let last := c.tally.cmdArg.toNat
    let n := c.tally.count.toNat
    (s.reaches f 0x500020 = false → ∀ b, exec (.tallyRead f v b) s = .next s ∧ exec (.tallyAck f v) s = .next s ∧
      exec (.tallyCert f v b) s = .next s ∧ exec (.tallyStage f v b) s = .next s) ∧
    (s.reaches f 0x500020 = true →
      (c.tally.brimming = true → ∀ i : Instr, ∀ b, i = .tallyRead f v b ∨ i = .tallyCert f v b ∨ i = .tallyStage f v b →
        exec i s = .next (s.setFurrow f (c.tallyStatus TlyStatus.refused))) ∧
      (c.tally.brimming = false →
        (1 ≤ n → n ≤ 4096 → c.tally.acked.toNat ≤ last → last + n ≤ c.tally.next.toNat →
          (∃ t, exec (.tallyRead f v false) s = .next t ∧ t.host = s.host.write (c.tally.cmdAddr.toNat * 64) (c.tally.range last n) ∧
            t.mems = s.mems ∧ t.furrow f = (c.tallyEvent f 0x03 last n).tallyStatus TlyStatus.idle) ∧
          exec (.tallyRead f v true) s = .next (s.setFurrow f ((c.tallyEvent f 0x03 last n).tallyStatus TlyStatus.hostWrite))) ∧
        (n = 0 ∨ 4096 < n ∨ last < c.tally.acked.toNat ∨ c.tally.next.toNat < last + n →
          ∀ b, exec (.tallyRead f v b) s = .next (s.setFurrow f ((c.tallyEvent f 0x03 last n).tallyStatus TlyStatus.badRange))) ∧
        (∃ t, exec (.tallyCert f v false) s = .next t ∧ t.host = s.host.write (c.tally.cmdAddr.toNat * 64) (Config.tallyCertificate f) ∧
          t.mems = s.mems ∧ t.furrow f = c.tallyStatus TlyStatus.idle) ∧
        exec (.tallyCert f v true) s = .next (s.setFurrow f (c.tallyStatus TlyStatus.hostWrite)) ∧
        ∀ b,
          let header := s.host.read (c.tally.cmdAddr.toNat * 64) 256
          let im : FwImage := ⟨header, s.host.read (c.tally.cmdAddr.toNat * 64 + 256) (fieldAt header 8 4)⟩
          let good := decide (tallyStageResult f c.tally im b = 0)
          ∃ t, exec (.tallyStage f v b) s = .next t ∧ s.onlyFurrow f t ∧ t.mems = s.mems ∧
            (t.furrow f).tally.image = (if good then some im else (s.furrow f).tally.image) ∧
            (t.furrow f).tally.cmdStatus = (if good then TlyStatus.idle else TlyStatus.refused) ∧
            (t.furrow f).tally.next = (s.furrow f).tally.next + 1) ∧
      (c.tally.next.toNat ≤ last ∨ last < c.tally.acked.toNat →
        exec (.tallyAck f v) s = .next (s.setFurrow f (c.tallyStatus TlyStatus.badRange))) ∧
      (last < c.tally.next.toNat → c.tally.acked.toNat ≤ last → ∃ t, exec (.tallyAck f v) s = .next t ∧ s.onlyFurrow f t ∧ t.mems = s.mems ∧
        (t.furrow f).tally.acked = BitVec.ofNat 64 (last + 1) ∧ (t.furrow f).tally.next = (s.furrow f).tally.next + 1 ∧
        (t.furrow f).tally.entries = ((c.tallyEvent f 0x04 last 0).tally.entries).drop (last + 1 - c.tally.acked.toNat))) ∧
    (s.reaches f a.off.toNat = true → tallyFixed a = true → exec (.configWrite f a v) s = .next (s.setFurrow f ((s.furrow f).tallyEvent f 0x01 a.off.toNat v.toNat))) ∧
    (s.reaches f a.off.toNat = false ∨ tallyFixed a = false → exec (.configWrite f a v) s = .next s)

/-- Time of the Tally, while it runs: a clock comparison outside 100,000 ns is a fault; one within counts, and in CLOCK_FAULT the tenth in a
row returns it to METERING with an error record; a period closes once, and not while the area is FULL; the interim area takes the counts of
every open record. The calendar: CAL_SET acts only on an invalid calendar; the slew takes −200 to +200; a crystal that stops invalidates the
calendar and one that starts again counts a restart; and with VAUX a bad battery is recorded once (R412, R413, R415–R417, R454, R455, R459). -/
def Obligations.TallyTimeAndCalendar : Prop :=
  ∀ (f : FurrowIx) (v : W64) (mv : W16) (s : State),
    ((s.furrow f).tally.runs = false → exec (.tallyClockCheck f v) s = .next s ∧ exec (.tallyPeriodClose f) s = .next s) ∧
    ((s.furrow f).tally.runs = true →
      (1000100000 < v.toNat ∨ v.toNat < 999900000 → exec (.tallyClockCheck f v) s = .next (s.setFurrow f ((s.furrow f).tallyFault f v.toNat))) ∧
      (999900000 ≤ v.toNat → v.toNat ≤ 1000100000 → (s.furrow f).tally.state = .metering →
        exec (.tallyClockCheck f v) s = .next (s.setFurrow f ((s.furrow f).modTally fun t => { t with good := t.good + 1, lastNs := (s.furrow f).ns }))) ∧
      (999900000 ≤ v.toNat → v.toNat ≤ 1000100000 → (s.furrow f).tally.state = .clockFault → 10 ≤ (s.furrow f).tally.good + 1 →
        ∃ t, exec (.tallyClockCheck f v) s = .next t ∧ s.onlyFurrow f t ∧ t.mems = s.mems ∧ (t.furrow f).tally.state = .metering ∧
          (t.furrow f).err.seq = (s.furrow f).err.seq + 1) ∧
      ((s.furrow f).tally.full = true ∨ periodOf f (s.furrow f).cal.stamp = (s.furrow f).tally.period → exec (.tallyPeriodClose f) s = .next s) ∧
      ((s.furrow f).tally.full = false → periodOf f (s.furrow f).cal.stamp ≠ (s.furrow f).tally.period →
        ∃ t, exec (.tallyPeriodClose f) s = .next t ∧ s.onlyFurrow f t ∧ t.mems = s.mems ∧
          (t.furrow f).tally.period = periodOf f (s.furrow f).cal.stamp ∧ exec (.tallyPeriodClose f) t = .next t)) ∧
    exec (.tallyInterimWrite f) s = .next (s.setFurrow f ((s.furrow f).modTally fun t =>
      { t with interim := t.open_.map fun o => o.map fun x => (x, (s.furrow f).cal.stamp) })) ∧
    ((s.furrow f).cal.valid = true → exec (.calSet f v) s = .next s) ∧
    (s.reaches f 0x700050 = true → (s.furrow f).cal.valid = false →
      exec (.calSet f v) s = .next (s.setFurrow f ((s.furrow f).modCal fun k => { k with stamp := v, valid := true }))) ∧
    (s.reaches f 0x700058 = true → -200 ≤ mv.toInt → mv.toInt ≤ 200 →
      exec (.calSlewWrite f mv) s = .next (s.setFurrow f ((s.furrow f).modCal fun k => { k with slew := mv }))) ∧
    (mv.toInt < -200 ∨ 200 < mv.toInt → exec (.calSlewWrite f mv) s = .next s) ∧
    ((s.furrow f).cal.running = true → (s.furrow f).cal.latch = true → ∃ t, exec (.xtalFail f) s = .next t ∧ s.onlyFurrow f t ∧ t.mems = s.mems ∧
      (t.furrow f).cal.running = false ∧ (t.furrow f).cal.valid = false ∧ (t.furrow f).cal.xtalFail = true) ∧
    ((s.furrow f).cal.running = false → exec (.xtalFail f) s = .next s) ∧
    ((s.furrow f).cal.running = false → (s.furrow f).cal.latch = true → ∃ t, exec (.xtalRestart f) s = .next t ∧ s.onlyFurrow f t ∧ t.mems = s.mems ∧
      (t.furrow f).cal.running = true ∧ (t.furrow f).cal.xtalFail = false ∧ (t.furrow f).cal.valid = (s.furrow f).cal.valid ∧
      (t.furrow f).health.restarts = (s.furrow f).health.restarts + 1) ∧
    ((s.furrow f).cal.running = true → exec (.xtalRestart f) s = .next s) ∧
    (s.hdl.vaux = false → exec (.vbatSample f mv) s = .next s) ∧
    (s.hdl.vaux = true → ∃ t, exec (.vbatSample f mv) s = .next t ∧ (t.furrow f).cal.vbatBad = decide (mv.toNat < 2000) ∧
      t.hdl.vbat = !decide (mv.toNat < 2000) ∧
      (t.furrow f).err.seq = (s.furrow f).err.seq +
        (if mv.toNat < 2000 ∧ (s.furrow f).cal.vbatBad = false ∧ (s.furrow f).alive = true then 1 else 0))

/-! ### Errors and loss (chapter 19) -/

/-- The error ring: a write of its configuration that reaches it sets ENABLE, and ENABLE 1 over 0 zeroes HEAD and TAIL, while over 1 it moves
neither nor the size; a head within the ring and not behind the last is taken, and any other sets BAD_HEAD; while the ring takes records and
the host port carries them the oldest queued one is written at its slot and TAIL counts it, with PHASE the inverse of bit n of the count; a
write that fails stops the ring and keeps the record (R425, R426, R472, R57); with the host port lost the records wait (R13). -/
def Obligations.ErrorRingTakesRecordsInOrder : Prop :=
  ∀ (f : FurrowIx) (v : W64) (k : W32) (s : State),
    (s.reaches f 0x600008 = true → ∃ t, exec (.erRingEnable f v) s = .next t ∧ s.onlyFurrow f t ∧ t.mems = s.mems ∧
      (t.furrow f).err.enable = v.getLsbD 31 ∧
      (v.getLsbD 31 = true → (s.furrow f).err.enable = false → (t.furrow f).err.head = 0 ∧ (t.furrow f).err.tail = 0) ∧
      ((s.furrow f).err.enable = true → (t.furrow f).err.head = (s.furrow f).err.head ∧ (t.furrow f).err.tail = (s.furrow f).err.tail ∧
        (t.furrow f).err.log2Size = (s.furrow f).err.log2Size)) ∧
    (s.reaches f 0x600010 = true →
      ((s.furrow f).err.headOk k = true → exec (.erHeadWrite f k) s = .next (s.setFurrow f ((s.furrow f).modErr fun e => { e with head := k }))) ∧
      ((s.furrow f).err.headOk k = false → exec (.erHeadWrite f k) s = .next (s.setFurrow f ((s.furrow f).modErr fun e => { e with badHead := true })))) ∧
    ((s.furrow f).err.open_ = false ∨ (s.furrow f).err.queue = [] ∨ (s.furrow f).life = .reset →
      exec (.errorRecordPost f) s = .next s ∧ exec (.erWriteFail f) s = .next s) ∧
    ∀ x rest, (s.furrow f).err.open_ = true → (s.furrow f).err.queue = x :: rest → (s.furrow f).life ≠ .reset →
      (s.hdl.carries = false → exec (.errorRecordPost f) s = .next s) ∧
      (s.hdl.carries = true → ∃ t, exec (.errorRecordPost f) s = .next t ∧
        t.host = s.host.write (s.furrow f).err.slot (x.bytes (s.furrow f).err.tail (s.furrow f).err.log2Size.toNat) ∧
        (x.bytes (s.furrow f).err.tail (s.furrow f).err.log2Size.toNat).length = 64 ∧
        ((x.bytes (s.furrow f).err.tail (s.furrow f).err.log2Size.toNat).getD 9 0).getLsbD 7 =
          !(s.furrow f).err.tail.getLsbD (s.furrow f).err.log2Size.toNat ∧
        (t.furrow f).err.tail = (s.furrow f).err.tail + 1 ∧ t.mems = s.mems ∧
        ((s.furrow f).err.waiting = [] → (t.furrow f).err.queue = rest)) ∧
      ∃ t, exec (.erWriteFail f) s = .next t ∧ (t.furrow f).err.enable = false ∧ (t.furrow f).err.writeFail = true ∧
        (t.furrow f).err.queue = x :: rest ∧ (t.furrow f).err.tail = (s.furrow f).err.tail ∧ t.mems = s.mems

/-- Memory errors: a corrected word of SRAM counts in its day, and so do the symbols of a corrected HBM word; a datapath's parity corrects
nothing; data that cannot be corrected stays so until it is written, and a running request that meets it ends DATA_ERROR, as one does whose
host read is poisoned; a request that does not run is left as it is; poison for a descriptor fetch of an ACTIVE ring begins the context's
teardown, which leaves it FAULTED when nothing of it is outstanding; and what the scrubber finds uncorrectable it marks, what it corrects it
counts (R421–R424). -/
def Obligations.MemoryErrorsAreCountedAndContained : Prop :=
  ∀ (f : FurrowIx) (p : ErrorPlace) (s : State),
    (∀ code, exec (.correctedError f (.path code)) s = .next s) ∧
    (elapsed (s.furrow f).ns (s.furrow f).counts.since < dayNs →
      let counted := fun (p : ErrorPlace) (sram hbm : W32) => ∃ t, exec (.correctedError f p) s = .next t ∧
        (t.furrow f).counts.sram = (s.furrow f).counts.sram + sram ∧ (t.furrow f).counts.hbm = (s.furrow f).counts.hbm + hbm ∧
        (t.furrow f).counts.bad = (s.furrow f).counts.bad ∧ t.host = s.host ∧ t.mems = s.mems
      (∀ k off bit, counted (.scratch k off bit) 1 0) ∧ (∀ c u off bit, counted (.unit c u off bit) 1 0) ∧
      ∀ off n d r, hbmCorrects n d r = true → counted (.hbm off n d r) 0 (BitVec.ofNat 32 n.toNat)) ∧
    (∀ b a, badWordOf p = some (b, a) →
      (∀ off m d r, p = .hbm off m d r → hbmCorrects m d r = false) →
        ∃ t, exec (.uncorrectableData f p none) s = .next t ∧ b ∈ (t.furrow f).counts.bad ∧ t.host = s.host ∧ t.mems = s.mems) ∧
    (∀ b a, badWordOf p = some (b, a) → ∃ t, exec (.patrolScrub f p .uncorrectable) s = .next t ∧ b ∈ (t.furrow f).counts.bad ∧
        t.host = s.host ∧ t.mems = s.mems) ∧
    (∀ r, badWordOf p = none → exec (.patrolScrub f p r) s = .next s) ∧
    (∀ b a, badWordOf p = some (b, a) →
      exec (.patrolScrub f p .corrected) s = .next (((Run.start s).modFur f fun c => c.corrected p).weighHealth f).now) ∧
    (∀ (h : Handle) (tag : Tag) (addr : W64) (q : Request), (s.furrow f).request? h tag = some q → tag ≠ boxTag →
      (q.phase = .running →
        (∃ t e, exec (.hostPoison f h (some tag) addr) s = .next t ∧ t.descriptorEnded f h tag e ∧ e.status = Status.dataError) ∧
        ∀ code, ∃ t e, exec (.uncorrectableData f (.path code) (some ⟨h, tag⟩)) s = .next t ∧
          t.descriptorEnded f h tag e ∧ e.status = Status.dataError) ∧
      (q.phase ≠ .running → exec (.hostPoison f h (some tag) addr) s = .next s) ∧
      ((s.furrow f).ctx[h].state = .ready → (s.furrow f).ctx[h].rings.state = .active →
        exec (.hostPoison f h none addr) s = .next ((Run.start s).teardown f h .hostAbort addr).now) ∧
      ((s.furrow f).ctx[h].state ≠ .ready ∨ (s.furrow f).ctx[h].rings.state ≠ .active → exec (.hostPoison f h none addr) s = .next s)) ∧
    ∀ (h : Handle) (addr : W64), (s.furrow f).ctx[h].state = .ready → (s.furrow f).ctx[h].rings.state = .active →
      (s.furrow f).outstanding h = [] → (s.furrow f).ctx[h].rings.holding = [] →
      ∃ t, exec (.hostPoison f h none addr) s = .next t ∧ (t.furrow f).ctx[h].state = .faulted ∧ (t.furrow f).ctx[h].rings.state = .error

/-- Loss of a furrow: each of its causes takes a furrow that runs offline, LOST with that cause, and the headland marks it unless it has
failed itself; a furrow that is held in reset or LOST already stays as it is; an error in handling for less than 10 ms, or a rail within its
limits or out of them for less than 100 µs, takes no furrow offline (R428, R429, R442, R451). A furrow that does not answer the headland is
marked LOST in its shadow copy, once, and PF0 vector 2 fires; the headland's own failures change only the headland (R13, R14, R437). -/
def Obligations.LossTakesFurrowOffline : Prop :=
  ∀ (f : FurrowIx) (s : State),
    (∀ (c : Instr) (cause : Nat),
      ((∃ k, c = .handlingPathFail f k ∧ cause = lossCode k ∧
          (k = .handling → ((s.furrow f).err.handling.any fun x => x.posted && decide (10000000 ≤ elapsed (s.furrow f).ns x.since)) = true)) ∨
        (c = .refclkLoss f ∧ cause = 4) ∨ (c = .railOutOfLimits f ∧ cause = 0x11 ∧ lasting (s.furrow f).ns (s.furrow f).pwr.farSince 100000 = true)) →
      ((s.furrow f).alive = true → ∃ t, exec c s = .next t ∧ (t.furrow f).life = .lost ∧ (t.furrow f).lossCause = some (BitVec.ofNat 8 cause) ∧
        (s.hdl.failed = false → t.hdl.lostMap.getLsbD f.val = true)) ∧
      ((s.furrow f).alive = false → exec c s = .next s)) ∧
    (lasting (s.furrow f).ns (s.furrow f).pwr.farSince 100000 = false → exec (.railOutOfLimits f) s = .next s) ∧
    (((s.furrow f).err.handling.any fun x => x.posted && decide (10000000 ≤ elapsed (s.furrow f).ns x.since)) = false →
      exec (.handlingPathFail f .handling) s = .next s) ∧
    (s.hdl.lostMap.getLsbD f.val = true ∨ s.hdl.failed = true → exec (.headlandLinkTimeout f) s = .next s) ∧
    (s.hdl.lostMap.getLsbD f.val = false → s.hdl.failed = false →
      exec (.headlandLinkTimeout f) s = .next { s with hdl := { s.hdl with
        shadowId := s.hdl.shadowId.set f (readIdentity f { s.furrow f with life := .lost } 0x00)
        shadowState := s.hdl.shadowState.set f (readIdentity f { s.furrow f with life := .lost } 0x08)
        lostMap := addBit s.hdl.lostMap f.val, msix := s.hdl.msix.set 2 (s.hdl.msix[2].fire 0 none) } }) ∧
    exec .headlandFailure s = .next { s with hdl := { s.hdl with failed := true, portUp := false } } ∧
    exec .headlandFault s = .next { s with hdl := { s.hdl with fault := true, msix := s.hdl.msix.set 3 (s.hdl.msix[3].fire 0 none) } }

/-- Self-test and ageing: a slice starts only at a quantum boundary of a furrow in service, with no slice running and its target in service; a
withheld target runs again when it fits, and counts as deferred when it does not; a fresh slice that fits starts and uses the slot up; a slice
that ends clears a lent core's scratch; a target without its slices for 48 h is LATE, with an error record; and the margins are planned at a
quantum boundary, once in 24 h: with no slack short, no voltage and no clock changes (R430–R433, R435). -/
def Obligations.SelfTestSlicesAndMargins : Prop :=
  ∀ (f : FurrowIx) (b : BistTarget) (locked : Bool) (tj : Byte) (s : State),
    ((s.furrow f).serves = false ∨ (s.furrow f).boundaryDue = false ∨ (s.furrow f).bist.running ≠ none ∨ (s.furrow f).targetUp b = false →
      exec (.bistSliceStart f b locked tj) s = .next s) ∧
    ((s.furrow f).serves = true → (s.furrow f).boundaryDue = true → (s.furrow f).bist.running = none → (s.furrow f).targetUp b = true →
      ((s.furrow f).bist.withheld.contains b = true →
        ((s.furrow f).sliceFit b locked tj = true → ∃ t, exec (.bistSliceStart f b locked tj) s = .next t ∧
          (t.furrow f).bist.running = some ⟨b, true, (s.furrow f).ns⟩ ∧ t.host = s.host) ∧
        ((s.furrow f).sliceFit b locked tj = false → exec (.bistSliceStart f b locked tj) s = .next (s.setFurrow f ((s.furrow f).modBist fun x =>
          { x with deferred := sat x.deferred 1 })))) ∧
      ((s.furrow f).bist.withheld.contains b = false → (s.furrow f).bist.en = true → (s.furrow f).bist.nextSlot.toNat ≤ (s.furrow f).ns.toNat →
        (s.furrow f).bist.waiting = [] → (s.furrow f).bist.slices.contains b = false → (s.furrow f).sliceFit b locked tj = true →
        ∃ t, exec (.bistSliceStart f b locked tj) s = .next t ∧ (t.furrow f).bist.running = some ⟨b, false, (s.furrow f).ns⟩ ∧
          (t.furrow f).bist.slices = (s.furrow f).bist.slices ++ [b] ∧
          (t.furrow f).bist.nextSlot = (s.furrow f).bist.nextSlot + 220000000000 ∧ t.host = s.host)) ∧
    ((s.furrow f).bist.running = none → ∀ o, exec (.bistSliceEnd f b o) s = .next s) ∧
    (∀ x o, (s.furrow f).bist.running = some x → x.target = b →
      ∃ t, exec (.bistSliceEnd f b o) s = .next t ∧ (t.furrow f).bist.running = none ∧ t.host = s.host ∧
        ∀ k n, b = .core k n → ∀ a, k.val * hbmUnit ≤ a → a < (k.val + 1) * hbmUnit → (t.mem (.t0 f)).get a = 0) ∧
    ((s.furrow f).serves = true → (s.furrow f).targetUp b = true →
      2 * dayNs ≤ elapsed (s.furrow f).ns (((s.furrow f).bist.lastDone.find? fun p => p.1 = b).map (·.2) |>.getD 0) →
      ∃ t, exec (.bistLate f b) s = .next t ∧ (t.furrow f).bist.late = true ∧ (t.furrow f).err.seq = (s.furrow f).err.seq + 1 ∧
        s.onlyFurrow f t ∧ t.mems = s.mems) ∧
    ((s.furrow f).targetUp b = false → exec (.bistLate f b) s = .next s) ∧
    ∀ slack ro : List W16,
      ((s.furrow f).boundaryDue = false ∨ slack.length < 8 → exec (.marginReplan f slack ro) s = .next s) ∧
      ((s.furrow f).serves = true → (s.furrow f).boundaryDue = true → 8 ≤ slack.length →
        (s.furrow f).age.lastNs = 0 ∨ dayNs ≤ elapsed (s.furrow f).ns (s.furrow f).age.lastNs →
        ∃ t, exec (.marginReplan f slack ro) s = .next t ∧ (t.furrow f).age.lastNs = (s.furrow f).ns ∧ t.host = s.host ∧ t.mems = s.mems ∧
          ((s.furrow f).tight slack 0 = false → (t.furrow f).health.vofs = (s.furrow f).health.vofs ∧
            (t.furrow f).health.clocks = (s.furrow f).health.clocks ∧ (t.furrow f).pwr = (s.furrow f).pwr)) ∧
      ((s.furrow f).age.lastNs ≠ 0 → elapsed (s.furrow f).ns (s.furrow f).age.lastNs < dayNs →
        exec (.marginReplan f slack ro) s = .next s)

/-! ### Power, buses and reset (chapter 20) -/

/-- The core rail of a furrow that runs: a frame that fails three times marks the link at fault, with an error record, and lets the last
confirmed voltage stand, until the regulator answers; a sample falls due each 100 µs; a rail out of range for 1 ms is a fault, with an error
record, that throttles to level 15; and VR_EN is asserted from reset with main power, with the link at fault when the regulator does not
answer (R441, R442, R444). -/
def Obligations.CoreRailIsWatched : Prop :=
  ∀ (f : FurrowIx) (answers : Bool) (mv da : W16) (s : State),
    ((s.furrow f).alive = true → (s.furrow f).pwr.vrEn = true → (s.furrow f).pwr.avsFault = false →
      ∃ t, exec (.avsFrameFail f) s = .next t ∧ (t.furrow f).pwr = { (s.furrow f).pwr with avsFault := true, reqMv := (s.furrow f).pwr.confMv } ∧
        (t.furrow f).err.seq = (s.furrow f).err.seq + 1 ∧ s.onlyFurrow f t ∧ t.mems = s.mems ∧
        exec (.avsPoll f true) t = .next (t.setFurrow f ((t.furrow f).modPwr fun p => { p with avsFault := false }))) ∧
    ((s.furrow f).alive = false ∨ (s.furrow f).pwr.avsFault = true → exec (.avsFrameFail f) s = .next s) ∧
    ((s.furrow f).pwr.avsFault = false → exec (.avsPoll f answers) s = .next s) ∧
    ((s.furrow f).alive = true → (s.furrow f).pwr.vrEn = true →
      ((s.furrow f).pwr.nextSample.toNat ≤ (s.furrow f).ns.toNat → exec (.coreRailSample f mv da) s = .next (s.setFurrow f ((s.furrow f).modPwr fun p =>
        p.sampled mv da (s.furrow f).ns))) ∧
      ((s.furrow f).ns.toNat < (s.furrow f).pwr.nextSample.toNat → exec (.coreRailSample f mv da) s = .next s)) ∧
    ((s.furrow f).alive = true → (s.furrow f).pwr.railFault = false →
      (lasting (s.furrow f).ns (s.furrow f).pwr.outSince 1000000 = true → ∃ t, exec (.railFault f) s = .next t ∧
        (t.furrow f).pwr = { (s.furrow f).pwr with railFault := true, level := 15 } ∧ (t.furrow f).err.seq = (s.furrow f).err.seq + 1 ∧
        s.onlyFurrow f t ∧ t.mems = s.mems) ∧
      (lasting (s.furrow f).ns (s.furrow f).pwr.outSince 1000000 = false → exec (.railFault f) s = .next s)) ∧
    ((s.furrow f).life = .reset → (s.furrow f).pwr.vrEn = false → s.hdl.mainPower = true →
      exec (.vrEnAssert f true) s = .next (s.setFurrow f ((s.furrow f).modPwr fun p =>
        { p with vrEn := true, reqMv := (s.furrow f).coreRequest f, confMv := (s.furrow f).coreRequest f, avsFault := false })) ∧
      exec (.vrEnAssert f false) s = .next (s.setFurrow f ((s.furrow f).modPwr fun p =>
        { p with vrEn := true, reqMv := (s.furrow f).coreRequest f, avsFault := true }))) ∧
    ((s.furrow f).life ≠ .reset ∨ (s.furrow f).pwr.vrEn = true ∨ s.hdl.mainPower = false → exec (.vrEnAssert f answers) s = .next s)

/-- The module's buses and lands: a regulator that is polled and answers gives its reading, one that reports a fault fires PF0 vector 1, and one
that does not answer three times is STALE; an alert fires once, and a second one before the next poll is an event of the furrows in service; a
bus that is held low marks its regulator STALE; an output that does not follow its pin is remembered while it is driven and forgotten when it
is good again; a short on a furrow's VR_EN takes a furrow that runs offline, one on HDL_VR_EN the host port; a short PERST# has no effect on
the module but its record in the furrows in service (R443, R457, R459, R460, R469). -/
def Obligations.ModuleBusesAndLands : Prop :=
  ∀ (k : Fin 4) (f : FurrowIx) (s : State),
    (s.hdl.polls k = false → ∀ a, exec (.pmbusPoll k a) s = .next s ∧ exec (.pmbusStale k) s = .next s) ∧
    (s.hdl.polls k = true →
      exec (.pmbusPoll k none) s = .next { s with hdl := { s.hdl with pmbSince := s.hdl.pmbSince.set k (s.hdl.pmbSince[k] + 1), alert := false } } ∧
      (∀ x : PmbReading,
        let d := { s.hdl with
          alert := false, pmbSince := s.hdl.pmbSince.set k 0,
          pmb := s.hdl.pmb.set k { voutMv := x.voutMv, ioutDa := x.ioutDa, temp := x.temp, status := x.status, stale := false } }
        exec (.pmbusPoll k (some x)) s = .next { s with hdl := if x.status = 0 then d else { d with msix := d.msix.set 1 (d.msix[1].fire 0 none) } }) ∧
      (3 ≤ s.hdl.pmbSince[k] → exec (.pmbusStale k) s = .next { s with hdl := { s.hdl with pmb := s.hdl.pmb.set k { s.hdl.pmb[k] with stale := true } } }) ∧
      (s.hdl.pmbSince[k] < 3 → exec (.pmbusStale k) s = .next s)) ∧
    (s.hdl.failed = true ∨ s.hdl.perst = true → exec .pmbAlert s = .next s) ∧
    (s.hdl.failed = false → s.hdl.perst = false → s.hdl.alert = false →
      exec .pmbAlert s = .next { s with hdl := { s.hdl with alert := true, msix := s.hdl.msix.set 1 (s.hdl.msix[1].fire 0 none) } }) ∧
    (s.hdl.failed = false → s.hdl.perst = false → s.hdl.alert = true →
      ∃ t, exec .pmbAlert s = .next t ∧ t.hdl = s.hdl ∧ t.host = s.host ∧ t.mems = s.mems ∧
        ∀ g : FurrowIx, t.furrow g = if (s.furrow g).serves then (s.furrow g).raiseLand 0x06 (inputEvent 0x06) else s.furrow g) ∧
    (s.hdl.failed = true → ∀ b c, exec (.busHeldLow b c) s = .next s) ∧
    (s.hdl.failed = false → (∀ c, ∃ t, exec (.busHeldLow (.pmbus k) c) s = .next t ∧ t.hdl.pmb[k].stale = true ∧ t.host = s.host ∧ t.mems = s.mems) ∧
      ∀ g c, ∃ t, exec (.busHeldLow (.i3c g) c) s = .next t ∧ t.hdl = s.hdl ∧ t.host = s.host ∧ t.mems = s.mems) ∧
    exec (.sidebandShort .attn false) s = .next { s with hdl := { s.hdl with attnShort := s.hdl.attnShort || s.hdl.attn } } ∧
    exec (.sidebandShort .attn true) s = .next { s with hdl := { s.hdl with attnShort := false } } ∧
    exec (.sidebandShort .thermtrip false) s = .next { s with hdl := { s.hdl with tripShort := s.hdl.tripShort || s.hdl.thermtrip } } ∧
    exec (.sidebandShort .thermtrip true) s = .next { s with hdl := { s.hdl with tripShort := false } } ∧
    exec (.sidebandShort .hdlVrEn false) s = .next { s with hdl := { s.hdl with portUp := false } } ∧
    exec (.sidebandShort .hdlVrEn true) s = .next s ∧ exec (.sidebandShort (.vrEn f) true) s = .next s ∧
    ((s.furrow f).life = .reset → exec (.sidebandShort (.vrEn f) false) s = .next (s.setFurrow f ((s.furrow f).modPwr fun p => { p with vrEn := false }))) ∧
    ((s.furrow f).alive = true → ∃ t, exec (.sidebandShort (.vrEn f) false) s = .next t ∧ (t.furrow f).life = .lost) ∧
    (s.hdl.perst = true ∨ s.hdl.failed = true → exec .perstFiltered s = .next s) ∧
    (s.hdl.perst = false → s.hdl.failed = false → ∃ t, exec .perstFiltered s = .next t ∧ t.hdl = s.hdl ∧ t.host = s.host ∧ t.mems = s.mems ∧
      ∀ g : FurrowIx, t.furrow g = if (s.furrow g).serves then (s.furrow g).raiseLand 0x01 (inputEvent 0x01) else s.furrow g)

/-- Throttling and trips of a furrow that runs: an evaluation falls due each 100 µs and moves the level one step by R458's comparison, or
leaves it at 15 while the rail is at fault; a reading over its trip limit takes the furrow offline with cause 0x10, its VR_EN released, and,
unless the headland has failed, THERMTRIP_N asserted; a headland that has not failed trips at 115 °C (R456–R458). -/
def Obligations.ThrottlingAndTrips : Prop :=
  ∀ (f : FurrowIx) (m : ThermalReading) (s : State),
    ((s.furrow f).alive = false ∨ (s.furrow f).ns.toNat < (s.furrow f).pwr.nextEval.toNat → exec (.throttleEval f m) s = .next s) ∧
    ((s.furrow f).alive = true → (s.furrow f).pwr.nextEval.toNat ≤ (s.furrow f).ns.toNat →
      ∃ t, exec (.throttleEval f m) s = .next t ∧ (t.furrow f).pwr.nextEval = (s.furrow f).ns + 100000 ∧
        (t.furrow f).pwr.powerW = m.powerW ∧ (t.furrow f).pwr.tjMax = m.tj ∧ t.host = s.host ∧ t.mems = s.mems ∧
        (∀ g : FurrowIx, g ≠ f → t.furrow g = s.furrow g) ∧
        ((s.furrow f).pwr.railFault = true → (t.furrow f).pwr.level = 15) ∧
        ((s.furrow f).pwr.railFault = false →
          ((s.furrow f).pwr.limitW.toNat < m.powerW.toNat ∨ (s.furrow f).pwr.tThrottle.toNat ≤ m.tj.toNat ∨ 95 ≤ m.hbm.toNat →
            (t.furrow f).pwr.level.toNat = min ((s.furrow f).pwr.level.toNat + 1) 15) ∧
          (m.powerW.toNat + 20 < (s.furrow f).pwr.limitW.toNat → m.tj.toNat + 3 < (s.furrow f).pwr.tThrottle.toNat → m.hbm.toNat < 95 →
            (t.furrow f).pwr.level.toNat = (s.furrow f).pwr.level.toNat - 1) ∧
          (m.powerW.toNat ≤ (s.furrow f).pwr.limitW.toNat → (s.furrow f).pwr.limitW.toNat ≤ m.powerW.toNat + 20 →
            m.tj.toNat < (s.furrow f).pwr.tThrottle.toNat → m.hbm.toNat < 95 → (t.furrow f).pwr.level = (s.furrow f).pwr.level))) ∧
    (m.tj.toNat < 115 → m.hbm.toNat < 105 → exec (.thermalTrip f m) s = .next s) ∧
    (115 ≤ m.tj.toNat ∨ 105 ≤ m.hbm.toNat → (s.furrow f).alive = true →
      ∃ t, exec (.thermalTrip f m) s = .next t ∧ (t.furrow f).life = .lost ∧ (t.furrow f).lossCause = some 0x10 ∧ (t.furrow f).pwr.vrEn = false ∧
        (s.hdl.failed = false → t.hdl.thermtrip = true ∧ t.hdl.tripMap.getLsbD f.val = true ∧ t.hdl.lostMap.getLsbD f.val = true)) ∧
    ∀ tj : Byte,
      (s.hdl.failed = true ∨ tj.toNat < 115 → exec (.headlandTrip tj) s = .next s) ∧
      (s.hdl.failed = false → 115 ≤ tj.toNat → exec (.headlandTrip tj) s = .next { s with hdl := { s.hdl with
        tj := tj, portUp := false, thermtrip := true, hdlVrEn := false, hdlTripped := true, failed := true } })

/-- Power and PERST#: power-up leaves every furrow in RESET and PERST# asserted; when power goes every memory of the furrows is lost and no
fuse is; an assertion of PERST# holds every furrow in RESET and keeps their memories; on release each furrow with its rail up boots if its PLL
locks, and else stays with PLL_FAIL set; a furrow whose rail is not up stays as it is; each has no effect where it has happened already
(R444–R447). -/
def Obligations.PowerAndPerst : Prop :=
  ∀ s : State,
    (s.hdl.vaux = true → exec .powerUp s = .next s) ∧
    (s.hdl.vaux = false → ∃ t, exec .powerUp s = .next t ∧ t.mems = s.mems ∧ t.fuses = s.fuses ∧ t.host = s.host ∧ t.hdl.vaux = true ∧
      t.hdl.mainPower = true ∧ t.hdl.perst = true ∧ ∀ f : FurrowIx, (t.furrow f).life = .reset ∧ (t.furrow f).ns = 0 ∧ (t.furrow f).reqs = []) ∧
    (s.hdl.vaux = false → exec .powerLoss s = .next s) ∧
    (s.hdl.vaux = true → ∃ t, exec .powerLoss s = .next t ∧ t.fuses = s.fuses ∧ t.host = s.host ∧ t.hdl.vaux = false ∧ t.hdl.perst = true ∧
      ∀ f : FurrowIx, (t.furrow f).life = .reset ∧
        ∀ a : Nat, (t.mem (.hbm f)).get a = 0 ∧ (t.mem (.t1 f)).get a = 0 ∧ (t.mem (.t0 f)).get a = 0) ∧
    (s.hdl.perst = true ∨ s.hdl.vaux = false → exec .perstAssert s = .next s) ∧
    (s.hdl.perst = false → s.hdl.vaux = true → ∃ t, exec .perstAssert s = .next t ∧ t.mems = s.mems ∧ t.fuses = s.fuses ∧ t.host = s.host ∧
      t.hdl = s.hdl.held ∧ t.hdl.perst = true ∧ ∀ f : FurrowIx, t.furrow f = (s.furrow f).resetFor f false ∧ (t.furrow f).life = .reset ∧
        (t.furrow f).pwr.vrEn = false) ∧
    ∀ locked : Byte,
      (s.hdl.perst = false ∨ s.hdl.mainPower = false → exec (.perstRelease locked) s = .next s) ∧
      (s.hdl.perst = true → s.hdl.mainPower = true → ∃ t, exec (.perstRelease locked) s = .next t ∧ t.mems = s.mems ∧ t.fuses = s.fuses ∧
        t.host = s.host ∧ t.hdl.perst = false ∧ ∀ f : FurrowIx,
          ((s.furrow f).pwr.vrEn = false ∨ (s.furrow f).pwr.avsFault = true → t.furrow f = s.furrow f) ∧
          ((s.furrow f).pwr.vrEn = true → (s.furrow f).pwr.avsFault = false →
            (locked.getLsbD f.val = true → (t.furrow f).life = .boot) ∧
            (locked.getLsbD f.val = false → t.furrow f = (s.furrow f).modPwr fun p => { p with pllFail := true })))

/-- The reset of one furrow and its boot, by a host port that carries it: a function-level reset touches no other furrow, no memory, and of
the headland its shadow of that furrow alone; the furrow boots if its PLL locks, and else stays in RESET with PLL_FAIL set; the clear of HBM leaves it zero, lifts its lock and ends
SCRUB_PENDING; and a boot without error or lock ends READY or DEGRADED with its bit of LOST_MAP clear (R389, R400, R445, R448, R449). A reset
of PF0 leaves every furrow and memory as it is and resets the headland's management registers (R31). -/
def Obligations.FurrowResetAndBoot : Prop :=
  ∀ (f : FurrowIx) (bad : BitVec 4) (s : State),
    (s.hdl.perst = true ∨ s.hdl.mainPower = false ∨ s.hdl.portUp = false ∨ s.hdl.failed = true → ∀ b, exec (.furrowReset f b) s = .next s) ∧
    (s.hdl.perst = false → s.hdl.mainPower = true → s.hdl.portUp = true → s.hdl.failed = false →
      (∃ t, exec (.furrowReset f true) s = .next t ∧ s.onlyFurrow f { t with hdl := s.hdl } ∧ t.mems = s.mems ∧
        t.hdl = { s.hdl with shadowId := s.hdl.shadowId.set f t.hdl.shadowId[f], shadowState := s.hdl.shadowState.set f t.hdl.shadowState[f] } ∧
        (t.furrow f).life = .boot ∧ (t.furrow f).reqs = [] ∧
        (t.furrow f).ns = 0) ∧
      ∃ t, exec (.furrowReset f false) s = .next t ∧ s.onlyFurrow f { t with hdl := s.hdl } ∧ t.mems = s.mems ∧
        t.hdl = { s.hdl with shadowId := s.hdl.shadowId.set f t.hdl.shadowId[f], shadowState := s.hdl.shadowState.set f t.hdl.shadowState[f] } ∧
        (t.furrow f).life = .reset ∧
        (t.furrow f).pwr.pllFail = true) ∧
    ((s.furrow f).life ≠ .boot ∨ (s.furrow f).sec.hbmLocked = false → exec (.hbmClearDone f) s = .next s) ∧
    ((s.furrow f).life = .boot → (s.furrow f).sec.hbmLocked = true → ∃ t, exec (.hbmClearDone f) s = .next t ∧ s.onlyFurrow f t ∧
      (∀ a : Nat, (t.mem (.hbm f)).get a = 0) ∧ t.mem (.t1 f) = s.mem (.t1 f) ∧ t.mem (.t0 f) = s.mem (.t0 f) ∧
      (t.furrow f).sec.hbmLocked = false ∧ (t.furrow f).sec.scrubPending = false) ∧
    ((s.furrow f).life ≠ .boot ∨ (s.furrow f).sec.bootError ≠ 0 ∨ (s.furrow f).sec.hbmLocked = true → exec (.furrowReady f bad) s = .next s) ∧
    ((s.furrow f).life = .boot → (s.furrow f).sec.bootError = 0 → (s.furrow f).sec.hbmLocked = false →
      ∃ t, exec (.furrowReady f bad) s = .next t ∧ ((t.furrow f).life = .ready ∨ (t.furrow f).life = .degraded) ∧
        (t.furrow f).pwr.selfRefresh = 0 ∧ t.host = s.host ∧ t.mems = s.mems ∧
        (s.hdl.failed = false → t.hdl.lostMap.getLsbD f.val = false)) ∧
    (s.hdl.portUp = false ∨ s.hdl.failed = true → exec .pf0Flr s = .next s) ∧
    (s.hdl.portUp = true → s.hdl.failed = false → ∃ t, exec .pf0Flr s = .next t ∧ t.fur = s.fur ∧ t.mems = s.mems ∧ t.fuses = s.fuses ∧
      t.host = s.host ∧ t.hdl.lostMap = s.hdl.lostMap ∧ t.hdl.replaceMap = s.hdl.replaceMap ∧ t.hdl.msix = Headland.initial.msix ∧
      t.hdl.fault = false ∧ t.hdl.pmbAddr = 0)
end

