-- ==== Sys2Proof/Laws/Memory.lean ====
section
/-! SUPPORT. Laws of the sparse memories: what a byte reads as after a store, and that every memory operation keeps the canonical
form. -/

namespace Sys2Proof.Machine

/-! ### Reading after storing -/

theorem Mem.get_set_same (m : Mem) (a : Nat) (v : Byte) (hm : m.wf = true) : (m.set a v).get a = v := by
  suffices h : ∀ (m : Mem) (lo : Option Nat), Mem.wfFrom lo m = true → (m.set a v).get a = v from h m none hm
  intro m
  induction m with
  | nil => intro lo _; by_cases hv : v = 0#8 <;> simp [Mem.set, Mem.get, hv]
  | cons c rest ih =>
    intro lo h
    obtain ⟨k, b⟩ := c
    simp only [Mem.wfFrom, Bool.and_eq_true] at h
    have hge : ∀ (r : Mem) (l : Nat), Mem.wfFrom (some l) r = true → a ≤ l → r.get a = 0 := by
      intro r
      induction r with
      | nil => intro l _ _; rfl
      | cons d r ihr =>
        intro l hr hl
        obtain ⟨k', b'⟩ := d
        simp only [Mem.wfFrom, Bool.and_eq_true, decide_eq_true_eq] at hr
        have : k' ≠ a := by omega
        simp only [Mem.get, this, if_false]
        exact ihr k' hr.2 (by omega)
    unfold Mem.set
    by_cases h1 : a < k
    · by_cases hv : v = 0#8
      · have : k ≠ a := by omega
        subst hv
        simpa [h1, Mem.get, this] using hge rest k h.2 (by omega)
      · simp [h1, hv, Mem.get]
    · by_cases h2 : a = k
      · by_cases hv : v = 0#8
        · subst h2
          subst hv
          simpa using hge rest a h.2 (le_refl _)
        · subst h2; simp [hv, Mem.get]
      · have h3 : k ≠ a := fun e => h2 e.symm
        simp only [h1, h2, if_false, Mem.get, h3]
        exact ih (some k) h.2

theorem Mem.get_set_other (m : Mem) (a b : Nat) (v : Byte) (h : b ≠ a) : (m.set a v).get b = m.get b := by
  induction m with
  | nil => by_cases hv : v = 0#8 <;> simp [Mem.set, Mem.get, hv, Ne.symm h]
  | cons c rest ih =>
    obtain ⟨k, x⟩ := c
    unfold Mem.set
    by_cases h1 : a < k
    · by_cases hv : v = 0#8 <;> simp [h1, hv, Mem.get, Ne.symm h]
    · by_cases h2 : a = k
      · subst h2
        by_cases hv : v = 0#8 <;> simp [hv, Mem.get, Ne.symm h]
      · simp only [h1, h2, if_false, Mem.get]
        rw [ih]

/-! ### The canonical form -/

/-- A lower bound may be lowered. -/
theorem Mem.wfFrom_lower (m : Mem) (lo : Option Nat) (h : Mem.wfFrom lo m = true) (lo' : Option Nat)
    (hl : ∀ l', lo' = some l' → ∃ l, lo = some l ∧ l' ≤ l) : Mem.wfFrom lo' m = true := by
  cases m with
  | nil => rfl
  | cons c rest =>
    obtain ⟨k, b⟩ := c
    simp only [Mem.wfFrom, Bool.and_eq_true] at h ⊢
    refine ⟨⟨?_, h.1.2⟩, h.2⟩
    cases hlo : lo' with
    | none => rfl
    | some l' =>
      obtain ⟨l, hl, hle⟩ := hl l' hlo
      have := h.1.1
      rw [hl] at this
      simp only [decide_eq_true_eq] at this ⊢
      omega

theorem Mem.wfFrom_none (m : Mem) (lo : Option Nat) (h : Mem.wfFrom lo m = true) : m.wf = true :=
  Mem.wfFrom_lower m lo h none (by simp)

theorem Mem.wfFrom_set (m : Mem) (a : Nat) (v : Byte) :
    ∀ lo, Mem.wfFrom lo m = true → (∀ l, lo = some l → l < a) → Mem.wfFrom lo (m.set a v) = true := by
  induction m with
  | nil =>
    intro lo _ hl
    by_cases hv : v = 0#8
    · simp [Mem.set, hv, Mem.wfFrom]
    · cases lo with
      | none => simp [Mem.set, hv, Mem.wfFrom]
      | some l => simp [Mem.set, hv, Mem.wfFrom, hl l rfl]
  | cons c rest ih =>
    intro lo h hl
    obtain ⟨k, b⟩ := c
    have hc := h
    simp only [Mem.wfFrom, Bool.and_eq_true] at h
    unfold Mem.set
    by_cases h1 : a < k
    · by_cases hv : v = 0#8
      · simpa [h1, hv] using hc
      · have hb := h.1.2
        cases lo with
        | none => simpa [Mem.wfFrom, hv, h1, h.2] using hb
        | some l => simpa [Mem.wfFrom, hv, h1, h.2, hl l rfl] using hb
    · by_cases h2 : a = k
      · subst h2
        by_cases hv : v = 0#8
        · simp only [h1, hv, if_true, if_false]
          exact Mem.wfFrom_lower rest (some a) h.2 lo fun l e => ⟨a, rfl, Nat.le_of_lt (hl l e)⟩
        · simp only [h1, hv, if_true, if_false]
          simp [Mem.wfFrom, h.1.1, hv, h.2]
      · simp only [h1, h2, if_false]
        simp only [Mem.wfFrom, Bool.and_eq_true]
        exact ⟨h.1, ih (some k) h.2 (by intro l e; cases e; omega)⟩

theorem Mem.wf_nil : Mem.wf [] = true := rfl

/-- Storing one byte keeps the canonical form. -/
theorem Mem.wf_set (m : Mem) (a : Nat) (v : Byte) (h : m.wf = true) : (m.set a v).wf = true :=
  Mem.wfFrom_set m a v none h (by simp)

/-- Storing bytes keeps the canonical form. -/
theorem Mem.wf_write (bs : List Byte) : ∀ (m : Mem) (a : Nat), m.wf = true → (m.write a bs).wf = true := by
  induction bs with
  | nil => intro m a h; exact h
  | cons b bs ih => intro m a h; exact ih _ _ (Mem.wf_set m a b h)

theorem Mem.wfFrom_filter (p : Host.Cell → Bool) (m : Mem) :
    ∀ lo, Mem.wfFrom lo m = true → Mem.wfFrom lo (m.filter p) = true := by
  induction m with
  | nil => intro lo h; exact h
  | cons c rest ih =>
    intro lo h
    obtain ⟨k, b⟩ := c
    simp only [Mem.wfFrom, Bool.and_eq_true] at h
    by_cases hp : p (k, b) = true
    · simp only [List.filter_cons, hp, if_true, Mem.wfFrom, Bool.and_eq_true]
      exact ⟨h.1, ih _ h.2⟩
    · simp only [List.filter_cons, hp]
      have := ih _ h.2
      refine Mem.wfFrom_lower _ (some k) this lo fun l e => ⟨k, rfl, ?_⟩
      have h1 := h.1.1
      rw [e] at h1
      simp only [decide_eq_true_eq] at h1
      omega

/-- Replacing a range keeps the canonical form. -/
theorem Mem.wf_paste (m : Mem) (a n : Nat) (img : List Host.Cell) (h : m.wf = true) : (m.paste a n img).wf = true := by
  unfold Mem.paste
  have base : Mem.wf (m.filter fun c => !decide (a ≤ c.1 ∧ c.1 < a + n)) = true := Mem.wfFrom_filter _ m none h
  generalize (m.filter fun c => !decide (a ≤ c.1 ∧ c.1 < a + n)) = m₀ at base
  generalize (img.filter fun c => decide (c.1 < n)) = xs
  induction xs generalizing m₀ with
  | nil => exact base
  | cons x xs ih => exact ih _ (Mem.wf_set _ _ _ base)

/-! ### Ranges -/

theorem Mem.get_write_outside (bs : List Byte) :
    ∀ (m : Mem) (a b : Nat), (b < a ∨ a + bs.length ≤ b) → (m.write a bs).get b = m.get b := by
  induction bs with
  | nil => intro m a b _; rfl
  | cons x bs ih =>
    intro m a b h
    simp only [List.length_cons] at h
    show (Mem.write (m.set a x) (a + 1) bs).get b = m.get b
    rw [ih _ _ _ (by omega), Mem.get_set_other _ _ _ _ (by omega)]

theorem Mem.get_write_inside (bs : List Byte) :
    ∀ (m : Mem) (a i : Nat), m.wf = true → (hi : i < bs.length) → (m.write a bs).get (a + i) = bs[i] := by
  induction bs with
  | nil => intro m a i _ hi; simp at hi
  | cons x bs ih =>
    intro m a i hm hi
    show (Mem.write (m.set a x) (a + 1) bs).get (a + i) = _
    cases i with
    | zero =>
      rw [Mem.get_write_outside _ _ _ _ (by omega)]
      simpa using Mem.get_set_same m a x hm
    | succ i =>
      have := ih (m.set a x) (a + 1) i (Mem.wf_set m a x hm) (by simpa using hi)
      simpa [Nat.add_assoc, Nat.add_comm 1 i] using this

/-- The bytes of a range read back as they were stored. -/
theorem Mem.read_write_same (m : Mem) (a : Nat) (bs : List Byte) (hm : m.wf = true) :
    (m.write a bs).read a bs.length = bs := by
  unfold Mem.read
  apply List.ext_getElem
  · simp
  · intro i h1 h2
    simp only [List.getElem_map, List.getElem_range]
    exact Mem.get_write_inside bs m a i hm h2

@[simp] theorem Mem.length_read (m : Mem) (a n : Nat) : (m.read a n).length = n := by simp [Mem.read]

@[simp] theorem leBytes_length (n : Nat) : ∀ v, (leBytes n v).length = n := by
  induction n with
  | zero => intro v; rfl
  | succ n ih => intro v; simp [leBytes, ih]

/-- A number read back from its bytes, cut to their width. -/
theorem leNat_leBytes (n : Nat) : ∀ v, leNat (leBytes n v) = v % 256 ^ n := by
  induction n with
  | zero => intro v; simp [leBytes, leNat, Nat.mod_one]
  | succ n ih =>
    intro v
    simp only [leBytes, leNat, ih, BitVec.toNat_ofNat]
    rw [show (256 : Nat) ^ (n + 1) = 256 * 256 ^ n by ring, Nat.mod_mul]

end Sys2Proof.Machine
end

