-- ==== Sys2Proof/Laws/State.lean ====
section
/-! SUPPORT. What each update of State leaves in each of its fields. -/

namespace Sys2Proof.Machine

/-! ### The control part of a furrow -/

@[simp] theorem State.setFurrow_host (s : State) (f : FurrowIx) (c : Furrow) : (s.setFurrow f c).host = s.host := rfl

@[simp] theorem State.setFurrow_mems (s : State) (f : FurrowIx) (c : Furrow) : (s.setFurrow f c).mems = s.mems := rfl

@[simp] theorem State.setFurrow_fuses (s : State) (f : FurrowIx) (c : Furrow) : (s.setFurrow f c).fuses = s.fuses := rfl

@[simp] theorem State.setFurrow_hdl (s : State) (f : FurrowIx) (c : Furrow) : (s.setFurrow f c).hdl = s.hdl := rfl

@[simp] theorem State.setFurrow_fresh (s : State) (f : FurrowIx) (c : Furrow) : (s.setFurrow f c).fresh = s.fresh := rfl

@[simp] theorem State.setFurrow_pending (s : State) (f : FurrowIx) (c : Furrow) : (s.setFurrow f c).pending = s.pending := rfl

@[simp] theorem State.setFurrow_fur (s : State) (f : FurrowIx) (c : Furrow) : (s.setFurrow f c).fur = s.fur.set f c := rfl

@[simp] theorem State.furrow_setFurrow_same (s : State) (f : FurrowIx) (c : Furrow) : (s.setFurrow f c).furrow f = c := by
  simp [State.furrow, State.setFurrow]

theorem State.furrow_setFurrow_other (s : State) (f g : FurrowIx) (c : Furrow) (h : g ≠ f) :
    (s.setFurrow f c).furrow g = s.furrow g := by
  have : f.val ≠ g.val := fun e => h (Fin.ext e.symm)
  simp [State.furrow, State.setFurrow, Vector.getElem_set, this]

@[simp] theorem State.setFurrow_mem (s : State) (f : FurrowIx) (c : Furrow) (sp : Space) : (s.setFurrow f c).mem sp = s.mem sp := by
  cases sp <;> rfl

/-! ### A memory -/

@[simp] theorem State.setMem_fuses (s : State) (sp : Space) (m : Mem) : (s.setMem sp m).fuses = s.fuses := by cases sp <;> rfl

@[simp] theorem State.setMem_fur (s : State) (sp : Space) (m : Mem) : (s.setMem sp m).fur = s.fur := by cases sp <;> rfl

@[simp] theorem State.setMem_hdl (s : State) (sp : Space) (m : Mem) : (s.setMem sp m).hdl = s.hdl := by cases sp <;> rfl

@[simp] theorem State.setMem_fresh (s : State) (sp : Space) (m : Mem) : (s.setMem sp m).fresh = s.fresh := by cases sp <;> rfl

@[simp] theorem State.setMem_pending (s : State) (sp : Space) (m : Mem) : (s.setMem sp m).pending = s.pending := by cases sp <;> rfl

@[simp] theorem State.setMem_furrow (s : State) (sp : Space) (m : Mem) (f : FurrowIx) : (s.setMem sp m).furrow f = s.furrow f := by
  cases sp <;> rfl

@[simp] theorem State.mem_setMem_same (s : State) (sp : Space) (m : Mem) : (s.setMem sp m).mem sp = m := by
  cases sp <;> simp [State.mem, State.setMem]

theorem State.mem_setMem_other (s : State) (sp sq : Space) (m : Mem) (h : sq ≠ sp) : (s.setMem sp m).mem sq = s.mem sq := by
  cases sp with
  | host => cases sq <;> first | rfl | exact absurd rfl h
  | hbm f => cases sq with
    | host => rfl
    | hbm g =>
      have : f.val ≠ g.val := fun e => h (by rw [Fin.ext e])
      simp [State.mem, State.setMem, Vector.getElem_set, this]
    | t1 g => by_cases e : f.val = g.val <;> simp [State.mem, State.setMem, Vector.getElem_set, e]
    | t0 g => by_cases e : f.val = g.val <;> simp [State.mem, State.setMem, Vector.getElem_set, e]
  | t1 f => cases sq with
    | host => rfl
    | t1 g =>
      have : f.val ≠ g.val := fun e => h (by rw [Fin.ext e])
      simp [State.mem, State.setMem, Vector.getElem_set, this]
    | hbm g => by_cases e : f.val = g.val <;> simp [State.mem, State.setMem, Vector.getElem_set, e]
    | t0 g => by_cases e : f.val = g.val <;> simp [State.mem, State.setMem, Vector.getElem_set, e]
  | t0 f => cases sq with
    | host => rfl
    | t0 g =>
      have : f.val ≠ g.val := fun e => h (by rw [Fin.ext e])
      simp [State.mem, State.setMem, Vector.getElem_set, this]
    | hbm g => by_cases e : f.val = g.val <;> simp [State.mem, State.setMem, Vector.getElem_set, e]
    | t1 g => by_cases e : f.val = g.val <;> simp [State.mem, State.setMem, Vector.getElem_set, e]

/-! ### Acts -/

@[simp] theorem Act.apply_pending (s : State) (a : Act) : (a.apply s).pending = s.pending := by cases a <;> simp [Act.apply]

@[simp] theorem Act.headland_host (s : State) (d : Headland) : (Act.apply s (.headland d)).host = s.host := rfl

@[simp] theorem Act.headland_mems (s : State) (d : Headland) : (Act.apply s (.headland d)).mems = s.mems := rfl

@[simp] theorem Act.headland_fuses (s : State) (d : Headland) : (Act.apply s (.headland d)).fuses = s.fuses := rfl

@[simp] theorem Act.headland_fur (s : State) (d : Headland) : (Act.apply s (.headland d)).fur = s.fur := rfl

@[simp] theorem Act.headland_fresh (s : State) (d : Headland) : (Act.apply s (.headland d)).fresh = s.fresh := rfl

@[simp] theorem Act.headland_pending (s : State) (d : Headland) : (Act.apply s (.headland d)).pending = s.pending := rfl

@[simp] theorem Act.headland_furrow (s : State) (d : Headland) (g : FurrowIx) : (Act.apply s (.headland d)).furrow g = s.furrow g := rfl

@[simp] theorem Act.headland_mem (s : State) (d : Headland) (sp : Space) : (Act.apply s (.headland d)).mem sp = s.mem sp := by cases sp <;> rfl

@[simp] theorem Act.burn_host (s : State) (f : FurrowIx) (x : Fuses) : (Act.apply s (.burn f x)).host = s.host := rfl

@[simp] theorem Act.burn_mems (s : State) (f : FurrowIx) (x : Fuses) : (Act.apply s (.burn f x)).mems = s.mems := rfl

@[simp] theorem Act.burn_fur (s : State) (f : FurrowIx) (x : Fuses) : (Act.apply s (.burn f x)).fur = s.fur := rfl

@[simp] theorem Act.burn_hdl (s : State) (f : FurrowIx) (x : Fuses) : (Act.apply s (.burn f x)).hdl = s.hdl := rfl

@[simp] theorem Act.burn_fresh (s : State) (f : FurrowIx) (x : Fuses) : (Act.apply s (.burn f x)).fresh = s.fresh := rfl

@[simp] theorem Act.burn_pending (s : State) (f : FurrowIx) (x : Fuses) : (Act.apply s (.burn f x)).pending = s.pending := rfl

@[simp] theorem Act.burn_furrow (s : State) (f : FurrowIx) (x : Fuses) (g : FurrowIx) : (Act.apply s (.burn f x)).furrow g = s.furrow g := rfl

@[simp] theorem Act.burn_mem (s : State) (f : FurrowIx) (x : Fuses) (sp : Space) : (Act.apply s (.burn f x)).mem sp = s.mem sp := by cases sp <;> rfl

@[simp] theorem Act.draw_host (s : State) (n : Nat) : (Act.apply s (.draw n)).host = s.host := rfl

@[simp] theorem Act.draw_mems (s : State) (n : Nat) : (Act.apply s (.draw n)).mems = s.mems := rfl

@[simp] theorem Act.draw_fuses (s : State) (n : Nat) : (Act.apply s (.draw n)).fuses = s.fuses := rfl

@[simp] theorem Act.draw_fur (s : State) (n : Nat) : (Act.apply s (.draw n)).fur = s.fur := rfl

@[simp] theorem Act.draw_hdl (s : State) (n : Nat) : (Act.apply s (.draw n)).hdl = s.hdl := rfl

@[simp] theorem Act.draw_pending (s : State) (n : Nat) : (Act.apply s (.draw n)).pending = s.pending := rfl

@[simp] theorem Act.draw_furrow (s : State) (n : Nat) (g : FurrowIx) : (Act.apply s (.draw n)).furrow g = s.furrow g := rfl

@[simp] theorem Act.draw_mem (s : State) (n : Nat) (sp : Space) : (Act.apply s (.draw n)).mem sp = s.mem sp := by cases sp <;> rfl

@[simp] theorem Act.headland_hdl (s : State) (d : Headland) : (Act.apply s (.headland d)).hdl = d := rfl

@[simp] theorem Act.draw_fresh (s : State) (n : Nat) : (Act.apply s (.draw n)).fresh = s.fresh + n := rfl

end Sys2Proof.Machine
end

