-- ==== Sys2Proof/Laws/Acts.lean ====
section
/-! SUPPORT. What a run of acts can do and cannot: the queue stands, fuses only gain bits, memories keep their canonical form, and
free values are only drawn; and what each act of a run leaves where. -/

namespace Sys2Proof.Machine

variable {s₀ : State}

/-! ### One act -/

theorem Fuses.within_refl (x : Fuses) : x.within x := by simp [Fuses.within, Fuses.burn]

theorem Fuses.within_burn (x y : Fuses) : x.within (x.burn y) := by
  simp [Fuses.within, Fuses.burn, ← BitVec.or_assoc]

theorem Fuses.within_trans (x y z : Fuses) (h : x.within y) (k : y.within z) : x.within z := by
  unfold Fuses.within Fuses.burn at *
  cases x; cases y; cases z
  simp only [Fuses.mk.injEq] at *
  obtain ⟨a1, a2, a3, a4, a5⟩ := h
  obtain ⟨b1, b2, b3, b4, b5⟩ := k
  refine ⟨?_, ?_, ?_, ?_, ?_⟩
  · rw [← b1, ← BitVec.or_assoc, a1]
  · rw [← b2, ← BitVec.or_assoc, a2]
  · rw [← b3, ← BitVec.or_assoc, a3]
  · rw [← b4, ← BitVec.or_assoc, a4]
  · rw [← b5, ← BitVec.or_assoc, a5]

theorem State.fusesKept_refl (s : State) : s.fusesKept s := fun _ => Fuses.within_refl _

theorem State.fusesKept_trans (s t u : State) (h : s.fusesKept t) (k : t.fusesKept u) : s.fusesKept u :=
  fun f => Fuses.within_trans _ _ _ (h f) (k f)

/-- An act only adds bits to fuses. -/
theorem Act.apply_fusesKept (s : State) (a : Act) : s.fusesKept (a.apply s) := by
  intro f
  cases a with
  | burn g x =>
    by_cases h : g = f
    · subst h; simpa [Act.apply] using Fuses.within_burn _ _
    · have : g.val ≠ f.val := fun e => h (Fin.ext e)
      simpa [Act.apply, this] using Fuses.within_refl _
  | _ => simpa [Act.apply] using Fuses.within_refl _

/-- An act keeps every memory in canonical form. -/
theorem Act.apply_canonical (s : State) (a : Act) (h : s.canonical) : (a.apply s).canonical := by
  intro sq
  have key : ∀ (sp : Space) (m : Mem), m.wf = true → ((s.setMem sp m).mem sq).wf = true := by
    intro sp m hm
    by_cases e : sq = sp
    · subst e; simpa using hm
    · rw [State.mem_setMem_other _ _ _ _ e]; exact h sq
  cases a with
  | write sp a bs => exact key sp _ (Mem.wf_write _ _ _ (h sp))
  | paste sp a n img => exact key sp _ (Mem.wf_paste _ _ _ _ (h sp))
  | wipe sp => exact key sp _ Mem.wf_nil
  | furrow f c => simpa [Act.apply] using h sq
  | headland d => simpa using h sq
  | burn f x => simpa using h sq
  | draw n => simpa using h sq

theorem Act.apply_fresh (s : State) (a : Act) : s.fresh ≤ (a.apply s).fresh := by
  cases a <;> simp [Act.apply]

/-! ### Every state that acts lead to -/

theorem Reached.pending {s t : State} (h : Reached s t) : t.pending = s.pending := by
  induction h with
  | start => rfl
  | act _ a ih => simpa using ih

theorem Reached.fusesKept {s t : State} (h : Reached s t) : s.fusesKept t := by
  induction h with
  | start => exact s.fusesKept_refl
  | act _ a ih => exact State.fusesKept_trans _ _ _ ih (Act.apply_fusesKept _ a)

theorem Reached.canonical {s t : State} (h : Reached s t) (hs : s.canonical) : t.canonical := by
  induction h with
  | start => exact hs
  | act _ a ih => exact Act.apply_canonical _ a ih

theorem Reached.fresh {s t : State} (h : Reached s t) : s.fresh ≤ t.fresh := by
  induction h with
  | start => exact le_refl _
  | act _ a ih => exact le_trans ih (Act.apply_fresh _ a)

/-- Whatever a run has done, its answer is the state it has come to. -/
@[simp] theorem Run.done_next (r : Run s₀) : r.done = .next r.now := rfl

theorem Run.done_reached (r : Run s₀) (t : State) (h : r.done = .next t) : Reached s₀ t := by
  cases h; exact r.from_

/-! ### What each act of a run leaves -/

@[simp] theorem Run.start_now (s : State) : (Run.start s).now = s := rfl

@[simp] theorem Run.act_now (r : Run s₀) (a : Act) : (r.act a).now = a.apply r.now := rfl

@[simp] theorem Run.setFur_now (r : Run s₀) (f : FurrowIx) (c : Furrow) : (r.setFur f c).now = r.now.setFurrow f c := rfl

@[simp] theorem Run.modFur_now (r : Run s₀) (f : FurrowIx) (g : Furrow → Furrow) :
    (r.modFur f g).now = r.now.setFurrow f (g (r.now.furrow f)) := rfl

@[simp] theorem Run.modHdl_now (r : Run s₀) (g : Headland → Headland) :
    (r.modHdl g).now = { r.now with hdl := g r.now.hdl } := rfl

@[simp] theorem Run.write_now (r : Run s₀) (sp : Space) (a : Nat) (bs : List Byte) :
    (r.write sp a bs).now = r.now.setMem sp ((r.now.mem sp).write a bs) := rfl

@[simp] theorem Run.paste_now (r : Run s₀) (sp : Space) (a n : Nat) (img : List Host.Cell) :
    (r.paste sp a n img).now = r.now.setMem sp ((r.now.mem sp).paste a n img) := rfl

@[simp] theorem Run.zero_now (r : Run s₀) (sp : Space) (a n : Nat) :
    (r.zero sp a n).now = r.now.setMem sp ((r.now.mem sp).paste a n []) := rfl

@[simp] theorem Run.free_now (r : Run s₀) : r.free.2.now = { r.now with fresh := r.now.fresh + 1 } := rfl

@[simp] theorem Run.freeBytes_now (r : Run s₀) (n : Nat) : (r.freeBytes n).2.now = { r.now with fresh := r.now.fresh + n } := rfl

@[simp] theorem Run.fur_eq (r : Run s₀) (f : FurrowIx) : r.fur f = r.now.furrow f := rfl

@[simp] theorem Run.read_eq (r : Run s₀) (sp : Space) (a n : Nat) : r.read sp a n = (r.now.mem sp).read a n := rfl

@[simp] theorem Run.when_true (r : Run s₀) (g : Run s₀ → Run s₀) : r.when true g = g r := rfl

@[simp] theorem Run.when_false (r : Run s₀) (g : Run s₀ → Run s₀) : r.when false g = r := rfl

@[simp] theorem Run.each_nil {α : Type} (r : Run s₀) (g : Run s₀ → α → Run s₀) : r.each [] g = r := rfl

@[simp] theorem Run.each_cons {α : Type} (r : Run s₀) (x : α) (xs : List α) (g : Run s₀ → α → Run s₀) :
    r.each (x :: xs) g = (g r x).each xs g := rfl

/-! ### Replacing a furrow's part twice -/

@[simp] theorem State.setFurrow_setFurrow (s : State) (f : FurrowIx) (c d : Furrow) :
    (s.setFurrow f c).setFurrow f d = s.setFurrow f d := by
  simp [State.setFurrow]

@[simp] theorem State.setFurrow_self (s : State) (f : FurrowIx) : s.setFurrow f (s.furrow f) = s := by
  cases s; simp [State.setFurrow, State.furrow]

/-! ### A furrow's parts -/

@[simp] theorem Furrow.modCtx_same (c : Furrow) (h : Handle) (g : Context → Context) : (c.modCtx h g).ctx[h] = g c.ctx[h] := by
  simp [Furrow.modCtx]

theorem Furrow.modCtx_other (c : Furrow) (h k : Handle) (g : Context → Context) (hk : k ≠ h) : (c.modCtx h g).ctx[k] = c.ctx[k] := by
  have : h.val ≠ k.val := fun e => hk (Fin.ext e.symm)
  simp [Furrow.modCtx, this]

theorem Request.isOf_iff (q : Request) (h : Handle) (tag : Tag) :
    q.isOf h tag = true ↔ q.h = h ∧ q.tag = tag ∧ q.isBox = decide (tag = boxTag) := by
  simp [Request.isOf, and_assoc]

theorem modFirst_find (qs : List Request) (h : Handle) (tag : Tag) (g : Request → Request) (q : Request)
    (hq : qs.find? (fun q => q.isOf h tag) = some q) (hg : (g q).isOf h tag = true) :
    (modFirst qs h tag g).find? (fun q => q.isOf h tag) = some (g q) := by
  induction qs with
  | nil => simp at hq
  | cons x xs ih =>
    unfold modFirst
    by_cases hx : x.isOf h tag = true
    · simp only [List.find?_cons, hx] at hq
      cases hq
      simp [hx, hg]
    · simp only [List.find?_cons, hx] at hq
      simpa [hx] using ih hq

/-- A changed request is found as it was changed, as long as it stays the same request. -/
theorem Furrow.request?_modReq (c : Furrow) (h : Handle) (tag : Tag) (g : Request → Request) (q : Request)
    (hq : c.request? h tag = some q) (hg : (g q).isOf h tag = true) : (c.modReq h tag g).request? h tag = some (g q) :=
  modFirst_find c.reqs h tag g q hq hg

/-- A request that is found is the one asked for. -/
theorem Furrow.request?_is (c : Furrow) (h : Handle) (tag : Tag) (q : Request) (hq : c.request? h tag = some q) :
    q.h = h ∧ q.tag = tag ∧ q.isBox = decide (tag = boxTag) := by
  unfold Furrow.request? at hq
  exact (q.isOf_iff h tag).1 (by simpa using List.find?_some hq)

end Sys2Proof.Machine
end

