-- ==== Sys2Proof/Laws/Furrow.lean ====
section
/-! SUPPORT. What a change of one part of a furrow leaves in each of the furrow's fields. -/

namespace Sys2Proof.Machine

/-! ### modCtx -/

@[simp] theorem Furrow.modCtx_life (c : Furrow) (h : Handle) (g : Context → Context) : (c.modCtx h g).life = c.life := (rfl)

@[simp] theorem Furrow.modCtx_ns (c : Furrow) (h : Handle) (g : Context → Context) : (c.modCtx h g).ns = c.ns := (rfl)

@[simp] theorem Furrow.modCtx_refCycle (c : Furrow) (h : Handle) (g : Context → Context) : (c.modCtx h g).refCycle = c.refCycle := (rfl)

@[simp] theorem Furrow.modCtx_pasidEn (c : Furrow) (h : Handle) (g : Context → Context) : (c.modCtx h g).pasidEn = c.pasidEn := (rfl)

@[simp] theorem Furrow.modCtx_latches (c : Furrow) (h : Handle) (g : Context → Context) : (c.modCtx h g).latches = c.latches := (rfl)

@[simp] theorem Furrow.modCtx_boundaryDue (c : Furrow) (h : Handle) (g : Context → Context) : (c.modCtx h g).boundaryDue = c.boundaryDue := (rfl)

@[simp] theorem Furrow.modCtx_quanta (c : Furrow) (h : Handle) (g : Context → Context) : (c.modCtx h g).quanta = c.quanta := (rfl)

@[simp] theorem Furrow.modCtx_t1Owner (c : Furrow) (h : Handle) (g : Context → Context) : (c.modCtx h g).t1Owner = c.t1Owner := (rfl)

@[simp] theorem Furrow.modCtx_reqs (c : Furrow) (h : Handle) (g : Context → Context) : (c.modCtx h g).reqs = c.reqs := (rfl)

@[simp] theorem Furrow.modCtx_order (c : Furrow) (h : Handle) (g : Context → Context) : (c.modCtx h g).order = c.order := (rfl)

@[simp] theorem Furrow.modCtx_cores (c : Furrow) (h : Handle) (g : Context → Context) : (c.modCtx h g).cores = c.cores := (rfl)

@[simp] theorem Furrow.modCtx_texts (c : Furrow) (h : Handle) (g : Context → Context) : (c.modCtx h g).texts = c.texts := (rfl)

@[simp] theorem Furrow.modCtx_msix (c : Furrow) (h : Handle) (g : Context → Context) : (c.modCtx h g).msix = c.msix := (rfl)

@[simp] theorem Furrow.modCtx_err (c : Furrow) (h : Handle) (g : Context → Context) : (c.modCtx h g).err = c.err := (rfl)

@[simp] theorem Furrow.modCtx_bist (c : Furrow) (h : Handle) (g : Context → Context) : (c.modCtx h g).bist = c.bist := (rfl)

@[simp] theorem Furrow.modCtx_health (c : Furrow) (h : Handle) (g : Context → Context) : (c.modCtx h g).health = c.health := (rfl)

@[simp] theorem Furrow.modCtx_healthA (c : Furrow) (h : Handle) (g : Context → Context) : (c.modCtx h g).healthA = c.healthA := (rfl)

@[simp] theorem Furrow.modCtx_healthB (c : Furrow) (h : Handle) (g : Context → Context) : (c.modCtx h g).healthB = c.healthB := (rfl)

@[simp] theorem Furrow.modCtx_recordFail (c : Furrow) (h : Handle) (g : Context → Context) : (c.modCtx h g).recordFail = c.recordFail := (rfl)

@[simp] theorem Furrow.modCtx_counts (c : Furrow) (h : Handle) (g : Context → Context) : (c.modCtx h g).counts = c.counts := (rfl)

@[simp] theorem Furrow.modCtx_age (c : Furrow) (h : Handle) (g : Context → Context) : (c.modCtx h g).age = c.age := (rfl)

@[simp] theorem Furrow.modCtx_pwr (c : Furrow) (h : Handle) (g : Context → Context) : (c.modCtx h g).pwr = c.pwr := (rfl)

@[simp] theorem Furrow.modCtx_cal (c : Furrow) (h : Handle) (g : Context → Context) : (c.modCtx h g).cal = c.cal := (rfl)

@[simp] theorem Furrow.modCtx_sec (c : Furrow) (h : Handle) (g : Context → Context) : (c.modCtx h g).sec = c.sec := (rfl)

@[simp] theorem Furrow.modCtx_tally (c : Furrow) (h : Handle) (g : Context → Context) : (c.modCtx h g).tally = c.tally := (rfl)

@[simp] theorem Furrow.modCtx_grn (c : Furrow) (h : Handle) (g : Context → Context) : (c.modCtx h g).grn = c.grn := (rfl)

@[simp] theorem Furrow.modCtx_pyr (c : Furrow) (h : Handle) (g : Context → Context) : (c.modCtx h g).pyr = c.pyr := (rfl)

@[simp] theorem Furrow.modCtx_srch (c : Furrow) (h : Handle) (g : Context → Context) : (c.modCtx h g).srch = c.srch := (rfl)

@[simp] theorem Furrow.modCtx_tbl (c : Furrow) (h : Handle) (g : Context → Context) : (c.modCtx h g).tbl = c.tbl := (rfl)

@[simp] theorem Furrow.modCtx_attached (c : Furrow) (h : Handle) (g : Context → Context) : (c.modCtx h g).attached = c.attached := (rfl)

@[simp] theorem Furrow.modCtx_winEn (c : Furrow) (h : Handle) (g : Context → Context) : (c.modCtx h g).winEn = c.winEn := (rfl)

@[simp] theorem Furrow.modCtx_winSize (c : Furrow) (h : Handle) (g : Context → Context) : (c.modCtx h g).winSize = c.winSize := (rfl)

@[simp] theorem Furrow.modCtx_windows (c : Furrow) (h : Handle) (g : Context → Context) : (c.modCtx h g).windows = c.windows := (rfl)

@[simp] theorem Furrow.modCtx_toks (c : Furrow) (h : Handle) (g : Context → Context) : (c.modCtx h g).toks = c.toks := (rfl)

@[simp] theorem Furrow.modCtx_tokStatus (c : Furrow) (h : Handle) (g : Context → Context) : (c.modCtx h g).tokStatus = c.tokStatus := (rfl)

@[simp] theorem Furrow.modCtx_plans (c : Furrow) (h : Handle) (g : Context → Context) : (c.modCtx h g).plans = c.plans := (rfl)

@[simp] theorem Furrow.modCtx_ptOffset (c : Furrow) (h : Handle) (g : Context → Context) : (c.modCtx h g).ptOffset = c.ptOffset := (rfl)

@[simp] theorem Furrow.modCtx_ptLog (c : Furrow) (h : Handle) (g : Context → Context) : (c.modCtx h g).ptLog = c.ptLog := (rfl)

@[simp] theorem Furrow.modCtx_ptPaused (c : Furrow) (h : Handle) (g : Context → Context) : (c.modCtx h g).ptPaused = c.ptPaused := (rfl)

@[simp] theorem Furrow.modCtx_steps (c : Furrow) (h : Handle) (g : Context → Context) : (c.modCtx h g).steps = c.steps := (rfl)

@[simp] theorem Furrow.modCtx_peers (c : Furrow) (h : Handle) (g : Context → Context) : (c.modCtx h g).peers = c.peers := (rfl)

@[simp] theorem Furrow.modCtx_halfImages (c : Furrow) (h : Handle) (g : Context → Context) : (c.modCtx h g).halfImages = c.halfImages := (rfl)

@[simp] theorem Furrow.modCtx_lastSweep (c : Furrow) (h : Handle) (g : Context → Context) : (c.modCtx h g).lastSweep = c.lastSweep := (rfl)

@[simp] theorem Furrow.modCtx_lastWindow (c : Furrow) (h : Handle) (g : Context → Context) : (c.modCtx h g).lastWindow = c.lastWindow := (rfl)

@[simp] theorem Furrow.modCtx_lossCause (c : Furrow) (h : Handle) (g : Context → Context) : (c.modCtx h g).lossCause = c.lossCause := (rfl)

/-! ### modRings -/

@[simp] theorem Furrow.modRings_life (c : Furrow) (h : Handle) (g : Rings → Rings) : (c.modRings h g).life = c.life := (rfl)

@[simp] theorem Furrow.modRings_ns (c : Furrow) (h : Handle) (g : Rings → Rings) : (c.modRings h g).ns = c.ns := (rfl)

@[simp] theorem Furrow.modRings_refCycle (c : Furrow) (h : Handle) (g : Rings → Rings) : (c.modRings h g).refCycle = c.refCycle := (rfl)

@[simp] theorem Furrow.modRings_pasidEn (c : Furrow) (h : Handle) (g : Rings → Rings) : (c.modRings h g).pasidEn = c.pasidEn := (rfl)

@[simp] theorem Furrow.modRings_latches (c : Furrow) (h : Handle) (g : Rings → Rings) : (c.modRings h g).latches = c.latches := (rfl)

@[simp] theorem Furrow.modRings_boundaryDue (c : Furrow) (h : Handle) (g : Rings → Rings) : (c.modRings h g).boundaryDue = c.boundaryDue := (rfl)

@[simp] theorem Furrow.modRings_quanta (c : Furrow) (h : Handle) (g : Rings → Rings) : (c.modRings h g).quanta = c.quanta := (rfl)

@[simp] theorem Furrow.modRings_t1Owner (c : Furrow) (h : Handle) (g : Rings → Rings) : (c.modRings h g).t1Owner = c.t1Owner := (rfl)

@[simp] theorem Furrow.modRings_reqs (c : Furrow) (h : Handle) (g : Rings → Rings) : (c.modRings h g).reqs = c.reqs := (rfl)

@[simp] theorem Furrow.modRings_order (c : Furrow) (h : Handle) (g : Rings → Rings) : (c.modRings h g).order = c.order := (rfl)

@[simp] theorem Furrow.modRings_cores (c : Furrow) (h : Handle) (g : Rings → Rings) : (c.modRings h g).cores = c.cores := (rfl)

@[simp] theorem Furrow.modRings_texts (c : Furrow) (h : Handle) (g : Rings → Rings) : (c.modRings h g).texts = c.texts := (rfl)

@[simp] theorem Furrow.modRings_msix (c : Furrow) (h : Handle) (g : Rings → Rings) : (c.modRings h g).msix = c.msix := (rfl)

@[simp] theorem Furrow.modRings_err (c : Furrow) (h : Handle) (g : Rings → Rings) : (c.modRings h g).err = c.err := (rfl)

@[simp] theorem Furrow.modRings_bist (c : Furrow) (h : Handle) (g : Rings → Rings) : (c.modRings h g).bist = c.bist := (rfl)

@[simp] theorem Furrow.modRings_health (c : Furrow) (h : Handle) (g : Rings → Rings) : (c.modRings h g).health = c.health := (rfl)

@[simp] theorem Furrow.modRings_healthA (c : Furrow) (h : Handle) (g : Rings → Rings) : (c.modRings h g).healthA = c.healthA := (rfl)

@[simp] theorem Furrow.modRings_healthB (c : Furrow) (h : Handle) (g : Rings → Rings) : (c.modRings h g).healthB = c.healthB := (rfl)

@[simp] theorem Furrow.modRings_recordFail (c : Furrow) (h : Handle) (g : Rings → Rings) : (c.modRings h g).recordFail = c.recordFail := (rfl)

@[simp] theorem Furrow.modRings_counts (c : Furrow) (h : Handle) (g : Rings → Rings) : (c.modRings h g).counts = c.counts := (rfl)

@[simp] theorem Furrow.modRings_age (c : Furrow) (h : Handle) (g : Rings → Rings) : (c.modRings h g).age = c.age := (rfl)

@[simp] theorem Furrow.modRings_pwr (c : Furrow) (h : Handle) (g : Rings → Rings) : (c.modRings h g).pwr = c.pwr := (rfl)

@[simp] theorem Furrow.modRings_cal (c : Furrow) (h : Handle) (g : Rings → Rings) : (c.modRings h g).cal = c.cal := (rfl)

@[simp] theorem Furrow.modRings_sec (c : Furrow) (h : Handle) (g : Rings → Rings) : (c.modRings h g).sec = c.sec := (rfl)

@[simp] theorem Furrow.modRings_tally (c : Furrow) (h : Handle) (g : Rings → Rings) : (c.modRings h g).tally = c.tally := (rfl)

@[simp] theorem Furrow.modRings_grn (c : Furrow) (h : Handle) (g : Rings → Rings) : (c.modRings h g).grn = c.grn := (rfl)

@[simp] theorem Furrow.modRings_pyr (c : Furrow) (h : Handle) (g : Rings → Rings) : (c.modRings h g).pyr = c.pyr := (rfl)

@[simp] theorem Furrow.modRings_srch (c : Furrow) (h : Handle) (g : Rings → Rings) : (c.modRings h g).srch = c.srch := (rfl)

@[simp] theorem Furrow.modRings_tbl (c : Furrow) (h : Handle) (g : Rings → Rings) : (c.modRings h g).tbl = c.tbl := (rfl)

@[simp] theorem Furrow.modRings_attached (c : Furrow) (h : Handle) (g : Rings → Rings) : (c.modRings h g).attached = c.attached := (rfl)

@[simp] theorem Furrow.modRings_winEn (c : Furrow) (h : Handle) (g : Rings → Rings) : (c.modRings h g).winEn = c.winEn := (rfl)

@[simp] theorem Furrow.modRings_winSize (c : Furrow) (h : Handle) (g : Rings → Rings) : (c.modRings h g).winSize = c.winSize := (rfl)

@[simp] theorem Furrow.modRings_windows (c : Furrow) (h : Handle) (g : Rings → Rings) : (c.modRings h g).windows = c.windows := (rfl)

@[simp] theorem Furrow.modRings_toks (c : Furrow) (h : Handle) (g : Rings → Rings) : (c.modRings h g).toks = c.toks := (rfl)

@[simp] theorem Furrow.modRings_tokStatus (c : Furrow) (h : Handle) (g : Rings → Rings) : (c.modRings h g).tokStatus = c.tokStatus := (rfl)

@[simp] theorem Furrow.modRings_plans (c : Furrow) (h : Handle) (g : Rings → Rings) : (c.modRings h g).plans = c.plans := (rfl)

@[simp] theorem Furrow.modRings_ptOffset (c : Furrow) (h : Handle) (g : Rings → Rings) : (c.modRings h g).ptOffset = c.ptOffset := (rfl)

@[simp] theorem Furrow.modRings_ptLog (c : Furrow) (h : Handle) (g : Rings → Rings) : (c.modRings h g).ptLog = c.ptLog := (rfl)

@[simp] theorem Furrow.modRings_ptPaused (c : Furrow) (h : Handle) (g : Rings → Rings) : (c.modRings h g).ptPaused = c.ptPaused := (rfl)

@[simp] theorem Furrow.modRings_steps (c : Furrow) (h : Handle) (g : Rings → Rings) : (c.modRings h g).steps = c.steps := (rfl)

@[simp] theorem Furrow.modRings_peers (c : Furrow) (h : Handle) (g : Rings → Rings) : (c.modRings h g).peers = c.peers := (rfl)

@[simp] theorem Furrow.modRings_halfImages (c : Furrow) (h : Handle) (g : Rings → Rings) : (c.modRings h g).halfImages = c.halfImages := (rfl)

@[simp] theorem Furrow.modRings_lastSweep (c : Furrow) (h : Handle) (g : Rings → Rings) : (c.modRings h g).lastSweep = c.lastSweep := (rfl)

@[simp] theorem Furrow.modRings_lastWindow (c : Furrow) (h : Handle) (g : Rings → Rings) : (c.modRings h g).lastWindow = c.lastWindow := (rfl)

@[simp] theorem Furrow.modRings_lossCause (c : Furrow) (h : Handle) (g : Rings → Rings) : (c.modRings h g).lossCause = c.lossCause := (rfl)

/-! ### modErr -/

@[simp] theorem Furrow.modErr_life (c : Furrow) (g : ErrRing → ErrRing) : (c.modErr g).life = c.life := (rfl)

@[simp] theorem Furrow.modErr_ns (c : Furrow) (g : ErrRing → ErrRing) : (c.modErr g).ns = c.ns := (rfl)

@[simp] theorem Furrow.modErr_refCycle (c : Furrow) (g : ErrRing → ErrRing) : (c.modErr g).refCycle = c.refCycle := (rfl)

@[simp] theorem Furrow.modErr_pasidEn (c : Furrow) (g : ErrRing → ErrRing) : (c.modErr g).pasidEn = c.pasidEn := (rfl)

@[simp] theorem Furrow.modErr_latches (c : Furrow) (g : ErrRing → ErrRing) : (c.modErr g).latches = c.latches := (rfl)

@[simp] theorem Furrow.modErr_boundaryDue (c : Furrow) (g : ErrRing → ErrRing) : (c.modErr g).boundaryDue = c.boundaryDue := (rfl)

@[simp] theorem Furrow.modErr_quanta (c : Furrow) (g : ErrRing → ErrRing) : (c.modErr g).quanta = c.quanta := (rfl)

@[simp] theorem Furrow.modErr_ctx (c : Furrow) (g : ErrRing → ErrRing) : (c.modErr g).ctx = c.ctx := (rfl)

@[simp] theorem Furrow.modErr_t1Owner (c : Furrow) (g : ErrRing → ErrRing) : (c.modErr g).t1Owner = c.t1Owner := (rfl)

@[simp] theorem Furrow.modErr_reqs (c : Furrow) (g : ErrRing → ErrRing) : (c.modErr g).reqs = c.reqs := (rfl)

@[simp] theorem Furrow.modErr_order (c : Furrow) (g : ErrRing → ErrRing) : (c.modErr g).order = c.order := (rfl)

@[simp] theorem Furrow.modErr_cores (c : Furrow) (g : ErrRing → ErrRing) : (c.modErr g).cores = c.cores := (rfl)

@[simp] theorem Furrow.modErr_texts (c : Furrow) (g : ErrRing → ErrRing) : (c.modErr g).texts = c.texts := (rfl)

@[simp] theorem Furrow.modErr_msix (c : Furrow) (g : ErrRing → ErrRing) : (c.modErr g).msix = c.msix := (rfl)

@[simp] theorem Furrow.modErr_err (c : Furrow) (g : ErrRing → ErrRing) : (c.modErr g).err = g c.err := (rfl)

@[simp] theorem Furrow.modErr_bist (c : Furrow) (g : ErrRing → ErrRing) : (c.modErr g).bist = c.bist := (rfl)

@[simp] theorem Furrow.modErr_health (c : Furrow) (g : ErrRing → ErrRing) : (c.modErr g).health = c.health := (rfl)

@[simp] theorem Furrow.modErr_healthA (c : Furrow) (g : ErrRing → ErrRing) : (c.modErr g).healthA = c.healthA := (rfl)

@[simp] theorem Furrow.modErr_healthB (c : Furrow) (g : ErrRing → ErrRing) : (c.modErr g).healthB = c.healthB := (rfl)

@[simp] theorem Furrow.modErr_recordFail (c : Furrow) (g : ErrRing → ErrRing) : (c.modErr g).recordFail = c.recordFail := (rfl)

@[simp] theorem Furrow.modErr_counts (c : Furrow) (g : ErrRing → ErrRing) : (c.modErr g).counts = c.counts := (rfl)

@[simp] theorem Furrow.modErr_age (c : Furrow) (g : ErrRing → ErrRing) : (c.modErr g).age = c.age := (rfl)

@[simp] theorem Furrow.modErr_pwr (c : Furrow) (g : ErrRing → ErrRing) : (c.modErr g).pwr = c.pwr := (rfl)

@[simp] theorem Furrow.modErr_cal (c : Furrow) (g : ErrRing → ErrRing) : (c.modErr g).cal = c.cal := (rfl)

@[simp] theorem Furrow.modErr_sec (c : Furrow) (g : ErrRing → ErrRing) : (c.modErr g).sec = c.sec := (rfl)

@[simp] theorem Furrow.modErr_tally (c : Furrow) (g : ErrRing → ErrRing) : (c.modErr g).tally = c.tally := (rfl)

@[simp] theorem Furrow.modErr_grn (c : Furrow) (g : ErrRing → ErrRing) : (c.modErr g).grn = c.grn := (rfl)

@[simp] theorem Furrow.modErr_pyr (c : Furrow) (g : ErrRing → ErrRing) : (c.modErr g).pyr = c.pyr := (rfl)

@[simp] theorem Furrow.modErr_srch (c : Furrow) (g : ErrRing → ErrRing) : (c.modErr g).srch = c.srch := (rfl)

@[simp] theorem Furrow.modErr_tbl (c : Furrow) (g : ErrRing → ErrRing) : (c.modErr g).tbl = c.tbl := (rfl)

@[simp] theorem Furrow.modErr_attached (c : Furrow) (g : ErrRing → ErrRing) : (c.modErr g).attached = c.attached := (rfl)

@[simp] theorem Furrow.modErr_winEn (c : Furrow) (g : ErrRing → ErrRing) : (c.modErr g).winEn = c.winEn := (rfl)

@[simp] theorem Furrow.modErr_winSize (c : Furrow) (g : ErrRing → ErrRing) : (c.modErr g).winSize = c.winSize := (rfl)

@[simp] theorem Furrow.modErr_windows (c : Furrow) (g : ErrRing → ErrRing) : (c.modErr g).windows = c.windows := (rfl)

@[simp] theorem Furrow.modErr_toks (c : Furrow) (g : ErrRing → ErrRing) : (c.modErr g).toks = c.toks := (rfl)

@[simp] theorem Furrow.modErr_tokStatus (c : Furrow) (g : ErrRing → ErrRing) : (c.modErr g).tokStatus = c.tokStatus := (rfl)

@[simp] theorem Furrow.modErr_plans (c : Furrow) (g : ErrRing → ErrRing) : (c.modErr g).plans = c.plans := (rfl)

@[simp] theorem Furrow.modErr_ptOffset (c : Furrow) (g : ErrRing → ErrRing) : (c.modErr g).ptOffset = c.ptOffset := (rfl)

@[simp] theorem Furrow.modErr_ptLog (c : Furrow) (g : ErrRing → ErrRing) : (c.modErr g).ptLog = c.ptLog := (rfl)

@[simp] theorem Furrow.modErr_ptPaused (c : Furrow) (g : ErrRing → ErrRing) : (c.modErr g).ptPaused = c.ptPaused := (rfl)

@[simp] theorem Furrow.modErr_steps (c : Furrow) (g : ErrRing → ErrRing) : (c.modErr g).steps = c.steps := (rfl)

@[simp] theorem Furrow.modErr_peers (c : Furrow) (g : ErrRing → ErrRing) : (c.modErr g).peers = c.peers := (rfl)

@[simp] theorem Furrow.modErr_halfImages (c : Furrow) (g : ErrRing → ErrRing) : (c.modErr g).halfImages = c.halfImages := (rfl)

@[simp] theorem Furrow.modErr_lastSweep (c : Furrow) (g : ErrRing → ErrRing) : (c.modErr g).lastSweep = c.lastSweep := (rfl)

@[simp] theorem Furrow.modErr_lastWindow (c : Furrow) (g : ErrRing → ErrRing) : (c.modErr g).lastWindow = c.lastWindow := (rfl)

@[simp] theorem Furrow.modErr_lossCause (c : Furrow) (g : ErrRing → ErrRing) : (c.modErr g).lossCause = c.lossCause := (rfl)

/-! ### modTally -/

@[simp] theorem Furrow.modTally_life (c : Furrow) (g : Tally → Tally) : (c.modTally g).life = c.life := (rfl)

@[simp] theorem Furrow.modTally_ns (c : Furrow) (g : Tally → Tally) : (c.modTally g).ns = c.ns := (rfl)

@[simp] theorem Furrow.modTally_refCycle (c : Furrow) (g : Tally → Tally) : (c.modTally g).refCycle = c.refCycle := (rfl)

@[simp] theorem Furrow.modTally_pasidEn (c : Furrow) (g : Tally → Tally) : (c.modTally g).pasidEn = c.pasidEn := (rfl)

@[simp] theorem Furrow.modTally_latches (c : Furrow) (g : Tally → Tally) : (c.modTally g).latches = c.latches := (rfl)

@[simp] theorem Furrow.modTally_boundaryDue (c : Furrow) (g : Tally → Tally) : (c.modTally g).boundaryDue = c.boundaryDue := (rfl)

@[simp] theorem Furrow.modTally_quanta (c : Furrow) (g : Tally → Tally) : (c.modTally g).quanta = c.quanta := (rfl)

@[simp] theorem Furrow.modTally_ctx (c : Furrow) (g : Tally → Tally) : (c.modTally g).ctx = c.ctx := (rfl)

@[simp] theorem Furrow.modTally_t1Owner (c : Furrow) (g : Tally → Tally) : (c.modTally g).t1Owner = c.t1Owner := (rfl)

@[simp] theorem Furrow.modTally_reqs (c : Furrow) (g : Tally → Tally) : (c.modTally g).reqs = c.reqs := (rfl)

@[simp] theorem Furrow.modTally_order (c : Furrow) (g : Tally → Tally) : (c.modTally g).order = c.order := (rfl)

@[simp] theorem Furrow.modTally_cores (c : Furrow) (g : Tally → Tally) : (c.modTally g).cores = c.cores := (rfl)

@[simp] theorem Furrow.modTally_texts (c : Furrow) (g : Tally → Tally) : (c.modTally g).texts = c.texts := (rfl)

@[simp] theorem Furrow.modTally_msix (c : Furrow) (g : Tally → Tally) : (c.modTally g).msix = c.msix := (rfl)

@[simp] theorem Furrow.modTally_err (c : Furrow) (g : Tally → Tally) : (c.modTally g).err = c.err := (rfl)

@[simp] theorem Furrow.modTally_bist (c : Furrow) (g : Tally → Tally) : (c.modTally g).bist = c.bist := (rfl)

@[simp] theorem Furrow.modTally_health (c : Furrow) (g : Tally → Tally) : (c.modTally g).health = c.health := (rfl)

@[simp] theorem Furrow.modTally_healthA (c : Furrow) (g : Tally → Tally) : (c.modTally g).healthA = c.healthA := (rfl)

@[simp] theorem Furrow.modTally_healthB (c : Furrow) (g : Tally → Tally) : (c.modTally g).healthB = c.healthB := (rfl)

@[simp] theorem Furrow.modTally_recordFail (c : Furrow) (g : Tally → Tally) : (c.modTally g).recordFail = c.recordFail := (rfl)

@[simp] theorem Furrow.modTally_counts (c : Furrow) (g : Tally → Tally) : (c.modTally g).counts = c.counts := (rfl)

@[simp] theorem Furrow.modTally_age (c : Furrow) (g : Tally → Tally) : (c.modTally g).age = c.age := (rfl)

@[simp] theorem Furrow.modTally_pwr (c : Furrow) (g : Tally → Tally) : (c.modTally g).pwr = c.pwr := (rfl)

@[simp] theorem Furrow.modTally_cal (c : Furrow) (g : Tally → Tally) : (c.modTally g).cal = c.cal := (rfl)

@[simp] theorem Furrow.modTally_sec (c : Furrow) (g : Tally → Tally) : (c.modTally g).sec = c.sec := (rfl)

@[simp] theorem Furrow.modTally_tally (c : Furrow) (g : Tally → Tally) : (c.modTally g).tally = g c.tally := (rfl)

@[simp] theorem Furrow.modTally_grn (c : Furrow) (g : Tally → Tally) : (c.modTally g).grn = c.grn := (rfl)

@[simp] theorem Furrow.modTally_pyr (c : Furrow) (g : Tally → Tally) : (c.modTally g).pyr = c.pyr := (rfl)

@[simp] theorem Furrow.modTally_srch (c : Furrow) (g : Tally → Tally) : (c.modTally g).srch = c.srch := (rfl)

@[simp] theorem Furrow.modTally_tbl (c : Furrow) (g : Tally → Tally) : (c.modTally g).tbl = c.tbl := (rfl)

@[simp] theorem Furrow.modTally_attached (c : Furrow) (g : Tally → Tally) : (c.modTally g).attached = c.attached := (rfl)

@[simp] theorem Furrow.modTally_winEn (c : Furrow) (g : Tally → Tally) : (c.modTally g).winEn = c.winEn := (rfl)

@[simp] theorem Furrow.modTally_winSize (c : Furrow) (g : Tally → Tally) : (c.modTally g).winSize = c.winSize := (rfl)

@[simp] theorem Furrow.modTally_windows (c : Furrow) (g : Tally → Tally) : (c.modTally g).windows = c.windows := (rfl)

@[simp] theorem Furrow.modTally_toks (c : Furrow) (g : Tally → Tally) : (c.modTally g).toks = c.toks := (rfl)

@[simp] theorem Furrow.modTally_tokStatus (c : Furrow) (g : Tally → Tally) : (c.modTally g).tokStatus = c.tokStatus := (rfl)

@[simp] theorem Furrow.modTally_plans (c : Furrow) (g : Tally → Tally) : (c.modTally g).plans = c.plans := (rfl)

@[simp] theorem Furrow.modTally_ptOffset (c : Furrow) (g : Tally → Tally) : (c.modTally g).ptOffset = c.ptOffset := (rfl)

@[simp] theorem Furrow.modTally_ptLog (c : Furrow) (g : Tally → Tally) : (c.modTally g).ptLog = c.ptLog := (rfl)

@[simp] theorem Furrow.modTally_ptPaused (c : Furrow) (g : Tally → Tally) : (c.modTally g).ptPaused = c.ptPaused := (rfl)

@[simp] theorem Furrow.modTally_steps (c : Furrow) (g : Tally → Tally) : (c.modTally g).steps = c.steps := (rfl)

@[simp] theorem Furrow.modTally_peers (c : Furrow) (g : Tally → Tally) : (c.modTally g).peers = c.peers := (rfl)

@[simp] theorem Furrow.modTally_halfImages (c : Furrow) (g : Tally → Tally) : (c.modTally g).halfImages = c.halfImages := (rfl)

@[simp] theorem Furrow.modTally_lastSweep (c : Furrow) (g : Tally → Tally) : (c.modTally g).lastSweep = c.lastSweep := (rfl)

@[simp] theorem Furrow.modTally_lastWindow (c : Furrow) (g : Tally → Tally) : (c.modTally g).lastWindow = c.lastWindow := (rfl)

@[simp] theorem Furrow.modTally_lossCause (c : Furrow) (g : Tally → Tally) : (c.modTally g).lossCause = c.lossCause := (rfl)

/-! ### modGrn -/

@[simp] theorem Furrow.modGrn_life (c : Furrow) (g : Granary → Granary) : (c.modGrn g).life = c.life := (rfl)

@[simp] theorem Furrow.modGrn_ns (c : Furrow) (g : Granary → Granary) : (c.modGrn g).ns = c.ns := (rfl)

@[simp] theorem Furrow.modGrn_refCycle (c : Furrow) (g : Granary → Granary) : (c.modGrn g).refCycle = c.refCycle := (rfl)

@[simp] theorem Furrow.modGrn_pasidEn (c : Furrow) (g : Granary → Granary) : (c.modGrn g).pasidEn = c.pasidEn := (rfl)

@[simp] theorem Furrow.modGrn_latches (c : Furrow) (g : Granary → Granary) : (c.modGrn g).latches = c.latches := (rfl)

@[simp] theorem Furrow.modGrn_boundaryDue (c : Furrow) (g : Granary → Granary) : (c.modGrn g).boundaryDue = c.boundaryDue := (rfl)

@[simp] theorem Furrow.modGrn_quanta (c : Furrow) (g : Granary → Granary) : (c.modGrn g).quanta = c.quanta := (rfl)

@[simp] theorem Furrow.modGrn_ctx (c : Furrow) (g : Granary → Granary) : (c.modGrn g).ctx = c.ctx := (rfl)

@[simp] theorem Furrow.modGrn_t1Owner (c : Furrow) (g : Granary → Granary) : (c.modGrn g).t1Owner = c.t1Owner := (rfl)

@[simp] theorem Furrow.modGrn_reqs (c : Furrow) (g : Granary → Granary) : (c.modGrn g).reqs = c.reqs := (rfl)

@[simp] theorem Furrow.modGrn_order (c : Furrow) (g : Granary → Granary) : (c.modGrn g).order = c.order := (rfl)

@[simp] theorem Furrow.modGrn_cores (c : Furrow) (g : Granary → Granary) : (c.modGrn g).cores = c.cores := (rfl)

@[simp] theorem Furrow.modGrn_texts (c : Furrow) (g : Granary → Granary) : (c.modGrn g).texts = c.texts := (rfl)

@[simp] theorem Furrow.modGrn_msix (c : Furrow) (g : Granary → Granary) : (c.modGrn g).msix = c.msix := (rfl)

@[simp] theorem Furrow.modGrn_err (c : Furrow) (g : Granary → Granary) : (c.modGrn g).err = c.err := (rfl)

@[simp] theorem Furrow.modGrn_bist (c : Furrow) (g : Granary → Granary) : (c.modGrn g).bist = c.bist := (rfl)

@[simp] theorem Furrow.modGrn_health (c : Furrow) (g : Granary → Granary) : (c.modGrn g).health = c.health := (rfl)

@[simp] theorem Furrow.modGrn_healthA (c : Furrow) (g : Granary → Granary) : (c.modGrn g).healthA = c.healthA := (rfl)

@[simp] theorem Furrow.modGrn_healthB (c : Furrow) (g : Granary → Granary) : (c.modGrn g).healthB = c.healthB := (rfl)

@[simp] theorem Furrow.modGrn_recordFail (c : Furrow) (g : Granary → Granary) : (c.modGrn g).recordFail = c.recordFail := (rfl)

@[simp] theorem Furrow.modGrn_counts (c : Furrow) (g : Granary → Granary) : (c.modGrn g).counts = c.counts := (rfl)

@[simp] theorem Furrow.modGrn_age (c : Furrow) (g : Granary → Granary) : (c.modGrn g).age = c.age := (rfl)

@[simp] theorem Furrow.modGrn_pwr (c : Furrow) (g : Granary → Granary) : (c.modGrn g).pwr = c.pwr := (rfl)

@[simp] theorem Furrow.modGrn_cal (c : Furrow) (g : Granary → Granary) : (c.modGrn g).cal = c.cal := (rfl)

@[simp] theorem Furrow.modGrn_sec (c : Furrow) (g : Granary → Granary) : (c.modGrn g).sec = c.sec := (rfl)

@[simp] theorem Furrow.modGrn_tally (c : Furrow) (g : Granary → Granary) : (c.modGrn g).tally = c.tally := (rfl)

@[simp] theorem Furrow.modGrn_grn (c : Furrow) (g : Granary → Granary) : (c.modGrn g).grn = g c.grn := (rfl)

@[simp] theorem Furrow.modGrn_pyr (c : Furrow) (g : Granary → Granary) : (c.modGrn g).pyr = c.pyr := (rfl)

@[simp] theorem Furrow.modGrn_srch (c : Furrow) (g : Granary → Granary) : (c.modGrn g).srch = c.srch := (rfl)

@[simp] theorem Furrow.modGrn_tbl (c : Furrow) (g : Granary → Granary) : (c.modGrn g).tbl = c.tbl := (rfl)

@[simp] theorem Furrow.modGrn_attached (c : Furrow) (g : Granary → Granary) : (c.modGrn g).attached = c.attached := (rfl)

@[simp] theorem Furrow.modGrn_winEn (c : Furrow) (g : Granary → Granary) : (c.modGrn g).winEn = c.winEn := (rfl)

@[simp] theorem Furrow.modGrn_winSize (c : Furrow) (g : Granary → Granary) : (c.modGrn g).winSize = c.winSize := (rfl)

@[simp] theorem Furrow.modGrn_windows (c : Furrow) (g : Granary → Granary) : (c.modGrn g).windows = c.windows := (rfl)

@[simp] theorem Furrow.modGrn_toks (c : Furrow) (g : Granary → Granary) : (c.modGrn g).toks = c.toks := (rfl)

@[simp] theorem Furrow.modGrn_tokStatus (c : Furrow) (g : Granary → Granary) : (c.modGrn g).tokStatus = c.tokStatus := (rfl)

@[simp] theorem Furrow.modGrn_plans (c : Furrow) (g : Granary → Granary) : (c.modGrn g).plans = c.plans := (rfl)

@[simp] theorem Furrow.modGrn_ptOffset (c : Furrow) (g : Granary → Granary) : (c.modGrn g).ptOffset = c.ptOffset := (rfl)

@[simp] theorem Furrow.modGrn_ptLog (c : Furrow) (g : Granary → Granary) : (c.modGrn g).ptLog = c.ptLog := (rfl)

@[simp] theorem Furrow.modGrn_ptPaused (c : Furrow) (g : Granary → Granary) : (c.modGrn g).ptPaused = c.ptPaused := (rfl)

@[simp] theorem Furrow.modGrn_steps (c : Furrow) (g : Granary → Granary) : (c.modGrn g).steps = c.steps := (rfl)

@[simp] theorem Furrow.modGrn_peers (c : Furrow) (g : Granary → Granary) : (c.modGrn g).peers = c.peers := (rfl)

@[simp] theorem Furrow.modGrn_halfImages (c : Furrow) (g : Granary → Granary) : (c.modGrn g).halfImages = c.halfImages := (rfl)

@[simp] theorem Furrow.modGrn_lastSweep (c : Furrow) (g : Granary → Granary) : (c.modGrn g).lastSweep = c.lastSweep := (rfl)

@[simp] theorem Furrow.modGrn_lastWindow (c : Furrow) (g : Granary → Granary) : (c.modGrn g).lastWindow = c.lastWindow := (rfl)

@[simp] theorem Furrow.modGrn_lossCause (c : Furrow) (g : Granary → Granary) : (c.modGrn g).lossCause = c.lossCause := (rfl)

/-! ### modPyr -/

@[simp] theorem Furrow.modPyr_life (c : Furrow) (g : Poryar → Poryar) : (c.modPyr g).life = c.life := (rfl)

@[simp] theorem Furrow.modPyr_ns (c : Furrow) (g : Poryar → Poryar) : (c.modPyr g).ns = c.ns := (rfl)

@[simp] theorem Furrow.modPyr_refCycle (c : Furrow) (g : Poryar → Poryar) : (c.modPyr g).refCycle = c.refCycle := (rfl)

@[simp] theorem Furrow.modPyr_pasidEn (c : Furrow) (g : Poryar → Poryar) : (c.modPyr g).pasidEn = c.pasidEn := (rfl)

@[simp] theorem Furrow.modPyr_latches (c : Furrow) (g : Poryar → Poryar) : (c.modPyr g).latches = c.latches := (rfl)

@[simp] theorem Furrow.modPyr_boundaryDue (c : Furrow) (g : Poryar → Poryar) : (c.modPyr g).boundaryDue = c.boundaryDue := (rfl)

@[simp] theorem Furrow.modPyr_quanta (c : Furrow) (g : Poryar → Poryar) : (c.modPyr g).quanta = c.quanta := (rfl)

@[simp] theorem Furrow.modPyr_ctx (c : Furrow) (g : Poryar → Poryar) : (c.modPyr g).ctx = c.ctx := (rfl)

@[simp] theorem Furrow.modPyr_t1Owner (c : Furrow) (g : Poryar → Poryar) : (c.modPyr g).t1Owner = c.t1Owner := (rfl)

@[simp] theorem Furrow.modPyr_reqs (c : Furrow) (g : Poryar → Poryar) : (c.modPyr g).reqs = c.reqs := (rfl)

@[simp] theorem Furrow.modPyr_order (c : Furrow) (g : Poryar → Poryar) : (c.modPyr g).order = c.order := (rfl)

@[simp] theorem Furrow.modPyr_cores (c : Furrow) (g : Poryar → Poryar) : (c.modPyr g).cores = c.cores := (rfl)

@[simp] theorem Furrow.modPyr_texts (c : Furrow) (g : Poryar → Poryar) : (c.modPyr g).texts = c.texts := (rfl)

@[simp] theorem Furrow.modPyr_msix (c : Furrow) (g : Poryar → Poryar) : (c.modPyr g).msix = c.msix := (rfl)

@[simp] theorem Furrow.modPyr_err (c : Furrow) (g : Poryar → Poryar) : (c.modPyr g).err = c.err := (rfl)

@[simp] theorem Furrow.modPyr_bist (c : Furrow) (g : Poryar → Poryar) : (c.modPyr g).bist = c.bist := (rfl)

@[simp] theorem Furrow.modPyr_health (c : Furrow) (g : Poryar → Poryar) : (c.modPyr g).health = c.health := (rfl)

@[simp] theorem Furrow.modPyr_healthA (c : Furrow) (g : Poryar → Poryar) : (c.modPyr g).healthA = c.healthA := (rfl)

@[simp] theorem Furrow.modPyr_healthB (c : Furrow) (g : Poryar → Poryar) : (c.modPyr g).healthB = c.healthB := (rfl)

@[simp] theorem Furrow.modPyr_recordFail (c : Furrow) (g : Poryar → Poryar) : (c.modPyr g).recordFail = c.recordFail := (rfl)

@[simp] theorem Furrow.modPyr_counts (c : Furrow) (g : Poryar → Poryar) : (c.modPyr g).counts = c.counts := (rfl)

@[simp] theorem Furrow.modPyr_age (c : Furrow) (g : Poryar → Poryar) : (c.modPyr g).age = c.age := (rfl)

@[simp] theorem Furrow.modPyr_pwr (c : Furrow) (g : Poryar → Poryar) : (c.modPyr g).pwr = c.pwr := (rfl)

@[simp] theorem Furrow.modPyr_cal (c : Furrow) (g : Poryar → Poryar) : (c.modPyr g).cal = c.cal := (rfl)

@[simp] theorem Furrow.modPyr_sec (c : Furrow) (g : Poryar → Poryar) : (c.modPyr g).sec = c.sec := (rfl)

@[simp] theorem Furrow.modPyr_tally (c : Furrow) (g : Poryar → Poryar) : (c.modPyr g).tally = c.tally := (rfl)

@[simp] theorem Furrow.modPyr_grn (c : Furrow) (g : Poryar → Poryar) : (c.modPyr g).grn = c.grn := (rfl)

@[simp] theorem Furrow.modPyr_pyr (c : Furrow) (g : Poryar → Poryar) : (c.modPyr g).pyr = g c.pyr := (rfl)

@[simp] theorem Furrow.modPyr_srch (c : Furrow) (g : Poryar → Poryar) : (c.modPyr g).srch = c.srch := (rfl)

@[simp] theorem Furrow.modPyr_tbl (c : Furrow) (g : Poryar → Poryar) : (c.modPyr g).tbl = c.tbl := (rfl)

@[simp] theorem Furrow.modPyr_attached (c : Furrow) (g : Poryar → Poryar) : (c.modPyr g).attached = c.attached := (rfl)

@[simp] theorem Furrow.modPyr_winEn (c : Furrow) (g : Poryar → Poryar) : (c.modPyr g).winEn = c.winEn := (rfl)

@[simp] theorem Furrow.modPyr_winSize (c : Furrow) (g : Poryar → Poryar) : (c.modPyr g).winSize = c.winSize := (rfl)

@[simp] theorem Furrow.modPyr_windows (c : Furrow) (g : Poryar → Poryar) : (c.modPyr g).windows = c.windows := (rfl)

@[simp] theorem Furrow.modPyr_toks (c : Furrow) (g : Poryar → Poryar) : (c.modPyr g).toks = c.toks := (rfl)

@[simp] theorem Furrow.modPyr_tokStatus (c : Furrow) (g : Poryar → Poryar) : (c.modPyr g).tokStatus = c.tokStatus := (rfl)

@[simp] theorem Furrow.modPyr_plans (c : Furrow) (g : Poryar → Poryar) : (c.modPyr g).plans = c.plans := (rfl)

@[simp] theorem Furrow.modPyr_ptOffset (c : Furrow) (g : Poryar → Poryar) : (c.modPyr g).ptOffset = c.ptOffset := (rfl)

@[simp] theorem Furrow.modPyr_ptLog (c : Furrow) (g : Poryar → Poryar) : (c.modPyr g).ptLog = c.ptLog := (rfl)

@[simp] theorem Furrow.modPyr_ptPaused (c : Furrow) (g : Poryar → Poryar) : (c.modPyr g).ptPaused = c.ptPaused := (rfl)

@[simp] theorem Furrow.modPyr_steps (c : Furrow) (g : Poryar → Poryar) : (c.modPyr g).steps = c.steps := (rfl)

@[simp] theorem Furrow.modPyr_peers (c : Furrow) (g : Poryar → Poryar) : (c.modPyr g).peers = c.peers := (rfl)

@[simp] theorem Furrow.modPyr_halfImages (c : Furrow) (g : Poryar → Poryar) : (c.modPyr g).halfImages = c.halfImages := (rfl)

@[simp] theorem Furrow.modPyr_lastSweep (c : Furrow) (g : Poryar → Poryar) : (c.modPyr g).lastSweep = c.lastSweep := (rfl)

@[simp] theorem Furrow.modPyr_lastWindow (c : Furrow) (g : Poryar → Poryar) : (c.modPyr g).lastWindow = c.lastWindow := (rfl)

@[simp] theorem Furrow.modPyr_lossCause (c : Furrow) (g : Poryar → Poryar) : (c.modPyr g).lossCause = c.lossCause := (rfl)

/-! ### modSec -/

@[simp] theorem Furrow.modSec_life (c : Furrow) (g : Sec → Sec) : (c.modSec g).life = c.life := (rfl)

@[simp] theorem Furrow.modSec_ns (c : Furrow) (g : Sec → Sec) : (c.modSec g).ns = c.ns := (rfl)

@[simp] theorem Furrow.modSec_refCycle (c : Furrow) (g : Sec → Sec) : (c.modSec g).refCycle = c.refCycle := (rfl)

@[simp] theorem Furrow.modSec_pasidEn (c : Furrow) (g : Sec → Sec) : (c.modSec g).pasidEn = c.pasidEn := (rfl)

@[simp] theorem Furrow.modSec_latches (c : Furrow) (g : Sec → Sec) : (c.modSec g).latches = c.latches := (rfl)

@[simp] theorem Furrow.modSec_boundaryDue (c : Furrow) (g : Sec → Sec) : (c.modSec g).boundaryDue = c.boundaryDue := (rfl)

@[simp] theorem Furrow.modSec_quanta (c : Furrow) (g : Sec → Sec) : (c.modSec g).quanta = c.quanta := (rfl)

@[simp] theorem Furrow.modSec_ctx (c : Furrow) (g : Sec → Sec) : (c.modSec g).ctx = c.ctx := (rfl)

@[simp] theorem Furrow.modSec_t1Owner (c : Furrow) (g : Sec → Sec) : (c.modSec g).t1Owner = c.t1Owner := (rfl)

@[simp] theorem Furrow.modSec_reqs (c : Furrow) (g : Sec → Sec) : (c.modSec g).reqs = c.reqs := (rfl)

@[simp] theorem Furrow.modSec_order (c : Furrow) (g : Sec → Sec) : (c.modSec g).order = c.order := (rfl)

@[simp] theorem Furrow.modSec_cores (c : Furrow) (g : Sec → Sec) : (c.modSec g).cores = c.cores := (rfl)

@[simp] theorem Furrow.modSec_texts (c : Furrow) (g : Sec → Sec) : (c.modSec g).texts = c.texts := (rfl)

@[simp] theorem Furrow.modSec_msix (c : Furrow) (g : Sec → Sec) : (c.modSec g).msix = c.msix := (rfl)

@[simp] theorem Furrow.modSec_err (c : Furrow) (g : Sec → Sec) : (c.modSec g).err = c.err := (rfl)

@[simp] theorem Furrow.modSec_bist (c : Furrow) (g : Sec → Sec) : (c.modSec g).bist = c.bist := (rfl)

@[simp] theorem Furrow.modSec_health (c : Furrow) (g : Sec → Sec) : (c.modSec g).health = c.health := (rfl)

@[simp] theorem Furrow.modSec_healthA (c : Furrow) (g : Sec → Sec) : (c.modSec g).healthA = c.healthA := (rfl)

@[simp] theorem Furrow.modSec_healthB (c : Furrow) (g : Sec → Sec) : (c.modSec g).healthB = c.healthB := (rfl)

@[simp] theorem Furrow.modSec_recordFail (c : Furrow) (g : Sec → Sec) : (c.modSec g).recordFail = c.recordFail := (rfl)

@[simp] theorem Furrow.modSec_counts (c : Furrow) (g : Sec → Sec) : (c.modSec g).counts = c.counts := (rfl)

@[simp] theorem Furrow.modSec_age (c : Furrow) (g : Sec → Sec) : (c.modSec g).age = c.age := (rfl)

@[simp] theorem Furrow.modSec_pwr (c : Furrow) (g : Sec → Sec) : (c.modSec g).pwr = c.pwr := (rfl)

@[simp] theorem Furrow.modSec_cal (c : Furrow) (g : Sec → Sec) : (c.modSec g).cal = c.cal := (rfl)

@[simp] theorem Furrow.modSec_sec (c : Furrow) (g : Sec → Sec) : (c.modSec g).sec = g c.sec := (rfl)

@[simp] theorem Furrow.modSec_tally (c : Furrow) (g : Sec → Sec) : (c.modSec g).tally = c.tally := (rfl)

@[simp] theorem Furrow.modSec_grn (c : Furrow) (g : Sec → Sec) : (c.modSec g).grn = c.grn := (rfl)

@[simp] theorem Furrow.modSec_pyr (c : Furrow) (g : Sec → Sec) : (c.modSec g).pyr = c.pyr := (rfl)

@[simp] theorem Furrow.modSec_srch (c : Furrow) (g : Sec → Sec) : (c.modSec g).srch = c.srch := (rfl)

@[simp] theorem Furrow.modSec_tbl (c : Furrow) (g : Sec → Sec) : (c.modSec g).tbl = c.tbl := (rfl)

@[simp] theorem Furrow.modSec_attached (c : Furrow) (g : Sec → Sec) : (c.modSec g).attached = c.attached := (rfl)

@[simp] theorem Furrow.modSec_winEn (c : Furrow) (g : Sec → Sec) : (c.modSec g).winEn = c.winEn := (rfl)

@[simp] theorem Furrow.modSec_winSize (c : Furrow) (g : Sec → Sec) : (c.modSec g).winSize = c.winSize := (rfl)

@[simp] theorem Furrow.modSec_windows (c : Furrow) (g : Sec → Sec) : (c.modSec g).windows = c.windows := (rfl)

@[simp] theorem Furrow.modSec_toks (c : Furrow) (g : Sec → Sec) : (c.modSec g).toks = c.toks := (rfl)

@[simp] theorem Furrow.modSec_tokStatus (c : Furrow) (g : Sec → Sec) : (c.modSec g).tokStatus = c.tokStatus := (rfl)

@[simp] theorem Furrow.modSec_plans (c : Furrow) (g : Sec → Sec) : (c.modSec g).plans = c.plans := (rfl)

@[simp] theorem Furrow.modSec_ptOffset (c : Furrow) (g : Sec → Sec) : (c.modSec g).ptOffset = c.ptOffset := (rfl)

@[simp] theorem Furrow.modSec_ptLog (c : Furrow) (g : Sec → Sec) : (c.modSec g).ptLog = c.ptLog := (rfl)

@[simp] theorem Furrow.modSec_ptPaused (c : Furrow) (g : Sec → Sec) : (c.modSec g).ptPaused = c.ptPaused := (rfl)

@[simp] theorem Furrow.modSec_steps (c : Furrow) (g : Sec → Sec) : (c.modSec g).steps = c.steps := (rfl)

@[simp] theorem Furrow.modSec_peers (c : Furrow) (g : Sec → Sec) : (c.modSec g).peers = c.peers := (rfl)

@[simp] theorem Furrow.modSec_halfImages (c : Furrow) (g : Sec → Sec) : (c.modSec g).halfImages = c.halfImages := (rfl)

@[simp] theorem Furrow.modSec_lastSweep (c : Furrow) (g : Sec → Sec) : (c.modSec g).lastSweep = c.lastSweep := (rfl)

@[simp] theorem Furrow.modSec_lastWindow (c : Furrow) (g : Sec → Sec) : (c.modSec g).lastWindow = c.lastWindow := (rfl)

@[simp] theorem Furrow.modSec_lossCause (c : Furrow) (g : Sec → Sec) : (c.modSec g).lossCause = c.lossCause := (rfl)

/-! ### modCal -/

@[simp] theorem Furrow.modCal_life (c : Furrow) (g : Calendar → Calendar) : (c.modCal g).life = c.life := (rfl)

@[simp] theorem Furrow.modCal_ns (c : Furrow) (g : Calendar → Calendar) : (c.modCal g).ns = c.ns := (rfl)

@[simp] theorem Furrow.modCal_refCycle (c : Furrow) (g : Calendar → Calendar) : (c.modCal g).refCycle = c.refCycle := (rfl)

@[simp] theorem Furrow.modCal_pasidEn (c : Furrow) (g : Calendar → Calendar) : (c.modCal g).pasidEn = c.pasidEn := (rfl)

@[simp] theorem Furrow.modCal_latches (c : Furrow) (g : Calendar → Calendar) : (c.modCal g).latches = c.latches := (rfl)

@[simp] theorem Furrow.modCal_boundaryDue (c : Furrow) (g : Calendar → Calendar) : (c.modCal g).boundaryDue = c.boundaryDue := (rfl)

@[simp] theorem Furrow.modCal_quanta (c : Furrow) (g : Calendar → Calendar) : (c.modCal g).quanta = c.quanta := (rfl)

@[simp] theorem Furrow.modCal_ctx (c : Furrow) (g : Calendar → Calendar) : (c.modCal g).ctx = c.ctx := (rfl)

@[simp] theorem Furrow.modCal_t1Owner (c : Furrow) (g : Calendar → Calendar) : (c.modCal g).t1Owner = c.t1Owner := (rfl)

@[simp] theorem Furrow.modCal_reqs (c : Furrow) (g : Calendar → Calendar) : (c.modCal g).reqs = c.reqs := (rfl)

@[simp] theorem Furrow.modCal_order (c : Furrow) (g : Calendar → Calendar) : (c.modCal g).order = c.order := (rfl)

@[simp] theorem Furrow.modCal_cores (c : Furrow) (g : Calendar → Calendar) : (c.modCal g).cores = c.cores := (rfl)

@[simp] theorem Furrow.modCal_texts (c : Furrow) (g : Calendar → Calendar) : (c.modCal g).texts = c.texts := (rfl)

@[simp] theorem Furrow.modCal_msix (c : Furrow) (g : Calendar → Calendar) : (c.modCal g).msix = c.msix := (rfl)

@[simp] theorem Furrow.modCal_err (c : Furrow) (g : Calendar → Calendar) : (c.modCal g).err = c.err := (rfl)

@[simp] theorem Furrow.modCal_bist (c : Furrow) (g : Calendar → Calendar) : (c.modCal g).bist = c.bist := (rfl)

@[simp] theorem Furrow.modCal_health (c : Furrow) (g : Calendar → Calendar) : (c.modCal g).health = c.health := (rfl)

@[simp] theorem Furrow.modCal_healthA (c : Furrow) (g : Calendar → Calendar) : (c.modCal g).healthA = c.healthA := (rfl)

@[simp] theorem Furrow.modCal_healthB (c : Furrow) (g : Calendar → Calendar) : (c.modCal g).healthB = c.healthB := (rfl)

@[simp] theorem Furrow.modCal_recordFail (c : Furrow) (g : Calendar → Calendar) : (c.modCal g).recordFail = c.recordFail := (rfl)

@[simp] theorem Furrow.modCal_counts (c : Furrow) (g : Calendar → Calendar) : (c.modCal g).counts = c.counts := (rfl)

@[simp] theorem Furrow.modCal_age (c : Furrow) (g : Calendar → Calendar) : (c.modCal g).age = c.age := (rfl)

@[simp] theorem Furrow.modCal_pwr (c : Furrow) (g : Calendar → Calendar) : (c.modCal g).pwr = c.pwr := (rfl)

@[simp] theorem Furrow.modCal_cal (c : Furrow) (g : Calendar → Calendar) : (c.modCal g).cal = g c.cal := (rfl)

@[simp] theorem Furrow.modCal_sec (c : Furrow) (g : Calendar → Calendar) : (c.modCal g).sec = c.sec := (rfl)

@[simp] theorem Furrow.modCal_tally (c : Furrow) (g : Calendar → Calendar) : (c.modCal g).tally = c.tally := (rfl)

@[simp] theorem Furrow.modCal_grn (c : Furrow) (g : Calendar → Calendar) : (c.modCal g).grn = c.grn := (rfl)

@[simp] theorem Furrow.modCal_pyr (c : Furrow) (g : Calendar → Calendar) : (c.modCal g).pyr = c.pyr := (rfl)

@[simp] theorem Furrow.modCal_srch (c : Furrow) (g : Calendar → Calendar) : (c.modCal g).srch = c.srch := (rfl)

@[simp] theorem Furrow.modCal_tbl (c : Furrow) (g : Calendar → Calendar) : (c.modCal g).tbl = c.tbl := (rfl)

@[simp] theorem Furrow.modCal_attached (c : Furrow) (g : Calendar → Calendar) : (c.modCal g).attached = c.attached := (rfl)

@[simp] theorem Furrow.modCal_winEn (c : Furrow) (g : Calendar → Calendar) : (c.modCal g).winEn = c.winEn := (rfl)

@[simp] theorem Furrow.modCal_winSize (c : Furrow) (g : Calendar → Calendar) : (c.modCal g).winSize = c.winSize := (rfl)

@[simp] theorem Furrow.modCal_windows (c : Furrow) (g : Calendar → Calendar) : (c.modCal g).windows = c.windows := (rfl)

@[simp] theorem Furrow.modCal_toks (c : Furrow) (g : Calendar → Calendar) : (c.modCal g).toks = c.toks := (rfl)

@[simp] theorem Furrow.modCal_tokStatus (c : Furrow) (g : Calendar → Calendar) : (c.modCal g).tokStatus = c.tokStatus := (rfl)

@[simp] theorem Furrow.modCal_plans (c : Furrow) (g : Calendar → Calendar) : (c.modCal g).plans = c.plans := (rfl)

@[simp] theorem Furrow.modCal_ptOffset (c : Furrow) (g : Calendar → Calendar) : (c.modCal g).ptOffset = c.ptOffset := (rfl)

@[simp] theorem Furrow.modCal_ptLog (c : Furrow) (g : Calendar → Calendar) : (c.modCal g).ptLog = c.ptLog := (rfl)

@[simp] theorem Furrow.modCal_ptPaused (c : Furrow) (g : Calendar → Calendar) : (c.modCal g).ptPaused = c.ptPaused := (rfl)

@[simp] theorem Furrow.modCal_steps (c : Furrow) (g : Calendar → Calendar) : (c.modCal g).steps = c.steps := (rfl)

@[simp] theorem Furrow.modCal_peers (c : Furrow) (g : Calendar → Calendar) : (c.modCal g).peers = c.peers := (rfl)

@[simp] theorem Furrow.modCal_halfImages (c : Furrow) (g : Calendar → Calendar) : (c.modCal g).halfImages = c.halfImages := (rfl)

@[simp] theorem Furrow.modCal_lastSweep (c : Furrow) (g : Calendar → Calendar) : (c.modCal g).lastSweep = c.lastSweep := (rfl)

@[simp] theorem Furrow.modCal_lastWindow (c : Furrow) (g : Calendar → Calendar) : (c.modCal g).lastWindow = c.lastWindow := (rfl)

@[simp] theorem Furrow.modCal_lossCause (c : Furrow) (g : Calendar → Calendar) : (c.modCal g).lossCause = c.lossCause := (rfl)

/-! ### modPwr -/

@[simp] theorem Furrow.modPwr_life (c : Furrow) (g : Power → Power) : (c.modPwr g).life = c.life := (rfl)

@[simp] theorem Furrow.modPwr_ns (c : Furrow) (g : Power → Power) : (c.modPwr g).ns = c.ns := (rfl)

@[simp] theorem Furrow.modPwr_refCycle (c : Furrow) (g : Power → Power) : (c.modPwr g).refCycle = c.refCycle := (rfl)

@[simp] theorem Furrow.modPwr_pasidEn (c : Furrow) (g : Power → Power) : (c.modPwr g).pasidEn = c.pasidEn := (rfl)

@[simp] theorem Furrow.modPwr_latches (c : Furrow) (g : Power → Power) : (c.modPwr g).latches = c.latches := (rfl)

@[simp] theorem Furrow.modPwr_boundaryDue (c : Furrow) (g : Power → Power) : (c.modPwr g).boundaryDue = c.boundaryDue := (rfl)

@[simp] theorem Furrow.modPwr_quanta (c : Furrow) (g : Power → Power) : (c.modPwr g).quanta = c.quanta := (rfl)

@[simp] theorem Furrow.modPwr_ctx (c : Furrow) (g : Power → Power) : (c.modPwr g).ctx = c.ctx := (rfl)

@[simp] theorem Furrow.modPwr_t1Owner (c : Furrow) (g : Power → Power) : (c.modPwr g).t1Owner = c.t1Owner := (rfl)

@[simp] theorem Furrow.modPwr_reqs (c : Furrow) (g : Power → Power) : (c.modPwr g).reqs = c.reqs := (rfl)

@[simp] theorem Furrow.modPwr_order (c : Furrow) (g : Power → Power) : (c.modPwr g).order = c.order := (rfl)

@[simp] theorem Furrow.modPwr_cores (c : Furrow) (g : Power → Power) : (c.modPwr g).cores = c.cores := (rfl)

@[simp] theorem Furrow.modPwr_texts (c : Furrow) (g : Power → Power) : (c.modPwr g).texts = c.texts := (rfl)

@[simp] theorem Furrow.modPwr_msix (c : Furrow) (g : Power → Power) : (c.modPwr g).msix = c.msix := (rfl)

@[simp] theorem Furrow.modPwr_err (c : Furrow) (g : Power → Power) : (c.modPwr g).err = c.err := (rfl)

@[simp] theorem Furrow.modPwr_bist (c : Furrow) (g : Power → Power) : (c.modPwr g).bist = c.bist := (rfl)

@[simp] theorem Furrow.modPwr_health (c : Furrow) (g : Power → Power) : (c.modPwr g).health = c.health := (rfl)

@[simp] theorem Furrow.modPwr_healthA (c : Furrow) (g : Power → Power) : (c.modPwr g).healthA = c.healthA := (rfl)

@[simp] theorem Furrow.modPwr_healthB (c : Furrow) (g : Power → Power) : (c.modPwr g).healthB = c.healthB := (rfl)

@[simp] theorem Furrow.modPwr_recordFail (c : Furrow) (g : Power → Power) : (c.modPwr g).recordFail = c.recordFail := (rfl)

@[simp] theorem Furrow.modPwr_counts (c : Furrow) (g : Power → Power) : (c.modPwr g).counts = c.counts := (rfl)

@[simp] theorem Furrow.modPwr_age (c : Furrow) (g : Power → Power) : (c.modPwr g).age = c.age := (rfl)

@[simp] theorem Furrow.modPwr_pwr (c : Furrow) (g : Power → Power) : (c.modPwr g).pwr = g c.pwr := (rfl)

@[simp] theorem Furrow.modPwr_cal (c : Furrow) (g : Power → Power) : (c.modPwr g).cal = c.cal := (rfl)

@[simp] theorem Furrow.modPwr_sec (c : Furrow) (g : Power → Power) : (c.modPwr g).sec = c.sec := (rfl)

@[simp] theorem Furrow.modPwr_tally (c : Furrow) (g : Power → Power) : (c.modPwr g).tally = c.tally := (rfl)

@[simp] theorem Furrow.modPwr_grn (c : Furrow) (g : Power → Power) : (c.modPwr g).grn = c.grn := (rfl)

@[simp] theorem Furrow.modPwr_pyr (c : Furrow) (g : Power → Power) : (c.modPwr g).pyr = c.pyr := (rfl)

@[simp] theorem Furrow.modPwr_srch (c : Furrow) (g : Power → Power) : (c.modPwr g).srch = c.srch := (rfl)

@[simp] theorem Furrow.modPwr_tbl (c : Furrow) (g : Power → Power) : (c.modPwr g).tbl = c.tbl := (rfl)

@[simp] theorem Furrow.modPwr_attached (c : Furrow) (g : Power → Power) : (c.modPwr g).attached = c.attached := (rfl)

@[simp] theorem Furrow.modPwr_winEn (c : Furrow) (g : Power → Power) : (c.modPwr g).winEn = c.winEn := (rfl)

@[simp] theorem Furrow.modPwr_winSize (c : Furrow) (g : Power → Power) : (c.modPwr g).winSize = c.winSize := (rfl)

@[simp] theorem Furrow.modPwr_windows (c : Furrow) (g : Power → Power) : (c.modPwr g).windows = c.windows := (rfl)

@[simp] theorem Furrow.modPwr_toks (c : Furrow) (g : Power → Power) : (c.modPwr g).toks = c.toks := (rfl)

@[simp] theorem Furrow.modPwr_tokStatus (c : Furrow) (g : Power → Power) : (c.modPwr g).tokStatus = c.tokStatus := (rfl)

@[simp] theorem Furrow.modPwr_plans (c : Furrow) (g : Power → Power) : (c.modPwr g).plans = c.plans := (rfl)

@[simp] theorem Furrow.modPwr_ptOffset (c : Furrow) (g : Power → Power) : (c.modPwr g).ptOffset = c.ptOffset := (rfl)

@[simp] theorem Furrow.modPwr_ptLog (c : Furrow) (g : Power → Power) : (c.modPwr g).ptLog = c.ptLog := (rfl)

@[simp] theorem Furrow.modPwr_ptPaused (c : Furrow) (g : Power → Power) : (c.modPwr g).ptPaused = c.ptPaused := (rfl)

@[simp] theorem Furrow.modPwr_steps (c : Furrow) (g : Power → Power) : (c.modPwr g).steps = c.steps := (rfl)

@[simp] theorem Furrow.modPwr_peers (c : Furrow) (g : Power → Power) : (c.modPwr g).peers = c.peers := (rfl)

@[simp] theorem Furrow.modPwr_halfImages (c : Furrow) (g : Power → Power) : (c.modPwr g).halfImages = c.halfImages := (rfl)

@[simp] theorem Furrow.modPwr_lastSweep (c : Furrow) (g : Power → Power) : (c.modPwr g).lastSweep = c.lastSweep := (rfl)

@[simp] theorem Furrow.modPwr_lastWindow (c : Furrow) (g : Power → Power) : (c.modPwr g).lastWindow = c.lastWindow := (rfl)

@[simp] theorem Furrow.modPwr_lossCause (c : Furrow) (g : Power → Power) : (c.modPwr g).lossCause = c.lossCause := (rfl)

/-! ### modHealth -/

@[simp] theorem Furrow.modHealth_life (c : Furrow) (g : Health → Health) : (c.modHealth g).life = c.life := (rfl)

@[simp] theorem Furrow.modHealth_ns (c : Furrow) (g : Health → Health) : (c.modHealth g).ns = c.ns := (rfl)

@[simp] theorem Furrow.modHealth_refCycle (c : Furrow) (g : Health → Health) : (c.modHealth g).refCycle = c.refCycle := (rfl)

@[simp] theorem Furrow.modHealth_pasidEn (c : Furrow) (g : Health → Health) : (c.modHealth g).pasidEn = c.pasidEn := (rfl)

@[simp] theorem Furrow.modHealth_latches (c : Furrow) (g : Health → Health) : (c.modHealth g).latches = c.latches := (rfl)

@[simp] theorem Furrow.modHealth_boundaryDue (c : Furrow) (g : Health → Health) : (c.modHealth g).boundaryDue = c.boundaryDue := (rfl)

@[simp] theorem Furrow.modHealth_quanta (c : Furrow) (g : Health → Health) : (c.modHealth g).quanta = c.quanta := (rfl)

@[simp] theorem Furrow.modHealth_ctx (c : Furrow) (g : Health → Health) : (c.modHealth g).ctx = c.ctx := (rfl)

@[simp] theorem Furrow.modHealth_t1Owner (c : Furrow) (g : Health → Health) : (c.modHealth g).t1Owner = c.t1Owner := (rfl)

@[simp] theorem Furrow.modHealth_reqs (c : Furrow) (g : Health → Health) : (c.modHealth g).reqs = c.reqs := (rfl)

@[simp] theorem Furrow.modHealth_order (c : Furrow) (g : Health → Health) : (c.modHealth g).order = c.order := (rfl)

@[simp] theorem Furrow.modHealth_cores (c : Furrow) (g : Health → Health) : (c.modHealth g).cores = c.cores := (rfl)

@[simp] theorem Furrow.modHealth_texts (c : Furrow) (g : Health → Health) : (c.modHealth g).texts = c.texts := (rfl)

@[simp] theorem Furrow.modHealth_msix (c : Furrow) (g : Health → Health) : (c.modHealth g).msix = c.msix := (rfl)

@[simp] theorem Furrow.modHealth_err (c : Furrow) (g : Health → Health) : (c.modHealth g).err = c.err := (rfl)

@[simp] theorem Furrow.modHealth_bist (c : Furrow) (g : Health → Health) : (c.modHealth g).bist = c.bist := (rfl)

@[simp] theorem Furrow.modHealth_health (c : Furrow) (g : Health → Health) : (c.modHealth g).health = g c.health := (rfl)

@[simp] theorem Furrow.modHealth_healthA (c : Furrow) (g : Health → Health) : (c.modHealth g).healthA = c.healthA := (rfl)

@[simp] theorem Furrow.modHealth_healthB (c : Furrow) (g : Health → Health) : (c.modHealth g).healthB = c.healthB := (rfl)

@[simp] theorem Furrow.modHealth_recordFail (c : Furrow) (g : Health → Health) : (c.modHealth g).recordFail = c.recordFail := (rfl)

@[simp] theorem Furrow.modHealth_counts (c : Furrow) (g : Health → Health) : (c.modHealth g).counts = c.counts := (rfl)

@[simp] theorem Furrow.modHealth_age (c : Furrow) (g : Health → Health) : (c.modHealth g).age = c.age := (rfl)

@[simp] theorem Furrow.modHealth_pwr (c : Furrow) (g : Health → Health) : (c.modHealth g).pwr = c.pwr := (rfl)

@[simp] theorem Furrow.modHealth_cal (c : Furrow) (g : Health → Health) : (c.modHealth g).cal = c.cal := (rfl)

@[simp] theorem Furrow.modHealth_sec (c : Furrow) (g : Health → Health) : (c.modHealth g).sec = c.sec := (rfl)

@[simp] theorem Furrow.modHealth_tally (c : Furrow) (g : Health → Health) : (c.modHealth g).tally = c.tally := (rfl)

@[simp] theorem Furrow.modHealth_grn (c : Furrow) (g : Health → Health) : (c.modHealth g).grn = c.grn := (rfl)

@[simp] theorem Furrow.modHealth_pyr (c : Furrow) (g : Health → Health) : (c.modHealth g).pyr = c.pyr := (rfl)

@[simp] theorem Furrow.modHealth_srch (c : Furrow) (g : Health → Health) : (c.modHealth g).srch = c.srch := (rfl)

@[simp] theorem Furrow.modHealth_tbl (c : Furrow) (g : Health → Health) : (c.modHealth g).tbl = c.tbl := (rfl)

@[simp] theorem Furrow.modHealth_attached (c : Furrow) (g : Health → Health) : (c.modHealth g).attached = c.attached := (rfl)

@[simp] theorem Furrow.modHealth_winEn (c : Furrow) (g : Health → Health) : (c.modHealth g).winEn = c.winEn := (rfl)

@[simp] theorem Furrow.modHealth_winSize (c : Furrow) (g : Health → Health) : (c.modHealth g).winSize = c.winSize := (rfl)

@[simp] theorem Furrow.modHealth_windows (c : Furrow) (g : Health → Health) : (c.modHealth g).windows = c.windows := (rfl)

@[simp] theorem Furrow.modHealth_toks (c : Furrow) (g : Health → Health) : (c.modHealth g).toks = c.toks := (rfl)

@[simp] theorem Furrow.modHealth_tokStatus (c : Furrow) (g : Health → Health) : (c.modHealth g).tokStatus = c.tokStatus := (rfl)

@[simp] theorem Furrow.modHealth_plans (c : Furrow) (g : Health → Health) : (c.modHealth g).plans = c.plans := (rfl)

@[simp] theorem Furrow.modHealth_ptOffset (c : Furrow) (g : Health → Health) : (c.modHealth g).ptOffset = c.ptOffset := (rfl)

@[simp] theorem Furrow.modHealth_ptLog (c : Furrow) (g : Health → Health) : (c.modHealth g).ptLog = c.ptLog := (rfl)

@[simp] theorem Furrow.modHealth_ptPaused (c : Furrow) (g : Health → Health) : (c.modHealth g).ptPaused = c.ptPaused := (rfl)

@[simp] theorem Furrow.modHealth_steps (c : Furrow) (g : Health → Health) : (c.modHealth g).steps = c.steps := (rfl)

@[simp] theorem Furrow.modHealth_peers (c : Furrow) (g : Health → Health) : (c.modHealth g).peers = c.peers := (rfl)

@[simp] theorem Furrow.modHealth_halfImages (c : Furrow) (g : Health → Health) : (c.modHealth g).halfImages = c.halfImages := (rfl)

@[simp] theorem Furrow.modHealth_lastSweep (c : Furrow) (g : Health → Health) : (c.modHealth g).lastSweep = c.lastSweep := (rfl)

@[simp] theorem Furrow.modHealth_lastWindow (c : Furrow) (g : Health → Health) : (c.modHealth g).lastWindow = c.lastWindow := (rfl)

@[simp] theorem Furrow.modHealth_lossCause (c : Furrow) (g : Health → Health) : (c.modHealth g).lossCause = c.lossCause := (rfl)

/-! ### modCounts -/

@[simp] theorem Furrow.modCounts_life (c : Furrow) (g : ErrCounts → ErrCounts) : (c.modCounts g).life = c.life := (rfl)

@[simp] theorem Furrow.modCounts_ns (c : Furrow) (g : ErrCounts → ErrCounts) : (c.modCounts g).ns = c.ns := (rfl)

@[simp] theorem Furrow.modCounts_refCycle (c : Furrow) (g : ErrCounts → ErrCounts) : (c.modCounts g).refCycle = c.refCycle := (rfl)

@[simp] theorem Furrow.modCounts_pasidEn (c : Furrow) (g : ErrCounts → ErrCounts) : (c.modCounts g).pasidEn = c.pasidEn := (rfl)

@[simp] theorem Furrow.modCounts_latches (c : Furrow) (g : ErrCounts → ErrCounts) : (c.modCounts g).latches = c.latches := (rfl)

@[simp] theorem Furrow.modCounts_boundaryDue (c : Furrow) (g : ErrCounts → ErrCounts) : (c.modCounts g).boundaryDue = c.boundaryDue := (rfl)

@[simp] theorem Furrow.modCounts_quanta (c : Furrow) (g : ErrCounts → ErrCounts) : (c.modCounts g).quanta = c.quanta := (rfl)

@[simp] theorem Furrow.modCounts_ctx (c : Furrow) (g : ErrCounts → ErrCounts) : (c.modCounts g).ctx = c.ctx := (rfl)

@[simp] theorem Furrow.modCounts_t1Owner (c : Furrow) (g : ErrCounts → ErrCounts) : (c.modCounts g).t1Owner = c.t1Owner := (rfl)

@[simp] theorem Furrow.modCounts_reqs (c : Furrow) (g : ErrCounts → ErrCounts) : (c.modCounts g).reqs = c.reqs := (rfl)

@[simp] theorem Furrow.modCounts_order (c : Furrow) (g : ErrCounts → ErrCounts) : (c.modCounts g).order = c.order := (rfl)

@[simp] theorem Furrow.modCounts_cores (c : Furrow) (g : ErrCounts → ErrCounts) : (c.modCounts g).cores = c.cores := (rfl)

@[simp] theorem Furrow.modCounts_texts (c : Furrow) (g : ErrCounts → ErrCounts) : (c.modCounts g).texts = c.texts := (rfl)

@[simp] theorem Furrow.modCounts_msix (c : Furrow) (g : ErrCounts → ErrCounts) : (c.modCounts g).msix = c.msix := (rfl)

@[simp] theorem Furrow.modCounts_err (c : Furrow) (g : ErrCounts → ErrCounts) : (c.modCounts g).err = c.err := (rfl)

@[simp] theorem Furrow.modCounts_bist (c : Furrow) (g : ErrCounts → ErrCounts) : (c.modCounts g).bist = c.bist := (rfl)

@[simp] theorem Furrow.modCounts_health (c : Furrow) (g : ErrCounts → ErrCounts) : (c.modCounts g).health = c.health := (rfl)

@[simp] theorem Furrow.modCounts_healthA (c : Furrow) (g : ErrCounts → ErrCounts) : (c.modCounts g).healthA = c.healthA := (rfl)

@[simp] theorem Furrow.modCounts_healthB (c : Furrow) (g : ErrCounts → ErrCounts) : (c.modCounts g).healthB = c.healthB := (rfl)

@[simp] theorem Furrow.modCounts_recordFail (c : Furrow) (g : ErrCounts → ErrCounts) : (c.modCounts g).recordFail = c.recordFail := (rfl)

@[simp] theorem Furrow.modCounts_counts (c : Furrow) (g : ErrCounts → ErrCounts) : (c.modCounts g).counts = g c.counts := (rfl)

@[simp] theorem Furrow.modCounts_age (c : Furrow) (g : ErrCounts → ErrCounts) : (c.modCounts g).age = c.age := (rfl)

@[simp] theorem Furrow.modCounts_pwr (c : Furrow) (g : ErrCounts → ErrCounts) : (c.modCounts g).pwr = c.pwr := (rfl)

@[simp] theorem Furrow.modCounts_cal (c : Furrow) (g : ErrCounts → ErrCounts) : (c.modCounts g).cal = c.cal := (rfl)

@[simp] theorem Furrow.modCounts_sec (c : Furrow) (g : ErrCounts → ErrCounts) : (c.modCounts g).sec = c.sec := (rfl)

@[simp] theorem Furrow.modCounts_tally (c : Furrow) (g : ErrCounts → ErrCounts) : (c.modCounts g).tally = c.tally := (rfl)

@[simp] theorem Furrow.modCounts_grn (c : Furrow) (g : ErrCounts → ErrCounts) : (c.modCounts g).grn = c.grn := (rfl)

@[simp] theorem Furrow.modCounts_pyr (c : Furrow) (g : ErrCounts → ErrCounts) : (c.modCounts g).pyr = c.pyr := (rfl)

@[simp] theorem Furrow.modCounts_srch (c : Furrow) (g : ErrCounts → ErrCounts) : (c.modCounts g).srch = c.srch := (rfl)

@[simp] theorem Furrow.modCounts_tbl (c : Furrow) (g : ErrCounts → ErrCounts) : (c.modCounts g).tbl = c.tbl := (rfl)

@[simp] theorem Furrow.modCounts_attached (c : Furrow) (g : ErrCounts → ErrCounts) : (c.modCounts g).attached = c.attached := (rfl)

@[simp] theorem Furrow.modCounts_winEn (c : Furrow) (g : ErrCounts → ErrCounts) : (c.modCounts g).winEn = c.winEn := (rfl)

@[simp] theorem Furrow.modCounts_winSize (c : Furrow) (g : ErrCounts → ErrCounts) : (c.modCounts g).winSize = c.winSize := (rfl)

@[simp] theorem Furrow.modCounts_windows (c : Furrow) (g : ErrCounts → ErrCounts) : (c.modCounts g).windows = c.windows := (rfl)

@[simp] theorem Furrow.modCounts_toks (c : Furrow) (g : ErrCounts → ErrCounts) : (c.modCounts g).toks = c.toks := (rfl)

@[simp] theorem Furrow.modCounts_tokStatus (c : Furrow) (g : ErrCounts → ErrCounts) : (c.modCounts g).tokStatus = c.tokStatus := (rfl)

@[simp] theorem Furrow.modCounts_plans (c : Furrow) (g : ErrCounts → ErrCounts) : (c.modCounts g).plans = c.plans := (rfl)

@[simp] theorem Furrow.modCounts_ptOffset (c : Furrow) (g : ErrCounts → ErrCounts) : (c.modCounts g).ptOffset = c.ptOffset := (rfl)

@[simp] theorem Furrow.modCounts_ptLog (c : Furrow) (g : ErrCounts → ErrCounts) : (c.modCounts g).ptLog = c.ptLog := (rfl)

@[simp] theorem Furrow.modCounts_ptPaused (c : Furrow) (g : ErrCounts → ErrCounts) : (c.modCounts g).ptPaused = c.ptPaused := (rfl)

@[simp] theorem Furrow.modCounts_steps (c : Furrow) (g : ErrCounts → ErrCounts) : (c.modCounts g).steps = c.steps := (rfl)

@[simp] theorem Furrow.modCounts_peers (c : Furrow) (g : ErrCounts → ErrCounts) : (c.modCounts g).peers = c.peers := (rfl)

@[simp] theorem Furrow.modCounts_halfImages (c : Furrow) (g : ErrCounts → ErrCounts) : (c.modCounts g).halfImages = c.halfImages := (rfl)

@[simp] theorem Furrow.modCounts_lastSweep (c : Furrow) (g : ErrCounts → ErrCounts) : (c.modCounts g).lastSweep = c.lastSweep := (rfl)

@[simp] theorem Furrow.modCounts_lastWindow (c : Furrow) (g : ErrCounts → ErrCounts) : (c.modCounts g).lastWindow = c.lastWindow := (rfl)

@[simp] theorem Furrow.modCounts_lossCause (c : Furrow) (g : ErrCounts → ErrCounts) : (c.modCounts g).lossCause = c.lossCause := (rfl)

/-! ### modBist -/

@[simp] theorem Furrow.modBist_life (c : Furrow) (g : Bist → Bist) : (c.modBist g).life = c.life := (rfl)

@[simp] theorem Furrow.modBist_ns (c : Furrow) (g : Bist → Bist) : (c.modBist g).ns = c.ns := (rfl)

@[simp] theorem Furrow.modBist_refCycle (c : Furrow) (g : Bist → Bist) : (c.modBist g).refCycle = c.refCycle := (rfl)

@[simp] theorem Furrow.modBist_pasidEn (c : Furrow) (g : Bist → Bist) : (c.modBist g).pasidEn = c.pasidEn := (rfl)

@[simp] theorem Furrow.modBist_latches (c : Furrow) (g : Bist → Bist) : (c.modBist g).latches = c.latches := (rfl)

@[simp] theorem Furrow.modBist_boundaryDue (c : Furrow) (g : Bist → Bist) : (c.modBist g).boundaryDue = c.boundaryDue := (rfl)

@[simp] theorem Furrow.modBist_quanta (c : Furrow) (g : Bist → Bist) : (c.modBist g).quanta = c.quanta := (rfl)

@[simp] theorem Furrow.modBist_ctx (c : Furrow) (g : Bist → Bist) : (c.modBist g).ctx = c.ctx := (rfl)

@[simp] theorem Furrow.modBist_t1Owner (c : Furrow) (g : Bist → Bist) : (c.modBist g).t1Owner = c.t1Owner := (rfl)

@[simp] theorem Furrow.modBist_reqs (c : Furrow) (g : Bist → Bist) : (c.modBist g).reqs = c.reqs := (rfl)

@[simp] theorem Furrow.modBist_order (c : Furrow) (g : Bist → Bist) : (c.modBist g).order = c.order := (rfl)

@[simp] theorem Furrow.modBist_cores (c : Furrow) (g : Bist → Bist) : (c.modBist g).cores = c.cores := (rfl)

@[simp] theorem Furrow.modBist_texts (c : Furrow) (g : Bist → Bist) : (c.modBist g).texts = c.texts := (rfl)

@[simp] theorem Furrow.modBist_msix (c : Furrow) (g : Bist → Bist) : (c.modBist g).msix = c.msix := (rfl)

@[simp] theorem Furrow.modBist_err (c : Furrow) (g : Bist → Bist) : (c.modBist g).err = c.err := (rfl)

@[simp] theorem Furrow.modBist_bist (c : Furrow) (g : Bist → Bist) : (c.modBist g).bist = g c.bist := (rfl)

@[simp] theorem Furrow.modBist_health (c : Furrow) (g : Bist → Bist) : (c.modBist g).health = c.health := (rfl)

@[simp] theorem Furrow.modBist_healthA (c : Furrow) (g : Bist → Bist) : (c.modBist g).healthA = c.healthA := (rfl)

@[simp] theorem Furrow.modBist_healthB (c : Furrow) (g : Bist → Bist) : (c.modBist g).healthB = c.healthB := (rfl)

@[simp] theorem Furrow.modBist_recordFail (c : Furrow) (g : Bist → Bist) : (c.modBist g).recordFail = c.recordFail := (rfl)

@[simp] theorem Furrow.modBist_counts (c : Furrow) (g : Bist → Bist) : (c.modBist g).counts = c.counts := (rfl)

@[simp] theorem Furrow.modBist_age (c : Furrow) (g : Bist → Bist) : (c.modBist g).age = c.age := (rfl)

@[simp] theorem Furrow.modBist_pwr (c : Furrow) (g : Bist → Bist) : (c.modBist g).pwr = c.pwr := (rfl)

@[simp] theorem Furrow.modBist_cal (c : Furrow) (g : Bist → Bist) : (c.modBist g).cal = c.cal := (rfl)

@[simp] theorem Furrow.modBist_sec (c : Furrow) (g : Bist → Bist) : (c.modBist g).sec = c.sec := (rfl)

@[simp] theorem Furrow.modBist_tally (c : Furrow) (g : Bist → Bist) : (c.modBist g).tally = c.tally := (rfl)

@[simp] theorem Furrow.modBist_grn (c : Furrow) (g : Bist → Bist) : (c.modBist g).grn = c.grn := (rfl)

@[simp] theorem Furrow.modBist_pyr (c : Furrow) (g : Bist → Bist) : (c.modBist g).pyr = c.pyr := (rfl)

@[simp] theorem Furrow.modBist_srch (c : Furrow) (g : Bist → Bist) : (c.modBist g).srch = c.srch := (rfl)

@[simp] theorem Furrow.modBist_tbl (c : Furrow) (g : Bist → Bist) : (c.modBist g).tbl = c.tbl := (rfl)

@[simp] theorem Furrow.modBist_attached (c : Furrow) (g : Bist → Bist) : (c.modBist g).attached = c.attached := (rfl)

@[simp] theorem Furrow.modBist_winEn (c : Furrow) (g : Bist → Bist) : (c.modBist g).winEn = c.winEn := (rfl)

@[simp] theorem Furrow.modBist_winSize (c : Furrow) (g : Bist → Bist) : (c.modBist g).winSize = c.winSize := (rfl)

@[simp] theorem Furrow.modBist_windows (c : Furrow) (g : Bist → Bist) : (c.modBist g).windows = c.windows := (rfl)

@[simp] theorem Furrow.modBist_toks (c : Furrow) (g : Bist → Bist) : (c.modBist g).toks = c.toks := (rfl)

@[simp] theorem Furrow.modBist_tokStatus (c : Furrow) (g : Bist → Bist) : (c.modBist g).tokStatus = c.tokStatus := (rfl)

@[simp] theorem Furrow.modBist_plans (c : Furrow) (g : Bist → Bist) : (c.modBist g).plans = c.plans := (rfl)

@[simp] theorem Furrow.modBist_ptOffset (c : Furrow) (g : Bist → Bist) : (c.modBist g).ptOffset = c.ptOffset := (rfl)

@[simp] theorem Furrow.modBist_ptLog (c : Furrow) (g : Bist → Bist) : (c.modBist g).ptLog = c.ptLog := (rfl)

@[simp] theorem Furrow.modBist_ptPaused (c : Furrow) (g : Bist → Bist) : (c.modBist g).ptPaused = c.ptPaused := (rfl)

@[simp] theorem Furrow.modBist_steps (c : Furrow) (g : Bist → Bist) : (c.modBist g).steps = c.steps := (rfl)

@[simp] theorem Furrow.modBist_peers (c : Furrow) (g : Bist → Bist) : (c.modBist g).peers = c.peers := (rfl)

@[simp] theorem Furrow.modBist_halfImages (c : Furrow) (g : Bist → Bist) : (c.modBist g).halfImages = c.halfImages := (rfl)

@[simp] theorem Furrow.modBist_lastSweep (c : Furrow) (g : Bist → Bist) : (c.modBist g).lastSweep = c.lastSweep := (rfl)

@[simp] theorem Furrow.modBist_lastWindow (c : Furrow) (g : Bist → Bist) : (c.modBist g).lastWindow = c.lastWindow := (rfl)

@[simp] theorem Furrow.modBist_lossCause (c : Furrow) (g : Bist → Bist) : (c.modBist g).lossCause = c.lossCause := (rfl)

/-! ### modAge -/

@[simp] theorem Furrow.modAge_life (c : Furrow) (g : Ageing → Ageing) : (c.modAge g).life = c.life := (rfl)

@[simp] theorem Furrow.modAge_ns (c : Furrow) (g : Ageing → Ageing) : (c.modAge g).ns = c.ns := (rfl)

@[simp] theorem Furrow.modAge_refCycle (c : Furrow) (g : Ageing → Ageing) : (c.modAge g).refCycle = c.refCycle := (rfl)

@[simp] theorem Furrow.modAge_pasidEn (c : Furrow) (g : Ageing → Ageing) : (c.modAge g).pasidEn = c.pasidEn := (rfl)

@[simp] theorem Furrow.modAge_latches (c : Furrow) (g : Ageing → Ageing) : (c.modAge g).latches = c.latches := (rfl)

@[simp] theorem Furrow.modAge_boundaryDue (c : Furrow) (g : Ageing → Ageing) : (c.modAge g).boundaryDue = c.boundaryDue := (rfl)

@[simp] theorem Furrow.modAge_quanta (c : Furrow) (g : Ageing → Ageing) : (c.modAge g).quanta = c.quanta := (rfl)

@[simp] theorem Furrow.modAge_ctx (c : Furrow) (g : Ageing → Ageing) : (c.modAge g).ctx = c.ctx := (rfl)

@[simp] theorem Furrow.modAge_t1Owner (c : Furrow) (g : Ageing → Ageing) : (c.modAge g).t1Owner = c.t1Owner := (rfl)

@[simp] theorem Furrow.modAge_reqs (c : Furrow) (g : Ageing → Ageing) : (c.modAge g).reqs = c.reqs := (rfl)

@[simp] theorem Furrow.modAge_order (c : Furrow) (g : Ageing → Ageing) : (c.modAge g).order = c.order := (rfl)

@[simp] theorem Furrow.modAge_cores (c : Furrow) (g : Ageing → Ageing) : (c.modAge g).cores = c.cores := (rfl)

@[simp] theorem Furrow.modAge_texts (c : Furrow) (g : Ageing → Ageing) : (c.modAge g).texts = c.texts := (rfl)

@[simp] theorem Furrow.modAge_msix (c : Furrow) (g : Ageing → Ageing) : (c.modAge g).msix = c.msix := (rfl)

@[simp] theorem Furrow.modAge_err (c : Furrow) (g : Ageing → Ageing) : (c.modAge g).err = c.err := (rfl)

@[simp] theorem Furrow.modAge_bist (c : Furrow) (g : Ageing → Ageing) : (c.modAge g).bist = c.bist := (rfl)

@[simp] theorem Furrow.modAge_health (c : Furrow) (g : Ageing → Ageing) : (c.modAge g).health = c.health := (rfl)

@[simp] theorem Furrow.modAge_healthA (c : Furrow) (g : Ageing → Ageing) : (c.modAge g).healthA = c.healthA := (rfl)

@[simp] theorem Furrow.modAge_healthB (c : Furrow) (g : Ageing → Ageing) : (c.modAge g).healthB = c.healthB := (rfl)

@[simp] theorem Furrow.modAge_recordFail (c : Furrow) (g : Ageing → Ageing) : (c.modAge g).recordFail = c.recordFail := (rfl)

@[simp] theorem Furrow.modAge_counts (c : Furrow) (g : Ageing → Ageing) : (c.modAge g).counts = c.counts := (rfl)

@[simp] theorem Furrow.modAge_age (c : Furrow) (g : Ageing → Ageing) : (c.modAge g).age = g c.age := (rfl)

@[simp] theorem Furrow.modAge_pwr (c : Furrow) (g : Ageing → Ageing) : (c.modAge g).pwr = c.pwr := (rfl)

@[simp] theorem Furrow.modAge_cal (c : Furrow) (g : Ageing → Ageing) : (c.modAge g).cal = c.cal := (rfl)

@[simp] theorem Furrow.modAge_sec (c : Furrow) (g : Ageing → Ageing) : (c.modAge g).sec = c.sec := (rfl)

@[simp] theorem Furrow.modAge_tally (c : Furrow) (g : Ageing → Ageing) : (c.modAge g).tally = c.tally := (rfl)

@[simp] theorem Furrow.modAge_grn (c : Furrow) (g : Ageing → Ageing) : (c.modAge g).grn = c.grn := (rfl)

@[simp] theorem Furrow.modAge_pyr (c : Furrow) (g : Ageing → Ageing) : (c.modAge g).pyr = c.pyr := (rfl)

@[simp] theorem Furrow.modAge_srch (c : Furrow) (g : Ageing → Ageing) : (c.modAge g).srch = c.srch := (rfl)

@[simp] theorem Furrow.modAge_tbl (c : Furrow) (g : Ageing → Ageing) : (c.modAge g).tbl = c.tbl := (rfl)

@[simp] theorem Furrow.modAge_attached (c : Furrow) (g : Ageing → Ageing) : (c.modAge g).attached = c.attached := (rfl)

@[simp] theorem Furrow.modAge_winEn (c : Furrow) (g : Ageing → Ageing) : (c.modAge g).winEn = c.winEn := (rfl)

@[simp] theorem Furrow.modAge_winSize (c : Furrow) (g : Ageing → Ageing) : (c.modAge g).winSize = c.winSize := (rfl)

@[simp] theorem Furrow.modAge_windows (c : Furrow) (g : Ageing → Ageing) : (c.modAge g).windows = c.windows := (rfl)

@[simp] theorem Furrow.modAge_toks (c : Furrow) (g : Ageing → Ageing) : (c.modAge g).toks = c.toks := (rfl)

@[simp] theorem Furrow.modAge_tokStatus (c : Furrow) (g : Ageing → Ageing) : (c.modAge g).tokStatus = c.tokStatus := (rfl)

@[simp] theorem Furrow.modAge_plans (c : Furrow) (g : Ageing → Ageing) : (c.modAge g).plans = c.plans := (rfl)

@[simp] theorem Furrow.modAge_ptOffset (c : Furrow) (g : Ageing → Ageing) : (c.modAge g).ptOffset = c.ptOffset := (rfl)

@[simp] theorem Furrow.modAge_ptLog (c : Furrow) (g : Ageing → Ageing) : (c.modAge g).ptLog = c.ptLog := (rfl)

@[simp] theorem Furrow.modAge_ptPaused (c : Furrow) (g : Ageing → Ageing) : (c.modAge g).ptPaused = c.ptPaused := (rfl)

@[simp] theorem Furrow.modAge_steps (c : Furrow) (g : Ageing → Ageing) : (c.modAge g).steps = c.steps := (rfl)

@[simp] theorem Furrow.modAge_peers (c : Furrow) (g : Ageing → Ageing) : (c.modAge g).peers = c.peers := (rfl)

@[simp] theorem Furrow.modAge_halfImages (c : Furrow) (g : Ageing → Ageing) : (c.modAge g).halfImages = c.halfImages := (rfl)

@[simp] theorem Furrow.modAge_lastSweep (c : Furrow) (g : Ageing → Ageing) : (c.modAge g).lastSweep = c.lastSweep := (rfl)

@[simp] theorem Furrow.modAge_lastWindow (c : Furrow) (g : Ageing → Ageing) : (c.modAge g).lastWindow = c.lastWindow := (rfl)

@[simp] theorem Furrow.modAge_lossCause (c : Furrow) (g : Ageing → Ageing) : (c.modAge g).lossCause = c.lossCause := (rfl)

/-! ### modReq -/

@[simp] theorem Furrow.modReq_life (c : Furrow) (h : Handle) (tag : Tag) (g : Request → Request) : (c.modReq h tag g).life = c.life := (rfl)

@[simp] theorem Furrow.modReq_ns (c : Furrow) (h : Handle) (tag : Tag) (g : Request → Request) : (c.modReq h tag g).ns = c.ns := (rfl)

@[simp] theorem Furrow.modReq_refCycle (c : Furrow) (h : Handle) (tag : Tag) (g : Request → Request) : (c.modReq h tag g).refCycle = c.refCycle := (rfl)

@[simp] theorem Furrow.modReq_pasidEn (c : Furrow) (h : Handle) (tag : Tag) (g : Request → Request) : (c.modReq h tag g).pasidEn = c.pasidEn := (rfl)

@[simp] theorem Furrow.modReq_latches (c : Furrow) (h : Handle) (tag : Tag) (g : Request → Request) : (c.modReq h tag g).latches = c.latches := (rfl)

@[simp] theorem Furrow.modReq_boundaryDue (c : Furrow) (h : Handle) (tag : Tag) (g : Request → Request) : (c.modReq h tag g).boundaryDue = c.boundaryDue := (rfl)

@[simp] theorem Furrow.modReq_quanta (c : Furrow) (h : Handle) (tag : Tag) (g : Request → Request) : (c.modReq h tag g).quanta = c.quanta := (rfl)

@[simp] theorem Furrow.modReq_ctx (c : Furrow) (h : Handle) (tag : Tag) (g : Request → Request) : (c.modReq h tag g).ctx = c.ctx := (rfl)

@[simp] theorem Furrow.modReq_t1Owner (c : Furrow) (h : Handle) (tag : Tag) (g : Request → Request) : (c.modReq h tag g).t1Owner = c.t1Owner := (rfl)

@[simp] theorem Furrow.modReq_order (c : Furrow) (h : Handle) (tag : Tag) (g : Request → Request) : (c.modReq h tag g).order = c.order := (rfl)

@[simp] theorem Furrow.modReq_cores (c : Furrow) (h : Handle) (tag : Tag) (g : Request → Request) : (c.modReq h tag g).cores = c.cores := (rfl)

@[simp] theorem Furrow.modReq_texts (c : Furrow) (h : Handle) (tag : Tag) (g : Request → Request) : (c.modReq h tag g).texts = c.texts := (rfl)

@[simp] theorem Furrow.modReq_msix (c : Furrow) (h : Handle) (tag : Tag) (g : Request → Request) : (c.modReq h tag g).msix = c.msix := (rfl)

@[simp] theorem Furrow.modReq_err (c : Furrow) (h : Handle) (tag : Tag) (g : Request → Request) : (c.modReq h tag g).err = c.err := (rfl)

@[simp] theorem Furrow.modReq_bist (c : Furrow) (h : Handle) (tag : Tag) (g : Request → Request) : (c.modReq h tag g).bist = c.bist := (rfl)

@[simp] theorem Furrow.modReq_health (c : Furrow) (h : Handle) (tag : Tag) (g : Request → Request) : (c.modReq h tag g).health = c.health := (rfl)

@[simp] theorem Furrow.modReq_healthA (c : Furrow) (h : Handle) (tag : Tag) (g : Request → Request) : (c.modReq h tag g).healthA = c.healthA := (rfl)

@[simp] theorem Furrow.modReq_healthB (c : Furrow) (h : Handle) (tag : Tag) (g : Request → Request) : (c.modReq h tag g).healthB = c.healthB := (rfl)

@[simp] theorem Furrow.modReq_recordFail (c : Furrow) (h : Handle) (tag : Tag) (g : Request → Request) : (c.modReq h tag g).recordFail = c.recordFail := (rfl)

@[simp] theorem Furrow.modReq_counts (c : Furrow) (h : Handle) (tag : Tag) (g : Request → Request) : (c.modReq h tag g).counts = c.counts := (rfl)

@[simp] theorem Furrow.modReq_age (c : Furrow) (h : Handle) (tag : Tag) (g : Request → Request) : (c.modReq h tag g).age = c.age := (rfl)

@[simp] theorem Furrow.modReq_pwr (c : Furrow) (h : Handle) (tag : Tag) (g : Request → Request) : (c.modReq h tag g).pwr = c.pwr := (rfl)

@[simp] theorem Furrow.modReq_cal (c : Furrow) (h : Handle) (tag : Tag) (g : Request → Request) : (c.modReq h tag g).cal = c.cal := (rfl)

@[simp] theorem Furrow.modReq_sec (c : Furrow) (h : Handle) (tag : Tag) (g : Request → Request) : (c.modReq h tag g).sec = c.sec := (rfl)

@[simp] theorem Furrow.modReq_tally (c : Furrow) (h : Handle) (tag : Tag) (g : Request → Request) : (c.modReq h tag g).tally = c.tally := (rfl)

@[simp] theorem Furrow.modReq_grn (c : Furrow) (h : Handle) (tag : Tag) (g : Request → Request) : (c.modReq h tag g).grn = c.grn := (rfl)

@[simp] theorem Furrow.modReq_pyr (c : Furrow) (h : Handle) (tag : Tag) (g : Request → Request) : (c.modReq h tag g).pyr = c.pyr := (rfl)

@[simp] theorem Furrow.modReq_srch (c : Furrow) (h : Handle) (tag : Tag) (g : Request → Request) : (c.modReq h tag g).srch = c.srch := (rfl)

@[simp] theorem Furrow.modReq_tbl (c : Furrow) (h : Handle) (tag : Tag) (g : Request → Request) : (c.modReq h tag g).tbl = c.tbl := (rfl)

@[simp] theorem Furrow.modReq_attached (c : Furrow) (h : Handle) (tag : Tag) (g : Request → Request) : (c.modReq h tag g).attached = c.attached := (rfl)

@[simp] theorem Furrow.modReq_winEn (c : Furrow) (h : Handle) (tag : Tag) (g : Request → Request) : (c.modReq h tag g).winEn = c.winEn := (rfl)

@[simp] theorem Furrow.modReq_winSize (c : Furrow) (h : Handle) (tag : Tag) (g : Request → Request) : (c.modReq h tag g).winSize = c.winSize := (rfl)

@[simp] theorem Furrow.modReq_windows (c : Furrow) (h : Handle) (tag : Tag) (g : Request → Request) : (c.modReq h tag g).windows = c.windows := (rfl)

@[simp] theorem Furrow.modReq_toks (c : Furrow) (h : Handle) (tag : Tag) (g : Request → Request) : (c.modReq h tag g).toks = c.toks := (rfl)

@[simp] theorem Furrow.modReq_tokStatus (c : Furrow) (h : Handle) (tag : Tag) (g : Request → Request) : (c.modReq h tag g).tokStatus = c.tokStatus := (rfl)

@[simp] theorem Furrow.modReq_plans (c : Furrow) (h : Handle) (tag : Tag) (g : Request → Request) : (c.modReq h tag g).plans = c.plans := (rfl)

@[simp] theorem Furrow.modReq_ptOffset (c : Furrow) (h : Handle) (tag : Tag) (g : Request → Request) : (c.modReq h tag g).ptOffset = c.ptOffset := (rfl)

@[simp] theorem Furrow.modReq_ptLog (c : Furrow) (h : Handle) (tag : Tag) (g : Request → Request) : (c.modReq h tag g).ptLog = c.ptLog := (rfl)

@[simp] theorem Furrow.modReq_ptPaused (c : Furrow) (h : Handle) (tag : Tag) (g : Request → Request) : (c.modReq h tag g).ptPaused = c.ptPaused := (rfl)

@[simp] theorem Furrow.modReq_steps (c : Furrow) (h : Handle) (tag : Tag) (g : Request → Request) : (c.modReq h tag g).steps = c.steps := (rfl)

@[simp] theorem Furrow.modReq_peers (c : Furrow) (h : Handle) (tag : Tag) (g : Request → Request) : (c.modReq h tag g).peers = c.peers := (rfl)

@[simp] theorem Furrow.modReq_halfImages (c : Furrow) (h : Handle) (tag : Tag) (g : Request → Request) : (c.modReq h tag g).halfImages = c.halfImages := (rfl)

@[simp] theorem Furrow.modReq_lastSweep (c : Furrow) (h : Handle) (tag : Tag) (g : Request → Request) : (c.modReq h tag g).lastSweep = c.lastSweep := (rfl)

@[simp] theorem Furrow.modReq_lastWindow (c : Furrow) (h : Handle) (tag : Tag) (g : Request → Request) : (c.modReq h tag g).lastWindow = c.lastWindow := (rfl)

@[simp] theorem Furrow.modReq_lossCause (c : Furrow) (h : Handle) (tag : Tag) (g : Request → Request) : (c.modReq h tag g).lossCause = c.lossCause := (rfl)

/-! ### modPort -/

@[simp] theorem Furrow.modPort_life (c : Furrow) (p : PortIx) (g : Port → Port) : (c.modPort p g).life = c.life := (rfl)

@[simp] theorem Furrow.modPort_ns (c : Furrow) (p : PortIx) (g : Port → Port) : (c.modPort p g).ns = c.ns := (rfl)

@[simp] theorem Furrow.modPort_refCycle (c : Furrow) (p : PortIx) (g : Port → Port) : (c.modPort p g).refCycle = c.refCycle := (rfl)

@[simp] theorem Furrow.modPort_pasidEn (c : Furrow) (p : PortIx) (g : Port → Port) : (c.modPort p g).pasidEn = c.pasidEn := (rfl)

@[simp] theorem Furrow.modPort_latches (c : Furrow) (p : PortIx) (g : Port → Port) : (c.modPort p g).latches = c.latches := (rfl)

@[simp] theorem Furrow.modPort_boundaryDue (c : Furrow) (p : PortIx) (g : Port → Port) : (c.modPort p g).boundaryDue = c.boundaryDue := (rfl)

@[simp] theorem Furrow.modPort_quanta (c : Furrow) (p : PortIx) (g : Port → Port) : (c.modPort p g).quanta = c.quanta := (rfl)

@[simp] theorem Furrow.modPort_ctx (c : Furrow) (p : PortIx) (g : Port → Port) : (c.modPort p g).ctx = c.ctx := (rfl)

@[simp] theorem Furrow.modPort_t1Owner (c : Furrow) (p : PortIx) (g : Port → Port) : (c.modPort p g).t1Owner = c.t1Owner := (rfl)

@[simp] theorem Furrow.modPort_reqs (c : Furrow) (p : PortIx) (g : Port → Port) : (c.modPort p g).reqs = c.reqs := (rfl)

@[simp] theorem Furrow.modPort_order (c : Furrow) (p : PortIx) (g : Port → Port) : (c.modPort p g).order = c.order := (rfl)

@[simp] theorem Furrow.modPort_cores (c : Furrow) (p : PortIx) (g : Port → Port) : (c.modPort p g).cores = c.cores := (rfl)

@[simp] theorem Furrow.modPort_texts (c : Furrow) (p : PortIx) (g : Port → Port) : (c.modPort p g).texts = c.texts := (rfl)

@[simp] theorem Furrow.modPort_msix (c : Furrow) (p : PortIx) (g : Port → Port) : (c.modPort p g).msix = c.msix := (rfl)

@[simp] theorem Furrow.modPort_err (c : Furrow) (p : PortIx) (g : Port → Port) : (c.modPort p g).err = c.err := (rfl)

@[simp] theorem Furrow.modPort_bist (c : Furrow) (p : PortIx) (g : Port → Port) : (c.modPort p g).bist = c.bist := (rfl)

@[simp] theorem Furrow.modPort_health (c : Furrow) (p : PortIx) (g : Port → Port) : (c.modPort p g).health = c.health := (rfl)

@[simp] theorem Furrow.modPort_healthA (c : Furrow) (p : PortIx) (g : Port → Port) : (c.modPort p g).healthA = c.healthA := (rfl)

@[simp] theorem Furrow.modPort_healthB (c : Furrow) (p : PortIx) (g : Port → Port) : (c.modPort p g).healthB = c.healthB := (rfl)

@[simp] theorem Furrow.modPort_recordFail (c : Furrow) (p : PortIx) (g : Port → Port) : (c.modPort p g).recordFail = c.recordFail := (rfl)

@[simp] theorem Furrow.modPort_counts (c : Furrow) (p : PortIx) (g : Port → Port) : (c.modPort p g).counts = c.counts := (rfl)

@[simp] theorem Furrow.modPort_age (c : Furrow) (p : PortIx) (g : Port → Port) : (c.modPort p g).age = c.age := (rfl)

@[simp] theorem Furrow.modPort_pwr (c : Furrow) (p : PortIx) (g : Port → Port) : (c.modPort p g).pwr = c.pwr := (rfl)

@[simp] theorem Furrow.modPort_cal (c : Furrow) (p : PortIx) (g : Port → Port) : (c.modPort p g).cal = c.cal := (rfl)

@[simp] theorem Furrow.modPort_sec (c : Furrow) (p : PortIx) (g : Port → Port) : (c.modPort p g).sec = c.sec := (rfl)

@[simp] theorem Furrow.modPort_tally (c : Furrow) (p : PortIx) (g : Port → Port) : (c.modPort p g).tally = c.tally := (rfl)

@[simp] theorem Furrow.modPort_grn (c : Furrow) (p : PortIx) (g : Port → Port) : (c.modPort p g).grn = c.grn := (rfl)

@[simp] theorem Furrow.modPort_srch (c : Furrow) (p : PortIx) (g : Port → Port) : (c.modPort p g).srch = c.srch := (rfl)

@[simp] theorem Furrow.modPort_tbl (c : Furrow) (p : PortIx) (g : Port → Port) : (c.modPort p g).tbl = c.tbl := (rfl)

@[simp] theorem Furrow.modPort_attached (c : Furrow) (p : PortIx) (g : Port → Port) : (c.modPort p g).attached = c.attached := (rfl)

@[simp] theorem Furrow.modPort_winEn (c : Furrow) (p : PortIx) (g : Port → Port) : (c.modPort p g).winEn = c.winEn := (rfl)

@[simp] theorem Furrow.modPort_winSize (c : Furrow) (p : PortIx) (g : Port → Port) : (c.modPort p g).winSize = c.winSize := (rfl)

@[simp] theorem Furrow.modPort_windows (c : Furrow) (p : PortIx) (g : Port → Port) : (c.modPort p g).windows = c.windows := (rfl)

@[simp] theorem Furrow.modPort_toks (c : Furrow) (p : PortIx) (g : Port → Port) : (c.modPort p g).toks = c.toks := (rfl)

@[simp] theorem Furrow.modPort_tokStatus (c : Furrow) (p : PortIx) (g : Port → Port) : (c.modPort p g).tokStatus = c.tokStatus := (rfl)

@[simp] theorem Furrow.modPort_plans (c : Furrow) (p : PortIx) (g : Port → Port) : (c.modPort p g).plans = c.plans := (rfl)

@[simp] theorem Furrow.modPort_ptOffset (c : Furrow) (p : PortIx) (g : Port → Port) : (c.modPort p g).ptOffset = c.ptOffset := (rfl)

@[simp] theorem Furrow.modPort_ptLog (c : Furrow) (p : PortIx) (g : Port → Port) : (c.modPort p g).ptLog = c.ptLog := (rfl)

@[simp] theorem Furrow.modPort_ptPaused (c : Furrow) (p : PortIx) (g : Port → Port) : (c.modPort p g).ptPaused = c.ptPaused := (rfl)

@[simp] theorem Furrow.modPort_steps (c : Furrow) (p : PortIx) (g : Port → Port) : (c.modPort p g).steps = c.steps := (rfl)

@[simp] theorem Furrow.modPort_peers (c : Furrow) (p : PortIx) (g : Port → Port) : (c.modPort p g).peers = c.peers := (rfl)

@[simp] theorem Furrow.modPort_halfImages (c : Furrow) (p : PortIx) (g : Port → Port) : (c.modPort p g).halfImages = c.halfImages := (rfl)

@[simp] theorem Furrow.modPort_lastSweep (c : Furrow) (p : PortIx) (g : Port → Port) : (c.modPort p g).lastSweep = c.lastSweep := (rfl)

@[simp] theorem Furrow.modPort_lastWindow (c : Furrow) (p : PortIx) (g : Port → Port) : (c.modPort p g).lastWindow = c.lastWindow := (rfl)

@[simp] theorem Furrow.modPort_lossCause (c : Furrow) (p : PortIx) (g : Port → Port) : (c.modPort p g).lossCause = c.lossCause := (rfl)

end Sys2Proof.Machine
end

