-- ==== Sys2Proof/Tests/Slice0.lean ====
section
/-! SUPPORT. Small tests of the commands, the smoke tests of WellFormed, and for each obligation a witness that its hypotheses can be
met. A witness shows, clause by clause, a state and operands at which the clause's hypotheses hold; the places in the spec are those of
the obligation. -/

set_option Elab.async false
set_option maxRecDepth 20000
set_option synthInstance.maxSize 2048
set_option synthInstance.maxHeartbeats 200000

namespace Sys2Proof.Tests

open Sys2Proof Sys2Proof.Machine

/-! ### States -/

/-- Furrow 0 in service at 1 ms, its registers as after reset. -/
def up : Furrow := { Furrow.initial 0 with life := .ready, ns := 1000000 }

/-- The module with furrow 0 as given, out of PERST# and with power. -/
def on (c : Furrow) : State :=
  let s := State.reset.setFurrow 0 c
  { s with hdl := { s.hdl with vaux := true, mainPower := true, perst := false, portUp := true } }

/-- The rings of handle 0 changed on a furrow. -/
def ringed (g : Rings → Rings) : Furrow := up.modRings 0 g

/-- A request of handle 0 with tag 7, at one descriptor that begins with these bytes. -/
def ask (phase : Phase) (d : List Byte) : Request :=
  { h := 0, tag := 7, order := 0, first := 0, descs := [d ++ List.replicate (64 - d.length) 0], idx := 0, phase := phase, fetchNs := 0,
    firstNs := none, lastNs := 0, worstNs := 0, lastSteps := [], engineNs := 0, engFrac := 0, keyNs := 0, kept := [], estimate := 0, estClass := .matrix, uses := [],
    cancelNs := none, late := false, widened := false, nested := false, throttled := false, pinned := [], place := none, needs := [],
    await := none, waitNs := none, asked := 0, owed := 0, measures := [], outs := [], stage := 0, acks := [], dones := [], goSent := false,
    memberEnds := [], origin := none, base := 0, carried := [], gone := false, batch := [], contrib := [], gen := none, merge := none, posted := false, isBox := false }

/-- Furrow 0 with one request. -/
def busy (q : Request) : Furrow := { up with reqs := [q] }

/-- Furrow 0 with one request at work on a descriptor. -/
def atOp (d : List Byte) : Furrow := busy (ask .running d)

/-! ### Witnesses: the module and its host interface -/

theorem witness_IdleStepIsOneCycleOfEveryFurrow : (on up).pending = [] := rfl

theorem witness_FurNsGainsThirtyTwoInFiveCycles :
    (on up).pending = [] ∧ up.life ≠ .reset ∧ up.life ≠ .lost ∧ up.refCycle = 0 ∧ (Furrow.initial 3).life = .reset ∧
      ({ up with life := .lost, lossCause := some 1 } : Furrow).lossCause ≠ some 4 ∧
      ({ up with life := .lost, lossCause := some 4 } : Furrow).lossCause = some 4 := by decide +kernel

theorem witness_NoStepClearsAFuseBit : step (on up) = .next (((Run.start (on up)).each (List.finRange 8) fun r f => r.modFur f Furrow.tick).now) := rfl

theorem reset_canonical : State.reset.canonical := by
  intro sp
  cases sp with
  | host => rfl
  | _ f => fin_cases f <;> rfl

theorem on_canonical (c : Furrow) : (on c).canonical := by
  intro sp
  cases sp with
  | host => rfl
  | _ f => fin_cases f <;> rfl

theorem witness_EveryStepKeepsMemoriesCanonical : (on up).canonical ∧
    step (on up) = .next (((Run.start (on up)).each (List.finRange 8) fun r f => r.modFur f Furrow.tick).now) := ⟨on_canonical up, rfl⟩

/-- Rings of handle 0 ACTIVE, with descriptors 0 to 4 announced and records 0 to 2 posted. -/
def active : Furrow := ringed fun g => { g with state := .active, sqTail := 5, cqTail := 3 }

/-- The same rings DRAINING. -/
def draining : Furrow := ringed fun g => { g with state := .draining, cqTail := 3 }

theorem witness_RingSetupWrittenOnlyWhileDisabled :
    (on up).reaches 0 0x20000 = true ∧ ((on up).furrow 0).ctx[(0 : Handle)].rings.state = .disabled ∧
      (on active).reaches 0 0x20000 = true ∧ ((on active).furrow 0).ctx[(0 : Handle)].rings.state ≠ .disabled := by decide +kernel

theorem witness_LowHalfReadLatchesHighHalf : (on up).reaches 0 0x20 = true ∧
    ((on { up with latches := [(0x20, 5)] }).furrow 0).latches.find? (fun p => p.1 = 0x20) = some (0x20, 5) := by decide +kernel

/-- The module with furrow 0 marked LOST by the headland. -/
def lostMarked : State := { on { up with life := .lost } with hdl := { (on up).hdl with lostMap := 1 } }

theorem witness_LostFurrowAnsweredByHeadland : lostMarked.hdl.carries = true ∧ lostMarked.hdl.lostMap.getLsbD (0 : FurrowIx).val = true ∧
    (⟨.bar0, 16, 8⟩ : HostAccess).bar = .bar0 ∧ 16 ≤ (⟨.bar0, 16, 8⟩ : HostAccess).off.toNat ∧ (⟨.bar2, 0, 4⟩ : HostAccess).bar = .bar2 ∧
    (⟨.bar0, 0, 4⟩ : HostAccess).bar = .bar0 := by decide +kernel

theorem witness_RingGroupLifeCycle :
    (on up).reaches 0 0x20030 = true ∧ ((on up).furrow 0).ctx[(0 : Handle)].state ≠ .free ∧
      ((on up).furrow 0).ctx[(0 : Handle)].role ≠ .member ∧ ((on up).furrow 0).ctx[(0 : Handle)].rings.state = .disabled ∧
      ((on up).furrow 0).ctx[(1 : Handle)].state = .free ∧ (on active).reaches 0 0x20030 = true ∧
      ((on active).furrow 0).ctx[(0 : Handle)].rings.state = .active ∧ ((on active).furrow 0).partRuns 0 = [] ∧
      (on draining).reaches 0 0x20030 = true ∧ ((on draining).furrow 0).ctx[(0 : Handle)].rings.state = .draining ∧
      ((on draining).furrow 0).outstanding 0 = [] ∧ ((on draining).furrow 0).ctx[(0 : Handle)].rings.holding = [] := by decide +kernel

theorem witness_DoorbellAcceptedOrFlagged :
    (on active).reaches 0 0x20038 = true ∧ ((on active).furrow 0).ctx[(0 : Handle)].rings.state = .active ∧
      (let g := ((on active).furrow 0).ctx[(0 : Handle)].rings;
        ((16 : W32) - g.sqHead).toNat ≤ 2 ^ g.sqLog.toNat ∧ 2 ^ g.sqLog.toNat < ((17 : W32) - g.sqHead).toNat ∧
        (g.cqTail - (2 : W32)).toNat ≤ 2 ^ g.cqLog.toNat ∧ (g.cqTail - (2 : W32)).toNat ≤ (g.cqTail - g.cqHead).toNat ∧ g.holding = [] ∧
        2 ^ g.cqLog.toNat < (g.cqTail - (4 : W32)).toNat ∧ (g.cqTail - g.cqHead).toNat < (g.cqTail - (0xFFFFFFFF : W32)).toNat) := by
  decide +kernel

theorem witness_DoorbellsOutsideActive :
    ((on up).furrow 0).ctx[(0 : Handle)].rings.state = .disabled ∧
      ((on (ringed fun g => { g with state := .error })).furrow 0).ctx[(0 : Handle)].rings.state = .error ∧
      ((on draining).furrow 0).ctx[(0 : Handle)].rings.state = .draining ∧ (on draining).reaches 0 0x20038 = true ∧
      (let g := ((on draining).furrow 0).ctx[(0 : Handle)].rings;
        (g.cqTail - (3 : W32)).toNat ≤ 2 ^ g.cqLog.toNat ∧ (g.cqTail - (3 : W32)).toNat ≤ (g.cqTail - g.cqHead).toNat ∧
        2 ^ g.cqLog.toNat < (g.cqTail - (4 : W32)).toNat) := by decide +kernel

/-! ### Witnesses: rings, contexts and scheduling -/

/-- ACTIVE rings of handle 0 with one descriptor announced, which lies at the start of host memory. -/
def announced (d : List Host.Cell) : State :=
  { on (ringed fun g => { g with state := .active, sqTail := 1, shadowEn := true }) with host := d }

/-- What an announced descriptor of a tag becomes as it is fetched. -/
def fetched (s : State) (tag : Tag) : Request :=
  { Request.fresh 0 tag (s.furrow 0).order 0 (s.host.read 0 64) (s.furrow 0).ns with phase := .partRun }

/-- The furrow with that request. -/
def fetching (s : State) (tag : Tag) : Furrow :=
  let c := s.furrow 0
  { c.modRings 0 fun g => { g with sqHead := g.sqHead + 1 } with order := c.order + 1, reqs := c.reqs ++ [fetched s tag] }

theorem announced_canonical : (announced [(0, 0xF0), (4, 1)]).canonical := by
  intro sp
  cases sp with
  | host => rfl
  | _ f => fin_cases f <;> rfl

theorem witness_FetchReadsOneBurstThenShadow_one :
    (let s := announced [(0, 0xF0), (4, 1)];
      s.hdl.carries = true ∧ (s.furrow 0).mayFetch 0 = true ∧ (s.furrow 0).ctx[(0 : Handle)].rings.shadowEn = true ∧
        (let g := (s.furrow 0).ctx[(0 : Handle)].rings;
          g.sqTail = g.sqHead + 1 ∧ g.openRun = none ∧ g.kept = [] ∧
            (s.furrow 0).hostAt 0 (g.sqBase.toNat * 4096 + g.sqHead.toNat % 2 ^ g.sqLog.toNat * 64) = 0) ∧
        linkOf (s.host.read 0 64) = false ∧ BitVec.ofNat 32 (df (s.host.read 0 64) 4 4) = (1 : W32) ∧ (1 : Tag) ≠ boxTag ∧
        (s.furrow 0).request? 0 1 = none ∧ (fetching s 1).runFail (fetched s 1) = none ∧ (fetching s 1).lostBelow (fetched s 1) = none ∧
        (let r := (Run.start s).setFur 0 (fetching s 1); r.admission 0 (fetched s 1) (r.runCosts 0 (fetched s 1)) = none)) ∧
    -- Opcode 0 is not one of the table.
    (let s := announced [(4, 1)];
      linkOf (s.host.read 0 64) = false ∧ BitVec.ofNat 32 (df (s.host.read 0 64) 4 4) = (1 : W32) ∧
        ((fetching s 1).runFail (fetched s 1)).isSome = true) := by decide +kernel

theorem witness_FetchReadsOneBurstThenShadow :
    (on active).hdl.carries = true ∧ ((on active).furrow 0).mayFetch 0 = true ∧ ((on up).furrow 0).ctx[(0 : Handle)].rings.state ≠ .active ∧
      (let g := ((on active).furrow 0).ctx[(0 : Handle)].rings; g.shadowEn = false) ∧
      (let g := ((on (ringed fun g => { g with state := .active })).furrow 0).ctx[(0 : Handle)].rings; g.sqHead = g.sqTail) ∧
      4096 ≤ (((on { up with reqs := List.replicate 4096 (ask .queued [0xF0]) }).furrow 0).outstanding 0).length := by decide +kernel

/-- ACTIVE rings with nothing to fetch, and a request of handle 0 that is running. -/
def caught : Furrow := { ringed (fun g => { g with state := .active }) with reqs := [ask .running [0xF0]] }

theorem witness_CancelsReachAndEnd :
    (on active).reaches 0 0x20038 = true ∧ ((on active).furrow 0).ctx[(0 : Handle)].rings.state = .active ∧
      (let g := ((on active).furrow 0).ctx[(0 : Handle)].rings; g.sqHead ≠ g.sqTail) ∧
      (on caught).reaches 0 0x20038 = true ∧ ((on caught).furrow 0).ctx[(0 : Handle)].rings.state = .active ∧
      (let g := ((on caught).furrow 0).ctx[(0 : Handle)].rings; g.sqHead = g.sqTail) ∧
      (let q := ask .running [0xF0];
        ((on caught).furrow 0).request? 0 7 = some q ∧ q.phase = .running ∧ q.gen = none ∧ q.dones = [] ∧
          ((on caught).furrow 0).steps = [] ∧ (7 : Tag) ≠ 0xFFFFFFFF ∧
          (((on caught).furrow 0).reqs.filter fun p => p.h = 0 && p.tag = 7).length = 1) ∧
      (let q := ask .aborting [0xF0];
        (7 : Tag) ≠ boxTag ∧ ((on (busy q)).furrow 0).request? 0 7 = some q ∧ q.phase = .aborting ∧ q.dones = []) ∧
      (ask .running [0xF0]).phase ≠ .aborting := by decide +kernel

theorem witness_DescriptorsStartAndEnd :
    (let q := ask .queued [0xF0];
      (7 : Tag) ≠ boxTag ∧ ((on (busy q)).furrow 0).request? 0 7 = some q ∧ q.phase = .queued ∧ q.origin = none ∧
        ((on (busy q)).furrow 0).placeFits q (.core 0) = true ∧ ((on (busy q)).furrow 0).mayStart q = true ∧
        (Run.start (on (busy q))).startFail 0 { { q with place := q.placeOn (.core 0) } with needs := [] } = none) ∧
    -- A CTX_SET_SHARES of handle 5, which is not in use, is refused as it starts.
    (let q := ask .queued [0xF9, 0, 0, 0, 0, 0, 0, 0, 0, 0, 0, 0, 0, 0, 0, 0, 5, 0, 64];
      ((on (busy q)).furrow 0).placeFits q (.core 0) = true ∧ ((on (busy q)).furrow 0).mayStart q = true ∧
        (Run.start (on (busy q))).startFail 0 { { q with place := q.placeOn (.core 0) } with needs := [] } ≠ none) ∧
    (let q := { ask (.engineDone (Ending.ok 0 0)) [0xF0] with descs := [List.replicate 64 0xF0, List.replicate 64 0xF0] };
      ((on (busy q)).furrow 0).request? 0 7 = some q ∧ q.phase = .engineDone (Ending.ok 0 0) ∧ q.dones = [] ∧
        (q.combine (Ending.ok 0 0)).status = Status.done ∧ q.idx + 1 < q.descs.length) ∧
    (let q := ask (.engineDone (Ending.ok 0 0)) [0xF0];
      ((on (busy q)).furrow 0).request? 0 7 = some q ∧ q.descs.length ≤ q.idx + 1) := by decide +kernel

/-- A request whose end is registered and whose record waits, on ACTIVE rings. -/
def ended (n : W32) : Furrow :=
  { ringed (fun g => { g with state := .active, cqTail := n }) with reqs := [ask (.ended (Ending.ok 0 0)) [0xF0]] }

theorem witness_FinalRecordWrittenAtTailOrHeld :
    ((on (ended 3)).furrow 0).reqs.find? (fun p => p.awaits 0 7 false) = some (ask (.ended (Ending.ok 0 0)) [0xF0]) ∧
      (ask (.ended (Ending.ok 0 0)) [0xF0]).phase = .ended (Ending.ok 0 0) ∧
      ((on (ended 3)).furrow 0).ctx[(0 : Handle)].rings.state = .active ∧ ((on (ended 3)).furrow 0).ctx[(0 : Handle)].rings.holding = [] ∧
      (on (ended 3)).hdl.carries = true ∧ { on (ended 3) with hdl := { (on (ended 3)).hdl with failed := true } }.hdl.carries = false ∧
      ((on (ended 3)).furrow 0).ctx[(0 : Handle)].rings.full = false ∧ ((on (ended 16)).furrow 0).ctx[(0 : Handle)].rings.full = true := by
  decide +kernel

/-- Interrupts of handle 0's ring enabled, with two records since its vector last fired. -/
def armed : Furrow := { ringed (fun g => { g with irqEn := true }) with msix := up.msix.set 1 { up.msix[1] with since := 2 } }

theorem witness_VectorFiresOrGoesPending :
    (((on armed).furrow 0).irqOf 1).1 = true ∧
      ((on armed).furrow 0).msix[(1 : Fin 65)].due ((on armed).furrow 0).ns (((on armed).furrow 0).irqOf 1).2.1
        (((on armed).furrow 0).irqOf 1).2.2 = true ∧
      (on up).hdl.carries = true ∧ { on up with hdl := { (on up).hdl with failed := true } }.hdl.carries = false ∧
      (((on up).furrow 0).irqOf 1).1 = false ∧ (1 : Fin 65) ≠ 2 ∧ (1 : Fin 65).val = (1 : Fin 4).val := by decide +kernel

/-- A request with a TTFR_BUDGET of 5 µs, fetched at 0. -/
def budgeted (p : Phase) : Request := ask p [0xF0, 0, 0, 0, 0, 0, 0, 0, 5]

theorem witness_UnstartedRequestDeferredAtBudget :
    ((on (busy (budgeted .queued))).furrow 0).request? 0 7 = some (budgeted .queued) ∧ (budgeted .queued).origin = none ∧ (budgeted .queued).cancellable = true ∧
      (budgeted .queued).isStarted = false ∧ (budgeted .queued).ttfrNs ≠ 0 ∧
      (budgeted .queued).ttfrNs ≤ elapsed ((on (busy (budgeted .queued))).furrow 0).ns (budgeted .queued).fetchNs ∧
      (budgeted .running).isStarted = true ∧ (ask .queued [0xF0]).ttfrNs = 0 ∧ elapsed 4999 0 < (budgeted .queued).ttfrNs := by decide +kernel

/-- A vector row waits on handle 0, and every core is idle. -/
def idle : Furrow := busy (ask .queued [0x22])

/-- Core 0 serves handle 0, with work or with none. -/
def serving (c : Furrow) : Furrow := { c with cores := c.cores.set 0 (Serve.only 0) }

theorem witness_BoundariesAndIdlePlacesChoose :
    ((on { up with boundaryDue := true }).furrow 0).boundaryDue = true ∧ ((on up).furrow 0).boundaryDue = false ∧
      (((on idle).furrow 0).serveAt (.core 0)).now = none ∧ ((on idle).furrow 0).placeUp (.core 0) = true ∧
      (((on idle).furrow 0).catchUp (((on idle).furrow 0).ready (.core 0))).leastVt (((on idle).furrow 0).ready (.core 0)) = some 0 ∧
      (((on up).furrow 0).serveAt (.core 0)).now = none ∧ ((on up).furrow 0).placeUp (.core 0) = true ∧
      (((on up).furrow 0).catchUp (((on up).furrow 0).ready (.core 0))).leastVt (((on up).furrow 0).ready (.core 0)) = none ∧
      (((on (serving idle)).furrow 0).serveAt (.core 0)).now = some 0 ∧
      (((on (serving idle)).furrow 0).reqs.any fun q => q.h = 0 && q.hasWork (.core 0)) = true ∧
      (((on (serving up)).furrow 0).serveAt (.core 0)).now = some 0 ∧
      (((on (serving up)).furrow 0).reqs.any fun q => q.h = 0 && q.hasWork (.core 0)) = false := by decide +kernel

theorem witness_PreemptedCoreIsClearedForNextContext :
    (let c := { up with cores := up.cores.set 0 { Serve.only 0 with next := some 1 } };
      (((on c).furrow 0).serveAt (.core 0)).now = some 0 ∧ (((on c).furrow 0).serveAt (.core 0)).next = some 1) ∧
    (let c := { up with texts := up.texts.set 0 { Serve.only 0 with next := some 1 } };
      (((on c).furrow 0).serveAt (.text 0)).now = some 0 ∧ (((on c).furrow 0).serveAt (.text 0)).next = some 1) ∧
    (((on up).furrow 0).serveAt (.core 0)).now = none ∧ (((on (serving up)).furrow 0).serveAt (.core 0)).next = none := by decide +kernel

theorem witness_FaultingContextIsTornDown :
    ((on up).furrow 0).ctx[(0 : Handle)].state = .ready ∧ ((on up).furrow 0).ctx[(0 : Handle)].fault = none ∧
      ((((Run.start (on up)).faultRequests 0 0 .regionViolation 0).fur 0).faultPosted 0 .regionViolation) = true ∧
      ((on up).furrow 0).outstanding 0 = [] ∧ ((on up).furrow 0).ctx[(0 : Handle)].rings.holding = [] ∧
      -- With its rings DISABLED the context cannot post its request's record.
      ((((Run.start (on (atOp [0xF0]))).faultRequests 0 0 .regionViolation 0).fur 0).faultPosted 0 .regionViolation) = false ∧
      ((on (up.modCtx 1 fun x => { x with state := .member })).furrow 0).ctx[(1 : Handle)].state = .member ∧
      ((on up).furrow 0).ctx[(1 : Handle)].state ≠ .ready ∧ ((on up).furrow 0).ctx[(1 : Handle)].state ≠ .member := by decide +kernel

/-- A context operation of handle 0 on handle 5. -/
def onFive (op : Byte) : List Byte := [op, 0, 0, 0, 0, 0, 0, 0, 0, 0, 0, 0, 0, 0, 0, 0, 5]

theorem witness_RecoveryAndTableOperationsTakeEffect :
    (on (up.modCtx 0 fun x => { x with state := .faulted })).reaches 0 0x10008 = true ∧
      ((on (up.modCtx 0 fun x => { x with state := .faulted })).furrow 0).ctx[(0 : Handle)].state = .faulted ∧
      (on (Furrow.initial 0)).reaches 0 0x10008 = false ∧ ((on up).furrow 0).ctx[(0 : Handle)].state ≠ .faulted ∧ (5 : Handle) ≠ 0 ∧
      ([0xF9, 0xFB, 0xFC] : List Byte).all (fun op => opHandle (ask .running (onFive op)).desc = some 5 &&
        ((on (atOp (onFive op))).furrow 0).atWork 0 7 op = some (ask .running (onFive op))) = true := by decide +kernel

/-- A fence behind an earlier request of its ring. -/
def behind (d : List Byte) : Furrow := { up with reqs := [{ ask .running d with order := 1 }, { ask .running [0xF0] with tag := 6 }] }

theorem witness_FencesWaitThenSignal :
    (ask .running [0xF0]).origin = none ∧ (ask .running [0xF2]).dones = [] ∧
      ((on (atOp [0xF0])).furrow 0).atWork 0 7 0xF0 = some (ask .running [0xF0]) ∧
      ((on (atOp [0xF1])).furrow 0).atWork 0 7 0xF1 = some (ask .running [0xF1]) ∧ ((on (atOp [0xF1])).furrow 0).earlierGone 0 0 = true ∧
      ((on (behind [0xF1])).furrow 0).atWork 0 7 0xF1 = some { ask .running [0xF1] with order := 1 } ∧
      ((on (behind [0xF1])).furrow 0).earlierGone 0 1 = false ∧
      ((on (atOp [0xF2])).furrow 0).atWork 0 7 0xF2 = some (ask .running [0xF2]) ∧ ((on (atOp [0xF2])).furrow 0).earlierGone 0 0 = true ∧
      ((on (atOp [0xF2])).furrow 0).granaryQuiet 0 = true ∧
      ((on (behind [0xF2])).furrow 0).atWork 0 7 0xF2 = some { ask .running [0xF2] with order := 1 } ∧
      ((on (behind [0xF2])).furrow 0).earlierGone 0 1 = false := by decide +kernel

/-- Handle 5 in use, with ACTIVE rings and records posted to a count. -/
def five (n : W32) (c : Furrow) : Furrow :=
  (c.modCtx 5 fun x => { x with state := .ready }).modRings 5 fun g => { g with state := .active, cqTail := n }

theorem witness_ContextsAreCreatedAndDestroyed :
    (5 : Handle) ≠ 0 ∧
    (let d := [0xF8, 0, 0, 0, 0, 0, 0, 0, 0, 0, 0, 0, 0, 0, 0, 0, 5];
      ((on (atOp d)).furrow 0).atWork 0 7 0xF8 = some (ask .running d) ∧ opHandle (ask .running d).desc = some 5 ∧
        ((on (atOp d)).furrow 0).grn.usable = false) ∧
    (let d := [0xFD, 0, 0, 0, 0, 0, 0, 0, 0, 0, 0, 0, 0, 0, 0, 0, 5];
      ((on (atOp d)).furrow 0).atWork 0 7 0xFD = some (ask .running d) ∧ opHandle (ask .running d).desc = some 5 ∧
        (((Run.start (on (five 0 (atOp d)))).destroyRequests 0 5).fur 0).drained 5 = true ∧
        (((Run.start (on { five 16 (atOp d) with
          reqs := [ask .running d, { ask .running [0x22] with h := 5 }] })).destroyRequests 0 5).fur 0).drained 5 = false) := by
  decide +kernel

theorem witness_BindingToASpan :
    (5 : Handle) ≠ 0 ∧
    (let d := [0xFA, 0, 0, 0, 0, 0, 0, 0, 0, 0, 0, 0, 0, 0, 0, 0, 5, 0, 2];
      ((on (atOp d)).furrow 0).atWork 0 7 0xFA = some (ask .running d) ∧ opHandle (ask .running d).desc = some 5 ∧
        (ask .running d).stage = 0 ∧ bindRole (ask .running d).desc = 2) ∧
    -- A root with an empty member table.
    (let d := [0xFA, 0, 0, 0, 0, 0, 0, 0, 0, 0, 0, 0, 0, 0, 0, 0, 5, 0, 1];
      let q := ask .running d;
      ((on (atOp d)).furrow 0).atWork 0 7 0xFA = some q ∧ opHandle q.desc = some 5 ∧ q.stage = 0 ∧ bindRole q.desc ≠ 2 ∧
        ((on (atOp d)).furrow 0).firstBad { q.eng 0 with h := 5 } [(2, (bindTable q.desc).off, 8 * bindEntries q.desc)] = none ∧
        tableEntries ((Run.start (on (atOp d))).load 0 5 0 2 (bindTable q.desc).off (8 * bindEntries q.desc)) = [] ∧
        spanIdsOk [((on (atOp d)).furrow 0).fabricId 0] = true) ∧
    -- A join that F1 has not answered in 20 ms.
    (let q := { ask .running [0xFA] with stage := 1, acks := [1], waitNs := some 0 };
      let c := { busy q with ns := 20000000 };
      ((on c).furrow 0).request? 0 7 = some q ∧ q.phase = .running ∧ opcodeOf q.desc = 0xFA ∧ q.stage ≠ 0 ∧ q.acks ≠ [] ∧
        10000000 ≤ elapsed ((on c).furrow 0).ns (q.waitNs.getD ((on c).furrow 0).ns)) := by decide +kernel

/-! ### Witnesses: the opcodes -/

theorem witness_MatrixVectorAndScanRowsEnd :
    (([0x20, 0x21, 0x22, 0x23, 0x24, 0x25, 0x26, 0x27, 0x31] : List Byte).all fun op =>
      let s := on (atOp [op]);
      let q := ask .running [op];
      decide ((s.furrow 0).atWork 0 7 op = some q) && decide ((s.furrow 0).atWork 0 6 op = none) && decide ((s.furrow 0).counts.bad = []) &&
        decide ((s.furrow 0).firstBad (q.eng 0) (((ScanDesc.of q.desc).q.tier, (ScanDesc.of q.desc).q.off, (ScanDesc.of q.desc).bytes) ::
          (ScanDesc.of q.desc).codes.rowExtents (ScanDesc.of q.desc).n (ScanDesc.of q.desc).bytes) = none)) = true := by decide +kernel

/-- Furrow 0 with a request and search slot 0 as given. -/
def withSlot (c : Furrow) (t : SearchSlot) : Furrow := { c with srch := c.srch.set 0 t }

/-- A slot of handle 0 that serves shard 0. -/
def servingSlot : SearchSlot := { SearchSlot.initial with state := .serving }

/-- The view of the merge of handle 0's request 7. -/
def mergeView : View := ⟨0, 7, true, 0, 0, 0, 0, (0, 0)⟩

/-- Furrow 0 with unit 0 of cluster 0 held by handle 0, where walks find room. -/
def roomy (c : Furrow) : Furrow := { c with t1Owner := c.t1Owner.set 0 (some 0) }

theorem witness_SearchAndMergeReleaseTheirViews :
    ((on (atOp [0x30])).furrow 0).atWork 0 7 0x30 = some (ask .running [0x30]) ∧ ((on (atOp [0x30])).furrow 0).counts.bad = [] ∧
      ((on (atOp [0x3B])).furrow 0).atWork 0 7 0x3B = some (ask .running [0x3B]) ∧
      ((on (withSlot (atOp [0x3B]) { servingSlot with views := [mergeView] })).furrow 0).mergeHeld 0 7 = some (0, mergeView) ∧
      ((on (withSlot (atOp [0x3B]) { servingSlot with views := [mergeView] })).furrow 0).atWork 0 7 0x3B = some (ask .running [0x3B]) ∧
      ((on (atOp [0x3B])).furrow 0).mergeHeld 0 7 = none ∧
      (let q := { ask .running [0x3B] with merge := some ⟨true⟩ };
        let s := on (roomy (withSlot (busy q) { servingSlot with mergeDue := true }));
        (s.furrow 0).request? 0 7 = some q ∧ (s.furrow 0).slotNamed 0 (df q.desc 16 2) true = some 0 ∧ q.phase = .running ∧
          opcodeOf q.desc = 0x3B ∧ q.merge = some ⟨true⟩ ∧ (s.furrow 0).srch[(0 : SlotIx)].mergeDue = true ∧
          ((s.furrow 0).mergeRoom q).isSome = true) := by decide +kernel

/-- A slot with room for one more node. -/
def openSlot : SearchSlot := { servingSlot with nodeCap := 1, sideLog := 16 }

/-- An update of one item of shard 0, for a REPLACE of passage 0. -/
def oneItem (op : Byte) : List Byte := [op] ++ zeros 25 ++ [1]

theorem witness_UpdatesAndRestoreMoveTheEpoch :
    (([0x38, 0x39, 0x3A] : List Byte).all fun op =>
      let q := ask .running (oneItem op);
      let s := on (withSlot (busy q) openSlot);
      decide ((s.furrow 0).atWork 0 7 op = some q) && decide ((s.furrow 0).slotNamed 0 (UpdDesc.of q.desc).shard false = some 0) &&
        (s.furrow 0).updateTurn 0 q && decide ((s.furrow 0).counts.bad = []) && decide ((UpdDesc.of q.desc).n = 1) &&
        decide (((on (busy q)).furrow 0).slotNamed 0 (UpdDesc.of q.desc).shard false = none) &&
        (((on (busy q)).furrow 0).below q.h).2.isEmpty) = true ∧
      openSlot.full true false 0 0 false = none ∧ (openSlot.dlogTail - openSlot.dlogHead).toNat + 1 ≤ 65536 ∧
      -- A REPLACE of the one passage of a slot with room for a second.
      (let x := { openSlot with nodeCap := 2, nodeCount := 1 };
        x.full true true 0 0 false = none ∧ x.present (UpdDesc.of (ask .running (oneItem 0x3A)).desc).old = some 0 ∧
          (Run.start (on (withSlot up x))).tombed 0 x 0 = false) ∧
      -- An INSERT behind an earlier one of its shard.
      (let q := { ask .running (oneItem 0x38) with order := 1 };
        let c := { withSlot up { openSlot with users := [(0, 0), (1, 0)] } with reqs := [q, { ask .running (oneItem 0x38) with tag := 6 }] };
        (c.atWork 0 7 0x38 = some q) ∧ c.slotNamed 0 (UpdDesc.of q.desc).shard false = some 0 ∧ c.updateTurn 0 q = false) := by decide +kernel

/-- The binding of a root of handle 0 with one member, furrow 1. -/
def rootOfOne : SpanBind :=
  { h := 0, entries := [{ id := 1, furrows := 1, first := 1, lastEcho := 0, lost := false, stands := [] }], rootId := 0, number := 0, child := 0,
    lastBeat := 0, recorded := true, sentBeat := 0, pins := [], asking := [], asked := none }

/-- A root's request whose span has a member below that has sent nothing. -/
def spanning (q : Request) : Furrow :=
  { (busy q).modCtx 0 (fun x => { x with role := .root, spanId := 3 }) with
    pyr := { up.pyr with enabled := true, spans := [rootOfOne] } }

/-- A contribution of furrow 1 to a request that stands alone in its span: flat number 1 with one byte. -/
def pieceOfOne : Packet :=
  { kind := Kind.coll, vc := 2, cls := 0, dest := 0, src := 1, span := 3, tag := 7, addr := collAddr 0 0 1, aux := 1, hops := 0,
    payload := spanPiece 1 [5] }

/-- A switch area of zeros with its CRC, at the place where a slot of handle 0 has it. -/
def switchArea (x : SearchSlot) : List Host.Cell :=
  (bytesToCells (zeros 60 ++ leBytes 4 (crc32c (zeros 60)))).map fun c => (x.switchAt + c.1, c.2)

theorem witness_UpdatesAndRestoreMoveTheEpoch_span :
    (let q := { ask .running (oneItem 0x38) with contrib := [pieceOfOne] };
      let c := spanning q;
      c.slotNamed 0 (UpdDesc.of q.desc).shard false = none ∧ (c.below q.h).2.isEmpty = false ∧ c.backFrom q = some [5]) ∧
    (let s := (on (atOp [0x3C])).setMem (.hbm 0) (switchArea SearchSlot.initial);
      let sw := (Run.start s).shard 0 SearchSlot.initial SearchSlot.initial.switchAt 64;
      (s.furrow 0).atWork 0 7 0x3C = some (ask .running [0x3C]) ∧ (s.furrow 0).counts.bad = [] ∧ restoreSlot (ask .running [0x3C]).desc = 0 ∧
        (s.furrow 0).srch[(0 : SlotIx)] = SearchSlot.initial ∧ fieldAt sw 60 4 = crc32c (sw.take 60) ∧
        fieldAt sw 36 2 = SearchSlot.initial.shardId.toNat ∧
        countsFrom (BitVec.ofNat 32 (fieldAt sw 28 4)) (BitVec.ofNat 32 (fieldAt sw 32 4)) = []) ∧
    (let sw := (Run.start (on (atOp [0x3C]))).shard 0 SearchSlot.initial SearchSlot.initial.switchAt 64;
      fieldAt sw 60 4 ≠ crc32c (sw.take 60)) := by decide +kernel

/-- An IDLE slot that passes the checks of its enable: one node, which its entry table names. -/
def soundSlot : SearchSlot :=
  { SearchSlot.initial with nodeCap := 1, nodeCount := 1, entryBase := 16, tombBase := 32, dlogBase := 256, sideBase := 4096 }

theorem witness_SearchSlotLifeCycle :
    (on (withSlot up soundSlot)).reaches 0 0x100000 = true ∧
      ((on (withSlot up soundSlot)).furrow 0).srch[(0 : SlotIx)].state = .idle ∧
      (Run.start (on (withSlot up soundSlot))).enableError 0 0 = 0 ∧
      ((on (withSlot up { soundSlot with degree := 3 })).furrow 0).srch[(0 : SlotIx)].state = .idle ∧
      (Run.start (on (withSlot up { soundSlot with degree := 3 }))).enableError 0 0 ≠ 0 ∧
      ((on (withSlot up servingSlot)).furrow 0).srch[(0 : SlotIx)].state = .serving ∧
      ((on (withSlot up { servingSlot with state := .draining })).furrow 0).srch[(0 : SlotIx)].state = .draining ∧
      ((on (withSlot up { servingSlot with state := .draining })).furrow 0).srch[(0 : SlotIx)].views = [] ∧
      ((on (withSlot up { servingSlot with state := .draining })).furrow 0).reqs = [] ∧
      ((on (withSlot up { servingSlot with state := .draining })).furrow 0).slotUsed 0 = false ∧
      (on (withSlot up servingSlot)).reaches 0 0x100000 = true ∧ (on (withSlot (Furrow.initial 0) servingSlot)).reaches 0 0x100000 = false ∧
      (let q := ask .running (oneItem 0x38);
        let c := withSlot (busy q) { openSlot with users := [(0, 0)] };
        c.updatesOn c.srch[(0 : SlotIx)] = [q] ∧ c.request? q.h q.tag = some q ∧ c.slotUsed 0 = true) ∧
      ((on (withSlot up { servingSlot with views := [mergeView] })).furrow 0).srch[(0 : SlotIx)].views ≠ [] := by decide +kernel

/-- A descriptor of 64 bytes: its opcode, then fields at their offsets, and zeros. -/
def row (op : Byte) (fields : List (Nat × List Byte)) : List Byte :=
  fields.foldl (fun d p => d.take p.1 ++ p.2 ++ d.drop (p.1 + p.2.length)) (op :: zeros 63)

/-- A reference of tier 2 to an offset of its region. -/
def hbmRef (off : Nat) : List Byte := leBytes 8 (2 ^ 63 + off)

/-- The module with furrow 0 as given and bytes at an offset of its HBM. -/
def onHbm (c : Furrow) (a : Nat) (bs : List Byte) : State :=
  let s := on c
  s.setMem (.hbm 0) ((s.mem (.hbm 0)).write a bs)

/-- A tokenizer that handle 0 has loaded under number 0, with an image of 64 zeros. -/
def withTok (c : Furrow) : Furrow := { c with toks := [⟨0, 0, 2, 0, 64⟩] }

/-- A member's part of the root's request, once the root has said GO. -/
def part (q : Request) : Request := { q with origin := some (3, 7), gone := true }

theorem on_furrow (c : Furrow) : (on c).furrow 0 = c := rfl

theorem witness_SelectionAndRerankRowsEnd :
    up.counts.bad = [] ∧
      (([0x40, 0x59] : List Byte).all fun op => decide (((on (atOp [op])).furrow 0).atWork 0 7 op = some (ask .running [op]))) = true ∧
      (([0x41, 0x58] : List Byte).all fun op =>
        let q := ask .running [op];
        decide ((spanning q).atWork 0 7 op = some q) && decide ((spanning q).counts.bad = []) && decide (q.stage = 0) &&
          decide ((spanning q).piecesBelow q = none)) = true ∧
      (let q := ask .running [0x41]; (busy q).atWork 0 7 0x41 = some q ∧ (busy q).piecesBelow q = some [] ∧ q.origin = none) ∧
      (let q := part (ask .running [0x41]); (busy q).atWork 0 7 0x41 = some q ∧ (busy q).piecesBelow q = some [] ∧ q.origin ≠ none) ∧
      (let q := ask .running [0x58];
        let c := withTok (busy q);
        c.atWork 0 7 0x58 = some q ∧ c.counts.bad = [] ∧ q.stage = 0 ∧ q.origin = none ∧ (c.below q.h).2 = [] ∧ q.carried = [] ∧
          (c.tok? 0 ((Run.start (on c)).candArgs (q.eng 0) q).pair.tok).isSome = true ∧ ∀ i : SlotIx, c.srch[i].psEn = false) ∧
      (let q := ask .running [0x5A]; (spanning q).atWork 0 7 0x5A = some q ∧ q.stage = 0 ∧ (spanning q).piecesLeft q q.collKey = none) ∧
      (let q := ask .running (row 0x5A [(16, hbmRef 0), (48, hbmRef 8192), (61, [1])]);
        let c := withTok (busy q);
        let r := Run.start (onHbm c 0 [1]);
        c.atWork 0 7 0x5A = some q ∧ c.counts.bad = [] ∧ q.stage = 0 ∧ q.origin = none ∧ (c.below q.h).2 = [] ∧
          (c.tok? 0 (fieldAt (r.template (q.eng 0) q.desc) 4 4)).isSome = true ∧
          min (r.loadNat 0 0 (q.eng 0).core (tref q.desc 16).tier (tref q.desc 16).off 4) (df q.desc 61 1) = 1 ∧
          c.inside 0 2 ((tref q.desc 48).off +
            8192 * fieldAt (r.load 0 0 (q.eng 0).core (tref q.desc 16).tier ((tref q.desc 16).off + 64) 16) 12 4) 8192 = true) := by
  decide +kernel

/-! ### Witnesses: text and generation -/

/-- A byte of the least tokenizer image: 256 byte tokens, each the identifier of its byte, no merge, and one state of two classes. -/
def imgByte (i : Nat) : Byte :=
  if i < 64 then
    (leBytes 2 1 ++ zeros 2 ++ leBytes 4 256 ++ zeros 6 ++ [2, 1] ++ zeros 4 ++ leBytes 2 1 ++ zeros 2 ++ leBytes 4 64 ++ zeros 4 ++
      leBytes 4 1088 ++ leBytes 4 3136 ++ zeros 8 ++ leBytes 4 3392 ++ leBytes 4 3396 ++ zeros 8).getD i 0
  else if i < 1088 then (if i % 4 = 0 then BitVec.ofNat 8 ((i - 64) / 4) else 0)
  else if i < 3136 then (if i % 8 = 0 then BitVec.ofNat 8 ((i - 1088) / 8) else if i % 8 = 4 then 1 else 0)
  else if i < 3392 then BitVec.ofNat 8 (i - 3136)
  else 0

/-- The bytes of a range of that image. -/
def imgBytes (a n : Nat) : List Byte := (List.range' a n).map imgByte

/-- The image. -/
def img : TokImage := imgBytes 0 3396

theorem img_cut (a n : Nat) (h : a + n ≤ 3396) : (img.drop a).take n = imgBytes a n := by
  apply List.ext_getElem
  · simp [img, imgBytes]; omega
  · intro i h1 h2
    simp [img, imgBytes]

theorem img_field (a n : Nat) (h : a + n ≤ 3396) : fieldAt img a n = leNat (imgBytes a n) := by rw [fieldAt, img_cut a n h]

theorem img_bytes (a n : Nat) (h : a + n ≤ 3396) : bytesAt img a n = imgBytes a n := by
  rw [bytesAt, img_cut a n h]; simp [imgBytes, zeros]

/-- The image stored at the start of a memory reads back in any of its ranges. -/
theorem img_read (a n : Nat) (h : a + n ≤ 3396) : (Mem.write [] 0 img).read a n = imgBytes a n := by
  apply List.ext_getElem
  · simp [imgBytes]
  · intro i h1 h2
    have hi : a + i < img.length := by simp [img, imgBytes] at h1 h2 ⊢; omega
    have := Mem.get_write_inside img [] 0 (a + i) rfl hi
    rw [Nat.zero_add] at this
    simp only [Mem.read, imgBytes, List.getElem_map, List.getElem_range, this, List.getElem_range', Nat.one_mul]
    simp [img, imgBytes]

/-- A byte token, its string-index entry and its string. -/
theorem img_token : ∀ t, t < 256 →
    leNat (imgBytes (64 + 4 * t) 4) = t ∧ leNat (imgBytes (1088 + 8 * t) 4) = t ∧ leNat (imgBytes (1088 + 8 * t + 4) 2) = 1 ∧
      leNat (imgBytes (1088 + 8 * t + 6) 2) = 0 ∧ imgBytes (3136 + t) 1 = [BitVec.ofNat 8 t] := by decide +kernel

theorem img_header : img.arr 0 = 64 ∧ img.arr 2 = 1088 ∧ img.arr 3 = 3136 ∧ img.vocab = 256 ∧ img.strSize = 256 ∧ img.maxLen = 1 ∧
    img.check01 = none ∧ img.check02 true = none ∧ img.check04 = none ∧ img.check05 = none ∧ img.check06 = none ∧ img.check07 = none ∧
    img.check09 = none ∧ img.check0A = none ∧ img.nMerge = 0 := by decide +kernel

theorem firstAt_none (n : Nat) (g : Nat → Option Nat) (h : ∀ i, i < n → g i = none) : TokImage.firstAt ((List.range n).map g) = none := by
  simp only [TokImage.firstAt, List.findSome?_eq_none_iff, List.mem_map, List.mem_range]
  rintro x ⟨i, hi, rfl⟩
  exact h i hi

theorem img_byteTok (b : Nat) (h : b < 256) : img.byteTok b = b := by
  rw [TokImage.byteTok, img_header.1, img_field _ _ (by omega)]
  exact (img_token b h).1

theorem img_check03 : img.check03 = none := by
  refine firstAt_none 256 _ fun b hb => ?_
  have hv := img_header.2.2.2.1
  have hs : img.str b = [BitVec.ofNat 8 b] := by
    have e := img_token b hb
    rw [TokImage.str, img_header.2.1, img_header.2.2.1, img_field _ _ (by omega), img_field _ _ (by omega), e.2.1, e.2.2.1,
      img_bytes _ _ (by omega), e.2.2.2.2]
  have ha : ((List.range b).any fun a => img.byteTok a = b) = false := by
    simp only [List.any_eq_false, List.mem_range, decide_eq_true_eq]
    intro a h
    rw [img_byteTok a (by omega)]; omega
  simp [TokImage.failAt, img_byteTok b hb, hv, hs, ha]; omega

theorem img_check08 : img.check08 = none := by
  have hh := img_header
  rw [TokImage.check08, hh.2.2.2.1]
  refine firstAt_none 256 _ fun t ht => ?_
  have e := img_token t ht
  simp [TokImage.failAt, hh.2.1, hh.2.2.2.2.1, hh.2.2.2.2.2.1, img_field (1088 + 8 * t) 4 (by omega),
    img_field (1088 + 8 * t + 4) 2 (by omega), img_field (1088 + 8 * t + 6) 2 (by omega), e.2.1, e.2.2.1, e.2.2.2.1]; omega

theorem img_check : img.check true = none := by
  have h := img_header
  simp [TokImage.check, h, img_check03, img_check08]

/-- A TXT_LOAD under handle 5 of an image at the start of its region, with WORK 64 KiB above it. -/
def loading : Request := ask .running (row 0x50 [(16, hbmRef 0), (24, hbmRef 65536), (48, [5])])

theorem img_load (a n : Nat) (h : a + n ≤ 3396) : (Run.start (onHbm (busy loading) 0 img)).load 0 0 0 2 a n = imgBytes a n := by
  have : ((Run.start (onHbm (busy loading) 0 img)).fur 0).pieces 0 0 0 2 a n = [(.hbm 0, 0 + a, n)] := rfl
  simp only [Run.load, this, List.flatMap_cons, List.flatMap_nil, List.append_nil, Nat.zero_add]
  exact img_read a n h

/-- The checks of a load pass where the image lies in the region and passes its own, the number is free and WORK is in order. -/
theorem loadCheck_passes {s : State} (r : Run s) (e : Eng) (d : List Byte) (n k : Nat) (t w : TRef) (g : TokImage)
    (ht : tref d 16 = t) (hw : tref d 24 = w) (hk : df d 48 4 = k) (hn : r.loadNat e.f e.h e.core t.tier (t.off + 52) 4 = n) (h64 : 64 ≤ n)
    (hi : (r.fur e.f).inside e.h t.tier t.off n = true) (hg : r.load e.f e.h e.core t.tier t.off n = g) (hc : g.check true = none)
    (k0 : k ≠ 0) (k16 : k ≤ 16) (free : (r.fur e.f).tok? e.h k = none)
    (wi : (r.fur e.f).inside e.h w.tier w.off (workBytes g.nMerge) = true) (wo : w.overlap (workBytes g.nMerge) t n = false) :
    r.loadCheck e d = (0, 0) := by
  have h : max 64 n = n := by omega
  simp only [Run.loadCheck, ht, hw, hk, hn, hi, if_true, h, hg, hc, k0, Nat.not_lt.mpr k16, free, wi, wo, Option.isSome_none,
    Bool.false_eq_true, or_self, if_false, Bool.not_true, Bool.or_self]

theorem img_loadCheck : (Run.start (onHbm (busy loading) 0 img)).loadCheck (loading.eng 0) loading.desc = (0, 0) :=
  loadCheck_passes _ (loading.eng 0) loading.desc 3396 5 ⟨2, 0, 0⟩ ⟨2, 0, 65536⟩ img (by decide +kernel) (by decide +kernel) (by decide +kernel)
    (by
      show leNat ((Run.start (onHbm (busy loading) 0 img)).load 0 0 0 2 (0 + 52) 4) = 3396
      rw [img_load (0 + 52) 4 (by omega)]; decide +kernel) (by omega)
    (show (busy loading).inside 0 2 0 3396 = true by decide +kernel) (img_load 0 3396 (by omega)) img_check (by omega) (by omega) rfl
    (by rw [img_header.2.2.2.2.2.2.2.2.2.2.2.2.2.2]; show (busy loading).inside 0 2 65536 (workBytes 0) = true; decide +kernel)
    (by rw [img_header.2.2.2.2.2.2.2.2.2.2.2.2.2.2]; decide +kernel)

theorem witness_TextRowsEnd_load :
    (busy loading).atWork 0 7 0x50 = some loading ∧ (busy loading).counts.bad = [] ∧ loading.stage = 0 ∧ loading.origin = none ∧
      ((busy loading).below loading.h).2 = [] ∧
      ((Run.start (onHbm (busy loading) 0 img)).loadCheck (loading.eng 0) loading.desc).1 = 0 :=
  ⟨by decide +kernel, rfl, rfl, rfl, by decide +kernel, by rw [img_loadCheck]⟩

/-- A grammar that is a list of one token, 5. -/
def listGram : List Byte := leBytes 2 1 ++ [1, 0] ++ leBytes 4 256 ++ leBytes 4 1 ++ zeros 24 ++ leBytes 4 64 ++ leBytes 4 68 ++ zeros 20 ++ leBytes 4 5

/-- The module with furrow 0 as given, that grammar at the start of its HBM, an instance of it at 4 KiB and two tokens at 8 KiB, 5 and 0. -/
def onGram (c : Furrow) : State :=
  let s := onHbm c 0 listGram
  s.setMem (.hbm 0) (((s.mem (.hbm 0)).write 4096 (hbmRef 0)).write 8192 (leBytes 4 5))

/-- An advance of that instance by n tokens from an offset. -/
def advancing (at_ : Nat) : Request := ask .running (row 0x56 [(16, hbmRef 4096), (24, hbmRef at_), (32, [1])])

/-- An unload of a tokenizer while a started TOKENIZE uses it. -/
def tokBusy : Furrow := withTok { up with reqs := [ask .running [0x51], { ask .running [0x52] with tag := 6 }] }

theorem witness_TextRowsEnd :
    (let q := ask .running [0x50];
      (busy q).atWork 0 7 0x50 = some q ∧ q.stage = 0 ∧ ((Run.start (on (busy q))).loadCheck (q.eng 0) q.desc).1 ≠ 0) ∧
      tokBusy.atWork 0 7 0x51 = some (ask .running [0x51]) ∧ (Run.start (on tokBusy)).tokBusy 0 0 0 = true ∧
      (atOp [0x51]).atWork 0 7 0x51 = some (ask .running [0x51]) ∧ (Run.start (on (atOp [0x51]))).tokBusy 0 0 0 = false ∧
      (([0x52, 0x53] : List Byte).all fun op =>
        decide ((withTok (atOp [op])).atWork 0 7 op = some (ask .running [op])) && decide ((atOp [op]).tok? 0 0 = none) &&
          ((withTok (atOp [op])).tok? 0 0).isSome) = true ∧
      (atOp [0x55]).atWork 0 7 0x55 = some (ask .running [0x55]) ∧
      (let q := ask .running [0x54];
        let g := (Run.start (on (busy q))).gramDef (q.eng 0) (tref q.desc 16);
        (busy q).atWork 0 7 0x54 = some q ∧ g.enter g.start [] = some .malformed) := by decide +kernel

theorem witness_TextRowsEnd_grammar :
    (let q := ask .running (row 0x54 [(16, hbmRef 0), (24, hbmRef 4096)]);
      let g := (Run.start (onGram (busy q))).gramDef (q.eng 0) (tref q.desc 16);
      (busy q).atWork 0 7 0x54 = some q ∧ g.enter g.start [] = none) ∧
      (([8192, 8196] : List Nat).all fun at_ =>
        let q := advancing at_;
        let r := Run.start (onGram (busy q));
        let e := q.eng 0;
        let g := r.gramDef e (r.instGram e (tref q.desc 16));
        let p := instPos (r.load 0 0 e.core (tref q.desc 16).tier (tref q.desc 16).off instBytes);
        decide ((busy q).atWork 0 7 0x56 = some q) &&
          decide ((g.steps p (r.tokensAt e (tref q.desc 24) (df q.desc 32 1))).2 = if at_ = 8192 then none else some .notAllowed)) = true := by
  decide +kernel

/-- A generation in progress of plan 3. -/
def genNow : GenWork :=
  { plan := 3, cache := 0, params := [], prompt := [], todo := [], emitted := [], drafts := [], held := [], textLen := 0, switched := none,
    committing := false, cancel := false }

/-- A step of plan 3 in handle 0, over everywhere, whose commit has begun. -/
def stepOver : StepWork :=
  { h := 0, plan := 3, rows := [], sampled := 0, parts := [], ended := none, told := true, failed := false, commits := some [], quit := false }

/-- Furrow 0 with plan 3 loaded for handle 0 from an image of zeros, and a step. -/
def stepping (w : StepWork) : Furrow := { up with plans := [⟨0, 3, 0⟩], steps := [w] }

/-- A step with 449 progress records to post, one more than rings and holding queue have room for. -/
def manyParts : StepWork := { stepOver with commits := none, parts := List.replicate 449 ⟨0, 1, 0, 1, [], 0, 0⟩ }

theorem witness_GenerationRows :
    (([0x60, 0x61, 0x62, 0x63] : List Byte).all fun op => decide ((atOp [op]).atWork 0 7 op = some (ask .running [op]))) = true ∧
      (let q := ask .running [0x61]; q.origin = none ∧ q.stage = 0 ∧ ((busy q).below q.h).2 = [] ∧ (busy q).counts.bad = [] ∧
        (busy q).planBusy 0 (planHandle q.desc) = false ∧
        ({ busy q with steps := [{ stepOver with plan := 0 }] }).planBusy 0 (planHandle q.desc) = true ∧
        ({ busy q with steps := [{ stepOver with plan := 0 }] }).atWork 0 7 0x61 = some q) ∧
      (ask .running [0x63]).origin = none ∧ (ask .running [0x63]).gen = none ∧
      (let q := { ask .running [0x63] with gen := some genNow }; (busy q).atWork 0 7 0x63 = some q ∧ q.origin = none ∧ q.gen ≠ none) ∧
      up.serves = true ∧ up.ctx[(0 : Handle)].role ≠ .member ∧ up.step? 0 = none ∧
      (([none, some []] : List (Option (List StepCommit))).all fun cs =>
        let w := { stepOver with commits := cs };
        decide ((stepping w).serves = true) && decide ((stepping w).step? 0 = some w) && decide (w.plan = 3) && w.told && !w.failed &&
          up.ctx[(0 : Handle)].rings.roomFor w.toPost && ((Run.start (on (stepping w))).planOf 0 0 3).isSome) = true ∧
      (let w := { stepOver with commits := none };
        let img := (Run.start (on (stepping w))).planAt 0 0 0;
        (((Run.start (on (stepping w))).commitBegin 0 0 w img).fur 0).step? 0 = some stepOver) ∧
      (4 : W32) ≠ stepOver.plan ∧ ({ stepOver with told := false } : StepWork).told = false ∧
      ({ stepOver with failed := true } : StepWork).failed = true ∧
      (stepping manyParts).step? 0 = some manyParts ∧ up.ctx[(0 : Handle)].rings.roomFor manyParts.toPost = false := by decide +kernel

theorem witness_PauseRowsAndSweep :
    (([0x64, 0x65, 0x66] : List Byte).all fun op =>
      let q := { ask .running [op] with stage := if op = 0x65 then 4 else 0 };
      decide ((busy q).atWork 0 7 op = some q) && decide ((busy q).atWork 0 6 op = none) && decide (q.origin = none) &&
        decide (((busy q).below q.h).2 = []) && decide (((busy q).imageSpot 0 q).tier = 2) && !(busy q).transfers 0 7 &&
        decide ((busy q).counts.bad = [])) = true ∧
      up.cal.valid = false ∧ (Furrow.initial 0).serves = false ∧
      (let c := up.modCal fun k => { k with valid := true, stamp := 65536 };
        c.cal.valid = true ∧ c.serves = true ∧ c.cal.stamp.toNat / 32768 ≠ c.lastSweep.toNat / 32768) ∧
      up.cal.stamp.toNat / 32768 = up.lastSweep.toNat / 32768 := by decide +kernel

/-- Furrow 0 with table slot 0 as given. -/
def withTable (c : Furrow) (t : TableSlot) : Furrow := { c with tbl := c.tbl.set 0 t }

/-- An IDLE slot of 16 rows of 64 numbers. -/
def soundTable : TableSlot := { TableSlot.initial with rows := 16, dim := 64 }

/-- Such a slot that serves two members, with room for guests and a route table of 64 entries. -/
def servingTable : TableSlot := { soundTable with state := .serving, nshard := 2, guest := 4, logRoute := 6 }

/-- A migration of row 0. -/
def moving : Migration := { row := 0, target := 1, slot := 0, owner := none, stage := .reading, dirty := false, asked := false, data := [] }

/-- A TBL_MIGRATE of row 0 to a member. -/
def migrating (m : Nat) : Request := ask .running (row 0x73 [(20, leBytes 2 m)])

theorem witness_TableRowsAndSlots :
    (([(0x70, 36), (0x71, 36), (0x72, 28), (0x73, 22)] : List (Byte × Nat)).all fun x =>
      let q := ask .running (row x.1 [(x.2, [16])]);
      let p := ask .running [x.1];
      decide (q.origin = none) && decide ((busy q).atWork 0 7 x.1 = some q) && decide ((busy q).atWork 0 6 x.1 = none) &&
        decide (16 ≤ df q.desc x.2 1) && decide ((busy p).atWork 0 7 x.1 = some p) && decide (df p.desc x.2 1 = (0 : TableIx).val) &&
        decide (p.stage = 0) && decide (((busy p).below p.h).2 = []) && decide ((busy p).counts.bad = []) &&
        !(df p.desc 29 1).testBit 0 && decide ((busy p).tbl[(0 : TableIx)].migration = none)) = true ∧
      (let q := migrating 1;
        let c := withTable (busy q) servingTable;
        let r := Run.start (on c);
        c.atWork 0 7 0x73 = some q ∧ df q.desc 22 1 = (0 : TableIx).val ∧ servingTable.migration = none ∧ servingTable.stale = false ∧
          ({ servingTable with migration := some moving } : TableSlot).migration ≠ none ∧
          (r.migrateBar 0 servingTable (df q.desc 16 4) (df q.desc 20 2)).isOk = true ∧
          (r.migrateBar 0 servingTable 0 0).isOk = false ∧ (r.migrateBar 0 { servingTable with guest := 0 } 0 1).isOk = false) := by
  decide +kernel

theorem witness_TableRowsAndSlots_slots :
    (on (withTable up soundTable)).reaches 0 0x180000 = true ∧ soundTable.state = .idle ∧
      (withTable up soundTable).tbl[(0 : TableIx)] = soundTable ∧ (Run.start (on (withTable up soundTable))).tableError 0 0 = 0 ∧
      (Run.start (on (withTable up TableSlot.initial))).tableError 0 0 ≠ 0 ∧ TableSlot.initial.state = .idle ∧
      (on (Furrow.initial 0)).reaches 0 0x180000 = false ∧
      (on (withTable up servingTable)).reaches 0 0x180000 = true ∧ servingTable.state = .serving ∧ servingTable.migration = none ∧
      servingTable.holds = [] ∧ (withTable up servingTable).tableUsers 0 = [] ∧ (withTable (atOp [0x70]) servingTable).tableUsers 0 ≠ [] ∧
      ({ servingTable with state := .draining } : TableSlot).holds = [] ∧
      soundTable.stale = false ∧ soundTable.oldDraining = false ∧
      (let t := { soundTable with oldDraining := true }; t.stale = false ∧ t.oldDraining = true ∧ t.oldRefs = 0) ∧
      ({ soundTable with oldRefs := 1 } : TableSlot).oldRefs ≠ 0 ∧
      up.ctx[servingTable.handle].role ≠ .member ∧
      ((up.modCtx 0 fun x => { x with role := .member }).ctx[servingTable.handle].role = .member) ∧
      up.ns.toNat / 10000000 ≤ up.lastWindow.toNat / 10000000 ∧
      (let c := { up with ns := 20000000 }; c.lastWindow.toNat / 10000000 < c.ns.toNat / 10000000) := by decide +kernel

/-- An object record whose CHECK holds: object 9, one segment of 4,096 B, its copy at 1 MiB and its home at 2 MiB of the own region. -/
def objectBytes : List Byte :=
  leBytes 2 1 ++ leBytes 2 9 ++ leBytes 4 1 ++ leBytes 8 4096 ++ (leBytes 8 0x100000 ++ [2] ++ List.replicate 7 0) ++
    (leBytes 8 0x200000 ++ [2] ++ List.replicate 7 0) ++ leBytes 8 0 ++ leBytes 4 0 ++ leBytes 4 2227626248

/-- Furrow 0 with that object attached by its record at 4 KiB. -/
def attached (c : Furrow) : Furrow := { c with attached := [⟨0, 9, 4096, []⟩] }

/-- A location of member 0 in a tier. -/
def locBytes (tier : Byte) (addr : Nat) : List Byte := leBytes 8 addr ++ [tier] ++ zeros 7

/-- A MOVE of 4 bytes from one tier to another. -/
def moved (a b : Byte) : Request := ask .running (row 0x10 [(16, locBytes a 0), (32, locBytes b 64), (48, leBytes 8 4)])

/-- A MOVE_LIST of one entry, which stands at the start of the HBM. -/
def listed : Request := ask .running (row 0x11 [(16, hbmRef 0), (24, leBytes 2 1)])

/-- The module with furrow 0 as given whose host port is lost. -/
def portLost (c : Furrow) : State := { on c with hdl := { (on c).hdl with portUp := false } }

theorem witness_MoveAndTierRows :
    up.counts.bad = [] ∧ (up.transfers 0 7 = false) ∧ (on up).hdl.carries = true ∧ (portLost up).hdl.carries = false ∧
      (∀ a, a ∈ up.attached → a.h ≠ 0) ∧
      (([(2, 2), (2, 5), (5, 2)] : List (Byte × Byte)).all fun x =>
        let q := moved x.1 x.2;
        let m := Move.of q.desc 16;
        decide ((busy q).atWork 0 7 0x10 = some q) && !(busy q).transfers 0 7 && decide (m.src.member = (busy q).flatNumber q) &&
          decide (m.dst.member = (busy q).flatNumber q) && decide (m.src.tier = x.1.toNat) && decide (m.dst.tier = x.2.toNat)) = true ∧
      (let s := onHbm (busy listed) 0 (locBytes 2 0x1000 ++ locBytes 2 0x2000 ++ leBytes 8 4 ++ zeros 8);
        (busy listed).atWork 0 7 0x11 = some listed ∧ ((Run.start s).movesOf 0 listed).isEmpty = false ∧
          (((Run.start s).movesOf 0 listed).all fun m => decide (m.src.member = (busy listed).flatNumber listed) &&
            decide (m.dst.member = (busy listed).flatNumber listed) && decide (m.src.tier = 2) && decide (m.dst.tier = 2)) = true) := by
  decide +kernel

theorem witness_MoveAndTierRows_canonical : (on (busy (moved 2 2))).canonical := on_canonical _

theorem witness_MoveAndTierRows_objects :
    (let q := ask .running (row 0x12 [(16, hbmRef 4096)]);
      let s := onHbm (busy q) 4096 objectBytes;
      let o := (Run.start s).objAt 0 0 (tref q.desc 16).off;
      (busy q).atWork 0 7 0x12 = some q ∧ q.origin = none ∧ q.stage = 0 ∧ ((busy q).below q.h).2 = [] ∧
        df q.desc 24 4 = (busy q).flatNumber q ∧ fieldAt o.bytes 60 4 = crc32c (o.bytes.take 60) ∧
        ((Run.start s).attachCheck 0 q o).isNone = true ∧ (busy q).homeOk q o.report = true) ∧
      (([0x13, 0x14, 0x15] : List Byte).all fun op =>
        let q := ask .running (row op [(16, [9])]);
        let c := attached (busy q);
        let o := (Run.start (onHbm c 4096 objectBytes)).objAt 0 0 4096;
        let own := c.flatNumber q;
        decide (c.atWork 0 7 op = some q) && decide (tierMember q.desc = own) && decide ((busy q).object? 0 (df q.desc 16 2) = none) &&
          decide (c.object? 0 (df q.desc 16 2) = some ⟨0, 9, 4096, []⟩) && decide (q.stage = 0) && decide (c.counts.bad = []) &&
          !c.transfers 0 7 && decide ((o.home.spot own (c.spanIds 0 q)).tier < 3) && decide ((o.copy.spot own (c.spanIds 0 q)).tier < 3) &&
          decide (tierMember (row op [(28, [1])]) ≠ own)) = true := by decide +kernel

/-! ### Witnesses: the Granary -/

/-- Furrow 0 with its Granary as given. -/
def withGrn (g : Granary → Granary) : Furrow := up.modGrn g

/-- A Granary that takes requests on both channels. -/
def mounted (g : Granary) : Granary := { g with state := .ready, mounted := #v[true, true], logicalMib := 64 }

/-- A GRN_RECLAIM on channel 0 to a target, with a limit of 500 µs. -/
def reclaiming (target : W16) (g : Granary) : Granary := { mounted g with reclaim := some (0, 7, 1, target, 500, 0) }

/-- What one checkpoint leaves on the NAND of a Granary of 64 MiB. -/
def checkpointed (g : Granary) : Granary :=
  { g with
    state := .mounting
    nand := { g.nand with roots := [⟨1, 64, 2367520, 0, 0⟩], ckpt := some (0, []), table := some ⟨[], 0, 0⟩ } }

/-- A block of handle 0's request 7 that waits for a slot. -/
def waitingBlock : GrnWrite := { h := 0, tag := 7, lbn := 0, data := [], stage := .waiting }

theorem witness_GranaryCommandsAndMounting :
    ((on (atOp [0x80])).furrow 0).atWork 0 7 0x80 = some (ask .running [0x80]) ∧
      ((on (atOp [0x80])).furrow 0).flatNumber (ask .running [0x80]) = df (ask .running [0x80]).desc 32 4 ∧
      (let d := [0x80] ++ List.replicate 31 0 ++ [1];
        ((on (atOp d)).furrow 0).atWork 0 7 0x80 = some (ask .running d) ∧
          ((on (atOp d)).furrow 0).flatNumber (ask .running d) ≠ df (ask .running d).desc 32 4) ∧
      ((on (atOp [0x81])).furrow 0).atWork 0 7 0x81 = some (ask .running [0x81]) ∧
      (let c := (atOp [0x82]).modGrn (reclaiming 0);
        ((on c).furrow 0).atWork 0 7 0x82 = some (ask .running [0x82]) ∧ ((on c).furrow 0).grn.reclaim = some (0, 7, 1, 0, 500, 0) ∧
          ((on c).furrow 0).grn.wantsReclaim 0 = false ∧ ((on c).furrow 0).grn.wantsReclaim 1 = false) ∧
      (let c := (atOp [0x82]).modGrn (reclaiming 1);
        ((on c).furrow 0).grn.wantsReclaim 0 = true ∧
          elapsed ((on c).furrow 0).ns ((ask .running [0x82]).waitNs.getD ((on c).furrow 0).ns) < (500 : W32).toNat * 1000 ∧
          (500 : W32).toNat * 1000 ≤ elapsed ((on c).furrow 0).ns (({ ask .running [0x82] with waitNs := some 0 } : Request).waitNs.getD 0)) := by decide +kernel

theorem witness_GranaryCommandsAndMounting_mounting :
    ((on up).furrow 0).grn.state = .offline ∧ ((on up).furrow 0).grn.barred = false ∧ ((on up).furrow 0).serves = true ∧
      ((on up).furrow 0).grn.state ≠ .mounting ∧ ((on (withGrn mounted)).furrow 0).grn.state ≠ .offline ∧
      (let c := withGrn checkpointed;
        ((on c).furrow 0).grn.state = .mounting ∧ ((on c).furrow 0).grn.nand.root = some ⟨1, 64, 2367520, 0, 0⟩ ∧
          ((on c).furrow 0).grn.nand.ckpt = some (0, []) ∧ ((on c).furrow 0).grn.nand.table = some ⟨[], 0, 0⟩ ∧
          ((on c).furrow 0).mountError true = 0 ∧ ((on c).furrow 0).mountError false ≠ 0) ∧
      ((on up).furrow 0).asking 0 7 = [] ∧
      (let q := budgeted .running;
        let c := (busy q).modGrn fun g => { g with writes := [waitingBlock] };
        ((on c).furrow 0).request? 0 7 = some q ∧ q.phase = .running ∧ q.ttfrNs ≠ 0 ∧
          (((on c).furrow 0).grn.writes.any fun w => w.h = 0 && w.tag = 7 && w.stage = WriteStage.waiting) = true ∧
          ((on c).furrow 0).asking 0 7 ≠ [] ∧ ((on c).furrow 0).hostRoom < (((on c).furrow 0).asking 0 7).length ∧
          q.ttfrNs ≤ elapsed ((on c).furrow 0).ns q.fetchNs) ∧
      elapsed 4999 (budgeted .running).fetchNs < (budgeted .running).ttfrNs := by decide +kernel

/-- A stripe of channel 0 with one slot filled at 0, open or programming. -/
def stripe (programming : Bool) : Stripe :=
  { sb := 0, page := 0, filled := [⟨0, { kind := 0, lbn := 0, seq := 1, data := [], unreadable := false }, programming⟩], since := 0,
    programming := programming, programmed := false }

/-- Superblock 0 of channel 0, in a state. -/
def block0 (st : SbState) : Superblock :=
  { ch := 0, num := 0, state := st, dies := [0], pages := 0, closedAt := 0, reads := 0, patrol := 0, urgent := false, dirty := false }

/-- A reclamation of that superblock. -/
def job (st : GcStage) : GcJob := { ch := 0, sb := 0, stage := st, scan := [] }

theorem witness_GranaryWritesAndReclaims :
    (let c := withGrn fun g => { g with stripes := g.stripes.set 0 [stripe false] };
      stripe false ∈ ((on c).furrow 0).grn.stripes[(0 : Fin 2)] ∧ (stripe false).programming = false ∧ (stripe false).filled ≠ [] ∧
        100000 ≤ elapsed ((on c).furrow 0).ns (stripe false).since) ∧
      ((on up).furrow 0).grn.stripes[(0 : Fin 2)] = [] ∧
      (let c := withGrn fun g => { g with stripes := g.stripes.set 0 [stripe true], sbs := [block0 .opened] };
        ((on c).furrow 0).grn.programmed 0 = some (stripe true) ∧ ((on c).furrow 0).grn.sb? 0 (stripe true).sb = some (block0 .opened)) ∧
      ((on (withGrn fun g => { g with records := [⟨1, 0, 1, 0⟩] })).furrow 0).grn.records.getLast? = some ⟨1, 0, 1, 0⟩ ∧
      ((on up).furrow 0).grn.reads = [] ∧
      (let q := { ask .running [0x80] with await := some (Ending.ok 0 0) };
        let w : GrnWrite := { waitingBlock with stage := .recorded 1 };
        let c := (busy q).modGrn fun g => { g with records := [⟨1, 0, 1, 0⟩], writes := [w] };
        c.request? 0 7 = some q ∧ q.phase = .running ∧ q.owed = 0 ∧ c.grn.writes = [w] ∧ (1 : W64) ≤ 1 ∧ c.pyr.txs.length = 0) ∧
      (let x : GrnRead := ⟨0, 7, 0, 0, 0, 4096, ⟨2, 0, 0, 0, 0⟩⟩;
        ((on (withGrn fun g => { g with reads := [x] })).furrow 0).grn.reads = [x] ∧
          ((on (withGrn fun g => { g with reads := [x] })).furrow 0).slotReads x.psa = true) := by decide +kernel

theorem witness_GranaryWritesAndReclaims_reclamation :
    (let c := { withGrn mounted with ns := 2000000 };
        ((on c).furrow 0).grn.usable = true ∧ ((on c).furrow 0).grn.mounted[(0 : Fin 2)] = true ∧ ((on c).furrow 0).channelUp (0 : Fin 2).val = true ∧
          ((on c).furrow 0).grn.freeSbs 0 < ((on c).furrow 0).grn.bgFree.toNat ∧
          ((on c).furrow 0).grn.idleUs.toNat * 1000 ≤ elapsed ((on c).furrow 0).ns ((on c).furrow 0).grn.lastIssue[(0 : Fin 2)] ∧
          ((on c).furrow 0).grn.freeSbs 0 < ((on c).furrow 0).grn.fgFree.toNat ∧ ((on c).furrow 0).grn.reclaim = none) ∧
      elapsed 999999 up.grn.lastIssue[(0 : Fin 2)] < up.grn.idleUs.toNat * 1000 ∧
      ((on (withGrn fun g => { mounted g with sbs := (List.range 4).map fun i => { block0 .free with num := i } })).furrow 0).grn.fgFree.toNat ≤
        ((on (withGrn fun g => { mounted g with sbs := (List.range 4).map fun i => { block0 .free with num := i } })).furrow 0).grn.freeSbs 0 ∧
      ((on up).furrow 0).grn.usable = false ∧
      (let c := withGrn fun g => { g with gc := [job (.committed 5)], durableSeq := 5 };
        ((on c).furrow 0).grn.gc.find? (fun (j : GcJob) => j.ch = 0) = some (job (.committed 5)) ∧ 5 ≤ ((on c).furrow 0).grn.durableSeq ∧
          (((on c).furrow 0).grn.reads.any fun x => psaCh x.psa = (0 : Fin 2).val && psaBlock x.psa = (job (.committed 5)).sb) = false) ∧
      ((on (withGrn fun g => { g with gc := [job (.committed 5)] })).furrow 0).grn.durableSeq < 5 ∧ ((on up).furrow 0).grn.gc = [] ∧
      ((on (withGrn fun g => { g with gc := [job .erasing] })).furrow 0).grn.gc.find? (fun (j : GcJob) => j.ch = 0 && j.stage = GcStage.erasing) =
        some (job .erasing) := by decide +kernel

theorem witness_GranaryUpkeep :
    (let c := { withGrn fun g => { mounted g with sinceCkpt := 16777216 } with ns := 100000000 };
      ((on c).furrow 0).grn.usable = true ∧ ((on c).furrow 0).grn.ckptSeq = none ∧ 16777216 ≤ ((on c).furrow 0).grn.sinceCkpt ∧
        100000000 ≤ elapsed ((on c).furrow 0).ns ((on c).furrow 0).grn.zqLast) ∧
      ((on up).furrow 0).grn.sinceCkpt < 16777216 ∧ elapsed ((on up).furrow 0).ns ((on up).furrow 0).grn.zqLast < 100000000 ∧
      ((on (withGrn fun g => { g with ckptSeq := some 0 })).furrow 0).grn.ckptSeq = some 0 ∧ (0 : W64) ≤ up.grn.durableSeq ∧
      up.grn.durableSeq < (1 : W64) ∧
      (let c := { withGrn fun g => { g with sbs := [block0 .closed] } with ns := 604800000000000 };
        ((on c).furrow 0).grn.sb? 0 (0 : W16).toNat = some (block0 .closed) ∧ (block0 .closed).state = .closed ∧
          604800000000000 ≤ elapsed ((on c).furrow 0).ns (block0 .closed).patrol) ∧
      (block0 .free).state ≠ .closed ∧
      (let b : NandBlock := ⟨0, 3, 9⟩;
        ((on up).furrow 0).grn.mounted[b.ch] = false ∧ ((on (withGrn mounted)).furrow 0).grn.mounted[b.ch] = true ∧
          b.die.val < ((on (withGrn mounted)).furrow 0).grn.nand.parts[b.ch].dies.toNat ∧
          b.block.toNat < ((on (withGrn mounted)).furrow 0).grn.nand.parts[b.ch].blocks.toNat) ∧
      (3 : Byte).toNat < ((on (withGrn mounted)).furrow 0).grn.nand.parts[(0 : Fin 2)].dies.toNat ∧
      ((on (withGrn mounted)).furrow 0).grn.lostDies.contains ((0 : Fin 2).val, (3 : Byte).toNat) = false ∧
      ((on (withGrn fun g => { mounted g with lostDies := [(0, 3)] })).furrow 0).grn.lostDies.contains ((0 : Fin 2).val, (3 : Byte).toNat) = true ∧
      ((on up).furrow 0).pwr.nandOc.getLsbD (0 : Fin 2).val = false ∧
      ((on (up.modPwr fun p => { p with nandOc := 1 })).furrow 0).pwr.nandOc.getLsbD (0 : Fin 2).val = true := by decide +kernel

/-! ### Witnesses: the fabric and spans -/

/-- Furrow 0 with its fabric block ENABLED, and what `g` changes in it. -/
def fabric (c : Furrow) (g : Poryar → Poryar) : Furrow := c.modPyr fun y => g { y with enabled := true }

/-- A packet of a kind from furrow 1 for furrow 0, of span 3 and tag 7. -/
def packet (kind : Byte) (addr : W64) (aux : W32) (payload : List Byte) : Packet :=
  { kind := kind, vc := 0, cls := 0, dest := 0, src := 1, span := 3, tag := 7, addr := addr, aux := aux, hops := 0, payload := payload }

/-- Handle 0 as root of span 3, whose one member is furrow 1; its ring has one request. -/
def asRoot (q : Request) : Furrow := spanning q

/-- Handle 0 as a recorded member of span 3 under furrow 1. -/
def asMember (c : Furrow) : Furrow :=
  fabric (c.modCtx 0 fun x => { x with role := .member, state := .member, spanId := 3 }) fun y =>
    { y with spans := [{ rootOfOne with entries := [], rootId := 1, number := 1 }] }

theorem witness_CollectivesEndOrWait :
    (([0x90, 0x91] : List Byte).all fun op =>
      let q := ask .running [op];
      let s := on (atOp [op]);
      decide ((s.furrow 0).atWork 0 7 op = some q) && decide (q.stage = 0) && decide (q.origin = none) && decide (((s.furrow 0).below q.h).2 = []) &&
        decide ((s.furrow 0).firstBad (q.eng 0) [reduceBuf q.desc] = none) &&
        decide ((s.furrow 0).firstBad (q.eng 0) [((tref q.desc 16).tier, (tref q.desc 16).off, df q.desc 32 4)] = none) &&
        decide (((on (asRoot q)).furrow 0).atWork 0 7 op = some q) && decide (((on (asRoot q)).furrow 0).piecesBelow q = none)) = true ∧
      ((on (atOp [0x92])).furrow 0).atWork 0 7 0x92 = some (ask .running [0x92]) ∧
      ((on (atOp [0x92])).furrow 0).newEntry 0 (ask .running [0x92]).desc = none ∧
      (let q := ask .running [0x92];
        ((on (asRoot q)).furrow 0).atWork 0 7 0x92 = some q ∧ (((on (asRoot q)).furrow 0).newEntry 0 q.desc).isSome = true ∧ q.stage = 0) ∧
      ({ ask .running [0x92] with stage := 1 } : Request).stage ≠ 0 := by decide +kernel

/-- Furrow 0 with port 0 as given. -/
def withPort (t : Port → Port) : Furrow := (fabric up id).modPort 0 t

theorem witness_PortsTrainAndLeave :
    (on up).reaches 0 0x300000 = true ∧ (on up).reaches 0 0x300100 = true ∧ ((on up).furrow 0).spanCount = 0 ∧
      ((on (asRoot (ask .running [0xF0]))).furrow 0).spanCount ≠ 0 ∧
      (let s := on (withPort fun t => { t with enable := true });
        (s.furrow 0).pyr.ports[(0 : PortIx)].enable = true ∧ (s.furrow 0).pyr.ports[(0 : PortIx)].idClash = false ∧
          (s.furrow 0).pyr.ports[(0 : PortIx)].state = .off ∧ (s.furrow 0).pyr.ports[(0 : PortIx)].live = false) ∧
      (let s := on (withPort fun t => { t with state := .training });
        (s.furrow 0).pyr.ports[(0 : PortIx)].state = .training ∧ (s.peerAt 0 0 1 0).1 ≠ (s.furrow 0).fabricId 0 ∧
          (s.peerAt 0 0 ((s.furrow 0).fabricId 0) 0).1 = (s.furrow 0).fabricId 0 ∧ (s.furrow 0).pyr.ports[(0 : PortIx)].queue = []) ∧
      isNeighbour 8 = true ∧ isNeighbour 0 = false ∧
      (let s := on (withPort fun t => { t with state := .up });
        (s.furrow 0).pyr.ports[(0 : PortIx)].live = true ∧ (s.furrow 0).pyr.ports[(0 : PortIx)].state = .up ∧ (true != false) = true ∧
          10000 ≤ elapsed (s.furrow 0).ns (s.furrow 0).pyr.ports[(0 : PortIx)].lastFlit) ∧
      elapsed 9999 Port.initial.lastFlit < 10000 ∧
      ((on (withPort fun t => { t with state := .degraded })).furrow 0).pyr.ports[(0 : PortIx)].state = .degraded ∧
      (let s := on (withPort fun t => { t with state := .dark, enable := true });
        (s.furrow 0).pyr.ports[(0 : PortIx)].state = .dark ∧ (s.furrow 0).pyr.ports[(0 : PortIx)].autoUp = true ∧ s.mayTrain 0 0 = true) ∧
      (on (withPort fun t => { t with state := .dark })).mayTrain 0 0 = false ∧
      ((on up).furrow 0).pyr.ports[(0 : PortIx)].waitSince[(2 : Fin 4)] = none ∧
      (let s := on { withPort fun t => { t with waitSince := t.waitSince.set 2 (some 0) } with ns := 10000000 };
        (s.furrow 0).pyr.ports[(0 : PortIx)].waitSince[(2 : Fin 4)] = some 0 ∧ (s.furrow 0).pyr.ports[(0 : PortIx)].stalled = false ∧
          (s.furrow 0).pyr.stallMs.toNat * 1000000 ≤ elapsed (s.furrow 0).ns 0) ∧
      elapsed 9999999 0 < up.pyr.stallMs.toNat * 1000000 := by decide +kernel

/-- A data flit of zeros with a SEQ and its CHECK. -/
def dataFlit (seq : Nat) (check : Nat) : List Byte := leBytes 2 seq ++ List.replicate 250 0 ++ leBytes 4 check

theorem witness_FlitsAreTakenInOrder :
    ((on up).furrow 0).pyr.ports[(0 : PortIx)].live = false ∧
      ((on (withPort fun t => { t with state := .up })).furrow 0).pyr.ports[(0 : PortIx)].live = true ∧
      (([0, 1] : List Nat).all fun n =>
        let bs := bytesAt (dataFlit n (crc32c (bytesAt (dataFlit n 0) 0 252))) 0 256;
        decide (fieldAt bs 252 4 = crc32c (bs.take 252)) && decide (bitsOf (bs.getD 4 0).toNat 3 2 = 0) &&
          (decide (BitVec.ofNat 16 (fieldAt bs 0 2) = Port.initial.rxSeq) == decide (n = 0))) = true ∧
      (let bs := bytesAt (dataFlit 0 0) 0 256; fieldAt bs 252 4 ≠ crc32c (bs.take 252)) ∧
      (let bs := bytesAt [0, 0, 0, 0, 4] 0 256; fieldAt bs 252 4 ≠ crc32c (bs.take 252) ∧ bitsOf (bs.getD 4 0).toNat 3 2 ≠ 0) ∧
      (let z := zeros 4 ++ [4] ++ zeros 247;
        let bs := bytesAt (z ++ leBytes 4 (crc32c z)) 0 256;
        fieldAt bs 252 4 = crc32c (bs.take 252) ∧ bitsOf (bs.getD 4 0).toNat 3 2 ≠ 0) := by decide +kernel

/-- A read of 4 bytes that furrow 1 has not answered. -/
def openTx (kind : Byte) : Outstanding :=
  { tag := 7, h := 0, req := 7, dest := 1, kind := kind, len := 4, left := 4, got := [], dst := ⟨2, 0, 0, 0, 0⟩, raddr := 0, since := 0 }

theorem witness_FabricReadsAndWrites :
    (let s := on (asMember up);
      (s.furrow 0).takes 0 Kind.readReq (packet Kind.readReq 0 64 []) = true ∧
        (s.furrow 0).takes 0 Kind.readReq (packet Kind.write 0 64 []) = false ∧ (packet Kind.readReq 0 63 []).aux.toNat < 64 ∧
        4096 < (packet Kind.readReq 0 4097 []).aux.toNat ∧ (packet Kind.readReq 0 65 []).aux.toNat % 64 ≠ 0 ∧
        ((s.took 0 (packet Kind.readReq 0 64 [])).furrow 0).reaches (packet Kind.readReq 0 64 []) 64 = some 0 ∧
        ((s.took 0 (packet Kind.readReq 0 64 [])).furrow 0).meets 0 0 0 2 0 64 = none ∧
        (let u := (on { asMember up with counts := { up.counts with bad := [⟨2, 0, 0⟩] } }).took 0 (packet Kind.readReq 0 64 []);
          (u.furrow 0).reaches (packet Kind.readReq 0 64 []) 64 = some 0 ∧ (u.furrow 0).meets 0 0 0 2 0 64 ≠ none) ∧
        (let p := { packet Kind.readReq 0 64 [] with span := 4 }; ((s.took 0 p).furrow 0).reaches p 64 = none)) ∧
      (let s := on (fabric up fun y => { y with txs := [openTx Kind.readReq] });
        let p := packet Kind.readResp 0 0 [1, 2];
        (s.furrow 0).takes 0 Kind.readResp p = true ∧ ((s.took 0 p).furrow 0).answered Kind.readReq p = some (openTx Kind.readReq) ∧
          p.payload ≠ [] ∧ p.payload.length < (openTx Kind.readReq).left ∧
          (openTx Kind.readReq).left ≤ (packet Kind.readResp 0 0 [1, 2, 3, 4]).payload.length) ∧
      (let s := on (fabric up fun y => { y with txs := [openTx Kind.write] });
        let p := packet Kind.writeAck 0 0 [];
        (s.furrow 0).takes 0 Kind.writeAck p = true ∧ ((s.took 0 p).furrow 0).answered Kind.write p = some (openTx Kind.write)) ∧
      (let s := on (fabric up id);
        let p := packet Kind.writeAck 0 0 [];
        ((s.took 0 p).furrow 0).answered Kind.write p = none ∧ ((s.took 0 p).furrow 0).answered Kind.readReq p = none) := by decide +kernel

theorem asMember_canonical : (on (asMember up)).canonical := by
  intro sp
  cases sp with
  | host => rfl
  | _ f => fin_cases f <;> rfl

theorem witness_FabricReadsAndWrites_writes :
    (let s := on (asMember up);
      let p := packet Kind.write 64 0 [1, 2, 3, 4];
      (s.furrow 0).takes 0 Kind.write p = true ∧ ((s.took 0 p).furrow 0).reaches p p.payload.length = some 0 ∧
        (((s.took 0 p).furrow 0).attached.filter fun a => a.h = 0) = [] ∧ ((s.took 0 p).furrow 0).outstanding 0 = []) ∧
      (let s := on (fabric up id); let p := packet Kind.write 64 0 [1];
        ((s.took 0 p).furrow 0).reaches p p.payload.length = none) ∧
      (let s := on (asMember (busy (ask .running [0x90])));
        let p := packet Kind.coll 0 0 [];
        (s.furrow 0).takes 0 Kind.coll p = true ∧ ((s.took 0 p).furrow 0).boundTo p.span = some 0 ∧ p.tag ≠ boxTag ∧
          ((s.took 0 p).furrow 0).partOf p.span p.tag = some (ask .running [0x90])) ∧
      (let s := on (asMember up); let p := packet Kind.coll 0 0 [];
        ((s.took 0 p).furrow 0).partOf p.span p.tag = none ∧
          ((s.took 0 { p with tag := boxTag }).furrow 0).boundTo p.span = some 0) ∧
      (let s := on (fabric up id); let p := packet Kind.coll 0 0 [];
        (s.furrow 0).takes 0 Kind.coll p = true ∧ ((s.took 0 p).furrow 0).boundTo p.span = none) := by decide +kernel

/-- Handle 0 as root of span 3, waiting for furrow 1 to acknowledge and to finish. -/
def awaiting (acks dones : List FabricId) : Request := { ask .running [0x90] with acks := acks, dones := dones, goSent := true }

theorem witness_SpanRequestsAreAcknowledged :
    (let s := on (asMember up);
      let p := packet Kind.spanDesc 0 0 (List.replicate 1024 0);
      (s.furrow 0).takes 0 Kind.spanDesc p = true ∧ ((s.took 0 p).furrow 0).memberFor p = some 0 ∧ p.aux.getLsbD 0 = false ∧
        ((s.took 0 p).furrow 0).request? 0 p.tag = none ∧ carriedOf [p] = none ∧ p.tag ≠ boxTag ∧
          carriedOf [packet Kind.spanDesc 0 0 (zeros 64)] = some []) ∧
      (let q := ask .queued [0x90];
        let s := on (asMember (busy q));
        let p := packet Kind.spanDesc 0 1 [];
        p.aux.getLsbD 0 = true ∧ ((s.took 0 p).furrow 0).request? 0 p.tag = some q ∧ q.phase = .queued ∧ q.gone = false ∧ q.acks = [] ∧
          ((s.took 0 p).furrow 0).hasPart q = true) ∧
      (let q := ask .queued [0x3B];
        let s := on (asMember (busy q));
        let p := packet Kind.spanDesc 0 1 [];
        ((s.took 0 p).furrow 0).request? 0 p.tag = some q ∧ ((s.took 0 p).furrow 0).hasPart q = false) ∧
      (let s := on (fabric up id);
        let p := packet Kind.spanDesc 0 0 [];
        (s.furrow 0).takes 0 Kind.spanDesc p = true ∧ ((s.took 0 p).furrow 0).memberFor p = none) ∧
      (let q := awaiting [1, 2] [1, 2];
        let s := on (asRoot q);
        let p := packet Kind.spanAck 0 0 [];
        (s.furrow 0).takes 0 Kind.spanAck p = true ∧ ((s.took 0 p).furrow 0).partOf p.span p.tag = some q ∧ q.acks.contains p.src = true ∧
          q.acks.erase p.src ≠ [] ∧ (awaiting [2] []).acks.contains p.src = false ∧ (awaiting [1] [1]).acks.erase p.src = [] ∧
          (awaiting [1] [1]).phase = .running) ∧
      (let s := on (fabric up id);
        let p := packet Kind.spanAck 0 0 [];
        ((s.took 0 p).furrow 0).partOf p.span p.tag = none) ∧
      (let q := awaiting [] [1, 2];
        let s := on (asRoot q);
        let p := packet Kind.spanDone 0 0 (List.replicate 16 0);
        (s.furrow 0).takes 0 Kind.spanDone p = true ∧ ((s.took 0 p).furrow 0).partOf p.span p.tag = some q ∧ q.dones.contains p.src = true ∧
          q.acks = [] ∧ failed (((s.took 0 p).furrow 0).seenEnding p.src (p.aux.getLsbD 15) (doneEnding p)) = false ∧ (awaiting [] [2]).dones.contains p.src = false) ∧
      (let s := on (asMember (busy (ask .running [0x90])));
        let p := packet Kind.spanCancel 0 0 [];
        (s.furrow 0).takes 0 Kind.spanCancel p = true ∧ p.tag ≠ boxTag ∧ ((s.took 0 p).furrow 0).memberFor p = some 0 ∧
          ((s.took 0 p).furrow 0).request? 0 p.tag ≠ none) ∧
      (let s := on (asMember up); let p := packet Kind.spanCancel 0 0 []; ((s.took 0 p).furrow 0).request? 0 p.tag = none) ∧
      (let s := on (fabric up id); let p := packet Kind.spanCancel 0 0 []; ((s.took 0 p).furrow 0).memberFor p = none) := by decide +kernel

theorem witness_SpansAreBoundAndKeptAlive :
    (let s := on (asRoot (awaiting [1] [1]));
      let p := packet Kind.spanBeat 0 0 [];
      (s.furrow 0).takes 0 Kind.spanBeat p = true ∧ ((s.took 0 p).furrow 0).boundTo p.span = some 0 ∧
        ((s.took 0 p).furrow 0).ctx[(0 : Handle)].role = .root ∧ (s.furrow 0).bind? 0 = some rootOfOne ∧
        (s.furrow 0).ctx[(0 : Handle)].role = .root ∧ elapsed (s.furrow 0).ns rootOfOne.sentBeat < (s.furrow 0).beatNs ∧
        rootOfOne.entries[(0 : W32).toNat]?.isSome = true ∧ (rootOfOne.entries.all fun x => !x.lost &&
          decide (elapsed (s.furrow 0).ns x.lastEcho < (s.furrow 0).pyr.lostBeats.toNat * (s.furrow 0).beatNs)) = true) ∧
      (let s := on { asRoot (awaiting [1] [1]) with ns := 30000000 };
        (s.furrow 0).beatNs ≤ elapsed (s.furrow 0).ns rootOfOne.sentBeat ∧
          (rootOfOne.entries.all fun x => decide ((s.furrow 0).pyr.lostBeats.toNat * (s.furrow 0).beatNs ≤ elapsed (s.furrow 0).ns x.lastEcho)) = true) ∧
      (let s := on (asMember up);
        let p := packet Kind.spanBeat 0 0 [];
        ((s.took 0 p).furrow 0).boundTo p.span = some 0 ∧ ((s.took 0 p).furrow 0).ctx[(0 : Handle)].role ≠ .root ∧
          ((s.took 0 p).furrow 0).memberFor p = some 0 ∧ ((s.furrow 0).bind? 0).isSome = true ∧
          (s.furrow 0).ctx[(0 : Handle)].role = .member ∧ (((s.furrow 0).bind? 0).any fun b => b.recorded &&
            decide (elapsed (s.furrow 0).ns b.lastBeat < (s.furrow 0).pyr.lostBeats.toNat * (s.furrow 0).beatNs)) = true) ∧
      (let s := on { asMember up with ns := 30000000 };
        (((s.furrow 0).bind? 0).any fun b => decide ((s.furrow 0).pyr.lostBeats.toNat * (s.furrow 0).beatNs ≤ elapsed (s.furrow 0).ns b.lastBeat)) =
          true ∧ (s.furrow 0).outstanding 0 = [] ∧ (s.furrow 0).ctx[(0 : Handle)].rings.holding = []) ∧
      (let s := on (fabric up id); let p := packet Kind.spanBeat 0 0 [];
        (s.furrow 0).takes 0 Kind.spanBeat p = true ∧ ((s.took 0 p).furrow 0).boundTo p.span = none ∧ (s.furrow 0).bind? 0 = none) := by
  decide +kernel

theorem witness_SpansAreBoundAndKeptAlive_joins :
    (let s := on (asMember up);
      -- ADDR names MEMBER 1 and one furrow.
      let p := packet Kind.spanJoin 0x100000001 0 [];
      (s.furrow 0).takes 0 Kind.spanJoin p = true ∧ Join.isEnd p = false ∧ Join.isAnswer p = false ∧ Join.forgets p = false ∧ Join.regroups p = false ∧
        ((s.took 0 p).furrow 0).joining p = some 0 ∧ Join.records p = false ∧ ((s.took 0 p).furrow 0).furrowsMatch 0 (p.addr.toNat / 2 ^ 32) = true ∧
        Join.records (packet Kind.spanJoin 0x100000001 8 []) = true ∧
        ((s.took 0 p).furrow 0).furrowsMatch 0 ((packet Kind.spanJoin 0x200000001 0 []).addr.toNat / 2 ^ 32) = false ∧
        (let p := packet Kind.spanJoin 0x100000001 16 [];
          Join.forgets p = true ∧ Join.regroups p = false ∧ ((s.took 0 p).furrow 0).joining p = some 0) ∧
        (let p := packet Kind.spanJoin 0 32 []; Join.regroups p = true ∧ Join.isEnd p = false ∧ Join.isAnswer p = false) ∧
        (let p := packet Kind.spanJoin 0 34 []; Join.regroups p = true ∧ Join.isAnswer p = true ∧ ((s.took 0 p).furrow 0).joinRequest p = none)) ∧
      (let s := on (fabric up id); let p := packet Kind.spanJoin 0x100000001 0 []; ((s.took 0 p).furrow 0).joining p = none) ∧
      (let s := on (asMember up);
        let p := packet Kind.spanJoin 0 1 [];
        Join.isEnd p = true ∧ (List.finRange 64).find? (fun h => ((s.took 0 p).furrow 0).ctx[h].role = .member &&
          ((s.took 0 p).furrow 0).ctx[h].spanId = p.span &&
          (match ((s.took 0 p).furrow 0).bind? h with | some b => b.rootId = p.src && b.recorded | none => false)) = some 0 ∧
        ((s.took 0 p).furrow 0).outstanding 0 = [] ∧ ((s.took 0 p).furrow 0).ctx[(0 : Handle)].rings.holding = []) ∧
      (let q := { ask .running ([0xFA] ++ List.replicate 19 0 ++ [3]) with stage := 2, acks := [1, 2] };
        let s := on (fabric (busy q) id);
        let p := packet Kind.spanJoin 0 10 [];
        Join.isAnswer p = true ∧ Join.isEnd p = false ∧ ((s.took 0 p).furrow 0).joinRequest p = some q ∧ Join.refused p = false ∧ q.stage = 2 ∧
          Join.records p = true ∧ q.acks.erase p.src ≠ [] ∧ ((s.took 0 p).furrow 0).request? q.h q.tag = some q ∧
          Join.refused (packet Kind.spanJoin 0 6 []) = true ∧ ((on up).furrow 0).joinRequest p = none) ∧
      (let q := { ask .running ([0xFA] ++ List.replicate 19 0 ++ [3]) with stage := 3, acks := [1] };
        let p := packet Kind.spanJoin 0 34 [];
        (fabric (busy q) id).joinRequest p = some q ∧ Join.refused p = false ∧ Join.regroups p = true) ∧
      (let q := { ask .running ([0xFA] ++ List.replicate 19 0 ++ [3]) with stage := 1, acks := [1] };
        let p := packet Kind.spanJoin 0 2 (idBytes [1]);
        (fabric (busy q) id).joinRequest p = some q ∧ Join.refused p = false ∧ q.stage ≠ 2 ∧ q.stage ≠ 3) := by decide +kernel

theorem witness_FailedLinksAndTransactions :
    (let s := on (withPort fun t => { t with fence := some (0, 1, []), peerPort := 2 });
      let p := packet Kind.linkFence 0x20000 0 [];
      (s.furrow 0).takes 0 Kind.linkFence p = true ∧
        (List.finRange 10).find? (fun i => (match ((s.took 0 p).furrow 0).pyr.ports[i].fence with | some x => x.2.1 = p.src | none => false) &&
          ((s.took 0 p).furrow 0).pyr.ports[i].peerPort = p.addr.extractLsb' 16 4) = some 0 ∧
        ((s.took 0 p).furrow 0).pyr.ports[(0 : PortIx)].fence = some (0, 1, []) ∧
        (s.furrow 0).pyr.ports[(0 : PortIx)].fence = some (0, 1, []) ∧
        (s.furrow 0).pyr.fenceUs.toNat * 1000 ≤ elapsed (s.furrow 0).ns 0) ∧
      elapsed 499999 0 < up.pyr.fenceUs.toNat * 1000 ∧ ((on up).furrow 0).pyr.ports[(0 : PortIx)].fence = none ∧
      (let s := on (fabric up fun y => { y with txs := [openTx Kind.readReq] });
        let p := packet Kind.noRoute 1 2 [];
        (s.furrow 0).takes 0 Kind.noRoute p = true ∧ ((s.took 0 p).furrow 0).pyr.txs.find? (fun x => x.tag = p.tag) = some (openTx Kind.readReq) ∧
          (packet Kind.noRoute (Kind.readReq.zeroExtend 64) 2 []).addr.extractLsb' 0 8 = Kind.readReq ∧
          (packet Kind.noRoute (Kind.writeAck.zeroExtend 64) 2 []).addr.extractLsb' 0 8 = Kind.writeAck ∧
          (s.furrow 0).pyr.txs.find? (fun x => x.tag = 7) = some (openTx Kind.readReq) ∧
          elapsed (s.furrow 0).ns (openTx Kind.readReq).since < 16 * (s.furrow 0).pyr.fenceUs.toNat * 1000) ∧
      16 * up.pyr.fenceUs.toNat * 1000 ≤ elapsed 8000000 (openTx Kind.readReq).since ∧
      (let q := ask .running [0x90];
        let p := packet Kind.noRoute (Kind.coll.zeroExtend 64) 2 [];
        p.addr.extractLsb' 0 8 = Kind.coll ∧ p.tag ≠ boxTag ∧ (((on (asRoot q)).took 0 p).furrow 0).partOf p.span p.tag = some q ∧
          (((on (asRoot q)).took 0 { p with tag := 8 }).furrow 0).partOf p.span 8 = none) ∧
      up.pyr.txs.find? (fun x => x.tag = 7) = none ∧
      (let q := { awaiting [1] [1] with waitNs := some 0 };
        let c := { asRoot q with ns := 8000000 };
        c.pyr.txs.find? (fun x => x.tag = 7) = none ∧ (c.reqs.find? fun q => q.tag = 7 && spanWide q.op && !q.acks.isEmpty &&
          (match q.waitNs with | some t => decide (16 * c.pyr.fenceUs.toNat * 1000 ≤ elapsed c.ns t) | none => false)) = some q) := by
  decide +kernel

/-! ### Witnesses: security, the Tally and the calendar -/

/-- Fuses of a part in PRODUCTION with no key revoked, no version fused and debug closed. -/
def plainFuses : Fuses := { lifecycle := 1, debugOpen := 0, keyRevoke := 0, svnRot := 0, svnCtrl := 0 }

/-- The module with furrow 0 as given and plain fuses. -/
def fused (c : Furrow) : State := { on c with fuses := Vector.replicate 8 plainFuses }

/-- Firmware that runs, of kind 1. -/
def running : FwImage := ⟨[], []⟩

/-- Furrow 0 whose root of trust runs. -/
def trusted : Furrow := up.modSec fun z => { z with rotRun := some running, rot := ⟨some running, none⟩ }

theorem witness_FirmwareCommands :
    (on (Furrow.initial 0)).reaches 0 0x400018 = false ∧ (on up).reaches 0 0x400018 = true ∧
      (0x0001000000000011 : W64).extractLsb' 0 4 = 1 ∧
      (let z := up.sec.fwCmd 0x0001000000000011; z.takesStage z.fwKind.toNat = true ∧ 256 ≤ z.fwLength.toNat) ∧
      (let z := up.sec.fwCmd 0x0000FF0000000011; z.takesStage z.fwKind.toNat = true ∧ z.fwLength.toNat < 256) ∧
      (let z := { up.sec with bootError := 2 }.fwCmd 0x0001000000000011; z.takesStage z.fwKind.toNat = false) ∧
      (let s := fused up;
        let z := up.sec.fwCmd 0x0001000000000011;
        let im : FwImage := ⟨s.host.read (z.fwAddr.toNat * 64) 256, s.host.read (z.fwAddr.toNat * 64 + 256) (z.fwLength.toNat - 256)⟩;
        stageFault im z.fwLength.toNat z.fwKind.toNat s.fuses[(0 : FurrowIx)] = some FwStatus.badHeader) ∧
      (let s := fused trusted;
        let z := (s.furrow 0).sec.fwCmd 0x12;
        s.reaches 0 0x400018 = true ∧ (0x12 : W64).extractLsb' 0 4 = 2 ∧ debugOn (s.furrow 0).sec s.fuses[(0 : FurrowIx)] = false ∧
          (s.furrow 0).sec.bootError = 0 ∧ z.fwKind.toNat = 1 ∧ z.running z.fwKind.toNat = some running) ∧
      (let s := fused (trusted.modSec fun z => { z with debugUnlocked := true });
        debugOn (s.furrow 0).sec s.fuses[(0 : FurrowIx)] = true ∧ (s.furrow 0).sec.bootError = 0) ∧
      (trusted.modSec fun z => { z with bootError := 2 }).sec.bootError ≠ 0 ∧
      ((on up).furrow 0).sec.atEngine 4 = none ∧
      (let e : LogEntry := ⟨0, .pending false, 0, 0, 0, 0, 4, 0, 0, 0, false⟩;
        let s := on (up.modSec fun z => { z with log := [e] });
        (s.furrow 0).sec.atEngine 4 = some e ∧ e.handle.toNat < 64 ∧ (s.furrow 0).meets 0 0 0 2 e.offset.toNat e.length.toNat = none) ∧
      ((on up).furrow 0).sec.rotRun = none ∧ ((on trusted).furrow 0).sec.rotRun ≠ none := by decide +kernel

theorem witness_SpdmRequestsAreAnsweredOnTheirPath :
    spdmReaches (on up) 0 .pcie = false ∧ spdmReaches (fused trusted) 0 .pcie = true ∧ spdmReaches (fused trusted) 0 .i3c = true ∧
      (([0x84, 0xE1, 0xE3, 0x81, 0x82, 0x83, 0xE0, 0x85, 0x86, 0xFF] : List Byte).all fun code =>
        decide (([0x12, code] : List Byte).getD 1 0 = code)) = true ∧ ([0x12, 0] : List Byte).getD 1 0 ≠ 0x84 ∧
      (fused trusted).fuses[(0 : FurrowIx)].lifecycle ≠ 2 ∧
      ({ fused trusted with fuses := Vector.replicate 8 { plainFuses with lifecycle := 2 } } : State).fuses[(0 : FurrowIx)].lifecycle = 2 := by
  decide +kernel

theorem witness_DebugAndBoundaryScan :
    ((on up).furrow 0).tapUp = false ∧ ((on trusted).furrow 0).tapUp = true ∧ ((on trusted).furrow 0).serves = true ∧
      8 ≤ ((on (trusted.modSec fun z => { z with unlockFails := 8 })).furrow 0).sec.unlockFails.toNat ∧
      ((on trusted).furrow 0).sec.unlockFails.toNat < 8 ∧ ((on trusted).furrow 0).openChallenge = none ∧
      ((on (trusted.modSec fun z => { z with challenge := some ⟨[], 0⟩ })).furrow 0).openChallenge ≠ none ∧
      ((on (Furrow.initial 0)).furrow 0).life = .reset ∧ ((on (Furrow.initial 0)).furrow 0).serves = false ∧
      ((fused up).furrow 0).life ≠ .reset ∧
      debugOn ((fused up).furrow 0).sec (fused up).fuses[(0 : FurrowIx)] = false ∧
      (let s := fused (up.modSec fun z => { z with debugUnlocked := true }); debugOn (s.furrow 0).sec s.fuses[(0 : FurrowIx)] = true) := by
  decide +kernel

/-- Furrow 0 whose Tally meters, with entries 0 to 9 written and none freed. -/
def metering : Furrow := up.modTally fun t => { t with state := .metering, next := 10 }

theorem witness_TallyCommands :
    (on (Furrow.initial 0)).reaches 0 0x500020 = false ∧ (on metering).reaches 0 0x500020 = true ∧
      -- COUNT 2 from entry 3.
      (let c := ((on (metering.modTally fun t => { t with cmdArg := 3 })).furrow 0).tallyCmd 0x20000;
        c.tally.brimming = false ∧ 1 ≤ c.tally.count.toNat ∧ c.tally.count.toNat ≤ 4096 ∧ c.tally.acked.toNat ≤ c.tally.cmdArg.toNat ∧
          c.tally.cmdArg.toNat + c.tally.count.toNat ≤ c.tally.next.toNat ∧ c.tally.cmdArg.toNat < c.tally.next.toNat) ∧
      (((on metering).furrow 0).tallyCmd 0).tally.count.toNat = 0 ∧
      (let c := ((on (metering.modTally fun t => { t with cmdArg := 10 })).furrow 0).tallyCmd 0x20000;
        c.tally.next.toNat ≤ c.tally.cmdArg.toNat ∧ c.tally.next.toNat < c.tally.cmdArg.toNat + c.tally.count.toNat) ∧
      tallyFixed ⟨.bar0, 0x50001C, 4⟩ = true ∧ tallyFixed ⟨.bar0, 0x500038, 8⟩ = true ∧ (on metering).reaches 0 0x50001C = true ∧
      (on metering).reaches 0 0x500038 = true ∧ (on (Furrow.initial 0)).reaches 0 0x500038 = false ∧
      tallyFixed ⟨.bar0, 0x500020, 8⟩ = false ∧ tallyFixed ⟨.bar0, 0x500040, 8⟩ = false := by
  decide +kernel

theorem witness_TallyCommands_brimming :
    ∃ xs : List (List Byte), ({ up.tally with entries := xs } : Tally).brimming = true := by
  refine ⟨List.replicate 49151 [], ?_⟩
  simp only [Tally.brimming, List.length_replicate]
  rfl

theorem witness_TallyTimeAndCalendar :
    ((on up).furrow 0).tally.runs = false ∧ ((on metering).furrow 0).tally.runs = true ∧ 1000100000 < (1000100001 : W64).toNat ∧
      (999899999 : W64).toNat < 999900000 ∧ 999900000 ≤ (1000000000 : W64).toNat ∧ (1000000000 : W64).toNat ≤ 1000100000 ∧
      ((on metering).furrow 0).tally.state = .metering ∧ ((on metering).furrow 0).tally.full = false ∧
      (let t := (metering.modTally fun t => { t with state := .clockFault, good := 9 }).tally; t.state = .clockFault ∧ 10 ≤ t.good + 1 ∧ t.runs = true) ∧
      ((on (up.modCal fun k => { k with valid := true })).furrow 0).cal.valid = true ∧ (on up).reaches 0 0x700050 = true ∧
      ((on up).furrow 0).cal.valid = false ∧ (on up).reaches 0 0x700058 = true ∧ -200 ≤ (0xFF38 : W16).toInt ∧
      (200 : W16).toInt ≤ 200 ∧ (0xFF37 : W16).toInt < -200 ∧ 200 < (201 : W16).toInt ∧ ((on up).furrow 0).cal.running = true ∧
      ((on up).furrow 0).cal.latch = true ∧
      (let s := on (up.modCal fun k => { k with running := false }); (s.furrow 0).cal.running = false ∧ (s.furrow 0).cal.latch = true) ∧
      (on up).hdl.vaux = true ∧ ({ (on up).hdl with vaux := false } : Headland).vaux = false := by decide +kernel

theorem witness_TallyTimeAndCalendar_periods :
    periodOf 0 metering.cal.stamp = metering.tally.period ∧
      periodOf 0 metering.cal.stamp ≠ (metering.modTally fun t => { t with period := 5 }).tally.period := by
  have h : periodOf 0 metering.cal.stamp = 0 := by
    show BitVec.ofNat 64 (0 / 32768 / _) = 0
    simp
  rw [h]
  exact ⟨rfl, by decide⟩

/-! ### Witnesses: errors and loss -/

/-- Furrow 0 with its error ring as given. -/
def withErr (g : ErrRing → ErrRing) : Furrow := up.modErr g

theorem witness_ErrorRingTakesRecordsInOrder :
    (on up).reaches 0 0x600008 = true ∧ (0x80000000 : W64).getLsbD 31 = true ∧ ((on up).furrow 0).err.enable = false ∧
      ((on (withErr fun e => { e with enable := true })).furrow 0).err.enable = true ∧ (on up).reaches 0 0x600010 = true ∧
      ((on (withErr fun e => { e with tail := 3 })).furrow 0).err.headOk 2 = true ∧
      ((on (withErr fun e => { e with tail := 3 })).furrow 0).err.headOk 4 = false ∧ ((on up).furrow 0).err.open_ = false ∧
      ((on up).furrow 0).err.queue = [] ∧ ((on (Furrow.initial 0)).furrow 0).life = .reset ∧
      (let s := on (withErr fun e => { e with enable := true, queue := [errRec 0x12 0 0] });
        s.hdl.carries = true ∧ (portLost up).hdl.carries = false ∧ (s.furrow 0).err.open_ = true ∧ (s.furrow 0).err.queue = [errRec 0x12 0 0] ∧ (s.furrow 0).life ≠ .reset ∧ (s.furrow 0).err.waiting = []) := by
  decide +kernel

theorem witness_MemoryErrorsAreCountedAndContained :
    elapsed up.ns up.counts.since < dayNs ∧ hbmCorrects 1 false false = true ∧ hbmCorrects 3 true false = false ∧
      (([.scratch 0 8 0, .unit 0 0 8 0, .hbm 64 3 true false] : List ErrorPlace).all fun p => (badWordOf p).isSome) = true ∧
      badWordOf (.path 0) = none ∧ badWordOf (.nand 0 0) = none ∧ (atOp [0xF0]).request? 0 7 = some (ask .running [0xF0]) ∧ (7 : Tag) ≠ boxTag ∧
      (ask .running [0xF0]).phase = .running ∧ (ask .queued [0xF0]).phase ≠ .running ∧
      (busy (ask .queued [0xF0])).request? 0 7 = some (ask .queued [0xF0]) ∧
      caught.ctx[(0 : Handle)].state = .ready ∧ caught.ctx[(0 : Handle)].rings.state = .active ∧
      caught.request? 0 7 = some (ask .running [0xF0]) ∧ (atOp [0xF0]).ctx[(0 : Handle)].rings.state ≠ .active ∧
      active.ctx[(0 : Handle)].state = .ready ∧ active.ctx[(0 : Handle)].rings.state = .active ∧ active.outstanding 0 = [] ∧
      active.ctx[(0 : Handle)].rings.holding = [] := by decide +kernel

theorem witness_LossTakesFurrowOffline :
    ((on (withErr fun e => { e with handling := [⟨0, 0, [], true⟩] })).furrow 0).err.handling.any (fun x =>
        x.posted && decide (10000000 ≤ elapsed 10000000 x.since)) = true ∧
      ((withErr fun e => { e with handling := [⟨0, 0, [], true⟩] }).err.handling.any fun x =>
        x.posted && decide (10000000 ≤ elapsed 9999999 x.since)) = false ∧
      ((on up).furrow 0).alive = true ∧ ((on (Furrow.initial 0)).furrow 0).alive = false ∧ (on up).hdl.failed = false ∧
      lasting ((on { up.modPwr (fun p => { p with farSince := some 0 }) with ns := 100000 }).furrow 0).ns
        ((on (up.modPwr fun p => { p with farSince := some 0 })).furrow 0).pwr.farSince 100000 = true ∧
      lasting ((on up).furrow 0).ns ((on up).furrow 0).pwr.farSince 100000 = false ∧ ((on up).furrow 0).err.handling = [] ∧
      lostMarked.hdl.lostMap.getLsbD (0 : FurrowIx).val = true ∧ (on up).hdl.lostMap.getLsbD (0 : FurrowIx).val = false := by decide +kernel

/-- Furrow 0 at a quantum boundary, with 740 mV on its core rail and self-test as given. -/
def testing (g : Bist → Bist) : Furrow :=
  { (up.modPwr fun p => { p with coreMv := 740 }).modBist g with boundaryDue := true, ns := 220000000000 }

theorem witness_SelfTestSlicesAndMargins :
    ((on (Furrow.initial 0)).furrow 0).serves = false ∧ ((on up).furrow 0).boundaryDue = false ∧
      (let b := BistTarget.core 0 0;
        ((on (testing fun x => { x with running := some ⟨b, false, 0⟩ })).furrow 0).bist.running = some ⟨b, false, 0⟩ ∧
          (let s := on (testing fun x => { x with withheld := [b] });
            (s.furrow 0).serves = true ∧ (s.furrow 0).boundaryDue = true ∧ (s.furrow 0).bist.running = none ∧ (s.furrow 0).targetUp b = true ∧
              (s.furrow 0).bist.withheld.contains b = true ∧ (s.furrow 0).sliceFit b true 95 = true ∧ (s.furrow 0).sliceFit b true 96 = false) ∧
          (let s := on (testing id);
            (s.furrow 0).bist.withheld.contains b = false ∧ (s.furrow 0).bist.en = true ∧ (s.furrow 0).bist.nextSlot.toNat ≤ (s.furrow 0).ns.toNat ∧
              (s.furrow 0).bist.waiting = [] ∧ (s.furrow 0).bist.slices.contains b = false ∧ (s.furrow 0).sliceFit b true 95 = true ∧
              (s.furrow 0).bist.running = none) ∧
          (let s := on { testing id with ns := 172800000000000 };
            2 * dayNs ≤ elapsed (s.furrow 0).ns (((s.furrow 0).bist.lastDone.find? fun p => p.1 = b).map (·.2) |>.getD 0)) ∧
          ((on { up with health := { up.health with cores := 0 } }).furrow 0).targetUp b = false) ∧
      (testing id).serves = true ∧ (testing id).boundaryDue = true ∧ (testing id).age.lastNs = 0 ∧ 8 ≤ (List.replicate 8 (30 : W16)).length ∧
      ([] : List W16).length < 8 ∧ (testing id).tight (List.replicate 8 30) 0 = false ∧
      (let c := { testing id with age := { (testing id).age with lastNs := 1 } }; c.age.lastNs ≠ 0 ∧ elapsed 86400000000000 c.age.lastNs < dayNs) := by
  decide +kernel

/-! ### Witnesses: power, buses and reset -/

theorem witness_CoreRailIsWatched :
    (let s := on up;
      (s.furrow 0).alive = true ∧ (s.furrow 0).pwr.vrEn = true ∧ (s.furrow 0).pwr.avsFault = false ∧ (s.furrow 0).pwr.railFault = false ∧
        (s.furrow 0).pwr.nextSample.toNat ≤ (s.furrow 0).ns.toNat ∧ lasting (s.furrow 0).ns (s.furrow 0).pwr.outSince 1000000 = false) ∧
      ((on (Furrow.initial 0)).furrow 0).alive = false ∧
      ((on (up.modPwr fun p => { p with avsFault := true })).furrow 0).pwr.avsFault = true ∧ (99999 : W64).toNat < up.pwr.nextSample.toNat ∧
      (let s := on (up.modPwr fun p => { p with outSince := some 0 }); lasting (s.furrow 0).ns (s.furrow 0).pwr.outSince 1000000 = true) ∧
      (let s := on ((Furrow.initial 0).modPwr fun p => { p with vrEn := false });
        (s.furrow 0).life = .reset ∧ (s.furrow 0).pwr.vrEn = false ∧ s.hdl.mainPower = true) ∧ ((on up).furrow 0).life ≠ .reset := by decide +kernel

/-- The headland reading regulator 0. -/
def polling : State := { on up with hdl := { (on up).hdl with pmbAddr := 0x80 } }

theorem witness_ModuleBusesAndLands :
    (on up).hdl.polls 0 = false ∧ polling.hdl.polls 0 = true ∧ polling.hdl.pmbSince[(0 : Fin 4)] < 3 ∧
      3 ≤ ({ polling.hdl with pmbSince := polling.hdl.pmbSince.set 0 3 } : Headland).pmbSince[(0 : Fin 4)] ∧
      ({ polling.hdl with failed := true } : Headland).failed = true ∧ (on up).hdl.failed = false ∧ (on up).hdl.perst = false ∧
      (on up).hdl.alert = false ∧ ({ (on up).hdl with alert := true } : Headland).alert = true ∧ State.reset.hdl.perst = true ∧ ((on (Furrow.initial 0)).furrow 0).life = .reset ∧
      ((on up).furrow 0).alive = true := by decide +kernel

theorem witness_ThrottlingAndTrips :
    ((on (Furrow.initial 0)).furrow 0).alive = false ∧ (99999 : W64).toNat < up.pwr.nextEval.toNat ∧ ((on up).furrow 0).alive = true ∧
      ((on up).furrow 0).pwr.nextEval.toNat ≤ ((on up).furrow 0).ns.toNat ∧ ((on up).furrow 0).pwr.railFault = false ∧
      ((on (up.modPwr fun p => { p with railFault := true })).furrow 0).pwr.railFault = true ∧
      up.pwr.limitW.toNat < (⟨491, 90, 80, 0⟩ : ThermalReading).powerW.toNat ∧ up.pwr.tThrottle.toNat ≤ (⟨300, 100, 80, 0⟩ : ThermalReading).tj.toNat ∧
      95 ≤ (⟨300, 90, 95, 0⟩ : ThermalReading).hbm.toNat ∧
      (let m : ThermalReading := ⟨469, 96, 94, 0⟩;
        m.powerW.toNat + 20 < up.pwr.limitW.toNat ∧ m.tj.toNat + 3 < up.pwr.tThrottle.toNat ∧ m.hbm.toNat < 95 ∧ m.tj.toNat < 115 ∧ m.hbm.toNat < 105) ∧
      (let m : ThermalReading := ⟨470, 99, 94, 0⟩;
        m.powerW.toNat ≤ up.pwr.limitW.toNat ∧ up.pwr.limitW.toNat ≤ m.powerW.toNat + 20 ∧ m.tj.toNat < up.pwr.tThrottle.toNat ∧ m.hbm.toNat < 95) ∧
      115 ≤ (⟨300, 115, 80, 0⟩ : ThermalReading).tj.toNat ∧ 105 ≤ (⟨300, 90, 105, 0⟩ : ThermalReading).hbm.toNat ∧ (on up).hdl.failed = false ∧
      115 ≤ (115 : Byte).toNat ∧ (114 : Byte).toNat < 115 := by decide +kernel

theorem witness_PowerAndPerst :
    (on up).hdl.vaux = true ∧ ({ (on up).hdl with vaux := false } : Headland).vaux = false ∧ (on up).hdl.perst = false ∧
      State.reset.hdl.perst = true ∧ State.reset.hdl.mainPower = true ∧ ({ (on up).hdl with mainPower := false } : Headland).mainPower = false ∧
      (State.reset.furrow 0).pwr.vrEn = true ∧ (State.reset.furrow 0).pwr.avsFault = false ∧ (1 : Byte).getLsbD (0 : FurrowIx).val = true ∧
      (0 : Byte).getLsbD (0 : FurrowIx).val = false := by decide +kernel

theorem witness_FurrowResetAndBoot :
    State.reset.hdl.perst = true ∧ (on up).hdl.perst = false ∧ (on up).hdl.mainPower = true ∧ (on up).hdl.portUp = true ∧
      (on up).hdl.failed = false ∧ ((on up).furrow 0).life ≠ .boot ∧
      (let s := on ({ up with life := .boot }.modSec fun z => { z with hbmLocked := true });
        (s.furrow 0).life = .boot ∧ (s.furrow 0).sec.hbmLocked = true) ∧
      (let s := on { up with life := .boot }; (s.furrow 0).life = .boot ∧ (s.furrow 0).sec.bootError = 0 ∧ (s.furrow 0).sec.hbmLocked = false) ∧
      ({ (on up).hdl with portUp := false } : Headland).portUp = false := by decide +kernel

/-! ### WellFormed: each check refuses an ill-formed term -/

/-- A packet with one payload byte too many. -/
def longPacket : Packet := packet Kind.write 0 0 (List.replicate 1025 0)

theorem test_wf_refuses_access_size : (Instr.registerWrite (.furrow 0) ⟨.bar0, 0, 3⟩ 0).wf = false ∧ (Instr.furNsLowRead (.furrow 0) ⟨.bar0, 0, 0⟩).wf = false ∧
    (Instr.lostFurrowAccess 0 ⟨.bar0, 0, 5⟩ none).wf = false ∧ (Instr.configWrite 0 ⟨.bar0, 0, 16⟩ 0).wf = false := by decide +kernel

theorem test_wf_refuses_short_flit : (Instr.flitReceive 0 0 (List.replicate 255 0)).wf = false := by decide +kernel

theorem test_wf_refuses_long_packet :
    ([Instr.readReq 0 longPacket, .readResp 0 longPacket, .write 0 longPacket, .writeAck 0 longPacket, .coll 0 longPacket, .spanDesc 0 longPacket,
      .spanAck 0 longPacket, .spanDone 0 longPacket, .spanCancel 0 longPacket, .spanBeat 0 longPacket, .linkFence 0 longPacket,
      .noRoute 0 longPacket, .spanJoin 0 longPacket, .spanEnd 0 longPacket, .spanJoinReply 0 longPacket].all fun c => !c.wf) = true := by
  decide +kernel

theorem test_wf_refuses_read_quality : (Instr.nandReadDone 0 (.soft 0)).wf = false := by decide +kernel

theorem test_wf_refuses_error_place :
    (Instr.correctedError 0 (.scratch 0 4 0)).wf = false ∧ (Instr.correctedError 0 (.scratch 0 8 72)).wf = false ∧
      (Instr.uncorrectableData 0 (.unit 0 0 1 0) none).wf = false ∧ (Instr.uncorrectableData 0 (.unit 0 0 8 72) none).wf = false ∧
      (Instr.correctedError 0 (.hbm 32 1 false false)).wf = false ∧ (Instr.correctedError 0 (.hbm 64 65 false false)).wf = false ∧
      (Instr.correctedError 0 (.nand 0 4)).wf = false := by decide +kernel

theorem test_wf_refuses_die : (Instr.dieLost 0 0 32).wf = false := by decide +kernel

theorem test_wf_refuses_erased_block : (Instr.nandEraseDone 0 0 (some ⟨1, 0, 0⟩)).wf = false := by decide +kernel

theorem test_wf_refuses_grant : (Instr.dbgGrant 0 (List.replicate 63 0)).wf = false := by decide +kernel

theorem test_wf_refuses_margins : (Instr.marginReplan 0 [] []).wf = false ∧
    (Instr.marginReplan 0 (List.replicate 9 0) (List.replicate 9 0)).wf = false ∧
    (Instr.marginReplan 0 (List.replicate 8 0) []).wf = false := by decide +kernel

/-! ### The spec's worked examples, and a few corners -/

/-- The state a command leads to. -/
def after (c : Instr) (s : State) : State := match exec c s with | .next t => t | _ => s

/-- Handle 3 in use. -/
def three : State := on (up.modCtx 3 fun x => { x with state := .ready })

/-- The worked example of chapter 02: RING_CQ_CFG 0x0014_082D at BAR0 0x02_00E0. -/
theorem test_ring_cq_cfg :
    let g := ((after (.registerWrite (.furrow 0) ⟨.bar0, 0x200E0, 8⟩ 0x0014082D) three).furrow 0).ctx[(3 : Handle)].rings
    (g.irqGap, g.irqBatch, g.irqEn, g.cqLog) = (20, 8, true, 13) := by decide +kernel

/-- LOG2_SIZE 17 leaves the field (Table 02-8). -/
theorem test_ring_size_out_of_range :
    ((after (.registerWrite (.furrow 0) ⟨.bar0, 0x200C8, 8⟩ 17) three).furrow 0).ctx[(3 : Handle)].rings.sqLog = 4 := by decide +kernel

/-- A tail of one ring more than the ring holds is flagged, not taken (R48). -/
theorem test_tail_past_ring :
    let g := ((after (.dbSqTail 0 0 17) (on active)).furrow 0).ctx[(0 : Handle)].rings
    (g.sqTail, g.badDoorbell) = (5, true) := by decide +kernel

/-- The counts wrap: a tail of 3 is 5 past a head of 0xFFFF_FFFE (R38, R48). -/
theorem test_tail_wraps :
    ((after (.dbSqTail 0 0 3) (on (ringed fun g => { g with state := .active, sqHead := 0xFFFFFFFE }))).furrow 0).ctx[(0 : Handle)].rings.sqTail = 3 := by
  decide +kernel

/-- FUR_NS after three cycles of the pattern 6, 7, 6 (R26). -/
theorem test_three_cycles : (Furrow.tick (Furrow.tick (Furrow.tick up))).ns = 1000019 := by decide +kernel

/-- The fence of chapter 02's worked example writes 1 to 0x0000_0041_2008_0000. -/
theorem test_fence_signal :
    (after (.fence 0 0 7) (on (atOp [0xF1, 0, 3, 0, 0x17, 0xA0, 0, 0, 0, 0, 0, 0, 0, 0, 0, 0, 0, 0, 8, 0x20, 0x41, 0, 0, 0, 1]))).host.read 0x4120080000 9 =
      [1, 0, 0, 0, 0, 0, 0, 0, 0] := by decide +kernel

/-- WNW_SELECT of chapter 09's worked example, with a count K. -/
def selecting (k : Byte) : State :=
  let d := [0x40, 0, 7, 0, 0xB0, 0xC1, 0, 0, 0, 0, 0, 0, 0, 0, 0, 0, 0, 0, 1, 0, 0, 0, 0, 0x40, 0, 0x10, 1, 0, 0, 0, 0, 0x40,
    0, 0, 0, 0, 0, 0, 0, 0, 8, 0, 0, 0, k, 0, 0, 0, 1, 0, 1, 1]
  let s := on { up.modCtx 7 (fun x => { x with state := .ready }) with
    reqs := [{ ask .running d with h := 7, tag := 0xC1B0 }], t1Owner := up.t1Owner.set 0 (some 7) }
  s.setMem (.t1 0) ((s.mem (.t1 0)).write 0x10000
    ([0x3E00, 0x8000, 0xFE00, 0x4000, 0, 0x4000, 0x4000, 0xFC00].flatMap fun x => leBytes 2 x))

/-- Table 09-11. -/
theorem test_wnw_select_best_two :
    ((after (.wnwSelect 0 7 0xC1B0) (selecting 2)).mem (.t1 0)).read 0x11000 80 =
      [2, 0, 0, 0, 2, 0, 0, 0] ++ List.replicate 8 0 ++ [0, 0, 0, 0, 0, 0, 0x10, 0x40, 0, 0, 0, 0, 0, 0, 0xF0, 0xFF, 1, 0, 0, 0, 1, 0, 0, 0] ++
        List.replicate 8 0 ++ [0xFF, 0xFF, 0x40, 1, 0, 0x40, 0, 0] ++ List.replicate 8 0 ++
        [3, 0, 0, 0, 0, 0x40, 0, 0, 5, 0, 0, 0, 0, 0x40, 0, 0] := by decide +kernel

/-- With K = 8, seven valid inputs and one padding entry: DONE_SHORT. -/
theorem test_wnw_select_short :
    let t := after (.wnwSelect 0 7 0xC1B0) (selecting 8)
    (((t.furrow 0).request? 7 0xC1B0).map (·.phase)) = some (.engineDone ⟨1, 1, 0x4000000000011000, 0x0000000100000007⟩) ∧
      (t.mem (.t1 0)).read 0x11040 64 =
        [3, 0, 0, 0, 0, 0x40, 0, 0, 5, 0, 0, 0, 0, 0x40, 0, 0, 6, 0, 0, 0, 0, 0x40, 0, 0, 0, 0, 0, 0, 0, 0x3E, 0, 0, 1, 0, 0, 0, 0, 0x80, 0, 0,
          4, 0, 0, 0, 0, 0, 0, 0, 7, 0, 0, 0, 0, 0xFC, 0, 0, 0xFF, 0xFF, 0xFF, 0xFF, 0, 0x7E, 0, 0] := by decide +kernel

end Sys2Proof.Tests
end

section
namespace Sys2Proof.Machine

variable {s₀ : State}

/-! ### What folds leave alone -/

/-- A fold whose step leaves a view of its state alone leaves that view alone. -/
theorem foldl_keeps {α β γ : Type} (view : β → γ) (g : β → α → β) (hg : ∀ b x, view (g b x) = view b) (xs : List α) (b : β) :
    view (xs.foldl g b) = view b := by
  induction xs generalizing b with
  | nil => rfl
  | cons x xs ih => exact (ih (g b x)).trans (hg b x)

/-- Work done for each item of a list leaves alone what it leaves alone for one item. -/
theorem Run.each_keeps {α γ : Type} (view : State → γ) (g : Run s₀ → α → Run s₀) (hg : ∀ r x, view (g r x).now = view r.now)
    (xs : List α) (r : Run s₀) : view (r.each xs g).now = view r.now :=
  foldl_keeps (fun r : Run s₀ => view r.now) g hg xs r

/-! ### One reference cycle -/

theorem Run.furrow_each_modFur (g : Furrow → Furrow) (f : FurrowIx) (fs : List FurrowIx) (hf : fs.Nodup) (r : Run s₀) :
    (r.each fs fun r k => r.modFur k g).now.furrow f = if f ∈ fs then g (r.now.furrow f) else r.now.furrow f := by
  induction fs generalizing r with
  | nil => rfl
  | cons k fs ih =>
    obtain ⟨hk, hfs⟩ := List.nodup_cons.1 hf
    rw [Run.each_cons, ih hfs]
    by_cases h : f = k
    · subst h; simp [hk]
    · simp [h, State.furrow_setFurrow_other _ _ _ _ h]

/-- The module's reference cycle ticks every furrow and leaves the rest. -/
theorem tickAll_next (s : State) : ∃ t, tickAll s = .next t ∧ t.pending = s.pending ∧ t.hdl = s.hdl ∧ t.fuses = s.fuses ∧
    t.fresh = s.fresh ∧ (∀ sp : Space, t.mem sp = s.mem sp) ∧ ∀ f : FurrowIx, t.furrow f = (s.furrow f).tick := by
  refine ⟨_, rfl, ?_, ?_, ?_, ?_, fun sp => ?_, fun f => ?_⟩
  · refine Run.each_keeps State.pending _ (fun r k => ?_) _ (Run.start s); rfl
  · refine Run.each_keeps State.hdl _ (fun r k => ?_) _ (Run.start s); rfl
  · refine Run.each_keeps State.fuses _ (fun r k => ?_) _ (Run.start s); rfl
  · refine Run.each_keeps State.fresh _ (fun r k => ?_) _ (Run.start s); rfl
  · refine Run.each_keeps (fun t => t.mem sp) _ (fun r k => ?_) _ (Run.start s); exact State.setFurrow_mem _ _ _ _
  · simpa using Run.furrow_each_modFur Furrow.tick f (List.finRange 8) (List.nodup_finRange 8) (Run.start s)

/-- With no command waiting a step is one reference cycle. -/
theorem step_idle (s : State) (h : s.pending = []) : step s = tickAll s := by
  unfold step; rw [h]

/-- Settles O2. -/
theorem idleStepIsOneCycleOfEveryFurrow : Obligations.IdleStepIsOneCycleOfEveryFurrow := by
  intro s h
  obtain ⟨t, ht, hp, rest⟩ := tickAll_next s
  exact ⟨t, (step_idle s h).trans ht, hp.trans h, rest⟩

/-! ### FUR_NS (R26) -/

/-- What a cycle's charges to engines and contexts leave alone of a furrow's own clock: its life, its count and its place in the
pattern. -/
def Furrow.clock (c : Furrow) : FurState × Option Byte × W64 × Fin 5 := (c.life, c.lossCause, c.ns, c.refCycle)

theorem Furrow.modCal_clock (c : Furrow) (g : Calendar → Calendar) : (c.modCal g).clock = c.clock := rfl

theorem Furrow.chargeAll_clock (c : Furrow) (dn : Nat) : (c.chargeAll dn).clock = c.clock := by
  refine foldl_keeps Furrow.clock _ (fun b i => ?_) c.instances c
  rfl

theorem Furrow.runVt_clock (c : Furrow) (dn : Nat) : (c.runVt dn).clock = c.clock := by
  refine foldl_keeps Furrow.clock _ (fun b h => ?_) _ c
  rfl

/-- One cycle of a furrow that counts: FUR_NS gains its share of the pattern, and the pattern moves on. -/
theorem Furrow.tick_clock (c : Furrow) (h : c.counting = true) :
    c.tick.clock = (c.life, c.lossCause, c.ns + BitVec.ofNat 64 (cycleNs c.refCycle), c.refCycle + 1) := by
  have key : (((c.modCal Calendar.tick).chargeAll (cycleNs c.refCycle)).runVt (cycleNs c.refCycle)).clock = c.clock :=
    (Furrow.runVt_clock _ _).trans ((Furrow.chargeAll_clock _ _).trans (Furrow.modCal_clock c _))
  simp only [Furrow.tick, h, if_true, Furrow.runCycle, Furrow.modCal_refCycle]
  generalize ((c.modCal Calendar.tick).chargeAll (cycleNs c.refCycle)).runVt (cycleNs c.refCycle) = d at key
  simp only [Furrow.clock, Prod.mk.injEq] at key
  obtain ⟨hlife, hloss, hns, hcycle⟩ := key
  simp [Furrow.countNs, Furrow.clock, hlife, hloss, hns, hcycle]

/-- 6.4 n to the nearest whole number grows as the pattern has it. -/
theorem add_cycleNs (n : Nat) : (32 * n + 2) / 5 + cycleNs ⟨n % 5, Nat.mod_lt _ (by decide)⟩ = (32 * (n + 1) + 2) / 5 := by
  have h5 : n % 5 = 0 ∨ n % 5 = 1 ∨ n % 5 = 2 ∨ n % 5 = 3 ∨ n % 5 = 4 := by omega
  obtain h | h | h | h | h := h5 <;> simp [cycleNs, h] <;> omega

/-- After n cycles from the start of the pattern FUR_NS has gained 6.4 n, rounded to the nearest nanosecond. -/
theorem Furrow.iterate_tick_clock (c : Furrow) (h : c.counting = true) (h0 : c.refCycle = 0) (n : Nat) :
    (Furrow.tick^[n] c).clock =
      (c.life, c.lossCause, c.ns + BitVec.ofNat 64 ((32 * n + 2) / 5), ⟨n % 5, Nat.mod_lt _ (by decide)⟩) := by
  induction n with
  | zero => simp [Furrow.clock, h0]
  | succ n ih =>
    rw [Function.iterate_succ_apply']
    generalize Furrow.tick^[n] c = d at ih ⊢
    simp only [Furrow.clock, Prod.mk.injEq] at ih
    obtain ⟨hlife, hloss, hns, hcycle⟩ := ih
    have hd : d.counting = true := by simpa [Furrow.counting, hlife, hloss] using h
    rw [Furrow.tick_clock d hd, hlife, hloss, hns, hcycle, BitVec.add_assoc, ← BitVec.ofNat_add, add_cycleNs]
    simp only [Prod.mk.injEq, true_and]
    apply Fin.ext
    simp only [Fin.val_add]
    omega

theorem Furrow.tick_ns_of_not_counting (c : Furrow) (h : c.counting = false) : c.tick.ns = c.ns := by
  simp [Furrow.tick, h]

/-- Settles O3: from the start of the pattern the count after n cycles is 6.4 n to the nearest nanosecond. -/
theorem furNsGainsThirtyTwoInFiveCycles : Obligations.FurNsGainsThirtyTwoInFiveCycles := by
  refine ⟨fun s h => ?_, fun c hlife hloss h0 => ?_, fun c h => ?_⟩
  · obtain ⟨t, ht, _, _, _, _, _, hf⟩ := tickAll_next s
    exact ⟨t, (step_idle s h).trans ht, hf⟩
  · have hc : c.counting = true := by
      simp only [Furrow.counting, Bool.and_eq_true, bne_iff_ne, ne_eq, Bool.not_eq_true', Bool.and_eq_false_iff, beq_eq_false_iff_ne]
      exact ⟨hlife, or_iff_not_imp_left.2 fun e => hloss (not_not.1 e)⟩
    have clock := Furrow.iterate_tick_clock c hc h0
    have ns : ∀ n, (Furrow.tick^[n] c).ns = c.ns + BitVec.ofNat 64 ((32 * n + 2) / 5) := fun n => congrArg (·.2.2.1) (clock n)
    refine ⟨?_, fun n => ⟨?_, ?_⟩, fun n => ⟨(32 * n + 2) / 5, ns n, by omega, by omega⟩⟩
    · simp [List.range_succ, ns, -Function.iterate_succ]
    · rw [ns, show (32 * (5 * n) + 2) / 5 = 32 * n by omega, BitVec.ofNat_mul]
      rfl
    · have := congrArg (·.2.2.2) (clock (5 * n))
      refine this.trans (Fin.ext ?_)
      simp
  · apply Furrow.tick_ns_of_not_counting
    obtain h | ⟨h1, h2⟩ := h
    · simp [Furrow.counting, h]
    · simp [Furrow.counting, h1, h2]

end Sys2Proof.Machine
end

section
namespace Sys2Proof.Machine

variable {s₀ : State}

/-! ### The state after reset -/

theorem State.reset_furrow (f : FurrowIx) : State.reset.furrow f = Furrow.initial f := by
  fin_cases f <;> rfl

theorem State.reset_mem (sp : Space) : State.reset.mem sp = [] := by
  cases sp with
  | host => rfl
  | hbm f => fin_cases f <;> rfl
  | t1 f => fin_cases f <;> rfl
  | t0 f => fin_cases f <;> rfl

theorem Furrow.initial_ctx_zero (f : FurrowIx) : (Furrow.initial f).ctx[(0 : Handle)] = Context.management := by
  simp [Furrow.initial]

theorem Furrow.initial_ctx_of_ne_zero (f : FurrowIx) (h : Handle) (h0 : h ≠ 0) : (Furrow.initial f).ctx[h] = Context.initial := by
  have : h.val ≠ 0 := fun e => h0 (Fin.ext e)
  simp [Furrow.initial, this.symm]

theorem Furrow.initial_rings (f : FurrowIx) (h : Handle) : (Furrow.initial f).ctx[h].rings = Rings.initial := by
  by_cases h0 : h = 0
  · subst h0; rw [Furrow.initial_ctx_zero]; rfl
  · rw [Furrow.initial_ctx_of_ne_zero f h h0]; rfl

/-- Settles O7. -/
theorem resetIsCanonicalWithTheTablesValues : Obligations.ResetIsCanonicalWithTheTablesValues := by
  refine ⟨⟨fun sp => ?_, rfl, fun sp a => ?_⟩, fun f => ?_⟩
  · rw [State.reset_mem]; rfl
  · rw [State.reset_mem]; rfl
  · rw [State.reset_furrow]
    refine ⟨rfl, rfl, rfl, ?_, Furrow.initial_ctx_of_ne_zero f, rfl, Furrow.initial_rings f, ?_⟩
    · rw [Furrow.initial_ctx_zero]; rfl
    · exact ⟨rfl, rfl, rfl, rfl, rfl, rfl, rfl, rfl, rfl, rfl, rfl, rfl, rfl, rfl, rfl, rfl, rfl, rfl⟩

/-! ### FUR_NS by halves (R16) -/

@[simp] theorem Run.answer_now (r : Run s₀) (v : W64) : (r.answer v).now = { r.now with hdl := { r.now.hdl with readData := v } } := rfl

theorem Furrow.dropLatch_find (c : Furrow) (key : BitVec 24) : (c.dropLatch key).latches.find? (fun p => p.1 = key) = none := by
  simp [Furrow.dropLatch, List.find?_eq_none]

/-- A read that reaches the furrow is the furrow's to answer. -/
theorem execFurNsLowRead_reaches (f : FurrowIx) (off : BitVec 24) (size : Nat) (s : State)
    (h : s.reaches f (off.toNat / 8 * 8) = true) (ha : accessRegular ⟨.bar0, off, size⟩ = true) :
    execFurNsLowRead (.furrow f) ⟨.bar0, off, size⟩ s = .next ((Run.start s).barRead f ⟨.bar0, off, size⟩).now := by
  simp only [State.reaches, Bool.and_eq_true, Bool.not_eq_true'] at h
  obtain ⟨⟨hc, hl⟩, hr⟩ := h
  simp only [execFurNsLowRead, Run.hostRead, Run.start_now, Run.fur_eq, hc, hl, hr, ha, Bool.not_true, Bool.false_eq_true, if_true, if_false,
    Run.done_next]

/-! A register that follows R16: read whole, by its low half, and by its high half. -/

theorem Run.barRead_whole (r : Run s₀) (f : FurrowIx) (off : BitVec 24) (hl : latching (off.toNat / 8 * 8) = true) :
    r.barRead f ⟨.bar0, off, 8⟩ =
      (r.modFur f fun c => c.dropLatch (BitVec.ofNat 24 (off.toNat / 8 * 8))).answer (regRead r.now f (off.toNat / 8 * 8)) := by
  simp [Run.barRead, hl]

theorem Run.barRead_low (r : Run s₀) (f : FurrowIx) (off : BitVec 24) (hl : latching (off.toNat / 8 * 8) = true) (h0 : off.toNat % 8 = 0) :
    r.barRead f ⟨.bar0, off, 4⟩ =
      (r.modFur f fun c => { c with latches :=
        (BitVec.ofNat 24 (off.toNat / 8 * 8), (regRead r.now f (off.toNat / 8 * 8)).extractLsb' 32 32) ::
          (c.dropLatch (BitVec.ofNat 24 (off.toNat / 8 * 8))).latches }).answer (regRead r.now f (off.toNat / 8 * 8) &&& 0xFFFFFFFF) := by
  simp [Run.barRead, hl, h0, accessPart]

theorem Run.barRead_high_latched (r : Run s₀) (f : FurrowIx) (off : BitVec 24) (hl : latching (off.toNat / 8 * 8) = true)
    (h4 : off.toNat % 8 = 4) (p : BitVec 24 × W32)
    (hp : (r.now.furrow f).latches.find? (fun p => p.1 = BitVec.ofNat 24 (off.toNat / 8 * 8)) = some p) :
    r.barRead f ⟨.bar0, off, 4⟩ = (r.modFur f fun c => c.dropLatch (BitVec.ofNat 24 (off.toNat / 8 * 8))).answer (p.2.zeroExtend 64) := by
  simp [Run.barRead, hl, h4, hp]

theorem Run.barRead_high_unlatched (r : Run s₀) (f : FurrowIx) (off : BitVec 24) (hl : latching (off.toNat / 8 * 8) = true)
    (h4 : off.toNat % 8 = 4)
    (hn : (r.now.furrow f).latches.find? (fun p => p.1 = BitVec.ofNat 24 (off.toNat / 8 * 8)) = none) :
    r.barRead f ⟨.bar0, off, 4⟩ = r.answer (regRead r.now f (off.toNat / 8 * 8) >>> 32) := by
  simp [Run.barRead, hl, h4, hn, accessPart]

/-- Settles O9: the four reads of FUR_NS, each by the rule for its part of a register that follows R16. -/
theorem lowHalfReadLatchesHighHalf : Obligations.LowHalfReadLatchesHighHalf := by
  intro f s h c latch reads
  have answers : ∀ (off : BitVec 24) (size : Nat) (v : W64) (after : Option W32) (ls : List (BitVec 24 × W32)),
      off.toNat / 8 * 8 = 0x20 → accessRegular ⟨.bar0, off, size⟩ = true → (ls.find? fun p => p.1 = 0x20).map (·.2) = after →
      ((Run.start s).barRead f ⟨.bar0, off, size⟩).now =
        { s.setFurrow f { c with latches := ls } with hdl := { s.hdl with readData := v } } → reads off size v after := by
    intro off size v after ls ho ha hls hr
    refine ⟨_, execFurNsLowRead_reaches f off size s (by rw [ho]; exact h) ha, ?_⟩
    have same : State.furrow { s.setFurrow f { c with latches := ls } with hdl := { s.hdl with readData := v } } f =
      { c with latches := ls } := s.furrow_setFurrow_same f _
    rw [hr, same]
    exact ⟨rfl, hls, rfl⟩
  have dropped : latch (c.dropLatch 0x20) = none := c.dropLatch_find 0x20
  refine ⟨answers 0x20 8 _ _ (c.dropLatch 0x20).latches rfl rfl (congrArg (Option.map _) dropped) ?_,
    answers 0x20 4 _ _ ((0x20, c.ns.extractLsb' 32 32) :: (c.dropLatch 0x20).latches) rfl rfl rfl ?_,
    fun hn => answers 0x24 4 _ _ c.latches rfl rfl (congrArg (Option.map _) hn) ?_,
    fun p hp => answers 0x24 4 _ _ (c.dropLatch 0x20).latches rfl rfl (congrArg (Option.map _) dropped) ?_⟩
  · rw [Run.barRead_whole _ f 0x20 rfl]; rfl
  · rw [Run.barRead_low _ f 0x20 rfl rfl]; rfl
  · rw [Run.barRead_high_unlatched (Run.start s) f 0x24 rfl rfl hn, Run.answer_now]
    exact congrArg (fun t : State => { t with hdl := { s.hdl with readData := c.ns >>> 32 } }) (s.setFurrow_self f).symm
  · rw [Run.barRead_high_latched (Run.start s) f 0x24 rfl rfl p hp]; rfl

/-! ### The headland for a LOST furrow (R14) -/

@[simp] theorem Run.answerOnes_furrow_now (r : Run s₀) (f : FurrowIx) :
    (r.answerOnes (.furrow f)).now = { r.now with hdl := { r.now.hdl with
      readData := BitVec.allOnes 64, ones := r.now.hdl.ones.set (fnIx f) (sat (r.now.hdl.ones[fnIx f]) 1) } } := rfl

/-- The shadow copy holds FUR_ID and FUR_STATE alone. -/
theorem shadowRead_other (d : Headland) (f : FurrowIx) (a : HostAccess) (h : a.bar = .bar2 ∨ 16 ≤ a.off.toNat) :
    shadowRead d f a = none := by
  unfold shadowRead
  refine if_neg ?_
  rintro ⟨hb, _, ho⟩
  obtain h | h := h
  · rw [hb] at h; cases h
  · omega

/-- An access to BAR0 or BAR2 of a furrow that is marked LOST is the headland's to answer. -/
theorem execLostFurrowAccess_lost (f : FurrowIx) (a : HostAccess) (v : Option W64) (s : State) (hc : s.hdl.carries = true)
    (hl : s.hdl.lostMap.getLsbD f.val = true) (hb : a.bar = .bar0 ∨ a.bar = .bar2) :
    execLostFurrowAccess f a v s =
      .next (if v.isSome then (Run.start s).discardWrite f else (Run.start s).lostRead f a).now := by
  have hn : ¬ (a.bar ≠ .bar0 ∧ a.bar ≠ .bar2) := fun ⟨h0, h2⟩ => hb.elim h0 h2
  cases v <;> simp only [execLostFurrowAccess, hc, hl, hn, Bool.not_true, Bool.false_eq_true, or_self, if_false, Option.isSome_none,
    Option.isSome_some, if_true, Run.done_next]

/-- Settles O10. -/
theorem lostFurrowAnsweredByHeadland : Obligations.LostFurrowAnsweredByHeadland := by
  intro f s hc hl
  refine ⟨execLostFurrowAccess_lost f _ none s hc hl (.inl rfl), execLostFurrowAccess_lost f _ none s hc hl (.inl rfl),
    fun a ha => ?_, fun a v ha => execLostFurrowAccess_lost f a (some v) s hc hl ha⟩
  have hb : a.bar = .bar0 ∨ a.bar = .bar2 := ha.elim .inr fun h => .inl h.1
  have hs := shadowRead_other s.hdl f a (ha.imp_right And.right)
  refine (execLostFurrowAccess_lost f a none s hc hl hb).trans ?_
  simp [Run.lostRead, hs]

end Sys2Proof.Machine
end

section
namespace Sys2Proof.Machine

variable {s₀ : State}

/-! ### Records of a ring (R55–R58) -/

@[simp] theorem Record.length_bytes (x : Record) (count : W32) (n : Nat) : (x.bytes count n).length = 32 := by
  simp [Record.bytes]

/-- FLAGS of a completion record holds PHASE in bit 7: the inverse of bit n of the count (R57). -/
theorem Record.bytes_phase (x : Record) (count : W32) (n : Nat) :
    ((x.bytes count n).getD 5 0).getLsbD 7 = !count.getLsbD n := by
  have flags : (x.bytes count n).getD 5 0 = BitVec.ofNat 8 (128 * bit (!count.getLsbD n) + 16 * bit x.partial_ +
      8 * bit x.throttled + 4 * bit x.widened + 2 * bit x.nested + bit x.late) := by
    simp [Record.bytes, leBytes]
  rw [flags]
  cases count.getLsbD n <;> cases x.partial_ <;> cases x.throttled <;> cases x.widened <;> cases x.nested <;> cases x.late <;> decide

@[simp] theorem ErrRec.length_bytes (x : ErrRec) (count : W32) (n : Nat) : (x.bytes count n).length = 64 := by
  simp [ErrRec.bytes, zeros]

/-- So has an error record in its byte 9 (R57, Table 19-2). -/
theorem ErrRec.bytes_phase (x : ErrRec) (count : W32) (n : Nat) :
    ((x.bytes count n).getD 9 0).getLsbD 7 = !count.getLsbD n := by
  have flags : (x.bytes count n).getD 9 0 = BitVec.ofNat 8 (128 * bit (!count.getLsbD n) + 8 * bit x.last + 4 * bit x.nested +
      2 * bit x.retried) := by
    simp [ErrRec.bytes, leBytes]
  rw [flags]
  cases count.getLsbD n <;> cases x.last <;> cases x.nested <;> cases x.retried <;> decide

theorem Request.awaits_tag (q : Request) (h : Handle) (tag : Tag) (held : Bool) (hq : q.awaits h tag held = true) : q.tag = tag := by
  simp only [Request.awaits, Bool.and_eq_true, decide_eq_true_eq] at hq
  exact hq.1.1.1.2

@[simp] theorem Furrow.noteRing_ctx (c : Furrow) (h : Handle) : (c.noteRing h).ctx = c.ctx := rfl

@[simp] theorem Furrow.noteRing_reqs (c : Furrow) (h : Handle) : (c.noteRing h).reqs = c.reqs := rfl

@[simp] theorem Furrow.modRings_same (c : Furrow) (h : Handle) (g : Rings → Rings) : (c.modRings h g).ctx[h].rings = g c.ctx[h].rings :=
  congrArg Context.rings (Furrow.modCtx_same c h _)

@[simp] theorem State.setMem_host_host (s : State) (m : Mem) : (s.setMem .host m).host = m := rfl

@[simp] theorem State.setMem_host_mems (s : State) (m : Mem) : (s.setMem .host m).mems = s.mems := rfl

theorem State.mem_host (s : State) : s.mem .host = s.host := rfl

theorem Run.toHost_carried (r : Run s₀) (a : Nat) (bs : List Byte) (h : r.now.hdl.carries = true) : r.toHost a bs = r.write .host a bs :=
  if_pos h

/-- RECORD_POST of a request whose record awaits its post, with nothing held: posted. -/
theorem execRecordPost_awaiting (f : FurrowIx) (h : Handle) (tag : Tag) (q : Request) (e : Ending) (s : State)
    (hq : (s.furrow f).reqs.find? (fun p => p.awaits h tag false) = some q) (he : q.phase = .ended e)
    (hs : (s.furrow f).ctx[h].rings.state = .active ∨ (s.furrow f).ctx[h].rings.state = .draining)
    (hh : (s.furrow f).ctx[h].rings.holding = []) :
    execRecordPost f h tag s = .next ((Run.start s).post f h (q.finalRecord e)).now := by
  have hroom : (s.furrow f).ctx[h].rings.hasRoom false = true := by simp [Rings.hasRoom, hh, -Fin.getElem_fin]
  simp only [execRecordPost, Run.postFinal, Bool.and_eq_true, Bool.or_eq_true, decide_eq_true_eq]
  simp only [Run.fur_eq, Run.start_now, hq, he, hroom, hs, and_self, if_true, Run.done_next]

/-- A record with room in the ring, nothing held and the host port at work goes to the tail. -/
theorem Run.post_of_room (r : Run s₀) (f : FurrowIx) (h : Handle) (x : Record) (hc : r.now.hdl.carries = true)
    (hf : (r.now.furrow f).ctx[h].rings.full = false) (hh : (r.now.furrow f).ctx[h].rings.holding = []) :
    r.post f h x = r.writeRecord f h x false := by
  simp [Run.post, Run.ringOpen, hc, hf, hh, -Fin.getElem_fin]

/-- A final record written at the tail: its bytes in host memory, counted by CQ_TAIL, its request outstanding no longer. -/
theorem Run.writeRecord_final (r : Run s₀) (f : FurrowIx) (h : Handle) (x : Record) (held : Bool) (hx : x.partial_ = false)
    (hc : r.now.hdl.carries = true) (g : Rings) (hg : (r.now.furrow f).ctx[h].rings = g) (t : State)
    (ht : (r.writeRecord f h x held).now = t) :
    t.host = r.now.host.write ((r.now.furrow f).hostAt h g.cqSlot) (x.bytes g.cqTail g.cqLog.toNat) ∧ t.mems = r.now.mems ∧
      (t.furrow f).ctx[h].rings.cqTail = g.cqTail + 1 ∧
      (t.furrow f).reqs = dropOne (fun p => p.awaits h x.tag held) (r.now.furrow f).reqs := by
  subst hg ht
  simp only [Run.writeRecord, Run.fur_eq, Run.toHost_carried r _ _ hc, Run.modFur_now, Run.write_now, State.furrow_setFurrow_same,
    State.setFurrow_host, State.setFurrow_mems, State.setMem_host_host, State.mem_host, State.setMem_host_mems, State.setMem_furrow, hx, Bool.false_eq_true,
    if_false, Furrow.noteRing_ctx, Furrow.noteRing_reqs, Furrow.modRings_same, Furrow.modRings_reqs, and_self]

/-- A final record without room in the ring, or with the host port lost, goes to the holding queue. -/
theorem Run.post_final_held (r : Run s₀) (f : FurrowIx) (h : Handle) (x : Record) (hx : x.partial_ = false)
    (g : Rings) (hg : (r.now.furrow f).ctx[h].rings = g)
    (hf : r.now.hdl.carries = false ∨ g.full = true) (t : State) (ht : (r.post f h x).now = t) :
    t.host = r.now.host ∧ t.mems = r.now.mems ∧ (t.furrow f).ctx[h].rings.holding = g.holding ++ [x] ∧
      (t.furrow f).ctx[h].rings.cqTail = g.cqTail := by
  subst hg ht
  have hopen : r.ringOpen (r.now.furrow f).ctx[h].rings = false := by
    obtain hf | hf := hf <;> simp [Run.ringOpen, hf, -Fin.getElem_fin]
  simp only [Run.post, Run.fur_eq, hopen, Bool.false_and, Bool.false_eq_true, if_false, Run.modFur_now, State.furrow_setFurrow_same,
    State.setFurrow_host, State.setFurrow_mems, hx, Furrow.modRings_same, and_self]

/-- Settles O17: the post of an awaiting record finds room in the ring, or does not. -/
theorem finalRecordWrittenAtTailOrHeld : Obligations.FinalRecordWrittenAtTailOrHeld := by
  intro f h tag q e s hq he hs hh
  have hexec := execRecordPost_awaiting f h tag q e s hq he hs hh
  have htag : q.tag = tag := q.awaits_tag h tag false (by simpa using List.find?_some hq)
  refine ⟨fun hc hf => ?_, fun hc => ?_⟩
  · obtain ⟨hhost, hmems, htail, hreqs⟩ := Run.writeRecord_final (Run.start s) f h (q.finalRecord e) false rfl hc _ rfl _ rfl
    rw [Run.post_of_room (Run.start s) f h (q.finalRecord e) hc hf hh] at hexec
    exact ⟨_, hexec, hhost, Record.length_bytes _ _ _, Record.bytes_phase _ _ _, htail, htag ▸ hreqs, hmems⟩
  · obtain ⟨hhost, hmems, hhold, htail⟩ := Run.post_final_held (Run.start s) f h (q.finalRecord e) rfl _ rfl hc _ rfl
    exact ⟨_, hexec, hhost, hmems, hhold.trans (congrArg (· ++ [q.finalRecord e]) hh), htail⟩

end Sys2Proof.Machine
end

section
namespace Sys2Proof.Machine

variable {s₀ : State}

/-! ### A range set to zero -/

theorem Mem.get_filter (p : Host.Cell → Bool) (keep : Nat → Bool) (hp : ∀ c, p c = keep c.1) (m : Mem) (a : Nat) :
    Mem.get (m.filter p) a = if keep a then m.get a else 0 := by
  induction m with
  | nil => simp [Mem.get]
  | cons c rest ih =>
    obtain ⟨k, b⟩ := c
    by_cases hk : keep k = true
    · by_cases ha : k = a
      · subst ha; simp [hp, hk, Mem.get]
      · simpa [List.filter_cons, hp, hk, Mem.get, ha] using ih
    · by_cases ha : k = a
      · subst ha; simpa [List.filter_cons, hp, hk] using ih
      · simpa [List.filter_cons, hp, hk, Mem.get, ha] using ih

/-- A range of a memory that is replaced by nothing reads zero, and the rest as before. -/
theorem Mem.get_paste_nil (m : Mem) (a n b : Nat) : (m.paste a n []).get b = if a ≤ b ∧ b < a + n then 0 else m.get b := by
  refine (Mem.get_filter _ (fun k => !decide (a ≤ k ∧ k < a + n)) (fun _ => rfl) m b).trans ?_
  by_cases h : a ≤ b ∧ b < a + n <;> simp [h]

/-- A change of a context that leaves a view of it alone leaves that view of every context alone. -/
theorem Furrow.view_modCtx {α : Type} (view : Context → α) (c : Furrow) (h : Handle) (g : Context → Context)
    (hg : ∀ x, view (g x) = view x) (k : Handle) : view (c.modCtx h g).ctx[k] = view c.ctx[k] := by
  by_cases hk : k = h
  · subst hk; rw [Furrow.modCtx_same, hg]
  · rw [Furrow.modCtx_other c h k g hk]

/-! ### A place taken by its next context (R17, R80) -/

@[simp] theorem Furrow.serveAt_setServe (c : Furrow) (u : Place) (x : Serve) : (c.setServe u x).serveAt u = x := by
  cases u <;> simp [Furrow.serveAt, Furrow.setServe]

theorem Furrow.setServe_ctx (c : Furrow) (u : Place) (x : Serve) : (c.setServe u x).ctx = c.ctx := by
  cases u <;> rfl

theorem Furrow.mend_ctx (c : Furrow) (p : Space × Nat × Nat) : (c.mend p).ctx = c.ctx := by
  unfold Furrow.mend
  split <;> rfl

/-- What Table 03-11 keeps at a pre-emption touches no context and no memory. -/
theorem Run.keepAt_keeps (r : Run s₀) (f : FurrowIx) (u : Place) (g : Handle) :
    ((r.keepAt f u g).now.furrow f).ctx = (r.now.furrow f).ctx ∧ ∀ sp : Space, (r.keepAt f u g).now.mem sp = r.now.mem sp := by
  refine ⟨?_, fun sp => ?_⟩
  · refine Run.each_keeps (fun t => (t.furrow f).ctx) _ (fun r q => ?_) _ r
    refine Run.each_keeps (fun t => (t.furrow f).ctx) _ (fun r k => ?_) _ r
    refine (congrArg Furrow.ctx (State.furrow_setFurrow_same _ f _)).trans ?_
    rfl
  · refine Run.each_keeps (fun t => t.mem sp) _ (fun r q => ?_) _ r
    refine Run.each_keeps (fun t => t.mem sp) _ (fun r k => ?_) _ r
    exact (State.setFurrow_mem _ _ _ _).trans (Act.draw_mem r.now 1 sp)

/-- A break of service touches no context. -/
theorem Run.leave_ctx (r : Run s₀) (f : FurrowIx) (u : Place) : ((r.leave f u).now.furrow f).ctx = (r.now.furrow f).ctx := by
  cases u <;> simp [Run.leave, Run.blank, Furrow.setServe_ctx, Furrow.mend_ctx]

theorem Run.leave_mem_other (r : Run s₀) (f : FurrowIx) (u : Place) (sp : Space) (h : sp ≠ .t0 f) :
    (r.leave f u).now.mem sp = r.now.mem sp := by
  cases u with
  | core k => simp [Run.leave, Run.blank, State.mem_setMem_other _ _ _ _ h]
  | text t => simp [Run.leave]

theorem Run.leave_text_mem (r : Run s₀) (f : FurrowIx) (e : ClusterIx) (sp : Space) : (r.leave f (.text e)).now.mem sp = r.now.mem sp := by
  simp [Run.leave]

/-- A core's break of service leaves its scratch zero. -/
theorem Run.leave_core_mem (r : Run s₀) (f : FurrowIx) (k : CoreIx) (a : Nat) : ((r.leave f (.core k)).now.mem (.t0 f)).get a =
    if k.val * hbmUnit ≤ a ∧ a < (k.val + 1) * hbmUnit then 0 else (r.now.mem (.t0 f)).get a := by
  rw [Nat.succ_mul]
  simp [Run.leave, Run.blank, Mem.get_paste_nil]

theorem Run.startOn_mem (r : Run s₀) (f : FurrowIx) (u : Place) (h : Handle) (sp : Space) :
    (r.startOn f u h).now.mem sp = (r.leave f u).now.mem sp :=
  State.setFurrow_mem _ _ _ _

theorem Run.startOn_serveAt (r : Run s₀) (f : FurrowIx) (u : Place) (h : Handle) :
    ((r.startOn f u h).now.furrow f).serveAt u = .only h := by
  refine (congrArg (fun c : Furrow => c.serveAt u) (State.furrow_setFurrow_same _ _ _)).trans ?_
  cases u <;> simp [Furrow.serveAt, Furrow.setServe, Furrow.modCtx]

/-- Starting on a place brings no context's engine time up to date. -/
theorem Run.startOn_ctx_ns (r : Run s₀) (f : FurrowIx) (u : Place) (h g : Handle) :
    ((r.startOn f u h).now.furrow f).ctx[g].ns = (r.now.furrow f).ctx[g].ns := by
  have hctx : ((r.startOn f u h).now.furrow f).ctx =
      ((((r.leave f u).now.furrow f).setServe u (.only h)).modCtx h fun y => { y with servedNow := true }).ctx := by
    refine (congrArg Furrow.ctx (State.furrow_setFurrow_same _ f _)).trans ?_
    rfl
  rw [hctx]
  refine (Furrow.view_modCtx Context.ns _ h _ (fun y => ?_) g).trans ?_
  · rfl
  · rw [Furrow.setServe_ctx, Run.leave_ctx]

/-- Settles O21. -/
theorem preemptedCoreIsClearedForNextContext : Obligations.PreemptedCoreIsClearedForNextContext := by
  intro f u s
  refine ⟨fun g h hg hh => ?_, fun hn => ?_⟩
  · have hexec : exec (.enginePreempt f u) s =
        .next ((((Run.start s).modFur f fun c => c.modCtx g Context.updateNs).keepAt f u g).startOn f u h).now := by
      show execEnginePreempt f u s = _
      simp only [execEnginePreempt, hg, hh, Run.done_next]
    obtain ⟨hctx, hmem⟩ := Run.keepAt_keeps ((Run.start s).modFur f fun c => c.modCtx g Context.updateNs) f u g
    simp only [Run.modFur_now, Run.start_now, State.furrow_setFurrow_same, State.setFurrow_mem] at hctx hmem
    refine ⟨_, hexec, Run.startOn_serveAt _ f u h, ?_, fun sp hsp => ?_, fun e he => ?_, fun k hk a => ?_⟩
    · rw [Run.startOn_ctx_ns, hctx, Furrow.modCtx_same]
    · rw [Run.startOn_mem, Run.leave_mem_other _ f u sp hsp, hmem]
    · subst he
      rw [Run.startOn_mem, Run.leave_text_mem, hmem]
    · subst hk
      rw [Run.startOn_mem, Run.leave_core_mem, hmem]
  · show execEnginePreempt f u s = _
    unfold execEnginePreempt
    split
    · rename_i g h hg hh
      obtain hn | hn := hn
      · rw [hn] at hg; cases hg
      · rw [hn] at hh; cases hh
    · rfl

end Sys2Proof.Machine
end

section
namespace Sys2Proof.Machine

variable {s₀ : State}

theorem State.onlyFurrow_setFurrow (s : State) (f : FurrowIx) (c : Furrow) : s.onlyFurrow f (s.setFurrow f c) :=
  ⟨rfl, rfl, rfl, rfl, fun g hg => ⟨s.furrow_setFurrow_other f g c hg, rfl⟩⟩

/-! ### The error ring (R425, R426, R472) -/

/-- A write of every bit replaces the register. -/
theorem merge_allOnes (old v : W64) : merge old (BitVec.allOnes 64) v = v := by
  unfold merge
  rw [BitVec.not_allOnes, BitVec.and_zero, BitVec.zero_or, BitVec.and_allOnes]

/-- What a write of the whole of REL_ER_CFG leaves: ENABLE can only go down there, and the size stands while the ring is enabled. -/
def ErrRing.configured (e : ErrRing) (v : W64) : ErrRing :=
  { e with
    enable := e.enable && v.getLsbD 31, irqGap := v.extractLsb' 16 10, irqBatch := v.extractLsb' 8 8, irqEn := v.getLsbD 5
    log2Size := keepUnless (!e.enable && within 6 16 (v.extractLsb' 0 5)) e.log2Size (v.extractLsb' 0 5) }

theorem writeRel_er_cfg (f : FurrowIx) (c : Furrow) (v : W64) :
    writeRel f c 0x08 (BitVec.allOnes 64) v = c.modErr fun e => e.configured v := by
  simp only [writeRel, merge_allOnes]
  rfl

theorem ErrRing.configured_log2Size (e : ErrRing) (v : W64) (he : e.enable = true) : (e.configured v).log2Size = e.log2Size := by
  simp [ErrRing.configured, keepUnless, he]

theorem Furrow.settle_tail (c : Furrow) : c.settle.err.tail = c.err.tail := rfl

theorem Furrow.settle_queue (c : Furrow) : c.settle.err.queue = c.err.queue := rfl

theorem Furrow.noteVector_err (c : Furrow) (n : Fin 65) : (c.noteVector n).err = c.err := rfl

theorem ErrRing.noted_tail (e : ErrRing) (seq ns : W64) : (e.noted seq ns).tail = e.tail := rfl

theorem ErrRing.takeIn_tail (e : ErrRing) : e.takeIn.tail = e.tail := by
  unfold ErrRing.takeIn
  split
  · rfl
  · split <;> rfl

theorem ErrRing.takeIn_of_none_waiting (e : ErrRing) (h : e.waiting = []) : e.takeIn = e := by
  unfold ErrRing.takeIn; rw [h]

/-- ER_RING_ENABLE that reaches the furrow. -/
theorem execErRingEnable_reaches (f : FurrowIx) (v : W64) (s : State) (hr : s.reaches f 0x600008 = true) :
    execErRingEnable f v s = .next (s.setFurrow f ((writeRel f (s.furrow f) 0x08 (BitVec.allOnes 64) v).modErr fun e =>
      if v.getLsbD 31 then
        (if (s.furrow f).err.enable then { e with enable := true } else { e with enable := true, head := 0, tail := 0 })
      else e)) := by
  unfold execErRingEnable
  rw [hr]
  rfl

/-- ER_HEAD_WRITE that reaches the furrow. -/
theorem execErHeadWrite_reaches (f : FurrowIx) (k : W32) (s : State) (hr : s.reaches f 0x600010 = true) :
    execErHeadWrite f k s = .next (s.setFurrow f ((s.furrow f).modErr fun e =>
      if e.headOk k then { e with head := k } else { e with badHead := true })) := by
  simp only [execErHeadWrite, Run.done_next, Run.modFur_now, Run.start_now, hr, Bool.not_true, Bool.false_eq_true, if_false]

/-- ERROR_RECORD_POST without a record that the ring takes now. -/
theorem execErrorRecordPost_none (f : FurrowIx) (s : State)
    (h : (if (s.furrow f).err.open_ && (s.furrow f).life != FurState.reset && s.hdl.carries then (s.furrow f).err.queue else []) = []) :
    execErrorRecordPost f s = .next s := by
  unfold execErrorRecordPost
  simp only [h]
  rfl

/-- ERROR_RECORD_POST of the oldest queued record. -/
theorem execErrorRecordPost_oldest (f : FurrowIx) (s : State) (x : ErrRec) (rest : List ErrRec) (ho : (s.furrow f).err.open_ = true)
    (hl : (s.furrow f).life ≠ .reset) (hc : s.hdl.carries = true) (hq : (s.furrow f).err.queue = x :: rest) :
    execErrorRecordPost f s = .next (((Run.start s).write .host (s.furrow f).err.slot
      (x.bytes (s.furrow f).err.tail (s.furrow f).err.log2Size.toNat)).modFur f fun c =>
        ((c.modErr fun e => ({ e with queue := rest, tail := e.tail + 1 }.noted x.seq c.ns).takeIn).noteVector 0).settle).now := by
  have hl' : ((s.furrow f).life != FurState.reset) = true := by simpa using hl
  have h : (if (s.furrow f).err.open_ && (s.furrow f).life != FurState.reset && s.hdl.carries then (s.furrow f).err.queue else []) =
      x :: rest := by rw [ho, hl', hc, hq]; rfl
  unfold execErrorRecordPost
  simp only [h]
  rfl

/-- ER_WRITE_FAIL with nothing to write, or in reset. -/
theorem execErWriteFail_none (f : FurrowIx) (s : State)
    (h : ((s.furrow f).err.open_ && !(s.furrow f).err.queue.isEmpty && (s.furrow f).life != FurState.reset) = false) :
    execErWriteFail f s = .next s := by
  unfold execErWriteFail
  simp only [h]
  rfl

theorem execErWriteFail_oldest (f : FurrowIx) (s : State)
    (h : ((s.furrow f).err.open_ && !(s.furrow f).err.queue.isEmpty && (s.furrow f).life != FurState.reset) = true) :
    execErWriteFail f s = .next ((((Run.start s).freeBytes 64).2.toHost (s.furrow f).err.slot ((Run.start s).freeBytes 64).1).modFur f fun c =>
      c.modErr fun e => { e with enable := false, writeFail := true }).now := by
  unfold execErWriteFail
  simp only [h]
  rfl

/-- A store in host memory, lost or not, touches no memory of a furrow and no register. -/
theorem Run.toHost_keeps (r : Run s₀) (a : Nat) (bs : List Byte) :
    (r.toHost a bs).now.mems = r.now.mems ∧ ∀ f, (r.toHost a bs).now.furrow f = r.now.furrow f := by
  unfold Run.toHost
  split
  · exact ⟨rfl, fun f => rfl⟩
  · exact ⟨rfl, fun f => rfl⟩

/-- Settles O52. -/
theorem errorRingTakesRecordsInOrder : Obligations.ErrorRingTakesRecordsInOrder := by
  intro f v k s
  refine ⟨fun hr => ?_, fun hr => ⟨fun hk => ?_, fun hk => ?_⟩, fun h => ⟨?_, ?_⟩, fun x rest ho hq hl => ⟨fun hc => ?_, fun hc => ?_, ?_⟩⟩
  · refine ⟨_, execErRingEnable_reaches f v s hr, State.onlyFurrow_setFurrow _ _ _, rfl, ?_⟩
    rw [State.furrow_setFurrow_same, writeRel_er_cfg]
    have hen : ((s.furrow f).err.configured v).enable = ((s.furrow f).err.enable && v.getLsbD 31) := rfl
    have hhead : ((s.furrow f).err.configured v).head = (s.furrow f).err.head := rfl
    have htail : ((s.furrow f).err.configured v).tail = (s.furrow f).err.tail := rfl
    have hsize := (s.furrow f).err.configured_log2Size v
    simp only [Furrow.modErr_err]
    cases hv : v.getLsbD 31 with
    | false => simpa [hen, hv, -BitVec.getLsbD_eq_getElem] using fun he => And.intro hhead (And.intro htail (hsize he))
    | true =>
      cases he : (s.furrow f).err.enable with
      | false => simp
      | true => simp [hhead, htail, hsize he]
  · refine (execErHeadWrite_reaches f k s hr).trans ?_
    simp [Furrow.modErr, hk]
  · refine (execErHeadWrite_reaches f k s hr).trans ?_
    simp [Furrow.modErr, hk]
  · refine execErrorRecordPost_none f s ?_
    obtain h | h | h := h <;> simp [h]
  · refine execErWriteFail_none f s ?_
    obtain h | h | h := h <;> simp [h]
  · exact execErrorRecordPost_none f s (by simp [hc])
  · refine ⟨_, execErrorRecordPost_oldest f s x rest ho hl hc hq, ?_, ErrRec.length_bytes _ _ _, ErrRec.bytes_phase _ _ _, ?_, ?_, fun hw => ?_⟩
    · simp only [Run.modFur_now, Run.write_now, State.setFurrow_host, State.setMem_host_host, State.mem_host, Run.start_now]
    · simp only [Run.modFur_now, Run.write_now, State.furrow_setFurrow_same, State.setMem_furrow, Furrow.settle_tail,
        Furrow.noteVector_err, Furrow.modErr_err, ErrRing.takeIn_tail, ErrRing.noted_tail, Run.start_now]
    · simp only [Run.modFur_now, Run.write_now, State.setFurrow_mems, State.setMem_host_mems, Run.start_now]
    · simp only [Run.modFur_now, Run.write_now, State.furrow_setFurrow_same, State.setMem_furrow, Furrow.settle_queue,
        Furrow.noteVector_err, Furrow.modErr_err, Run.start_now]
      refine (congrArg ErrRing.queue (ErrRing.takeIn_of_none_waiting _ ?_)).trans ?_
      · exact hw
      · rfl
  · obtain ⟨hmems, hfur⟩ := Run.toHost_keeps ((Run.start s).freeBytes 64).2 (s.furrow f).err.slot ((Run.start s).freeBytes 64).1
    refine ⟨_, execErWriteFail_oldest f s (by simp [ho, hq, hl]), ?_⟩
    simp only [Run.modFur_now, State.furrow_setFurrow_same, State.setFurrow_mems, Furrow.modErr_err, hmems, hfur,
      Run.freeBytes_now, Run.start_now]
    exact ⟨trivial, trivial, hq, rfl, trivial⟩

end Sys2Proof.Machine
end

section
namespace Sys2Proof.Machine

variable {s₀ : State}

/-! ### What routing a packet leaves alone -/

/-- A view of a furrow that its Poryar block has no part in. -/
def BesidePyr {γ : Type} (view : Furrow → γ) : Prop := ∀ (c : Furrow) (g : Poryar → Poryar), view (c.modPyr g) = view c

theorem Furrow.sendOn_keeps {γ : Type} {view : Furrow → γ} (hv : BesidePyr view) (c : Furrow) (port : PortIx) (p : Packet) :
    view (c.sendOn port p) = view c :=
  hv c fun y => { y with ports := (c.sendOn port p).pyr.ports }

theorem Furrow.route_keeps {γ : Type} {view : Furrow → γ} (hv : BesidePyr view) (c : Furrow) (f : FurrowIx) (p : Packet) :
    view (c.route f p) = view c := by
  have deliver : ∀ q : Packet, view (c.deliver q) = view c := fun q => hv c fun y => { y with inbox := y.inbox ++ [q] }
  unfold Furrow.route
  dsimp only
  split
  · exact deliver p
  · split
    · exact Furrow.sendOn_keeps hv c _ p
    · split
      · rfl
      · split
        · exact deliver _
        · split
          · exact Furrow.sendOn_keeps hv c _ _
          · rfl

/-! ### What the end of a request leaves alone of its furrow's life -/

/-- Whether a furrow runs, and what took it offline. -/
def Furrow.outage (c : Furrow) : FurState × Option Byte := (c.life, c.lossCause)

theorem Furrow.outage_besidePyr : BesidePyr Furrow.outage := fun _ _ => rfl

theorem Furrow.leaveStep_outage (c : Furrow) (h : Handle) (tag : Tag) : (c.leaveStep h tag).outage = c.outage := by
  unfold Furrow.leaveStep
  dsimp only
  split <;> rfl

theorem Furrow.release_outage (c : Furrow) (h : Handle) (tag : Tag) : (c.release h tag).outage = c.outage :=
  c.leaveStep_outage h tag

theorem Furrow.finish_outage (c : Furrow) (f : FurrowIx) (h : Handle) (tag : Tag) (e : Ending) : (c.finish f h tag e).outage = c.outage := by
  have released : ((c.endReq h tag e).release h tag).outage = c.outage := Furrow.release_outage _ h tag
  unfold Furrow.finish
  dsimp only
  generalize (c.endReq h tag e).release h tag = d at released
  split
  · exact released
  · split
    · exact (Furrow.route_keeps Furrow.outage_besidePyr _ f _).trans released
    · split <;> exact released

theorem Furrow.countUe_outage (c : Furrow) (e : ErrRec) : (c.countUe e).outage = c.outage := by
  unfold Furrow.countUe Furrow.rollCounts
  dsimp only
  split
  · split <;> rfl
  · rfl

theorem Furrow.raise_outage (c : Furrow) (e : ErrRec) (ends : List (Handle × Tag)) : (c.raise e ends).outage = c.outage :=
  c.countUe_outage e

/-! ### What a run leaves alone of the headland and of a furrow's life -/

/-- The headland, and whether a furrow runs. -/
def State.plight (s : State) (f : FurrowIx) : Headland × FurState × Option Byte := (s.hdl, (s.furrow f).outage)

theorem Run.modFur_plight (r : Run s₀) (f : FurrowIx) (g : Furrow → Furrow) (hg : (g (r.now.furrow f)).outage = (r.now.furrow f).outage) :
    (r.modFur f g).now.plight f = r.now.plight f := by
  simp only [State.plight, Run.modFur_now, State.setFurrow_hdl, State.furrow_setFurrow_same, hg]

theorem Run.write_plight (r : Run s₀) (f : FurrowIx) (sp : Space) (a : Nat) (bs : List Byte) :
    (r.write sp a bs).now.plight f = r.now.plight f := by
  simp only [State.plight, Run.write_now, State.setMem_hdl, State.setMem_furrow]

theorem Run.toHost_plight (r : Run s₀) (f : FurrowIx) (a : Nat) (bs : List Byte) : (r.toHost a bs).now.plight f = r.now.plight f := by
  unfold Run.toHost
  split
  · exact r.write_plight f .host a bs
  · rfl

theorem Run.post_plight (r : Run s₀) (f : FurrowIx) (h : Handle) (x : Record) : (r.post f h x).now.plight f = r.now.plight f := by
  unfold Run.post Run.writeRecord
  dsimp only
  split
  · refine (Run.modFur_plight _ f _ ?_).trans (Run.toHost_plight r f _ _)
    split <;> rfl
  · refine Run.modFur_plight r f _ ?_
    split <;> rfl

theorem Run.postFinal_plight (r : Run s₀) (f : FurrowIx) (h : Handle) (tag : Tag) : (r.postFinal f h tag).now.plight f = r.now.plight f := by
  unfold Run.postFinal
  split
  · rfl
  · dsimp only
    split
    · split
      · exact r.post_plight f h _
      · rfl
    · rfl

theorem Run.closeStream_plight (r : Run s₀) (f : FurrowIx) (h : Handle) (tag : Tag) (st : Byte) :
    (r.closeStream f h tag st).now.plight f = r.now.plight f := by
  unfold Run.closeStream
  dsimp only
  split
  · split <;> exact r.toHost_plight f _ _
  · rfl

theorem Run.loseRequest_plight (r : Run s₀) (f : FurrowIx) (q : Request) : (r.loseRequest f q).now.plight f = r.now.plight f := by
  unfold Run.loseRequest
  dsimp only
  split
  · exact r.modFur_plight f _ rfl
  · split
    · exact r.postFinal_plight f _ _
    · refine (Run.postFinal_plight _ f _ _).trans ((Run.modFur_plight _ f _ ?_).trans (r.closeStream_plight f _ _ _))
      exact Furrow.finish_outage _ f _ _ _

/-! ### What a descriptor that is cut off leaves alone -/

theorem Run.dirty_hdl (r : Run s₀) (f : FurrowIx) (h : Handle) (tier off n : Nat) : (r.dirty f h tier off n).now.hdl = r.now.hdl := by
  refine Run.each_keeps State.hdl _ (fun r a => ?_) _ r
  dsimp only
  split
  · refine (Run.each_keeps State.hdl _ (fun r j => ?_) _ r)
    split
    · rfl
    · exact State.setMem_hdl _ _ _
  · rfl

theorem Run.put_hdl (r : Run s₀) (f : FurrowIx) (h : Handle) (core tier off n : Nat) (img : List Host.Cell) :
    (r.put f h core tier off n img).now.hdl = r.now.hdl := by
  refine foldl_keeps (fun p : Run s₀ × Nat => p.1.now.hdl) _ (fun p q => ?_) _ (r, 0)
  exact State.setMem_hdl _ _ _

theorem Run.store_hdl (r : Run s₀) (f : FurrowIx) (h : Handle) (core tier off : Nat) (bs : List Byte) :
    (r.store f h core tier off bs).now.hdl = r.now.hdl := by
  unfold Run.store Run.storeCells
  refine (Run.put_hdl _ f h core tier off _ _).trans ?_
  split
  · exact r.dirty_hdl f h tier off _
  · rfl

theorem Run.ruin_hdl (r : Run s₀) (f : FurrowIx) (q : Request) : (r.ruin f q).now.hdl = r.now.hdl := by
  refine Run.each_keeps State.hdl _ (fun r x => ?_) _ r
  dsimp only
  split
  · rfl
  · split
    · exact congrArg Prod.fst (Run.toHost_plight (r.freeBytes x.2.2.2).2 f _ _)
    · exact Run.store_hdl (r.freeBytes x.2.2.2).2 f _ _ _ _ _

/-! ### The loss of a furrow (R428, R429) -/

theorem getLsbD_addBit {w : Nat} (m : BitVec w) (i : Nat) (hi : i < w) : (addBit m i).getLsbD i = true := by
  rw [addBit, BitVec.getLsbD_or, BitVec.getLsbD_ofNat, Nat.testBit_two_pow_self, decide_eq_true hi, Bool.and_self, Bool.or_true]

/-- The headland marks the furrow, unless it has failed itself, and touches no furrow. -/
theorem Run.markLost_marks (r : Run s₀) (f : FurrowIx) : (r.markLost f).now.furrow f = r.now.furrow f ∧
    (r.now.hdl.failed = false → (r.markLost f).now.hdl.lostMap.getLsbD f.val = true) := by
  unfold Run.markLost
  split
  next hf => exact ⟨rfl, fun h => by rw [h] at hf; cases hf⟩
  · exact ⟨rfl, fun _ => getLsbD_addBit _ _ f.isLt⟩

theorem Furrow.alive_iff (c : Furrow) : c.alive = true ↔ ¬ (c.life = .reset ∨ c.life = .lost) := by
  simp [Furrow.alive]

theorem Run.lose_not_alive (r : Run s₀) (f : FurrowIx) (cause : Nat) (h : (r.now.furrow f).alive = false) : r.lose f cause = r := by
  have h' : (r.now.furrow f).life = .reset ∨ (r.now.furrow f).life = .lost := by
    by_contra hn
    rw [(Furrow.alive_iff _).2 hn] at h
    cases h
  exact if_pos h'

/-- A furrow that runs goes offline with the cause, and the headland marks it. -/
theorem Run.lose_alive (r : Run s₀) (f : FurrowIx) (cause : Nat) (h : (r.now.furrow f).alive = true) :
    ((r.lose f cause).now.furrow f).life = .lost ∧ ((r.lose f cause).now.furrow f).lossCause = some (BitVec.ofNat 8 cause) ∧
      (r.now.hdl.failed = false → (r.lose f cause).now.hdl.lostMap.getLsbD f.val = true) := by
  have h' : ¬ ((r.fur f).life = .reset ∨ (r.fur f).life = .lost) := (Furrow.alive_iff _).1 h
  unfold Run.lose
  rw [if_neg h']
  dsimp only
  generalize (List.finRange 64).flatMap (fun h => (r.fur f).outstanding h) = qs
  have ruined : (r.each qs fun r q => if q.isEnded then r else r.ruin f q).now.hdl = r.now.hdl := by
    refine Run.each_keeps State.hdl _ (fun r q => ?_) qs r
    split
    · rfl
    · exact r.ruin_hdl f q
  generalize (r.each qs fun r q => if q.isEnded then r else r.ruin f q) = r1 at ruined
  obtain ⟨hfur, hmark⟩ := Run.markLost_marks (r1.modFur f fun c => c.halt cause) f
  rw [Run.modFur_now, State.furrow_setFurrow_same] at hfur
  generalize ((r1.modFur f fun c => c.halt cause).markLost f) = r2 at hfur hmark
  have ended : (r2.each qs fun r q => r.loseRequest f q).now.plight f = r2.now.plight f :=
    Run.each_keeps (fun t => t.plight f) _ (fun r q => r.loseRequest_plight f q) qs r2
  generalize (r2.each qs fun r q => r.loseRequest f q) = r3 at ended
  simp only [State.plight, Prod.mk.injEq, hfur] at ended
  obtain ⟨hhdl, hout⟩ := ended
  have raised : ((r3.now.furrow f).raise { errRec 0xF0 4 cause with last := true } []).lossCause = some (BitVec.ofNat 8 cause) :=
    (congrArg Prod.snd (Furrow.raise_outage (r3.now.furrow f) _ [])).trans (congrArg Prod.snd hout)
  rw [Run.modFur_now, State.furrow_setFurrow_same, State.setFurrow_hdl, hhdl]
  exact ⟨rfl, raised, fun hf => hmark (by rw [← hf, ← ruined]; rfl)⟩

/-- The commands that tell of a cause of loss (R428, R442, R451). -/
def tellsLoss (s : State) (f : FurrowIx) (c : Instr) (cause : Nat) : Prop :=
  (∃ k, c = .handlingPathFail f k ∧ cause = lossCode k ∧
    (k = .handling → ((s.furrow f).err.handling.any fun x => x.posted && decide (10000000 ≤ elapsed (s.furrow f).ns x.since)) = true)) ∨
  (c = .refclkLoss f ∧ cause = 4) ∨ (c = .railOutOfLimits f ∧ cause = 0x11 ∧ lasting (s.furrow f).ns (s.furrow f).pwr.farSince 100000 = true)

theorem exec_of_tellsLoss (s : State) (f : FurrowIx) (c : Instr) (cause : Nat) (h : tellsLoss s f c cause) :
    exec c s = .next ((Run.start s).lose f cause).now := by
  obtain ⟨k, rfl, rfl, hk⟩ | ⟨rfl, rfl⟩ | ⟨rfl, rfl, hr⟩ := h
  · refine congrArg (fun r : Run s => r.done) (if_neg ?_)
    rintro ⟨hh, hn⟩
    rw [hk hh] at hn
    cases hn
  · rfl
  · exact congrArg (fun r : Run s => r.done) (if_pos hr)

/-- Settles O54. -/
theorem lossTakesFurrowOffline : Obligations.LossTakesFurrowOffline := by
  intro f s
  refine ⟨fun c cause hc => ⟨fun ha => ?_, fun ha => ?_⟩, fun hn => ?_, fun hn => ?_, fun h => ?_, fun hl hf => ?_, rfl, rfl⟩
  · exact ⟨_, exec_of_tellsLoss s f c cause hc, Run.lose_alive (Run.start s) f cause ha⟩
  · rw [exec_of_tellsLoss s f c cause hc, Run.lose_not_alive (Run.start s) f cause ha]
    rfl
  · exact congrArg (fun r : Run s => r.done) (if_neg (by simp [hn]))
  · exact congrArg (fun r : Run s => r.done) (if_pos ⟨rfl, by simp [hn]⟩)
  · obtain h | h := h
    · exact congrArg (fun r : Run s => r.done) (if_pos h)
    · refine (congrArg (fun r : Run s => r.done) (ite_eq_left_iff.2 fun _ => ?_))
      exact if_pos h
  · refine (congrArg (fun r : Run s => r.done) (if_neg (by simp only [hl, Bool.false_eq_true, not_false_eq_true]))).trans ?_
    refine (congrArg (fun r : Run s => r.done) (if_neg ?_)).trans rfl
    rw [Run.start_now, hf]
    decide

end Sys2Proof.Machine
end

section
namespace Sys2Proof.Machine

variable {s₀ : State}

/-! ### Requests as their handles see them -/

theorem modFirst_map {α : Type} (v : Request → α) (g : Request → Request) (hg : ∀ q, v (g q) = v q) (h : Handle) (tag : Tag)
    (qs : List Request) : (modFirst qs h tag g).map v = qs.map v := by
  induction qs with
  | nil => rfl
  | cons q qs ih =>
    unfold modFirst
    split
    · simp [hg]
    · simp [ih]

/-- What a handle's teardown waits for: whose each request is, and the handle's rings. -/
def Furrow.owing (h : Handle) (c : Furrow) : List (Handle × Bool) × Rings := (c.reqs.map fun q => (q.h, q.isBox), c.ctx[h].rings)

theorem Furrow.owing_besidePyr (h : Handle) : BesidePyr (Furrow.owing h) := fun _ _ => rfl

theorem Furrow.outstanding_eq_nil_iff (c : Furrow) (h : Handle) :
    c.outstanding h = [] ↔ ∀ p ∈ (c.owing h).1, ¬ (p.1 = h ∧ p.2 = false) := by
  simp [Furrow.outstanding, Furrow.owing, List.filter_eq_nil_iff]

theorem Furrow.modCtx_outstanding (c : Furrow) (h k : Handle) (g : Context → Context) : (c.modCtx h g).outstanding k = c.outstanding k := rfl

theorem Furrow.cancelMembers_keeps {γ : Type} {view : Furrow → γ} (hv : BesidePyr view) (c : Furrow) (f : FurrowIx) (q : Request) :
    view (c.cancelMembers f q) = view c :=
  foldl_keeps view _ (fun c _ => Furrow.route_keeps hv c f _) q.dones c

/-- An engine's end of a descriptor leaves alone whose the requests are, and every ring. -/
theorem Run.engineEnds_owing (r : Run s₀) (f : FurrowIx) (h k : Handle) (tag : Tag) (e : Ending) :
    ((r.engineEnds f h tag e).now.furrow f).owing k = (r.now.furrow f).owing k := by
  have ends : ∀ c : Furrow, ((c.modReq h tag fun q => { q with phase := .engineDone e, uses := [] }).modCtx h Context.updateNs).owing k =
      c.owing k := fun c =>
    Prod.ext (modFirst_map _ _ (by intro q; rfl) h tag c.reqs) (Furrow.view_modCtx Context.rings _ h _ (by intro x; rfl) k)
  unfold Run.engineEnds
  rw [Run.modFur_now, State.furrow_setFurrow_same]
  refine (ends _).trans ?_
  split
  · split
    · exact Furrow.cancelMembers_keeps (Furrow.owing_besidePyr k) _ f _
    · rfl
  · rfl

/-! ### A teardown (R91) -/

theorem Furrow.idleSlots_owing (c : Furrow) (h k : Handle) : (c.idleSlots h).owing k = c.owing k := rfl

theorem Run.idleOwned_owing (r : Run s₀) (f : FurrowIx) (h k : Handle) (e : Request → Ending) :
    ((r.idleOwned f h e).now.furrow f).owing k = (r.now.furrow f).owing k := by
  unfold Run.idleOwned
  rw [Run.modFur_now, State.furrow_setFurrow_same, Furrow.idleSlots_owing]
  refine Run.each_keeps (fun t => (t.furrow f).owing k) _ (fun r q => ?_) _ r
  exact r.engineEnds_owing f q.h k q.tag (e q)

/-- With no request outstanding the first steps of a teardown owe nobody anything. -/
theorem Run.faultRequests_owing (r : Run s₀) (f : FurrowIx) (h : Handle) (cause : FaultCause) (addr : W64)
    (ho : (r.now.furrow f).outstanding h = []) :
    ((r.faultRequests f h cause addr).now.furrow f).outstanding h = [] ∧
      ((r.faultRequests f h cause addr).now.furrow f).ctx[h].rings.holding = (r.now.furrow f).ctx[h].rings.holding := by
  unfold Run.faultRequests
  simp only [Run.fur_eq, ho, Run.each_nil]
  have kept := Run.idleOwned_owing (r.modFur f fun c => c.modCtx h fun x =>
    { x with fault := some (cause, addr), rings := { x.rings with kept := [], openRun := none } }) f h h
      fun q => .bare Status.contextFault (faultDetail (causeCode cause) q.runningOp)
  rw [Run.modFur_now, State.furrow_setFurrow_same] at kept
  constructor
  · rw [Furrow.outstanding_eq_nil_iff, kept, ← Furrow.outstanding_eq_nil_iff]
    rw [Furrow.modCtx_outstanding, ho]
  · have held := congrArg (fun o => o.2.holding) kept
    simpa only [Furrow.owing, Furrow.modCtx_same] using held

/-- A context that a teardown has come to its end with. -/
def Context.tornDown (x : Context) : Prop := x.state = .faulted ∧ x.rings.state = .error ∧ x.role = .none

theorem Furrow.idleSlots_ctx (c : Furrow) (h : Handle) : (c.idleSlots h).ctx = c.ctx := rfl

theorem Furrow.endBinding_role (c : Furrow) (f : FurrowIx) (h : Handle) : (c.endBinding f h).ctx[h].role = .none :=
  congrArg Context.role (Furrow.modCtx_same _ h _)

/-- The last steps leave the context FAULTED, its rings in ERROR and without a binding. -/
theorem Run.faultRest_faulted (r : Run s₀) (f : FurrowIx) (h : Handle) (cause : FaultCause) (addr : W64) :
    ((r.faultRest f h cause addr).now.furrow f).ctx[h].tornDown := by
  simp only [Run.faultRest, Run.modFur_now, State.furrow_setFurrow_same, Furrow.modCtx_same, Context.tornDown, Furrow.idleSlots_ctx,
    Furrow.endBinding_role, and_self]

theorem Run.teardown_faulted (r : Run s₀) (f : FurrowIx) (h : Handle) (cause : FaultCause) (addr : W64)
    (ho : (r.now.furrow f).outstanding h = []) (hh : (r.now.furrow f).ctx[h].rings.holding = []) :
    ((r.teardown f h cause addr).now.furrow f).ctx[h].tornDown := by
  unfold Run.teardown
  dsimp only
  generalize ((r.fur f).ctx[h].fault).getD (cause, addr) = y
  have quiet : ∀ r1 : Run s₀, (r1.now.furrow f).outstanding h = [] ∧ (r1.now.furrow f).ctx[h].rings.holding = [] →
      (r1.fur f).faultPosted h y.1 = true := by
    rintro r1 ⟨h1, h2⟩
    simp [Furrow.faultPosted, h1, h2, -Fin.getElem_fin]
  have hq : ((if ((r.fur f).ctx[h].fault).isNone then r.faultRequests f h cause addr else r).fur f).faultPosted h y.1 = true := by
    refine quiet _ ?_
    split
    · obtain ⟨h1, h2⟩ := r.faultRequests_owing f h cause addr ho
      exact ⟨h1, by rw [h2, hh]⟩
    · exact ⟨ho, hh⟩
  rw [if_pos hq]
  exact Run.faultRest_faulted _ f h y.1 y.2

end Sys2Proof.Machine
end

section
namespace Sys2Proof.Machine

variable {s₀ : State}

/-! ### A packet's command -/

/-- A packet that the furrow takes: its command works on the furrow that has taken it. -/
theorem onPacket_takes {kind : Byte} {f : FurrowIx} {p : Packet} {s : State} (h : (s.furrow f).takes f kind p = true)
    (work : Run s → Run s) : onPacket kind f p s work = .next (work (Run.took s f p)).now := by
  unfold onPacket
  rw [if_pos h]
  rfl

/-- Such a command that changes the furrow alone. -/
theorem onPacket_modFur {kind : Byte} {f : FurrowIx} {p : Packet} {s : State} (h : (s.furrow f).takes f kind p = true)
    {g : Furrow → Furrow} {d : Furrow} (hd : g ((s.took f p).furrow f) = d) :
    onPacket kind f p s (fun r => r.modFur f g) = .next ((s.took f p).setFurrow f d) := by
  rw [onPacket_takes h, Run.modFur_now]
  exact congrArg (fun d => Host.Outcome.next ((s.took f p).setFurrow f d)) hd

/-- Such a command that finds nothing to do. -/
theorem onPacket_modFur_self {kind : Byte} {f : FurrowIx} {p : Packet} {s : State} (h : (s.furrow f).takes f kind p = true)
    {g : Furrow → Furrow} (hd : g ((s.took f p).furrow f) = (s.took f p).furrow f) :
    onPacket kind f p s (fun r => r.modFur f g) = .next (s.took f p) := by
  rw [onPacket_modFur h hd, State.setFurrow_self]

/-- A command that may tear a context down leaves it so when nothing of it is outstanding. -/
theorem exists_tornDown {f : FurrowIx} {h : Handle} {cause : FaultCause} {addr : W64} {o : Host.Outcome State Fault Refusal} {r : Run s₀}
    (ho : o = .next (r.teardown f h cause addr).now) (hq : (r.now.furrow f).outstanding h = [])
    (hh : (r.now.furrow f).ctx[h].rings.holding = []) :
    ∃ t, o = .next t ∧ (t.furrow f).ctx[h].state = .faulted ∧ (t.furrow f).ctx[h].rings.state = .error ∧ (t.furrow f).ctx[h].role = .none :=
  ⟨_, ho, r.teardown_faulted f h cause addr hq hh⟩

/-- A command that changes one furrow alone. -/
theorem done_modFur {s : State} {f : FurrowIx} {g : Furrow → Furrow} {d : Furrow} (hd : g (s.furrow f) = d) :
    ((Run.start s).modFur f g).done = .next (s.setFurrow f d) :=
  congrArg (fun d => Host.Outcome.next (s.setFurrow f d)) hd

theorem done_modFur_self {s : State} {f : FurrowIx} {g : Furrow → Furrow} (hd : g (s.furrow f) = s.furrow f) :
    ((Run.start s).modFur f g).done = .next s := by
  rw [done_modFur hd, State.setFurrow_self]

/-! ### Beats (R24, R377) -/

/-- SPAN_BEAT_TIMEOUT at a member: its root is lost when its last beat is too old. -/
theorem execSpanBeatTimeout_member {f : FurrowIx} {h : Handle} {b : SpanBind} {s : State} (m : W32) (hb : (s.furrow f).bind? h = some b)
    (hr : (s.furrow f).ctx[h].role = .member) :
    execSpanBeatTimeout f h m s =
      (if (s.furrow f).pyr.lostBeats.toNat * (s.furrow f).beatNs ≤ elapsed (s.furrow f).ns b.lastBeat then
        (Run.start s).teardown f h .spanRootLost 0 else Run.start s).done := by
  unfold execSpanBeatTimeout
  simp only [hb, hr, if_true]

/-- At a root: a member is lost when its last echo is too old. -/
theorem execSpanBeatTimeout_root {f : FurrowIx} {h : Handle} {m : W32} {b : SpanBind} {x : MemberEntry} {s : State}
    (hb : (s.furrow f).bind? h = some b) (hr : (s.furrow f).ctx[h].role = .root) (hx : b.entries[m.toNat]? = some x) (hl : x.lost = false) :
    execSpanBeatTimeout f h m s =
      (if (s.furrow f).pyr.lostBeats.toNat * (s.furrow f).beatNs ≤ elapsed (s.furrow f).ns x.lastEcho then
        (Run.start s).loseMember f h x.id else Run.start s).done := by
  have hm : ¬ SpanRole.root = SpanRole.member := by decide
  unfold execSpanBeatTimeout
  simp only [hb, hr, hm, hx, hl, if_false, true_and, Bool.not_false]

/-! ### Binding traffic (R22, R375, R378) -/

/-- A request that a run has changed is found as it was changed. -/
theorem Run.request?_modReq {r : Run s₀} {f : FurrowIx} {q : Request} (g : Request → Request)
    (hq : (r.now.furrow f).request? q.h q.tag = some q) (hg : ∀ q, (g q).h = q.h ∧ (g q).tag = q.tag ∧ (g q).isBox = q.isBox) :
    ((r.modFur f fun c => c.modReq q.h q.tag g).fur f).request? q.h q.tag = some (g q) := by
  obtain ⟨_, _, hbox⟩ := Furrow.request?_is _ _ _ _ hq
  obtain ⟨gh, gtag, gbox⟩ := hg q
  rw [Run.fur_eq, Run.modFur_now, State.furrow_setFurrow_same]
  exact Furrow.request?_modReq _ _ _ _ q hq ((Request.isOf_iff _ _ _).2 ⟨gh, gtag, gbox.trans hbox⟩)

section
variable {f : FurrowIx} {p : Packet} {s : State}

/-- An answer to a join that no request of the furrow waits for. -/
theorem execSpanJoinReply_unasked (ht : (s.furrow f).takes f Kind.spanJoin p = true) (ha : Join.isAnswer p = true)
    (he : Join.isEnd p = false) (hq : ((s.took f p).furrow f).joinRequest p = none) :
    execSpanJoinReply f p s =
      .next (if Join.regroups p then (Run.took s f p).modFur f fun c => c.regrouped f p else Run.took s f p).now := by
  refine (onPacket_takes ht _).trans ?_
  have hq' : ((Run.took s f p).fur f).joinRequest p = none := hq
  simp only [ha, he, hq', Bool.not_true, Bool.or_self, Bool.false_eq_true, if_false]

/-- A refusal fails the binding. -/
theorem execSpanJoinReply_refused (ht : (s.furrow f).takes f Kind.spanJoin p = true) (ha : Join.isAnswer p = true)
    (he : Join.isEnd p = false) {q : Request} (hq : ((s.took f p).furrow f).joinRequest p = some q) (hr : Join.refused p = true) :
    execSpanJoinReply f p s = .next ((Run.took s f p).joinFails f q (((s.took f p).furrow f).joinsFor q).1
      (((s.took f p).furrow f).joinsFor q).2).now := by
  refine (onPacket_takes ht _).trans ?_
  have hq' : ((Run.took s f p).fur f).joinRequest p = some q := hq
  simp only [ha, he, hq', hr, Bool.not_true, Bool.or_self, Bool.false_eq_true, if_false, if_true]
  rfl

/-- The group's answer has the binding recorded. -/
theorem execSpanJoinReply_group (ht : (s.furrow f).takes f Kind.spanJoin p = true) (ha : Join.isAnswer p = true)
    (he : Join.isEnd p = false) {q : Request} (hq : ((s.took f p).furrow f).joinRequest p = some q) (hr : Join.refused p = false)
    (h3 : q.stage = 3) (hg : Join.regroups p = true) :
    execSpanJoinReply f p s = .next ((s.took f p).setFurrow f (((s.took f p).furrow f).join f q
      (((s.took f p).furrow f).joinsFor q).1 (((s.took f p).furrow f).joinsFor q).2 8 2)) := by
  refine (onPacket_takes ht _).trans ?_
  have hq' : ((Run.took s f p).fur f).joinRequest p = some q := hq
  simp only [ha, he, hq', hr, h3, hg, Bool.not_true, Bool.or_self, Bool.false_eq_true, if_false, if_true]
  rfl

/-- A member has recorded the binding; the last one has it made. -/
theorem execSpanJoinReply_recorded (ht : (s.furrow f).takes f Kind.spanJoin p = true) (ha : Join.isAnswer p = true)
    (he : Join.isEnd p = false) {q : Request} (hq : ((s.took f p).furrow f).joinRequest p = some q) (hr : Join.refused p = false)
    (hreq : ((s.took f p).furrow f).request? q.h q.tag = some q) (h2 : q.stage = 2) (hrec : Join.records p = true)
    (heard : Request → Request) (hh : heard = fun q => { q with acks := q.acks.erase p.src }) :
    execSpanJoinReply f p s = .next (if q.acks.erase p.src = []
      then ((Run.took s f p).modFur f fun c => c.modReq q.h q.tag heard).joined f (heard q)
      else (Run.took s f p).modFur f fun c => c.modReq q.h q.tag heard).now := by
  refine (onPacket_takes ht _).trans ?_
  have hq' : ((Run.took s f p).fur f).joinRequest p = some q := hq
  have found := Run.request?_modReq (r := Run.took s f p) heard hreq (by subst hh; exact fun _ => ⟨rfl, rfl, rfl⟩)
  subst hh
  have h3 : ¬ (2 : Nat) = 3 := by decide
  simp only [ha, he, hq', hr, h2, h3, hrec, found, Bool.not_true, Bool.or_self, Bool.false_eq_true, if_false, if_true, List.isEmpty_iff]

/-- An answer is collected; with the last one the identifiers are checked. -/
theorem execSpanJoinReply_answered (ht : (s.furrow f).takes f Kind.spanJoin p = true) (ha : Join.isAnswer p = true)
    (he : Join.isEnd p = false) {q : Request} (hq : ((s.took f p).furrow f).joinRequest p = some q) (hr : Join.refused p = false)
    (hreq : ((s.took f p).furrow f).request? q.h q.tag = some q) (h2 : q.stage ≠ 2) (h3 : q.stage ≠ 3)
    (heard : Request → Request) (hh : heard = fun q =>
      { q with
        contrib := q.contrib ++ [p]
        acks := if (joinIds (q.contrib ++ [p]) p.src).isSome then q.acks.erase p.src else q.acks })
    (r : Run s) (hrun : r = (Run.took s f p).modFur f fun c => c.modReq q.h q.tag heard) :
    execSpanJoinReply f p s = .next (if (heard q).acks ≠ [] then r
      else if spanIdsOk ((r.fur f).joinedIds f (heard q)) then r.modFur f fun c => c.askGroup f (heard q)
      else r.joinFails f (heard q) (((s.took f p).furrow f).joinsFor q).1 (((s.took f p).furrow f).joinsFor q).2).now := by
  refine (onPacket_takes ht _).trans ?_
  have hq' : ((Run.took s f p).fur f).joinRequest p = some q := hq
  have found := Run.request?_modReq (r := Run.took s f p) heard hreq (by subst hh; exact fun _ => ⟨rfl, rfl, rfl⟩)
  subst hrun hh
  have open_ : ∀ xs : List FabricId, (!xs.isEmpty) = true ↔ xs ≠ [] := by simp
  simp only [ha, he, hq', hr, h2, h3, found, Bool.not_true, Bool.or_self, Bool.false_eq_true, if_false, open_]
  rfl

end

/-- Settles O45. -/
theorem spansAreBoundAndKeptAlive : Obligations.SpansAreBoundAndKeptAlive := by
  refine ⟨fun f p h m s => ⟨fun ht => ⟨fun hb => ?_, fun g hb => ⟨fun hr => ?_, fun hr hm => ?_, fun hr k hm => ?_⟩⟩, fun hb => ⟨?_, ?_⟩,
    fun b hb => ⟨fun hr => ⟨fun hl => ?_, fun hl => ?_, fun x hx hlost => ⟨fun hl => ?_, fun hl => ?_⟩⟩,
      fun hr => ⟨fun hl => ?_, fun hl => ?_⟩⟩⟩, fun f p s ht => ?_⟩
  · exact onPacket_modFur_self ht (by simp only [hb])
  · exact onPacket_modFur ht (by simp only [hb, hr, if_true])
  · exact onPacket_modFur_self ht (by simp only [hb, hr, hm, if_false])
  · exact onPacket_modFur ht (by simp only [hb, hr, hm, if_false])
  · exact done_modFur_self (by simp only [hb])
  · show execSpanBeatTimeout f h m s = _
    simp only [execSpanBeatTimeout, hb, Run.done_next, Run.start_now]
  · exact done_modFur_self (by simp only [hb, Nat.not_le.2 hl, and_false, if_false])
  · exact done_modFur (by simp only [hb, hr, hl, and_self, if_true])
  · refine (execSpanBeatTimeout_root hb hr hx hlost).trans ?_
    rw [if_neg (Nat.not_le.2 hl)]
    rfl
  · refine (execSpanBeatTimeout_root hb hr hx hlost).trans ?_
    rw [if_pos hl]
    rfl
  · refine (execSpanBeatTimeout_member m hb hr).trans ?_
    rw [if_neg (Nat.not_le.2 hl)]
    rfl
  · have lost : execSpanBeatTimeout f h m s = .next ((Run.start s).teardown f h .spanRootLost 0).now := by
      rw [execSpanBeatTimeout_member m hb hr, if_pos hl]
      rfl
    exact ⟨lost, exists_tornDown lost⟩
  · refine ⟨fun h => ?_, fun he ha hg => ?_, fun he ha hg hf => ⟨fun hj => ?_, fun h hj => ?_⟩,
      fun he ha hg hf => ⟨fun hj => ?_, fun h hj => ⟨fun hr => ?_, fun hr hm => ?_, fun hr hm => ?_⟩⟩,
      fun he => ?_, fun he => ⟨fun hn => ?_, fun h hn => ?_⟩, fun ha => ?_, fun ha he => ⟨fun hq hg => ?_, fun hq hg => ?_, fun q hq =>
        ⟨fun hr => ?_, fun hr hreq => ⟨fun h3 hg => ?_, fun h2 hrec => ?_, fun h2 h3 => ?_⟩⟩⟩⟩
    · exact onPacket_modFur_self ht (if_pos (by simpa using h))
    · exact onPacket_modFur ht (by simp only [he, ha, hg, Bool.or_self, Bool.false_eq_true, if_false, if_true])
    · exact onPacket_modFur_self ht (by simp only [he, ha, hg, hf, hj, Bool.or_self, Bool.false_eq_true, if_false, if_true])
    · exact onPacket_modFur ht (by simp only [he, ha, hg, hf, hj, Bool.or_self, Bool.false_eq_true, if_false, if_true])
    · exact onPacket_modFur ht (by simp only [he, ha, hg, hf, hj, Bool.or_self, Bool.false_eq_true, if_false])
    · exact onPacket_modFur ht (by simp only [he, ha, hg, hf, hj, hr, Bool.or_self, Bool.false_eq_true, if_false, if_true])
    · exact onPacket_modFur ht (by simp only [he, ha, hg, hf, hj, hr, hm, Bool.or_self, Bool.false_eq_true, if_false, if_true])
    · exact onPacket_modFur ht (by simp only [he, ha, hg, hf, hj, hr, hm, Bool.or_self, Bool.false_eq_true, if_false])
    · show execSpanEnd f p s = _
      refine (onPacket_takes ht _).trans ?_
      simp only [he, Bool.not_false, if_true]
      rfl
    · show execSpanEnd f p s = _
      refine (onPacket_takes ht _).trans ?_
      simp only [he, Bool.not_true, Bool.false_eq_true, if_false]
      split
      next => rfl
      next h hx => exact absurd (hn.symm.trans hx) (Option.some_ne_none h).symm
    · have ended : execSpanEnd f p s = .next ((Run.took s f p).teardown f h .spanRootLost 0).now := by
        refine (onPacket_takes ht _).trans ?_
        simp only [he, Bool.not_true, Bool.false_eq_true, if_false]
        split
        next hx => exact absurd (hx.symm.trans hn) (Option.some_ne_none h).symm
        next k hx => rw [Option.some.inj (hx.symm.trans hn)]
      exact ⟨ended, exists_tornDown ended⟩
    · show execSpanJoinReply f p s = _
      refine (onPacket_takes ht _).trans ?_
      simp only [ha, Bool.not_false, Bool.true_or, if_true]
      rfl
    · exact (execSpanJoinReply_unasked ht ha he hq).trans (by rw [hg]; rfl)
    · exact (execSpanJoinReply_unasked ht ha he hq).trans (by rw [hg]; rfl)
    · exact execSpanJoinReply_refused ht ha he hq hr
    · exact execSpanJoinReply_group ht ha he hq hr h3 hg
    · exact execSpanJoinReply_recorded ht ha he hq hr hreq h2 hrec _ rfl
    · exact execSpanJoinReply_answered ht ha he hq hr hreq h2 h3 _ rfl _ rfl

end Sys2Proof.Machine
end

section
namespace Sys2Proof.Machine

variable {s₀ : State}

/-! ### How an engine's descriptor ends -/

theorem State.onlyFurrow_refl (s : State) (f : FurrowIx) : s.onlyFurrow f s := ⟨rfl, rfl, rfl, rfl, fun _ _ => ⟨rfl, rfl⟩⟩

theorem State.onlyFurrow_trans {s t u : State} {f : FurrowIx} (st : s.onlyFurrow f t) (tu : t.onlyFurrow f u) : s.onlyFurrow f u := by
  obtain ⟨host, hdl, fuses, pending, others⟩ := st
  obtain ⟨host', hdl', fuses', pending', others'⟩ := tu
  exact ⟨host'.trans host, hdl'.trans hdl, fuses'.trans fuses, pending'.trans pending,
    fun g hg => ⟨(others' g hg).1.trans (others g hg).1, (others' g hg).2.trans (others g hg).2⟩⟩

theorem Furrow.atWork_is {c : Furrow} {h : Handle} {tag : Tag} {op : Byte} {q : Request} (hq : c.atWork h tag op = some q) :
    c.request? h tag = some q ∧ q.phase = .running ∧ opcodeOf q.desc = op ∧ q.await = none := by
  unfold Furrow.atWork at hq
  split at hq
  · cases hq
  · split at hq
    · rename_i p hp hw
      cases hq
      obtain ⟨hphase, hop, hawait, _⟩ := hw
      exact ⟨hp, hphase, hop, hawait⟩
    · cases hq

/-- A change that leaves the request's name alone. -/
def KeepsName (g : Request → Request) : Prop := ∀ q, (g q).h = q.h ∧ (g q).tag = q.tag ∧ (g q).isBox = q.isBox

theorem Furrow.request?_modReq_of_keepsName {c : Furrow} {h : Handle} {tag : Tag} {g : Request → Request} {q : Request} (hg : KeepsName g)
    (hq : c.request? h tag = some q) : (c.modReq h tag g).request? h tag = some (g q) := by
  obtain ⟨hh, htag, hbox⟩ := Furrow.request?_is _ _ _ _ hq
  obtain ⟨gh, gtag, gbox⟩ := hg q
  exact Furrow.request?_modReq _ _ _ _ _ hq ((Request.isOf_iff _ _ _).2 ⟨gh.trans hh, gtag.trans htag, gbox.trans hbox⟩)

/-- A request without a transfer has no block that waits for a slot: nothing is granted. -/
theorem Furrow.grantAll_of_not_transfers {c : Furrow} {h : Handle} {tag : Tag} (ht : c.transfers h tag = false) : c.grantAll h tag = c := by
  have asking : c.asking h tag = [] := by
    simp only [Furrow.transfers, Bool.or_eq_false_iff, List.any_eq_false] at ht
    obtain ⟨⟨⟨writes, _⟩, _⟩, _⟩ := ht
    refine List.filter_eq_nil_iff.2 fun w hw hask => writes w hw ?_
    rw [Bool.and_eq_true] at hask
    exact hask.1
  unfold Furrow.grantAll
  dsimp only
  rw [asking]
  rfl

/-- Whether a request's transfers are under way does not hang on the rest of the request. -/
theorem Furrow.transfers_modReq {c : Furrow} {h : Handle} {tag : Tag} {g : Request → Request} {q : Request} (hg : KeepsName g)
    (hq : c.request? h tag = some q) (ho : (g q).owed = q.owed) : (c.modReq h tag g).transfers h tag = c.transfers h tag := by
  unfold Furrow.transfers
  rw [Furrow.request?_modReq_of_keepsName hg hq, hq]
  simp only [ho]
  rfl

theorem Furrow.request?_congr {c d : Furrow} (hr : d.reqs = c.reqs) (h : Handle) (tag : Tag) : d.request? h tag = c.request? h tag := by
  unfold Furrow.request?
  rw [hr]

theorem Furrow.measures_reqs (c : Furrow) (h : Handle) (tag : Tag) (xs : List (Bool × Nat × Nat)) :
    (xs.foldl (fun (c : Furrow) x => c.measure LogKind.move h 0 tag x.1 x.2.1 x.2.2) c).reqs = c.reqs :=
  foldl_keeps Furrow.reqs _ (by intro c x; rfl) xs c

/-- A descriptor that has done its work with no transfer under way ends at once, as it says. -/
theorem Furrow.settleAwait_ended {c : Furrow} {h : Handle} {tag : Tag} {q : Request} {e : Ending} (hq : c.request? h tag = some q)
    (hp : q.phase = .running) (ha : q.await = some e) (ht : c.transfers h tag = false) :
    ∃ p, (c.settleAwait h tag).request? h tag = some p ∧ p.phase = .engineDone e ∧ p.uses = [] := by
  have settles : c.settleAwait h tag =
      (q.measures.foldl (fun (c : Furrow) x => c.measure LogKind.move h 0 tag x.1 x.2.1 x.2.2) c).modReq h tag fun q =>
        { q with phase := .engineDone e, uses := [], await := none } := by
    unfold Furrow.settleAwait
    simp only [hq, hp, ha, ht, Bool.false_eq_true, if_false]
  rw [settles]
  refine ⟨_, Furrow.request?_modReq_of_keepsName (q := q) (fun q => ⟨rfl, rfl, rfl⟩) ?_, rfl, rfl⟩
  rw [Furrow.request?_congr (Furrow.measures_reqs c h tag q.measures), hq]

theorem Run.awaitEnd_onlyFurrow (r : Run s₀) (f : FurrowIx) (h : Handle) (tag : Tag) (e : Ending) :
    r.now.onlyFurrow f (r.awaitEnd f h tag e).now :=
  State.onlyFurrow_setFurrow _ _ _

theorem Run.awaitEnd_mem (r : Run s₀) (f : FurrowIx) (h : Handle) (tag : Tag) (e : Ending) (sp : Space) :
    (r.awaitEnd f h tag e).now.mem sp = r.now.mem sp :=
  State.setFurrow_mem _ _ _ _

/-- A descriptor that waits for transfers of which none is under way has ended. -/
theorem Run.awaitEnd_ended {r : Run s₀} {f : FurrowIx} {h : Handle} {tag : Tag} {q : Request} (e : Ending)
    (hq : (r.now.furrow f).request? h tag = some q) (hp : q.phase = .running) (ht : (r.now.furrow f).transfers h tag = false) :
    (r.awaitEnd f h tag e).now.descriptorEnded f h tag e := by
  have hg : KeepsName fun q => { q with await := some e } := fun q => ⟨rfl, rfl, rfl⟩
  have hq' := Furrow.request?_modReq_of_keepsName hg hq
  have ht' := (Furrow.transfers_modReq hg hq rfl).trans ht
  unfold Run.awaitEnd Furrow.advance State.descriptorEnded
  rw [Run.modFur_now, State.furrow_setFurrow_same, Furrow.grantAll_of_not_transfers ht']
  exact Furrow.settleAwait_ended (q := { q with await := some e }) hq' hp rfl ht'

theorem Run.engineEnds_onlyFurrow (r : Run s₀) (f : FurrowIx) (h : Handle) (tag : Tag) (e : Ending) :
    r.now.onlyFurrow f (r.engineEnds f h tag e).now :=
  State.onlyFurrow_setFurrow _ _ _

theorem Run.engineEnds_mems (r : Run s₀) (f : FurrowIx) (h : Handle) (tag : Tag) (e : Ending) :
    (r.engineEnds f h tag e).now.mems = r.now.mems := rfl

/-- An engine that ends a descriptor DONE touches the request and the engine time of its context alone. -/
theorem Run.engineEnds_done {e : Ending} (he : failed e = false) (r : Run s₀) (f : FurrowIx) (h : Handle) (tag : Tag) :
    (r.engineEnds f h tag e).now.furrow f =
      ((r.now.furrow f).modReq h tag fun q => { q with phase := .engineDone e, uses := [] }).modCtx h Context.updateNs := by
  unfold Run.engineEnds
  rw [Run.modFur_now, State.furrow_setFurrow_same, he]
  rfl

theorem Run.engineEnds_ended {e : Ending} (he : failed e = false) {r : Run s₀} {f : FurrowIx} {h : Handle} {tag : Tag} {q : Request}
    (hq : (r.now.furrow f).request? h tag = some q) : (r.engineEnds f h tag e).now.descriptorEnded f h tag e := by
  refine ⟨{ q with phase := .engineDone e, uses := [] }, ?_, rfl, rfl⟩
  rw [Run.engineEnds_done he]
  exact Furrow.request?_modReq_of_keepsName (fun q => ⟨rfl, rfl, rfl⟩) hq

theorem failed_ok (n v : Nat) : failed (Ending.ok n v) = false := rfl

end Sys2Proof.Machine
end

section
namespace Sys2Proof.Machine

variable {s₀ : State}

/-! ### Work inside a furrow's own memories -/

/-- From one state to another a furrow's own memories may have been written, and in its control part only the attached objects changed. -/
def State.storedOver (s : State) (f : FurrowIx) (t : State) : Prop :=
  s.onlyFurrow f t ∧ ∃ xs : List Attached, t.furrow f = { s.furrow f with attached := xs }

/-- A memory of a furrow. -/
def Space.on (sp : Space) (f : FurrowIx) : Prop := sp = .t0 f ∨ sp = .t1 f ∨ sp = .hbm f

theorem State.storedOver_refl (s : State) (f : FurrowIx) : s.storedOver f s := ⟨s.onlyFurrow_refl f, _, rfl⟩

theorem State.onlyFurrow_setMem (s : State) {f : FurrowIx} {sp : Space} (hsp : sp.on f) (m : Mem) : s.onlyFurrow f (s.setMem sp m) := by
  have others : ∀ (x : FurMem) (g : FurrowIx), g ≠ f → (s.mems.set f x)[g] = s.mems[g] := fun x g hg =>
    Vector.getElem_set_ne _ _ fun e => hg (Fin.ext e.symm)
  obtain rfl | rfl | rfl := hsp <;> exact ⟨rfl, rfl, rfl, rfl, fun g hg => ⟨rfl, others _ g hg⟩⟩

theorem Furrow.mend_of_none_bad {c : Furrow} (hb : c.counts.bad = []) (p : Space × Nat × Nat) : c.mend p = c := by
  unfold Furrow.mend
  split
  · rfl
  · rw [hb]
    show { c with counts := { c.counts with bad := [] } } = c
    rw [← hb]

/-- A store into a furrow that knows of no uncorrectable data mends none. -/
theorem Run.paste_mend_now {r : Run s₀} {f : FurrowIx} (hb : (r.now.furrow f).counts.bad = []) (sp : Space) (a n : Nat)
    (img : List Host.Cell) (p : Space × Nat × Nat) :
    ((r.paste sp a n img).modFur f fun c => c.mend p).now = r.now.setMem sp ((r.now.mem sp).paste a n img) := by
  rw [Run.modFur_now, Run.paste_now, State.setMem_furrow, Furrow.mend_of_none_bad hb]
  exact (congrArg _ (State.setMem_furrow r.now sp _ f).symm).trans (State.setFurrow_self _ f)

theorem Furrow.pieces_on (c : Furrow) (f : FurrowIx) (h : Handle) (core tier off n : Nat) (p : Space × Nat × Nat)
    (hp : p ∈ c.pieces f h core tier off n) : p.1.on f := by
  unfold Furrow.pieces at hp
  split at hp
  · rw [List.mem_singleton.1 hp]; exact .inl rfl
  · obtain ⟨x, _, rfl⟩ := List.mem_map.1 hp; exact .inr (.inl rfl)
  · rw [List.mem_singleton.1 hp]; exact .inr (.inr rfl)
  · cases hp

section
variable {s : State} {f : FurrowIx}

theorem State.storedOver_setMem {t : State} (ht : s.storedOver f t) {sp : Space} (hsp : sp.on f) (m : Mem) : s.storedOver f (t.setMem sp m) := by
  obtain ⟨only, xs, hxs⟩ := ht
  exact ⟨State.onlyFurrow_trans only (t.onlyFurrow_setMem hsp m), xs, by rw [State.setMem_furrow, hxs]⟩

theorem Run.write_storedOver {r : Run s₀} (hr : s.storedOver f r.now) {sp : Space} (hsp : sp.on f) (a : Nat) (bs : List Byte) :
    s.storedOver f (r.write sp a bs).now :=
  State.storedOver_setMem hr hsp _

theorem Run.modAttached_storedOver {r : Run s₀} (hr : s.storedOver f r.now) (g : Furrow → List Attached) :
    s.storedOver f (r.modFur f fun c => { c with attached := g c }).now := by
  obtain ⟨only, xs, hxs⟩ := hr
  refine ⟨State.onlyFurrow_trans only (State.onlyFurrow_setFurrow _ _ _), g (r.now.furrow f), ?_⟩
  rw [Run.modFur_now, State.furrow_setFurrow_same, hxs]

theorem Run.each_storedOver {α : Type} {g : Run s₀ → α → Run s₀} (xs : List α)
    (hg : ∀ r x, s.storedOver f r.now → s.storedOver f (g r x).now) {r : Run s₀} (hr : s.storedOver f r.now) :
    s.storedOver f (r.each xs g).now :=
  List.foldlRecOn (motive := fun r : Run s₀ => s.storedOver f r.now) xs g hr fun r hr x _ => hg r x hr

variable (hb : (s.furrow f).counts.bad = [])
include hb

theorem Run.put_storedOver {r : Run s₀} (hr : s.storedOver f r.now) (h : Handle) (core tier off n : Nat) (img : List Host.Cell) :
    s.storedOver f (r.put f h core tier off n img).now := by
  refine List.foldlRecOn (motive := fun p : Run s₀ × Nat => s.storedOver f p.1.now) _ _ hr fun p hp x hx => ?_
  have pasted := State.storedOver_setMem hp (Furrow.pieces_on _ f h core tier off n x hx)
  obtain ⟨only, xs, hxs⟩ := hp
  have none_bad : (p.1.now.furrow f).counts.bad = [] := by rw [hxs]; exact hb
  dsimp only
  rw [Run.paste_mend_now none_bad]
  exact pasted _

omit hb in
theorem Run.dirty_storedOver {r : Run s₀} (hr : s.storedOver f r.now) (h : Handle) (tier off n : Nat) :
    s.storedOver f (r.dirty f h tier off n).now := by
  refine Run.each_storedOver _ (fun r a hr => ?_) hr
  dsimp only
  split
  · refine Run.modAttached_storedOver (Run.each_storedOver _ (fun r j hr => ?_) hr) _
    split
    · exact hr
    · exact Run.write_storedOver hr (.inr (.inr rfl)) _ _
  · exact hr

theorem Run.storeCells_storedOver {r : Run s₀} (hr : s.storedOver f r.now) (h : Handle) (core tier off n : Nat) (img : List Host.Cell) :
    s.storedOver f (r.storeCells f h core tier off n img).now := by
  refine Run.put_storedOver hb ?_ h core tier off n img
  split
  · exact Run.dirty_storedOver hr h tier off n
  · exact hr

end

end Sys2Proof.Machine
end

section
namespace Sys2Proof.Machine

variable {s₀ : State}

/-! ### A range copied from one memory to another -/

theorem Mem.get_eq_zero_of_wfFrom (m : Mem) (l x : Nat) (hm : Mem.wfFrom (some l) m = true) (hx : x ≤ l) : m.get x = 0 := by
  induction m generalizing l with
  | nil => rfl
  | cons c rest ih =>
    obtain ⟨k, b⟩ := c
    simp only [Mem.wfFrom, Bool.and_eq_true, decide_eq_true_eq] at hm
    obtain ⟨⟨hk, _⟩, hrest⟩ := hm
    have hne : k ≠ x := by omega
    simp only [Mem.get, hne, if_false]
    exact ih k hrest (by omega)

/-- Cells listed in canonical form and stored one after another: each byte that they list, and the rest as before. -/
theorem Mem.get_foldl_set (a x : Nat) (img : List Host.Cell) (lo : Option Nat) (hi : Mem.wfFrom lo img = true) (m : Mem) (hm : m.wf = true) :
    Mem.get (img.foldl (fun m c => m.set (a + c.1) c.2) m) x =
      if a ≤ x ∧ Mem.get img (x - a) ≠ 0 then Mem.get img (x - a) else m.get x := by
  induction img generalizing lo m with
  | nil => simp [Mem.get]
  | cons c rest ih =>
    obtain ⟨k, b⟩ := c
    simp only [Mem.wfFrom, Bool.and_eq_true] at hi
    obtain ⟨⟨_, hb⟩, hrest⟩ := hi
    have hb : b ≠ 0#8 := by simpa using hb
    rw [List.foldl_cons, ih (some k) hrest _ (Mem.wf_set _ _ _ hm)]
    by_cases hx : x = a + k
    · subst hx
      have later : Mem.get rest k = 0 := Mem.get_eq_zero_of_wfFrom rest k k hrest le_rfl
      simp [Mem.get, later, Mem.get_set_same _ _ _ hm, hb]
    · rw [Mem.get_set_other _ _ _ _ hx]
      by_cases hax : a ≤ x
      · have hne : k ≠ x - a := by omega
        simp [Mem.get, hne]
      · simp [hax]

/-- Cells that lie above a base, with their addresses counted from it. -/
def Mem.countedFrom (m : Mem) (b : Nat) : Mem := m.map fun c => (c.1 - b, c.2)

theorem Mem.wfFrom_countedFrom (b : Nat) (m : Mem) (above : ∀ c ∈ m, b ≤ c.1) (lo : Option Nat) (hlo : ∀ l ∈ lo, b ≤ l)
    (hm : Mem.wfFrom lo m = true) : Mem.wfFrom (lo.map (· - b)) (m.countedFrom b) = true := by
  induction m generalizing lo with
  | nil => cases lo <;> rfl
  | cons c rest ih =>
    obtain ⟨k, v⟩ := c
    have hk : b ≤ k := above (k, v) (by simp)
    simp only [Mem.wfFrom, Bool.and_eq_true] at hm
    obtain ⟨⟨hlt, hv⟩, hrest⟩ := hm
    have below := ih (fun c hc => above c (by simp [hc])) (some k) (by simpa using hk) hrest
    refine Bool.and_eq_true_iff.2 ⟨Bool.and_eq_true_iff.2 ⟨?_, hv⟩, below⟩
    cases lo with
    | none => rfl
    | some l =>
      have hl : b ≤ l := hlo l rfl
      simp only [decide_eq_true_eq, Option.map_some] at hlt ⊢
      omega

theorem Mem.get_countedFrom (b i : Nat) (m : Mem) (above : ∀ c ∈ m, b ≤ c.1) : (m.countedFrom b).get i = m.get (b + i) := by
  induction m with
  | nil => rfl
  | cons c rest ih =>
    obtain ⟨k, v⟩ := c
    have hk : b ≤ k := above (k, v) (by simp)
    have hiff : k - b = i ↔ k = b + i := by omega
    have tail := ih fun c hc => above c (by simp [hc])
    unfold Mem.countedFrom at tail ⊢
    simp only [List.map_cons, Mem.get, hiff, tail]

theorem Mem.slice_eq_countedFrom (m : Mem) (b n : Nat) : m.slice b n = Mem.countedFrom (m.filter fun c => decide (b ≤ c.1 ∧ c.1 < b + n)) b := rfl

theorem Mem.above_of_mem_filter (m : Mem) (b n : Nat) :
    ∀ c ∈ m.filter fun c => decide (b ≤ c.1 ∧ c.1 < b + n), b ≤ c.1 := fun c hc => by
  have := (List.mem_filter.1 hc).2
  simp only [decide_eq_true_eq] at this
  exact this.1

theorem Mem.wf_slice (m : Mem) (b n : Nat) (hm : m.wf = true) : Mem.wf (m.slice b n) = true :=
  Mem.wfFrom_countedFrom b _ (m.above_of_mem_filter b n) none (by simp) (Mem.wfFrom_filter _ m none hm)

theorem Mem.get_slice (m : Mem) (b n i : Nat) : Mem.get (m.slice b n) i = if i < n then m.get (b + i) else 0 := by
  rw [Mem.slice_eq_countedFrom, Mem.get_countedFrom b i _ (m.above_of_mem_filter b n),
    Mem.get_filter _ (fun k => decide (b ≤ k ∧ k < b + n)) (fun _ => rfl)]
  simp

/-- A range that takes canonical cells in reads as they do, and the rest as before. -/
theorem Mem.get_paste (m : Mem) (a n : Nat) (img : List Host.Cell) (hm : m.wf = true) (hi : Mem.wf img = true) (x : Nat) :
    (m.paste a n img).get x = if a ≤ x ∧ x < a + n then Mem.get img (x - a) else m.get x := by
  unfold Mem.paste
  rw [Mem.get_foldl_set a x _ none (Mem.wfFrom_filter _ img none hi) _ (Mem.wfFrom_filter _ m none hm),
    Mem.get_filter _ (fun k => decide (k < n)) (fun _ => rfl),
    Mem.get_filter _ (fun k => !decide (a ≤ k ∧ k < a + n)) (fun _ => rfl)]
  by_cases hax : a ≤ x
  · by_cases hxn : x < a + n
    · have hlt : x - a < n := by omega
      by_cases h0 : Mem.get img (x - a) = 0#8 <;> simp [hax, hxn, hlt, h0]
    · have hge : ¬ x - a < n := by omega
      simp [hxn, hge]
  · simp [hax]

/-- Cells past the range are left out of it. -/
theorem Mem.paste_filter (m : Mem) (a n : Nat) (img : List Host.Cell) : m.paste a n (img.filter fun c => decide (c.1 < n)) = m.paste a n img := by
  simp [Mem.paste, List.filter_filter]

theorem Mem.get_paste_slice (m d : Mem) (a b n : Nat) (hm : m.wf = true) (hd : d.wf = true) (x : Nat) :
    (d.paste a n (m.slice b n)).get x = if a ≤ x ∧ x < a + n then m.get (b + (x - a)) else d.get x := by
  rw [Mem.get_paste d a n _ hd (m.wf_slice b n hm), Mem.get_slice]
  by_cases h : a ≤ x ∧ x < a + n
  · have hlt : x - a < n := by omega
    simp [h, hlt]
  · simp [h]

end Sys2Proof.Machine
end

section
namespace Sys2Proof.Machine

variable {s₀ : State}

/-! ### Transfers between a furrow's own memories (R312, R315) -/

theorem Furrow.meets_of_none_bad {c : Furrow} (hb : c.counts.bad = []) (f : FurrowIx) (h : Handle) (core tier off n : Nat) :
    c.meets f h core tier off n = none := by
  refine List.find?_eq_none.2 fun p _ => ?_
  unfold Furrow.bad
  split <;> simp [hb]

theorem Furrow.spotBad_of_none_bad {c : Furrow} (hb : c.counts.bad = []) (f : FurrowIx) (h : Handle) (p : Spot) (n : Nat) :
    c.spotBad f h p n = none := by
  unfold Furrow.spotBad
  rw [Furrow.meets_of_none_bad hb, ite_self]

theorem Furrow.firstBad_of_none_bad {c : Furrow} (hb : c.counts.bad = []) (e : Eng) (xs : List Extent) : c.firstBad e xs = none :=
  List.findSome?_eq_none_iff.2 fun _ _ => Furrow.meets_of_none_bad hb _ _ _ _ _ _

section
variable {s : State} {f : FurrowIx} (hb : (s.furrow f).counts.bad = [])
include hb

theorem Run.arrive_storedOver {r : Run s₀} (hr : s.storedOver f r.now) (h : Handle) (tag : Tag) {dst : Spot} (hd : dst.tier < 3) (n : Nat)
    (cells : List Host.Cell) : s.storedOver f (r.arrive f h tag dst n cells).now := by
  have put := fun tier => Run.put_storedOver hb hr h dst.core tier dst.off n cells
  unfold Run.arrive
  split
  · omega
  · omega
  · omega
  · split
    · exact put 0
    · exact hr
  · split
    · exact put dst.tier
    · exact Run.storeCells_storedOver hb hr h dst.core dst.tier dst.off n cells

/-- A transfer between two of a furrow's own memories is done at once, and writes nothing but the furrow's memories. -/
theorem Run.transfer_storedOver {r : Run s₀} (hr : s.storedOver f r.now) (h : Handle) (tag : Tag) {src dst : Spot} (hs : src.tier < 3)
    (hd : dst.tier < 3) (n : Nat) : s.storedOver f (r.transfer f h tag src dst n).now := by
  unfold Run.transfer
  split
  · omega
  · omega
  · omega
  · exact Run.arrive_storedOver hb hr h tag hd n _

end

/-! ### Copies between HBM and host memory (R315) -/

/-- The memory of a spot in HBM or in the host. -/
def Spot.space (p : Spot) (f : FurrowIx) : Space := if p.tier = 5 then .host else .hbm f

/-- Where it begins there. -/
def Furrow.spotAddr (c : Furrow) (h : Handle) (p : Spot) : Nat := if p.tier = 5 then c.hostAt h p.off else c.hbmBase h + p.off

/-- A context of a furrow has nothing attached. -/
def Furrow.detached (c : Furrow) (h : Handle) : Prop := ∀ a ∈ c.attached, a.h ≠ h

section
variable {f : FurrowIx} {h : Handle} {r : Run s₀}

theorem Run.loadCells_hbm (core off n : Nat) :
    r.loadCells f h core 2 off n = (r.now.mem (.hbm f)).slice ((r.now.furrow f).hbmBase h + off) n := by
  simp [Run.loadCells, Furrow.pieces, cellsOf]

theorem Run.dirty_of_detached (ha : (r.now.furrow f).detached h) (tier off n : Nat) : r.dirty f h tier off n = r := by
  have none : ((r.now.furrow f).attached.filter fun a => a.h = h) = [] :=
    List.filter_eq_nil_iff.2 fun a hm => by simpa using ha a hm
  unfold Run.dirty
  dsimp only
  rw [Run.fur_eq, none]
  rfl

theorem Run.put_hbm_now (hb : (r.now.furrow f).counts.bad = []) (core off n : Nat) (img : List Host.Cell) :
    (r.put f h core 2 off n img).now =
      r.now.setMem (.hbm f) ((r.now.mem (.hbm f)).paste ((r.now.furrow f).hbmBase h + off) n img) := by
  simp only [Run.put, Run.fur_eq, Furrow.pieces, List.foldl_cons, List.foldl_nil, Run.paste_mend_now hb, Nat.zero_le, true_and,
    Nat.zero_add, Nat.sub_zero, Prod.mk.eta, List.map_id', Mem.paste_filter]

/-- Bytes that reach HBM or the host's memory. -/
theorem Run.arrive_now (tag : Tag) {dst : Spot} (hd : dst.tier = 2 ∨ dst.tier = 5) (hb : (r.now.furrow f).counts.bad = [])
    (hc : r.now.hdl.carries = true) (ha : (r.now.furrow f).detached h) (n : Nat) (cells : List Host.Cell) :
    (r.arrive f h tag dst n cells).now = r.now.setMem (dst.space f)
      ((r.now.mem (dst.space f)).paste ((r.now.furrow f).spotAddr h dst) n cells) := by
  obtain hd | hd := hd
  · have put := Run.put_hbm_now (h := h) hb dst.core dst.off n cells
    simp only [Run.arrive, hd, Run.storeCells, Run.dirty_of_detached ha, ite_self, put, Spot.space, Furrow.spotAddr]
    rfl
  · simp only [Run.arrive, hd, hc, if_true, Run.paste_now, Run.fur_eq, Spot.space, Furrow.spotAddr]

/-- A transfer between HBM and the host's memory. -/
theorem Run.transfer_now (tag : Tag) {src dst : Spot} (hs : src.tier = 2 ∨ src.tier = 5) (hd : dst.tier = 2 ∨ dst.tier = 5)
    (hb : (r.now.furrow f).counts.bad = []) (hc : r.now.hdl.carries = true) (ha : (r.now.furrow f).detached h) (n : Nat) :
    (r.transfer f h tag src dst n).now = r.now.setMem (dst.space f) ((r.now.mem (dst.space f)).paste ((r.now.furrow f).spotAddr h dst) n
      ((r.now.mem (src.space f)).slice ((r.now.furrow f).spotAddr h src) n)) := by
  rw [← Run.arrive_now tag hd hb hc ha]
  obtain hs | hs := hs
  · simp only [Run.transfer, hs, Run.loadCells_hbm, Spot.space, Furrow.spotAddr]
    rfl
  · simp only [Run.transfer, hs, Run.fur_eq, Spot.space, Furrow.spotAddr, if_true]

end

end Sys2Proof.Machine
end

section
namespace Sys2Proof.Machine

variable {s₀ : State}

/-! ### Moves within a member (R312, R315, R317) -/

/-- A location on the member that executes. -/
def Loc.here (l : Loc) : Spot := ⟨l.tier, l.core, l.addr, 0, 0⟩

theorem Loc.spot_own {l : Loc} {own : Nat} (hl : l.member = own) (ids : List (FabricId × W32)) : l.spot own ids = l.here := if_pos hl

/-- A move lies within one member. -/
def Move.within (m : Move) (own : Nat) : Prop := m.src.member = own ∧ m.dst.member = own

theorem Move.executor_of_within {m : Move} {own : Nat} (hm : m.within own) : m.executor = own := by
  obtain ⟨hs, hd⟩ := hm
  simp [Move.executor, hs, hd]

/-- Moves as their transfers, with their numbers. -/
def transfersOf (ms : List Move) : List (Spot × Spot × Nat × Nat) := ms.zipIdx.map fun m => (m.1.src.here, m.1.dst.here, m.1.len, m.2)

theorem ownMoves_eq_transfersOf {ms : List Move} {own : Nat} (hm : ∀ m ∈ ms, m.within own) (ids : List (FabricId × W32)) :
    ((ms.zipIdx.filter fun m => m.1.executor = own).map fun m => (m.1.src.spot own ids, m.1.dst.spot own ids, m.1.len, m.2)) =
      transfersOf ms := by
  have here : ∀ m ∈ ms.zipIdx, m.1.within own := fun m h => hm m.1 (List.fst_mem_of_mem_zipIdx h)
  rw [List.filter_eq_self.2 fun m h => decide_eq_true (Move.executor_of_within (here m h))]
  refine List.map_congr_left fun m h => ?_
  obtain ⟨hs, hd⟩ := here m h
  rw [Loc.spot_own hs, Loc.spot_own hd]

/-- A transfer that host memory has a part in. -/
def ofHost (m : Spot × Spot × Nat × Nat) : Bool := m.1.tier = 5 || m.2.1.tier = 5

section
variable {r : Run s₀} {f : FurrowIx} {q : Request} {ms : List Move} (e : Ending) (hm : ∀ m ∈ ms, m.within ((r.now.furrow f).flatNumber q))
include hm

theorem Run.moves_waits (hc : r.now.hdl.carries = false) (hh : (transfersOf ms).any ofHost = true) : r.moves f q ms e = r := by
  unfold Run.moves
  dsimp only
  rw [Run.fur_eq, ownMoves_eq_transfersOf hm, hc]
  exact if_pos (Bool.and_eq_true_iff.2 ⟨hh, rfl⟩)

/-- Moves within a member that knows of no uncorrectable data are carried out, and their end waits for transfers alone. -/
theorem Run.moves_done (hb : (r.now.furrow f).counts.bad = []) (hc : (transfersOf ms).any ofHost = false ∨ r.now.hdl.carries = true)
    (hne : ms ≠ []) : r.moves f q ms e =
      (r.each (transfersOf ms) fun r m => r.transfer f q.h q.tag m.1 m.2.1 m.2.2.1).awaitEnd f q.h q.tag e := by
  have some_move : (transfersOf ms).isEmpty = false := by cases ms <;> simp_all [transfersOf]
  have none_bad : (transfersOf ms).find? (fun m => ((r.now.furrow f).spotBad f q.h m.1 m.2.2.1).isSome) = none :=
    List.find?_eq_none.2 fun m _ => by rw [Furrow.spotBad_of_none_bad hb]; simp
  have goes : ¬ ((transfersOf ms).any ofHost && !r.now.hdl.carries) = true := by obtain h | h := hc <;> simp [h]
  unfold Run.moves
  dsimp only
  rw [Run.fur_eq, ownMoves_eq_transfersOf hm]
  refine (if_neg goes).trans ?_
  rw [none_bad, some_move]
  rfl

end

section
variable {f : FurrowIx} {h : Handle} {tag : Tag} {q : Request} {s : State}

theorem execMove_atWork (hq : (s.furrow f).atWork h tag 0x10 = some q) :
    execMove f h tag s = .next ((Run.start s).moves f q [Move.of q.desc 16] (Ending.ok 1 (df q.desc 32 8))).now := by
  unfold execMove Run.moveDesc
  rw [Run.fur_eq, Run.start_now, hq]
  rfl

theorem execMoveList_atWork (hq : (s.furrow f).atWork h tag 0x11 = some q) (hb : (s.furrow f).counts.bad = []) :
    execMoveList f h tag s =
      .next ((Run.start s).moves f q ((Run.start s).movesOf f q) (Ending.ok (df q.desc 24 2) (df q.desc 16 8))).now := by
  unfold execMoveList Run.moveListDesc
  rw [Run.fur_eq, Run.start_now, hq]
  dsimp only
  rw [Furrow.firstBad_of_none_bad hb]
  rfl

/-- A request at work whose furrow is as it was, but for its attached objects, ends as it is told to. -/
theorem Run.awaitEnd_storedOver {op : Byte} {r : Run s₀} (e : Ending) (hq : (s.furrow f).atWork h tag op = some q)
    (ht : (s.furrow f).transfers h tag = false) (hr : s.storedOver f r.now) :
    (r.awaitEnd f h tag e).now.descriptorEnded f h tag e ∧ s.onlyFurrow f (r.awaitEnd f h tag e).now := by
  obtain ⟨only, xs, hxs⟩ := hr
  obtain ⟨hreq, hphase, _⟩ := Furrow.atWork_is hq
  refine ⟨Run.awaitEnd_ended (q := q) e ?_ hphase ?_, State.onlyFurrow_trans only (r.awaitEnd_onlyFurrow f h tag e)⟩
  · rw [hxs]; exact hreq
  · rw [hxs]; exact ht

theorem moveList_ended {op : Byte} (hq : (s.furrow f).atWork h tag op = some q) (ht : (s.furrow f).transfers h tag = false)
    (hb : (s.furrow f).counts.bad = []) (ms : List Move) (e : Ending) (hne : ms ≠ [])
    (hm : ∀ m ∈ ms, m.within ((s.furrow f).flatNumber q)) (hl : ∀ m ∈ ms, m.src.tier < 3 ∧ m.dst.tier < 3) :
    ((Run.start s).moves f q ms e).now.descriptorEnded f h tag e ∧ s.onlyFurrow f ((Run.start s).moves f q ms e).now := by
  obtain ⟨hh, htag, _⟩ := Furrow.request?_is _ _ _ _ (Furrow.atWork_is hq).1
  have tiers : ∀ x ∈ transfersOf ms, x.1.tier < 3 ∧ x.2.1.tier < 3 := by
    intro x hx
    obtain ⟨m, hmem, rfl⟩ := List.mem_map.1 hx
    exact hl m.1 (List.fst_mem_of_mem_zipIdx hmem)
  have no_host : (transfersOf ms).any ofHost = false := by
    refine List.any_eq_false.2 fun x hx => ?_
    obtain ⟨h1, h2⟩ := tiers x hx
    simp only [ofHost, Bool.or_eq_true, decide_eq_true_eq]
    omega
  rw [Run.moves_done (r := Run.start s) e hm hb (.inl no_host) hne, hh, htag]
  refine Run.awaitEnd_storedOver e hq ht ?_
  refine List.foldlRecOn (motive := fun r : Run s => s.storedOver f r.now) _ _ (s.storedOver_refl f) fun r hr x hx => ?_
  exact Run.transfer_storedOver hb hr h tag (tiers x hx).1 (tiers x hx).2 x.2.2.1

/-- A move between HBM and the host's memory: its ending, and the bytes that it leaves. -/
theorem move_copies {op : Byte} (hq : (s.furrow f).atWork h tag op = some q) (ht : (s.furrow f).transfers h tag = false)
    (hb : (s.furrow f).counts.bad = []) (m : Move) (e : Ending) (hm : m.within ((s.furrow f).flatNumber q))
    (hsrc : m.src.tier = 2 ∨ m.src.tier = 5) (hdst : m.dst.tier = 2 ∨ m.dst.tier = 5) (hc : s.hdl.carries = true)
    (ha : (s.furrow f).detached h) (t : State) (hrun : ((Run.start s).moves f q [m] e).now = t) :
    t.descriptorEnded f h tag e ∧ ∀ sp, t.mem sp = (s.setMem (m.dst.here.space f) ((s.mem (m.dst.here.space f)).paste
      ((s.furrow f).spotAddr h m.dst.here) m.len
        ((s.mem (m.src.here.space f)).slice ((s.furrow f).spotAddr h m.src.here) m.len))).mem sp := by
  subst hrun
  obtain ⟨hreq, hphase, _⟩ := Furrow.atWork_is hq
  obtain ⟨hh, htag, _⟩ := Furrow.request?_is _ _ _ _ hreq
  have moved := Run.transfer_now (r := Run.start s) tag (src := m.src.here) (dst := m.dst.here) hsrc hdst hb hc ha m.len
  rw [Run.start_now] at moved
  have one : transfersOf [m] = [(m.src.here, m.dst.here, m.len, 0)] := rfl
  rw [Run.moves_done (r := Run.start s) e (by simpa using hm) hb (.inr hc) (by simp), hh, htag, one, Run.each_cons, Run.each_nil]
  refine ⟨Run.awaitEnd_ended (q := q) e ?_ hphase ?_, fun sp => ?_⟩
  · rw [moved, State.setMem_furrow]; exact hreq
  · rw [moved, State.setMem_furrow]; exact ht
  · rw [Run.awaitEnd_mem, moved]

end

end Sys2Proof.Machine
end

section
namespace Sys2Proof.Machine

variable {s₀ : State}

/-! ### The segments of an attached object (R323, R324) -/

section
variable {s : State} {f : FurrowIx}

theorem Run.segBad_of_none_bad {r : Run s₀} (hb : (r.now.furrow f).counts.bad = []) (q : Request) (o : ObjRec) (home : Bool)
    (js : List Nat) : r.segBad f q o home js = none :=
  List.findSome?_eq_none_iff.2 fun _ _ => Furrow.spotBad_of_none_bad hb _ _ _ _

theorem Run.fly_storedOver {r : Run s₀} (hr : s.storedOver f r.now) (h : Handle) (id : Nat) (tag : Tag) (js : List Nat) :
    s.storedOver f (r.modFur f fun c => c.fly h id tag js).now :=
  Run.modAttached_storedOver hr _

theorem Run.landed_storedOver {r : Run s₀} (hr : s.storedOver f r.now) (h : Handle) (id : Nat) (tag : Tag) :
    s.storedOver f (r.landed f h id tag).now := by
  unfold Run.landed
  split
  · exact hr
  · refine Run.modAttached_storedOver (Run.each_storedOver _ (fun r x hr => ?_) hr) _
    dsimp only
    split
    · exact Run.write_storedOver hr (.inr (.inr rfl)) _ _
    · exact hr

theorem Run.countWriteback_storedOver {r : Run s₀} (hr : s.storedOver f r.now) (h : Handle) (a : Attached) :
    s.storedOver f (r.countWriteback f h a).now :=
  Run.write_storedOver hr (.inr (.inr rfl)) _ _

theorem State.storedOver.counts {t : State} (h : s.storedOver f t) : (t.furrow f).counts = (s.furrow f).counts := by
  obtain ⟨_, xs, hxs⟩ := h
  rw [hxs]

theorem State.storedOver.transfers {t : State} (st : s.storedOver f t) (h : Handle) (tag : Tag) :
    (t.furrow f).transfers h tag = (s.furrow f).transfers h tag := by
  obtain ⟨_, xs, hxs⟩ := st
  rw [hxs]
  rfl

theorem State.storedOver.request? {t : State} (st : s.storedOver f t) (h : Handle) (tag : Tag) :
    (t.furrow f).request? h tag = (s.furrow f).request? h tag := by
  obtain ⟨_, xs, hxs⟩ := st
  rw [hxs]
  rfl

theorem Run.grantAll_storedOver {h : Handle} {tag : Tag} (ht : (s.furrow f).transfers h tag = false) {r : Run s₀}
    (hr : s.storedOver f r.now) : s.storedOver f (r.modFur f fun c => c.grantAll h tag).now := by
  rw [Run.modFur_now, Furrow.grantAll_of_not_transfers ((hr.transfers h tag).trans ht), State.setFurrow_self]
  exact hr

theorem Spot.at_tier (p : Spot) (n : Nat) : (p.at n).tier = p.tier := rfl

/-- Home and copy of an object are memories of the furrow. -/
def ObjRec.isHere (o : ObjRec) (c : Furrow) (f : FurrowIx) (q : Request) : Prop :=
  (o.home.spot (c.flatNumber q) (c.spanIds f q)).tier < 3 ∧ (o.copy.spot (c.flatNumber q) (c.spanIds f q)).tier < 3

variable (hb : (s.furrow f).counts.bad = []) {q : Request} {o : ObjRec} (ho : o.isHere (s.furrow f) f q)
  (ht : (s.furrow f).transfers q.h q.tag = false)
include hb ho ht

omit ho ht in
/-- Segments copied from a spot here to another. -/
theorem Run.copySegs_storedOver {x y : Spot} (hx : x.tier < 3) (hy : y.tier < 3) {r : Run s₀} (hr : s.storedOver f r.now) (home : Bool)
    (js : List Nat) : s.storedOver f (r.each js fun r j =>
      if home then r.transfer f q.h q.tag (y.at (j * hbmUnit)) (x.at (j * hbmUnit)) (o.segLen j)
      else r.transfer f q.h q.tag (x.at (j * hbmUnit)) (y.at (j * hbmUnit)) (o.segLen j)).now := by
  refine Run.each_storedOver js (fun r j hr => ?_) hr
  have hxj : (x.at (j * hbmUnit)).tier < 3 := (x.at_tier _).symm ▸ hx
  have hyj : (y.at (j * hbmUnit)).tier < 3 := (y.at_tier _).symm ▸ hy
  split
  · exact Run.transfer_storedOver hb hr q.h q.tag hyj hxj _
  · exact Run.transfer_storedOver hb hr q.h q.tag hxj hyj _

theorem Run.moveSegs_storedOver {r : Run s₀} (hr : s.storedOver f r.now) (home : Bool) (js : List Nat) :
    s.storedOver f (r.moveSegs f q o home js).now := by
  have here : o.isHere (r.now.furrow f) f q := by
    obtain ⟨_, xs, hxs⟩ := hr
    rw [hxs]; exact ho
  obtain ⟨hy, hx⟩ := here
  exact Run.grantAll_storedOver ht (Run.copySegs_storedOver hb hx hy hr home js)

/-- Writing back leaves only what a store may change, and goes on with what it is to be finished with. -/
theorem Run.writeBack_storedOver (a : Attached) (last : Nat) (fin : Run s₀ → Nat → Run s₀) (k j copied : Nat) {r : Run s₀}
    (hr : s.storedOver f r.now) : ∃ r' n, r.writeBack f q o a last fin k j copied = fin r' n ∧ s.storedOver f r'.now := by
  induction k generalizing r j copied with
  | zero => exact ⟨r, copied, rfl, hr⟩
  | succ k ih =>
    unfold Run.writeBack
    dsimp only
    split
    · exact ⟨_, copied, rfl, Run.countWriteback_storedOver hr q.h a⟩
    · rename_i top _
      rw [Run.segBad_of_none_bad (by rw [hr.counts]; exact hb)]
      dsimp only
      have moved := Run.moveSegs_storedOver hb ho ht (Run.fly_storedOver hr q.h o.id q.tag
        ((((List.range (last - j)).map (j + ·)).filter (r.isDirty f a)).take 8)) false
        ((((List.range (last - j)).map (j + ·)).filter (r.isDirty f a)).take 8)
      rw [Run.fur_eq, moved.transfers, ht, if_neg Bool.false_ne_true]
      exact ih (top + 1) _ (Run.landed_storedOver moved q.h o.id q.tag)

/-- A write-back that begins. -/
theorem Run.writeBackOn_storedOver (a : Attached) (fin : Run s₀ → Nat → Run s₀) (h0 : q.stage = 0) {r : Run s₀}
    (hr : s.storedOver f r.now) : ∃ r' n, r.writeBackOn f q o a fin = fin r' n ∧ s.storedOver f r'.now := by
  unfold Run.writeBackOn
  dsimp only
  rw [if_pos h0]
  exact Run.writeBack_storedOver hb ho ht a _ fin _ _ _ hr

end

end Sys2Proof.Machine
end

section
namespace Sys2Proof.Machine

variable {s₀ : State}

/-! ### The opcodes on attached objects (R323–R325) -/

section
variable {r : Run s₀} {op : Byte} {f : FurrowIx} {h : Handle} {tag : Tag} {q : Request}
  {work : Request → ObjRec → Attached → Run s₀ → Run s₀} (hq : (r.now.furrow f).atWork h tag op = some q)
include hq

theorem Run.tierDesc_of_other_member (hm : tierMember q.desc ≠ (r.now.furrow f).flatNumber q) :
    r.tierDesc op f h tag work = r.engineEnds f h tag (Ending.ok 0 0) := by
  unfold Run.tierDesc
  dsimp only
  rw [Run.fur_eq, hq]
  exact if_pos hm

theorem Run.tierDesc_of_not_attached (hm : tierMember q.desc = (r.now.furrow f).flatNumber q)
    (ha : (r.now.furrow f).object? h (df q.desc 16 2) = none) :
    r.tierDesc op f h tag work = r.engineEnds f h tag (Refuse.operand 16).atStart.ending := by
  unfold Run.tierDesc
  dsimp only
  rw [Run.fur_eq, hq]
  refine (if_neg (not_not.2 hm)).trans ?_
  rw [ha]

theorem Run.tierDesc_of_attached (hm : tierMember q.desc = (r.now.furrow f).flatNumber q) {a : Attached}
    (ha : (r.now.furrow f).object? h (df q.desc 16 2) = some a) (hb : (r.now.furrow f).counts.bad = []) :
    r.tierDesc op f h tag work = work q (r.objAt f h a.record.toNat) a r := by
  unfold Run.tierDesc
  dsimp only
  rw [Run.fur_eq, hq]
  refine (if_neg (not_not.2 hm)).trans ?_
  rw [ha]
  dsimp only
  rw [Furrow.firstBad_of_none_bad hb]

end

/-- On a member that a descriptor does not name it ends DONE, and where the object is not attached it is refused. -/
theorem tierOpcode_elsewhere {f : FurrowIx} {h : Handle} {tag : Tag} {q : Request} {s : State} {i : Instr} {op : Byte}
    (hi : (i, op) ∈ ([(.tierFetch f h tag, 0x13), (.tierWriteback f h tag, 0x14), (.tierDetach f h tag, 0x15)] : List (Instr × Byte)))
    (hq : (s.furrow f).atWork h tag op = some q) :
    (tierMember q.desc ≠ (s.furrow f).flatNumber q → exec i s = .next ((Run.start s).engineEnds f h tag (Ending.ok 0 0)).now) ∧
    (tierMember q.desc = (s.furrow f).flatNumber q → (s.furrow f).object? h (df q.desc 16 2) = none →
      exec i s = .next ((Run.start s).engineEnds f h tag (Refuse.operand 16).atStart.ending).now) := by
  have runs : ∃ work, exec i s = .next ((Run.start s).tierDesc op f h tag work).now := by
    simp only [List.mem_cons, Prod.mk.injEq, List.not_mem_nil, or_false] at hi
    obtain ⟨rfl, rfl⟩ | ⟨rfl, rfl⟩ | ⟨rfl, rfl⟩ := hi
    · exact ⟨_, rfl⟩
    · exact ⟨_, rfl⟩
    · exact ⟨_, rfl⟩
  obtain ⟨work, hwork⟩ := runs
  refine ⟨fun hm => ?_, fun hm ha => ?_⟩
  · rw [hwork, Run.tierDesc_of_other_member (r := Run.start s) hq hm]
  · rw [hwork, Run.tierDesc_of_not_attached (r := Run.start s) hq hm ha]

section
variable {s : State} {f : FurrowIx} {h : Handle} {tag : Tag} {q : Request} {op : Byte} (hq : (s.furrow f).atWork h tag op = some q)
include hq

/-- An engine that has written the furrow's memories alone ends its descriptor DONE. -/
theorem Run.engineEnds_storedOver {r : Run s₀} (hr : s.storedOver f r.now) (n v : Nat) :
    (r.engineEnds f h tag (Ending.ok n v)).now.descriptorEnded f h tag (Ending.ok n v) ∧
      s.onlyFurrow f (r.engineEnds f h tag (Ending.ok n v)).now := by
  refine ⟨Run.engineEnds_ended (failed_ok n v) ((hr.request? h tag).trans (Furrow.atWork_is hq).1), ?_⟩
  exact State.onlyFurrow_trans hr.1 (r.engineEnds_onlyFurrow f h tag _)

theorem Run.detach_ended {r : Run s₀} (hr : s.storedOver f r.now) (id : Nat) :
    (r.detach f h tag id).now.descriptorEnded f h tag (Ending.ok 0 id) ∧
      ((r.detach f h tag id).now.furrow f).object? h id = none ∧ s.onlyFurrow f (r.detach f h tag id).now := by
  have out := Run.modAttached_storedOver hr fun c => c.attached.filter fun b => !(b.h = h && b.id.toNat = id)
  obtain ⟨ended, only⟩ := Run.engineEnds_storedOver hq out 0 id
  refine ⟨ended, ?_, only⟩
  unfold Run.detach Furrow.object?
  rw [Run.engineEnds_done (failed_ok 0 id), Run.modFur_now, State.furrow_setFurrow_same]
  refine List.find?_eq_none.2 fun b hmem => ?_
  have left := (List.mem_filter.1 hmem).2
  rw [Bool.not_eq_true'] at left
  rw [left]
  exact Bool.false_ne_true

end

/-- The segments that a descriptor covers. -/
def ObjRec.segsOf (o : ObjRec) (d : List Byte) : List Nat := (List.range ((o.covered d).2 - (o.covered d).1)).map ((o.covered d).1 + ·)

section
variable {s : State} {f : FurrowIx} {h : Handle} {tag : Tag} {q : Request} {a : Attached} {o : ObjRec} {op : Byte}
  (hq : (s.furrow f).atWork h tag op = some q) (hb : (s.furrow f).counts.bad = [])
  (ht : (s.furrow f).transfers h tag = false) (ho : o.isHere (s.furrow f) f q)
include hq hb ht ho

omit hq hb ht ho in
/-- Only what FORCE brings counts as in flight. -/
theorem flyUnder_storedOver (force : Bool) (id : Nat) (js : List Nat) :
    s.storedOver f ((Run.start s).modFur f fun c => if force then c.fly h id tag js else c).now := by
  cases force
  · rw [Run.modFur_now]
    exact (State.setFurrow_self s f).symm ▸ s.storedOver_refl f
  · exact Run.fly_storedOver (s.storedOver_refl f) h id tag js

/-- What TIER_FETCH does without FORCE once its object is found. -/
theorem fetch_clean_ended {r : Run s₀} (hr : s.storedOver f r.now) (js : List Nat) (e : Ending) :
    ((r.moveSegs f q o true js).awaitEnd f h tag e).now.descriptorEnded f h tag e ∧
      s.onlyFurrow f ((r.moveSegs f q o true js).awaitEnd f h tag e).now := by
  obtain ⟨hh, htag, _⟩ := Furrow.request?_is _ _ _ _ (Furrow.atWork_is hq).1
  have moved := Run.moveSegs_storedOver hb ho (by rw [hh, htag]; exact ht) hr true js
  exact Run.awaitEnd_storedOver e hq ht moved

/-- What it does under FORCE: the bits of the dirty segments are cleared once they have come. -/
theorem fetch_forced_ended {r : Run s₀} (hr : s.storedOver f r.now) (js : List Nat) (id n : Nat) (r' : Run s₀)
    (hr' : r' = (r.moveSegs f q o true js).modFur f fun c => c.modReq h tag fun q => { q with stage := 1 }) :
    (r'.now.furrow f).transfers h tag = false ∧
      ((r'.landed f h id tag).engineEnds f h tag (Ending.ok n id)).now.descriptorEnded f h tag (Ending.ok n id) ∧
      s.onlyFurrow f ((r'.landed f h id tag).engineEnds f h tag (Ending.ok n id)).now := by
  obtain ⟨hh, htag, _⟩ := Furrow.request?_is _ _ _ _ (Furrow.atWork_is hq).1
  have moved := Run.moveSegs_storedOver hb ho (by rw [hh, htag]; exact ht) hr true js
  have hg : KeepsName fun q => { q with stage := 1 } := fun q => ⟨rfl, rfl, rfl⟩
  have hreq := (moved.request? h tag).trans (Furrow.atWork_is hq).1
  have fur' : r'.now.furrow f = ((r.moveSegs f q o true js).now.furrow f).modReq h tag fun q => { q with stage := 1 } := by
    rw [hr', Run.modFur_now, State.furrow_setFurrow_same]
  have only' : s.onlyFurrow f r'.now := by
    rw [hr']
    exact State.onlyFurrow_trans moved.1 (State.onlyFurrow_setFurrow _ _ _)
  have landed := Run.landed_storedOver (r'.now.storedOver_refl f) h id tag
  refine ⟨?_, Run.engineEnds_ended (q := { q with stage := 1 }) (failed_ok n id) ?_, ?_⟩
  · rw [fur', Furrow.transfers_modReq hg hreq rfl, moved.transfers, ht]
  · rw [landed.request?, fur']
    exact Furrow.request?_modReq_of_keepsName hg hreq
  · exact State.onlyFurrow_trans only' (State.onlyFurrow_trans landed.1 (Run.engineEnds_onlyFurrow _ f h tag _))

end

section
variable {s : State} {f : FurrowIx} {h : Handle} {tag : Tag} {q : Request} {a : Attached}
  (hm : tierMember q.desc = (s.furrow f).flatNumber q)
  (ha : (s.furrow f).object? h (df q.desc 16 2) = some a) (hb : (s.furrow f).counts.bad = []) (h0 : q.stage = 0)
  (ht : (s.furrow f).transfers h tag = false) (ho : ((Run.start s).objAt f h a.record.toNat).isHere (s.furrow f) f q)
include hm ha hb h0 ht ho

theorem execTierFetch_ended (hq : (s.furrow f).atWork h tag 0x13 = some q) (js dirty clean : List Nat)
    (hjs : js = ((Run.start s).objAt f h a.record.toNat).segsOf q.desc) (hdirty : dirty = js.filter ((Run.start s).isDirty f a))
    (hclean : clean = js.filter fun j => !dirty.contains j) :
    ∃ t, execTierFetch f h tag s = .next t ∧ s.onlyFurrow f t ∧ t.descriptorEnded f h tag
      (if (df q.desc 18 1).testBit 0 then Ending.ok (satCount js.length) (df q.desc 16 2)
        else fetchEnding clean.length dirty.length (df q.desc 16 2)) := by
  generalize hobj : (Run.start s).objAt f h a.record.toNat = o at ho hjs
  refine ⟨_, rfl, ?_⟩
  unfold Run.fetchDesc
  rw [Run.tierDesc_of_attached (r := Run.start s) hq hm ha hb, hobj]
  unfold ObjRec.segsOf at hjs
  dsimp only
  rw [← hjs]
  subst hdirty hclean
  rw [if_neg (not_not.2 h0), Run.segBad_of_none_bad (r := Run.start s) hb]
  dsimp only
  have begun := flyUnder_storedOver (s := s) (f := f) (h := h) (tag := tag) ((df q.desc 18 1).testBit 0) (df q.desc 16 2)
    (js.filter ((Run.start s).isDirty f a))
  generalize (df q.desc 18 1).testBit 0 = force at begun ⊢
  cases force
  · exact (fetch_clean_ended hq hb ht ho begun _ _).symm
  · obtain ⟨still, ended, only⟩ := fetch_forced_ended hq hb ht ho begun js (df q.desc 16 2) (satCount js.length) _ rfl
    rw [if_pos rfl, if_pos rfl, if_pos rfl, Run.fur_eq, still]
    exact ⟨only, ended⟩

theorem execTierWriteback_ended (hq : (s.furrow f).atWork h tag 0x14 = some q) :
    ∃ t n, execTierWriteback f h tag s = .next t ∧ n ≤ 65535 ∧ t.descriptorEnded f h tag (Ending.ok n (df q.desc 16 2)) ∧
      s.onlyFurrow f t := by
  obtain ⟨hh, htag, _⟩ := Furrow.request?_is _ _ _ _ (Furrow.atWork_is hq).1
  obtain ⟨r', n, hend, hr'⟩ := Run.writeBackOn_storedOver hb ho (by rw [hh, htag]; exact ht) a
    (fun r n => r.engineEnds f h tag (Ending.ok (satCount n) (df q.desc 16 2))) h0 (r := Run.start s) (s.storedOver_refl f)
  refine ⟨_, satCount n, rfl, min_le_right _ _, ?_⟩
  unfold Run.writebackDesc
  rw [Run.tierDesc_of_attached (r := Run.start s) hq hm ha hb]
  rw [hend]
  exact Run.engineEnds_storedOver hq hr' _ _

theorem execTierDetach_ended (hq : (s.furrow f).atWork h tag 0x15 = some q) :
    ∃ t, execTierDetach f h tag s = .next t ∧ t.descriptorEnded f h tag (Ending.ok 0 (df q.desc 16 2)) ∧
      (t.furrow f).object? h (df q.desc 16 2) = none ∧ s.onlyFurrow f t := by
  obtain ⟨hh, htag, _⟩ := Furrow.request?_is _ _ _ _ (Furrow.atWork_is hq).1
  refine ⟨_, rfl, ?_⟩
  unfold Run.detachDesc
  rw [Run.tierDesc_of_attached (r := Run.start s) hq hm ha hb]
  dsimp only
  split
  · obtain ⟨r', n, hend, hr'⟩ := Run.writeBackOn_storedOver hb ho (by rw [hh, htag]; exact ht) a
      (fun r _ => r.detach f h tag (df q.desc 16 2)) h0 (r := Run.start s) (s.storedOver_refl f)
    rw [hend]
    exact Run.detach_ended hq hr' _
  · exact Run.detach_ended hq (s.storedOver_refl f) _

end

end Sys2Proof.Machine
end

section
namespace Sys2Proof.Machine

variable {s₀ : State}

/-! ### TIER_ATTACH at a root (R321) -/

/-- A request after so many rounds of messages: its number of the round and what it carries are new, and contributions have come. -/
def Request.atRound (q : Request) (contrib : List Packet) (stage : Nat) (carried : List Byte) : Request :=
  { q with contrib := contrib, stage := stage, carried := carried }

/-- What a message of the root makes of its own request. -/
def Request.told (bs : List Byte) (q : Request) : Request :=
  { q.clear q.collKey with stage := fieldAt bs 0 1, carried := if fieldAt bs 0 1 = 2 then bs.drop 1 else q.carried }

/-- From a state in which a TIER_ATTACH began, only its request has changed: it is at a round, and carries a report. -/
structure State.attaching (s : State) (f : FurrowIx) (h : Handle) (tag : Tag) (q : Request) (t : State) (stage : Nat) (carried : List Byte) :
    Prop where
  mems : t.mems = s.mems
  only : s.onlyFurrow f t
  rest : ∃ qs, t.furrow f = { s.furrow f with reqs := qs }
  work : ∃ contrib, (t.furrow f).atWork h tag 0x12 = some (q.atRound contrib stage carried)

theorem Request.told_keepsName (bs : List Byte) : KeepsName (Request.told bs) := fun _ => ⟨rfl, rfl, rfl⟩

/-- A request that a message has changed is at work as before. -/
theorem Furrow.atWork_told {c : Furrow} {h : Handle} {tag : Tag} {op : Byte} {q : Request} (hq : c.atWork h tag op = some q)
    (bs : List Byte) : (c.modReq h tag (Request.told bs)).atWork h tag op = some (q.told bs) := by
  have req := (Furrow.atWork_is hq).1
  have told := Furrow.request?_modReq_of_keepsName (Request.told_keepsName bs) req
  unfold Furrow.atWork at hq ⊢
  rw [req] at hq
  rw [told]
  dsimp only at hq ⊢
  split at hq
  · rename_i h1
    exact if_pos h1
  · cases hq

theorem fieldAt_cons_one (b : Byte) (bs : List Byte) : fieldAt (b :: bs) 0 1 = b.toNat := by
  simp [fieldAt, leNat]

/-- There is nobody below to send to. -/
theorem Furrow.sendDown_of_none_below {c : Furrow} {p : Request} (hc : (c.below p.h).2 = []) (f : FurrowIx) (key : Nat) (bs : List Byte) :
    c.sendDown f p key bs = c := by
  unfold Furrow.sendDown
  rw [hc]
  rfl

/-- Nothing below has to answer. -/
theorem Furrow.piecesBelow_of_none_below {c : Furrow} {q : Request} (hc : (c.below q.h).2 = []) : c.piecesBelow q = some [] := by
  unfold Furrow.piecesBelow Furrow.piecesUnder
  dsimp only
  rw [hc]
  rfl

section
variable {s : State} {f : FurrowIx} {h : Handle} {tag : Tag} {q : Request} (hbelow : ((s.furrow f).below q.h).2 = [])

theorem State.attaching_refl (hq : (s.furrow f).atWork h tag 0x12 = some q) : s.attaching f h tag q s q.stage q.carried :=
  ⟨rfl, s.onlyFurrow_refl f, ⟨_, rfl⟩, q.contrib, hq⟩

include hbelow

/-- A root with nothing below sends its message to nobody. -/
theorem State.attaching.told {r : Run s₀} {stage : Nat} {carried : List Byte} (ha : s.attaching f h tag q r.now stage carried)
    (p : Request) (hp : p.h = q.h) (key : Nat) (bs : List Byte) :
    s.attaching f h tag q (r.modFur f fun c => (c.modReq h tag (Request.told bs)).sendDown f p key bs).now (fieldAt bs 0 1)
      (if fieldAt bs 0 1 = 2 then bs.drop 1 else carried) := by
  obtain ⟨mems, only, ⟨qs, hqs⟩, con, work⟩ := ha
  have nobody : (((r.now.furrow f).modReq h tag (Request.told bs)).below p.h).2 = [] := by
    rw [hqs, hp]
    exact hbelow
  rw [Run.modFur_now, Furrow.sendDown_of_none_below nobody]
  refine ⟨mems, State.onlyFurrow_trans only (State.onlyFurrow_setFurrow _ _ _), ⟨modFirst qs h tag (Request.told bs), ?_⟩, ?_⟩
  · rw [State.furrow_setFurrow_same, hqs]
    rfl
  · rw [State.furrow_setFurrow_same]
    exact ⟨_, Furrow.atWork_told work bs⟩

theorem State.attaching.piecesBelow {t : State} {stage : Nat} {carried : List Byte} (ha : s.attaching f h tag q t stage carried)
    (contrib : List Packet) : (t.furrow f).piecesBelow (q.atRound contrib stage carried) = some [] := by
  obtain ⟨qs, hqs⟩ := ha.rest
  refine Furrow.piecesBelow_of_none_below ?_
  rw [hqs]
  exact hbelow

omit hbelow

theorem State.attaching.objAt {r : Run s₀} {stage : Nat} {carried : List Byte} (ha : s.attaching f h tag q r.now stage carried)
    (k : Handle) (off : Nat) : r.objAt f k off = (Run.start s).objAt f k off := by
  obtain ⟨qs, hqs⟩ := ha.rest
  unfold Run.objAt Run.load
  simp only [Run.fur_eq, Furrow.pieces, hqs, Run.start_now, List.flatMap_cons, List.flatMap_nil, Run.read_eq, State.mem, ha.mems]
  rfl

theorem Furrow.spanIds_root (c : Furrow) (f : FurrowIx) {q : Request} (hroot : q.origin = none) : c.spanIds f q = c.standsFor f q.h := by
  unfold Furrow.spanIds
  rw [hroot]
  rfl

theorem State.attaching.attachCheck {r : Run s₀} {stage : Nat} {carried : List Byte} (ha : s.attaching f h tag q r.now stage carried)
    (hroot : q.origin = none) (contrib : List Packet) (o : ObjRec) :
    r.attachCheck f (q.atRound contrib stage carried) o = (Run.start s).attachCheck f q o := by
  obtain ⟨qs, hqs⟩ := ha.rest
  unfold Run.attachCheck
  simp only [ha.objAt, Run.fur_eq, hqs, Run.start_now, Furrow.spanIds_root _ f hroot,
    Furrow.spanIds_root _ f (q := q.atRound contrib stage carried) hroot]
  rfl

variable {o : ObjRec} (hb : (s.furrow f).counts.bad = []) (hobj : (Run.start s).objAt f h (tref q.desc 16).off = o)
  (hcrc : fieldAt o.bytes 60 4 = crc32c (o.bytes.take 60)) (hcheck : (Run.start s).attachCheck f q o = none)
  (hroot : q.origin = none)
include hb hobj hcrc hcheck hroot

theorem State.attaching.attachHere {r : Run s₀} {stage : Nat} {carried : List Byte} (ha : s.attaching f h tag q r.now stage carried)
    (hh : q.h = h) (contrib : List Packet) : r.attachHere f (q.atRound contrib stage carried) = (r, .ok o) := by
  obtain ⟨qs, hqs⟩ := ha.rest
  have bad : (r.now.furrow f).counts.bad = [] := by rw [hqs]; exact hb
  have obj : r.objAt f (q.atRound contrib stage carried).h (tref (q.atRound contrib stage carried).desc 16).off = o := by
    rw [ha.objAt]
    exact (congrArg (fun k => (Run.start s).objAt f k _) hh).trans hobj
  unfold Run.attachHere
  dsimp only
  rw [Run.fur_eq, Furrow.firstBad_of_none_bad bad, obj]
  dsimp only
  rw [if_neg (not_not.2 hcrc), ha.attachCheck hroot, hcheck]

/-- The member reads the record, and reports it. -/
theorem State.attaching.answer_record {r : Run s₀} {carried : List Byte} (ha : s.attaching f h tag q r.now 1 carried) (hh : q.h = h)
    (hown : df q.desc 24 4 = (s.furrow f).flatNumber q) (contrib : List Packet) :
    r.answerAttach f (q.atRound contrib 1 carried) (leBytes 1 1 ++ carried) = (r, .ok o.report) := by
  have named : (r.now.furrow f).attaches (q.atRound contrib 1 carried) = true := by
    obtain ⟨qs, hqs⟩ := ha.rest
    rw [hqs]
    exact decide_eq_true hown
  have round : fieldAt (leBytes 1 1 ++ carried) 0 1 = 1 := fieldAt_cons_one _ _
  unfold Run.answerAttach
  dsimp only
  rw [round, Run.fur_eq, named, ha.attachHere hb hobj hcrc hcheck hroot hh]
  rfl

/-- The member attaches the object. -/
theorem State.attaching.answer_attach {r : Run s₀} {carried : List Byte} (ha : s.attaching f h tag q r.now 3 carried) (hh : q.h = h)
    (hown : df q.desc 24 4 = (s.furrow f).flatNumber q) (contrib : List Packet) :
    r.answerAttach f (q.atRound contrib 3 carried) (leBytes 1 3 ++ carried) =
      (r.modFur f fun c => c.attach (q.atRound contrib 3 carried) o.id, .ok []) := by
  have named : (r.now.furrow f).attaches (q.atRound contrib 3 carried) = true := by
    obtain ⟨qs, hqs⟩ := ha.rest
    rw [hqs]
    exact decide_eq_true hown
  have round : fieldAt (leBytes 1 3 ++ carried) 0 1 = 3 := fieldAt_cons_one _ _
  unfold Run.answerAttach
  dsimp only
  rw [round, Run.fur_eq, named, ha.attachHere hb hobj hcrc hcheck hroot hh]
  rfl

omit hb hobj hcrc hcheck hroot

/-- The member has no objection to the home. -/
theorem State.attaching.answer_home {r : Run s₀} {carried : List Byte} (ha : s.attaching f h tag q r.now 2 carried)
    (hhome : (s.furrow f).homeOk q carried = true) (contrib : List Packet) :
    r.answerAttach f (q.atRound contrib 2 carried) (leBytes 1 2 ++ carried) = (r, .ok []) := by
  have ok : (r.now.furrow f).homeOk (q.atRound contrib 2 carried) carried = true := by
    obtain ⟨qs, hqs⟩ := ha.rest
    rw [hqs]
    exact hhome
  have round : fieldAt (leBytes 1 2 ++ carried) 0 1 = 2 := fieldAt_cons_one _ _
  have rest : (leBytes 1 2 ++ carried).drop 1 = carried := rfl
  unfold Run.answerAttach
  dsimp only
  rw [round, rest, Run.fur_eq, ok]
  rfl

/-! ### The rounds at the root -/

theorem attachRoot_begin {r : Run s₀} {carried : List Byte} (ha : s.attaching f h tag q r.now 0 carried)
    (hbelow : ((s.furrow f).below q.h).2 = []) (k : Nat) :
    ∃ r1, Run.attachRoot f h tag (k + 1) r = Run.attachRoot f h tag k r1 ∧ s.attaching f h tag q r1.now 1 carried := by
  obtain ⟨contrib, work⟩ := ha.work
  refine ⟨_, ?_, ha.told hbelow (q.atRound contrib 0 carried) rfl (q.atRound contrib 0 carried).collKey [1]⟩
  conv_lhs => unfold Run.attachRoot
  rw [Run.fur_eq, work]
  rfl

theorem attachRoot_record {r : Run s₀} {carried : List Byte} (ha : s.attaching f h tag q r.now 1 carried)
    (hbelow : ((s.furrow f).below q.h).2 = [])
    (answer : ∀ contrib, r.answerAttach f (q.atRound contrib 1 carried) (leBytes 1 1 ++ carried) = (r, .ok o.report)) (k : Nat) :
    ∃ r1, Run.attachRoot f h tag (k + 1) r = Run.attachRoot f h tag k r1 ∧ s.attaching f h tag q r1.now 2 o.report := by
  obtain ⟨contrib, work⟩ := ha.work
  refine ⟨_, ?_, ha.told hbelow (q.atRound contrib 1 carried) rfl (q.atRound contrib 1 carried).collKey (2 :: o.report)⟩
  have stage : (q.atRound contrib 1 carried).stage = 1 := rfl
  have carries : (q.atRound contrib 1 carried).carried = carried := rfl
  conv_lhs => unfold Run.attachRoot
  rw [Run.fur_eq, work]
  dsimp only
  rw [stage, carries, answer, ha.piecesBelow hbelow]
  rfl

theorem attachRoot_home {r : Run s₀} {carried : List Byte} (ha : s.attaching f h tag q r.now 2 carried)
    (hbelow : ((s.furrow f).below q.h).2 = []) (hhome : (s.furrow f).homeOk q carried = true) (k : Nat) :
    ∃ r1, Run.attachRoot f h tag (k + 1) r = Run.attachRoot f h tag k r1 ∧ s.attaching f h tag q r1.now 3 carried := by
  obtain ⟨contrib, work⟩ := ha.work
  refine ⟨_, ?_, ha.told hbelow (q.atRound contrib 2 carried) rfl (q.atRound contrib 2 carried).collKey [3]⟩
  have stage : (q.atRound contrib 2 carried).stage = 2 := rfl
  have carries : (q.atRound contrib 2 carried).carried = carried := rfl
  conv_lhs => unfold Run.attachRoot
  rw [Run.fur_eq, work]
  dsimp only
  rw [stage, carries, ha.answer_home hhome, ha.piecesBelow hbelow]
  rfl

/-- The last round ends the request. -/
theorem attachRoot_attach {r r1 : Run s₀} {carried : List Byte} (ha : s.attaching f h tag q r.now 3 carried)
    (hbelow : ((s.furrow f).below q.h).2 = []) {contrib : List Packet}
    (work : (r.now.furrow f).atWork h tag 0x12 = some (q.atRound contrib 3 carried))
    (answer : r.answerAttach f (q.atRound contrib 3 carried) (leBytes 1 3 ++ carried) = (r1, .ok [])) (k : Nat) :
    Run.attachRoot f h tag (k + 1) r = r1.endRounds f (q.atRound contrib 3 carried) (Ending.ok 0 (fieldAt carried 0 2)) := by
  have stage : (q.atRound contrib 3 carried).stage = 3 := rfl
  have carries : (q.atRound contrib 3 carried).carried = carried := rfl
  conv_lhs => unfold Run.attachRoot
  rw [Run.fur_eq, work]
  dsimp only
  rw [stage, carries, answer, ha.piecesBelow hbelow]
  rfl

end

theorem leNat_lt (bs : List Byte) : leNat bs < 256 ^ bs.length := by
  induction bs with
  | nil => simp [leNat]
  | cons b bs ih =>
    have := b.isLt
    rw [leNat, List.length_cons, pow_succ]
    omega

theorem fieldAt_two_lt (bs : List Byte) (off : Nat) : fieldAt bs off 2 < 65536 := by
  exact lt_of_lt_of_le (leNat_lt _) (Nat.pow_le_pow_right (by decide) (List.length_take_le 2 _))

/-- A report begins with the object's ID. -/
theorem ObjRec.report_id (bs : List Byte) : fieldAt (ObjRec.of bs).report 0 2 = (ObjRec.of bs).id := by
  have cut : ∀ n : Nat, ∀ xs : List Byte, fieldAt (leBytes 2 n ++ xs) 0 2 = n % 65536 := fun n xs => by
    rw [fieldAt, List.drop_zero, List.take_left' (leBytes_length 2 n), leNat_leBytes]
    rfl
  unfold ObjRec.report
  rw [List.append_assoc, List.append_assoc, cut]
  exact Nat.mod_eq_of_lt (fieldAt_two_lt bs 2)

/-- What the end of the rounds leaves where nothing is below. -/
theorem Run.endRounds_of_none_below {r : Run s₀} {f : FurrowIx} {p : Request} (hp : ((r.now.furrow f).below p.h).2 = []) (e : Ending) :
    (r.endRounds f p e).now = (r.engineEnds f p.h p.tag e).now := by
  have silent : (r.modFur f fun c => c.sendDown f p p.collKey []).now = r.now := by
    rw [Run.modFur_now, Furrow.sendDown_of_none_below hp, State.setFurrow_self]
  unfold Run.endRounds Run.engineEnds
  rw [Run.modFur_now, silent]
  rfl

/-- TIER_ATTACH at a root with nothing below, of a record that passes. -/
theorem execTierAttach_ended {s : State} {f : FurrowIx} {h : Handle} {tag : Tag} {q : Request} {o : ObjRec}
    (hq : (s.furrow f).atWork h tag 0x12 = some q) (hb : (s.furrow f).counts.bad = []) (hroot : q.origin = none) (h0 : q.stage = 0)
    (hbelow : ((s.furrow f).below q.h).2 = []) (hown : df q.desc 24 4 = (s.furrow f).flatNumber q)
    (hobj : (Run.start s).objAt f h (tref q.desc 16).off = o) (hcrc : fieldAt o.bytes 60 4 = crc32c (o.bytes.take 60))
    (hcheck : (Run.start s).attachCheck f q o = none) (hhome : (s.furrow f).homeOk q o.report = true) :
    ∃ t, execTierAttach f h tag s = .next t ∧ t.descriptorEnded f h tag (Ending.ok 0 o.id) ∧ s.onlyFurrow f t ∧ t.mems = s.mems ∧
      (t.furrow f).attached = (s.furrow f).attached ++ [⟨h, BitVec.ofNat 32 o.id, BitVec.ofNat 64 (tref q.desc 16).off, []⟩] := by
  obtain ⟨hh, htag, _⟩ := Furrow.request?_is _ _ _ _ (Furrow.atWork_is hq).1
  have begun : s.attaching f h tag q (Run.start s).now 0 q.carried := h0 ▸ State.attaching_refl hq
  obtain ⟨r1, run1, at1⟩ := attachRoot_begin begun hbelow 3
  obtain ⟨r2, run2, at2⟩ := attachRoot_record at1 hbelow (at1.answer_record hb hobj hcrc hcheck hroot hh hown) 2
  obtain ⟨r3, run3, at3⟩ := attachRoot_home at2 hbelow hhome 1
  obtain ⟨contrib, work⟩ := at3.work
  have run4 := attachRoot_attach at3 hbelow work (at3.answer_attach hb hobj hcrc hcheck hroot hh hown contrib) 0
  have id : fieldAt o.report 0 2 = o.id := by rw [← hobj]; exact ObjRec.report_id _
  have exec_eq : execTierAttach f h tag s = .next ((r3.modFur f fun c => c.attach (q.atRound contrib 3 o.report) o.id).endRounds f
      (q.atRound contrib 3 o.report) (Ending.ok 0 o.id)).now := by
    have root : q.origin.isSome = false := by rw [hroot]; rfl
    unfold execTierAttach Run.attachDesc
    rw [Run.fur_eq, Run.start_now, hq]
    dsimp only
    rw [root, if_neg Bool.false_ne_true, run1, run2, run3, run4, id]
    rfl
  obtain ⟨qs, hqs⟩ := at3.rest
  have attached : (r3.modFur f fun c => c.attach (q.atRound contrib 3 o.report) o.id).now.furrow f =
      (r3.now.furrow f).attach (q.atRound contrib 3 o.report) o.id := by
    rw [Run.modFur_now, State.furrow_setFurrow_same]
  have nobody : (((r3.modFur f fun c => c.attach (q.atRound contrib 3 o.report) o.id).now.furrow f).below
      (q.atRound contrib 3 o.report).h).2 = [] := by
    rw [attached, hqs]
    exact hbelow
  have h3 : (q.atRound contrib 3 o.report).h = h := hh
  have tag3 : (q.atRound contrib 3 o.report).tag = tag := htag
  rw [Run.endRounds_of_none_below nobody, h3, tag3] at exec_eq
  refine ⟨_, exec_eq, Run.engineEnds_ended (q := q.atRound contrib 3 o.report) (failed_ok 0 o.id) ?_, ?_, ?_, ?_⟩
  · rw [attached]
    exact (Furrow.atWork_is work).1
  · exact State.onlyFurrow_trans at3.only (State.onlyFurrow_trans (State.onlyFurrow_setFurrow _ _ _) (Run.engineEnds_onlyFurrow _ f h tag _))
  · rw [Run.engineEnds_mems]
    exact at3.mems
  · rw [Run.engineEnds_done (failed_ok 0 o.id), attached, hqs, ← hh]
    rfl

end Sys2Proof.Machine
end

section
namespace Sys2Proof.Machine

/-! ### The opcodes of chapter 14 together -/

/-- A MOVE between HBM and host memory, by the bytes that it leaves. -/
theorem execMove_ended {s : State} {f : FurrowIx} {h : Handle} {tag : Tag} {q : Request} (hq : (s.furrow f).atWork h tag 0x10 = some q)
    (hb : (s.furrow f).counts.bad = []) (ht : (s.furrow f).transfers h tag = false) {m : Move} (hmove : Move.of q.desc 16 = m)
    (hm : m.within ((s.furrow f).flatNumber q)) (hsrc : m.src.tier = 2 ∨ m.src.tier = 5) (hdst : m.dst.tier = 2 ∨ m.dst.tier = 5)
    (hc : s.hdl.carries = true) (hs : s.canonical) (ha : (s.furrow f).detached h) :
    ∃ t, execMove f h tag s = .next t ∧ t.descriptorEnded f h tag (Ending.ok 1 (df q.desc 32 8)) ∧
      (∀ n, n < m.len → (t.mem (m.dst.here.space f)).get ((s.furrow f).spotAddr h m.dst.here + n) =
        (s.mem (m.src.here.space f)).get ((s.furrow f).spotAddr h m.src.here + n)) ∧
      ∀ (x : Space) (a : Nat), (x = m.dst.here.space f → a < (s.furrow f).spotAddr h m.dst.here ∨
        (s.furrow f).spotAddr h m.dst.here + m.len ≤ a) → (t.mem x).get a = (s.mem x).get a := by
  subst hmove
  obtain ⟨ended, mems⟩ := move_copies hq ht hb (Move.of q.desc 16) (Ending.ok 1 (df q.desc 32 8)) hm hsrc hdst hc ha _ rfl
  refine ⟨_, execMove_atWork hq, ended, fun n hn => ?_, fun x a hx => ?_⟩
  · rw [mems, State.mem_setMem_same, Mem.get_paste_slice _ _ _ _ _ (hs _) (hs _), if_pos (by omega), Nat.add_sub_cancel_left]
  · rw [mems]
    by_cases e : x = (Move.of q.desc 16).dst.here.space f
    · subst e
      have outside := hx rfl
      rw [State.mem_setMem_same, Mem.get_paste_slice _ _ _ _ _ (hs _) (hs _), if_neg (by omega)]
    · rw [State.mem_setMem_other _ _ _ _ e]

theorem execMove_waits {s : State} {f : FurrowIx} {h : Handle} {tag : Tag} {q : Request} (hq : (s.furrow f).atWork h tag 0x10 = some q)
    {m : Move} (hmove : Move.of q.desc 16 = m) (hm : m.within ((s.furrow f).flatNumber q)) (hc : s.hdl.carries = false)
    (hh : m.src.tier = 5 ∨ m.dst.tier = 5) : execMove f h tag s = .next s := by
  subst hmove
  have host : (transfersOf [Move.of q.desc 16]).any ofHost = true := by
    simpa [transfersOf, ofHost, Loc.here] using hh
  rw [execMove_atWork hq, Run.moves_waits (r := Run.start s) _ (by simpa using hm) hc host, Run.start_now]

/-- Settles O36. -/
theorem moveAndTierRows : Obligations.MoveAndTierRows := by
  refine ⟨fun f h tag q s => ?_, fun f h tag q s => ?_⟩
  · dsimp only
    intro hb ht
    refine ⟨fun hq hsrc hdst htsrc htdst => ⟨fun hc hs ha => ?_, fun hc hh => ?_⟩, fun hq hne hm => ?_⟩
    · exact execMove_ended hq hb ht rfl ⟨hsrc, hdst⟩ htsrc htdst hc hs ha
    · exact execMove_waits hq rfl ⟨hsrc, hdst⟩ hc hh
    · obtain ⟨ended, only⟩ := moveList_ended hq ht hb ((Run.start s).movesOf f q) (Ending.ok (df q.desc 24 2) (df q.desc 16 8)) hne
        (fun m hmem => ⟨(hm m hmem).1, (hm m hmem).2.1⟩) (fun m hmem => by obtain ⟨_, _, h1, h2⟩ := hm m hmem; omega)
      exact ⟨_, execMoveList_atWork hq hb, ended, only⟩
  · dsimp only
    intro hb ht
    refine ⟨fun hq hroot h0 hbelow hown hcrc hcheck hhome => ?_, fun i op hi hq => tierOpcode_elsewhere hi hq, fun a hm ha hhome hcopy => ?_⟩
    · exact execTierAttach_ended hq hb hroot h0 hbelow hown rfl hcrc hcheck hhome
    · refine ⟨fun hq h0 => ?_, fun hq h0 => ?_, fun hq h0 => ?_⟩
      · exact execTierFetch_ended hm ha hb h0 ht ⟨hhome, hcopy⟩ hq _ _ _ rfl rfl rfl
      · exact execTierWriteback_ended hm ha hb h0 ht ⟨hhome, hcopy⟩ hq
      · exact execTierDetach_ended hm ha hb h0 ht ⟨hhome, hcopy⟩ hq

end Sys2Proof.Machine
end

section
namespace Sys2Proof.Machine

/-! ### Registers of a furrow that the host reaches (R35, R36, R43) -/

/-- A furrow whose ring groups the host reaches has left its boot behind, and answers at every offset. -/
theorem State.reaches_all {s : State} {f : FurrowIx} {n : Nat} (hn : 0x10000 ≤ n ∧ n < 0x400000) (h : s.reaches f n = true) (off : Nat) :
    s.hdl.carries = true ∧ s.hdl.lostMap.getLsbD f.val = false ∧ (s.furrow f).reachable off = true := by
  simp only [State.reaches, Furrow.reachable, Bool.and_eq_true, Bool.not_eq_true', Bool.or_eq_true, decide_eq_true_eq] at h ⊢
  obtain ⟨⟨hc, hl⟩, hlife, hboot⟩ := h
  have h0 : (s.furrow f).sec.bootError = 0 := by
    obtain (h0 | low) | high := hboot
    · exact h0
    · omega
    · omega
  exact ⟨hc, hl, hlife, .inl (.inl h0)⟩

/-- A write of all 64 bits of a register of a furrow that answers. -/
theorem execRegisterWrite_bar0 {f : FurrowIx} {n off : Nat} {v : W64} {s : State} (hn : 0x10000 ≤ n ∧ n < 0x400000) (h : s.reaches f n = true)
    (h8 : off % 8 = 0) (ho : off < 2 ^ 24) :
    exec (.registerWrite (.furrow f) ⟨.bar0, BitVec.ofNat 24 off, 8⟩ v) s =
      .next (s.setFurrow f (regWrite s f off (BitVec.allOnes 64) v)) := by
  obtain ⟨hc, hl, hr⟩ := State.reaches_all hn h off
  have hoff : (BitVec.ofNat 24 off).toNat = off := by rw [BitVec.toNat_ofNat, Nat.mod_eq_of_lt ho]
  have hdiv : off / 8 * 8 = off := by omega
  have mark : s.hdl.lostMap[f.val] = false := by simpa using hl
  show execRegisterWrite _ _ _ _ = _
  simp [execRegisterWrite, accessRegular, hoff, h8, hc, hr, hdiv, Run.hostWrite, accessMask, accessPlace, mark]

/-- A register of a ring group is written. -/
theorem regWrite_rings (s : State) (f : FurrowIx) (h : Handle) (k : Nat) (hk : k < 0x40) (mask v : W64) :
    regWrite s f (0x20000 + 0x40 * h.val + k) mask v = (s.furrow f).modRings h fun g => writeRings g k mask v := by
  have hh := h.isLt
  have hdiv : (0x20000 + 0x40 * h.val + k - 0x20000) / 0x40 = h.val := by omega
  have hmod : (0x20000 + 0x40 * h.val + k - 0x20000) % 0x40 = k := by omega
  have lo : ¬ 0x20000 + 0x40 * h.val + k < 0x20000 := by omega
  have hi : 0x20000 + 0x40 * h.val + k < 0x100000 := by omega
  simp only [regWrite, if_neg lo, if_pos hi, hdiv, hmod, h.isLt, dite_true]

theorem execRegisterWrite_rings {f : FurrowIx} {h : Handle} {k : Nat} {v : W64} {s : State} (hr : s.reaches f 0x20000 = true)
    (hk : k < 0x40) (h8 : k % 8 = 0) :
    exec (.registerWrite (.furrow f) ⟨.bar0, BitVec.ofNat 24 (0x20000 + 0x40 * h.val + k), 8⟩ v) s =
      .next (s.setFurrow f ((s.furrow f).modRings h fun g => writeRings g k (BitVec.allOnes 64) v)) := by
  have hh := h.isLt
  rw [execRegisterWrite_bar0 (by omega) hr (by omega) (by omega), regWrite_rings s f h k hk]

theorem Furrow.modRings_congr {c : Furrow} {h : Handle} {g k : Rings → Rings} (hg : g c.ctx[h].rings = k c.ctx[h].rings) :
    c.modRings h g = c.modRings h k := by simp only [Furrow.modRings, Furrow.modCtx, hg]

theorem Furrow.modCtx_self {c : Furrow} {h : Handle} {g : Context → Context} (hg : g c.ctx[h] = c.ctx[h]) : c.modCtx h g = c := by
  rw [Furrow.modCtx, hg]
  simp

theorem Furrow.modRings_self {c : Furrow} {h : Handle} {g : Rings → Rings} (hg : g c.ctx[h].rings = c.ctx[h].rings) : c.modRings h g = c :=
  Furrow.modCtx_self (by rw [hg])

/-! What a write of all 64 bits does to each register of a ring group (Tables 02-7 to 02-11). -/

section
variable (g : Rings) (v : W64)

/-- A ring's size in a written value, which a size out of range leaves as it was. -/
def sizeIn (old : BitVec 5) : BitVec 5 :=
  if 4 ≤ (v.extractLsb' 0 5).toNat ∧ (v.extractLsb' 0 5).toNat ≤ 16 then v.extractLsb' 0 5 else old

theorem keepUnless_within (old : BitVec 5) : keepUnless (within 4 16 (v.extractLsb' 0 5)) old (v.extractLsb' 0 5) = sizeIn v old := by
  simp [keepUnless, within, sizeIn]

theorem writeRings_sqBase : writeRings g 0x00 (BitVec.allOnes 64) v =
    if g.state = .disabled then { g with sqBase := v.extractLsb' 12 52 } else g := by
  simp only [writeRings, merge_allOnes]

theorem writeRings_sqCfg : writeRings g 0x08 (BitVec.allOnes 64) v =
    if g.state = .disabled then { g with sqLog := sizeIn v g.sqLog } else g := by
  simp only [writeRings, merge_allOnes, keepUnless_within]

theorem writeRings_shadow : writeRings g 0x10 (BitVec.allOnes 64) v =
    { g with shadowAddr := v.extractLsb' 3 61, shadowEn := v.getLsbD 0 } := by
  simp only [writeRings, merge_allOnes]

theorem writeRings_cqBase : writeRings g 0x18 (BitVec.allOnes 64) v =
    if g.state = .disabled then { g with cqBase := v.extractLsb' 12 52 } else g := by
  simp only [writeRings, merge_allOnes]

theorem writeRings_cqCfg : writeRings g 0x20 (BitVec.allOnes 64) v =
    { g with
      irqGap := v.extractLsb' 16 10, irqBatch := v.extractLsb' 8 8, irqEn := v.getLsbD 5
      cqLog := if g.state = .disabled then sizeIn v g.cqLog else g.cqLog } := by
  by_cases idle : g.state = .disabled
  · simp only [writeRings, merge_allOnes, idle, decide_true, Bool.true_and, keepUnless_within, if_true]
  · simp only [writeRings, merge_allOnes, idle, decide_false, Bool.false_and, keepUnless, Bool.false_eq_true, if_false]

end

/-- Settles O8: each register of the group by what a write of all its bits does in the group's state. -/
theorem ringSetupWrittenOnlyWhileDisabled : Obligations.RingSetupWrittenOnlyWhileDisabled := by
  intro f h v s hr
  have writes : ∀ {k : Nat} {w : Rings}, k < 0x40 → k % 8 = 0 → writeRings (s.furrow f).ctx[h].rings k (BitVec.allOnes 64) v = w →
      exec (.registerWrite (.furrow f) ⟨.bar0, BitVec.ofNat 24 (0x20000 + 0x40 * h.val + k), 8⟩ v) s =
        .next (s.setFurrow f ((s.furrow f).modRings h fun _ => w)) := fun {_ w} hk h8 hw => by
    rw [execRegisterWrite_rings hr hk h8, Furrow.modRings_congr (k := fun _ => w) hw]
  have ignores : ∀ {k : Nat}, k < 0x40 → k % 8 = 0 →
      writeRings (s.furrow f).ctx[h].rings k (BitVec.allOnes 64) v = (s.furrow f).ctx[h].rings →
      exec (.registerWrite (.furrow f) ⟨.bar0, BitVec.ofNat 24 (0x20000 + 0x40 * h.val + k), 8⟩ v) s = .next s := fun hk h8 hg => by
    rw [execRegisterWrite_rings hr hk h8, Furrow.modRings_self hg, State.setFurrow_self]
  refine ⟨fun busy => ⟨?_, ?_, ?_, ?_⟩, fun idle => ⟨?_, ?_, ?_, ?_⟩, ?_⟩
  · exact ignores (by decide) rfl ((writeRings_sqBase _ v).trans (if_neg busy))
  · exact ignores (by decide) rfl ((writeRings_sqCfg _ v).trans (if_neg busy))
  · exact ignores (by decide) rfl ((writeRings_cqBase _ v).trans (if_neg busy))
  · exact writes (by decide) rfl (by rw [writeRings_cqCfg, if_neg busy])
  · exact writes (by decide) rfl ((writeRings_sqBase _ v).trans (if_pos idle))
  · exact writes (by decide) rfl ((writeRings_sqCfg _ v).trans (if_pos idle))
  · exact writes (by decide) rfl ((writeRings_cqBase _ v).trans (if_pos idle))
  · exact writes (by decide) rfl (by rw [writeRings_cqCfg, if_pos idle]; rfl)
  · exact writes (by decide) rfl (writeRings_shadow _ v)

end Sys2Proof.Machine
end

section
namespace Sys2Proof.Machine

variable {s₀ : State}

/-! ### What records and ends leave alone of a context's standing -/

/-- What of a handle's context no record and no end of a request changes: its state, its role and its fault, its rings' state, accepted
head and flag, and with them the errors counted so far. -/
def Furrow.stance (h : Handle) (c : Furrow) : (CtxState × SpanRole × Option (FaultCause × W64)) × (RingState × W32 × Bool) × W64 :=
  ((c.ctx[h].state, c.ctx[h].role, c.ctx[h].fault), (c.ctx[h].rings.state, c.ctx[h].rings.cqHead, c.ctx[h].rings.badDoorbell), c.err.seq)

theorem Furrow.stance_besidePyr (h : Handle) : BesidePyr (Furrow.stance h) := fun _ _ => rfl

/-- The part of the standing that the context table holds. -/
def Context.stance (x : Context) : (CtxState × SpanRole × Option (FaultCause × W64)) × RingState × W32 × Bool :=
  ((x.state, x.role, x.fault), x.rings.state, x.rings.cqHead, x.rings.badDoorbell)

theorem Furrow.modCtx_stance (c : Furrow) (h k : Handle) (g : Context → Context) (hg : ∀ x, (g x).stance = x.stance) :
    (c.modCtx k g).stance h = c.stance h :=
  congrArg (fun x => (x.1, x.2, c.err.seq)) (Furrow.view_modCtx Context.stance c k g hg h)

theorem Furrow.endReq_stance (c : Furrow) (h k : Handle) (tag : Tag) (e : Ending) : (c.endReq k tag e).stance h = c.stance h :=
  Furrow.modCtx_stance (c.modReq k tag fun q => q.endAt c.ns e) h k _ fun _ => rfl

theorem Furrow.leaveStep_stance (c : Furrow) (h k : Handle) (tag : Tag) : (c.leaveStep k tag).stance h = c.stance h := by
  unfold Furrow.leaveStep
  dsimp only
  split <;> rfl

theorem Furrow.release_stance (c : Furrow) (h k : Handle) (tag : Tag) : (c.release k tag).stance h = c.stance h :=
  c.leaveStep_stance h k tag

theorem Furrow.finish_stance (c : Furrow) (f : FurrowIx) (h k : Handle) (tag : Tag) (e : Ending) :
    (c.finish f k tag e).stance h = c.stance h := by
  have released : ((c.endReq k tag e).release k tag).stance h = c.stance h :=
    (Furrow.release_stance _ h k tag).trans (c.endReq_stance h k tag e)
  unfold Furrow.finish
  dsimp only
  generalize (c.endReq k tag e).release k tag = d at released
  split
  · exact released
  · split
    · exact (Furrow.route_keeps (Furrow.stance_besidePyr h) _ f _).trans released
    · split <;> exact released

theorem Run.toHost_furrow (r : Run s₀) (a : Nat) (bs : List Byte) (f : FurrowIx) : (r.toHost a bs).now.furrow f = r.now.furrow f :=
  (r.toHost_keeps a bs).2 f

theorem Furrow.modRings_stance (c : Furrow) (h k : Handle) (g : Rings → Rings)
    (hg : ∀ x, ((g x).state, (g x).cqHead, (g x).badDoorbell) = (x.state, x.cqHead, x.badDoorbell)) :
    (c.modRings k g).stance h = c.stance h :=
  Furrow.modCtx_stance c h k _ fun x => congrArg (Prod.mk (x.state, x.role, x.fault)) (hg x.rings)

theorem Run.writeRecord_stance (r : Run s₀) (f : FurrowIx) (h k : Handle) (x : Record) (held : Bool) :
    ((r.writeRecord f k x held).now.furrow f).stance h = (r.now.furrow f).stance h := by
  have written : ∀ c : Furrow, ((c.modRings k fun g => { g with cqTail := g.cqTail + 1 }).noteRing k).stance h = c.stance h := fun c =>
    Furrow.modRings_stance c h k (fun g => { g with cqTail := g.cqTail + 1 }) fun _ => rfl
  unfold Run.writeRecord
  rw [Run.modFur_now, State.furrow_setFurrow_same, Run.toHost_furrow]
  dsimp only
  split <;> exact written _

theorem Run.drainHolding_stance (f : FurrowIx) (h k : Handle) (n : Nat) (r : Run s₀) :
    ((r.drainHolding f k n).now.furrow f).stance h = (r.now.furrow f).stance h := by
  induction n generalizing r with
  | zero => rfl
  | succ n ih =>
    unfold Run.drainHolding
    dsimp only
    split
    · rfl
    · split
      · rfl
      · rw [ih, Run.writeRecord_stance, Run.modFur_now, State.furrow_setFurrow_same]
        exact Furrow.modRings_stance _ h k _ fun _ => rfl

/-! ### The life of a ring group (R42, R44) -/

section
variable {f : FurrowIx} {h : Handle} {s : State}

theorem execRingEnable_opens (hr : s.reaches f 0x20030 = true) (hctx : (s.furrow f).ctx[h].state ≠ .free)
    (hrole : (s.furrow f).ctx[h].role ≠ .member) (hd : (s.furrow f).ctx[h].rings.state = .disabled) :
    exec (.ringEnable f h) s = .next (s.setFurrow f ((s.furrow f).modRings h fun g =>
      { g with state := .active, sqHead := 0, cqTail := 0, sqTail := 0, cqHead := 0, holding := [], kept := [], openRun := none })) :=
  done_modFur (by simp [hr, hctx, hrole, hd, -Fin.getElem_fin])

theorem execRingEnable_void (hr : s.reaches f 0x20030 = true) (hn : (s.furrow f).ctx[h].state = .free ∨ (s.furrow f).ctx[h].role = .member ∨
    (s.furrow f).ctx[h].rings.state ≠ .disabled) : exec (.ringEnable f h) s = .next s :=
  done_modFur_self (by rw [hr]; exact if_pos hn)

/-- The group that a drain leaves: it keeps no cancel and waits for no rest of a run. -/
def Furrow.drains (c : Furrow) (h : Handle) : Furrow := c.modRings h fun g => { g with state := .draining, kept := [], openRun := none }

theorem execRingDrain_active (hr : s.reaches f 0x20030 = true) (ha : (s.furrow f).ctx[h].rings.state = .active) :
    exec (.ringDrain f h) s = .next (s.setFurrow f ((((s.furrow f).drains h).partRuns h).foldl
      (fun c q => c.finish f h q.tag (.bare Status.cancelled 0)) ((s.furrow f).drains h))) :=
  done_modFur (by rw [hr]; exact if_pos ha)

theorem Furrow.drains_partRuns (c : Furrow) (h : Handle) : (c.drains h).partRuns h = c.partRuns h := rfl

theorem Furrow.drains_state (c : Furrow) (h : Handle) : (c.drains h).ctx[h].rings.state = .draining := by
  rw [Furrow.drains, Furrow.modRings_same]

theorem execRingDrain_void (hn : (s.furrow f).ctx[h].rings.state ≠ .active) : exec (.ringDrain f h) s = .next s :=
  done_modFur_self (by rw [if_neg hn, ite_self])

theorem execRingDrainDone_waits (hn : (s.furrow f).ctx[h].rings.state ≠ .draining ∨ (s.furrow f).outstanding h ≠ []) :
    exec (.ringDrainDone f h) s = .next s :=
  done_modFur_self (if_neg (by
    rintro ⟨hd, ho, -⟩
    exact hn.elim (· hd) (· (List.isEmpty_iff.1 ho))))

theorem execRingDrainDone_over (hd : (s.furrow f).ctx[h].rings.state = .draining) (ho : (s.furrow f).outstanding h = [])
    (hh : (s.furrow f).ctx[h].rings.holding = []) :
    exec (.ringDrainDone f h) s = .next (s.setFurrow f ((s.furrow f).modRings h fun g => { g with state := .disabled })) :=
  done_modFur (if_pos ⟨hd, List.isEmpty_iff.2 ho, List.isEmpty_iff.2 hh⟩)

end

/-- Settles O11. -/
theorem ringGroupLifeCycle : Obligations.RingGroupLifeCycle := by
  intro f h s hr
  refine ⟨execRingEnable_opens hr, execRingEnable_void hr, fun active => ⟨?_, fun whole => ?_⟩, execRingDrain_void,
    execRingDrainDone_waits, execRingDrainDone_over⟩
  · refine ⟨_, execRingDrain_active hr active, ?_, ?_⟩
    · have kept := foldl_keeps (Furrow.stance h) _ (fun c (q : Request) => c.finish_stance f h h q.tag (.bare Status.cancelled 0))
        (((s.furrow f).drains h).partRuns h) ((s.furrow f).drains h)
      rw [State.furrow_setFurrow_same]
      exact (congrArg (fun x => x.2.1.1) kept).trans (Furrow.drains_state _ h)
    · rw [State.furrow_setFurrow_same]
  · rw [execRingDrain_active hr active, Furrow.drains_partRuns, whole]
    rfl

end Sys2Proof.Machine
end

section
namespace Sys2Proof.Machine

variable {s₀ : State}

/-! ### Error records of events (R425, R426) -/

/-- A record that is not of SEVERITY 1 takes the next SEQ, and stands in the queue or waits in its unit. -/
theorem ErrRing.push_of_not_corrected (r : ErrRing) (e : ErrRec) (he : e.corrected = false) :
    (r.push e).seq = r.seq + 1 ∧ (e ∈ (r.push e).queue ∨ e ∈ (r.push e).waiting) := by
  unfold ErrRing.push
  rw [he]
  split
  · contradiction
  · split
    · exact ⟨rfl, .inl (by simp)⟩
    · split
      · exact ⟨rfl, .inl (by simp)⟩
      · exact ⟨rfl, .inr (by simp)⟩

/-- The record of an event of no severity, of a kind that no stack counts. -/
def Furrow.eventRecord (c : Furrow) (e : ErrRec) : ErrRec := { e with seq := c.err.seq, ns := c.ns, nested := false, parent := 0 }

theorem Furrow.raise_event (c : Furrow) (e : ErrRec) (hs : e.severity = 0) (hk : e.kind ≠ 0x04 ∧ e.kind ≠ 0x08) :
    c.raise e [] = { c with err := c.err.push (c.eventRecord e) } := by
  have uncounted : c.countUe e = c := dif_neg (by rintro ⟨h | h, -⟩ <;> simp_all)
  simp [Furrow.raise, uncounted, hs, Furrow.eventRecord]

/-! ### A cancel's reach (R51, R88) -/

theorem Furrow.leaveStep_ctx (c : Furrow) (h : Handle) (tag : Tag) : (c.leaveStep h tag).ctx = c.ctx := by
  unfold Furrow.leaveStep
  dsimp only
  split <;> rfl

theorem Furrow.cancelReq_rings (c : Furrow) (f : FurrowIx) (h k : Handle) (tag : Tag) : (c.cancelReq f h tag).ctx[k].rings = c.ctx[k].rings := by
  unfold Furrow.cancelReq
  cases c.request? h tag with
  | none => rfl
  | some q =>
    dsimp only
    split
    · split <;> rfl
    · split
      · have out := (Furrow.leaveStep_ctx _ h tag).trans (Furrow.cancelMembers_keeps (view := Furrow.ctx) (fun _ _ => rfl)
          ((c.modReq h tag fun q => q.abortAt c.ns).modCtx h Context.updateNs) f q)
        exact (congrArg (fun x : Vector Context 64 => x[k].rings) out).trans (Furrow.view_modCtx Context.rings _ h Context.updateNs (fun _ => rfl) k)
      · rfl

theorem Furrow.cancelTag_rings (c : Furrow) (f : FurrowIx) (h k : Handle) (tag : Tag) : (c.cancelTag f h tag).ctx[k].rings = c.ctx[k].rings := by
  unfold Furrow.cancelTag
  exact foldl_keeps (fun c : Furrow => c.ctx[k].rings) (fun c (q : Request) => c.cancelReq f h q.tag)
    (fun c q => c.cancelReq_rings f h k q.tag) _ c

/-! ### Doorbells (R46, R48, R49) -/

/-- A doorbell has been ignored with BAD_DOORBELL and an error record. -/
def Furrow.flagged (c : Furrow) (h : Handle) (d : Furrow) : Prop :=
  d.ctx = (c.modRings h fun g => { g with badDoorbell := true }).ctx ∧ d.reqs = c.reqs ∧ d.err.seq = c.err.seq + 1 ∧
    ∃ e, (e ∈ d.err.queue ∨ e ∈ d.err.waiting) ∧ e.kind = 0x12 ∧ e.seq = c.err.seq ∧ e.ctx = BitVec.ofNat 16 h.val

theorem Furrow.badDoorbell_flagged (c : Furrow) (h : Handle) (v : W32) : c.flagged h (c.badDoorbell h v) := by
  unfold Furrow.badDoorbell
  rw [Furrow.raise_event _ _ rfl ⟨(by decide : (0x12 : Byte) ≠ 0x04), (by decide : (0x12 : Byte) ≠ 0x08)⟩]
  obtain ⟨seq, stands⟩ := ErrRing.push_of_not_corrected c.err
    (c.eventRecord { errRec 0x12 0 v.toNat with ctx := BitVec.ofNat 16 h.val }) rfl
  exact ⟨rfl, rfl, seq, _, stands, rfl, rfl, rfl⟩

section
variable {f : FurrowIx} {h : Handle} {v : W32} {s : State}

/-- A write to a doorbell page of a furrow that answers is its doorbell. -/
theorem execRegisterWrite_bar2 (k : Nat) (hr : s.reaches f 0x20038 = true) (hk : k < 0x1000) (h8 : k % 8 = 0) :
    exec (.registerWrite (.furrow f) ⟨.bar2, BitVec.ofNat 24 (0x1000 * h.val + k), 4⟩ (v.zeroExtend 64)) s =
      ((Run.start s).doorbell f (0x1000 * h.val + k) v).done := by
  have hh := h.isLt
  obtain ⟨carries, lost, -⟩ := State.reaches_all (by omega) hr 0
  have mark : s.hdl.lostMap[f.val] = false := by simpa using lost
  have hoff : (BitVec.ofNat 24 (0x1000 * h.val + k)).toNat = 0x1000 * h.val + k := by
    rw [BitVec.toNat_ofNat, Nat.mod_eq_of_lt (by omega)]
  have hdiv : (0x1000 * h.val + k) / 8 * 8 = 0x1000 * h.val + k := by omega
  have h4 : (0x1000 * h.val + k) % 4 = 0 := by omega
  have low : (v.zeroExtend 64).extractLsb' 0 32 = v := by
    ext i hi
    simp [show i < 64 by omega, BitVec.getLsbD_eq_getElem hi]
  show execRegisterWrite _ _ _ _ = _
  simp only [execRegisterWrite, accessRegular, hoff, h4, carries, Run.hostWrite, hdiv, Run.start_now, lost, low]
  rfl

theorem page_div_mod (h : Handle) {k : Nat} (hk : k < 0x1000) :
    (0x1000 * h.val + k) / 0x1000 = h.val ∧ (0x1000 * h.val + k) % 0x1000 = k := by omega

theorem Run.doorbell_sqTail (r : Run s₀) (f : FurrowIx) (h : Handle) (v : W32) : r.doorbell f (0x1000 * h.val + 0x000) v = r.dbSqTail f h v := by
  obtain ⟨hdiv, hmod⟩ := page_div_mod h (k := 0x000) (by decide)
  simp only [Run.doorbell, hdiv, hmod, h.isLt, dite_true]

theorem Run.doorbell_cqHead (r : Run s₀) (f : FurrowIx) (h : Handle) (v : W32) : r.doorbell f (0x1000 * h.val + 0x008) v = r.dbCqHead f h v := by
  obtain ⟨hdiv, hmod⟩ := page_div_mod h (k := 0x008) (by decide)
  simp only [Run.doorbell, hdiv, hmod, h.isLt, dite_true]

theorem Run.doorbell_cancel (r : Run s₀) (f : FurrowIx) (h : Handle) (v : W32) : r.doorbell f (0x1000 * h.val + 0x010) v = r.dbCancel f h v := by
  obtain ⟨hdiv, hmod⟩ := page_div_mod h (k := 0x010) (by decide)
  simp only [Run.doorbell, hdiv, hmod, h.isLt, dite_true]

theorem execDbSqTail_within (hr : s.reaches f 0x20038 = true) (ha : (s.furrow f).ctx[h].rings.state = .active)
    (hv : (v - (s.furrow f).ctx[h].rings.sqHead).toNat ≤ 2 ^ (s.furrow f).ctx[h].rings.sqLog.toNat) :
    exec (.dbSqTail f h v) s = .next (s.setFurrow f ((s.furrow f).modRings h fun g => { g with sqTail := v })) :=
  done_modFur (by simp only [Run.start_now, hr, Bool.not_true, Bool.false_eq_true, ha, ne_eq, not_true_eq_false, hv, if_false, if_true])

theorem execDbSqTail_beyond (hr : s.reaches f 0x20038 = true) (ha : (s.furrow f).ctx[h].rings.state = .active)
    (hv : 2 ^ (s.furrow f).ctx[h].rings.sqLog.toNat < (v - (s.furrow f).ctx[h].rings.sqHead).toNat) :
    exec (.dbSqTail f h v) s = .next (s.setFurrow f ((s.furrow f).badDoorbell h v)) :=
  done_modFur (by
    simp only [Run.start_now, hr, Bool.not_true, Bool.false_eq_true, ha, ne_eq, not_true_eq_false, Nat.not_le.2 hv, if_false])

/-- A head that R48 accepts. -/
theorem Rings.headOk_iff (g : Rings) : g.headOk v = true ↔ (g.cqTail - v).toNat ≤ 2 ^ g.cqLog.toNat ∧
    (g.cqTail - v).toNat ≤ (g.cqTail - g.cqHead).toNat := by
  unfold Rings.headOk Rings.used
  rw [Bool.and_eq_true, decide_eq_true_eq, decide_eq_true_eq]

theorem Rings.headOk_eq_false {g : Rings} (hv : 2 ^ g.cqLog.toNat < (g.cqTail - v).toNat ∨
    (g.cqTail - g.cqHead).toNat < (g.cqTail - v).toNat) : g.headOk v = false := by
  rw [← Bool.not_eq_true, Rings.headOk_iff]
  omega

/-- A head that the rings take, as R48 bounds it; held records take the place of the records consumed. -/
theorem execDbCqHead_within (hr : s.reaches f 0x20038 = true)
    (ha : (s.furrow f).ctx[h].rings.state = .active ∨ (s.furrow f).ctx[h].rings.state = .draining)
    (hv : (s.furrow f).ctx[h].rings.headOk v = true) :
    exec (.dbCqHead f h v) s =
      .next (((Run.start s).modFur f fun c => c.modRings h fun g => { g with cqHead := v }).drainHolding f h 256).now := by
  have runs : ¬ (!s.reaches f 0x20038 ∨ ((s.furrow f).ctx[h].rings.state ≠ .active ∧ (s.furrow f).ctx[h].rings.state ≠ .draining)) := by
    rw [hr]
    rintro (no | ⟨h1, h2⟩)
    · contradiction
    · exact ha.elim h1 h2
  show Run.done ((Run.start s).dbCqHead f h v) = _
  simp only [Run.dbCqHead, Run.fur_eq, Run.start_now, if_neg runs, hv, if_true, Run.done_next]

theorem execDbCqHead_beyond (hr : s.reaches f 0x20038 = true)
    (ha : (s.furrow f).ctx[h].rings.state = .active ∨ (s.furrow f).ctx[h].rings.state = .draining)
    (hv : (s.furrow f).ctx[h].rings.headOk v = false) :
    exec (.dbCqHead f h v) s = .next (s.setFurrow f ((s.furrow f).badDoorbell h v)) := by
  have runs : ¬ (!s.reaches f 0x20038 ∨ ((s.furrow f).ctx[h].rings.state ≠ .active ∧ (s.furrow f).ctx[h].rings.state ≠ .draining)) := by
    rw [hr]
    rintro (no | ⟨h1, h2⟩)
    · contradiction
    · exact ha.elim h1 h2
  show Run.done ((Run.start s).dbCqHead f h v) = _
  simp only [Run.dbCqHead, Run.fur_eq, Run.start_now, if_neg runs, hv, Bool.false_eq_true, if_false, Run.done_next, Run.modFur_now]

/-- The standing of a group that has taken a head: the head is the one written. -/
theorem cqHead_taken {g : Rings} (hg : (s.furrow f).ctx[h].rings = g) (t : State)
    (ht : t = (((Run.start s).modFur f fun c => c.modRings h fun g => { g with cqHead := v }).drainHolding f h 256).now) :
    (t.furrow f).ctx[h].rings.cqHead = v ∧ (t.furrow f).ctx[h].rings.state = g.state ∧
      (t.furrow f).ctx[h].rings.badDoorbell = g.badDoorbell := by
  have kept := Run.drainHolding_stance f h h 256 ((Run.start s).modFur f fun c => c.modRings h fun g => { g with cqHead := v })
  rw [← ht, Run.modFur_now, State.furrow_setFurrow_same, Furrow.stance, Furrow.stance, Furrow.modRings_same, Run.start_now, hg] at kept
  simp only [Prod.mk.injEq] at kept
  obtain ⟨-, ⟨hstate, hhead, hflag⟩, -⟩ := kept
  exact ⟨hhead, hstate, hflag⟩

theorem execDbSqTail_outside (hn : (s.furrow f).ctx[h].rings.state ≠ .active) : exec (.dbSqTail f h v) s = .next s :=
  done_modFur_self (by simp only [if_pos hn, ite_self])

theorem execDbCqHead_outside (ha : (s.furrow f).ctx[h].rings.state ≠ .active) (hd : (s.furrow f).ctx[h].rings.state ≠ .draining) :
    exec (.dbCqHead f h v) s = .next s := by
  have void : (Run.start s).dbCqHead f h v = Run.start s := if_pos (.inr ⟨ha, hd⟩)
  exact congrArg Run.done void

theorem execDbCancel_outside {tag : Tag} (ha : (s.furrow f).ctx[h].rings.state ≠ .active)
    (hd : (s.furrow f).ctx[h].rings.state ≠ .draining) : exec (.dbCancel f h tag) s = .next s :=
  done_modFur_self (by simp only [if_pos (And.intro ha hd), ite_self])

/-- A cancel while nothing that it could still reach is to be fetched: the group drains, or has fetched up to its tail. -/
theorem execDbCancel_fetched {tag : Tag} (hr : s.reaches f 0x20038 = true)
    (hs : (s.furrow f).ctx[h].rings.state = .draining ∨ ((s.furrow f).ctx[h].rings.state = .active ∧
      (s.furrow f).ctx[h].rings.sqHead = (s.furrow f).ctx[h].rings.sqTail)) :
    exec (.dbCancel f h tag) s = .next (s.setFurrow f ((s.furrow f).cancelTag f h tag)) :=
  done_modFur (by
    obtain hd | ⟨ha, he⟩ := hs
    · simp only [Run.start_now, hr, hd]
      rfl
    · simp [hr, ha, he, -Fin.getElem_fin])

theorem execDbCancel_kept {tag : Tag} (hr : s.reaches f 0x20038 = true) (ha : (s.furrow f).ctx[h].rings.state = .active)
    (hn : (s.furrow f).ctx[h].rings.sqHead ≠ (s.furrow f).ctx[h].rings.sqTail) :
    exec (.dbCancel f h tag) s = .next (s.setFurrow f (((s.furrow f).cancelTag f h tag).modRings h fun g =>
      { g with kept := g.kept ++ [(tag, (s.furrow f).ctx[h].rings.sqTail)] })) :=
  done_modFur (by
    have same : ((s.furrow f).cancelTag f h tag).ctx[h].rings = (s.furrow f).ctx[h].rings := Furrow.cancelTag_rings _ f h h tag
    simp only [Run.start_now, hr, ha, hn, Bool.not_true, Bool.false_eq_true, if_false, ne_eq, not_true_eq_false, false_and, not_false_eq_true,
      and_self, if_true]
    exact Furrow.modRings_congr (by rw [same]))

theorem Run.drainHolding_of_none_held {r : Run s₀} (n : Nat) (hh : (r.now.furrow f).ctx[h].rings.holding = []) : r.drainHolding f h n = r := by
  cases n with
  | zero => rfl
  | succ n => simp only [Run.drainHolding, Run.fur_eq, hh]

end

/-- Settles O12. -/
theorem doorbellAcceptedOrFlagged : Obligations.DoorbellAcceptedOrFlagged := by
  intro f h v s hr active g flagged page
  have flags : flagged (.next (s.setFurrow f ((s.furrow f).badDoorbell h v))) := by
    refine ⟨_, rfl, ?_⟩
    rw [State.furrow_setFurrow_same]
    exact ⟨rfl, (s.furrow f).badDoorbell_flagged h v⟩
  refine ⟨⟨?_, ?_, ?_⟩, execDbSqTail_within hr active, fun beyond => ?_, fun inRing past => ⟨?_, fun empty => ?_⟩, fun beyond => ?_⟩
  · exact (execRegisterWrite_bar2 0x000 hr (by decide) rfl).trans (congrArg Run.done (Run.doorbell_sqTail _ f h v))
  · exact (execRegisterWrite_bar2 0x008 hr (by decide) rfl).trans (congrArg Run.done (Run.doorbell_cqHead _ f h v))
  · exact (execRegisterWrite_bar2 0x010 hr (by decide) rfl).trans (congrArg Run.done (Run.doorbell_cancel _ f h v))
  · rw [execDbSqTail_beyond hr active beyond]
    exact flags
  · obtain ⟨hhead, hstate, hflag⟩ := cqHead_taken (v := v) (f := f) (h := h) rfl _ rfl
    exact ⟨_, execDbCqHead_within hr (.inl active) ((Rings.headOk_iff g).2 ⟨inRing, past⟩), hhead, hstate.trans active, hflag⟩
  · rw [execDbCqHead_within hr (.inl active) ((Rings.headOk_iff g).2 ⟨inRing, past⟩), Run.drainHolding_of_none_held]
    · rfl
    · rw [Run.modFur_now, State.furrow_setFurrow_same, Furrow.modRings_same]
      exact empty
  · rw [execDbCqHead_beyond hr (.inl active) (Rings.headOk_eq_false beyond)]
    exact flags

/-- Settles O13. -/
theorem doorbellsOutsideActive : Obligations.DoorbellsOutsideActive := by
  intro f h v tag s g
  refine ⟨fun closed => ?_, fun draining => execDbSqTail_outside (by rw [draining]; decide),
    fun draining hr => ⟨fun inRing past => ?_, fun beyond => ?_, execDbCancel_fetched hr (.inl draining)⟩⟩
  · have noneActive : g.state ≠ .active := by obtain e | e := closed <;> rw [e] <;> decide
    have noneDraining : g.state ≠ .draining := by obtain e | e := closed <;> rw [e] <;> decide
    exact ⟨execDbSqTail_outside noneActive, execDbCqHead_outside noneActive noneDraining, execDbCancel_outside noneActive noneDraining⟩
  · obtain ⟨hhead, hstate, hflag⟩ := cqHead_taken (v := v) (f := f) (h := h) rfl _ rfl
    exact ⟨_, execDbCqHead_within hr (.inr draining) ((Rings.headOk_iff g).2 ⟨inRing, past⟩), hhead, hstate.trans draining, hflag⟩
  · refine ⟨_, execDbCqHead_beyond hr (.inr draining) (Rings.headOk_eq_false beyond), ?_⟩
    obtain ⟨hctx, -, hseq, -⟩ := (s.furrow f).badDoorbell_flagged h v
    rw [State.furrow_setFurrow_same]
    exact ⟨hctx, hseq, rfl, rfl⟩

end Sys2Proof.Machine
end

section
namespace Sys2Proof.Machine

variable {s₀ : State}

/-! ### Interrupt vectors (R64) -/

/-- A furrow with one of its vectors replaced. -/
def Furrow.setVector (c : Furrow) (n : Fin 65) (v : Msix) : Furrow := { c with msix := c.msix.set n v }

@[simp] theorem Furrow.setVector_same (c : Furrow) (n : Fin 65) (v : Msix) : (c.setVector n v).msix[n] = v := by
  simp [Furrow.setVector]

theorem Furrow.setVector_other (c : Furrow) (n m : Fin 65) (v : Msix) (hm : m ≠ n) : (c.setVector n v).msix[m] = c.msix[m] := by
  have : n.val ≠ m.val := fun e => hm (Fin.ext e.symm)
  simp [Furrow.setVector, this]

/-- A firing: the message is sent, or the pending bit stands for it, and the gap and the count start again. -/
theorem Msix.fire_fields (v : Msix) (ns : W64) (pasid : Option (BitVec 20)) :
    (v.fire ns pasid).sent = (if v.masked then v.sent else v.sent + 1) ∧ (v.fire ns pasid).pendingBit = (v.pendingBit || v.masked) ∧
      (v.fire ns pasid).since = 0 ∧ (v.fire ns pasid).lastFire = some ns := by
  unfold Msix.fire
  cases v.masked <;> simp

/-- An unmasking: a pending message is sent, and neither the gap nor the count starts again. -/
theorem Msix.unmask_fields (v : Msix) (pasid : Option (BitVec 20)) :
    (v.unmask pasid).masked = false ∧ (v.unmask pasid).pendingBit = false ∧
      (v.unmask pasid).sent = (if v.pendingBit then v.sent + 1 else v.sent) ∧ (v.unmask pasid).lastFire = v.lastFire ∧
      (v.unmask pasid).since = v.since := by
  unfold Msix.unmask
  cases v.pendingBit <;> simp

section
variable {f : FurrowIx} {n : Fin 65} {s : State}

theorem execMsixFire_due (he : ((s.furrow f).irqOf n).1 = true)
    (hd : (s.furrow f).msix[n].due (s.furrow f).ns ((s.furrow f).irqOf n).2.1 ((s.furrow f).irqOf n).2.2 = true) :
    exec (.msixFire (.furrow f) n) s = .next (s.setFurrow f ((s.furrow f).setVector n
      ((s.furrow f).msix[n].fire (s.furrow f).ns ((s.furrow f).vectorPasid n)))) :=
  done_modFur (if_pos (Bool.and_eq_true_iff.2 ⟨he, hd⟩))

theorem execMsixFire_early (hn : ((s.furrow f).irqOf n).1 = false ∨
    (s.furrow f).msix[n].due (s.furrow f).ns ((s.furrow f).irqOf n).2.1 ((s.furrow f).irqOf n).2.2 = false) :
    exec (.msixFire (.furrow f) n) s = .next s :=
  done_modFur_self (if_neg (by
    intro both
    obtain ⟨he, hd⟩ := Bool.and_eq_true_iff.1 both
    exact hn.elim (fun h => absurd (he.symm.trans h) (by decide)) fun h => absurd (hd.symm.trans h) (by decide)))

theorem execMsixUnmask_lost (fn : Function) (hc : s.hdl.carries = false) : exec (.msixUnmask fn n) s = .next s := by
  show execMsixUnmask fn n s = _
  simp [execMsixUnmask, hc]

theorem execMsixUnmask_furrow (hc : s.hdl.carries = true) : exec (.msixUnmask (.furrow f) n) s =
    .next (s.setFurrow f ((s.furrow f).setVector n ((s.furrow f).msix[n].unmask ((s.furrow f).vectorPasid n)))) := by
  show execMsixUnmask (.furrow f) n s = _
  simp only [execMsixUnmask, hc, Bool.not_true, Bool.false_eq_true, if_false]
  exact done_modFur rfl

theorem execMsixUnmask_pf0 (hc : s.hdl.carries = true) (m : Fin 4) (hm : n.val = m.val) : exec (.msixUnmask .pf0 n) s =
    .next { s with hdl := { s.hdl with msix := s.hdl.msix.set m (s.hdl.msix[m].unmask none) } } := by
  have hlt : n.val < 4 := hm ▸ m.isLt
  obtain rfl : m = ⟨n.val, hlt⟩ := Fin.ext hm.symm
  show execMsixUnmask .pf0 n s = _
  simp only [execMsixUnmask, hc, Bool.not_true, Bool.false_eq_true, if_false, hlt, dite_true]
  rfl

end

/-- Settles O18. -/
theorem vectorFiresOrGoesPending : Obligations.VectorFiresOrGoesPending := by
  intro f n s
  refine ⟨fun en due => ⟨_, execMsixFire_due en due, ?_⟩, execMsixFire_early, execMsixUnmask_lost _,
    fun carries => ⟨_, execMsixUnmask_furrow carries, ?_⟩⟩
  · obtain ⟨sent, pending, since, last⟩ := (s.furrow f).msix[n].fire_fields (s.furrow f).ns ((s.furrow f).vectorPasid n)
    rw [State.furrow_setFurrow_same, Furrow.setVector_same]
    exact ⟨sent, pending, since, last, fun m hm => Furrow.setVector_other _ n m _ hm, rfl, rfl, rfl⟩
  · obtain ⟨masked, pending, sent, last, since⟩ := (s.furrow f).msix[n].unmask_fields ((s.furrow f).vectorPasid n)
    rw [State.furrow_setFurrow_same, Furrow.setVector_same]
    exact ⟨masked, pending, sent, last, since, rfl, execMsixUnmask_pf0 carries⟩

end Sys2Proof.Machine
end

section
namespace Sys2Proof.Machine

variable {s₀ : State}

/-! ### Control descriptors (R65, R66, R68) -/

section
variable {f : FurrowIx} {h : Handle} {tag : Tag} {q : Request} {s : State} {op : Byte}

theorem runDesc_atWork (hq : (s.furrow f).atWork h tag op = some q) (work : Request → Run s → Run s × Ending) :
    runDesc op f h tag s work = .next ((work q (Run.start s)).1.engineEnds f h tag (work q (Run.start s)).2).now := by
  simp only [runDesc, Run.desc, Run.fur_eq, Run.start_now, hq, Run.done_next]

theorem runFence_ready (hq : (s.furrow f).atWork h tag op = some q) (ho : q.origin = none) {ready : Request → Bool} (hr : ready q = true) :
    runFence op f h tag ready s = .next (((Run.start s).signal f h q.desc).engineEnds f h tag (Ending.ok 0 0)).now := by
  simp only [runFence, hq, hr, ho, if_true, Option.isSome_none, Bool.false_eq_true, if_false, Run.done_next]

theorem runFence_waits (hq : (s.furrow f).atWork h tag op = some q) {ready : Request → Bool} (hr : ready q = false) :
    runFence op f h tag ready s = .next s := by
  simp only [runFence, hq, hr, Bool.false_eq_true, if_false, Run.done_next, Run.start_now]

/-- What a fence's signal leaves in host memory: nothing for address 0, or while the host port is lost. -/
theorem Run.signal_now (d : List Byte) : ((Run.start s).signal f h d).now =
    { s with host := if df d 16 8 = 0 ∨ s.hdl.carries = false then s.host
      else s.host.write ((s.furrow f).hostAt h (df d 16 8)) (bytesAt d 24 8) } := by
  unfold Run.signal Run.toHost
  by_cases h0 : df d 16 8 = 0
  · simp [h0]
  · cases hc : s.hdl.carries
    · simp [h0, hc]
    · simp [h0, hc]
      rfl

end

/-- Settles O24: a NOP has nothing to wait for and signals nothing; a fence signals and ends when it is ready. -/
theorem fencesWaitThenSignal : Obligations.FencesWaitThenSignal := by
  intro f h tag q s ho c ends signalled
  have ended : ∀ {op : Byte} {r : Run s} {host : Mem}, c.atWork h tag op = some q → r.now = { s with host := host } →
      ends (.next (r.engineEnds f h tag (Ending.ok 0 0)).now) host := by
    intro op r host hq hr
    obtain ⟨request, -⟩ := Furrow.atWork_is hq
    obtain ⟨ehost, ehdl, -, -, others⟩ := r.engineEnds_onlyFurrow f h tag (Ending.ok 0 0)
    refine ⟨_, rfl, Run.engineEnds_ended (failed_ok 0 0) (q := q) ?_, ?_, ?_, ?_, fun g hg => ?_⟩
    · rw [hr]; exact request
    · rw [ehost, hr]
    · rw [Run.engineEnds_mems, hr]
    · rw [ehdl, hr]
    · rw [(others g hg).1, hr]; rfl
  refine ⟨fun hq => ?_, fun hq gone => ?_, fun hq waits => ?_, fun hq dones gone quiet => ?_, fun hq waits => ?_⟩
  · rw [show exec (.nop f h tag) s = _ from runDesc_atWork hq _]
    exact ended hq rfl
  · rw [show exec (.fence f h tag) s = _ from runFence_ready hq ho gone]
    exact ended hq (Run.signal_now q.desc)
  · exact runFence_waits hq waits
  · rw [show exec (.barrier f h tag) s = _ from runFence_ready hq ho (by rw [dones, ho, gone, quiet]; rfl)]
    exact ended hq (Run.signal_now q.desc)
  · refine runFence_waits hq ?_
    rw [ho]
    obtain d | e | g := waits
    · cases hd : q.dones with
      | nil => exact absurd hd d
      | cons x xs => rfl
    · rw [e]; simp
    · rw [g, Bool.and_false]

end Sys2Proof.Machine
end

section
namespace Sys2Proof.Machine

variable {s₀ : State}

/-! ### Cancels (R51, R88, R89) -/

theorem Furrow.request?_not_box {c : Furrow} {h : Handle} {tag : Tag} {q : Request} (hq : c.request? h tag = some q) (ht : tag ≠ boxTag) :
    q.h = h ∧ q.tag = tag ∧ q.isBox = false := by
  obtain ⟨hh, htag, hbox⟩ := c.request?_is h tag q hq
  exact ⟨hh, htag, by simpa [ht] using hbox⟩

/-- A tag that one request of the handle bears matches that one request. -/
theorem Furrow.matching_singleton {c : Furrow} {h : Handle} {tag : Tag} {q : Request} (hq : c.request? h tag = some q) (ht : tag ≠ boxTag)
    (h1 : (c.reqs.filter fun p => p.h = h && p.tag = tag).length = 1) :
    ((c.outstanding h).filter fun p => tag = 0xFFFFFFFF || p.tag = tag) = [q] := by
  obtain ⟨hh, htag, hbox⟩ := Furrow.request?_not_box hq ht
  have among : q ∈ c.reqs.filter fun p => p.h = h && p.tag = tag :=
    List.mem_filter.2 ⟨List.mem_of_find?_eq_some hq, by simp [hh, htag]⟩
  obtain ⟨x, hx⟩ := List.length_eq_one_iff.1 h1
  obtain rfl : q = x := by rwa [hx, List.mem_singleton] at among
  have both : ((c.outstanding h).filter fun p => tag = 0xFFFFFFFF || p.tag = tag) =
      (c.reqs.filter fun p => p.h = h && p.tag = tag).filter fun p => !p.isBox := by
    have ht' : (tag = 0xFFFFFFFF) = False := eq_false ht
    simp only [Furrow.outstanding, List.filter_filter, ht', decide_false, Bool.false_or, Bool.decide_and, Bool.decide_eq_true]
    exact List.filter_congr fun p _ => by ac_rfl
  rw [both, hx]
  simp [hbox]

theorem Furrow.leaveStep_of_no_steps {c : Furrow} (hs : c.steps = []) (h : Handle) (tag : Tag) : c.leaveStep h tag = c := by
  unfold Furrow.leaveStep
  cases c
  simp_all

/-- A running request without a step or a member's part aborts at its cancel. -/
theorem Furrow.cancelReq_running {c : Furrow} {f : FurrowIx} {h : Handle} {tag : Tag} {q : Request} (hq : c.request? h tag = some q)
    (hp : q.phase = .running) (hg : q.gen = none) (hd : q.dones = []) (hs : c.steps = []) :
    c.cancelReq f h tag = (c.modReq h tag fun q => q.abortAt c.ns).modCtx h Context.updateNs := by
  have uncommitted : q.inCommit = false := by simp [Request.inCommit, hg]
  have able : q.cancellable = true := by simp [Request.cancellable, uncommitted, hp]
  simp only [Furrow.cancelReq, hq, uncommitted, able, Bool.false_eq_true, if_false, if_true, Furrow.cancelMembers, hd, List.foldl_nil]
  exact Furrow.leaveStep_of_no_steps (c := (c.modReq h tag fun q => q.abortAt c.ns).modCtx h Context.updateNs) hs h tag

theorem Furrow.cancelTag_running {c : Furrow} {f : FurrowIx} {h : Handle} {tag : Tag} {q : Request} (hq : c.request? h tag = some q)
    (hp : q.phase = .running) (hg : q.gen = none) (hd : q.dones = []) (hs : c.steps = []) (ht : tag ≠ boxTag)
    (h1 : (c.reqs.filter fun p => p.h = h && p.tag = tag).length = 1) :
    (c.cancelTag f h tag).request? h tag = some (q.abortAt c.ns) := by
  obtain ⟨-, htag, -⟩ := Furrow.request?_not_box hq ht
  have one : c.cancelTag f h tag = c.cancelReq f h tag := by
    rw [Furrow.cancelTag, Furrow.matching_singleton hq ht h1, List.foldl_cons, List.foldl_nil, htag]
  rw [one, Furrow.cancelReq_running hq hp hg hd hs]
  exact Furrow.request?_modReq_of_keepsName (g := fun q => q.abortAt c.ns) (fun _ => ⟨rfl, rfl, rfl⟩) hq

section
variable {f : FurrowIx} {h : Handle} {tag : Tag} {q : Request} {s : State}

theorem execCancelAbortDone_aborted (ht : tag ≠ boxTag) (hq : (s.furrow f).request? h tag = some q) (hp : q.phase = .aborting)
    (hd : q.dones = []) : exec (.cancelAbortDone f h tag) s = .next (((((Run.start s).ruin f q).ruinHome f q).when (decide (q.op = 0x73))
      fun r => r.unforward f q).finishPost f h tag (.bare Status.cancelled 0)).now := by
  show execCancelAbortDone f h tag s = _
  simp only [execCancelAbortDone, if_neg ht, hq, hp, hd, List.isEmpty_nil, and_self, if_true, Run.done_next]

theorem execCancelAbortDone_waits (ht : tag ≠ boxTag) (hq : (s.furrow f).request? h tag = some q) (hn : q.phase ≠ .aborting ∨ q.dones ≠ []) :
    exec (.cancelAbortDone f h tag) s = .next s := by
  have busy : ¬ (q.phase = .aborting ∧ q.dones.isEmpty) := by
    rw [List.isEmpty_iff]
    tauto
  show execCancelAbortDone f h tag s = _
  simp only [execCancelAbortDone, if_neg ht, hq, if_neg busy, Run.done_next, Run.start_now]

end

/-- Settles O15. -/
theorem cancelsReachAndEnd : Obligations.CancelsReachAndEnd := by
  refine ⟨fun f h tag s hr active => ⟨fun fetched => execDbCancel_fetched hr (.inr ⟨active, fetched⟩), execDbCancel_kept hr active,
    fun q hq hp hg hd hs ht h1 => ?_⟩, fun f h tag q s ht hq => ⟨execCancelAbortDone_aborted ht hq, execCancelAbortDone_waits ht hq⟩⟩
  have aborts := Furrow.cancelTag_running (f := f) hq hp hg hd hs ht h1
  by_cases fetched : (s.furrow f).ctx[h].rings.sqHead = (s.furrow f).ctx[h].rings.sqTail
  · refine ⟨_, execDbCancel_fetched hr (.inr ⟨active, fetched⟩), ?_⟩
    rw [State.furrow_setFurrow_same, aborts]
  · refine ⟨_, execDbCancel_kept hr active fetched, ?_⟩
    rw [State.furrow_setFurrow_same]
    exact aborts

/-! ### The start and the end of a descriptor (R53, R67, R85, R476) -/

section
variable {f : FurrowIx} {h : Handle} {tag : Tag} {place : Place} {q : Request} {s : State}

theorem execDescriptorStart_unfit (ht : tag ≠ boxTag) (hq : (s.furrow f).request? h tag = some q)
    (hf : (s.furrow f).placeFits q place = false) : exec (.descriptorStart f h tag place) s = .next s := by
  show execDescriptorStart f h tag place s = _
  simp only [execDescriptorStart, if_neg ht, hq, hf, Bool.not_false, if_true, Run.done_next, Run.start_now]

/-- A request as its present descriptor comes to a place: with the place, and with the core whose scratch it needs. -/
def Request.comesTo (q : Request) (place : Place) : Request :=
  { { q with place := q.placeOn place } with needs := ({ q with place := q.placeOn place } : Request).scratchCore }

/-- What the checks at its start make of such a request: it is launched, or its descriptor ends with the refusal. -/
def Run.startChecked (r : Run s₀) (f : FurrowIx) (h : Handle) (tag : Tag) (place : Place) (p : Request) : Run s₀ :=
  match r.startFail f p with
  | some x => (if p.op = 0x50 then r.noteLoad (p.eng f) p.desc else r).engineEnds f h tag (startRefusal p.op x).ending
  | none => r.launch f p place

/-- A queued descriptor of this furrow's own ring, whose turn has come at a place that fits it: the checks at its start decide. -/
theorem execDescriptorStart_turn (ht : tag ≠ boxTag) (hq : (s.furrow f).request? h tag = some q) (hp : q.phase = .queued)
    (ho : q.origin = none) (hf : (s.furrow f).placeFits q place = true) (hm : (s.furrow f).mayStart q = true) :
    exec (.descriptorStart f h tag place) s = .next ((Run.start s).startChecked f h tag place (q.comesTo place)).now := by
  have notRunning : ¬ q.phase = .running := by rw [hp]; exact fun e => nomatch e
  have turn : ¬ (q.phase ≠ .queued ∨ !(s.furrow f).mayStart q) := by rw [hp, hm]; decide
  have own : ¬ q.origin.isSome = true := by rw [ho]; decide
  show execDescriptorStart f h tag place s = _
  simp only [execDescriptorStart, if_neg ht, hq, hf, Bool.not_true, Bool.false_eq_true, if_false, if_neg notRunning, if_neg turn, if_neg own,
    Run.done_next] <;> rfl

/-- A descriptor that ended DONE before the last of its run hands over to the next. -/
theorem execDescriptorComplete_next {e : Ending} (ht : tag ≠ boxTag) (hq : (s.furrow f).request? h tag = some q)
    (hp : q.phase = .engineDone e) (hd : q.dones = []) (hs : (q.combine e).status = Status.done) (hi : q.idx + 1 < q.descs.length) :
    exec (.descriptorComplete f h tag) s = .next (s.setFurrow f
      (((s.furrow f).modCtx h Context.updateNs).modReq h tag fun q => q.nextDesc (s.furrow f).ns)) := by
  show execDescriptorComplete f h tag s = _
  simp only [execDescriptorComplete, if_neg ht, hq, hp, hd, hs, hi, List.isEmpty_nil, Bool.not_true, Bool.false_eq_true, if_false, and_self,
    if_true, Run.done_next, Run.modFur_now, State.furrow_setFurrow_same, State.setFurrow_setFurrow, Run.start_now, Furrow.modCtx_ns]

theorem execDescriptorComplete_last {e : Ending} (ht : tag ≠ boxTag) (hq : (s.furrow f).request? h tag = some q)
    (hp : q.phase = .engineDone e) (hd : q.dones = []) (hl : (q.combine e).status ≠ Status.done ∨ q.descs.length ≤ q.idx + 1) :
    exec (.descriptorComplete f h tag) s = .next
      (((((Run.start s).modFur f fun c => c.modCtx h Context.updateNs).closeStream f h tag (q.combine e).status).modFur f fun c =>
        c.finish f h tag (q.combine e)).when (decide ((q.combine e).status = Status.dataError)) fun r => r.weighHealth f).now := by
  have last : ¬ ((q.combine e).status = Status.done ∧ q.idx + 1 < q.descs.length) := by
    rintro ⟨hs, hi⟩
    exact hl.elim (· hs) fun _ => by omega
  show execDescriptorComplete f h tag s = _
  simp only [execDescriptorComplete, if_neg ht, hq, hp, hd, List.isEmpty_nil, Bool.not_true, Bool.false_eq_true, if_false, if_neg last,
    Run.done_next]

theorem Request.nextDesc_keeps (q : Request) (now : W64) :
    (q.nextDesc now).h = q.h ∧ (q.nextDesc now).tag = q.tag ∧ (q.nextDesc now).isBox = q.isBox ∧ (q.nextDesc now).idx = q.idx + 1 ∧
      (q.nextDesc now).phase = .queued := by
  unfold Request.nextDesc
  dsimp only
  split <;> exact ⟨rfl, rfl, rfl, rfl, rfl⟩

end

/-- Settles O16. -/
theorem descriptorsStartAndEnd : Obligations.DescriptorsStartAndEnd := by
  refine ⟨fun f h tag place q s ht hq hp ho => ⟨execDescriptorStart_unfit ht hq, fun hf hm => ⟨fun passes => ?_, fun x fails => ?_⟩⟩,
    fun f h tag q e s ht hq hp hd => ⟨fun done more => ?_, execDescriptorComplete_last ht hq hp hd⟩⟩
  · rw [execDescriptorStart_turn ht hq hp ho hf hm, Run.startChecked]
    unfold Request.comesTo
    rw [passes]
  · rw [execDescriptorStart_turn ht hq hp ho hf hm, Run.startChecked]
    unfold Request.comesTo
    rw [fails]
  · obtain ⟨-, -, -, idx, phase⟩ := q.nextDesc_keeps (s.furrow f).ns
    refine ⟨_, execDescriptorComplete_next ht hq hp hd done more, ?_, idx, phase, State.setFurrow_mem _ _ _⟩
    rw [State.furrow_setFurrow_same]
    refine Furrow.request?_modReq_of_keepsName (c := (s.furrow f).modCtx h Context.updateNs) (fun p => ?_) hq
    obtain ⟨nh, ntag, nbox, -⟩ := p.nextDesc_keeps (s.furrow f).ns
    exact ⟨nh, ntag, nbox⟩

end Sys2Proof.Machine
end

section
namespace Sys2Proof.Machine

variable {s₀ : State}

/-! ### What work in a furrow's memories leaves alone of its context table -/

/-- The context table and the error ring. -/
def Furrow.table (c : Furrow) : Vector Context 64 × ErrRing := (c.ctx, c.err)

theorem Furrow.stance_of_table {c d : Furrow} (h : Handle) (e : c.table = d.table) : c.stance h = d.stance h := by
  obtain ⟨hctx, herr⟩ := Prod.mk.inj e
  rw [Furrow.stance, Furrow.stance, hctx, herr]

theorem Furrow.mend_table (c : Furrow) (p : Space × Nat × Nat) : (c.mend p).table = c.table := by
  unfold Furrow.mend
  split <;> rfl

theorem Run.modFur_table (r : Run s₀) (f : FurrowIx) (g : Furrow → Furrow) (hg : ∀ c, (g c).table = c.table) :
    ((r.modFur f g).now.furrow f).table = (r.now.furrow f).table := by
  rw [Run.modFur_now, State.furrow_setFurrow_same, hg]

theorem Run.toHost_table (r : Run s₀) (f : FurrowIx) (a : Nat) (bs : List Byte) :
    ((r.toHost a bs).now.furrow f).table = (r.now.furrow f).table := by rw [Run.toHost_furrow]

theorem Run.write_table (r : Run s₀) (f : FurrowIx) (sp : Space) (a : Nat) (bs : List Byte) :
    ((r.write sp a bs).now.furrow f).table = (r.now.furrow f).table := by rw [Run.write_now, State.setMem_furrow]

theorem Run.blank_table (r : Run s₀) (f : FurrowIx) (sp : Space) (a n : Nat) :
    ((r.blank f sp a n).now.furrow f).table = (r.now.furrow f).table := by
  refine (Run.modFur_table _ f _ fun c => c.mend_table _).trans ?_
  rw [Run.zero_now, State.setMem_furrow]

theorem Run.dirty_table (r : Run s₀) (f : FurrowIx) (h : Handle) (tier off n : Nat) :
    ((r.dirty f h tier off n).now.furrow f).table = (r.now.furrow f).table := by
  refine Run.each_keeps (fun t => (t.furrow f).table) _ (fun r a => ?_) _ r
  dsimp only
  split
  · refine (Run.modFur_table _ f _ (by intro c; rfl)).trans ?_
    refine Run.each_keeps (fun t => (t.furrow f).table) _ (fun r j => ?_) _ r
    split
    · rfl
    · exact Run.write_table r f _ _ _
  · rfl

theorem Run.put_table (r : Run s₀) (f : FurrowIx) (h : Handle) (core tier off n : Nat) (img : List Host.Cell) :
    ((r.put f h core tier off n img).now.furrow f).table = (r.now.furrow f).table := by
  refine foldl_keeps (fun p : Run s₀ × Nat => (p.1.now.furrow f).table) _ (fun p q => ?_) _ (r, 0)
  refine (Run.modFur_table _ f _ fun c => c.mend_table _).trans ?_
  rw [Run.paste_now, State.setMem_furrow]

theorem Run.store_table (r : Run s₀) (f : FurrowIx) (h : Handle) (core tier off : Nat) (bs : List Byte) :
    ((r.store f h core tier off bs).now.furrow f).table = (r.now.furrow f).table := by
  unfold Run.store Run.storeCells
  refine (Run.put_table _ f h core tier off _ _).trans ?_
  split
  · exact r.dirty_table f h tier off _
  · rfl

theorem Run.ruin_table (r : Run s₀) (f : FurrowIx) (q : Request) : ((r.ruin f q).now.furrow f).table = (r.now.furrow f).table := by
  refine Run.each_keeps (fun t => (t.furrow f).table) _ (fun r x => ?_) _ r
  dsimp only
  split
  · rfl
  · split
    · exact Run.toHost_table (r.freeBytes x.2.2.2).2 f _ _
    · exact Run.store_table (r.freeBytes x.2.2.2).2 f _ _ _ _ _

theorem Run.clearCores_table (r : Run s₀) (f : FurrowIx) (h : Handle) :
    ((r.clearCores f h).now.furrow f).table = (r.now.furrow f).table := by
  refine (Run.modFur_table _ f _ (by intro c; rfl)).trans ?_
  exact Run.each_keeps (fun t => (t.furrow f).table) _ (fun r k => Run.blank_table r f _ _ _) _ r

theorem Run.zeroUnits_table (r : Run s₀) (f : FurrowIx) (h : Handle) : ((r.zeroUnits f h).now.furrow f).table = (r.now.furrow f).table :=
  Run.each_keeps (fun t => (t.furrow f).table) (fun r u => r.blank f (.t1 f) (u * mib) mib) (fun r _ => Run.blank_table r f _ _ _) _ r

/-! ### A context's requests end with its teardown (R91) -/

theorem Run.post_stance (r : Run s₀) (f : FurrowIx) (h k : Handle) (x : Record) :
    ((r.post f k x).now.furrow f).stance h = (r.now.furrow f).stance h := by
  unfold Run.post
  dsimp only
  split
  · exact r.writeRecord_stance f h k x false
  · rw [Run.modFur_now, State.furrow_setFurrow_same]
    have held := Furrow.modRings_stance (r.now.furrow f) h k (fun g => { g with holding := g.holding ++ [x] }) fun _ => rfl
    split <;> exact held

theorem Run.postFinal_stance (r : Run s₀) (f : FurrowIx) (h k : Handle) (tag : Tag) :
    ((r.postFinal f k tag).now.furrow f).stance h = (r.now.furrow f).stance h := by
  unfold Run.postFinal
  split
  · rfl
  · dsimp only
    split
    · split
      · exact r.post_stance f h k _
      · rfl
    · rfl

theorem Run.closeStream_stance (r : Run s₀) (f : FurrowIx) (h k : Handle) (tag : Tag) (st : Byte) :
    ((r.closeStream f k tag st).now.furrow f).stance h = (r.now.furrow f).stance h := by
  unfold Run.closeStream
  dsimp only
  split
  · split <;> rw [Run.toHost_furrow]
  · rfl

theorem Run.faultEnds_stance (r : Run s₀) (f : FurrowIx) (h k : Handle) (cause : FaultCause) (q : Request) :
    ((r.faultEnds f k cause q).now.furrow f).stance h = (r.now.furrow f).stance h := by
  have ruins : (((if q.isEnded then r else r.ruin f q) : Run s₀).now.furrow f).stance h = (r.now.furrow f).stance h := by
    split
    · rfl
    · exact Furrow.stance_of_table h (r.ruin_table f q)
  unfold Run.faultEnds
  dsimp only
  generalize (if q.isEnded then r else r.ruin f q) = r₁ at ruins
  generalize (if q.phase = Phase.aborting then Status.cancelled else Status.contextFault) = st
  have ends : ∀ e : Ending, ((((if cause = .completionWrite ∨ cause = .hostAbort then r₁ else r₁.closeStream f k q.tag st).modFur f
      fun c => c.finish f k q.tag e) : Run s₀).now.furrow f).stance h = (r₁.now.furrow f).stance h := fun e => by
    rw [Run.modFur_now, State.furrow_setFurrow_same, Furrow.finish_stance]
    split
    · rfl
    · exact r₁.closeStream_stance f h k q.tag st
  split
  · split
    · exact ruins
    · exact (ends _).trans ruins
  · rw [Run.postFinal_stance]
    split
    · exact ruins
    · exact (ends _).trans ruins

theorem Run.engineEnds_stance (r : Run s₀) (f : FurrowIx) (h k : Handle) (tag : Tag) (e : Ending) :
    ((r.engineEnds f k tag e).now.furrow f).stance h = (r.now.furrow f).stance h := by
  unfold Run.engineEnds
  rw [Run.modFur_now, State.furrow_setFurrow_same]
  refine (Furrow.modCtx_stance _ h k Context.updateNs fun _ => rfl).trans ?_
  split
  · split
    · exact Furrow.cancelMembers_keeps (Furrow.stance_besidePyr h) _ f _
    · rfl
  · rfl

theorem Furrow.idleSlots_table (c : Furrow) (h : Handle) : (c.idleSlots h).table = c.table := rfl

theorem Run.idleOwned_stance (r : Run s₀) (f : FurrowIx) (h k : Handle) (e : Request → Ending) :
    ((r.idleOwned f k e).now.furrow f).stance h = (r.now.furrow f).stance h := by
  unfold Run.idleOwned
  rw [Run.modFur_now, State.furrow_setFurrow_same]
  refine (Furrow.stance_of_table h (Furrow.idleSlots_table _ k)).trans ?_
  exact Run.each_keeps (fun t => (t.furrow f).stance h) (fun r (q : Request) => r.engineEnds f q.h q.tag (e q))
    (fun r q => r.engineEnds_stance f h q.h q.tag (e q)) _ r

/-- The first steps of a teardown keep the fault they began with, and raise no error. -/
theorem Run.faultRequests_keeps (r : Run s₀) (f : FurrowIx) (h : Handle) (cause : FaultCause) (addr : W64) :
    ((r.faultRequests f h cause addr).now.furrow f).ctx[h].fault = some (cause, addr) ∧
      ((r.faultRequests f h cause addr).now.furrow f).err.seq = (r.now.furrow f).err.seq := by
  have kept : ((r.faultRequests f h cause addr).now.furrow f).stance h = ((r.now.furrow f).modCtx h fun x =>
      { x with fault := some (cause, addr), rings := { x.rings with kept := [], openRun := none } }).stance h := by
    unfold Run.faultRequests
    dsimp only
    rw [Run.idleOwned_stance]
    refine (Run.each_keeps (fun t => (t.furrow f).stance h) _ (fun r q => ?_) _ _).trans ?_
    · split
      · rfl
      · exact r.faultEnds_stance f h h cause q
    · rw [Run.modFur_now, State.furrow_setFurrow_same]
  rw [Furrow.stance, Furrow.stance, Furrow.modCtx_same] at kept
  simp only [Prod.mk.injEq] at kept
  obtain ⟨⟨-, -, hfault⟩, -, hseq⟩ := kept
  exact ⟨hfault, hseq⟩

/-! ### The last steps of a teardown (R91) -/

/-- The end of a binding sends what it sends, and leaves the context without the binding. -/
theorem Furrow.endBinding_eq (c : Furrow) (f : FurrowIx) (h : Handle) :
    ∃ d : Furrow, d.table = c.table ∧ c.endBinding f h = d.modCtx h fun x => { x with spanId := 0, role := .none } := by
  unfold Furrow.endBinding
  cases c.bind? h with
  | none => exact ⟨c.modPyr fun y => { y with spans := y.spans.filter fun b => b.h ≠ h }, rfl, rfl⟩
  | some b =>
    refine ⟨_, ?_, rfl⟩
    exact foldl_keeps Furrow.table (fun (c' : Furrow) (m : MemberEntry) =>
      c'.route f { c'.packet f Kind.spanJoin m.id c.ctx[h].spanId 0 with aux := 1 })
      (fun _ _ => Furrow.route_keeps (fun _ _ => rfl) _ f _) b.entries c

theorem Furrow.tallyClose_table (c : Furrow) (f : FurrowIx) (h : Handle) (close : Nat) (goesOn : Bool) :
    (c.tallyClose f h close goesOn).table = c.table := by
  unfold Furrow.tallyClose Furrow.tallyOpen
  split
  · rfl
  · dsimp only
    split
    · split <;> rfl
    · rfl

theorem Furrow.countUe_table (c : Furrow) (e : ErrRec) : (c.countUe e).table = c.table := by
  unfold Furrow.countUe Furrow.rollCounts
  dsimp only
  split
  · split <;> rfl
  · rfl

/-- An error that is not of SEVERITY 1 takes the next SEQ, and its detection touches no context. -/
theorem Furrow.raise_seq (c : Furrow) (e : ErrRec) (ends : List (Handle × Tag)) (he : e.corrected = false) :
    (c.raise e ends).err.seq = c.err.seq + 1 ∧ (c.raise e ends).ctx = c.ctx := by
  obtain ⟨hctx, herr⟩ := Prod.mk.inj (c.countUe_table e)
  unfold Furrow.raise
  generalize c.countUe e = d at hctx herr
  have pushed : ∀ (x : ErrRec) (grave : Prop) [Decidable grave] (hs : List Handling), x.corrected = false →
      (if grave then { d.err.push x with handling := hs } else d.err.push x).seq = d.err.seq + 1 := by
    intro x grave _ hs hx
    split <;> exact (ErrRing.push_of_not_corrected d.err x hx).1
  refine ⟨?_, hctx⟩
  rw [← herr]
  exact pushed _ _ _ he

theorem teardownRecord_not_corrected (cause : FaultCause) (h : Handle) (addr : W64) (span : W32) :
    (teardownRecord cause h addr span).corrected = false := by
  cases cause <;> rfl

/-- A context as a teardown leaves it, its CTX_FAULT among it. -/
def Context.tornBy (cause : FaultCause) (addr : W64) (x : Context) : Prop :=
  x.state = .faulted ∧ x.fault = none ∧ x.rings.state = .error ∧ x.role = .none ∧ x.faultReason = BitVec.ofNat 8 (causeCode cause) ∧
    x.faultAddr = if cause = .planInvalid ∨ cause = .spanRootLost then 0 else addr.extractLsb' 12 52

/-- Step 4 of a teardown: one error record more, and CTX_FAULT with the cause and the address. -/
theorem Furrow.blamed (c : Furrow) (f : FurrowIx) (h : Handle) (cause : FaultCause) (addr : W64) {d : Furrow}
    (hd : d = ((c.raise (teardownRecord cause h addr c.ctx[h].spanId) []).tallyClose f h 0x03 true).modCtx h fun x =>
      { x with
        faultReason := BitVec.ofNat 8 (causeCode cause)
        faultAddr := if cause = .planInvalid ∨ cause = .spanRootLost then 0 else addr.extractLsb' 12 52 }) :
    d.err.seq = c.err.seq + 1 ∧ d.ctx[h].faultReason = BitVec.ofNat 8 (causeCode cause) ∧
      d.ctx[h].faultAddr = if cause = .planInvalid ∨ cause = .spanRootLost then 0 else addr.extractLsb' 12 52 := by
  obtain ⟨seq, -⟩ := c.raise_seq (teardownRecord cause h addr c.ctx[h].spanId) [] (teardownRecord_not_corrected _ _ _ _)
  obtain ⟨-, herr⟩ := Prod.mk.inj (Furrow.tallyClose_table (c.raise (teardownRecord cause h addr c.ctx[h].spanId) []) f h 0x03 true)
  subst hd
  rw [Furrow.modCtx_same, Furrow.modCtx_err, herr]
  exact ⟨seq, rfl, rfl⟩

/-- Steps 4 to 7 of a teardown leave the context torn down without a request, and one error record more. -/
theorem Run.faultRest_torn (r : Run s₀) (f : FurrowIx) (h : Handle) (cause : FaultCause) (addr : W64) :
    ((r.faultRest f h cause addr).now.furrow f).ctx[h].tornBy cause addr ∧ ((r.faultRest f h cause addr).now.furrow f).outstanding h = [] ∧
      ((r.faultRest f h cause addr).now.furrow f).err.seq = (r.now.furrow f).err.seq + 1 := by
  unfold Run.faultRest
  dsimp only
  generalize hr₁ : r.modFur f _ = r₁
  obtain ⟨seq, reason, address⟩ := Furrow.blamed (r.now.furrow f) f h cause addr (d := r₁.now.furrow f)
    (by rw [← hr₁, Run.modFur_now, State.furrow_setFurrow_same])
  have cleared : (((r₁.clearCores f h).zeroUnits f h).now.furrow f).table = (r₁.now.furrow f).table :=
    (Run.zeroUnits_table _ f h).trans (r₁.clearCores_table f h)
  rw [Run.modFur_now, State.furrow_setFurrow_same]
  generalize ((r₁.clearCores f h).zeroUnits f h).now.furrow f = c at cleared
  obtain ⟨d, hd, unbound⟩ := c.endBinding_eq f h
  rw [unbound]
  obtain ⟨hctx, herr⟩ := Prod.mk.inj (hd.trans cleared)
  have hx : d.ctx[h] = (r₁.now.furrow f).ctx[h] := congrArg (fun x : Vector Context 64 => x[h]) hctx
  refine ⟨?_, ?_, (congrArg ErrRing.seq herr).trans seq⟩
  · simp only [Furrow.modCtx_same, Furrow.idleSlots_ctx, Context.tornBy, hx, reason, address, and_self]
  · refine List.filter_eq_nil_iff.2 fun q hq own => ?_
    have other := (List.mem_filter.1 hq).2
    simp_all

section
variable {f : FurrowIx} {h : Handle} {cause : FaultCause} {addr : W64} {s : State}

/-- A fault of a context in use: the teardown goes on to its end when the records of step 3 are posted. -/
theorem execContextFault_begins (hs : (s.furrow f).ctx[h].state = .ready ∨ (s.furrow f).ctx[h].state = .member)
    (hf : (s.furrow f).ctx[h].fault = none) {r : Run s} (hr : r = (Run.start s).faultRequests f h cause addr) :
    exec (.contextFault f h cause addr) s =
      .next (if (r.fur f).faultPosted h cause then r.faultRest f h cause addr else r).now := by
  subst hr
  show execContextFault f h cause addr s = _
  simp only [execContextFault, if_pos hs, Run.teardown, Run.fur_eq, Run.start_now, hf, Option.isNone_none, if_true, Option.getD_none,
    Run.done_next]
  rfl

theorem execContextFault_void (hr : (s.furrow f).ctx[h].state ≠ .ready) (hm : (s.furrow f).ctx[h].state ≠ .member) :
    exec (.contextFault f h cause addr) s = .next s := by
  have neither : ¬ ((s.furrow f).ctx[h].state = .ready ∨ (s.furrow f).ctx[h].state = .member) := fun e => e.elim hr hm
  show execContextFault f h cause addr s = _
  simp only [execContextFault, if_neg neither, Run.done_next, Run.start_now]

/-- With nothing outstanding and nothing held, no record of step 3 is left to post. -/
theorem Run.faultRequests_posted {r : Run s₀} (ho : (r.now.furrow f).outstanding h = []) (hh : (r.now.furrow f).ctx[h].rings.holding = []) :
    ((r.faultRequests f h cause addr).fur f).faultPosted h cause = true := by
  obtain ⟨none, held⟩ := r.faultRequests_owing f h cause addr ho
  rw [Run.fur_eq, Furrow.faultPosted, none, held, hh]
  simp

theorem Furrow.mayFetch_of_fault {c : Furrow} {x : FaultCause × W64} (hf : c.ctx[h].fault = some x) : c.mayFetch h = false := by
  simp [Furrow.mayFetch, hf, -Fin.getElem_fin]

end

/-- Settles O22. -/
theorem faultingContextIsTornDown : Obligations.FaultingContextIsTornDown := by
  intro f h cause addr s c torn
  refine ⟨fun inUse fresh => ?_, execContextFault_void⟩
  obtain ⟨fault, seq⟩ := (Run.start s).faultRequests_keeps f h cause addr
  have begins := execContextFault_begins inUse fresh (cause := cause) (addr := addr) rfl
  have atOnce : c.outstanding h = [] → c.ctx[h].rings.holding = [] → _ := Run.faultRequests_posted (r := Run.start s) (cause := cause) (addr := addr)
  generalize (Run.start s).faultRequests f h cause addr = r at fault seq begins atOnce
  have ends : (r.fur f).faultPosted h cause = true → ∃ t, exec (.contextFault f h cause addr) s = .next t ∧ torn t := by
    intro posted
    rw [if_pos posted] at begins
    have done := r.faultRest_torn f h cause addr
    generalize (r.faultRest f h cause addr).now = t at begins done
    obtain ⟨⟨state, noFault, rings, role, reason, address⟩, empty, last⟩ := done
    exact ⟨t, begins, state, noFault, rings, empty, role, reason, last.trans (congrArg (· + 1) seq), address⟩
  refine ⟨ends, fun waits => ?_, fun none held => ends (atOnce none held)⟩
  rw [if_neg (by rw [waits]; decide)] at begins
  exact ⟨_, begins, fault, Furrow.mayFetch_of_fault fault⟩

end Sys2Proof.Machine
end

section
namespace Sys2Proof.Machine

variable {s₀ : State}

/-! ### What a boot leaves of a furrow's control part (R445) -/

/-- The life of a furrow, its requests, its clock and its power block. -/
def Furrow.vitals (c : Furrow) : FurState × List Request × W64 × Power := (c.life, c.reqs, c.ns, c.pwr)

theorem Furrow.tallyOpen_vitals (c : Furrow) (h : Handle) : (c.tallyOpen h).vitals = c.vitals := by
  unfold Furrow.tallyOpen
  split <;> rfl

theorem Furrow.keepHealth_vitals (c : Furrow) (g : Health → Health) : (c.keepHealth g).vitals = c.vitals := by
  unfold Furrow.keepHealth
  dsimp only
  split <;> rfl

theorem Furrow.countUe_vitals (c : Furrow) (e : ErrRec) : (c.countUe e).vitals = c.vitals := by
  unfold Furrow.countUe Furrow.rollCounts
  dsimp only
  split
  · split <;> rfl
  · rfl

theorem Furrow.raise_vitals (c : Furrow) (e : ErrRec) (ends : List (Handle × Tag)) : (c.raise e ends).vitals = c.vitals :=
  c.countUe_vitals e

theorem Furrow.openMissing_vitals (c : Furrow) : c.openMissing.vitals = c.vitals := by
  refine foldl_keeps Furrow.vitals _ (fun c h => ?_) _ c
  split
  · rfl
  · exact c.tallyOpen_vitals h

theorem Furrow.tallyCheck_vitals (c : Furrow) : c.tallyCheck.vitals = c.vitals := by
  unfold Furrow.tallyCheck
  split
  · exact Furrow.openMissing_vitals _
  · exact Furrow.raise_vitals _ _ []

/-- A boot leaves the requests, the clock and the power block as they were. -/
theorem Furrow.boot_vitals (c : Furrow) (x : Fuses) : (c.boot x).vitals = (.boot, c.reqs, c.ns, c.pwr) := by
  unfold Furrow.boot
  dsimp only
  split
  · exact (foldl_keeps Furrow.vitals (fun (c : Furrow) e => c.modSec fun z => z.logAppend e) (by intro c e; rfl) _ _).trans
      (Furrow.tallyCheck_vitals _)
  · rfl

/-! ### What a training port and a call for replacement leave of the module (R360, R437) -/

/-- The life of a furrow, its requests, its clock and power, with host memory, the furrows' memories and LOST_MAP. -/
def State.standing (s : State) (f : FurrowIx) : (FurState × List Request × W64 × Power) × Mem × Vector FurMem 8 × Byte :=
  ((s.furrow f).vitals, s.host, s.mems, s.hdl.lostMap)

theorem Run.modFur_standing (r : Run s₀) (f g : FurrowIx) (k : Furrow → Furrow) (hk : ∀ c, (k c).vitals = c.vitals) :
    (r.modFur g k).now.standing f = r.now.standing f := by
  have same : ((r.now.setFurrow g (k (r.now.furrow g))).furrow f).vitals = (r.now.furrow f).vitals := by
    by_cases e : f = g
    · subst e
      rw [State.furrow_setFurrow_same, hk]
    · rw [State.furrow_setFurrow_other _ _ _ _ e]
  exact congrArg (·, r.now.host, r.now.mems, r.now.hdl.lostMap) same

theorem Run.tryTrain_standing (r : Run s₀) (f g : FurrowIx) (p : PortIx) : (r.tryTrain g p).now.standing f = r.now.standing f :=
  r.modFur_standing f g _ (by intro c; rfl)

theorem Run.wakeNeighbours_standing (r : Run s₀) (f g : FurrowIx) : (r.wakeNeighbours g).now.standing f = r.now.standing f := by
  refine Run.each_keeps (fun t => t.standing f) _ (fun r x => ?_) _ r
  split
  · exact r.tryTrain_standing f x.1 x.2
  · rfl

theorem Run.weighHealth_standing (r : Run s₀) (f g : FurrowIx) : (r.weighHealth g).now.standing f = r.now.standing f := by
  unfold Run.weighHealth
  dsimp only
  split
  · rfl
  · have kept := r.modFur_standing f g
      (fun c => (c.keepHealth fun x => { x with reasons := (r.fur g).reasonsNow g }).raise
        (errRec 0x43 0 ((r.fur g).reasonsNow g).toNat) []) (fun c => (Furrow.raise_vitals _ _ []).trans (c.keepHealth_vitals _))
    split
    · exact kept
    · exact kept

theorem getLsbD_dropBit {w : Nat} (m : BitVec w) (i : Nat) (hi : i < w) : (dropBit m i).getLsbD i = false := by
  rw [dropBit, BitVec.getLsbD_and, BitVec.getLsbD_not, BitVec.getLsbD_ofNat, Nat.testBit_two_pow_self, decide_eq_true hi]
  exact Bool.and_false _

section
variable {f : FurrowIx} {s : State}

/-! ### The reset of one furrow (R447–R449) -/

theorem execFurrowReset_void (hv : s.hdl.perst = true ∨ s.hdl.mainPower = false ∨ s.hdl.portUp = false ∨ s.hdl.failed = true) (locked : Bool) :
    exec (.furrowReset f locked) s = .next s := by
  show execFurrowReset f locked s = _
  exact congrArg Run.done (if_pos (by simpa using hv))

/-- A headland shadow of one furrow replaced leaves the rest of the module. -/
theorem Run.shadow_now (r : Run s₀) (f : FurrowIx) (life : FurState) :
    ∃ d, (r.shadow f life).now = { r.now with hdl := d } ∧
      d = { r.now.hdl with shadowId := r.now.hdl.shadowId.set f d.shadowId[f], shadowState := r.now.hdl.shadowState.set f d.shadowState[f] } := by
  refine ⟨_, rfl, ?_⟩
  have same (v : Vector W64 8) (x : W64) : (v.set f x)[f] = x := Vector.getElem_set_self f.isLt
  rw [same, same]

/-- A furrow reset leaves the furrow reset and started, and of the headland it changes the shadow of that furrow. -/
theorem execFurrowReset_starts (hp : s.hdl.perst = false) (hm : s.hdl.mainPower = true) (hu : s.hdl.portUp = true) (hf : s.hdl.failed = false)
    (locked : Bool) : ∃ t, exec (.furrowReset f locked) s = .next t ∧ s.onlyFurrow f { t with hdl := s.hdl } ∧ t.mems = s.mems ∧
      t.hdl = { s.hdl with shadowId := s.hdl.shadowId.set f t.hdl.shadowId[f], shadowState := s.hdl.shadowState.set f t.hdl.shadowState[f] } ∧
      t.furrow f = ((s.furrow f).resetFor f true).start s.fuses[f] locked := by
  have runs : ¬(s.hdl.perst = true ∨ (!s.hdl.mainPower) = true ∨ (!s.hdl.portUp) = true ∨ s.hdl.failed = true) := by
    rw [hp, hm, hu, hf]
    decide
  generalize hr : (Run.start s).modFur f (fun c => (c.resetFor f true).start s.fuses[f] locked) = r
  obtain ⟨d, now, shadow⟩ := r.shadow_now f (if s.hdl.lostMap.getLsbD f.val then .lost else (r.fur f).life)
  have reset : r.now = s.setFurrow f (((s.furrow f).resetFor f true).start s.fuses[f] locked) := by
    rw [← hr]
    rfl
  refine ⟨(r.shadow f (if s.hdl.lostMap.getLsbD f.val then .lost else (r.fur f).life)).now, ?_, ?_⟩
  · show execFurrowReset f locked s = _
    unfold execFurrowReset
    dsimp only
    rw [if_neg runs, hr]
    rfl
  · rw [now, reset]
    rw [reset] at shadow
    exact ⟨s.onlyFurrow_setFurrow f _, rfl, shadow, State.furrow_setFurrow_same s f _⟩

/-! ### The clear of HBM (R389, R400) -/

theorem execHbmClearDone_void (hv : (s.furrow f).life ≠ .boot ∨ (s.furrow f).sec.hbmLocked = false) : exec (.hbmClearDone f) s = .next s := by
  show execHbmClearDone f s = _
  refine congrArg Run.done (if_neg ?_)
  rintro ⟨boot, locked⟩
  exact hv.elim (· boot) fun e => absurd (e.symm.trans locked) (by decide)

theorem execHbmClearDone_clears (hb : (s.furrow f).life = .boot) (hl : (s.furrow f).sec.hbmLocked = true) :
    exec (.hbmClearDone f) s = .next ((s.setMem (.hbm f) []).setFurrow f
      { s.furrow f with
        sec := { (s.furrow f).sec with hbmLocked := false, scrubPending := false }
        counts := { (s.furrow f).counts with bad := (s.furrow f).counts.bad.filter fun b => b.mem ≠ 2 } }) := by
  show execHbmClearDone f s = _
  exact congrArg Run.done (if_pos ⟨hb, hl⟩)

/-! ### The end of a boot (R445, R449) -/

theorem execFurrowReady_void (bad : BitVec 4)
    (hv : (s.furrow f).life ≠ .boot ∨ (s.furrow f).sec.bootError ≠ 0 ∨ (s.furrow f).sec.hbmLocked = true) :
    exec (.furrowReady f bad) s = .next s := by
  show execFurrowReady f bad s = _
  exact congrArg Run.done (if_pos hv)

/-- A furrow whose boot and HBM training have ended. -/
def Furrow.readied (c : Furrow) (bad : BitVec 4) : Furrow :=
  { c.resetRetire bad with
    life := if (c.resetRetire bad).health.whole then .ready else .degraded, pwr := { (c.resetRetire bad).pwr with selfRefresh := 0 } }

/-- The headland takes up that a furrow is ready, unless it has failed. -/
def Run.shownReady (r : Run s₀) (f : FurrowIx) : Run s₀ :=
  if r.now.hdl.failed then r else (r.shadow f (r.fur f).life).modHdl fun d => { d with lostMap := dropBit d.lostMap f.val }

theorem Run.shownReady_fur (r : Run s₀) (f : FurrowIx) :
    (r.shownReady f).now.fur = r.now.fur ∧ (r.shownReady f).now.host = r.now.host ∧ (r.shownReady f).now.mems = r.now.mems := by
  unfold Run.shownReady
  split <;> exact ⟨rfl, rfl, rfl⟩

theorem Run.shownReady_lostMap {r : Run s₀} (hf : r.now.hdl.failed = false) :
    (r.shownReady f).now.hdl.lostMap.getLsbD f.val = false := by
  rw [Run.shownReady, if_neg (by rw [hf]; decide)]
  exact getLsbD_dropBit _ f.val f.isLt

theorem execFurrowReady_ends (bad : BitVec 4) (hb : (s.furrow f).life = .boot) (he : (s.furrow f).sec.bootError = 0)
    (hl : (s.furrow f).sec.hbmLocked = false) :
    exec (.furrowReady f bad) s =
      .next ((((((Run.start s).modFur f fun c => c.readied bad).shownReady f).weighHealth f).wakeNeighbours f)).now := by
  have boots : ¬((s.furrow f).life ≠ .boot ∨ (s.furrow f).sec.bootError ≠ 0 ∨ (s.furrow f).sec.hbmLocked = true) := by
    rw [hb, he, hl]
    decide
  show execFurrowReady f bad s = _
  exact congrArg Run.done (if_neg boots)

theorem furrowReady_stands (bad : BitVec 4) (t : State)
    (ht : t.standing f = (((Run.start s).modFur f fun c => c.readied bad).shownReady f).now.standing f) :
    ((t.furrow f).life = .ready ∨ (t.furrow f).life = .degraded) ∧ (t.furrow f).pwr.selfRefresh = 0 ∧ t.host = s.host ∧ t.mems = s.mems ∧
      (s.hdl.failed = false → t.hdl.lostMap.getLsbD f.val = false) := by
  generalize hr : (Run.start s).modFur f (fun c => c.readied bad) = r at ht
  obtain ⟨fur, host, mems⟩ := r.shownReady_fur f
  obtain ⟨vitals, hhost, hmems, lost⟩ : (t.furrow f).vitals = ((r.shownReady f).now.furrow f).vitals ∧
      t.host = (r.shownReady f).now.host ∧ t.mems = (r.shownReady f).now.mems ∧
      t.hdl.lostMap = (r.shownReady f).now.hdl.lostMap := by simpa [State.standing] using ht
  have readied : (r.shownReady f).now.furrow f = (s.furrow f).readied bad := by
    rw [State.furrow, fur, ← hr]
    exact State.furrow_setFurrow_same s f _
  rw [readied] at vitals
  obtain ⟨life, -, -, pwr⟩ : (t.furrow f).life = ((s.furrow f).readied bad).life ∧ (t.furrow f).reqs = ((s.furrow f).readied bad).reqs ∧
      (t.furrow f).ns = ((s.furrow f).readied bad).ns ∧ (t.furrow f).pwr = ((s.furrow f).readied bad).pwr := by
    simpa [Furrow.vitals] using vitals
  refine ⟨?_, ?_, ?_, ?_, fun hf => ?_⟩
  · rw [life, Furrow.readied]
    split
    · exact .inl rfl
    · exact .inr rfl
  · rw [pwr]
    rfl
  · rw [hhost, host, ← hr]
    rfl
  · rw [hmems, mems, ← hr]
    rfl
  · rw [lost]
    exact Run.shownReady_lostMap (by rw [← hr]; exact hf)

/-! ### The reset of PF0 (R31) -/

theorem execPf0Flr_void (hv : s.hdl.portUp = false ∨ s.hdl.failed = true) : exec .pf0Flr s = .next s := by
  show execPf0Flr s = _
  exact congrArg Run.done (if_pos (by simpa using hv))

theorem execPf0Flr_resets (hu : s.hdl.portUp = true) (hf : s.hdl.failed = false) : ∃ t, exec .pf0Flr s = .next t ∧ t.fur = s.fur ∧
    t.mems = s.mems ∧ t.fuses = s.fuses ∧ t.host = s.host ∧ t.hdl.lostMap = s.hdl.lostMap ∧ t.hdl.replaceMap = s.hdl.replaceMap ∧
    t.hdl.msix = Headland.initial.msix ∧ t.hdl.fault = false ∧ t.hdl.pmbAddr = 0 := by
  have carried : ¬((!s.hdl.portUp) = true ∨ s.hdl.failed = true) := by
    rw [hu, hf]
    decide
  refine ⟨_, congrArg Run.done (if_neg carried), ?_⟩
  exact ⟨rfl, rfl, rfl, rfl, rfl, rfl, rfl, rfl, rfl⟩
end

/-- Settles O60: a boot keeps its furrow's requests and clock as the reset left them, and neither the call for replacement nor the ports
that train touch a life, host memory or LOST_MAP. -/
theorem furrowResetAndBoot : Obligations.FurrowResetAndBoot := by
  intro f bad s
  refine ⟨fun hv b => execFurrowReset_void hv b, fun hp hm hu hf => ⟨?_, ?_⟩, execHbmClearDone_void, fun hb hl => ?_,
    execFurrowReady_void bad, fun hb he hl => ?_, execPf0Flr_void, execPf0Flr_resets⟩
  · obtain ⟨t, next, only, mems, shadow, started⟩ := execFurrowReset_starts (f := f) hp hm hu hf true
    have booted := ((s.furrow f).resetFor f true).boot_vitals s.fuses[f]
    rw [Furrow.start, if_pos rfl] at started
    rw [← started] at booted
    obtain ⟨life, rest⟩ := Prod.mk.inj booted
    obtain ⟨reqs, rest⟩ := Prod.mk.inj rest
    obtain ⟨ns, -⟩ := Prod.mk.inj rest
    exact ⟨t, next, only, mems, shadow, life, reqs, ns⟩
  · obtain ⟨t, next, only, mems, shadow, started⟩ := execFurrowReset_starts (f := f) hp hm hu hf false
    refine ⟨t, next, only, mems, shadow, ?_⟩
    rw [started]
    exact ⟨rfl, rfl⟩
  · refine ⟨_, execHbmClearDone_clears hb hl, ?_, fun a => ?_, ?_, ?_, ?_⟩
    · exact State.onlyFurrow_trans (s.onlyFurrow_setMem (.inr (.inr rfl)) []) (State.onlyFurrow_setFurrow _ f _)
    · rw [State.setFurrow_mem, State.mem_setMem_same]
      rfl
    · rw [State.setFurrow_mem, State.mem_setMem_other _ _ _ _ (by simp)]
    · rw [State.setFurrow_mem, State.mem_setMem_other _ _ _ _ (by simp)]
    · rw [State.furrow_setFurrow_same]
      exact ⟨rfl, rfl⟩
  · refine ⟨_, execFurrowReady_ends bad hb he hl, furrowReady_stands bad _ ?_⟩
    exact (Run.wakeNeighbours_standing _ f f).trans (Run.weighHealth_standing _ f f)
end Sys2Proof.Machine
end

section
namespace Sys2Proof.Machine

variable {s₀ : State}

/-! ### Descriptors of generation (R265, R285) -/

theorem Run.reading_of_none_bad {r : Run s₀} {e : Eng} (hb : (r.now.furrow e.f).counts.bad = []) (xs outs : List Extent)
    (work : Run s₀ → Run s₀ × Ending) : r.reading e xs outs work = work r := by
  unfold Run.reading
  rw [Run.fur_eq, Furrow.firstBad_of_none_bad hb]

/-- What goes to the members below concerns the Poryar block alone. -/
theorem Furrow.sendDown_keeps {γ : Type} {view : Furrow → γ} (hv : BesidePyr view) (c : Furrow) (f : FurrowIx) (q : Request) (key : Nat)
    (bs : List Byte) : view (c.sendDown f q key bs) = view c :=
  foldl_keeps view _ (fun _ _ => foldl_keeps view _ (fun _ _ => Furrow.route_keeps hv _ f _) _ _) _ c

section
variable {s : State} {f : FurrowIx} {h : Handle} {tag : Tag} {q : Request}

/-- Once the furrow's own memories have been written, the engine's end leaves its units as they stood. -/
theorem State.storedOver.unitsKept {r : Run s₀} (st : s.storedOver f r.now) (n v : Nat) :
    (s.furrow f).unitsKept ((r.engineEnds f h tag (Ending.ok n v)).now.furrow f) := by
  obtain ⟨-, xs, hxs⟩ := st
  rw [Run.engineEnds_done (failed_ok n v), hxs]
  refine ⟨rfl, rfl, rfl, rfl, rfl, rfl, rfl, rfl, rfl, rfl, rfl, rfl, rfl, rfl, rfl, rfl, rfl, rfl, fun k => ?_⟩
  by_cases hk : k = h
  · subst hk
    exact .inr (Furrow.modCtx_same _ k _)
  · exact .inl (Furrow.modCtx_other _ h k _ hk)

/-- A descriptor whose work changes the control part of its furrow alone, and its request at most in what it has done, ends DONE. -/
theorem Run.engineEnds_setFurrow {r : Run s₀} {c : Furrow} (hr : r.now = s.setFurrow f c) (hc : c.request? h tag = some q) (n v : Nat) :
    (r.engineEnds f h tag (Ending.ok n v)).now.descriptorEnded f h tag (Ending.ok n v) ∧
      ((r.engineEnds f h tag (Ending.ok n v)).now.furrow f).plans = c.plans ∧
      s.onlyFurrow f (r.engineEnds f h tag (Ending.ok n v)).now ∧ (r.engineEnds f h tag (Ending.ok n v)).now.mems = s.mems := by
  have hfur : r.now.furrow f = c := by rw [hr, State.furrow_setFurrow_same]
  refine ⟨Run.engineEnds_ended (failed_ok n v) (hfur.symm ▸ hc), ?_, ?_, ?_⟩
  · rw [Run.engineEnds_done (failed_ok n v), hfur]
    rfl
  · exact State.onlyFurrow_trans (hr ▸ s.onlyFurrow_setFurrow f c) (r.engineEnds_onlyFurrow f h tag _)
  · rw [Run.engineEnds_mems, hr]
    rfl

/-! ### Plans (R265, R285) -/

/-- A furrow with a plan bound to its handle, and the load measured. -/
def Furrow.withPlan (c : Furrow) (e : Eng) (d : List Byte) (total : Nat) : Furrow :=
  { c with plans := c.plans ++ [(⟨e.h, BitVec.ofNat 32 (planHandle d), (tref d 16).off⟩ : PlanBind)] }.measure LogKind.plan e.h (planHandle d)
    e.tag false (tref d 16).off total

theorem execGenPlanLoad_binds (hb : (s.furrow f).counts.bad = []) (hq : (s.furrow f).atWork h tag 0x60 = some q) :
    ∃ t, exec (.genPlanLoad f h tag) s = .next t ∧ t.descriptorEnded f h tag (Ending.ok 0 (planHandle q.desc)) ∧
      (t.furrow f).plans = (s.furrow f).plans ++ [⟨h, BitVec.ofNat 32 (planHandle q.desc), (tref q.desc 16).off⟩] ∧ s.onlyFurrow f t ∧
      t.mems = s.mems := by
  obtain ⟨hreq, -⟩ := Furrow.atWork_is hq
  obtain ⟨rfl, rfl, -⟩ := Furrow.request?_is _ _ _ _ hreq
  refine ⟨_, runDesc_atWork hq _, ?_⟩
  unfold Run.planLoad
  dsimp only
  rw [Run.reading_of_none_bad hb]
  exact Run.engineEnds_setFurrow (c := (s.furrow f).withPlan (q.eng f) q.desc _) rfl hreq _ _

/-- A request behind the exchange of its parts. -/
def Request.exchanged (q : Request) : Request := { q with stage := 2 }

theorem Request.exchanged_keepsName : KeepsName Request.exchanged := fun _ => ⟨rfl, rfl, rfl⟩

/-- The exchange of a request off a span is over at once: nobody below has a part, and the request keeps that it is behind it. -/
theorem Run.roundTrip_of_none_below {r : Run s₀} (ho : q.origin = none) (h0 : q.stage = 0) (hbelow : ((r.now.furrow f).below q.h).2 = [])
    (own : List Byte) (make : List (List Byte) → List Byte) :
    ∃ r' bs, r.roundTrip f q 0 own make = (r', some bs) ∧
      r'.now = r.now.setFurrow f ((r.now.furrow f).modReq q.h q.tag Request.exchanged) := by
  have nobody : (r.fur f).piecesUnder q 0 = some [] := by
    unfold Furrow.piecesUnder
    dsimp only
    rw [Run.fur_eq, hbelow]
    rfl
  have first : ¬q.stage = 2 * 0 + 1 := by
    rw [h0]
    decide
  have own : ¬q.origin.isSome = true := by
    rw [ho]
    decide
  unfold Run.roundTrip
  simp only [if_neg first, nobody, if_neg own]
  refine ⟨_, _, rfl, ?_⟩
  rw [Run.modFur_now, Run.modFur_now, Furrow.sendDown_of_none_below hbelow, State.setFurrow_self]
  rfl

theorem execGenPlanUnload_busy (hq : (s.furrow f).atWork h tag 0x61 = some q) (ho : q.origin = none)
    (hbusy : (s.furrow f).planBusy h (planHandle q.desc) = true) : exec (.genPlanUnload f h tag) s = .next s := by
  show execGenPlanUnload f h tag s = _
  simp only [execGenPlanUnload, hq, ho, hbusy, Option.isNone_none, Bool.and_self, if_true, Run.done_next, Run.start_now]

/-- A furrow with the handle of a plan free, and the unload measured. -/
def Furrow.withoutPlan (c : Furrow) (h : Handle) (n : Nat) : Furrow :=
  { c with plans := c.plans.filter fun b => !(b.h = h && b.n.toNat = n) }.unmeasure LogKind.plan h n

theorem execGenPlanUnload_frees (hq : (s.furrow f).atWork h tag 0x61 = some q) (ho : q.origin = none) (h0 : q.stage = 0)
    (hbelow : ((s.furrow f).below q.h).2 = []) (hfree : (s.furrow f).planBusy h (planHandle q.desc) = false) :
    ∃ t, exec (.genPlanUnload f h tag) s = .next t ∧ t.descriptorEnded f h tag (Ending.ok 0 (planHandle q.desc)) ∧
      (t.furrow f).plans = ((s.furrow f).plans.filter fun b => !(b.h = h && b.n.toNat = planHandle q.desc)) ∧ s.onlyFurrow f t ∧
      t.mems = s.mems := by
  obtain ⟨hreq, -⟩ := Furrow.atWork_is hq
  obtain ⟨rfl, rfl, -⟩ := Furrow.request?_is _ _ _ _ hreq
  obtain ⟨r', bs, exchanged, now⟩ := Run.roundTrip_of_none_below (r := Run.start s) ho h0 hbelow [] fun _ => []
  refine ⟨((r'.modFur f fun c => c.withoutPlan q.h (planHandle q.desc)).engineEnds f q.h q.tag (Ending.ok 0 (planHandle q.desc))).now, ?_, ?_⟩
  · show execGenPlanUnload f q.h q.tag s = _
    simp only [execGenPlanUnload, hq, hfree, Bool.and_false, Bool.false_eq_true, if_false, exchanged]
    exact Run.done_next _
  · refine Run.engineEnds_setFurrow (q := q.exchanged)
      (c := Furrow.withoutPlan ((s.furrow f).modReq q.h q.tag Request.exchanged) q.h (planHandle q.desc)) ?_ ?_ _ _
    · rw [Run.modFur_now, now, State.furrow_setFurrow_same, State.setFurrow_setFurrow]
      rfl
    · exact Furrow.request?_modReq_of_keepsName Request.exchanged_keepsName hreq

/-! ### Caches (R266, R285) -/

/-- A cache is made in the furrow's own memories. -/
theorem Run.cacheInit_stores {e : Eng} (hb : (s.furrow e.f).counts.bad = []) (d : List Byte) :
    ((Run.start s).cacheInit e d).2 = Ending.ok 0 (df d 16 8) ∧ s.storedOver e.f ((Run.start s).cacheInit e d).1.now := by
  unfold Run.cacheInit
  dsimp only
  rw [Run.reading_of_none_bad hb]
  exact ⟨rfl, Run.storeCells_storedOver hb (Run.storeCells_storedOver hb (s.storedOver_refl e.f) e.h 0 2 _ _ _) e.h 0 2 _ _ _⟩

theorem execGenCacheInit_ends (hb : (s.furrow f).counts.bad = []) (hq : (s.furrow f).atWork h tag 0x62 = some q) :
    ∃ t, exec (.genCacheInit f h tag) s = .next t ∧ t.descriptorEnded f h tag (Ending.ok 0 (df q.desc 16 8)) ∧ s.onlyFurrow f t ∧
      (s.furrow f).unitsKept (t.furrow f) := by
  obtain ⟨ending, stored⟩ := Run.cacheInit_stores (e := q.eng f) hb q.desc
  refine ⟨_, runDesc_atWork hq _, ?_⟩
  rw [ending]
  obtain ⟨ended, only⟩ := Run.engineEnds_storedOver hq stored 0 (df q.desc 16 8)
  exact ⟨ended, only, stored.unitsKept 0 (df q.desc 16 8)⟩

/-! ### GENERATE begins (R277, R285) -/

/-- The work that a GENERATE begins with at its root. -/
def Run.genWork (r : Run s₀) (f : FurrowIx) (q : Request) : GenWork :=
  let p := r.load f q.h 0 2 (tref q.desc 40).off 64
  let prompt := r.tokensAt (q.eng f) (tref q.desc 32) (promptLen q.desc)
  let x := r.cacheAt f q.h (tref q.desc 24).off
  { plan := BitVec.ofNat 32 (df q.desc 16 4), cache := (tref q.desc 24).off, params := p, prompt := prompt
    todo := (if x.pending ≠ noToken ∧ (prompt ≠ [] ∨ fieldAt p 16 4 = 0) then [x.pending] else []) ++ prompt
    emitted := [], drafts := [], held := [], textLen := 0, switched := none, committing := false, cancel := false }

/-- A GENERATE has taken up its work, with its stream header cleared. -/
def Run.genTaken (r : Run s₀) (f : FurrowIx) (q : Request) : Run s₀ :=
  (r.toHost ((r.fur f).hostAt q.h q.out) (zeros 64)).modFur f fun c => c.modReq q.h q.tag fun p => { p with gen := some (r.genWork f q) }

theorem Run.genBegin_of_none_bad {r : Run s₀} (hb : (r.now.furrow f).counts.bad = []) (q : Request) :
    r.genBegin f q = if (r.genWork f q).maxNew = 0 ∧ (r.genWork f q).todo = [] then (r.genTaken f q).genEnds f q 2 (Ending.ok 0 q.out)
      else r.genTaken f q := by
  unfold Run.genBegin
  simp only [Run.fur_eq, Furrow.firstBad_of_none_bad hb] <;> rfl

theorem Run.genTaken_request? {r : Run s₀} (hq : (r.now.furrow f).request? q.h q.tag = some q) :
    ((r.genTaken f q).now.furrow f).request? q.h q.tag = some { q with gen := some (r.genWork f q) } := by
  unfold Run.genTaken
  rw [Run.modFur_now, State.furrow_setFurrow_same, Run.toHost_furrow]
  exact Furrow.request?_modReq_of_keepsName (fun q => ⟨rfl, rfl, rfl⟩) hq

/-- The end of a GENERATE ends its descriptor, and keeps the work. -/
theorem Run.genEnds_request? {r : Run s₀} {p : Request} (hp : (r.now.furrow f).request? q.h q.tag = some p) (code n v : Nat) :
    ((r.genEnds f q code (Ending.ok n v)).now.furrow f).request? q.h q.tag = some { p with phase := .engineDone (Ending.ok n v), uses := [] } := by
  unfold Run.genEnds Run.endRounds
  rw [Run.engineEnds_done (failed_ok n v), Run.modFur_now, State.furrow_setFurrow_same, Run.toHost_furrow]
  refine Furrow.request?_modReq_of_keepsName (c := (r.now.furrow f).sendDown f q q.collKey [])
    (g := fun q => { q with phase := .engineDone (Ending.ok n v), uses := [] }) (fun q => ⟨rfl, rfl, rfl⟩) ?_
  exact (Furrow.request?_congr (Furrow.sendDown_keeps (view := Furrow.reqs) (fun _ _ => rfl) _ f q _ _) _ _).trans hp

theorem execGenerate_begins (hb : (s.furrow f).counts.bad = []) (hq : (s.furrow f).atWork h tag 0x63 = some q) (ho : q.origin = none)
    (hg : q.gen = none) :
    ∃ t p, exec (.generate f h tag) s = .next t ∧ (t.furrow f).request? h tag = some p ∧ p.gen = some ((Run.start s).genWork f q) ∧
      (((Run.start s).genWork f q).maxNew = 0 → ((Run.start s).genWork f q).todo = [] →
        t.descriptorEnded f h tag (Ending.ok 0 (df q.desc 48 8))) := by
  obtain ⟨hreq, -⟩ := Furrow.atWork_is hq
  obtain ⟨rfl, rfl, -⟩ := Furrow.request?_is _ _ _ _ hreq
  have begins : exec (.generate f q.h q.tag) s = .next ((Run.start s).genBegin f q).now := by
    show execGenerate f q.h q.tag s = _
    simp only [execGenerate, hq, ho, hg, Option.isSome_none, Bool.false_eq_true, if_false, Run.done_next]
  rw [begins, Run.genBegin_of_none_bad hb]
  have taken := Run.genTaken_request? (r := Run.start s) hreq
  split
  · have ended := Run.genEnds_request? taken 2 0 q.out
    exact ⟨_, _, rfl, ended, rfl, fun _ _ => ⟨_, ended, rfl, rfl⟩⟩
  · next goesOn => exact ⟨_, _, rfl, taken, rfl, fun hmax htodo => absurd ⟨hmax, htodo⟩ goesOn⟩

theorem execGenerate_begun (hq : (s.furrow f).atWork h tag 0x63 = some q) (ho : q.origin = none) (hg : q.gen ≠ none) :
    exec (.generate f h tag) s = .next s := by
  show execGenerate f h tag s = _
  simp only [execGenerate, hq, ho, Option.isSome_none, Bool.false_eq_true, if_false, Option.isSome_iff_ne_none.2 hg, if_true, Run.done_next,
    Run.start_now]
end

/-! ### Steps of generation at a root (R59, R270, R276) -/

section
variable {s : State} {f : FurrowIx} {h : Handle} {plan : W32} {w : StepWork} (hs : (s.furrow f).serves = true)
  (hroot : (s.furrow f).ctx[h].role ≠ .member)
include hs hroot

theorem execGenStepStart_composes (hw : (s.furrow f).step? h = none) :
    exec (.genStepStart f h plan) s = .next (((Run.start s).stepCompose f h plan.toNat).stepRoot f h).now := by
  show execGenStepStart f h plan s = _
  simp only [execGenStepStart, hs, Bool.not_true, Bool.false_eq_true, if_false, if_neg hroot, hw, Run.done_next]

theorem execGenStepStart_underWay (hw : (s.furrow f).step? h = some w) :
    exec (.genStepStart f h plan) s = if w.plan = plan ∧ w.commits = none then .next ((Run.start s).stepRoot f h).now else .next s := by
  show execGenStepStart f h plan s = _
  simp only [execGenStepStart, hs, Bool.not_true, Bool.false_eq_true, if_false, if_neg hroot, hw, Option.isNone_iff_eq_none]
  split <;> rfl

omit hroot in
theorem execGenStepCommit_void (hw : (s.furrow f).step? h = none) : exec (.genStepCommit f h plan) s = .next s := by
  show execGenStepCommit f h plan s = _
  simp only [execGenStepCommit, hs, if_true, hw, Run.done_next, Run.start_now]

/-- A commit waits for its plan's step, for every furrow's program and for room for its records. -/
theorem execGenStepCommit_waits (hw : (s.furrow f).step? h = some w)
    (hn : w.plan ≠ plan ∨ w.told = false ∨ w.failed = true ∨ (s.furrow f).ctx[h].rings.roomFor w.toPost = false) :
    exec (.genStepCommit f h plan) s = .next s := by
  show execGenStepCommit f h plan s = _
  simp only [execGenStepCommit, hs, if_true, hw, if_neg hroot]
  by_cases due : w.plan = plan ∧ w.told = true ∧ (!w.failed) = true
  · obtain ⟨hplan, htold, hfailed⟩ := due
    have full : (s.furrow f).ctx[h].rings.roomFor w.toPost = false := by
      simpa [hplan, htold, show w.failed = false by simpa using hfailed] using hn
    rw [if_pos ⟨hplan, htold, hfailed⟩]
    cases (Run.start s).planOf f h plan.toNat with
    | none => rfl
    | some x => exact congrArg Run.done (if_pos (by rw [full]; rfl))
  · rw [if_neg due]
    rfl

variable {x : Nat} {img : PlanImage} (hp : (Run.start s).planOf f h plan.toNat = some (x, img)) (hw : (s.furrow f).step? h = some w)
  (hplan : w.plan = plan) (htold : w.told = true) (hfailed : w.failed = false)
  (hroom : (s.furrow f).ctx[h].rings.roomFor w.toPost = true)
include hp hw hplan htold hfailed hroom

theorem execGenStepCommit_ends (hc : w.commits ≠ none) : exec (.genStepCommit f h plan) s = .next ((Run.start s).commitEnd f h w img).now := by
  show execGenStepCommit f h plan s = _
  simp only [execGenStepCommit, hs, if_true, hw, if_neg hroot, hplan, htold, hfailed, Bool.not_false, and_self, hp, hroom, Bool.not_true,
    Bool.false_eq_true, if_false, Option.isNone_iff_eq_none, if_neg hc, Run.fur_eq, Run.start_now, Run.done_next]

theorem execGenStepCommit_begins (hc : w.commits = none) {v : StepWork}
    (hv : (((Run.start s).commitBegin f h w img).fur f).step? h = some v) :
    exec (.genStepCommit f h plan) s = .next (((Run.start s).commitBegin f h w img).commitEnd f h v img).now := by
  show execGenStepCommit f h plan s = _
  simp only [execGenStepCommit, hs, if_true, hw, if_neg hroot, hplan, htold, hfailed, Bool.not_false, and_self, hp, hroom, Bool.not_true,
    Bool.false_eq_true, if_false, hc, Option.isNone_none, hv, Run.done_next]
end

/-- Settles O33: plans and caches change their furrow's binding and memories alone, a GENERATE takes up its work, and the steps are read off
the state of the context's step. -/
theorem generationRows : Obligations.GenerationRows := by
  refine ⟨fun f h tag q s hb => ⟨fun hq => execGenPlanLoad_binds hb hq, fun hq ho h0 hbelow => ?_, fun hq => execGenCacheInit_ends hb hq,
    fun hq ho => ?_⟩, fun f h plan s hs hroot => ⟨fun hw => ?_, fun w hw => ?_⟩⟩
  · exact ⟨execGenPlanUnload_busy hq ho, execGenPlanUnload_frees hq ho h0 hbelow⟩
  · refine ⟨fun hg => ?_, execGenerate_begun hq ho⟩
    obtain ⟨t, p, next, hp, hgen, ended⟩ := execGenerate_begins hb hq ho hg
    exact ⟨t, p, (Run.start s).genWork f q, next, hp, hgen, rfl, rfl, rfl, rfl, ended⟩
  · exact ⟨execGenStepStart_composes hs hroot hw, execGenStepCommit_void hs hw⟩
  · refine ⟨fun hplan hc => ?_, fun hn => ?_, execGenStepCommit_waits hs hroot hw, fun x img hp hplan htold hfailed hroom => ⟨?_, ?_⟩⟩
    · rw [execGenStepStart_underWay hs hroot hw, if_pos ⟨hplan, hc⟩]
    · rw [execGenStepStart_underWay hs hroot hw, if_neg (not_and_or.2 hn)]
    · exact execGenStepCommit_ends hs hroot hp hw hplan htold hfailed hroom
    · exact fun hc v hv => execGenStepCommit_begins hs hroot hp hw hplan htold hfailed hroom hc hv
end Sys2Proof.Machine
end

section
namespace Sys2Proof.Machine

/-! ### The budget of a request that has not started (R84, R86) -/

section
variable {f : FurrowIx} {h : Handle} {tag : Tag} {q : Request} {s : State}

/-- A request that can be cancelled and has not started ends DEFERRED once its budget has passed, with a free number of 50 µs as its
retry-after. -/
theorem execBudgetExpiry_deferred (hq : (s.furrow f).request? h tag = some q) (ho : q.origin = none) (hc : q.cancellable = true)
    (hn : q.isStarted = false) (hb : q.ttfrNs ≠ 0) (hp : q.ttfrNs ≤ elapsed (s.furrow f).ns q.fetchNs) :
    exec (.budgetExpiry f h tag) s = .next (((Run.start s).free.2).finishPost f h tag (.bare Status.deferred
      (usOf (elapsed (s.furrow f).ns q.fetchNs) + 2 ^ 32 * (bitsOf (Run.start s).free.1.toNat 25 0 * 50)))).now := by
  show execBudgetExpiry f h tag s = _
  simp only [execBudgetExpiry, hq, ho, hc, hn, Option.isNone_none, Bool.not_false, true_and, if_pos (And.intro hb hp), Run.done_next]

theorem execBudgetExpiry_void (hq : (s.furrow f).request? h tag = some q)
    (hn : q.isStarted = true ∨ q.ttfrNs = 0 ∨ elapsed (s.furrow f).ns q.fetchNs < q.ttfrNs) : exec (.budgetExpiry f h tag) s = .next s := by
  have unmet : ¬ (q.origin.isNone ∧ q.cancellable ∧ !q.isStarted ∧ q.ttfrNs ≠ 0 ∧ q.ttfrNs ≤ elapsed (s.furrow f).ns q.fetchNs) := by
    rintro ⟨-, -, unstarted, budget, passed⟩
    obtain started | none | early := hn
    · simp [started] at unstarted
    · exact budget none
    · exact absurd passed (by omega)
  show execBudgetExpiry f h tag s = _
  simp only [execBudgetExpiry, hq, if_neg unmet, Run.done_next, Run.start_now]

end

/-- Settles O19: the expiry ends the request when each of its conditions holds, and a start, a budget of 0 or time left denies one. -/
theorem unstartedRequestDeferredAtBudget : Obligations.UnstartedRequestDeferredAtBudget := by
  intro f h tag q s hq ho
  exact ⟨fun hc hn hb hp => ⟨_, execBudgetExpiry_deferred hq ho hc hn hb hp⟩, execBudgetExpiry_void hq⟩

end Sys2Proof.Machine
end

section
namespace Sys2Proof.Machine

/-! ### Operations on the context table (R73, R75, R77, R79) -/

/-- The contexts and the requests of a furrow. -/
def Furrow.roll (c : Furrow) : Vector Context 64 × List Request := (c.ctx, c.reqs)

theorem Furrow.ctx_of_roll {c d : Furrow} (hr : d.roll = c.roll) (k : Handle) : d.ctx[k] = c.ctx[k] :=
  congrArg (fun x : Vector Context 64 × List Request => x.1[k]) hr

theorem Furrow.reqs_of_roll {c d : Furrow} (hr : d.roll = c.roll) : d.reqs = c.reqs := congrArg Prod.snd hr

theorem Furrow.request?_of_roll {c d : Furrow} (hr : d.roll = c.roll) (h : Handle) (tag : Tag) : d.request? h tag = c.request? h tag :=
  Furrow.request?_congr (Furrow.reqs_of_roll hr) h tag

theorem Furrow.tallyOpen_roll (c : Furrow) (h : Handle) : (c.tallyOpen h).roll = c.roll := by
  unfold Furrow.tallyOpen
  split <;> rfl

theorem Furrow.tallyClose_roll (c : Furrow) (f : FurrowIx) (h : Handle) (close : Nat) (goesOn : Bool) :
    (c.tallyClose f h close goesOn).roll = c.roll := by
  unfold Furrow.tallyClose
  split
  · rfl
  · dsimp only
    split
    · exact Furrow.tallyOpen_roll _ h
    · rfl

/-- A context as its recovery leaves it (R77, Table 03-8). -/
def Context.recovered (x : Context) : Context :=
  { x with state := .ready, fault := none, spanId := 0, role := .none, rings := { x.rings with state := .disabled } }

/-- Recovering a context closes and opens its metering record, and changes its entry of the table alone. -/
theorem Furrow.recoverCtx_eq (c : Furrow) (f : FurrowIx) (h : Handle) :
    ∃ d : Furrow, d.roll = c.roll ∧ c.recoverCtx f h = d.modCtx h Context.recovered :=
  ⟨_, c.tallyClose_roll f h 0x08 true, rfl⟩

section
variable {f : FurrowIx} {s : State}

theorem execCtxRecover0_recovers (hr : s.reaches f 0x10008 = true) (hf : (s.furrow f).ctx[(0 : Handle)].state = .faulted) :
    exec (.ctxRecover0 f) s = .next (s.setFurrow f ((s.furrow f).recoverCtx f 0)) :=
  done_modFur (by rw [hr]; exact if_pos hf)

theorem execCtxRecover0_void (hn : s.reaches f 0x10008 = false ∨ (s.furrow f).ctx[(0 : Handle)].state ≠ .faulted) :
    exec (.ctxRecover0 f) s = .next s := by
  refine done_modFur_self ?_
  obtain unreached | well := hn
  · rw [unreached]
    rfl
  · split
    · rfl
    · exact if_neg well

variable {h g : Handle} {tag : Tag} {op : Byte} {q : Request}

/-- Work of a descriptor that changes the furrow's control part alone, and ends DONE. -/
theorem runDesc_modFur (hq : (s.furrow f).atWork h tag op = some q) {work : Request → Run s → Run s × Ending} {k : Furrow → Furrow}
    (hw : work q (Run.start s) = ((Run.start s).modFur f k, Ending.ok 0 0)) :
    runDesc op f h tag s work = .next (((Run.start s).modFur f k).engineEnds f h tag (Ending.ok 0 0)).now := by
  rw [runDesc_atWork hq, hw]

/-- A descriptor that changes one other entry of the context table, and ends DONE: beside that entry only the request and the engine time
of its own context change. -/
theorem entryChange_ends {o : Host.Outcome State Fault Refusal} {k : Furrow → Furrow} {d : Furrow} {y : Context → Context} {z : Context}
    (hq : (s.furrow f).atWork h tag op = some q) (hg : g ≠ h)
    (ho : o = .next (((Run.start s).modFur f k).engineEnds f h tag (Ending.ok 0 0)).now) (hk : k (s.furrow f) = d.modCtx g y)
    (hd : d.roll = (s.furrow f).roll) (hz : y (s.furrow f).ctx[g] = z) :
    ∃ t, o = .next t ∧ t.descriptorEnded f h tag (Ending.ok 0 0) ∧ (t.furrow f).ctx[g] = z ∧
      (t.furrow f).ctx[h] = (s.furrow f).ctx[h].updateNs ∧ (∀ j : Handle, j ≠ g → j ≠ h → (t.furrow f).ctx[j] = (s.furrow f).ctx[j]) ∧
      s.onlyFurrow f t ∧ t.mems = s.mems := by
  obtain ⟨hreq, -⟩ := Furrow.atWork_is hq
  have changed : ((Run.start s).modFur f k).now.furrow f = d.modCtx g y := by
    rw [Run.modFur_now, State.furrow_setFurrow_same]
    exact hk
  have entry : ∀ j : Handle, ((((Run.start s).modFur f k).engineEnds f h tag (Ending.ok 0 0)).now.furrow f).ctx[j] =
      ((d.modCtx g y).modCtx h Context.updateNs).ctx[j] := fun j => by
    rw [Run.engineEnds_done (failed_ok 0 0), changed]
    rfl
  refine ⟨_, ho, Run.engineEnds_ended (failed_ok 0 0) (q := q) ?_, ?_, ?_, fun j jg jh => ?_,
    State.onlyFurrow_trans (s.onlyFurrow_setFurrow f _) (Run.engineEnds_onlyFurrow _ f h tag _), rfl⟩
  · rw [changed]
    exact (Furrow.request?_of_roll hd h tag).trans hreq
  · rw [entry, Furrow.modCtx_other _ h g _ hg, Furrow.modCtx_same, Furrow.ctx_of_roll hd, hz]
  · rw [entry, Furrow.modCtx_same, Furrow.modCtx_other _ g h _ hg.symm, Furrow.ctx_of_roll hd]
  · rw [entry, Furrow.modCtx_other _ h j _ jh, Furrow.modCtx_other _ g j _ jg, Furrow.ctx_of_roll hd]

/-- A context after CTX_SET_SHARES (R75, R79). -/
def Context.withShares (d : List Byte) (x : Context) : Context := { x with nextShares := some (BitVec.ofNat 16 (df d 18 2)) }

/-- A context after CTX_PAIR_FALLBACK (R75). -/
def Context.paired (d : List Byte) (x : Context) : Context :=
  { x with pairs := pairWith x.pairs (BitVec.ofNat 32 (df d 20 4)) (BitVec.ofNat 32 (df d 24 4)) }

/-- The other pairings stand, and a fallback of 0 adds none. -/
theorem pairWith_eq (xs : List (W32 × W32)) (primary fallback : W32) :
    pairWith xs primary fallback = (xs.filter fun p => p.1 ≠ primary) ++ if fallback = 0 then [] else [(primary, fallback)] := by
  unfold pairWith
  dsimp only
  split
  · exact (List.append_nil _).symm
  · rfl

theorem execCtxSetShares_ends (hg : opHandle q.desc = some g) (hq : (s.furrow f).atWork h tag 0xF9 = some q) :
    exec (.ctxSetShares f h tag) s =
      .next (((Run.start s).modFur f fun c => c.modCtx g (Context.withShares q.desc)).engineEnds f h tag (Ending.ok 0 0)).now :=
  runDesc_modFur hq (by rw [hg]; rfl)

theorem execCtxPairFallback_ends (hg : opHandle q.desc = some g) (hq : (s.furrow f).atWork h tag 0xFB = some q) :
    exec (.ctxPairFallback f h tag) s =
      .next (((Run.start s).modFur f fun c => c.modCtx g (Context.paired q.desc)).engineEnds f h tag (Ending.ok 0 0)).now :=
  runDesc_modFur hq (by rw [hg]; rfl)

theorem execCtxRecover_ends (hg : opHandle q.desc = some g) (hq : (s.furrow f).atWork h tag 0xFC = some q) :
    exec (.ctxRecover f h tag) s =
      .next (((Run.start s).modFur f fun c => c.recoverCtx f g).engineEnds f h tag (Ending.ok 0 0)).now :=
  runDesc_modFur hq (by rw [hg])

end

/-- Settles O23: each of the three operations is a change of one entry of the context table, and a recovery keeps the table apart from it. -/
theorem recoveryAndTableOperationsTakeEffect : Obligations.RecoveryAndTableOperationsTakeEffect := by
  refine ⟨fun f s => ⟨fun hr hf => ?_, execCtxRecover0_void⟩, fun f h g tag q s hop hg => ⟨fun hq => ?_, fun hq => ?_, fun hq => ?_⟩⟩
  · obtain ⟨d, hd, recovers⟩ := (s.furrow f).recoverCtx_eq f 0
    refine ⟨_, execCtxRecover0_recovers hr hf, ?_, fun k hk => ?_, s.onlyFurrow_setFurrow f _, rfl⟩
    · rw [State.furrow_setFurrow_same, recovers, Furrow.modCtx_same, Furrow.ctx_of_roll hd]
      rfl
    · rw [State.furrow_setFurrow_same, recovers, Furrow.modCtx_other _ _ _ _ hk, Furrow.ctx_of_roll hd]
  · exact entryChange_ends hq hg (execCtxSetShares_ends hop hq) rfl rfl rfl
  · exact entryChange_ends hq hg (execCtxPairFallback_ends hop hq) rfl rfl (by rw [Context.paired, pairWith_eq])
  · obtain ⟨d, hd, recovers⟩ := (s.furrow f).recoverCtx_eq f g
    exact entryChange_ends hq hg (execCtxRecover_ends hop hq) recovers hd rfl

end Sys2Proof.Machine
end

section
namespace Sys2Proof.Machine

variable {s₀ : State}

/-! ### Map entries set to zero (R338, R342) -/

theorem eq_zero_of_leNat_eq_zero {bs : List Byte} (h : leNat bs = 0) : ∀ b ∈ bs, b = 0 := by
  induction bs with
  | nil => exact fun b hb => absurd hb List.not_mem_nil
  | cons x xs ih =>
    rw [leNat] at h
    intro b hb
    obtain rfl | hb := List.mem_cons.1 hb
    · exact BitVec.eq_of_toNat_eq (show b.toNat = 0 by omega)
    · exact ih (by omega) b hb

/-- Where a number reads 0, each of its bytes is 0. -/
theorem Mem.get_eq_zero_of_read {m : Mem} {a n x : Nat} (h : leNat (m.read a n) = 0) (hlo : a ≤ x) (hhi : x < a + n) : m.get x = 0 := by
  refine eq_zero_of_leNat_eq_zero h _ (List.mem_map.2 ⟨x - a, List.mem_range.2 (by omega), ?_⟩)
  rw [Nat.add_sub_cancel' hlo]

theorem leBytes_zero (n : Nat) : leBytes n 0 = zeros n := by
  induction n with
  | zero => rfl
  | succ n ih => exact congrArg (BitVec.ofNat 8 0 :: ·) ih

/-- Storing zeros is setting the range to zero. -/
theorem Mem.get_write_zeros {m : Mem} (hm : m.wf = true) (a n x : Nat) :
    (m.write a (zeros n)).get x = if a ≤ x ∧ x < a + n then 0 else m.get x := by
  have length : (zeros n).length = n := List.length_replicate
  split
  · next within =>
    have read := Mem.get_write_inside (zeros n) m a (x - a) hm (by omega)
    rw [Nat.add_sub_cancel' within.1] at read
    rw [read]
    exact List.getElem_replicate _
  · next without => exact Mem.get_write_outside _ _ _ _ (by omega)

/-- The discard of one block of a range: nothing when it is not mapped. -/
def Run.unmap (r : Run s₀) (f : FurrowIx) (l : Nat) : Run s₀ := if r.mapGet f l = 0 then r else r.mapStep f l 0 JKind.discard

theorem Run.discardRange_of_usable {r : Run s₀} {f : FurrowIx} (hu : (r.now.furrow f).grn.usable = true) (lo n : Nat) :
    r.discardRange f lo n = r.each ((List.range n).map (lo + ·)) fun r l => r.unmap f l :=
  if_pos hu

theorem Run.discardRange_of_not_usable {r : Run s₀} {f : FurrowIx} (hu : (r.now.furrow f).grn.usable = false) (lo n : Nat) :
    r.discardRange f lo n = r :=
  if_neg (by rw [Run.fur_eq, hu]; decide)

/-! ### Work that clears memories -/

/-- From one state to another a furrow's memories may have been written; of its control part the contexts, the requests, and the place and
use of the Granary's map stand as they were. -/
def State.clearedOver (s : State) (f : FurrowIx) (t : State) : Prop :=
  s.onlyFurrow f t ∧ (t.furrow f).roll = (s.furrow f).roll ∧ (t.furrow f).grn.usable = (s.furrow f).grn.usable ∧
    (t.furrow f).grn.mapBase = (s.furrow f).grn.mapBase

theorem State.clearedOver_refl (s : State) (f : FurrowIx) : s.clearedOver f s := ⟨s.onlyFurrow_refl f, rfl, rfl, rfl⟩

theorem State.clearedOver_trans {s t u : State} {f : FurrowIx} (st : s.clearedOver f t) (tu : t.clearedOver f u) : s.clearedOver f u := by
  obtain ⟨only, roll, usable, base⟩ := st
  obtain ⟨only', roll', usable', base'⟩ := tu
  exact ⟨State.onlyFurrow_trans only only', roll'.trans roll, usable'.trans usable, base'.trans base⟩

theorem State.clearedOver_setMem (s : State) {f : FurrowIx} {sp : Space} (hsp : sp.on f) (m : Mem) : s.clearedOver f (s.setMem sp m) := by
  refine ⟨s.onlyFurrow_setMem hsp m, ?_, ?_, ?_⟩ <;> rw [State.setMem_furrow]

theorem Run.modFur_clearedOver (r : Run s₀) (f : FurrowIx) {g : Furrow → Furrow} (hr : (g (r.now.furrow f)).roll = (r.now.furrow f).roll)
    (hu : (g (r.now.furrow f)).grn.usable = (r.now.furrow f).grn.usable)
    (hb : (g (r.now.furrow f)).grn.mapBase = (r.now.furrow f).grn.mapBase) : r.now.clearedOver f (r.modFur f g).now := by
  refine ⟨State.onlyFurrow_setFurrow _ _ _, ?_, ?_, ?_⟩ <;> rw [Run.modFur_now, State.furrow_setFurrow_same] <;> assumption

theorem Run.each_clearedOver {α : Type} {f : FurrowIx} {g : Run s₀ → α → Run s₀}
    (hg : ∀ (r : Run s₀) x, r.now.clearedOver f (g r x).now) (xs : List α) (r : Run s₀) : r.now.clearedOver f (r.each xs g).now :=
  List.foldlRecOn (motive := fun r' : Run s₀ => r.now.clearedOver f r'.now) xs g (r.now.clearedOver_refl f) fun r' hr x _ =>
    State.clearedOver_trans hr (hg r' x)

theorem Run.blank_clearedOver (r : Run s₀) {f : FurrowIx} {sp : Space} (hsp : sp.on f) (a n : Nat) :
    r.now.clearedOver f (r.blank f sp a n).now := by
  refine State.clearedOver_trans (r.now.clearedOver_setMem hsp _) (Run.modFur_clearedOver (r.zero sp a n) f ?_ ?_ ?_) <;>
    · unfold Furrow.mend
      split <;> rfl

theorem Run.clearCores_clearedOver (r : Run s₀) (f : FurrowIx) (h : Handle) : r.now.clearedOver f (r.clearCores f h).now :=
  State.clearedOver_trans (Run.each_clearedOver (fun r _ => Run.blank_clearedOver r (.inl rfl) _ _) _ r)
    (Run.modFur_clearedOver _ f rfl rfl rfl)

theorem Run.zeroUnits_clearedOver (r : Run s₀) (f : FurrowIx) (h : Handle) : r.now.clearedOver f (r.zeroUnits f h).now :=
  Run.each_clearedOver (fun r _ => Run.blank_clearedOver r (.inr (.inl rfl)) _ _) _ r

theorem Run.unmap_clearedOver (r : Run s₀) (f : FurrowIx) (l : Nat) : r.now.clearedOver f (r.unmap f l).now := by
  unfold Run.unmap
  split
  · exact r.now.clearedOver_refl f
  · exact State.clearedOver_trans (r.now.clearedOver_setMem (.inr (.inr rfl)) _) (Run.modFur_clearedOver _ f rfl rfl rfl)

theorem Run.discardRange_clearedOver (r : Run s₀) (f : FurrowIx) (lo n : Nat) : r.now.clearedOver f (r.discardRange f lo n).now := by
  cases hu : (r.now.furrow f).grn.usable
  · rw [Run.discardRange_of_not_usable hu]
    exact r.now.clearedOver_refl f
  · rw [Run.discardRange_of_usable hu]
    exact Run.each_clearedOver (fun r l => r.unmap_clearedOver f l) _ r

/-! What such work leaves in each memory. -/

theorem Run.blank_mem_same (r : Run s₀) (f : FurrowIx) (sp : Space) (a n : Nat) :
    (r.blank f sp a n).now.mem sp = (r.now.mem sp).paste a n [] := by
  rw [Run.blank, Run.modFur_now, State.setFurrow_mem, Run.zero_now, State.mem_setMem_same]

theorem Run.blank_mem_other (r : Run s₀) (f : FurrowIx) {sp sq : Space} (hs : sq ≠ sp) (a n : Nat) :
    (r.blank f sp a n).now.mem sq = r.now.mem sq := by
  rw [Run.blank, Run.modFur_now, State.setFurrow_mem, Run.zero_now, State.mem_setMem_other _ _ _ _ hs]

theorem Run.clearCores_mem_other (r : Run s₀) {f : FurrowIx} (h : Handle) {sq : Space} (hs : sq ≠ .t0 f) :
    (r.clearCores f h).now.mem sq = r.now.mem sq := by
  rw [Run.clearCores, Run.modFur_now, State.setFurrow_mem]
  exact Run.each_keeps (fun t => t.mem sq) _ (fun r _ => Run.blank_mem_other r f hs _ _) _ r

theorem Run.zeroUnits_mem_other (r : Run s₀) {f : FurrowIx} (h : Handle) {sq : Space} (hs : sq ≠ .t1 f) :
    (r.zeroUnits f h).now.mem sq = r.now.mem sq :=
  Run.each_keeps (fun t => t.mem sq) _ (fun r _ => Run.blank_mem_other r f hs _ _) _ r

theorem Run.unmap_mem_other (r : Run s₀) {f : FurrowIx} (l : Nat) {sq : Space} (hs : sq ≠ .hbm f) :
    (r.unmap f l).now.mem sq = r.now.mem sq := by
  unfold Run.unmap
  split
  · rfl
  · rw [Run.mapStep, Run.modFur_now, State.setFurrow_mem, Run.write_now, State.mem_setMem_other _ _ _ _ hs]

theorem Run.discardRange_mem_other (r : Run s₀) {f : FurrowIx} (lo n : Nat) {sq : Space} (hs : sq ≠ .hbm f) :
    (r.discardRange f lo n).now.mem sq = r.now.mem sq := by
  cases hu : (r.now.furrow f).grn.usable
  · rw [Run.discardRange_of_not_usable hu]
  · rw [Run.discardRange_of_usable hu]
    exact Run.each_keeps (fun t => t.mem sq) _ (fun r l => r.unmap_mem_other l hs) _ r

theorem Granary.mapAddr_of_mapBase {g k : Granary} (hb : g.mapBase = k.mapBase) : g.mapAddr = k.mapAddr := by
  funext l
  rw [Granary.mapAddr, Granary.mapAddr, hb]

theorem Granary.mapAddr_add (g : Granary) (l n : Nat) : g.mapAddr (l + n) = g.mapAddr l + 8 * n := by
  rw [Granary.mapAddr, Granary.mapAddr, Nat.mul_add, Nat.add_assoc]

section
variable (hs : s₀.canonical)
include hs

/-- A block's discard leaves its entry zero, mapped or not, and the rest of the memory as it was. -/
theorem Run.unmap_get (r : Run s₀) (f : FurrowIx) (l a : Nat) : ((r.unmap f l).now.mem (.hbm f)).get a =
    if (r.now.furrow f).grn.mapAddr l ≤ a ∧ a < (r.now.furrow f).grn.mapAddr l + 8 then 0 else (r.now.mem (.hbm f)).get a := by
  unfold Run.unmap
  split
  · next unmapped =>
    split
    · next within => exact Mem.get_eq_zero_of_read unmapped within.1 within.2
    · rfl
  · rw [Run.mapStep, Run.modFur_now, State.setFurrow_mem, Run.write_now, State.mem_setMem_same, leBytes_zero]
    exact Mem.get_write_zeros (r.from_.canonical hs (.hbm f)) _ _ _

/-- The discard of a range of blocks leaves their entries zero. -/
theorem Run.unmaps_get (r : Run s₀) (f : FurrowIx) (lo n a : Nat) :
    ((r.each ((List.range n).map (lo + ·)) fun r l => r.unmap f l).now.mem (.hbm f)).get a =
      if (r.now.furrow f).grn.mapAddr lo ≤ a ∧ a < (r.now.furrow f).grn.mapAddr (lo + n) then 0 else (r.now.mem (.hbm f)).get a := by
  induction n with
  | zero =>
    rw [Nat.add_zero, if_neg (by omega)]
    rfl
  | succ n ih =>
    obtain ⟨-, -, -, base⟩ := Run.each_clearedOver (fun r l => r.unmap_clearedOver f l) ((List.range n).map (lo + ·)) r
    have last : (r.each ((List.range (n + 1)).map (lo + ·)) fun r l => r.unmap f l) =
        (r.each ((List.range n).map (lo + ·)) fun r l => r.unmap f l).unmap f (lo + n) := by
      simp only [Run.each, List.range_succ, List.map_append, List.foldl_append, List.map_cons, List.map_nil, List.foldl_cons, List.foldl_nil]
    rw [last, Run.unmap_get hs, ih, Granary.mapAddr_of_mapBase base]
    rw [← ite_or]
    exact if_congr (by simp only [Granary.mapAddr_add]; omega) rfl rfl

theorem Run.discardRange_get (r : Run s₀) (f : FurrowIx) (lo n a : Nat) : ((r.discardRange f lo n).now.mem (.hbm f)).get a =
    if (r.now.furrow f).grn.usable = true ∧ (r.now.furrow f).grn.mapAddr lo ≤ a ∧ a < (r.now.furrow f).grn.mapAddr (lo + n) then 0
    else (r.now.mem (.hbm f)).get a := by
  cases hu : (r.now.furrow f).grn.usable
  · rw [Run.discardRange_of_not_usable hu]
    simp
  · rw [Run.discardRange_of_usable hu, Run.unmaps_get hs]
    simp

end

/-! ### CTX_CREATE (R74, R310) -/

/-- The furrow's tables after a creation: one entry of the context table is new, and the requests and the Granary stand. -/
theorem Furrow.create_keeps (c : Furrow) (g : Handle) (d : List Byte) :
    (c.create g d).ctx[g] = createdContext d ∧ (c.create g d).reqs = c.reqs ∧ (c.create g d).grn = c.grn := by
  have grown : ∀ x : Furrow, (x.tallyOpen g).grn = x.grn := fun x => by
    unfold Furrow.tallyOpen
    split <;> rfl
  refine ⟨?_, (Furrow.reqs_of_roll (Furrow.tallyOpen_roll _ g)).trans rfl, grown _⟩
  exact (Furrow.ctx_of_roll (Furrow.tallyOpen_roll _ g) g).trans (Furrow.modCtx_same _ g _)

section
variable {f : FurrowIx} {h g : Handle} {tag : Tag} {q : Request} {s : State}

/-- The work of CTX_CREATE: the tables, the region set to zero, the discards. -/
def Run.ctxCreated (r : Run s₀) (f : FurrowIx) (g : Handle) (d : List Byte) : Run s₀ :=
  ((r.modFur f fun c => c.create g d).blank f (.hbm f) (df d 24 4 * hbmUnit) (df d 28 4 * hbmUnit)).discardRange f
    (df d 32 4 * 256) (df d 36 4 * 256)

theorem execCtxCreate_ends (hg : opHandle q.desc = some g) (hq : (s.furrow f).atWork h tag 0xF8 = some q) :
    exec (.ctxCreate f h tag) s = .next (((Run.start s).ctxCreated f g q.desc).engineEnds f h tag (Ending.ok 0 0)).now := by
  show execCtxCreate f h tag s = _
  rw [execCtxCreate, runDesc_atWork hq]
  dsimp only
  rw [hg]
  rfl

theorem Run.ctxCreated_keeps (r : Run s₀) (f : FurrowIx) (g : Handle) (d : List Byte) :
    r.now.onlyFurrow f (r.ctxCreated f g d).now ∧ ((r.ctxCreated f g d).now.furrow f).ctx[g] = createdContext d ∧
      (∀ h tag, ((r.ctxCreated f g d).now.furrow f).request? h tag = (r.now.furrow f).request? h tag) := by
  obtain ⟨entry, reqs, -⟩ := (r.now.furrow f).create_keeps g d
  obtain ⟨only, roll, -, -⟩ := State.clearedOver_trans
    (Run.blank_clearedOver (r.modFur f fun c => c.create g d) (.inr (.inr rfl)) (df d 24 4 * hbmUnit) (df d 28 4 * hbmUnit))
    (Run.discardRange_clearedOver _ f (df d 32 4 * 256) (df d 36 4 * 256))
  rw [Run.modFur_now, State.furrow_setFurrow_same] at roll
  refine ⟨State.onlyFurrow_trans (State.onlyFurrow_setFurrow _ f _) only, (Furrow.ctx_of_roll roll g).trans entry, fun h tag => ?_⟩
  exact (Furrow.request?_of_roll roll h tag).trans (Furrow.request?_congr reqs h tag)

theorem Run.ctxCreated_mem_other (r : Run s₀) {f : FurrowIx} (g : Handle) (d : List Byte) {sp : Space} (hsp : sp ≠ .hbm f) :
    (r.ctxCreated f g d).now.mem sp = r.now.mem sp := by
  rw [Run.ctxCreated, Run.discardRange_mem_other _ _ _ hsp, Run.blank_mem_other _ _ hsp, Run.modFur_now, State.setFurrow_mem]

/-- HBM after CTX_CREATE: zeros in the region, unmapped entries for the Granary region, the rest as it was. -/
theorem Run.ctxCreated_get (hs : s₀.canonical) (r : Run s₀) (f : FurrowIx) (g : Handle) (d : List Byte) (a : Nat) :
    ((r.ctxCreated f g d).now.mem (.hbm f)).get a =
      if (r.now.furrow f).grn.usable = true ∧ (r.now.furrow f).grn.mapAddr (df d 32 4 * 256) ≤ a ∧
          a < (r.now.furrow f).grn.mapAddr ((df d 32 4 + df d 36 4) * 256) then 0
      else if df d 24 4 * hbmUnit ≤ a ∧ a < df d 24 4 * hbmUnit + df d 28 4 * hbmUnit then 0
      else (r.now.mem (.hbm f)).get a := by
  obtain ⟨-, -, grn⟩ := (r.now.furrow f).create_keeps g d
  obtain ⟨-, -, usable, base⟩ :=
    Run.blank_clearedOver (r.modFur f fun c => c.create g d) (.inr (.inr rfl)) (df d 24 4 * hbmUnit) (df d 28 4 * hbmUnit)
  rw [Run.modFur_now, State.furrow_setFurrow_same, grn] at usable base
  rw [Run.ctxCreated, Run.discardRange_get hs, usable, Granary.mapAddr_of_mapBase base, Run.blank_mem_same, Mem.get_paste_nil,
    Run.modFur_now, State.setFurrow_mem, Nat.add_mul]

end

end Sys2Proof.Machine
end

section
namespace Sys2Proof.Machine

variable {s₀ : State}

/-! ### What a store leaves alone of a furrow -/

/-- A view of a furrow that its attached objects and its known uncorrectable blocks have no part in. -/
def BesideStore {γ : Type} (view : Furrow → γ) : Prop :=
  ∀ (c : Furrow) (xs : List Attached) (n : ErrCounts), view { c with attached := xs, counts := n } = view c

section
variable {γ : Type} {view : Furrow → γ} (hv : BesideStore view)
include hv

theorem Furrow.mend_keeps (c : Furrow) (p : Space × Nat × Nat) : view (c.mend p) = view c := by
  unfold Furrow.mend
  split
  · rfl
  · exact hv c c.attached _

theorem Run.dirty_keeps (r : Run s₀) (f : FurrowIx) (h : Handle) (tier off n : Nat) :
    view ((r.dirty f h tier off n).now.furrow f) = view (r.now.furrow f) := by
  refine Run.each_keeps (fun t => view (t.furrow f)) _ (fun r a => ?_) _ r
  dsimp only
  split
  · rw [Run.modFur_now, State.furrow_setFurrow_same]
    refine (hv _ _ _).trans ?_
    refine Run.each_keeps (fun t => view (t.furrow f)) _ (fun r j => ?_) _ r
    split
    · rfl
    · rw [Run.write_now, State.setMem_furrow]
  · rfl

theorem Run.store_keeps (r : Run s₀) (f : FurrowIx) (h : Handle) (core tier off : Nat) (bs : List Byte) :
    view ((r.store f h core tier off bs).now.furrow f) = view (r.now.furrow f) := by
  unfold Run.store Run.storeCells
  refine (foldl_keeps (fun p : Run s₀ × Nat => view (p.1.now.furrow f)) _ (fun p q => ?_) _ _).trans ?_
  · rw [Run.modFur_now, State.furrow_setFurrow_same, Furrow.mend_keeps hv, Run.paste_now, State.setMem_furrow]
  · dsimp only
    split
    · exact Run.dirty_keeps hv r f h tier off _
    · rfl

theorem Run.ruin_keeps (r : Run s₀) (f : FurrowIx) (q : Request) : view ((r.ruin f q).now.furrow f) = view (r.now.furrow f) := by
  refine Run.each_keeps (fun t => view (t.furrow f)) _ (fun r x => ?_) _ r
  dsimp only
  split
  · rfl
  · split
    · rw [Run.toHost_furrow]
      rfl
    · exact Run.store_keeps hv (r.freeBytes x.2.2.2).2 f _ _ _ _ _

end

/-! ### What the ends of one context's requests leave alone -/

/-- What names a request. -/
def Request.name (q : Request) : Handle × Tag × Bool := (q.h, q.tag, q.isBox)

/-- The state of a context and its HBM region. -/
def Context.domain (x : Context) : CtxState × W32 × W32 := (x.state, x.hbmBase, x.hbmSize)

/-- The names that are of other contexts. -/
def othersOf (g : Handle) (qs : List Request) : List (Handle × Tag × Bool) := (qs.map Request.name).filter fun p => p.1 ≠ g

/-- What no record and no end of a request of a context changes: the context's state and HBM region, and which requests the other contexts
have. -/
def Furrow.apart (g : Handle) (c : Furrow) : (CtxState × W32 × W32) × List (Handle × Tag × Bool) := (c.ctx[g].domain, othersOf g c.reqs)

theorem Furrow.of_apart {c : Furrow} {g : Handle} {st : CtxState} {base size : W32} {xs : List (Handle × Tag × Bool)}
    (hc : c.apart g = ((st, base, size), xs)) :
    c.ctx[g].state = st ∧ c.ctx[g].hbmBase = base ∧ c.ctx[g].hbmSize = size ∧ othersOf g c.reqs = xs := by
  obtain ⟨domain, others⟩ := Prod.mk.inj hc
  obtain ⟨state, region⟩ := Prod.mk.inj domain
  obtain ⟨hbase, hsize⟩ := Prod.mk.inj region
  exact ⟨state, hbase, hsize, others⟩

theorem Furrow.apart_besidePyr (g : Handle) : BesidePyr (Furrow.apart g) := fun _ _ => rfl

theorem Furrow.apart_besideStore (g : Handle) : BesideStore (Furrow.apart g) := fun _ _ _ => rfl

theorem othersOf_modFirst {k : Request → Request} (hk : KeepsName k) (g h : Handle) (tag : Tag) (qs : List Request) :
    othersOf g (modFirst qs h tag k) = othersOf g qs := by
  have named : ∀ q, (k q).name = q.name := fun q => by
    obtain ⟨hh, htag, hbox⟩ := hk q
    rw [Request.name, hh, htag, hbox]
    rfl
  rw [othersOf, modFirst_map Request.name k named]
  rfl

theorem othersOf_modOne {k : Request → Request} (hk : ∀ q, (k q).name = q.name) (g : Handle) (p : Request → Bool) (qs : List Request) :
    othersOf g (modOne p k qs) = othersOf g qs := by
  refine congrArg (List.filter _) ?_
  induction qs with
  | nil => rfl
  | cons q qs ih =>
    unfold modOne
    split
    · exact congrArg (· :: qs.map Request.name) (hk q)
    · exact congrArg (q.name :: ·) ih

theorem othersOf_cons_own {g : Handle} {q : Request} (hq : q.h = g) (qs : List Request) : othersOf g (q :: qs) = othersOf g qs :=
  List.filter_cons_of_neg (by simp [Request.name, hq])

theorem othersOf_cons_congr (g : Handle) (q : Request) {qs xs : List Request} (h : othersOf g qs = othersOf g xs) :
    othersOf g (q :: qs) = othersOf g (q :: xs) := by
  unfold othersOf at h ⊢
  rw [List.map_cons, List.map_cons, List.filter_cons, List.filter_cons, h]

theorem othersOf_dropOne {g : Handle} {p : Request → Bool} (hp : ∀ q, p q = true → q.h = g) (qs : List Request) :
    othersOf g (dropOne p qs) = othersOf g qs := by
  induction qs with
  | nil => rfl
  | cons q qs ih =>
    unfold dropOne
    split
    · next own => exact (othersOf_cons_own (hp q own) qs).symm
    · exact othersOf_cons_congr g q ih

theorem othersOf_dropFirst (g : Handle) (tag : Tag) (qs : List Request) : othersOf g (dropFirst qs g tag) = othersOf g qs := by
  induction qs with
  | nil => rfl
  | cons q qs ih =>
    unfold dropFirst
    split
    · next own => exact (othersOf_cons_own ((q.isOf_iff g tag).1 own).1 qs).symm
    · exact othersOf_cons_congr g q ih

section
variable (c : Furrow) (f : FurrowIx) (g h : Handle) (tag : Tag)

theorem Furrow.modReq_apart {k : Request → Request} (hk : KeepsName k) : (c.modReq h tag k).apart g = c.apart g :=
  congrArg (Prod.mk c.ctx[g].domain) (othersOf_modFirst hk g h tag c.reqs)

theorem Furrow.modCtx_apart {y : Context → Context} (hy : ∀ x, (y x).domain = x.domain) : (c.modCtx h y).apart g = c.apart g :=
  congrArg (fun x => (x, othersOf g c.reqs)) (Furrow.view_modCtx Context.domain c h y hy g)

theorem Furrow.setReqs_apart {xs : List Request} (hx : othersOf g xs = othersOf g c.reqs) : Furrow.apart g { c with reqs := xs } = c.apart g :=
  congrArg (Prod.mk c.ctx[g].domain) hx

theorem Furrow.dropReq_apart : (c.dropReq g tag).apart g = c.apart g := c.setReqs_apart g (othersOf_dropFirst g tag c.reqs)

theorem Furrow.idleSlots_apart : (c.idleSlots h).apart g = c.apart g := rfl

theorem Furrow.leaveStep_apart : (c.leaveStep h tag).apart g = c.apart g := by
  unfold Furrow.leaveStep
  dsimp only
  split
  · exact Furrow.modReq_apart _ g h boxTag fun _ => ⟨rfl, rfl, rfl⟩
  · rfl

theorem Furrow.release_apart : (c.release h tag).apart g = c.apart g := c.leaveStep_apart g h tag

theorem Furrow.endReq_apart (e : Ending) : (c.endReq h tag e).apart g = c.apart g :=
  (Furrow.modCtx_apart (c.modReq h tag fun q => q.endAt c.ns e) g h (y := Context.updateNs) fun _ => rfl).trans
    (c.modReq_apart g h tag fun _ => ⟨rfl, rfl, rfl⟩)

theorem Furrow.finish_apart (e : Ending) : (c.finish f g tag e).apart g = c.apart g := by
  have released : ((c.endReq g tag e).release g tag).apart g = c.apart g :=
    (Furrow.release_apart _ g g tag).trans (c.endReq_apart g g tag e)
  unfold Furrow.finish
  dsimp only
  generalize (c.endReq g tag e).release g tag = d at released
  split
  · exact released
  · split
    · refine (Furrow.dropReq_apart _ g tag).trans ?_
      exact (Furrow.route_keeps (Furrow.apart_besidePyr g) _ f _).trans released
    · split
      · exact (d.dropReq_apart g tag).trans released
      · exact released

theorem Furrow.cancelReq_apart : (c.cancelReq f g tag).apart g = c.apart g := by
  unfold Furrow.cancelReq
  cases c.request? g tag with
  | none => rfl
  | some q =>
    dsimp only
    split
    · split
      · rfl
      · exact c.modReq_apart g g tag fun _ => ⟨rfl, rfl, rfl⟩
    · split
      · refine (Furrow.leaveStep_apart _ g g tag).trans ?_
        refine (Furrow.cancelMembers_keeps (Furrow.apart_besidePyr g) _ f q).trans ?_
        exact (Furrow.modCtx_apart (c.modReq g tag fun q => q.abortAt c.ns) g g (y := Context.updateNs) fun _ => rfl).trans
          (c.modReq_apart g g tag fun _ => ⟨rfl, rfl, rfl⟩)
      · rfl

end

section
variable (r : Run s₀) (f : FurrowIx) (g : Handle) (tag : Tag)

/-- The furrow stands as it did in what the ends of a context's requests leave alone. -/
abbrev Run.sameApart (r r' : Run s₀) (f : FurrowIx) (g : Handle) : Prop := (r'.now.furrow f).apart g = (r.now.furrow f).apart g

theorem Run.modFur_apart {k : Furrow → Furrow} (hk : ∀ c, (k c).apart g = c.apart g) : r.sameApart (r.modFur f k) f g := by
  rw [Run.sameApart, Run.modFur_now, State.furrow_setFurrow_same, hk]

theorem Run.closeStream_furrow (st : Byte) : (r.closeStream f g tag st).now.furrow f = r.now.furrow f := by
  unfold Run.closeStream
  dsimp only
  split
  · split <;> rw [Run.toHost_furrow]
  · rfl

theorem Run.writeRecord_apart (x : Record) : r.sameApart (r.writeRecord f g x false) f g := by
  have counted : ∀ c : Furrow, ((c.modRings g fun y => { y with cqTail := y.cqTail + 1 }).noteRing g).apart g = c.apart g := fun c =>
    c.modCtx_apart g g (y := fun y => { y with rings := { y.rings with cqTail := y.rings.cqTail + 1 } }) fun _ => rfl
  have own : ∀ q : Request, q.awaits g x.tag false = true → q.h = g := fun q hq => by
    simp only [Request.awaits, Bool.and_eq_true, decide_eq_true_eq] at hq
    obtain ⟨⟨⟨⟨hh, -⟩, -⟩, -⟩, -⟩ := hq
    exact hh
  unfold Run.writeRecord
  refine (Run.modFur_apart (r.toHost _ _) f g fun c => ?_).trans (congrArg (Furrow.apart g) (r.toHost_furrow _ _ f))
  dsimp only
  split
  · exact counted c
  · refine Eq.trans ?_ (counted c)
    exact Furrow.setReqs_apart _ g (othersOf_dropOne own c.reqs)

theorem Run.post_apart (x : Record) : r.sameApart (r.post f g x) f g := by
  have holds : ∀ c : Furrow, (c.modRings g fun y => { y with holding := y.holding ++ [x] }).apart g = c.apart g := fun c =>
    c.modCtx_apart g g (y := fun y => { y with rings := { y.rings with holding := y.rings.holding ++ [x] } }) fun _ => rfl
  unfold Run.post
  dsimp only
  split
  · exact r.writeRecord_apart f g x
  · refine r.modFur_apart f g fun c => ?_
    split
    · exact holds c
    · refine Eq.trans ?_ (holds c)
      exact Furrow.setReqs_apart _ g (othersOf_modOne (by intro q; rfl) g _ c.reqs)

theorem Run.postFinal_apart : r.sameApart (r.postFinal f g tag) f g := by
  unfold Run.postFinal
  split
  · rfl
  · dsimp only
    split
    · split
      · exact r.post_apart f g _
      · rfl
    · rfl

theorem Run.engineEnds_apart (h : Handle) (e : Ending) : r.sameApart (r.engineEnds f h tag e) f g := by
  refine r.modFur_apart f g fun c => ?_
  refine (Furrow.modCtx_apart _ g h (y := Context.updateNs) fun _ => rfl).trans ?_
  refine (Furrow.modReq_apart _ g h tag (k := fun q => { q with phase := .engineDone e, uses := [] }) fun _ => ⟨rfl, rfl, rfl⟩).trans ?_
  split
  · split
    · exact Furrow.cancelMembers_keeps (Furrow.apart_besidePyr g) _ f _
    · rfl
  · rfl

theorem Run.idleOwned_apart (e : Request → Ending) : r.sameApart (r.idleOwned f g e) f g := by
  unfold Run.idleOwned
  refine (Run.modFur_apart _ f g fun c => c.idleSlots_apart g g).trans ?_
  exact Run.each_keeps (fun t => (t.furrow f).apart g) (fun r (q : Request) => r.engineEnds f q.h q.tag (e q))
    (fun r q => r.engineEnds_apart f g q.tag q.h (e q)) _ r

/-! ### The requests of a context that is destroyed (R76, steps 1 to 3) -/

/-- A context that is being destroyed: it is DESTROYING, fetches no more, and its rings drain. -/
def Furrow.doomed (c : Furrow) (f : FurrowIx) (g : Handle) : Furrow :=
  (if c.ctx[g].state = .destroying then c else c.tallyClose f g 0x02 false).modCtx g fun x =>
    { x with
      state := .destroying
      rings := { x.rings with kept := [], openRun := none, state := if x.rings.state = .active then .draining else x.rings.state } }

/-- The end that a destruction gives to one request. -/
def Run.doomRequest (r : Run s₀) (f : FurrowIx) (g : Handle) (q : Request) : Run s₀ :=
  let r := if q.isEnded ∨ !q.dones.isEmpty then r else r.ruin f q
  let r := if q.isEnded then r
    else
      let r := if q.phase = Phase.aborting then r else r.modFur f fun c => c.cancelReq f g q.tag
      if q.inCommit ∨ !q.dones.isEmpty then r
      else (r.closeStream f g q.tag Status.cancelled).modFur f fun c => c.finish f g q.tag (.bare Status.cancelled 0)
  r.postFinal f g q.tag

/-- The requests of a context to which a destruction has given their ends. -/
def Run.doomRequests (r : Run s₀) (f : FurrowIx) (g : Handle) : Run s₀ :=
  (r.modFur f fun c => c.doomed f g).each (((r.modFur f fun c => c.doomed f g).fur f).outstanding g) fun r q => r.doomRequest f g q

theorem Run.destroyRequests_eq : r.destroyRequests f g =
    if (((r.doomRequests f g).fur f).outstanding g).all fun q => q.isEnded then
      (r.doomRequests f g).idleOwned f g fun _ => .bare Status.cancelled 0
    else r.doomRequests f g :=
  rfl

theorem Run.doomRequest_apart (q : Request) : r.sameApart (r.doomRequest f g q) f g := by
  have ruined : r.sameApart (if q.isEnded ∨ !q.dones.isEmpty then r else r.ruin f q) f g := by
    split
    · rfl
    · exact Run.ruin_keeps (Furrow.apart_besideStore g) r f q
  unfold Run.doomRequest
  dsimp only
  generalize (if q.isEnded ∨ !q.dones.isEmpty then r else r.ruin f q) = r₁ at ruined
  have cancelled : r₁.sameApart (if q.phase = Phase.aborting then r₁ else r₁.modFur f fun c => c.cancelReq f g q.tag) f g := by
    split
    · rfl
    · exact r₁.modFur_apart f g fun c => c.cancelReq_apart f g q.tag
  generalize (if q.phase = Phase.aborting then r₁ else r₁.modFur f fun c => c.cancelReq f g q.tag) = r₂ at cancelled
  refine (Run.postFinal_apart _ f g q.tag).trans (Eq.trans ?_ ruined)
  split
  · rfl
  · refine Eq.trans ?_ cancelled
    split
    · rfl
    · refine (Run.modFur_apart _ f g fun c => c.finish_apart f g q.tag _).trans ?_
      rw [Run.closeStream_furrow]

theorem Furrow.doomed_apart (c : Furrow) :
    (c.doomed f g).apart g = ((.destroying, c.ctx[g].hbmBase, c.ctx[g].hbmSize), othersOf g c.reqs) := by
  have closed : (if c.ctx[g].state = .destroying then c else c.tallyClose f g 0x02 false).roll = c.roll := by
    split
    · rfl
    · exact c.tallyClose_roll f g 0x02 false
  unfold Furrow.doomed
  generalize (if c.ctx[g].state = .destroying then c else c.tallyClose f g 0x02 false) = d at closed
  rw [Furrow.apart, Furrow.modCtx_same, Furrow.modCtx_reqs, Furrow.ctx_of_roll closed, Furrow.reqs_of_roll closed]
  rfl

/-- While its requests end a context is DESTROYING with its region, and no other context loses a request. -/
theorem Run.destroyRequests_apart : ((r.destroyRequests f g).now.furrow f).apart g =
    ((.destroying, (r.now.furrow f).ctx[g].hbmBase, (r.now.furrow f).ctx[g].hbmSize), othersOf g (r.now.furrow f).reqs) := by
  have ended : ((r.doomRequests f g).now.furrow f).apart g =
      ((.destroying, (r.now.furrow f).ctx[g].hbmBase, (r.now.furrow f).ctx[g].hbmSize), othersOf g (r.now.furrow f).reqs) := by
    refine (Run.each_keeps (fun t => (t.furrow f).apart g) (fun r (q : Request) => r.doomRequest f g q)
      (fun r q => r.doomRequest_apart f g q) _ _).trans ?_
    rw [Run.modFur_now, State.furrow_setFurrow_same, Furrow.doomed_apart]
  rw [Run.destroyRequests_eq]
  refine Eq.trans ?_ ended
  split
  · exact (r.doomRequests f g).idleOwned_apart f g _
  · rfl

end

/-- A request of another context is found by its name. -/
theorem Furrow.request?_isSome_iff {c : Furrow} {g h : Handle} (hg : g ≠ h) (tag : Tag) :
    (c.request? h tag).isSome ↔ (h, tag, decide (tag = boxTag)) ∈ othersOf g c.reqs := by
  have ne : h ≠ g := hg.symm
  simp [Furrow.request?, othersOf, Request.name, Request.isOf_iff, ne]

end Sys2Proof.Machine
end

section
namespace Sys2Proof.Machine

variable {s₀ : State}

/-! ### The rest of a destruction (R76, steps 4 to 6) -/

/-- Who holds the cluster SRAM units, and the requests. -/
def Furrow.holders (c : Furrow) : Vector (Option Handle) 128 × List Request := (c.t1Owner, c.reqs)

theorem Furrow.holders_besidePyr : BesidePyr Furrow.holders := fun _ _ => rfl

theorem Furrow.keepHealth_holders (c : Furrow) (g : Health → Health) : (c.keepHealth g).holders = c.holders := by
  unfold Furrow.keepHealth
  dsimp only
  split <;> rfl

theorem Furrow.countUe_holders (c : Furrow) (e : ErrRec) : (c.countUe e).holders = c.holders := by
  unfold Furrow.countUe Furrow.rollCounts
  dsimp only
  split
  · split <;> rfl
  · rfl

theorem Furrow.raise_holders (c : Furrow) (e : ErrRec) (ends : List (Handle × Tag)) : (c.raise e ends).holders = c.holders :=
  c.countUe_holders e

/-- An owner of a unit after a context has given its units up. -/
def ownerLess (g : Handle) (o : Option Handle) : Option Handle := if o = some g then none else o

theorem ownerLess_ne (g : Handle) (o : Option Handle) : ownerLess g o ≠ some g := by
  unfold ownerLess
  split
  · exact nofun
  · assumption

/-- Giving units up takes their owner away, whether or not a unit retires with it. -/
theorem Furrow.freeUnitsOf_holders (c : Furrow) (g : Handle) : (c.freeUnitsOf g).holders = (c.t1Owner.map (ownerLess g), c.reqs) := by
  refine (foldl_keeps Furrow.holders _ (fun c u => ?_) _ _).trans rfl
  exact (Furrow.raise_holders _ _ _).trans (c.keepHealth_holders _)

theorem Furrow.endBinding_holders (c : Furrow) (f : FurrowIx) (g : Handle) : (c.endBinding f g).holders = c.holders := by
  unfold Furrow.endBinding
  cases c.bind? g with
  | none => rfl
  | some b => exact foldl_keeps Furrow.holders _ (fun _ _ => Furrow.route_keeps Furrow.holders_besidePyr _ f _) b.entries c

/-- A furrow that has nothing of a context left. -/
def Furrow.vacated (c : Furrow) (f : FurrowIx) (g : Handle) : Furrow :=
  let c := ((c.endBinding f g).idleSlots g).freeUnitsOf g
  let c := { c with
    reqs := c.reqs.filter fun q => q.h ≠ g
    steps := c.steps.filter fun w => w.h ≠ g
    toks := c.toks.filter fun b => b.h ≠ g
    plans := c.plans.filter fun b => b.h ≠ g
    peers := c.peers.filter fun p => p.1 ≠ g
    halfImages := c.halfImages.filter fun p => p.1 ≠ g
    winEn := c.winEn.set g false
    winSize := c.winSize.set g 0 }
  let c := c.modSec fun z => { z with log := z.log.filter fun e => e.handle.toNat ≠ g.val }
  c.modCtx g fun _ => Context.initial

theorem Furrow.vacated_ctx (c : Furrow) (f : FurrowIx) (g : Handle) : (c.vacated f g).ctx[g] = Context.initial := Furrow.modCtx_same _ g _

theorem Furrow.vacated_holders (c : Furrow) (f : FurrowIx) (g : Handle) :
    (c.vacated f g).t1Owner = c.t1Owner.map (ownerLess g) ∧ (c.vacated f g).reqs = c.reqs.filter fun q => q.h ≠ g := by
  have kept : (((c.endBinding f g).idleSlots g).freeUnitsOf g).holders = (c.t1Owner.map (ownerLess g), c.reqs) := by
    obtain ⟨owners, reqs⟩ := Prod.mk.inj (c.endBinding_holders f g)
    exact (Furrow.freeUnitsOf_holders _ g).trans (congrArg₂ (fun x y => (Vector.map (ownerLess g) x, y)) owners reqs)
  obtain ⟨owners, reqs⟩ := Prod.mk.inj kept
  exact ⟨owners, congrArg (List.filter fun q : Request => decide (q.h ≠ g)) reqs⟩

/-- The memories that a destroyed context held, set to zero. -/
def Run.emptied (r : Run s₀) (f : FurrowIx) (g : Handle) : Run s₀ :=
  let x := (r.fur f).ctx[g]
  (((r.blank f (.hbm f) (x.hbmBase.toNat * hbmUnit) (x.hbmSize.toNat * hbmUnit)).clearCores f g).zeroUnits f g).discardRange f
    (x.grnBase.toNat * 256) (x.grnSize.toNat * 256)

theorem Run.destroyRest_eq (r : Run s₀) (f : FurrowIx) (g : Handle) :
    r.destroyRest f g = (r.emptied f g).modFur f fun c => c.vacated f g := rfl

theorem Run.emptied_clearedOver (r : Run s₀) (f : FurrowIx) (g : Handle) : r.now.clearedOver f (r.emptied f g).now := by
  unfold Run.emptied
  refine State.clearedOver_trans ?_ (Run.discardRange_clearedOver _ f _ _)
  refine State.clearedOver_trans ?_ (Run.zeroUnits_clearedOver _ f g)
  refine State.clearedOver_trans ?_ (Run.clearCores_clearedOver _ f g)
  exact r.blank_clearedOver (.inr (.inr rfl)) _ _

/-- A destroyed context's HBM region reads as zero. -/
theorem Run.emptied_get (hs : s₀.canonical) (r : Run s₀) (f : FurrowIx) (g : Handle) {a : Nat}
    (hlo : (r.now.furrow f).ctx[g].hbmBase.toNat * hbmUnit ≤ a)
    (hhi : a < ((r.now.furrow f).ctx[g].hbmBase.toNat + (r.now.furrow f).ctx[g].hbmSize.toNat) * hbmUnit) :
    ((r.emptied f g).now.mem (.hbm f)).get a = 0 := by
  rw [Nat.add_mul] at hhi
  rw [Run.emptied, Run.discardRange_get hs]
  split
  · rfl
  · rw [Run.zeroUnits_mem_other _ g (show Space.hbm f ≠ .t1 f from nofun), Run.clearCores_mem_other _ g (show Space.hbm f ≠ .t0 f from nofun),
       Run.blank_mem_same, Mem.get_paste_nil]
    exact if_pos ⟨hlo, hhi⟩

theorem Run.engineEnds_mem (r : Run s₀) (f : FurrowIx) (h : Handle) (tag : Tag) (e : Ending) (sp : Space) :
    (r.engineEnds f h tag e).now.mem sp = r.now.mem sp :=
  State.setFurrow_mem _ _ _ _

/-! ### CTX_DESTROY (R76) -/

section
variable {f : FurrowIx} {h g : Handle} {tag : Tag} {q : Request} {s : State} (hg : opHandle q.desc = some g)
  (hq : (s.furrow f).atWork h tag 0xFD = some q)
include hg hq

theorem execCtxDestroy_frees (hd : (((Run.start s).destroyRequests f g).fur f).drained g = true) : exec (.ctxDestroy f h tag) s =
    .next ((((Run.start s).destroyRequests f g).destroyRest f g).engineEnds f h tag (Ending.ok 0 0)).now := by
  show execCtxDestroy f h tag s = _
  simp only [execCtxDestroy, hq, hg, hd, if_true, Run.done_next]

theorem execCtxDestroy_waits (hd : (((Run.start s).destroyRequests f g).fur f).drained g = false) :
    exec (.ctxDestroy f h tag) s = .next ((Run.start s).destroyRequests f g).now := by
  show execCtxDestroy f h tag s = _
  simp only [execCtxDestroy, hq, hg, hd, Bool.false_eq_true, if_false, Run.done_next]

end

/-- A request of another context outlives a destruction, so that its descriptor can end. -/
theorem Run.destroyRest_request? {r : Run s₀} {f : FurrowIx} {g h : Handle} (hg : g ≠ h) {tag : Tag}
    (hr : (h, tag, decide (tag = boxTag)) ∈ othersOf g (r.now.furrow f).reqs) :
    ∃ p, ((r.destroyRest f g).now.furrow f).request? h tag = some p := by
  refine Option.isSome_iff_exists.1 ((Furrow.request?_isSome_iff hg tag).2 ?_)
  obtain ⟨-, reqs⟩ := ((r.emptied f g).now.furrow f).vacated_holders f g
  obtain ⟨-, roll, -⟩ := r.emptied_clearedOver f g
  rw [Run.destroyRest_eq, Run.modFur_now, State.furrow_setFurrow_same, reqs, Furrow.reqs_of_roll roll]
  obtain ⟨named, other⟩ := List.mem_filter.1 hr
  obtain ⟨p, hp, name⟩ := List.mem_map.1 named
  refine List.mem_filter.2 ⟨List.mem_map.2 ⟨p, List.mem_filter.2 ⟨hp, ?_⟩, name⟩, other⟩
  rw [← name] at other
  exact other

/-- The last steps of a destruction and the end of its descriptor leave the handle FREE with nothing of the old context. -/
theorem Run.destroyed (r : Run s₀) (f : FurrowIx) {g h : Handle} (hg : g ≠ h) {tag : Tag}
    (hr : (h, tag, decide (tag = boxTag)) ∈ othersOf g (r.now.furrow f).reqs) {t : State}
    (ht : t = ((r.destroyRest f g).engineEnds f h tag (Ending.ok 0 0)).now) :
    t.descriptorEnded f h tag (Ending.ok 0 0) ∧ (t.furrow f).ctx[g] = Context.initial ∧ (t.furrow f).outstanding g = [] ∧
      (∀ u : Fin 128, (t.furrow f).t1Owner[u] ≠ some g) ∧ t.mem (.hbm f) = (r.emptied f g).now.mem (.hbm f) := by
  subst ht
  have rest : (r.destroyRest f g).now.furrow f = ((r.emptied f g).now.furrow f).vacated f g := by
    rw [Run.destroyRest_eq, Run.modFur_now, State.furrow_setFurrow_same]
  obtain ⟨owners, reqs⟩ := ((r.emptied f g).now.furrow f).vacated_holders f g
  obtain ⟨p, found⟩ := Run.destroyRest_request? hg hr
  refine ⟨Run.engineEnds_ended (failed_ok 0 0) found, ?_, ?_, fun u => ?_, ?_⟩
  · rw [Run.engineEnds_done (failed_ok 0 0), Furrow.modCtx_other _ h g _ hg, Furrow.modReq_ctx, rest, Furrow.vacated_ctx]
  · rw [Furrow.outstanding_eq_nil_iff, Run.engineEnds_owing, ← Furrow.outstanding_eq_nil_iff, rest, Furrow.outstanding, reqs]
    refine List.filter_eq_nil_iff.2 fun q hq own => ?_
    exact of_decide_eq_true (List.mem_filter.1 hq).2 (of_decide_eq_true own).1
  · have same : (((r.destroyRest f g).engineEnds f h tag (Ending.ok 0 0)).now.furrow f).t1Owner =
        ((r.emptied f g).now.furrow f).t1Owner.map (ownerLess g) := by
      rw [Run.engineEnds_done (failed_ok 0 0), Furrow.modCtx_t1Owner, Furrow.modReq_t1Owner, rest, owners]
    rw [same, Fin.getElem_fin, Vector.getElem_map]
    exact ownerLess_ne g _
  · rw [Run.engineEnds_mem, Run.destroyRest_eq, Run.modFur_now, State.setFurrow_mem]

/-- Settles O25: a destruction keeps the region to be zeroed and the request that asks for it until every request of the context is over. -/
theorem contextsAreCreatedAndDestroyed : Obligations.ContextsAreCreatedAndDestroyed := by
  refine ⟨fun f h g tag q s hq hop hg hs => ?_, fun f h g tag q s hq hop hg hs => ?_⟩
  · obtain ⟨only, entry, requests⟩ := (Run.start s).ctxCreated_keeps f g q.desc
    have reads := (Run.start s).ctxCreated_get hs f g q.desc
    obtain ⟨hreq, -⟩ := Furrow.atWork_is hq
    have ended : ((((Run.start s).ctxCreated f g q.desc).engineEnds f h tag (Ending.ok 0 0)).now.furrow f).ctx[g] = createdContext q.desc := by
      rw [Run.engineEnds_done (failed_ok 0 0), Furrow.modCtx_other _ h g _ hg, Furrow.modReq_ctx, entry]
    refine ⟨_, execCtxCreate_ends hop hq, Run.engineEnds_ended (failed_ok 0 0) ((requests h tag).trans hreq),
      State.onlyFurrow_trans only (Run.engineEnds_onlyFurrow _ f h tag _), ended, fun a hlo hhi => ?_, fun a ha => ?_, fun a ha hn => ?_, ?_, ?_⟩
    · rw [Run.engineEnds_mem, reads, if_pos (And.intro hlo hhi), ite_self]
    · rw [Run.engineEnds_mem, reads]
      exact if_pos ha
    · rw [Run.engineEnds_mem, reads]
      exact (if_neg hn).trans (if_neg (by omega))
    · rw [Run.engineEnds_mem, Run.ctxCreated_mem_other _ g _ (show Space.t1 f ≠ .hbm f from nofun), Run.start_now]
    · rw [Run.engineEnds_mem, Run.ctxCreated_mem_other _ g _ (show Space.t0 f ≠ .hbm f from nofun), Run.start_now]
  · obtain ⟨hreq, -⟩ := Furrow.atWork_is hq
    have named := (Furrow.request?_isSome_iff hg tag).1 (Option.isSome_of_eq_some hreq)
    obtain ⟨state, base, size, others⟩ := Furrow.of_apart (Run.destroyRequests_apart (Run.start s) f g)
    refine ⟨fun hd => ?_, fun hd => ⟨_, execCtxDestroy_waits hop hq hd, rfl, state⟩⟩
    obtain ⟨ended, initial, none, units, mem⟩ := Run.destroyed ((Run.start s).destroyRequests f g) f hg (tag := tag)
      (by rw [others]; exact named) rfl
    refine ⟨_, execCtxDestroy_frees hop hq hd, ended, initial, none, units, fun a hlo hhi => ?_⟩
    rw [mem]
    exact Run.emptied_get hs _ f g (by rw [base]; exact hlo) (by rw [base, size]; exact hhi)

end Sys2Proof.Machine
end

section
namespace Sys2Proof.Machine

variable {s₀ : State}

/-! ### Work whose only effect is its stores (R133, R328, R423) -/

/-- What work in a furrow's memories cannot change of its control part: all but the attached objects, the known uncorrectable blocks and
the windows' copies. -/
def Furrow.besideWork (c : Furrow) : Furrow := { c with attached := [], counts := .initial, windows := [] }

theorem Furrow.besideWork_besideStore : BesideStore Furrow.besideWork := fun _ _ _ => rfl

theorem Furrow.eq_of_besideWork {c d : Furrow} (h : d.besideWork = c.besideWork) :
    d = { c with attached := d.attached, counts := d.counts, windows := d.windows } :=
  calc
    d = { d.besideWork with attached := d.attached, counts := d.counts, windows := d.windows } := rfl
    _ = { c.besideWork with attached := d.attached, counts := d.counts, windows := d.windows } := by rw [h]
    _ = { c with attached := d.attached, counts := d.counts, windows := d.windows } := rfl

/-- From one state to another work has been done in a furrow's own memories, and no more. -/
def State.workedOver (s : State) (f : FurrowIx) (t : State) : Prop :=
  s.onlyFurrow f t ∧ (t.furrow f).besideWork = (s.furrow f).besideWork

theorem State.workedOver_refl (s : State) (f : FurrowIx) : s.workedOver f s := ⟨s.onlyFurrow_refl f, rfl⟩

theorem State.workedOver_trans {s t u : State} {f : FurrowIx} (st : s.workedOver f t) (tu : t.workedOver f u) : s.workedOver f u :=
  ⟨State.onlyFurrow_trans st.1 tu.1, tu.2.trans st.2⟩

theorem State.workedOver.request? {s t : State} {f : FurrowIx} (st : s.workedOver f t) (h : Handle) (tag : Tag) :
    (t.furrow f).request? h tag = (s.furrow f).request? h tag :=
  Furrow.request?_congr (congrArg Furrow.reqs st.2) h tag

/-- The engine's end of such work leaves the furrow's units as they stood. -/
theorem State.workedOver.unitsKept {s : State} {f : FurrowIx} {r : Run s₀} (st : s.workedOver f r.now) (h : Handle) (tag : Tag) {e : Ending}
    (he : failed e = false) : (s.furrow f).unitsKept ((r.engineEnds f h tag e).now.furrow f) := by
  rw [Run.engineEnds_done he, Furrow.eq_of_besideWork st.2]
  refine ⟨rfl, rfl, rfl, rfl, rfl, rfl, rfl, rfl, rfl, rfl, rfl, rfl, rfl, rfl, rfl, rfl, rfl, rfl, fun k => ?_⟩
  by_cases hk : k = h
  · subst hk
    exact .inr (Furrow.modCtx_same _ k _)
  · exact .inl (Furrow.modCtx_other _ h k _ hk)

/-! ### Stores -/

theorem Run.put_onlyFurrow (r : Run s₀) (f : FurrowIx) (h : Handle) (core tier off n : Nat) (img : List Host.Cell) :
    r.now.onlyFurrow f (r.put f h core tier off n img).now := by
  refine List.foldlRecOn (motive := fun p : Run s₀ × Nat => r.now.onlyFurrow f p.1.now) _ _ (r.now.onlyFurrow_refl f) fun p hp x hx => ?_
  have pasted := p.1.now.onlyFurrow_setMem (Furrow.pieces_on _ f h core tier off n x hx)
  exact State.onlyFurrow_trans hp (State.onlyFurrow_trans (pasted _) (State.onlyFurrow_setFurrow _ f _))

theorem Run.store_onlyFurrow (r : Run s₀) (f : FurrowIx) (h : Handle) (core tier off : Nat) (bs : List Byte) :
    r.now.onlyFurrow f (r.store f h core tier off bs).now := by
  refine State.onlyFurrow_trans ?_ (Run.put_onlyFurrow _ f h core tier off _ _)
  split
  · exact (Run.dirty_storedOver (r.now.storedOver_refl f) h tier off _).1
  · exact r.now.onlyFurrow_refl f

theorem Run.store_workedOver (r : Run s₀) (f : FurrowIx) (h : Handle) (core tier off : Nat) (bs : List Byte) :
    r.now.workedOver f (r.store f h core tier off bs).now :=
  ⟨r.store_onlyFurrow f h core tier off bs, Run.store_keeps Furrow.besideWork_besideStore r f h core tier off bs⟩

/-- Work done item by item, with a tally beside it, is work as each item's is. -/
theorem Run.foldl_workedOver {α : Type} {f : FurrowIx} (g : Run s₀ × Nat → α → Run s₀ × Nat)
    (hg : ∀ (p : Run s₀ × Nat) x, p.1.now.workedOver f (g p x).1.now) (xs : List α) (p : Run s₀ × Nat) :
    p.1.now.workedOver f (xs.foldl g p).1.now :=
  List.foldlRecOn (motive := fun q : Run s₀ × Nat => p.1.now.workedOver f q.1.now) xs g (p.1.now.workedOver_refl f) fun q hq x _ =>
    State.workedOver_trans hq (hg q x)

theorem Run.each_workedOver {α : Type} {f : FurrowIx} (g : Run s₀ → α → Run s₀) (hg : ∀ (r : Run s₀) x, r.now.workedOver f (g r x).now)
    (xs : List α) (r : Run s₀) : r.now.workedOver f (r.each xs g).now :=
  List.foldlRecOn (motive := fun t : Run s₀ => r.now.workedOver f t.now) xs g (r.now.workedOver_refl f) fun t ht x _ =>
    State.workedOver_trans ht (hg t x)

theorem Run.putRow_workedOver (r : Run s₀) (e : Eng) (t : Tensor) (i : Nat) (codes : List Nat) :
    r.now.workedOver e.f (r.putRow e t i codes).now :=
  r.store_workedOver e.f e.h e.core _ _ _

theorem Run.putScales_workedOver (r : Run s₀) (e : Eng) (t : Tensor) (i : Nat) (scales : List Nat) :
    r.now.workedOver e.f (r.putScales e t i scales).now :=
  r.store_workedOver e.f e.h e.core _ _ _

theorem Run.product_workedOver (r : Run s₀) (e : Eng) (a : MatDesc) (ws : List WindowCopy) (b : Nat) :
    r.now.workedOver e.f (r.product e a ws b).1.now := by
  unfold Run.product
  refine Run.foldl_workedOver _ (fun p row => ?_) _ (r, 0)
  exact p.1.putRow_workedOver e _ row.2 _

theorem Run.setWindows_workedOver (r : Run s₀) (f : FurrowIx) (g : Furrow → List WindowCopy) :
    r.now.workedOver f (r.modFur f fun c => { c with windows := g c }).now := by
  refine ⟨State.onlyFurrow_setFurrow _ f _, ?_⟩
  rw [Run.modFur_now, State.furrow_setFurrow_same]
  rfl

theorem Run.prefetch_workedOver (r : Run s₀) (e : Eng) (d : List Byte) (next : Option (List Byte)) :
    r.now.workedOver e.f (r.prefetch e d next).now := by
  unfold Run.prefetch
  refine State.workedOver_trans ?_ (Run.setWindows_workedOver _ e.f _)
  exact Run.each_workedOver _ (fun r _ => r.store_workedOver e.f e.h 0 1 _ _) _ r

theorem Run.scribble_workedOver (r : Run s₀) (e : Eng) (x : Extent) : r.now.workedOver e.f (r.scribble e x).now :=
  State.workedOver_trans (t := (r.freeBytes x.2.2).2.now) ⟨r.now.onlyFurrow_refl e.f, rfl⟩ (Run.store_workedOver _ e.f e.h e.core _ _ _)

/-! ### A read of uncorrectable data, and the end that it gives (R423, R424) -/

section
variable {f : FurrowIx} {h : Handle} {tag : Tag}

/-- Work that has met uncorrectable data: it concerns its furrow alone, and the request goes on to a DATA_ERROR. -/
def FailsInside (s : State) (f : FurrowIx) (h : Handle) (tag : Tag) (x : Run s₀ × Ending) : Prop :=
  x.2.status = Status.dataError ∧ s.onlyFurrow f x.1.now ∧ ∃ q, (x.1.now.furrow f).request? h tag = some q

theorem Run.readFault_failsInside {r : Run s₀} {e : Eng} {q : Request} (hq : (r.now.furrow e.f).request? e.h e.tag = some q)
    (p : Space × Nat × Nat) : FailsInside r.now e.f e.h e.tag (r.readFault e p) := by
  unfold Run.readFault
  split
  · exact ⟨rfl, r.now.onlyFurrow_refl e.f, q, hq⟩
  · refine ⟨rfl, State.onlyFurrow_setFurrow _ _ _, ?_⟩
    dsimp only
    rw [Run.setFur_now, State.furrow_setFurrow_same]
    refine ⟨_, Furrow.request?_modReq_of_keepsName (q := q) (fun _ => ⟨rfl, rfl, rfl⟩) ?_⟩
    rw [Furrow.request?_congr (congrArg Prod.snd (Furrow.raise_holders _ _ _)), Run.fur_eq, hq]

theorem Run.spoil_failsInside {r : Run s₀} {e : Eng} {q : Request} (hq : (r.now.furrow e.f).request? e.h e.tag = some q)
    (p : Space × Nat × Nat) (outs : List Extent) : FailsInside r.now e.f e.h e.tag (r.spoil e p outs) := by
  have spoilt : r.now.workedOver e.f (r.each outs fun r x => r.scribble e x).now :=
    Run.each_workedOver _ (fun r x => r.scribble_workedOver e x) outs r
  obtain ⟨status, only, found⟩ := Run.readFault_failsInside ((spoilt.request? e.h e.tag).trans hq) p
  exact ⟨status, State.onlyFurrow_trans spoilt.1 only, found⟩

/-- A descriptor ends as its engine says, whether or not members below are told. -/
theorem Run.engineEnds_descriptorEnded {r : Run s₀} (hq : ∃ q, (r.now.furrow f).request? h tag = some q) (e : Ending) :
    (r.engineEnds f h tag e).now.descriptorEnded f h tag e := by
  obtain ⟨q, hq⟩ := hq
  unfold Run.engineEnds
  refine ⟨{ q with phase := .engineDone e, uses := [] }, ?_, rfl, rfl⟩
  rw [Run.modFur_now, State.furrow_setFurrow_same]
  refine Furrow.request?_modReq_of_keepsName (fun _ => ⟨rfl, rfl, rfl⟩) ?_
  split
  · rw [hq]
    exact (Furrow.request?_congr (congrArg Prod.snd (Furrow.cancelMembers_keeps Furrow.holders_besidePyr _ f q)) h tag).trans hq
  · exact hq

end

/-! ### Descriptors that read, store and count (R133) -/

section
variable {s : State} {f : FurrowIx} {h : Handle} {tag : Tag} {op : Byte}

/-- Work that has only stored in the furrow's own memories, and ends DONE with a COUNT that fits its field and RESULT bytes 32–39 of the
descriptor. -/
def StoresAndCounts (s : State) (f : FurrowIx) (d : List Byte) (x : Run s × Ending) : Prop :=
  s.workedOver f x.1.now ∧ ∃ n, n ≤ 65535 ∧ x.2 = Ending.ok n (df d 32 8)

/-- What work that reads before it stores comes to: a count where no uncorrectable data is known, else a count or a DATA_ERROR. -/
def CountsOrFails (s : State) (f : FurrowIx) (q : Request) (x : Run s × Ending) : Prop :=
  ((s.furrow f).counts.bad = [] → StoresAndCounts s f q.desc x) ∧ (StoresAndCounts s f q.desc x ∨ FailsInside s f q.h q.tag x)

theorem Run.reading_countsOrFails {q : Request} (hq : (s.furrow f).request? q.h q.tag = some q) (xs outs : List Extent)
    {body : Run s → Run s × Ending} (hbody : StoresAndCounts s f q.desc (body (Run.start s))) :
    CountsOrFails s f q ((Run.start s).reading (q.eng f) xs outs body) := by
  constructor
  · intro hb
    rwa [Run.reading_of_none_bad hb]
  · unfold Run.reading
    split
    · exact .inl hbody
    · exact .inr (Run.spoil_failsInside (e := q.eng f) hq _ outs)

theorem satCount_le (n : Nat) : satCount n ≤ 65535 := Nat.min_le_right n 65535

theorem Run.matmul_countsOrFails {q : Request} (hq : (s.furrow f).request? q.h q.tag = some q) :
    CountsOrFails s f q ((Run.start s).matmul (q.eng f) q.desc q.following) := by
  unfold Run.matmul
  refine Run.reading_countsOrFails hq _ _ ⟨?_, _, satCount_le _, rfl⟩
  refine State.workedOver_trans ?_ (Run.prefetch_workedOver _ (q.eng f) q.desc q.following)
  refine Run.foldl_workedOver _ (fun p b => ?_) _ (Run.start s, 0)
  exact p.1.product_workedOver (q.eng f) _ _ b

theorem Run.vector_countsOrFails {q : Request} (hq : (s.furrow f).request? q.h q.tag = some q) :
    CountsOrFails s f q ((Run.start s).vector (q.eng f) q.desc) := by
  unfold Run.vector
  refine Run.reading_countsOrFails hq _ _ ⟨?_, _, satCount_le _, rfl⟩
  refine Run.foldl_workedOver _ (fun p row => ?_) _ (Run.start s, 0)
  have rowStored := p.1.putRow_workedOver (q.eng f) (VecDesc.of q.desc).ty row.2 row.1.1
  dsimp only
  split
  · exact rowStored
  · exact State.workedOver_trans rowStored (Run.putScales_workedOver _ (q.eng f) _ _ _)

/-- What a command of the matrix and vector engines comes to: nothing where no request is at its descriptor; while no uncorrectable data is
known, DONE with a COUNT and the furrow's units as they stood; otherwise so or with DATA_ERROR, and nothing outside the furrow. -/
def State.rowEnds (s : State) (f : FurrowIx) (h : Handle) (tag : Tag) (op : Byte) (o : Host.Outcome State Fault Refusal) : Prop :=
  ((s.furrow f).atWork h tag op = none → o = .next s) ∧
  ∀ q, (s.furrow f).atWork h tag op = some q →
    ((s.furrow f).counts.bad = [] → ∃ t n, o = .next t ∧ n ≤ 65535 ∧ t.descriptorEnded f h tag (Ending.ok n (df q.desc 32 8)) ∧
      (s.furrow f).unitsKept (t.furrow f) ∧ s.onlyFurrow f t) ∧
    ∃ t e, o = .next t ∧ t.descriptorEnded f h tag e ∧ s.onlyFurrow f t ∧
      (e.status = Status.dataError ∨ ∃ n, n ≤ 65535 ∧ e = Ending.ok n (df q.desc 32 8))

theorem runDesc_void (hq : (s.furrow f).atWork h tag op = none) (work : Request → Run s → Run s × Ending) :
    runDesc op f h tag s work = .next s := by
  simp only [runDesc, Run.desc, Run.fur_eq, Run.start_now, hq, Run.done_next]

/-- The engine's end of work that has only stored is DONE, and leaves the furrow's units and all else outside its memories as they stood. -/
theorem StoresAndCounts.ends {q : Request} {x : Run s × Ending} (hx : StoresAndCounts s f q.desc x)
    (hq : (s.furrow f).request? h tag = some q) :
    ∃ n, n ≤ 65535 ∧ x.2 = Ending.ok n (df q.desc 32 8) ∧ (x.1.engineEnds f h tag x.2).now.descriptorEnded f h tag x.2 ∧
      (s.furrow f).unitsKept ((x.1.engineEnds f h tag x.2).now.furrow f) ∧ s.onlyFurrow f (x.1.engineEnds f h tag x.2).now := by
  obtain ⟨worked, n, hn, ending⟩ := hx
  exact ⟨n, hn, ending, Run.engineEnds_descriptorEnded ⟨q, (worked.request? h tag).trans hq⟩ _,
    worked.unitsKept h tag (ending ▸ failed_ok n _), State.onlyFurrow_trans worked.1 (Run.engineEnds_onlyFurrow _ f h tag _)⟩

theorem runDesc_rowEnds {work : Request → Run s → Run s × Ending}
    (hw : ∀ q, (s.furrow f).request? q.h q.tag = some q → CountsOrFails s f q (work q (Run.start s))) :
    s.rowEnds f h tag op (runDesc op f h tag s work) := by
  refine ⟨fun hq => runDesc_void hq work, fun q hq => ?_⟩
  rw [runDesc_atWork hq]
  obtain ⟨hreq, -⟩ := Furrow.atWork_is hq
  obtain ⟨rfl, rfl, -⟩ := Furrow.request?_is _ _ _ _ hreq
  obtain ⟨counts, ends⟩ := hw q hreq
  generalize work q (Run.start s) = x at counts ends
  constructor
  · intro hb
    obtain ⟨n, hn, ending, ended, kept, only⟩ := (counts hb).ends hreq
    exact ⟨_, n, rfl, hn, ending ▸ ended, kept, only⟩
  · obtain stored | ⟨status, only, found⟩ := ends
    · obtain ⟨n, hn, ending, ended, -, only⟩ := stored.ends hreq
      exact ⟨_, _, rfl, ended, only, .inr ⟨n, hn, ending⟩⟩
    · exact ⟨_, _, rfl, Run.engineEnds_descriptorEnded found _, State.onlyFurrow_trans only (Run.engineEnds_onlyFurrow _ f q.h q.tag _),
        .inl status⟩

/-! ### HAMMING_SCAN (R177, R137) -/

theorem Run.reading_of_good {r : Run s₀} {e : Eng} {xs : List Extent} (hx : (r.now.furrow e.f).firstBad e xs = none) (outs : List Extent)
    (work : Run s₀ → Run s₀ × Ending) : r.reading e xs outs work = work r := by
  unfold Run.reading
  rw [Run.fur_eq, hx]

/-- The distance of two codes is the number of bits in which they differ. -/
theorem hamming_eq (bits a b : Nat) : hamming bits a b = ((List.range bits).filter fun i => b.testBit i != a.testBit i).length := by
  have differ : ∀ i, (a ^^^ b).testBit i = (b.testBit i != a.testBit i) := fun i => by
    rw [Nat.testBit_xor, Bool.xor_comm]
  unfold hamming
  rw [funext differ]

/-- The distances that a HAMMING_SCAN finds, in the order of its codes. -/
def Run.distances (r : Run s₀) (e : Eng) (a : ScanDesc) : List Nat :=
  (List.range a.n).map fun i =>
    hamming (8 * a.bytes) (r.loadNat e.f e.h e.core a.q.tier a.q.off a.bytes)
      (r.loadNat e.f e.h e.core a.codes.tier (a.codes.row a.bytes i) a.bytes)

theorem Run.distances_getElem? (r : Run s₀) (e : Eng) (a : ScanDesc) {i : Nat} (hi : i < a.n) :
    (r.distances e a)[i]? = some ((List.range (8 * a.bytes)).filter fun b =>
      (r.loadNat e.f e.h e.core a.codes.tier (a.codes.row a.bytes i) a.bytes).testBit b !=
        (r.loadNat e.f e.h e.core a.q.tier a.q.off a.bytes).testBit b).length := by
  rw [Run.distances, List.getElem?_map, List.getElem?_range hi, Option.map_some, hamming_eq]

end

/-- Settles O27: after a good read the matrix and vector engines only store inside their furrow and count, and a bad read ends with
DATA_ERROR; a HAMMING_SCAN whose reads are good stores its distances. -/
theorem matrixVectorAndScanRowsEnd : Obligations.MatrixVectorAndScanRowsEnd := by
  unfold Obligations.MatrixVectorAndScanRowsEnd
  refine ⟨fun c op f h tag s hc => ?_, fun f h tag q s hq => ?_⟩
  · show s.rowEnds f h tag op (exec c s)
    simp only [List.mem_cons, Prod.mk.injEq, List.not_mem_nil, or_false] at hc
    obtain ⟨rfl, rfl⟩ | ⟨rfl, rfl⟩ | vector := hc
    · exact runDesc_rowEnds fun _ => Run.matmul_countsOrFails
    · exact runDesc_rowEnds fun _ => Run.matmul_countsOrFails
    · obtain ⟨rfl, rfl⟩ | ⟨rfl, rfl⟩ | ⟨rfl, rfl⟩ | ⟨rfl, rfl⟩ | ⟨rfl, rfl⟩ | ⟨rfl, rfl⟩ := vector <;>
        exact runDesc_rowEnds fun _ => Run.vector_countsOrFails
  · obtain ⟨hreq, -⟩ := Furrow.atWork_is hq
    obtain ⟨rfl, -, -⟩ := Furrow.request?_is _ _ _ _ hreq
    intro a e r good
    refine ⟨r.distances e a, by simp [Run.distances], fun i hi => r.distances_getElem? e a hi, ?_⟩
    refine (runDesc_atWork hq _).trans ?_
    unfold Run.hammingScan
    rw [Run.reading_of_good good]
    rfl

end Sys2Proof.Machine
end

section
namespace Sys2Proof.Machine

variable {s₀ : State}

/-! ### A search slot put into service (R153, R183, R220) -/

/-- A furrow with one search slot replaced. -/
def Furrow.setSlot (c : Furrow) (i : SlotIx) (x : SearchSlot) : Furrow := { c with srch := c.srch.set i x }

@[simp] theorem Furrow.setSlot_same (c : Furrow) (i : SlotIx) (x : SearchSlot) : (c.setSlot i x).srch[i] = x := Vector.getElem_set_self _

/-- A slot as its enable puts it into service. -/
def SearchSlot.inService (x : SearchSlot) : SearchSlot :=
  { x.compare with
    error := 0, enable := true, badEdges := 0, users := [], state := .serving,
    floor := if x.restored ∧ x.floor.toNat ≤ x.epoch.toNat then x.floor else x.epoch }

section
variable {f : FurrowIx} {i : SlotIx} {s : State}

theorem execSlotEnable_void (h : (s.furrow f).srch[i].state ≠ .idle ∨ s.reaches f 0x100000 = false) :
    exec (.slotEnable f i) s = .next s := by
  show execSlotEnable f i s = _
  unfold execSlotEnable
  exact congrArg Run.done (if_pos (h.imp_right fun hr => by simp [hr]))

/-- An enable that is carried out replaces the slot in a furrow that has at most an error record more. -/
theorem execSlotEnable_sets (hr : s.reaches f 0x100000 = true) (hi : (s.furrow f).srch[i].state = .idle) :
    ∃ d : Furrow, ((Run.start s).enableError f i = 0 → d = s.furrow f) ∧
      exec (.slotEnable f i) s = .next (s.setFurrow f (d.setSlot i
        (if (Run.start s).enableError f i = 0 then (s.furrow f).srch[i].inService
          else { (s.furrow f).srch[i] with error := (Run.start s).enableError f i, enable := false }))) := by
  show ∃ d : Furrow, _ ∧ execSlotEnable f i s = _
  have due : ¬ ((s.furrow f).srch[i].state ≠ .idle ∨ (!s.reaches f 0x100000) = true) := not_or.2 ⟨not_not.2 hi, by simp [hr]⟩
  unfold execSlotEnable
  simp only [if_neg due]
  split
  · split
    · rename_i p _ unread
      refine ⟨(s.furrow f).entryTableError (s.furrow f).srch[i].handle p, fun passes => ?_, ?_⟩
      · rw [passes] at unread
        exact absurd unread (by decide)
      · simp only [Run.done, Run.modFur_now, State.setFurrow_setFurrow, State.furrow_setFurrow_same]
        rfl
    · exact ⟨s.furrow f, fun _ => rfl, rfl⟩
  · exact ⟨s.furrow f, fun _ => rfl, rfl⟩

end

/-! ### A search slot drained (R155, R193) -/

/-- Whether a slot takes descriptors, and its enable bit. -/
def SearchSlot.service (x : SearchSlot) : SlotState × Bool := (x.state, x.enable)

theorem SearchSlot.releaseReq_service (x : SearchSlot) (h : Handle) (tag : Tag) : (x.releaseReq h tag).service = x.service := rfl

theorem Run.engineEnds_srch (r : Run s₀) (f : FurrowIx) (h : Handle) (tag : Tag) (e : Ending) :
    ((r.engineEnds f h tag e).now.furrow f).srch = (r.now.furrow f).srch := by
  unfold Run.engineEnds
  rw [Run.modFur_now, State.furrow_setFurrow_same, Furrow.modCtx_srch, Furrow.modReq_srch]
  split
  · split
    · exact Furrow.cancelMembers_keeps (view := Furrow.srch) (fun _ _ => rfl) _ f _
    · rfl
  · rfl

/-- A slot that is drained cuts a request off: what it held of the slots is given back, and its descriptor ends. -/
def Run.cutOff (x : SearchSlot) (f : FurrowIx) (r : Run s₀) (q : Request) : Run s₀ :=
  (r.modFur f fun c => { c with srch := c.srch.map fun t => t.releaseReq q.h q.tag }).engineEnds f q.h q.tag (drainEnding x q.desc)

theorem Run.cutOff_service (x : SearchSlot) (f : FurrowIx) (i : SlotIx) (r : Run s₀) (q : Request) :
    ((r.cutOff x f q).now.furrow f).srch[i].service = (r.now.furrow f).srch[i].service := by
  unfold Run.cutOff
  simp only [Run.engineEnds_srch, Run.modFur_now, State.furrow_setFurrow_same, Fin.getElem_fin, Vector.getElem_map,
    SearchSlot.releaseReq_service]

theorem Run.cutOff_mems (x : SearchSlot) (f : FurrowIx) (r : Run s₀) (q : Request) : (r.cutOff x f q).now.mems = r.now.mems := rfl

theorem Run.cutOff_onlyFurrow (x : SearchSlot) (f : FurrowIx) (r : Run s₀) (q : Request) : r.now.onlyFurrow f (r.cutOff x f q).now :=
  State.onlyFurrow_trans (State.onlyFurrow_setFurrow _ f _) (Run.engineEnds_onlyFurrow _ f q.h q.tag _)

theorem Run.cutOff_ended (x : SearchSlot) {f : FurrowIx} {r : Run s₀} {q : Request} (hq : (r.now.furrow f).request? q.h q.tag = some q) :
    (r.cutOff x f q).now.descriptorEnded f q.h q.tag (drainEnding x q.desc) := by
  refine Run.engineEnds_descriptorEnded ⟨q, ?_⟩ _
  rw [Run.modFur_now, State.furrow_setFurrow_same]
  exact (Furrow.request?_congr rfl q.h q.tag).trans hq

section
variable {f : FurrowIx} {i : SlotIx} {s : State}

/-- The module once a slot takes no more descriptors. -/
def Run.closed (s : State) (f : FurrowIx) (i : SlotIx) : Run s :=
  (Run.start s).modFur f fun c => c.setSlot i { (s.furrow f).srch[i] with state := .draining, enable := false }

theorem execSlotDrain_void (h : (s.furrow f).srch[i].state ≠ .serving ∨ s.reaches f 0x100000 = false) :
    exec (.slotDrain f i) s = .next s := by
  show execSlotDrain f i s = _
  unfold execSlotDrain
  exact congrArg Run.done (if_pos (h.imp_right fun hr => by simp [hr]))

theorem execSlotDrain_cutsOff (hr : s.reaches f 0x100000 = true) (hs : (s.furrow f).srch[i].state = .serving) :
    exec (.slotDrain f i) s =
      .next ((Run.closed s f i).each ((s.furrow f).updatesOn (s.furrow f).srch[i]) (Run.cutOff (s.furrow f).srch[i] f)).now := by
  show execSlotDrain f i s = _
  unfold execSlotDrain
  exact congrArg Run.done (if_neg (not_or.2 ⟨not_not.2 hs, by simp [hr]⟩))

theorem Run.cutOffs_onlyFurrow (x : SearchSlot) (f : FurrowIx) (qs : List Request) (r : Run s₀) :
    r.now.onlyFurrow f (r.each qs (Run.cutOff x f)).now :=
  List.foldlRecOn (motive := fun r' : Run s₀ => r.now.onlyFurrow f r'.now) qs _ (r.now.onlyFurrow_refl f) fun r' hr q _ =>
    State.onlyFurrow_trans hr (r'.cutOff_onlyFurrow x f q)

theorem execSlotDrain_drains (hr : s.reaches f 0x100000 = true) (hs : (s.furrow f).srch[i].state = .serving) :
    ∃ t, exec (.slotDrain f i) s = .next t ∧ s.onlyFurrow f t ∧ t.mems = s.mems ∧ (t.furrow f).srch[i].state = .draining ∧
      (t.furrow f).srch[i].enable = false ∧
      ∀ q, (s.furrow f).updatesOn (s.furrow f).srch[i] = [q] → (s.furrow f).request? q.h q.tag = some q →
        t.descriptorEnded f q.h q.tag (drainEnding (s.furrow f).srch[i] q.desc) := by
  have service := Run.each_keeps (fun t => (t.furrow f).srch[i].service) (Run.cutOff (s.furrow f).srch[i] f)
    (Run.cutOff_service _ f i) ((s.furrow f).updatesOn (s.furrow f).srch[i]) (Run.closed s f i)
  have closed : (Run.closed s f i).now.furrow f = (s.furrow f).setSlot i { (s.furrow f).srch[i] with state := .draining, enable := false } :=
    State.furrow_setFurrow_same _ _ _
  rw [closed, Furrow.setSlot_same] at service
  obtain ⟨state, enable⟩ := Prod.ext_iff.1 service
  refine ⟨_, execSlotDrain_cutsOff hr hs, State.onlyFurrow_trans (State.onlyFurrow_setFurrow _ f _) (Run.cutOffs_onlyFurrow _ f _ _),
    Run.each_keeps State.mems _ (Run.cutOff_mems _ f) _ _, state, enable, fun q only hq => ?_⟩
  rw [only, Run.each_cons, Run.each_nil]
  refine Run.cutOff_ended _ ?_
  rw [closed]
  exact (Furrow.request?_congr rfl q.h q.tag).trans hq

/-! ### A drained slot left idle (R155) -/

/-- A slot is DRAINING, and no view of it nor descriptor that started on it is left. -/
def Furrow.drainedSlot (c : Furrow) (i : SlotIx) : Prop := c.srch[i].state = .draining ∧ c.srch[i].views = [] ∧ c.slotUsed i = false

theorem execSlotDrainDone_idles (h : (s.furrow f).drainedSlot i) :
    exec (.slotDrainDone f i) s = .next (s.setFurrow f ((s.furrow f).setSlot i { (s.furrow f).srch[i] with state := .idle, users := [] })) := by
  obtain ⟨state, views, used⟩ := h
  show execSlotDrainDone f i s = _
  unfold execSlotDrainDone
  exact congrArg Run.done (if_pos ⟨state, List.isEmpty_iff.2 views, by simp [used]⟩)

theorem execSlotDrainDone_waits (h : ¬ (s.furrow f).drainedSlot i) : exec (.slotDrainDone f i) s = .next s := by
  show execSlotDrainDone f i s = _
  unfold execSlotDrainDone
  exact congrArg Run.done (if_neg fun ⟨state, views, used⟩ => h ⟨state, List.isEmpty_iff.1 views, by simpa using used⟩)

end

/-- Settles O30: what the enable, the drain and the end of a drain do to a slot in each of its states. That SIDE_FULL and MERGE_DUE are
computed at the enable (`SearchSlot.compare` in `SearchSlot.inService`) is the model's reading, log 33. -/
theorem searchSlotLifeCycle : Obligations.SearchSlotLifeCycle := by
  intro f i s c x
  refine ⟨fun hr hi passes => ?_, fun hr hi fails => ?_, execSlotEnable_void, execSlotDrain_drains, execSlotDrain_void,
    fun state views used => execSlotDrainDone_idles ⟨state, views, used⟩, fun h => execSlotDrainDone_waits ?_⟩
  · obtain ⟨d, same, sets⟩ := execSlotEnable_sets hr hi
    rw [sets, same passes, if_pos passes]
    rfl
  · obtain ⟨d, -, sets⟩ := execSlotEnable_sets hr hi
    refine ⟨_, sets, State.onlyFurrow_setFurrow _ f _, rfl, ?_⟩
    rw [State.furrow_setFurrow_same, Furrow.setSlot_same, if_neg fails]
  · rintro ⟨state, views, unused⟩
    obtain other | held | used := h
    · exact other state
    · exact held views
    · exact Bool.false_ne_true (unused.symm.trans used)

end Sys2Proof.Machine
end

section
namespace Sys2Proof.Machine

/-! ### A request on a span: its packets at either end (R174, R376) -/

/-- The part that a packet of a span is for is a request of the furrow. -/
theorem Furrow.request?_of_partOf {c : Furrow} {span : W32} {tag : Tag} {q : Request} (hq : c.partOf span tag = some q) :
    c.request? q.h q.tag = some q := by
  have named : ∀ o : Option Handle, (o.bind fun h => c.request? h tag) = some q → c.request? q.h q.tag = some q := fun o ho => by
    obtain ⟨h, -, found⟩ := Option.bind_eq_some_iff.1 ho
    obtain ⟨rfl, rfl, -⟩ := Furrow.request?_is _ _ _ _ found
    exact found
  unfold Furrow.partOf at hq
  split at hq
  next found =>
    cases hq
    exact named _ found
  next => exact named _ hq

section
variable {f : FurrowIx} {p : Packet} {s : State} {h : Handle} {q : Request}

/-! #### SPAN_DESC at a member -/

/-- The furrow once it keeps the first piece of a descriptor as a part. -/
def Furrow.keepPart (c : Furrow) (h : Handle) (p : Packet) : Furrow :=
  { c with reqs := c.reqs ++ [{ c.newPart h p with contrib := [p] }], order := c.order + 1 }

theorem Furrow.keepPart_request? {c : Furrow} (hn : c.request? h p.tag = none) : (c.keepPart h p).request? h p.tag =
    if p.tag = boxTag then none else some { c.newPart h p with contrib := [p] } := by
  have own : ({ c.newPart h p with contrib := [p] } : Request).isOf h p.tag = decide (p.tag ≠ boxTag) := by
    rw [Bool.eq_iff_iff, Request.isOf_iff]
    simp [Furrow.newPart, Request.fresh]
  have : (c.keepPart h p).request? h p.tag =
      (c.request? h p.tag).or ([{ c.newPart h p with contrib := [p] }].find? fun q => q.isOf h p.tag) := List.find?_append
  rw [this, hn, Option.none_or, List.find?_singleton, own]
  by_cases ht : p.tag = boxTag <;> simp [ht]

theorem execSpanDesc_denied (ht : (s.furrow f).takes f Kind.spanDesc p = true) (hm : ((s.took f p).furrow f).memberFor p = none) :
    exec (.spanDesc f p) s = .next ((s.took f p).setFurrow f (((s.took f p).furrow f).denies f p)) := by
  show execSpanDesc f p s = _
  refine (onPacket_takes ht _).trans ?_
  have member : ((Run.took s f p).fur f).memberFor p = none := hm
  simp only [member]
  rfl

/-- A piece of a descriptor that no request has the tag of: it is kept as a part, and checked at once when it is the whole descriptor. -/
theorem execSpanDesc_piece (ht : (s.furrow f).takes f Kind.spanDesc p = true) (hm : ((s.took f p).furrow f).memberFor p = some h)
    (hgo : p.aux.getLsbD 0 = false) (hn : ((s.took f p).furrow f).request? h p.tag = none) :
    exec (.spanDesc f p) s = .next (match if p.tag = boxTag then none else carriedOf [p] with
      | some bs => ((Run.took s f p).modFur f fun c => c.keepPart h p).checkPart f
          { ((s.took f p).furrow f).newPart h p with phase := .queued, carried := bs, contrib := [] }
      | none => (Run.took s f p).modFur f fun c => c.keepPart h p).now := by
  show execSpanDesc f p s = _
  refine (onPacket_takes ht _).trans ?_
  have member : ((Run.took s f p).fur f).memberFor p = some h := hm
  have unknown : ((Run.took s f p).fur f).request? h p.tag = none := hn
  have kept : (((Run.took s f p).modFur f fun c => c.keepPart h p).fur f).request? h p.tag =
      if p.tag = boxTag then none else some { ((s.took f p).furrow f).newPart h p with contrib := [p] } := by
    rw [Run.fur_eq, Run.modFur_now, State.furrow_setFurrow_same]
    exact Furrow.keepPart_request? hn
  simp only [member, hgo, unknown]
  unfold Furrow.keepPart at kept ⊢
  rw [kept]
  by_cases box : p.tag = boxTag
  · simp only [box, if_true]
  · simp only [box, if_false]
    cases carriedOf [p] <;> rfl

theorem execSpanDesc_go (ht : (s.furrow f).takes f Kind.spanDesc p = true) (hm : ((s.took f p).furrow f).memberFor p = some h)
    (hgo : p.aux.getLsbD 0 = true) (hq : ((s.took f p).furrow f).request? h p.tag = some q) (hp : q.phase = .queued) (hg : q.gone = false)
    (ha : q.acks = []) :
    exec (.spanDesc f p) s = .next (if ((s.took f p).furrow f).hasPart q then (Run.took s f p).modFur f fun c => c.sendGo f q
      else ((Run.took s f p).modFur f fun c => c.sendGo f q).beginRelay f q).now := by
  show execSpanDesc f p s = _
  refine (onPacket_takes ht _).trans ?_
  have member : ((Run.took s f p).fur f).memberFor p = some h := hm
  have asked : ((Run.took s f p).fur f).request? h p.tag = some q := hq
  simp only [member, hgo, asked, hp, hg, ha, Bool.not_false, and_self, if_true]
  rfl

/-! #### SPAN_ACK -/

/-- An answer for a part that is over: its sender is told to cancel, unless it refused. -/
theorem execSpanAck_over (ht : (s.furrow f).takes f Kind.spanAck p = true) (hq : ((s.took f p).furrow f).partOf p.span p.tag = none) :
    exec (.spanAck f p) s = .next (if (ackEnding p).status = Status.refused then s.took f p else (s.took f p).setFurrow f
      (((s.took f p).furrow f).route f (((s.took f p).furrow f).packet f Kind.spanCancel p.src p.span p.tag))) := by
  show execSpanAck f p s = _
  refine (onPacket_takes ht _).trans ?_
  have absent : ((Run.took s f p).fur f).partOf p.span p.tag = none := hq
  simp only [absent]
  split <;> rfl

theorem execSpanAck_unawaited (ht : (s.furrow f).takes f Kind.spanAck p = true) (hq : ((s.took f p).furrow f).partOf p.span p.tag = some q)
    (ha : q.acks.contains p.src = false) : exec (.spanAck f p) s = .next (s.took f p) := by
  show execSpanAck f p s = _
  refine (onPacket_takes ht _).trans ?_
  have part : ((Run.took s f p).fur f).partOf p.span p.tag = some q := hq
  simp only [part, ha, Bool.not_false, if_true]
  rfl

/-- A request once a member's answer is noted. -/
def Request.noteAck (p : Packet) (q : Request) : Request :=
  { q with
    acks := q.acks.erase p.src, memberEnds := q.memberEnds ++ [(p.src, ackEnding p)],
    dones := if (ackEnding p).status = Status.refused then q.dones.erase p.src else q.dones }

theorem execSpanAck_awaited (ht : (s.furrow f).takes f Kind.spanAck p = true) (hq : ((s.took f p).furrow f).partOf p.span p.tag = some q)
    (ha : q.acks.contains p.src = true) : exec (.spanAck f p) s =
      .next (if q.acks.erase p.src = [] ∧ (q.phase = .running ∨ q.phase = .queued)
        then ((Run.took s f p).modFur f fun c => c.modReq q.h q.tag (Request.noteAck p)).allAcked f (q.noteAck p)
        else (Run.took s f p).modFur f fun c => c.modReq q.h q.tag (Request.noteAck p)).now := by
  show execSpanAck f p s = _
  refine (onPacket_takes ht _).trans ?_
  have part : ((Run.took s f p).fur f).partOf p.span p.tag = some q := hq
  have found := Run.request?_modReq (r := Run.took s f p) (Request.noteAck p) (Furrow.request?_of_partOf hq) fun _ => ⟨rfl, rfl, rfl⟩
  unfold Request.noteAck at found ⊢
  simp only [part, ha, found, Bool.not_true, Bool.false_eq_true, if_false]

/-! #### SPAN_DONE -/

theorem execSpanDone_over (ht : (s.furrow f).takes f Kind.spanDone p = true) (hq : ((s.took f p).furrow f).partOf p.span p.tag = none) :
    exec (.spanDone f p) s = .next (s.took f p) := by
  show execSpanDone f p s = _
  refine (onPacket_takes ht _).trans ?_
  have absent : ((Run.took s f p).fur f).partOf p.span p.tag = none := hq
  simp only [absent]
  rfl

theorem execSpanDone_unawaited (ht : (s.furrow f).takes f Kind.spanDone p = true)
    (hq : ((s.took f p).furrow f).partOf p.span p.tag = some q) (hd : q.dones.contains p.src = false) :
    exec (.spanDone f p) s = .next (s.took f p) := by
  show execSpanDone f p s = _
  refine (onPacket_takes ht _).trans ?_
  have part : ((Run.took s f p).fur f).partOf p.span p.tag = some q := hq
  simp only [part, hd, Bool.not_false, if_true]
  rfl

/-- A request once a member's end is noted. -/
def Request.noteDone (p : Packet) (e : Ending) (q : Request) : Request :=
  let fl := p.aux.extractLsb' 8 8
  { q with
    acks := q.acks.erase p.src, dones := q.dones.erase p.src, memberEnds := q.memberEnds ++ [(p.src, e)]
    engineNs := q.engineNs + BitVec.ofNat 64 (fieldAt p.payload 0 8)
    nested := q.nested || fl.getLsbD 1, widened := q.widened || fl.getLsbD 2, throttled := q.throttled || fl.getLsbD 3 }

/-- A migration that was being cancelled goes on when a member has carried its part out. -/
def Request.goOn (q : Request) : Request := { q with phase := .running, cancelNs := none }

/-- The furrow once a member's end without a failure is noted. -/
def Furrow.noteDone (c : Furrow) (p : Packet) (q : Request) (e : Ending) : Furrow :=
  let c := c.modReq q.h q.tag (Request.noteDone p e)
  if q.phase = .aborting ∧ forwarded q.op = true then c.modReq q.h q.tag Request.goOn else c

theorem execSpanDone_succeeds (ht : (s.furrow f).takes f Kind.spanDone p = true)
    (hq : ((s.took f p).furrow f).partOf p.span p.tag = some q) (hd : q.dones.contains p.src = true) (ha : q.acks = [])
    (he : failed (((s.took f p).furrow f).seenEnding p.src (p.aux.getLsbD 15) (doneEnding p)) = false) :
    exec (.spanDone f p) s = .next ((s.took f p).setFurrow f (((s.took f p).furrow f).noteDone p q
      (((s.took f p).furrow f).seenEnding p.src (p.aux.getLsbD 15) (doneEnding p)))) := by
  show execSpanDone f p s = _
  refine (onPacket_takes ht _).trans ?_
  have part : ((Run.took s f p).fur f).partOf p.span p.tag = some q := hq
  have well : failed (((Run.took s f p).fur f).seenEnding p.src (p.aux.getLsbD 15) (doneEnding p)) = false := he
  unfold Furrow.noteDone
  simp only [part, hd, ha, well, Bool.not_true, Bool.not_false, Bool.false_eq_true, if_false, and_true, ne_eq, not_true_eq_false]
  split
  · rw [Run.modFur_now, Run.modFur_now, State.setFurrow_setFurrow, State.furrow_setFurrow_same]
    rfl
  · rfl

theorem Furrow.noteDone_pyr (c : Furrow) (p : Packet) (q : Request) (e : Ending) : (c.noteDone p q e).pyr = c.pyr := by
  unfold Furrow.noteDone
  dsimp only
  split <;> rfl

/-- The part stays among the furrow's requests, no longer waiting for that member, with the member's engine time added. -/
theorem Furrow.noteDone_request? {c : Furrow} (hq : c.request? q.h q.tag = some q) (p : Packet) (e : Ending) :
    ∃ q', (c.noteDone p q e).request? q.h q.tag = some q' ∧ q'.dones = q.dones.erase p.src ∧
      q'.engineNs = q.engineNs + BitVec.ofNat 64 (fieldAt p.payload 0 8) := by
  have noted := Furrow.request?_modReq_of_keepsName (g := Request.noteDone p e) (fun _ => ⟨rfl, rfl, rfl⟩) hq
  unfold Furrow.noteDone
  dsimp only
  split
  · exact ⟨_, Furrow.request?_modReq_of_keepsName (g := Request.goOn) (fun _ => ⟨rfl, rfl, rfl⟩) noted, rfl, rfl⟩
  · exact ⟨_, noted, rfl, rfl⟩

/-! #### SPAN_CANCEL at a member -/

theorem execSpanCancel_void (ht : (s.furrow f).takes f Kind.spanCancel p = true) (hm : ((s.took f p).furrow f).memberFor p = none) :
    exec (.spanCancel f p) s = .next (s.took f p) :=
  onPacket_modFur_self ht (by simp only [hm])

theorem execSpanCancel_unknown (ht : (s.furrow f).takes f Kind.spanCancel p = true) (hm : ((s.took f p).furrow f).memberFor p = some h)
    (hq : ((s.took f p).furrow f).request? h p.tag = none) :
    exec (.spanCancel f p) s = .next ((s.took f p).setFurrow f (((s.took f p).furrow f).route f
      { ((s.took f p).furrow f).packet f Kind.spanDone p.src p.span p.tag with aux := Status.cancelled.setWidth 32, payload := zeros 16 })) :=
  onPacket_modFur ht (by simp only [hm, hq, ite_self])

theorem execSpanCancel_cancels (ht : (s.furrow f).takes f Kind.spanCancel p = true) (hm : ((s.took f p).furrow f).memberFor p = some h)
    (hbox : p.tag ≠ boxTag) (hq : ((s.took f p).furrow f).request? h p.tag ≠ none) :
    exec (.spanCancel f p) s = .next ((s.took f p).setFurrow f (((s.took f p).furrow f).cancelReq f h p.tag)) := by
  obtain ⟨q, found⟩ := Option.ne_none_iff_exists'.1 hq
  exact onPacket_modFur ht (by simp only [hm, hbox, found, if_false])

end

/-- Settles O44: what each packet of a span's request does to the part that it is for. The model's own readings in it: the pieces of a
descriptor and what AUX and ADDR of SPAN_DESC and SPAN_ACK hold (log 35), the ending that a SPAN_DONE reports (log 23), and the one it stands
for when the member's context is gone (log 64). -/
theorem spanRequestsAreAcknowledged : Obligations.SpanRequestsAreAcknowledged := by
  intro f p s u
  refine ⟨fun ht => ⟨execSpanDesc_denied ht, fun h hm => ⟨fun hgo hn whole => ?_, fun bs hgo box hn whole => ?_,
      fun q hgo hq hp hg ha => ⟨fun part => ?_, fun part => ?_⟩⟩⟩,
    fun ht => ⟨execSpanAck_over ht, fun q hq => ⟨execSpanAck_unawaited ht hq, fun ha more => ?_, fun ha last hp => ?_⟩⟩,
    fun ht => ⟨execSpanDone_over ht, fun q hq => ⟨execSpanDone_unawaited ht hq, fun hd ha he => ?_⟩⟩,
    fun ht box => ⟨execSpanCancel_void ht, fun h hm => ⟨execSpanCancel_unknown ht hm, execSpanCancel_cancels ht hm box⟩⟩⟩
  · rw [execSpanDesc_piece ht hm hgo hn, whole, ite_self]
    rfl
  · rw [execSpanDesc_piece ht hm hgo hn, if_neg box, whole]
    rfl
  · rw [execSpanDesc_go ht hm hgo hq hp hg ha, if_pos part]
    rfl
  · rw [execSpanDesc_go ht hm hgo hq hp hg ha, if_neg (ne_true_of_eq_false part)]
  · rw [execSpanAck_awaited ht hq ha, if_neg fun last => more last.1]
    rfl
  · rw [execSpanAck_awaited ht hq ha, if_pos ⟨last, hp⟩]
    rfl
  · exact ⟨_, execSpanDone_succeeds ht hq hd ha he,
      State.onlyFurrow_trans (State.onlyFurrow_setFurrow s f _) (State.onlyFurrow_setFurrow _ f _), rfl,
      by rw [State.furrow_setFurrow_same, Furrow.noteDone_pyr],
      by rw [State.furrow_setFurrow_same]; exact Furrow.noteDone_request? (Furrow.request?_of_partOf hq) p _⟩

end Sys2Proof.Machine
end

section
namespace Sys2Proof.Machine

variable {s₀ : State}

/-! ### Work of the walkers: stores, and edges counted (R141, R423) -/

/-- A search slot but for its count of bad edges. -/
def SearchSlot.besideEdges (x : SearchSlot) : SearchSlot := { x with badEdges := 0 }

/-- From one state to another only a furrow and its own memories have changed, and the furrow has the requests that it had. -/
structure State.keepsRequests (s : State) (f : FurrowIx) (t : State) : Prop where
  only  : s.onlyFurrow f t
  names : (t.furrow f).reqs.map Request.name = (s.furrow f).reqs.map Request.name

/-- Walkers have worked: beside that, no slot has changed but in its count of bad edges, and where no uncorrectable data was known none
is. -/
structure State.walkedOver (s : State) (f : FurrowIx) (t : State) : Prop extends s.keepsRequests f t where
  slots : ∀ i : SlotIx, (t.furrow f).srch[i].besideEdges = (s.furrow f).srch[i].besideEdges
  clean : (s.furrow f).counts.bad = [] → (t.furrow f).counts.bad = []

section
variable {s t u : State} {f : FurrowIx}

theorem State.keepsRequests_trans (st : s.keepsRequests f t) (tu : t.keepsRequests f u) : s.keepsRequests f u :=
  ⟨State.onlyFurrow_trans st.only tu.only, tu.names.trans st.names⟩

theorem State.walkedOver_refl (s : State) (f : FurrowIx) : s.walkedOver f s := ⟨⟨s.onlyFurrow_refl f, rfl⟩, fun _ => rfl, id⟩

theorem State.walkedOver_trans (st : s.walkedOver f t) (tu : t.walkedOver f u) : s.walkedOver f u :=
  ⟨State.keepsRequests_trans st.1 tu.1, fun i => (tu.slots i).trans (st.slots i), fun hb => tu.clean (st.clean hb)⟩

theorem State.keepsRequests.request? (st : s.keepsRequests f t) {h : Handle} {tag : Tag} (hq : ∃ q, (s.furrow f).request? h tag = some q) :
    ∃ q, (t.furrow f).request? h tag = some q := by
  have named : ∀ c : Furrow, (c.request? h tag).isSome ↔ (h, tag, decide (tag = boxTag)) ∈ c.reqs.map Request.name := fun c => by
    simp [Furrow.request?, Request.name, Request.isOf_iff]
  rw [← Option.isSome_iff_exists, named] at hq ⊢
  rwa [st.names]

/-- A change of the furrow's control part alone that leaves all that as it was. -/
theorem Run.modFur_walkedOver (r : Run s₀) (f : FurrowIx) {g : Furrow → Furrow}
    (names : (g (r.now.furrow f)).reqs.map Request.name = (r.now.furrow f).reqs.map Request.name)
    (slots : ∀ i : SlotIx, (g (r.now.furrow f)).srch[i].besideEdges = (r.now.furrow f).srch[i].besideEdges)
    (clean : (r.now.furrow f).counts.bad = [] → (g (r.now.furrow f)).counts.bad = []) : r.now.walkedOver f (r.modFur f g).now := by
  refine ⟨⟨State.onlyFurrow_setFurrow _ f _, ?_⟩, fun i => ?_, fun hb => ?_⟩ <;> rw [Run.modFur_now, State.furrow_setFurrow_same]
  · exact names
  · exact slots i
  · exact clean hb

theorem Run.each_walkedOver {α : Type} (g : Run s₀ → α → Run s₀) (hg : ∀ (r : Run s₀) x, r.now.walkedOver f (g r x).now) (xs : List α)
    (r : Run s₀) : r.now.walkedOver f (r.each xs g).now :=
  List.foldlRecOn (motive := fun t : Run s₀ => r.now.walkedOver f t.now) xs g (r.now.walkedOver_refl f) fun t ht x _ =>
    State.walkedOver_trans ht (hg t x)

end

/-! #### Stores -/

section
variable (r : Run s₀) (f : FurrowIx)

theorem Run.store_walkedOver (h : Handle) (core tier off : Nat) (bs : List Byte) :
    r.now.walkedOver f (r.store f h core tier off bs).now := by
  refine ⟨⟨r.store_onlyFurrow f h core tier off bs, ?_⟩, fun i => ?_, fun hb => ?_⟩
  · exact Run.store_keeps (view := fun c => c.reqs.map Request.name) (fun _ _ _ => rfl) r f h core tier off bs
  · exact Run.store_keeps (view := fun c => c.srch[i].besideEdges) (fun _ _ _ => rfl) r f h core tier off bs
  · obtain ⟨-, xs, stored⟩ := Run.storeCells_storedOver hb (r.now.storedOver_refl f) h core tier off bs.length (bytesToCells bs)
    exact (congrArg (fun c : Furrow => c.counts.bad) stored).trans hb

theorem Run.putShard_walkedOver (t : SearchSlot) (off : Nat) (bs : List Byte) : r.now.walkedOver f (r.putShard f t off bs).now := by
  unfold Run.putShard
  dsimp only
  split
  · exact r.store_walkedOver f _ _ _ _ _
  · refine Run.each_walkedOver _ (fun r x => ?_) _ r
    split
    · exact r.store_walkedOver f _ _ _ _ _
    · exact r.now.walkedOver_refl f

theorem Run.scribble_walkedOver (e : Eng) (x : Extent) : r.now.walkedOver e.f (r.scribble e x).now :=
  State.walkedOver_trans (t := (r.freeBytes x.2.2).2.now) ⟨⟨r.now.onlyFurrow_refl e.f, rfl⟩, fun _ => rfl, id⟩
    (Run.store_walkedOver _ e.f e.h e.core _ _ _)

theorem Run.countEdges_walkedOver (i : SlotIx) (n : Nat) :
    r.now.walkedOver f (r.modSlot f i fun t => { t with badEdges := sat t.badEdges n }).now := by
  refine r.modFur_walkedOver f rfl (fun j => ?_) id
  dsimp only
  by_cases hj : j = i
  · rw [hj, Fin.getElem_fin, Vector.getElem_set_self]
    rfl
  · rw [Fin.getElem_fin, Vector.getElem_set_ne _ _ fun e => hj (Fin.ext e.symm)]
    rfl

end

/-! #### Uncorrectable data met (R423) -/

theorem Furrow.raise_srch (c : Furrow) (x : ErrRec) (ends : List (Handle × Tag)) : (c.raise x ends).srch = c.srch := by
  unfold Furrow.raise Furrow.countUe Furrow.rollCounts
  dsimp only
  split
  · split <;> rfl
  · rfl

theorem Furrow.dataError_srch (c : Furrow) (e : Eng) (x : ErrRec) (memory : Nat) : (c.dataError e x memory).1.srch = c.srch :=
  c.raise_srch x [(e.h, e.tag)]

theorem Furrow.dataError_names (c : Furrow) (e : Eng) (x : ErrRec) (memory : Nat) :
    (c.dataError e x memory).1.reqs.map Request.name = c.reqs.map Request.name := by
  obtain ⟨-, reqs⟩ := Prod.mk.inj (c.raise_holders x [(e.h, e.tag)])
  rw [← reqs]
  exact modFirst_map Request.name _ (fun _ => by rfl) e.h e.tag _

theorem Run.readFault_walkedOver (r : Run s₀) (e : Eng) (p : Space × Nat × Nat) : r.now.walkedOver e.f (r.readFault e p).1.now := by
  unfold Run.readFault
  split
  · exact r.now.walkedOver_refl e.f
  next b at_ met =>
    refine r.modFur_walkedOver e.f (g := fun c => (c.dataError e (ueRecord b at_ e.h e.tag e.op) b.mem.val).1)
      (Furrow.dataError_names _ e _ _) (fun i => congrArg (fun xs : Vector SearchSlot 8 => xs[i].besideEdges) (Furrow.dataError_srch _ e _ _))
      fun hb => ?_
    rw [Run.fur_eq, Furrow.badIn, hb] at met
    split at met <;> simp at met

theorem Run.spoil_walkedOver (r : Run s₀) (e : Eng) (p : Space × Nat × Nat) (outs : List Extent) :
    r.now.walkedOver e.f (r.spoil e p outs).1.now :=
  State.walkedOver_trans (Run.each_walkedOver _ (fun r x => r.scribble_walkedOver e x) outs r) (Run.readFault_walkedOver _ e p)

/-- A read that may meet uncorrectable data comes to what its work does, or to a descriptor that has failed. -/
theorem Run.reading_walkedOver {r : Run s₀} {e : Eng} {xs outs : List Extent} {work : Run s₀ → Run s₀ × Ending}
    (hw : r.now.walkedOver e.f (work r).1.now) : r.now.walkedOver e.f (r.reading e xs outs work).1.now := by
  unfold Run.reading
  split
  · exact hw
  · exact r.spoil_walkedOver e _ outs

/-- Work on the extents of a context keeps the furrow's requests if it does when they are good, and where no uncorrectable data is known
that is what it comes to. -/
theorem Run.readingOf_outcome {r : Run s₀} {e : Eng} {h : Handle} {xs outs : List Extent} {work : Run s₀ → Run s₀ × Ending}
    {post : Run s₀ × Ending → Prop}
    (hw : r.now.keepsRequests e.f (work r).1.now ∧ ((r.now.furrow e.f).counts.bad = [] → post (work r))) :
    r.now.keepsRequests e.f (r.readingOf e h xs outs work).1.now ∧
      ((r.now.furrow e.f).counts.bad = [] → post (r.readingOf e h xs outs work)) := by
  unfold Run.readingOf
  split
  · exact hw
  next met => exact ⟨(r.spoil_walkedOver e _ outs).1, fun hb => nomatch met.symm.trans (Furrow.firstBad_of_none_bad hb _ xs)⟩

end Sys2Proof.Machine
end

section
namespace Sys2Proof.Machine

variable {s₀ : State}

/-! ### Walks and scans where no uncorrectable data is known (R158, R165) -/

section
variable {r : Run s₀} {f : FurrowIx} (hb : (r.now.furrow f).counts.bad = [])
include hb

theorem Run.shardBad_of_none_bad (t : SearchSlot) (off n : Nat) : r.shardBad f t off n = none := by
  unfold Run.shardBad
  dsimp only
  split
  · exact Furrow.meets_of_none_bad hb f t.handle 0 2 off n
  · exact List.findSome?_eq_none_iff.2 fun _ _ => Furrow.meets_of_none_bad hb f t.handle 0 2 _ _

theorem Run.returnable_of_none_bad (t : SearchSlot) (snap n : Nat) : ∃ b, r.returnable f t snap n = .ok b := by
  have log : ∀ ds : List (Nat × Nat), (ds.findSome? fun d => r.shardBad f t (t.dlogAt d.1) 16) = none := fun _ =>
    List.findSome?_eq_none_iff.2 fun _ _ => Run.shardBad_of_none_bad hb t _ _
  unfold Run.returnable
  rw [Run.shardBad_of_none_bad hb]
  dsimp only
  split
  · exact ⟨_, rfl⟩
  · rw [log]
    exact ⟨_, rfl⟩

theorem Run.scanSide_of_none_bad (t : SearchSlot) (query snap : Nat) (head tail : W32) :
    ∃ xs, r.scanSide f t query snap head tail = .ok xs := by
  refine List.foldlRecOn (motive := fun acc : Except _ (List Scored) => ∃ xs, acc = .ok xs) _ _ ⟨[], rfl⟩ fun acc hacc n _ => ?_
  obtain ⟨xs, rfl⟩ := hacc
  obtain ⟨b, returned⟩ := Run.returnable_of_none_bad hb t snap (fieldAt (r.shard f t (t.sideAt n) t.sideBytes) 8 4)
  simp only [Run.shardBad_of_none_bad hb, returned]
  split
  · exact ⟨_, rfl⟩
  · cases b <;> exact ⟨_, rfl⟩

end

section
variable {r : Run s₀} {v : WalkArgs} (hb : (r.now.furrow v.f).counts.bad = [])
include hb

theorem Run.visit_of_none_bad (w : Walk) (n : Nat) (hw : w.bad = none) : (r.visit v w n).bad = none := by
  obtain ⟨b, returned⟩ := Run.returnable_of_none_bad hb v.slot v.snap n
  unfold Run.visit
  simp only [Run.shardBad_of_none_bad hb, returned]
  split
  · exact hw
  · split
    · exact hw
    · cases b
      · exact hw
      · dsimp only
        split
        · rfl
        · exact hw

theorem Run.expand_of_none_bad (w : Walk) (u : BeamEntry) (hw : w.bad = none) : (r.expand v w u).bad = none := by
  unfold Run.expand
  refine List.foldlRecOn (motive := fun w : Walk => w.bad = none) _ _ hw fun w hw n _ => ?_
  split
  · exact hw
  · split
    · exact hw
    · split
      · exact hw
      · exact Run.visit_of_none_bad hb w n hw

theorem Run.walkLoop_of_none_bad (k : Nat) (w : Walk) (hw : w.bad = none) : (r.walkLoop v k w).bad = none := by
  induction k generalizing w with
  | zero => exact hw
  | succ k ih =>
    unfold Run.walkLoop
    split
    · exact hw
    · split
      · rfl
      · split
        · rfl
        · exact ih _ (Run.expand_of_none_bad hb w _ hw)

theorem Run.walk_of_none_bad : (r.walk v).bad = none := by
  unfold Run.walk
  rw [Run.shardBad_of_none_bad hb]
  refine Run.walkLoop_of_none_bad hb _ _ ?_
  exact List.foldlRecOn (motive := fun w : Walk => w.bad = none) _ _ rfl fun w hw n _ => Run.visit_of_none_bad hb w n hw

end

/-! ### The searches of a request's shards (R165–R169) -/

theorem Run.searchShard_of_none_bad {r : Run s₀} {e : Eng} (hb : (r.now.furrow e.f).counts.bad = []) (a : SearchDesc) (t : SearchSlot)
    (v : View) (query : Nat) (pred : List Byte) : ∃ l, (r.searchShard e a t v query pred).2 = .ok l := by
  obtain ⟨side, scanned⟩ := Run.scanSide_of_none_bad hb t query v.snapshot.toNat v.sideHead v.sideTail
  have walked : ∀ beam limit cap, (r.walk ⟨e.f, t, query, v.nodes.toNat, v.snapshot.toNat, beam, limit, cap⟩).bad = none := fun _ _ _ =>
    Run.walk_of_none_bad hb
  unfold Run.searchShard
  simp only [walked, scanned]
  split <;> exact ⟨_, rfl⟩

section
variable (r : Run s₀) (e : Eng) (a : SearchDesc)

theorem Run.putList_walkedOver (t : SearchSlot) (v : View) (j : Nat) (l : ShardList) : r.now.walkedOver e.f (r.putList e a t v j l).now :=
  State.walkedOver_trans (r.store_walkedOver e.f _ _ _ _ _) (Run.scribble_walkedOver _ e _)

theorem Run.searchAll_walkedOver {query : Nat} {pred : List Byte} {ts : List (SlotIx × View)}
    {p : Run s₀ × Except (Space × Nat × Nat) SearchSums} (found : r.searchAll e a query pred ts = p) : r.now.walkedOver e.f p.1.now := by
  subst found
  refine List.foldlRecOn (motive := fun p : Run s₀ × Except _ SearchSums => r.now.walkedOver e.f p.1.now) _ _
    (r.now.walkedOver_refl e.f) fun p hp tv _ => ?_
  obtain ⟨r', _ | x⟩ := p
  · exact hp
  · have counted := State.walkedOver_trans hp (r'.countEdges_walkedOver e.f tv.1
      (r'.searchShard e a (r'.fur e.f).srch[tv.1] tv.2 query pred).1)
    dsimp only
    split
    · exact counted
    · exact State.walkedOver_trans counted (Run.putList_walkedOver _ e a _ _ _ _)

end

/-- Where no uncorrectable data is known, every shard's search comes to its list. -/
theorem Run.searchAll_of_none_bad {r : Run s₀} {e : Eng} (hb : (r.now.furrow e.f).counts.bad = []) {a : SearchDesc} {query : Nat}
    {pred : List Byte} {ts : List (SlotIx × View)} {p : Run s₀ × Except (Space × Nat × Nat) SearchSums}
    (found : r.searchAll e a query pred ts = p) : ∃ x, p.2 = .ok x ∧ x.lists = ts.length := by
  induction ts using List.reverseRecOn generalizing p with
  | nil => exact ⟨_, congrArg Prod.snd found.symm, rfl⟩
  | append_singleton ts tv ih =>
    generalize before : r.searchAll e a query pred ts = b at ih
    obtain ⟨x, listed, lists⟩ := ih rfl
    have clean := (r.searchAll_walkedOver e a before).clean hb
    obtain ⟨r', _⟩ := b
    cases listed
    obtain ⟨l, shard⟩ := Run.searchShard_of_none_bad clean a (r'.fur e.f).srch[tv.1] tv.2 query pred
    unfold Run.searchAll at before found
    rw [List.foldl_append, before] at found
    simp only [List.foldl_cons, List.foldl_nil, shard] at found
    subst found
    exact ⟨_, rfl, by rw [List.length_append, List.length_singleton, lists]⟩

end Sys2Proof.Machine
end

section
namespace Sys2Proof.Machine

variable {s₀ : State}

/-! ### The end of a search or a merge: its views given back (R159, R162) -/

/-- What a request held of the slots is given back, its walks' storage left as free values. -/
def Run.dropViews (r : Run s₀) (f : FurrowIx) (h : Handle) (tag : Tag) : Run s₀ :=
  (r.fillRooms f h tag).modFur f fun c => { c with srch := c.srch.map fun t => t.releaseReq h tag }

theorem SearchSlot.not_held_of_mem_releaseReq {x : SearchSlot} {h : Handle} {tag : Tag} {v : View} (hv : v ∈ (x.releaseReq h tag).views) :
    ¬(v.h = h ∧ v.tag = tag) := by
  rintro ⟨rfl, rfl⟩
  simpa using (List.mem_filter.1 hv).2

section
variable {r : Run s₀} {f : FurrowIx} {h : Handle} {tag : Tag}

theorem Run.fillRooms_workedOver (r : Run s₀) (f : FurrowIx) (h : Handle) (tag : Tag) : r.now.workedOver f (r.fillRooms f h tag).now := by
  refine Run.each_workedOver _ (fun r x => ?_) _ r
  dsimp only
  rw [Run.write_now]
  refine ⟨(r.freeBytes x.2).2.now.onlyFurrow_setMem (.inr (.inl rfl)) _, ?_⟩
  rw [State.setMem_furrow]
  rfl

theorem Run.dropViews_furrow (r : Run s₀) (f : FurrowIx) (h : Handle) (tag : Tag) :
    ((r.dropViews f h tag).now.furrow f).reqs = (r.now.furrow f).reqs ∧
      ((r.dropViews f h tag).now.furrow f).srch = (r.now.furrow f).srch.map fun t => t.releaseReq h tag := by
  rw [Run.dropViews, Run.modFur_now, State.furrow_setFurrow_same, Furrow.eq_of_besideWork (r.fillRooms_workedOver f h tag).2]
  exact ⟨rfl, rfl⟩

/-- The descriptor ends as its work says, only its furrow has changed, and each slot is what the work left of it without the request's
views. -/
theorem Run.dropViews_ends (hq : ∃ q, (r.now.furrow f).request? h tag = some q) (e : Ending) {t : State}
    (ht : t = ((r.dropViews f h tag).engineEnds f h tag e).now) :
    t.descriptorEnded f h tag e ∧ r.now.onlyFurrow f t ∧
      ∀ i : SlotIx, (t.furrow f).srch[i] = (r.now.furrow f).srch[i].releaseReq h tag := by
  subst ht
  obtain ⟨reqs, slots⟩ := r.dropViews_furrow f h tag
  refine ⟨Run.engineEnds_descriptorEnded ?_ e, ?_, fun i => ?_⟩
  · rwa [Furrow.request?_congr reqs]
  · exact State.onlyFurrow_trans (r.fillRooms_workedOver f h tag).1
      (State.onlyFurrow_trans (State.onlyFurrow_setFurrow _ f _) (Run.engineEnds_onlyFurrow _ f h tag e))
  · rw [Run.engineEnds_srch, slots, Fin.getElem_fin, Vector.getElem_map]
    rfl

end

/-! ### SEARCH (R159, R174, R175) -/

/-- Of each slot at most one view is taken: there are as many as slots with one. -/
theorem length_firstViews (g : SlotIx → List View) (p : View → Bool) (is : List SlotIx) :
    (is.flatMap fun i => ((g i).filter p).take 1 |>.map fun v => (i, v)).length = (is.filter fun i => (g i).any p).length := by
  induction is with
  | nil => rfl
  | cons i is ih =>
    rw [List.flatMap_cons, List.length_append, ih]
    cases held : (g i).any p with
    | false =>
      have none : (g i).filter p = [] := List.filter_eq_nil_iff.2 fun v hv => by simpa using List.any_eq_false.1 held v hv
      simp [none, held]
    | true =>
      obtain ⟨v, hv, hp⟩ := List.any_eq_true.1 held
      have some : 0 < ((g i).filter p).length := List.length_pos_of_mem (List.mem_filter.2 ⟨hv, hp⟩)
      simp only [List.length_map, List.length_take, List.filter_cons, held, if_true, List.length_cons]
      omega

/-- The slots that a request's search holds views of. -/
def Furrow.searched (c : Furrow) (h : Handle) (tag : Tag) : List SlotIx :=
  (List.finRange 8).filter fun i => c.srch[i].views.any fun v => v.h = h && v.tag = tag && !v.merge

theorem satCount_searched (c : Furrow) (h : Handle) (tag : Tag) : satCount (c.searched h tag).length = (c.searched h tag).length := by
  have few : (c.searched h tag).length ≤ 8 := (List.length_filter_le _ _).trans_eq (List.length_finRange)
  exact Nat.min_eq_left (by omega)

/-- A SEARCH is work of the walkers, and then gives its views back; where no uncorrectable data is known it ends DONE or DONE_SHORT with
the number of its shards. -/
theorem Run.search_outcome (r : Run s₀) (e : Eng) (q : Request) : ∃ r' : Run s₀,
    (r.search e q).1 = r'.dropViews e.f e.h e.tag ∧ r.now.walkedOver e.f r'.now ∧
      ((r.now.furrow e.f).counts.bad = [] →
        ((r.search e q).2.status = Status.done ∨ (r.search e q).2.status = Status.doneShort) ∧
          (r.search e q).2.result = BitVec.ofNat 64 (df q.desc 24 8) ∧
          (r.search e q).2.count = BitVec.ofNat 16 ((r.now.furrow e.f).searched e.h e.tag).length) := by
  unfold Run.search
  refine ⟨_, rfl, Run.reading_walkedOver ?_, fun hb => ?_⟩
  · dsimp only
    split
    next p found => exact State.walkedOver_trans (Run.searchAll_walkedOver _ _ _ found) (Run.spoil_walkedOver _ e p _)
    next x found =>
      refine State.walkedOver_trans (Run.searchAll_walkedOver _ _ _ found) ?_
      dsimp only
      split
      · exact Run.modFur_walkedOver _ e.f (modFirst_map Request.name _ (fun _ => by rfl) e.h e.tag _) (fun _ => rfl) id
      · exact State.walkedOver_refl _ e.f
  · dsimp only
    rw [Run.reading_of_none_bad hb]
    split
    next found =>
      obtain ⟨_, listed, -⟩ := Run.searchAll_of_none_bad hb found
      cases listed
    next x found =>
      obtain ⟨_, listed, lists⟩ := Run.searchAll_of_none_bad hb found
      obtain rfl := Except.ok.inj listed
      have count : satCount x.lists = ((r.now.furrow e.f).searched e.h e.tag).length := by
        rw [lists, length_firstViews, ← satCount_searched]
        rfl
      dsimp only
      rw [← count]
      split
      · exact ⟨.inl rfl, rfl, rfl⟩
      · unfold searchEnding
        dsimp only
        split
        · exact ⟨.inr rfl, rfl, rfl⟩
        · exact ⟨.inl rfl, rfl, rfl⟩

/-! ### MERGE (R185) -/

section
variable (r : Run s₀) (f : FurrowIx) (t : SearchSlot)

theorem Run.setEdge_walkedOver (n j v : Nat) : r.now.walkedOver f (r.setEdge f t n j v).now := r.putShard_walkedOver f t _ _

theorem Run.reverseEdge_walkedOver (y node : Nat) : r.now.walkedOver f (r.reverseEdge f t y node).now := by
  unfold Run.reverseEdge
  dsimp only
  split
  · exact r.setEdge_walkedOver f t _ _ _
  · split
    · split
      · exact r.setEdge_walkedOver f t _ _ _
      · exact r.now.walkedOver_refl f
    · exact r.now.walkedOver_refl f

theorem Run.fold1_walkedOver (i : SlotIx) (snap beam n : Nat) : r.now.walkedOver f (r.fold1 f i t snap beam n).1.now := by
  unfold Run.fold1
  dsimp only
  split
  · exact r.putShard_walkedOver f t _ _
  · split
    · exact r.countEdges_walkedOver f i _
    · refine State.walkedOver_trans ?_ (Run.each_walkedOver _ (fun r y => r.reverseEdge_walkedOver f t y _) _ _)
      exact State.walkedOver_trans (r.countEdges_walkedOver f i _) (Run.putShard_walkedOver _ f t _ _)

theorem Run.fold1_of_none_bad {r : Run s₀} {f : FurrowIx} (hb : (r.now.furrow f).counts.bad = []) (t : SearchSlot) (i : SlotIx)
    (snap beam n : Nat) : (r.fold1 f i t snap beam n).2 = none := by
  have walked : ∀ query count, (r.walk ⟨f, t, query, count, snap, beam, 4096, 64 * t.deg⟩).bad = none := fun _ _ =>
    Run.walk_of_none_bad hb
  unfold Run.fold1
  simp only [walked]
  split <;> rfl

theorem Run.repairEntries_walkedOver (count : Nat) (settled : List Nat) : r.now.walkedOver f (r.repairEntries f t count settled).now := by
  refine Run.each_walkedOver _ (fun r i => ?_) _ r
  dsimp only
  split
  · split
    · exact r.putShard_walkedOver f t _ _
    · exact r.now.walkedOver_refl f
  · exact r.now.walkedOver_refl f

theorem Run.repairEdges_walkedOver (count : Nat) (settled : List Nat) : r.now.walkedOver f (r.repairEdges f t count settled).now := by
  unfold Run.repairEdges
  split
  · exact r.now.walkedOver_refl f
  · refine Run.each_walkedOver _ (fun r x => Run.each_walkedOver _ (fun r j => ?_) _ r) _ r
    dsimp only
    split
    · split <;> exact r.setEdge_walkedOver f t _ _ _
    · exact r.now.walkedOver_refl f

theorem Run.reclaim_walkedOver : r.now.walkedOver f (r.reclaim f t).now := by
  refine Run.each_walkedOver _ (fun r n => ?_) _ r
  dsimp only
  split
  · exact r.putShard_walkedOver f t _ _
  · exact r.now.walkedOver_refl f

/-- The switch of a merge writes the switch record and replaces the slot. -/
theorem Run.commit_switches (i : SlotIx) (new : SearchSlot) : r.now.keepsRequests f (r.commit f i new [] true).now ∧
    ((r.commit f i new [] true).now.furrow f).srch[i] = new.compare := by
  unfold Run.commit
  dsimp only
  rw [Run.each_nil]
  refine ⟨State.keepsRequests_trans (r.putShard_walkedOver f (r.slot f i) _ _).1 ⟨State.onlyFurrow_setFurrow _ f _, ?_⟩, ?_⟩ <;>
    rw [Run.modSlot, Run.modFur_now, State.furrow_setFurrow_same]
  exact Furrow.setSlot_same _ i _

end

end Sys2Proof.Machine
end

section
namespace Sys2Proof.Machine

variable {s₀ : State}

/-! ### What a merge comes to (R185) -/

/-- A slot once a merge has folded n entries of its side list. -/
structure SearchSlot.folds (x : SearchSlot) (n : Nat) (y : SearchSlot) : Prop where
  idle     : y.mergeRunning = false
  nodes    : y.nodeCount = x.nodeCount + BitVec.ofNat 32 n
  sideHead : y.sideHead = x.sideHead + BitVec.ofNat 32 n
  floor    : y.floor = x.floor
  epoch    : y.epoch = x.epoch

theorem SearchSlot.folds.besideEdges {x y z : SearchSlot} {n : Nat} (h : x.folds n y) (hz : z.besideEdges = y.besideEdges) : x.folds n z :=
  ⟨(congrArg SearchSlot.mergeRunning hz).trans h.idle, (congrArg SearchSlot.nodeCount hz).trans h.nodes,
    (congrArg SearchSlot.sideHead hz).trans h.sideHead, (congrArg SearchSlot.floor hz).trans h.floor,
    (congrArg SearchSlot.epoch hz).trans h.epoch⟩

theorem SearchSlot.folds.releaseReq {x y : SearchSlot} {n : Nat} (hf : x.folds n y) (h : Handle) (tag : Tag) :
    x.folds n (y.releaseReq h tag) :=
  ⟨by rw [SearchSlot.releaseReq, hf.idle, Bool.false_and], hf.nodes, hf.sideHead, hf.floor, hf.epoch⟩

/-- Folding entry after entry is work of the walkers, and meets no uncorrectable data where none is known. -/
theorem Run.foldEntries_outcome {r : Run s₀} {f : FurrowIx} {i : SlotIx} {t : SearchSlot} {snap beam : Nat}
    {g : Run s₀ × Option (Space × Nat × Nat) → Nat → Run s₀ × Option (Space × Nat × Nat)} {ns : List Nat}
    {p : Run s₀ × Option (Space × Nat × Nat)} (folds : ns.foldl g (r, none) = p) (hbad : ∀ r p n, g (r, some p) n = (r, some p))
    (hfold : ∀ r n, g (r, none) n = r.fold1 f i t snap beam n) :
    r.now.walkedOver f p.1.now ∧ ((r.now.furrow f).counts.bad = [] → p.2 = none) := by
  subst folds
  refine List.foldlRecOn (motive := fun p : Run s₀ × Option _ =>
    r.now.walkedOver f p.1.now ∧ ((r.now.furrow f).counts.bad = [] → p.2 = none)) ns g ⟨r.now.walkedOver_refl f, fun _ => rfl⟩ ?_
  rintro ⟨r', _ | p⟩ ⟨worked, met⟩ n -
  · rw [hfold]
    exact ⟨State.walkedOver_trans worked (r'.fold1_walkedOver f t i snap beam n), fun hb => Run.fold1_of_none_bad (worked.clean hb) t i _ _ _⟩
  · rw [hbad]
    exact ⟨worked, met⟩

/-- A slot as a merge's switch puts it in place: n entries folded, the delete log settled to a count. -/
def SearchSlot.switched (x y : SearchSlot) (h : Handle) (tag : Tag) (n : Nat) (log : W32) : SearchSlot :=
  { y.releaseReq h tag with
    nodeCount := BitVec.ofNat 32 (x.nodeCount.toNat + n), sideHead := x.sideHead + BitVec.ofNat 32 n, dlogHead := log
    mergeRunning := false }

/-- The walkers' work, the switch and their work after it: the slot stands as the switch put it. -/
theorem Run.switch_outcome {r r' : Run s₀} {f : FurrowIx} {i : SlotIx} (worked : r.now.walkedOver f r'.now) (h : Handle) (tag : Tag) (n : Nat)
    (log : W32) {new : SearchSlot} (hnew : new = (r.slot f i).switched (r'.slot f i) h tag n log) (t : SearchSlot) :
    r.now.keepsRequests f ((r'.commit f i new [] true).reclaim f t).now ∧ new.floor = (r.slot f i).floor ∧
      (r.slot f i).folds n (((r'.commit f i new [] true).reclaim f t).now.furrow f).srch[i] := by
  subst hnew
  obtain ⟨kept, slot⟩ := r'.commit_switches f i ((r.slot f i).switched (r'.slot f i) h tag n log)
  have reclaimed := (r'.commit f i ((r.slot f i).switched (r'.slot f i) h tag n log) [] true).reclaim_walkedOver f t
  have floor : (r'.slot f i).floor = (r.slot f i).floor := (congrArg SearchSlot.floor (worked.slots i) :)
  have epoch : (r'.slot f i).epoch = (r.slot f i).epoch := (congrArg SearchSlot.epoch (worked.slots i) :)
  have nodes : BitVec.ofNat 32 ((r.slot f i).nodeCount.toNat + n) = (r.slot f i).nodeCount + BitVec.ofNat 32 n := by
    rw [BitVec.ofNat_add, BitVec.ofNat_toNat, BitVec.setWidth_eq]
  have folded : (r.slot f i).folds n ((r.slot f i).switched (r'.slot f i) h tag n log).compare := ⟨rfl, nodes, rfl, floor, epoch⟩
  exact ⟨State.keepsRequests_trans worked.1 (State.keepsRequests_trans kept reclaimed.1), floor,
    folded.besideEdges ((reclaimed.slots i).trans (congrArg SearchSlot.besideEdges slot))⟩

theorem Run.mergeShard_outcome (r : Run s₀) (e : Eng) (i : SlotIx) (snap beam : Nat) :
    r.now.keepsRequests e.f (r.mergeShard e i snap beam).1.now ∧
      ((r.now.furrow e.f).counts.bad = [] → ∃ n,
        (r.mergeShard e i snap beam).2 = Ending.ok (min n 65535) (r.now.furrow e.f).srch[i].floor.toNat ∧
        (r.now.furrow e.f).srch[i].folds n ((r.mergeShard e i snap beam).1.now.furrow e.f).srch[i]) := by
  unfold Run.mergeShard
  refine Run.readingOf_outcome (post := fun p => ∃ n, p.2 = Ending.ok (min n 65535) (r.now.furrow e.f).srch[i].floor.toNat ∧
    (r.now.furrow e.f).srch[i].folds n (p.1.now.furrow e.f).srch[i]) ?_
  dsimp only
  generalize r.prefixTo e.f (r.slot e.f i) (r.slot e.f i).dlogAt snap _ = log
  generalize r.prefixTo e.f (r.slot e.f i) (r.slot e.f i).sideAt snap _ = fold
  generalize folds : fold.foldl _ (r, none) = p
  obtain ⟨worked, unmet⟩ := Run.foldEntries_outcome folds (fun _ _ _ => rfl) fun _ _ => rfl
  obtain ⟨r', _ | b⟩ := p
  · have repaired := fun t count settled => State.walkedOver_trans
      (State.walkedOver_trans worked (r'.repairEntries_walkedOver e.f t count settled)) (Run.repairEdges_walkedOver _ e.f t count settled)
    refine And.imp_right ?_ (Run.switch_outcome (repaired _ _ _) e.h e.tag fold.length _ rfl _)
    exact fun ⟨floor, folded⟩ _ => ⟨_, congrArg (fun x : W64 => Ending.ok _ x.toNat) floor, folded⟩
  · exact ⟨State.keepsRequests_trans worked.1 (r'.readFault_walkedOver e b).1, fun hb => nomatch unmet hb⟩

/-! ### MERGE_WAKE (R162, R184) -/

section
variable {s : State} {f : FurrowIx} {h : Handle} {tag : Tag} {q : Request}

theorem execMergeWake_begins {i : SlotIx} {x : Nat × Nat} (hq : (s.furrow f).request? h tag = some q)
    (hi : (s.furrow f).slotNamed h (df q.desc 16 2) (decide (h = 0)) = some i)
    (due : q.phase = .running ∧ opcodeOf q.desc = 0x3B ∧ q.merge = some ⟨true⟩ ∧
      ((s.furrow f).srch[i].mergeDue = true ∨ (df q.desc 18 1).testBit 0 = false)) (hx : (s.furrow f).mergeRoom q = some x) :
    exec (.mergeWake f h tag) s = .next (s.setFurrow f (((s.furrow f).setSlot i ((s.furrow f).srch[i].beginMerge h tag x)).modReq h tag
      fun q => { q with merge := some ⟨false⟩, uses := q.walkerUse })) := by
  refine done_modFur ?_
  rw [← Bool.not_eq_true'] at due
  simp only [hq, hi, due, and_self, if_true, hx]
  rfl

/-! ### MERGE -/

theorem execMerge_waits (hm : (s.furrow f).mergeHeld h tag = none) : exec (.merge f h tag) s = .next s := by
  show execMerge f h tag s = _
  unfold execMerge
  rw [hm]
  split
  · contradiction
  · rfl

theorem execMerge_runs {i : SlotIx} {v : View} (hq : (s.furrow f).atWork h tag 0x3B = some q) (hm : (s.furrow f).mergeHeld h tag = some (i, v)) :
    exec (.merge f h tag) s =
      .next ((((Run.start s).mergeShard (q.eng f) i v.snapshot.toNat (mergeBeam q.desc)).1.dropViews f h tag).engineEnds f h tag
        ((Run.start s).mergeShard (q.eng f) i v.snapshot.toNat (mergeBeam q.desc)).2).now := by
  show execMerge f h tag s = _
  unfold execMerge
  simp only [hq, hm]
  rfl

end

/-- Settles O28: a SEARCH and a MERGE are each work of the walkers, whose stores and counts of edges leave the slots' epochs and views alone,
then give their views back and end; a merge's switch moves its slot on by the entries folded. -/
theorem searchAndMergeReleaseTheirViews : Obligations.SearchAndMergeReleaseTheirViews := by
  intro f h tag q s c released
  refine ⟨fun hq => ?_, fun hq i v held => ?_, execMerge_waits, fun hq i x hi running merges waiting due room =>
    execMergeWake_begins hq hi ⟨running, merges, waiting, due⟩ room⟩
  · obtain ⟨hreq, -⟩ := Furrow.atWork_is hq
    obtain ⟨rfl, rfl, -⟩ := Furrow.request?_is _ _ _ _ hreq
    obtain ⟨r, drops, worked, ends⟩ := (Run.start s).search_outcome (q.eng f) q
    obtain ⟨ended, only, slots⟩ := Run.dropViews_ends (f := f) (worked.request? ⟨q, hreq⟩) ((Run.start s).search (q.eng f) q).2 rfl
    refine ⟨_, _, (runDesc_atWork hq _).trans ?_, ended, State.onlyFurrow_trans worked.only only, fun i v hv => ?_, fun i => ?_, ends⟩
    · rw [drops]
      rfl
    · rw [slots i] at hv
      exact SearchSlot.not_held_of_mem_releaseReq hv
    · rw [slots i]
      exact (congrArg SearchSlot.epoch (worked.slots i) :)
  · obtain ⟨hreq, -⟩ := Furrow.atWork_is hq
    obtain ⟨rfl, rfl, -⟩ := Furrow.request?_is _ _ _ _ hreq
    obtain ⟨kept, ends⟩ := (Run.start s).mergeShard_outcome (q.eng f) i v.snapshot.toNat (mergeBeam q.desc)
    obtain ⟨ended, only, slots⟩ := Run.dropViews_ends (f := f) (kept.request? ⟨q, hreq⟩)
      ((Run.start s).mergeShard (q.eng f) i v.snapshot.toNat (mergeBeam q.desc)).2 rfl
    refine ⟨_, _, execMerge_runs hq held, ended, State.onlyFurrow_trans kept.only only, fun j v hv => ?_, fun hb => ?_⟩
    · rw [slots j] at hv
      exact SearchSlot.not_held_of_mem_releaseReq hv
    · obtain ⟨n, ending, folded⟩ := ends hb
      obtain ⟨idle, nodes, sideHead, floor, epoch⟩ := folded.releaseReq q.h q.tag
      rw [slots i]
      exact ⟨n, ending, idle, nodes, sideHead, floor, epoch⟩

end Sys2Proof.Machine
end

section
namespace Sys2Proof.Machine

variable {s₀ : State}

/-! ### What an update makes of its slot (R179, R181) -/

/-- From one state to another an update has changed a slot by n items, k of them entries of its side list: it is one epoch later if there
are any, and no other slot has changed. -/
structure State.updatesSlot (s : State) (f : FurrowIx) (i : SlotIx) (n k : Nat) (t : State) : Prop extends s.keepsRequests f t where
  others : ∀ j : SlotIx, j ≠ i → (t.furrow f).srch[j] = (s.furrow f).srch[j]
  same   : n = 0 → (t.furrow f).srch[i] = (s.furrow f).srch[i]
  epoch  : n ≠ 0 → (t.furrow f).srch[i].epoch = (s.furrow f).srch[i].epoch + 1
  tail   : (t.furrow f).srch[i].sideTail = (s.furrow f).srch[i].sideTail + BitVec.ofNat 32 k

section
variable {s t u : State} {f : FurrowIx}

theorem State.workedOver.keepsRequests (st : s.workedOver f t) : s.keepsRequests f t :=
  ⟨st.1, (congrArg (fun c : Furrow => c.reqs.map Request.name) st.2 :)⟩

theorem State.workedOver.srch (st : s.workedOver f t) : (t.furrow f).srch = (s.furrow f).srch := (congrArg Furrow.srch st.2 :)

/-- Work in the memories that changes no item is an update of none. -/
theorem State.workedOver.updatesSlot (st : s.workedOver f t) (i : SlotIx) : s.updatesSlot f i 0 0 t :=
  ⟨st.keepsRequests, fun _ _ => by rw [st.srch], fun _ => by rw [st.srch], fun h => absurd rfl h, by rw [st.srch, BitVec.add_zero]⟩

/-- What comes after an update and leaves the slots alone keeps what the update has made of them. -/
theorem State.updatesSlot.followed {i : SlotIx} {n k : Nat} (st : s.updatesSlot f i n k t) (tu : t.keepsRequests f u)
    (slots : (u.furrow f).srch = (t.furrow f).srch) : s.updatesSlot f i n k u := by
  obtain ⟨kept, others, same, epoch, tail⟩ := st
  refine ⟨State.keepsRequests_trans kept tu, ?_, ?_, ?_, ?_⟩ <;> rw [slots] <;> assumption

end

/-! #### Stores into a shard -/

section
variable (r : Run s₀) (f : FurrowIx) (x : SearchSlot)

theorem Run.putShard_workedOver (off : Nat) (bs : List Byte) : r.now.workedOver f (r.putShard f x off bs).now := by
  unfold Run.putShard
  dsimp only
  split
  · exact r.store_workedOver f _ _ _ _ _
  · refine Run.each_workedOver _ (fun r p => ?_) _ r
    split
    · exact r.store_workedOver f _ _ _ _ _
    · exact r.now.workedOver_refl f

theorem Run.logDeletes_workedOver (epoch : Nat) (nodes : List Nat) : r.now.workedOver f (r.logDeletes f x epoch nodes).now :=
  Run.each_workedOver _ (fun r _ => r.putShard_workedOver f x _ _) _ r

end

/-! #### The switch -/

section
variable {f : FurrowIx} {i : SlotIx}

theorem Run.modSlot_now (r : Run s₀) (g : SearchSlot → SearchSlot) :
    (r.modSlot f i g).now = r.now.setFurrow f ((r.now.furrow f).setSlot i (g (r.now.furrow f).srch[i])) := rfl

theorem Furrow.setSlot_other (c : Furrow) {j : SlotIx} (x : SearchSlot) (hj : j ≠ i) : (c.setSlot i x).srch[j] = c.srch[j] := by
  rw [Furrow.setSlot, Fin.getElem_fin, Vector.getElem_set_ne _ _ fun e => hj (Fin.ext e.symm)]
  rfl

/-- A slot replaced after work in the furrow's memories. -/
theorem State.workedOver.setSlot {s t : State} (st : s.workedOver f t) (i : SlotIx) (x : SearchSlot) :
    s.keepsRequests f (t.setFurrow f ((t.furrow f).setSlot i x)) ∧
      ((t.setFurrow f ((t.furrow f).setSlot i x)).furrow f).srch[i] = x ∧
      ∀ j : SlotIx, j ≠ i → ((t.setFurrow f ((t.furrow f).setSlot i x)).furrow f).srch[j] = (s.furrow f).srch[j] := by
  rw [State.furrow_setFurrow_same]
  refine ⟨State.keepsRequests_trans st.keepsRequests ⟨State.onlyFurrow_setFurrow t f _, ?_⟩, Furrow.setSlot_same _ i x, fun j hj => ?_⟩
  · rw [State.furrow_setFurrow_same]
    rfl
  · rw [Furrow.setSlot_other _ x hj, st.srch]

/-- A commit replaces the slot, but for the two flags that follow the counts, after work in the memories. -/
theorem Run.commit_sets (r : Run s₀) (f : FurrowIx) (i : SlotIx) (new : SearchSlot) (deleted : List Nat) (compares : Bool) :
    ∃ (t : State) (y : SearchSlot), r.now.workedOver f t ∧
      (r.commit f i new deleted compares).now = t.setFurrow f ((t.furrow f).setSlot i y) ∧ y.epoch = new.epoch ∧ y.sideTail = new.sideTail := by
  unfold Run.commit
  refine ⟨_, _, ?_, Run.modSlot_now _ _, ?_⟩
  · exact State.workedOver_trans (r.putShard_workedOver f _ _ _) (Run.each_workedOver _ (fun r _ => r.putShard_workedOver f _ _ _) _ _)
  · cases compares <;> exact ⟨rfl, rfl⟩

/-- After work in the memories, the switch to the next epoch updates the slot. -/
theorem Run.commit_updatesSlot {s : State} {r : Run s₀} (worked : s.workedOver f r.now) {new : SearchSlot} {n k : Nat} (hn : n ≠ 0)
    (epoch : new.epoch = BitVec.ofNat 64 ((s.furrow f).srch[i].epoch.toNat + 1))
    (tail : new.sideTail = (s.furrow f).srch[i].sideTail + BitVec.ofNat 32 k) (deleted : List Nat) (compares : Bool) :
    s.updatesSlot f i n k (r.commit f i new deleted compares).now := by
  obtain ⟨t, y, stored, commits, yEpoch, yTail⟩ := r.commit_sets f i new deleted compares
  obtain ⟨kept, slot, others⟩ := (State.workedOver_trans worked stored).setSlot i y
  have next : BitVec.ofNat 64 ((s.furrow f).srch[i].epoch.toNat + 1) = (s.furrow f).srch[i].epoch + 1 := by
    rw [BitVec.ofNat_add, BitVec.ofNat_toNat, BitVec.setWidth_eq]
    rfl
  rw [commits]
  exact ⟨kept, others, fun h => absurd h hn, fun _ => by rw [slot, yEpoch, epoch, next], by rw [slot, yTail, tail]⟩

end

/-! ### The items of an update (R180, R184) -/

section
variable (r : Run s₀) (f : FurrowIx) (i : SlotIx) (a : UpdDesc) (bs : List Byte)

theorem Run.applyInsert_updatesSlot :
    r.now.updatesSlot f i (r.applyInsert f i a bs).changed (r.applyInsert f i a bs).changed (r.applyInsert f i a bs).run.now := by
  unfold Run.applyInsert
  dsimp only
  generalize (Option.map _ _).getD a.n = m
  have stored := Run.each_workedOver (f := f) _ (fun (r' : Run s₀) (p : List Byte × Nat) => r'.putShard_workedOver f (r.slot f i)
    ((r.slot f i).sideAt ((r.slot f i).sideTail + BitVec.ofNat 32 p.2).toNat) p.1)
    ((List.range m).map fun k => stamped (a.item (r.slot f i) bs k) ((r.slot f i).epoch.toNat + 1)
      ((r.slot f i).nodeOf (r.slot f i).sideTail + k)).zipIdx r
  split
  next none => exact none ▸ stored.updatesSlot i
  next some => exact Run.commit_updatesSlot stored some rfl rfl [] true

/-- With room for each item an INSERT processes them all. -/
theorem Run.applyInsert_of_room (room : ∀ k, k < a.n → (r.slot f i).full true false k 0 false = none) :
    (r.applyInsert f i a bs).changed = a.n ∧ (r.applyInsert f i a bs).processed = a.n := by
  have unstopped : (List.range a.n).findSome? (fun k => ((r.slot f i).full true false k 0 false).map fun c => (k, c)) = none :=
    List.findSome?_eq_none_iff.2 fun k hk => by rw [room k (List.mem_range.1 hk), Option.map_none]
  unfold Run.applyInsert
  dsimp only
  rw [unstopped]
  exact ⟨rfl, rfl⟩

theorem Run.applyDelete_updatesSlot :
    r.now.updatesSlot f i (r.applyDelete f i a bs).changed 0 (r.applyDelete f i a bs).run.now := by
  unfold Run.applyDelete
  dsimp only
  generalize List.foldl _ _ _ = x
  have stored := r.logDeletes_workedOver f (r.slot f i) ((r.slot f i).epoch.toNat + 1) x.nodes
  split
  next none => exact none ▸ stored.updatesSlot i
  next some =>
    refine Run.commit_updatesSlot stored some rfl ?_ x.nodes false
    exact (BitVec.add_zero _).symm

/-- The items of a DELETE so far have all been processed, and no more logged than there were. -/
structure Deleting.allDone (x : Deleting) : Prop where
  room   : x.full = false
  logged : x.nodes.length ≤ x.results.length
  done   : ∀ v ∈ x.results, v ≠ 0xFF

theorem Deleting.allDone.result {x : Deleting} (hx : x.allDone) {v : Nat} (hv : v ≠ 0xFF) :
    Deleting.allDone { x with results := x.results ++ [v] } := by
  refine ⟨hx.room, ?_, ?_⟩
  · rw [List.length_append]
    exact hx.logged.trans (Nat.le_add_right _ _)
  · exact List.forall_mem_append.2 ⟨hx.done, List.forall_mem_singleton.2 hv⟩

theorem Run.deleteItem_of_room (t : SearchSlot) {x : Deleting} (hx : x.allDone)
    (room : (t.dlogTail - t.dlogHead).toNat + x.results.length < 65536) (id : Nat) :
    (r.deleteItem f t x id).allDone ∧ (r.deleteItem f t x id).results.length = x.results.length + 1 := by
  have unfull : t.full false true 0 x.nodes.length false = none := by
    have := hx.logged
    unfold SearchSlot.full
    rw [if_neg (by simp), if_neg (by omega), if_neg (by simp), if_neg (by simp)]
  unfold Run.deleteItem
  rw [if_neg (ne_true_of_eq_false hx.room), unfull]
  split
  · exact ⟨hx.result (v := 2) (by decide), List.length_append⟩
  · split
    · exact ⟨hx.result (v := 1) (by decide), List.length_append⟩
    · obtain ⟨room, -, done⟩ := hx.result (v := 0) (by decide)
      refine ⟨⟨room, ?_, done⟩, List.length_append⟩
      simpa using hx.logged

theorem Run.deleteItems_of_room (t : SearchSlot) (ids : List Nat) {x : Deleting} (hx : x.allDone)
    (room : (t.dlogTail - t.dlogHead).toNat + (x.results.length + ids.length) ≤ 65536) :
    (ids.foldl (fun x id => r.deleteItem f t x id) x).allDone ∧
      (ids.foldl (fun x id => r.deleteItem f t x id) x).results.length = x.results.length + ids.length := by
  induction ids generalizing x with
  | nil => exact ⟨hx, rfl⟩
  | cons id ids ih =>
    rw [List.length_cons] at room
    obtain ⟨done, length⟩ := r.deleteItem_of_room f t hx (by omega) id
    obtain ⟨done', length'⟩ := ih done (by omega)
    exact ⟨done', by rw [List.foldl_cons, length', length, List.length_cons]; omega⟩

/-- With room in the log for each item a DELETE processes them all. -/
theorem Run.applyDelete_of_room (room : ((r.slot f i).dlogTail - (r.slot f i).dlogHead).toNat + a.n ≤ 65536) :
    (r.applyDelete f i a bs).processed = a.n := by
  have length : ((List.range a.n).map fun k => fieldAt (a.item (r.slot f i) bs k) 0 5).length = a.n := by
    rw [List.length_map, List.length_range]
  obtain ⟨done, results⟩ := r.deleteItems_of_room f (r.slot f i) _ (x := ⟨[], [], false⟩) ⟨rfl, le_rfl, List.forall_mem_nil _⟩
    (by rw [length, List.length_nil, Nat.zero_add]; exact room)
  rw [length, List.length_nil, Nat.zero_add] at results
  unfold Run.applyDelete
  dsimp only
  rw [List.filter_eq_self.2 fun v hv => decide_eq_true (done.done v hv), results]

theorem Run.applyReplace_updatesSlot :
    r.now.updatesSlot f i (r.applyReplace f i a bs).changed (r.applyReplace f i a bs).changed (r.applyReplace f i a bs).run.now := by
  unfold Run.applyReplace
  dsimp only
  split
  · exact Run.commit_updatesSlot (State.workedOver_trans (r.putShard_workedOver f _ _ _) (Run.logDeletes_workedOver _ f _ _ _))
      Nat.one_ne_zero rfl rfl _ true
  · exact (r.now.workedOver_refl f).updatesSlot i

/-- A REPLACE with room whose old passage stands processes its one item. -/
theorem Run.applyReplace_of_room (room : (r.slot f i).full true true 0 0 false = none)
    (stands : ∃ n, (r.slot f i).present a.old = some n ∧ r.tombed f (r.slot f i) n = false) :
    (r.applyReplace f i a bs).changed = 1 ∧ (r.applyReplace f i a bs).processed = 1 := by
  obtain ⟨n, present, untombed⟩ := stands
  have old : ((r.slot f i).present a.old).filter (fun n => !r.tombed f (r.slot f i) n) = some n := by
    rw [present, Option.filter_some, untombed]
    rfl
  unfold Run.applyReplace
  simp only [old, Option.isNone_some, room, and_self]

end

/-! #### How an update ends (Table 08-6) -/

section
variable (x : Applied s₀) (n : Nat) (epoch : W64)

theorem Applied.ending_status : (x.ending n epoch).status = Status.done ∨ (x.ending n epoch).status = Status.doneShort := by
  unfold Applied.ending
  dsimp only
  split
  · exact .inr rfl
  · exact .inl rfl

theorem Applied.ending_done {x : Applied s₀} {n : Nat} (all : n ≤ x.processed) :
    x.ending n epoch = Ending.ok (satCount x.changed) epoch.toNat := if_neg (Nat.not_lt.2 all)

theorem Applied.ending_count : (x.ending n epoch).count = BitVec.ofNat 16 (satCount x.changed) := by
  unfold Applied.ending
  dsimp only
  split <;> rfl

theorem Applied.ending_count_eq_zero : (x.ending n epoch).count = 0 ↔ x.changed = 0 := by
  have small : satCount x.changed < 2 ^ 16 := Nat.lt_succ_of_le (satCount_le _)
  rw [Applied.ending_count, ← BitVec.toNat_inj, BitVec.toNat_ofNat, Nat.mod_eq_of_lt small]
  unfold satCount
  simp

theorem Applied.ending_result : (x.ending n epoch).result = epoch := by
  have result : (x.ending n epoch).result = BitVec.ofNat 64 epoch.toNat := by
    unfold Applied.ending
    dsimp only
    split <;> rfl
  rw [result, BitVec.ofNat_toNat, BitVec.setWidth_eq]

end

end Sys2Proof.Machine
end

section
namespace Sys2Proof.Machine

variable {s₀ : State}

/-- The engine's end of work that has kept its furrow's requests. -/
theorem State.keepsRequests.ends {s : State} {r : Run s₀} {f : FurrowIx} {h : Handle} {tag : Tag} {q : Request}
    (kept : s.keepsRequests f r.now) (hq : (s.furrow f).request? h tag = some q) (e : Ending) :
    (r.engineEnds f h tag e).now.descriptorEnded f h tag e ∧ s.onlyFurrow f (r.engineEnds f h tag e).now :=
  ⟨Run.engineEnds_descriptorEnded (kept.request? ⟨q, hq⟩) e, State.onlyFurrow_trans kept.only (r.engineEnds_onlyFurrow f h tag e)⟩

/-! ### INSERT, DELETE and REPLACE where no uncorrectable data is known (R181, R184) -/

theorem Run.readingOf_of_none_bad {r : Run s₀} {e : Eng} (hb : (r.now.furrow e.f).counts.bad = []) (h : Handle) (xs outs : List Extent)
    (work : Run s₀ → Run s₀ × Ending) : r.readingOf e h xs outs work = work r := by
  unfold Run.readingOf
  rw [Run.fur_eq, Furrow.firstBad_of_none_bad hb]

/-- What a member passes to the furrow above it concerns the Poryar block alone. -/
theorem Furrow.passUp_keeps {γ : Type} {view : Furrow → γ} (hv : BesidePyr view) (c : Furrow) (f : FurrowIx) (q : Request) (own : List Byte)
    (rest : List (Nat × List Byte)) : view (c.passUp f q own rest) = view c := by
  unfold Furrow.passUp Furrow.passUnder
  split
  · rfl
  · exact foldl_keeps view _ (fun _ _ => Furrow.route_keeps hv _ f _) _ c

/-- The items go back to the host's copy at a root, and up the span at a member (R191). -/
def Run.giveBack (r : Run s₀) (e : Eng) (q : Request) (bs : List Byte) : Run s₀ :=
  match q.origin with
  | some _ => r.modFur e.f fun c => c.passUp e.f q bs []
  | none => r.store e.f e.h e.core (UpdDesc.of q.desc).items.tier (UpdDesc.of q.desc).items.off bs

theorem Run.giveBack_keeps (r : Run s₀) (e : Eng) (q : Request) (bs : List Byte) :
    r.now.keepsRequests e.f (r.giveBack e q bs).now ∧ ((r.giveBack e q bs).now.furrow e.f).srch = (r.now.furrow e.f).srch := by
  unfold Run.giveBack
  split
  · refine ⟨⟨State.onlyFurrow_setFurrow _ _ _, ?_⟩, ?_⟩ <;> rw [Run.modFur_now, State.furrow_setFurrow_same]
    · exact Furrow.passUp_keeps (view := fun c => c.reqs.map Request.name) (fun _ _ => rfl) _ _ q bs []
    · exact Furrow.passUp_keeps (view := Furrow.srch) (fun _ _ => rfl) _ _ q bs []
  · have stored := r.store_workedOver e.f e.h e.core (UpdDesc.of q.desc).items.tier (UpdDesc.of q.desc).items.off bs
    exact ⟨stored.keepsRequests, stored.srch⟩

/-- The items of an update of any of the three kinds, applied. -/
def Run.applyUpdate (r : Run s₀) (f : FurrowIx) (i : SlotIx) (a : UpdDesc) (bs : List Byte) : Applied s₀ :=
  if a.op = 0x38 then r.applyInsert f i a bs else if a.op = 0x39 then r.applyDelete f i a bs else r.applyReplace f i a bs

/-- The entries that an update adds to the side list: one for each item that changed the shard, but none for a DELETE. -/
def UpdDesc.sided (a : UpdDesc) (changed : Nat) : Nat := if a.op = 0x39 then 0 else changed

theorem Run.applyUpdate_updatesSlot (r : Run s₀) (f : FurrowIx) (i : SlotIx) (a : UpdDesc) (bs : List Byte) :
    r.now.updatesSlot f i (r.applyUpdate f i a bs).changed (a.sided (r.applyUpdate f i a bs).changed) (r.applyUpdate f i a bs).run.now := by
  unfold Run.applyUpdate UpdDesc.sided
  by_cases insert : a.op = 0x38
  · rw [if_pos insert, if_neg (by omega)]
    exact r.applyInsert_updatesSlot f i a bs
  · rw [if_neg insert]
    by_cases delete : a.op = 0x39
    · rw [if_pos delete, if_pos delete]
      exact r.applyDelete_updatesSlot f i a bs
    · rw [if_neg delete, if_neg delete]
      exact r.applyReplace_updatesSlot f i a bs

/-- The items of a request's update applied to a slot. -/
def Run.applied (r : Run s₀) (e : Eng) (q : Request) (i : SlotIx) : Applied s₀ :=
  r.applyUpdate e.f i (UpdDesc.of q.desc) (r.updItems e q (r.slot e.f i))

section
variable {r : Run s₀} {e : Eng}

theorem Run.update_of_none_bad (hb : (r.now.furrow e.f).counts.bad = []) (q : Request) (i : SlotIx) :
    r.update e q i = ((r.applied e q i).run.giveBack e q (r.applied e q i).back,
      (r.applied e q i).ending (UpdDesc.of q.desc).n (((r.applied e q i).run.giveBack e q (r.applied e q i).back).slot e.f i).epoch) := by
  unfold Run.update
  dsimp only
  rw [Run.reading_of_none_bad hb, Run.readingOf_of_none_bad hb]
  rfl

/-- An update applies its items to its slot, and leaves the slots so as it gives the items back. -/
theorem Run.update_updatesSlot (hb : (r.now.furrow e.f).counts.bad = []) (q : Request) (i : SlotIx) :
    r.now.updatesSlot e.f i (r.applied e q i).changed ((UpdDesc.of q.desc).sided (r.applied e q i).changed) (r.update e q i).1.now := by
  obtain ⟨kept, slots⟩ := (r.applied e q i).run.giveBack_keeps e q (r.applied e q i).back
  rw [Run.update_of_none_bad hb]
  exact (r.applyUpdate_updatesSlot e.f i (UpdDesc.of q.desc) _).followed kept slots

theorem Run.update_ending (hb : (r.now.furrow e.f).counts.bad = []) (q : Request) (i : SlotIx) :
    (r.update e q i).2 = (r.applied e q i).ending (UpdDesc.of q.desc).n ((r.update e q i).1.slot e.f i).epoch := by
  rw [Run.update_of_none_bad hb]

/-- An update that has processed all its items ends DONE, and has added its entries to the side list. -/
theorem Run.update_of_processed (hb : (r.now.furrow e.f).counts.bad = []) {q : Request} {i : SlotIx}
    (all : (UpdDesc.of q.desc).n ≤ (r.applied e q i).processed) :
    (r.update e q i).2 = Ending.ok (satCount (r.applied e q i).changed) ((r.update e q i).1.slot e.f i).epoch.toNat ∧
      ((r.update e q i).1.slot e.f i).sideTail =
        (r.slot e.f i).sideTail + BitVec.ofNat 32 ((UpdDesc.of q.desc).sided (r.applied e q i).changed) :=
  ⟨(Run.update_ending hb q i).trans (Applied.ending_done _ all), (Run.update_updatesSlot hb q i).tail⟩

/-! #### With room for all the items (R184) -/

section
variable {q : Request} {i : SlotIx} (hb : (r.now.furrow e.f).counts.bad = [])
include hb

theorem Run.update_insert_of_room (insert : (UpdDesc.of q.desc).op = 0x38)
    (room : ∀ k, k < (UpdDesc.of q.desc).n → (r.slot e.f i).full true false k 0 false = none) :
    (r.update e q i).2 = Ending.ok (satCount (UpdDesc.of q.desc).n) ((r.update e q i).1.slot e.f i).epoch.toNat ∧
      ((r.update e q i).1.slot e.f i).sideTail = (r.slot e.f i).sideTail + BitVec.ofNat 32 (UpdDesc.of q.desc).n := by
  have applied : r.applied e q i = r.applyInsert e.f i (UpdDesc.of q.desc) (r.updItems e q (r.slot e.f i)) := if_pos insert
  obtain ⟨changed, processed⟩ := r.applyInsert_of_room e.f i (UpdDesc.of q.desc) (r.updItems e q (r.slot e.f i)) room
  rw [← applied] at changed processed
  obtain ⟨ending, tail⟩ := Run.update_of_processed hb processed.ge
  have sided : (UpdDesc.of q.desc).sided (UpdDesc.of q.desc).n = (UpdDesc.of q.desc).n := if_neg (by omega)
  rw [changed] at ending tail
  rw [sided] at tail
  exact ⟨ending, tail⟩

theorem Run.update_delete_of_room (delete : (UpdDesc.of q.desc).op = 0x39)
    (room : ((r.slot e.f i).dlogTail - (r.slot e.f i).dlogHead).toNat + (UpdDesc.of q.desc).n ≤ 65536) :
    (r.update e q i).2.status = Status.done := by
  have applied : r.applied e q i = r.applyDelete e.f i (UpdDesc.of q.desc) (r.updItems e q (r.slot e.f i)) :=
    (if_neg (by omega)).trans (if_pos delete)
  have processed := r.applyDelete_of_room e.f i (UpdDesc.of q.desc) (r.updItems e q (r.slot e.f i)) room
  rw [← applied] at processed
  obtain ⟨ending, -⟩ := Run.update_of_processed hb processed.ge
  rw [ending]
  rfl

theorem Run.update_replace_of_room (replace : (UpdDesc.of q.desc).op = 0x3A) (one : (UpdDesc.of q.desc).n ≤ 1)
    (room : (r.slot e.f i).full true true 0 0 false = none)
    (stands : ∃ n, (r.slot e.f i).present (UpdDesc.of q.desc).old = some n ∧ r.tombed e.f (r.slot e.f i) n = false) :
    (r.update e q i).2 = Ending.ok 1 ((r.update e q i).1.slot e.f i).epoch.toNat ∧
      ((r.update e q i).1.slot e.f i).sideTail = (r.slot e.f i).sideTail + 1 := by
  have applied : r.applied e q i = r.applyReplace e.f i (UpdDesc.of q.desc) (r.updItems e q (r.slot e.f i)) :=
    (if_neg (by omega)).trans (if_neg (by omega))
  obtain ⟨changed, processed⟩ := r.applyReplace_of_room e.f i (UpdDesc.of q.desc) (r.updItems e q (r.slot e.f i)) room stands
  rw [← applied] at changed processed
  obtain ⟨ending, tail⟩ := Run.update_of_processed hb (processed.symm ▸ one)
  have sided : (UpdDesc.of q.desc).sided 1 = 1 := if_neg (by omega)
  rw [changed] at ending tail
  rw [sided] at tail
  exact ⟨ending, tail⟩

end

end

/-! ### The commands of the three updates (R179, R191) -/

section
variable {c : Instr} {op : Byte} {f : FurrowIx} {h : Handle} {tag : Tag} {q : Request} {s : State}

theorem exec_updateDesc
    (hc : (c, op) ∈ ([(.insert f h tag, 0x38), (.delete f h tag, 0x39), (.replace f h tag, 0x3A)] : List (Instr × Byte))) :
    exec c s = ((Run.start s).updateDesc op f h tag).done := by
  simp only [List.mem_cons, Prod.mk.injEq, List.not_mem_nil, or_false] at hc
  obtain ⟨rfl, rfl⟩ | ⟨rfl, rfl⟩ | ⟨rfl, rfl⟩ := hc <;> rfl

section
variable (hq : (s.furrow f).atWork h tag op = some q)
include hq

theorem Run.updateDesc_applies {i : SlotIx} (hi : (s.furrow f).slotNamed h (UpdDesc.of q.desc).shard false = some i)
    (turn : (s.furrow f).updateTurn i q = true) :
    (Run.start s).updateDesc op f h tag =
      ((Run.start s).update (q.eng f) q i).1.engineEnds f h tag ((Run.start s).update (q.eng f) q i).2 := by
  simp only [Run.updateDesc, Run.fur_eq, Run.start_now, hq, hi, turn, if_true]

theorem Run.updateDesc_waits {i : SlotIx} (hi : (s.furrow f).slotNamed h (UpdDesc.of q.desc).shard false = some i)
    (turn : (s.furrow f).updateTurn i q = false) : (Run.start s).updateDesc op f h tag = Run.start s := by
  simp only [Run.updateDesc, Run.fur_eq, Run.start_now, hq, hi, turn, Bool.false_eq_true, if_false]

theorem Run.updateDesc_refuses (hi : (s.furrow f).slotNamed h (UpdDesc.of q.desc).shard false = none)
    (alone : ((s.furrow f).below q.h).2.isEmpty = true) :
    (Run.start s).updateDesc op f h tag = (Run.start s).engineEnds f h tag (Refuse.operand 24).atStart.ending := by
  have relay : (Run.start s).updateRelay (q.eng f) q = (Run.start s, some (Refuse.operand 24).atStart.ending) := if_pos alone
  simp only [Run.updateDesc, Run.fur_eq, Run.start_now, hq, hi, relay]

theorem Run.updateDesc_relays (hi : (s.furrow f).slotNamed h (UpdDesc.of q.desc).shard false = none)
    (spans : ((s.furrow f).below q.h).2.isEmpty = false) {bs : List Byte} (back : (s.furrow f).backFrom q = some bs) :
    (Run.start s).updateDesc op f h tag = ((Run.start s).giveBack (q.eng f) q bs).engineEnds f h tag (Ending.ok 0 0) := by
  have relay : (Run.start s).updateRelay (q.eng f) q = ((Run.start s).giveBack (q.eng f) q bs, some (Ending.ok 0 0)) := by
    refine (if_neg (ne_true_of_eq_false spans)).trans ?_
    rw [Run.fur_eq, Run.start_now, show (s.furrow (q.eng f).f).backFrom q = some bs from back]
    rfl
  simp only [Run.updateDesc, Run.fur_eq, Run.start_now, hq, hi, relay]

end

end

/-! ### SHARD_RESTORE (R190, R183) -/

/-- The delete log's counts between the bounds that a switch area gives. -/
def switchLog (sw : List Byte) : List Nat := countsFrom (BitVec.ofNat 32 (fieldAt sw 28 4)) (BitVec.ofNat 32 (fieldAt sw 32 4))

/-- A slot with its registers as a switch area gives them. -/
def SearchSlot.restoredFrom (x : SearchSlot) (sw : List Byte) : SearchSlot :=
  { x with
    epoch := BitVec.ofNat 64 (fieldAt sw 0 8), floor := BitVec.ofNat 64 (fieldAt sw 8 8), restored := true
    nodeCount := BitVec.ofNat 32 (fieldAt sw 16 4), sideHead := BitVec.ofNat 32 (fieldAt sw 20 4)
    sideTail := BitVec.ofNat 32 (fieldAt sw 24 4), dlogHead := BitVec.ofNat 32 (fieldAt sw 28 4)
    dlogTail := BitVec.ofNat 32 (fieldAt sw 32 4) }

section
variable {r : Run s₀} {e : Eng} {i : SlotIx}

/-- The switch area of a slot, as a restore reads it. -/
def Run.switchArea (r : Run s₀) (f : FurrowIx) (i : SlotIx) : List Byte := r.shard f (r.slot f i) (r.slot f i).switchAt 64

/-- The node that a delete-log entry of a slot names. -/
def Run.loggedNode (r : Run s₀) (f : FurrowIx) (i : SlotIx) (n : Nat) : Nat := r.shardNat f (r.slot f i) ((r.slot f i).dlogAt n + 8) 4

/-- A switch area with a right CRC is that of the slot's shard, and its delete log names nodes of the shard. -/
def Run.restorable (r : Run s₀) (f : FurrowIx) (i : SlotIx) : Prop :=
  fieldAt (r.switchArea f i) 60 4 = crc32c ((r.switchArea f i).take 60) ∧ fieldAt (r.switchArea f i) 36 2 = (r.slot f i).shardId.toNat ∧
    ∀ n, n ∈ switchLog (r.switchArea f i) → r.loggedNode f i n < (r.slot f i).nodeCap.toNat

/-- A structure that fails its own check ends the descriptor with DATA_ERROR, which is the model's reading (log 37), and leaves the slots
alone. -/
theorem Run.checkFault_fails (r : Run s₀) (e : Eng) (addr : Nat) :
    (r.checkFault e addr).2.status = Status.dataError ∧ r.now.keepsRequests e.f (r.checkFault e addr).1.now ∧
      ((r.checkFault e addr).1.now.furrow e.f).srch = (r.now.furrow e.f).srch := by
  unfold Run.checkFault
  dsimp only
  refine ⟨rfl, ⟨State.onlyFurrow_setFurrow _ _ _, ?_⟩, ?_⟩ <;> rw [Run.setFur_now, State.furrow_setFurrow_same]
  · exact Furrow.dataError_names _ e _ _
  · exact Furrow.dataError_srch _ e _ _

/-- A slot restored from its switch area, with the tombstones of the nodes that the delete log names set again. -/
def Run.restored (r : Run s₀) (f : FurrowIx) (i : SlotIx) : Run s₀ :=
  (r.modSlot f i fun x => x.restoredFrom (r.switchArea f i)).each ((switchLog (r.switchArea f i)).map (r.loggedNode f i)) fun r' n =>
    r'.putShard f (r.slot f i) (baseOf (r.slot f i).tombBase + n / 8)
      (leBytes 1 (r'.shardNat f (r.slot f i) (baseOf (r.slot f i).tombBase + n / 8) 1 ||| 1 <<< (n % 8)))

theorem Run.restored_sets (r : Run s₀) (f : FurrowIx) (i : SlotIx) : r.now.keepsRequests f (r.restored f i).now ∧
    ((r.restored f i).now.furrow f).srch[i] = (r.slot f i).restoredFrom (r.switchArea f i) := by
  obtain ⟨kept, slot, -⟩ := (r.now.workedOver_refl f).setSlot i ((r.slot f i).restoredFrom (r.switchArea f i))
  have marked : ((r.modSlot f i fun x => x.restoredFrom (r.switchArea f i)).now).workedOver f (r.restored f i).now :=
    Run.each_workedOver _ (fun r' _ => r'.putShard_workedOver f _ _ _) _ _
  rw [marked.srch]
  exact ⟨State.keepsRequests_trans kept marked.keepsRequests, slot⟩

section
variable (hb : (r.now.furrow e.f).counts.bad = [])
include hb

theorem Run.shardRestore_of_restorable (good : r.restorable e.f i) :
    r.shardRestore e i = (r.restored e.f i, Ending.ok 0 (fieldAt (r.switchArea e.f i) 0 8)) := by
  obtain ⟨crc, shard, nodes⟩ := good
  unfold Run.shardRestore
  dsimp only
  rw [Run.readingOf_of_none_bad hb]
  split
  next fails => exact absurd fails (not_or.2 ⟨not_not.2 crc, not_not.2 shard⟩)
  · rw [Run.readingOf_of_none_bad hb]
    split
    next n found => exact absurd (nodes n (List.mem_of_find?_eq_some found)) (Nat.not_lt.2 (of_decide_eq_true (List.find?_some found :)))
    · rfl

theorem Run.shardRestore_of_not_restorable (bad : ¬ r.restorable e.f i) : ∃ addr, r.shardRestore e i = r.checkFault e addr := by
  unfold Run.shardRestore
  dsimp only
  rw [Run.readingOf_of_none_bad hb]
  split
  · exact ⟨_, rfl⟩
  next checked =>
    rw [Run.readingOf_of_none_bad hb]
    split
    · exact ⟨_, rfl⟩
    next within =>
      obtain ⟨crc, shard⟩ := not_or.1 checked
      have nodes : ∀ n, n ∈ switchLog (r.switchArea e.f i) → r.loggedNode e.f i n < (r.slot e.f i).nodeCap.toNat := fun n hn =>
        Nat.not_le.1 fun beyond => List.find?_eq_none.1 within n hn (decide_eq_true beyond)
      exact absurd ⟨not_not.1 crc, not_not.1 shard, nodes⟩ bad

end

end

theorem execShardRestore_ends {f : FurrowIx} {h : Handle} {tag : Tag} {q : Request} {s : State} {r : Run s} {e : Ending}
    (hq : (s.furrow f).atWork h tag 0x3C = some q) (ends : (Run.start s).shardRestore (q.eng f) (restoreSlot q.desc) = (r, e)) :
    exec (.shardRestore f h tag) s = .next (r.engineEnds f h tag e).now := by
  refine (runDesc_atWork hq _).trans ?_
  rw [ends]

/-- Settles O29. An update makes one change of its own slot, the switch of its commit, and all else that it does is to write in its
furrow's memories and to give the items back; what it processed and changed gives its ending. A restore replaces its slot by one with the
registers of the switch area, or fails a check. -/
theorem updatesAndRestoreMoveTheEpoch : Obligations.UpdatesAndRestoreMoveTheEpoch := by
  constructor
  · intro c op f h tag q s hc hq a
    obtain ⟨hreq, -, hop, -⟩ := Furrow.atWork_is hq
    obtain ⟨rfl, rfl, -⟩ := Furrow.request?_is _ _ _ _ hreq
    rw [exec_updateDesc hc]
    refine ⟨?_, fun i hi turn => ?_, fun hi alone => ?_, fun hi spans bs back => ?_⟩
    · intro i hi turn hb x
      have opcode : ∀ b : Byte, op = b → a.op = b.toNat := fun _ hb => congrArg BitVec.toNat (hop.trans hb)
      have ending := Run.update_ending (r := Run.start s) (e := q.eng f) hb q i
      have updated := Run.update_updatesSlot (r := Run.start s) (e := q.eng f) hb q i
      have counts := Applied.ending_count_eq_zero ((Run.start s).applied (q.eng f) q i) a.n
        (((Run.start s).update (q.eng f) q i).1.slot f i).epoch
      obtain ⟨ended, only⟩ := updated.ends hreq ((Run.start s).update (q.eng f) q i).2
      rw [Run.updateDesc_applies hq hi turn]
      refine ⟨_, _, rfl, ended, only, ?_⟩
      rw [Run.engineEnds_srch]
      refine ⟨ending ▸ Applied.ending_status _ _ _, ending ▸ Applied.ending_result _ _ _,
        fun unchanged => updated.same (counts.1 (ending ▸ unchanged)), fun changed => updated.epoch (mt counts.2 (ending ▸ changed)),
        updated.others, fun insert room => ?_, fun delete room => ?_, fun replace room stands one => ?_⟩
      · obtain ⟨ending, tail⟩ := Run.update_insert_of_room (r := Run.start s) (e := q.eng f) hb (opcode _ insert) room
        rw [ending]
        exact ⟨rfl, rfl, tail⟩
      · exact Run.update_delete_of_room (r := Run.start s) (e := q.eng f) hb (opcode _ delete) room
      · obtain ⟨ending, tail⟩ := Run.update_replace_of_room (r := Run.start s) (e := q.eng f) hb (opcode _ replace) one room stands
        rw [ending]
        exact ⟨rfl, rfl, tail⟩
    · rw [Run.updateDesc_waits hq hi turn, Run.done_next, Run.start_now]
    · rw [Run.updateDesc_refuses hq hi alone, Run.done_next]
    · obtain ⟨kept, -⟩ := (Run.start s).giveBack_keeps (q.eng f) q bs
      rw [Run.updateDesc_relays hq hi spans back, Run.done_next]
      exact ⟨_, rfl, kept.ends hreq _⟩
  · intro f h tag q s hq hb i x sw log good
    obtain ⟨hreq, -⟩ := Furrow.atWork_is hq
    obtain ⟨rfl, rfl, -⟩ := Furrow.request?_is _ _ _ _ hreq
    refine ⟨fun restorable => ?_, fun fails => ?_⟩
    · obtain ⟨kept, slot⟩ := (Run.start s).restored_sets f i
      have restores := execShardRestore_ends hq (Run.shardRestore_of_restorable (e := q.eng f) hb restorable)
      obtain ⟨ended, only⟩ := kept.ends hreq (Ending.ok 0 (fieldAt sw 0 8))
      refine ⟨_, restores, ended, only, ?_⟩
      rw [Run.engineEnds_srch]
      exact slot
    · obtain ⟨addr, faults⟩ := Run.shardRestore_of_not_restorable (e := q.eng f) (r := Run.start s) hb fails
      obtain ⟨status, kept, slots⟩ := (Run.start s).checkFault_fails (q.eng f) addr
      obtain ⟨ended, only⟩ := kept.ends hreq ((Run.start s).checkFault (q.eng f) addr).2
      refine ⟨_, _, execShardRestore_ends hq faults, ended, only, status, ?_⟩
      rw [Run.engineEnds_srch]
      exact congrArg (fun xs : Vector SearchSlot 8 => xs[i]) slots

end Sys2Proof.Machine
end

section
namespace Sys2Proof.Machine

variable {s₀ : State}

/-! ### A CAND_FETCH whose candidate list runs past the cluster SRAM of its context (R222, R236)

A root carries its candidates' entries and its pair block one behind the other. An entry beyond the context's units gives no bytes, so that
the pair block is looked for behind the place where it stands. -/

/-- Without the tokenizer that its pair block names, a furrow refuses to read its candidates. -/
theorem Run.candRead_of_no_tokenizer {r : Run s₀} {e : Eng} {q : Request} (ht : (r.fur e.f).tok? e.h (r.candArgs e q).pair.tok = none)
    (who : List Nat) (rest : List (Nat × List Byte)) :
    r.candRead e q who rest = r.engineEnds e.f e.h e.tag (Refuse.operand 32).atStart.ending := by
  unfold Run.candRead Run.candidates
  dsimp only
  rw [ht]

/-- A root that has named the holders, with nothing below, reads its candidates. -/
theorem Run.candStep_reads {r : Run s₀} {f : FurrowIx} {h : Handle} {tag : Tag} {q : Request}
    (hq : (r.fur f).atWork h tag 0x58 = some q) (hroot : q.origin = none) (hstage : q.stage = 2) (hbelow : ((r.fur f).below q.h).2 = []) :
    ∃ who, r.candStep f h tag = r.candRead (q.eng f) q who [] := by
  unfold Run.candStep
  dsimp only
  simp only [hq, hroot, hstage, Furrow.piecesBelow_of_none_below hbelow]
  exact ⟨_, rfl⟩

/-- A CAND_FETCH of at most one candidate, whose list begins in the last 64 bytes of one unit, and whose other operands lie in HBM. -/
def shortListDesc : List Byte :=
  0x58 :: zeros 15 ++ leBytes 8 (2 ^ 62 + (mib - 64)) ++ leBytes 8 (2 ^ 63) ++ leBytes 8 (2 ^ 63) ++ leBytes 8 (2 ^ 63) ++ leBytes 2 1 ++
    zeros 14

/-- A request of handle 0 at that descriptor. -/
def shortListRequest : Request := { Request.fresh 0 7 0 0 shortListDesc 0 with phase := .running }

/-- A furrow whose handle 0 holds one unit of cluster SRAM and has loaded tokenizer 0. -/
def shortListFurrow : Furrow :=
  { Furrow.initial 0 with
    t1Owner := (Vector.replicate 128 none).set 0 (some 0), toks := [⟨0, 0, 2, 0, 64⟩], reqs := [shortListRequest] }

/-- The module with that furrow, and in the last 64 bytes of the unit the header of a list that counts one candidate. -/
def shortListState : State := (State.reset.setFurrow 0 shortListFurrow).setMem (.t1 0) [(mib - 64, 1)]

/-- The arguments that the root finds: the entry is missing, and the pair block names tokenizer 0. -/
def shortListArgs : CandArgs := (Run.start shortListState).candArgs (shortListRequest.eng 0) shortListRequest

theorem shortListArgs_fields : shortListArgs.n = 1 ∧ shortListArgs.entries = [] ∧ shortListArgs.pair.tok = 0 := by decide

/-- The request as the root has named the holders: it carries the arguments, and that nobody holds the candidate. -/
def shortListNamed : Request := { shortListRequest with stage := 2, carried := shortListArgs.bytes ++ leBytes 4 noHolder }

theorem shortList_named :
    ((Run.start shortListState).candStep 0 0 7).now.furrow 0 = { shortListFurrow with reqs := [shortListNamed] } := by
  rfl

/-- Read again from what is carried, the pair block begins where the holder stands. -/
theorem shortListNamed_pair : (CandArgs.of shortListNamed.carried).pair.tok = noHolder := by decide

/-- The descriptor passes the checks at its fetch. At its start it would be refused for its list alone, if the list counted its candidate
already then. -/
theorem shortListDesc_checked : fetchCandFetch shortListFurrow 0 shortListDesc = none ∧
    startCandFetch (Run.start shortListState) (shortListRequest.eng 0) shortListRequest = some (.operand 16) := by decide

/-- No tokenizer has the number that stands for nobody, and the descriptor is refused for its pair block. -/
theorem execCandFetch_shortList :
    ∃ t, exec (.candFetch 0 0 7) shortListState = .next t ∧ t.descriptorEnded 0 0 7 (Refuse.operand 32).atStart.ending := by
  refine ⟨_, rfl, ?_⟩
  have named := shortList_named
  generalize (Run.start shortListState).candStep 0 0 7 = r at named ⊢
  have work : (r.fur 0).atWork 0 7 0x58 = some shortListNamed := by
    rw [Run.fur_eq, named]
    decide
  have alone : ((r.fur 0).below shortListNamed.h).2 = [] := by
    rw [Run.fur_eq, named]
    decide
  have unknown : (r.fur 0).tok? 0 (r.candArgs (shortListNamed.eng 0) shortListNamed).pair.tok = none := by
    have args : r.candArgs (shortListNamed.eng 0) shortListNamed = .of shortListNamed.carried := if_pos (by decide)
    rw [args, shortListNamed_pair, Run.fur_eq, named]
    decide
  obtain ⟨who, reads⟩ := Run.candStep_reads work rfl rfl alone
  rw [reads, Run.candRead_of_no_tokenizer unknown]
  exact Run.engineEnds_descriptorEnded ⟨_, (Furrow.atWork_is work).1⟩ _

/-- A descriptor has one ending. -/
theorem State.descriptorEnded_unique {t : State} {f : FurrowIx} {h : Handle} {tag : Tag} {e e' : Ending} (he : t.descriptorEnded f h tag e)
    (he' : t.descriptorEnded f h tag e') : e = e' := by
  obtain ⟨q, hq, phase, -⟩ := he
  obtain ⟨q', hq', phase', -⟩ := he'
  obtain rfl := Option.some.inj (hq.symm.trans hq')
  exact Phase.engineDone.inj (phase.symm.trans phase')

/-- Refutes O31: its clause for CAND_FETCH does not ask that the candidate list lies in what the context may read, as the check of R236 does
at the descriptor's start. In `shortListState` the entry of the one candidate lies beyond the context's cluster SRAM, and the descriptor
ends REFUSED. -/
theorem not_selectionAndRerankRowsEnd : ¬ Obligations.SelectionAndRerankRowsEnd := by
  unfold Obligations.SelectionAndRerankRowsEnd
  intro holds
  obtain ⟨-, -, fetches, -⟩ := holds 0 0 7 shortListRequest shortListState rfl
  obtain ⟨-, ends⟩ := fetches (by decide) rfl
  obtain ⟨t, x, run, ended, -, good, -⟩ := ends rfl (by decide) rfl (by decide) (by decide)
  obtain ⟨t', run', refused⟩ := execCandFetch_shortList
  obtain rfl := Host.Outcome.next.inj (run.symm.trans run')
  rw [State.descriptorEnded_unique ended refused] at good
  exact absurd good (by decide)

end Sys2Proof.Machine
end

section
namespace Sys2Proof.Machine

variable {s₀ : State}

/-! ### The tokenizers of a furrow (R241, R258) -/

/-- The bindings of chapter 11 and what the last load of each handle came to. -/
def Furrow.tokenizers (c : Furrow) : List TokBind × Vector (W32 × Byte) 64 := (c.toks, c.tokStatus)

theorem Furrow.tokenizers_besidePyr : BesidePyr Furrow.tokenizers := fun _ _ => rfl

theorem Run.engineEnds_tokenizers (r : Run s₀) (f : FurrowIx) (h : Handle) (tag : Tag) (e : Ending) :
    ((r.engineEnds f h tag e).now.furrow f).tokenizers = (r.now.furrow f).tokenizers := by
  unfold Run.engineEnds
  rw [Run.modFur_now, State.furrow_setFurrow_same]
  show Furrow.tokenizers (if failed e then _ else _) = _
  split
  · split
    · exact Furrow.cancelMembers_keeps Furrow.tokenizers_besidePyr _ f _
    · rfl
  · rfl

/-- A descriptor whose work changes the control part of its furrow alone ends DONE, and the tokenizers stand as the work has left them. -/
theorem Run.engineEnds_rebound {s : State} {f : FurrowIx} {h : Handle} {tag : Tag} {q : Request} {r : Run s₀} {c : Furrow}
    (hr : r.now = s.setFurrow f c) (hc : c.request? h tag = some q) (n v : Nat) :
    (r.engineEnds f h tag (Ending.ok n v)).now.descriptorEnded f h tag (Ending.ok n v) ∧
      s.onlyFurrow f (r.engineEnds f h tag (Ending.ok n v)).now ∧ (r.engineEnds f h tag (Ending.ok n v)).now.mems = s.mems ∧
      ((r.engineEnds f h tag (Ending.ok n v)).now.furrow f).tokenizers = c.tokenizers := by
  obtain ⟨ended, -, only, mems⟩ := Run.engineEnds_setFurrow hr hc n v
  refine ⟨ended, only, mems, ?_⟩
  rw [Run.engineEnds_tokenizers, hr, State.furrow_setFurrow_same]

/-- A change that leaves a furrow as it is changes nothing. -/
theorem Run.modFur_of_fixed {r : Run s₀} {f : FurrowIx} {g : Furrow → Furrow} (hg : g (r.now.furrow f) = r.now.furrow f) :
    r.modFur f g = r := by
  have same : (r.modFur f g).now = r.now := by
    rw [Run.modFur_now, hg, State.setFurrow_self]
  generalize r.modFur f g = t at same
  obtain ⟨now, from_⟩ := t
  obtain rfl := same
  rfl

/-! #### TXT_LOAD -/

section
variable {r : Run s₀} {e : Eng} {d : List Byte}

theorem Run.loadFails_of_passed (hb : (r.now.furrow e.f).counts.bad = []) (hc : (r.loadCheck e d).1 = 0) :
    r.loadFails e d = (r, none) := by
  unfold Run.loadFails
  rw [Run.fur_eq, Furrow.firstBad_of_none_bad hb]
  generalize r.loadCheck e d = x at hc
  obtain ⟨code, at_⟩ := x
  obtain rfl : code = 0 := hc
  rfl

theorem Run.loadFails_of_failed (hb : (r.now.furrow e.f).counts.bad = []) (hc : (r.loadCheck e d).1 ≠ 0) :
    ∃ x : Ending, x.status = Status.refused ∧ r.loadFails e d = (r.noteLoad e d, some x) := by
  unfold Run.loadFails
  rw [Run.fur_eq, Furrow.firstBad_of_none_bad hb]
  generalize r.loadCheck e d = x at hc
  obtain ⟨code, at_⟩ := x
  cases code with
  | zero => exact absurd rfl hc
  | succ k => exact ⟨_, rfl, rfl⟩

/-- A furrow with an image bound to its tokenizer handle, outcome 0 of its checks in TXT_LOAD_STATUS, and the load measured. -/
def Furrow.withTokenizer (c : Furrow) (e : Eng) (d : List Byte) (total at_ : Nat) : Furrow :=
  { c with
    tokStatus := c.tokStatus.set e.h (BitVec.ofNat 32 at_, 0)
    toks := c.toks ++ [(⟨e.h, BitVec.ofNat 32 (df d 48 4), (tref d 16).tier, (tref d 16).off, total⟩ : TokBind)] }.measure
      LogKind.tokenizer e.h (df d 48 4) e.tag (decide ((tref d 16).tier = 1)) (tref d 16).off total

theorem Run.bindTok_now (hc : (r.loadCheck e d).1 = 0) :
    (r.bindTok e d).now = r.now.setFurrow e.f ((r.now.furrow e.f).withTokenizer e d
      (r.loadNat e.f e.h e.core (tref d 16).tier ((tref d 16).off + 52) 4) (r.loadCheck e d).2) := by
  unfold Run.bindTok Run.noteLoad
  dsimp only
  rw [Run.modFur_now, Run.modFur_now, State.furrow_setFurrow_same, State.setFurrow_setFurrow, hc]
  rfl

end

section
variable {s : State} {f : FurrowIx} {h : Handle} {tag : Tag} {q : Request}

/-- Off a span there is nobody to ask: the load checks its image and binds it at once. -/
theorem execTxtLoad_passes (hb : (s.furrow f).counts.bad = []) (hq : (s.furrow f).atWork h tag 0x50 = some q) (h0 : q.stage = 0)
    (ho : q.origin = none) (hbelow : ((s.furrow f).below q.h).2 = []) (hc : ((Run.start s).loadCheck (q.eng f) q.desc).1 = 0) :
    exec (.txtLoad f h tag) s =
      .next (((Run.start s).bindTok (q.eng f) q.desc).engineEnds f h tag (Ending.ok 0 (df q.desc 48 4))).now := by
  have passed := Run.loadFails_of_passed (e := q.eng f) (r := Run.start s) hb hc
  have nobody : ((Run.start s).modFur f fun c => c.sendDown f q q.collKey []) = Run.start s :=
    Run.modFur_of_fixed (Furrow.sendDown_of_none_below hbelow f q.collKey [])
  show execTxtLoad f h tag s = _
  simp only [execTxtLoad, hq, h0, ho, if_true, Furrow.piecesBelow_of_none_below hbelow, passed, Option.isSome_none, Bool.false_eq_true,
    and_false, if_false, nobody, Run.done_next]

theorem execTxtLoad_fails (hb : (s.furrow f).counts.bad = []) (hq : (s.furrow f).atWork h tag 0x50 = some q) (h0 : q.stage = 0)
    (hbelow : ((s.furrow f).below q.h).2 = []) (hc : ((Run.start s).loadCheck (q.eng f) q.desc).1 ≠ 0) :
    ∃ x : Ending, x.status = Status.refused ∧
      exec (.txtLoad f h tag) s = .next (((Run.start s).noteLoad (q.eng f) q.desc).engineEnds f h tag x).now := by
  obtain ⟨x, status, fails⟩ := Run.loadFails_of_failed (e := q.eng f) (r := Run.start s) hb hc
  refine ⟨x, status, ?_⟩
  show execTxtLoad f h tag s = _
  simp only [execTxtLoad, hq, h0, if_true, Furrow.piecesBelow_of_none_below hbelow, fails, Run.done_next]

/-- An image that passes its checks is bound to its handle. -/
theorem execTxtLoad_binds (hb : (s.furrow f).counts.bad = []) (hq : (s.furrow f).atWork h tag 0x50 = some q) (h0 : q.stage = 0)
    (ho : q.origin = none) (hbelow : ((s.furrow f).below q.h).2 = []) (hc : ((Run.start s).loadCheck (q.eng f) q.desc).1 = 0) :
    ∃ t, exec (.txtLoad f h tag) s = .next t ∧ t.descriptorEnded f h tag (Ending.ok 0 (df q.desc 48 4)) ∧ s.onlyFurrow f t ∧
      t.mems = s.mems ∧
      (t.furrow f).toks = (s.furrow f).toks ++ [⟨h, BitVec.ofNat 32 (df q.desc 48 4), (tref q.desc 16).tier, (tref q.desc 16).off,
        (Run.start s).loadNat f h (q.eng f).core (tref q.desc 16).tier ((tref q.desc 16).off + 52) 4⟩] ∧
      (t.furrow f).tokStatus[h] = (BitVec.ofNat 32 ((Run.start s).loadCheck (q.eng f) q.desc).2, 0) := by
  obtain ⟨hreq, -⟩ := Furrow.atWork_is hq
  obtain ⟨rfl, rfl, -⟩ := Furrow.request?_is _ _ _ _ hreq
  refine ⟨_, execTxtLoad_passes hb hq h0 ho hbelow hc, ?_⟩
  have bound := Run.bindTok_now (r := Run.start s) (e := q.eng f) hc
  obtain ⟨ended, only, mems, rebound⟩ := Run.engineEnds_rebound (h := q.h) (tag := q.tag) (q := q) bound hreq 0 (df q.desc 48 4)
  obtain ⟨toks, status⟩ := Prod.mk.inj rebound
  refine ⟨ended, only, mems, toks, (congrArg (fun xs : Vector (W32 × Byte) 64 => xs[q.h]) status).trans ?_⟩
  exact Vector.getElem_set_self _

/-- An image that fails a check is refused, and nothing is bound. -/
theorem execTxtLoad_refused (hb : (s.furrow f).counts.bad = []) (hq : (s.furrow f).atWork h tag 0x50 = some q) (h0 : q.stage = 0)
    (hbelow : ((s.furrow f).below q.h).2 = []) (hc : ((Run.start s).loadCheck (q.eng f) q.desc).1 ≠ 0) :
    ∃ t x, exec (.txtLoad f h tag) s = .next t ∧ t.descriptorEnded f h tag x ∧ x.status = Status.refused ∧
      (t.furrow f).toks = (s.furrow f).toks ∧ t.mems = s.mems := by
  obtain ⟨x, status, next⟩ := execTxtLoad_fails hb hq h0 hbelow hc
  obtain ⟨xs, noted⟩ : ∃ xs, ((Run.start s).noteLoad (q.eng f) q.desc).now.furrow f = { s.furrow f with tokStatus := xs } :=
    ⟨_, State.furrow_setFurrow_same s f _⟩
  refine ⟨_, x, next, Run.engineEnds_descriptorEnded ⟨q, ?_⟩ x, status, ?_, rfl⟩
  · rw [noted]
    exact (Furrow.atWork_is hq).1
  · have kept := Run.engineEnds_tokenizers ((Run.start s).noteLoad (q.eng f) q.desc) f h tag x
    rw [noted] at kept
    exact congrArg Prod.fst kept

/-! #### TXT_UNLOAD -/

theorem execTxtUnload_waits (hq : (s.furrow f).atWork h tag 0x51 = some q) (hbusy : (Run.start s).tokBusy f h (df q.desc 48 4) = true) :
    exec (.txtUnload f h tag) s = .next s := by
  show execTxtUnload f h tag s = _
  simp only [execTxtUnload, hq, hbusy, if_true, Run.done_next, Run.start_now]

/-- A furrow with a tokenizer handle free, and the unload measured. -/
def Furrow.withoutTokenizer (c : Furrow) (h : Handle) (n : Nat) : Furrow :=
  { c with toks := c.toks.filter fun b => !(b.h = h && b.n.toNat = n) }.unmeasure LogKind.tokenizer h n

theorem execTxtUnload_frees (hq : (s.furrow f).atWork h tag 0x51 = some q) (hfree : (Run.start s).tokBusy f h (df q.desc 48 4) = false) :
    ∃ t, exec (.txtUnload f h tag) s = .next t ∧ t.descriptorEnded f h tag (Ending.ok 0 (df q.desc 48 4)) ∧ s.onlyFurrow f t ∧
      t.mems = s.mems ∧ (t.furrow f).toks = (s.furrow f).toks.filter fun b => !(b.h = h && b.n.toNat = df q.desc 48 4) := by
  have freed : ((Run.start s).modFur f fun c => c.withoutTokenizer h (df q.desc 48 4)).now =
      s.setFurrow f ((s.furrow f).withoutTokenizer h (df q.desc 48 4)) := Run.modFur_now _ _ _
  refine ⟨(((Run.start s).modFur f fun c => c.withoutTokenizer h (df q.desc 48 4)).engineEnds f h tag (Ending.ok 0 (df q.desc 48 4))).now,
    ?_, ?_⟩
  · show execTxtUnload f h tag s = _
    simp only [execTxtUnload, hq, hfree, Bool.false_eq_true, if_false]
    rfl
  · obtain ⟨ended, only, mems, rebound⟩ := Run.engineEnds_rebound (tag := tag) (q := q) freed (Furrow.atWork_is hq).1 0 (df q.desc 48 4)
    exact ⟨ended, only, mems, congrArg Prod.fst rebound⟩

end

/-! ### Descriptors of the text engine that store alone -/

section
variable {s : State} {f : FurrowIx} {h : Handle} {tag : Tag} {q : Request} {op : Byte}

theorem Run.store_storedOver (hb : (s.furrow f).counts.bad = []) {r : Run s₀} (hr : s.storedOver f r.now) (h : Handle) (core tier off : Nat)
    (bs : List Byte) : s.storedOver f (r.store f h core tier off bs).now :=
  Run.storeCells_storedOver hb hr h core tier off _ _

/-- A descriptor whose work stores in the furrow's own memories alone ends DONE with its count and result, and no unit changes. -/
theorem runDesc_stores (hq : (s.furrow f).atWork h tag op = some q) {work : Request → Run s → Run s × Ending} {n v : Nat}
    (ending : (work q (Run.start s)).2 = Ending.ok n v) (stored : s.storedOver f (work q (Run.start s)).1.now) :
    ∃ t, runDesc op f h tag s work = .next t ∧ t.descriptorEnded f h tag (Ending.ok n v) ∧
      (s.onlyFurrow f t ∧ (s.furrow f).unitsKept (t.furrow f)) := by
  refine ⟨_, runDesc_atWork hq work, ?_⟩
  rw [ending]
  obtain ⟨ended, only⟩ := Run.engineEnds_storedOver hq stored n v
  exact ⟨ended, only, stored.unitsKept n v⟩

/-! #### TOKENIZE and DETOKENIZE (R245, R250, R259) -/

/-- Work of a text descriptor: without its tokenizer it is refused at once; with it, it stores in the furrow's own memories alone, and ends
DONE with a COUNT that fits its field. -/
def ReadsText (s : State) (f : FurrowIx) (h : Handle) (n : Nat) (x : Run s × Ending) : Prop :=
  ((s.furrow f).tok? h n = none → x = (Run.start s, (Refuse.operand 48).atStart.ending)) ∧
    (((s.furrow f).tok? h n).isSome = true →
      ∃ count result, count ≤ 65535 ∧ x.2 = Ending.ok count result ∧ s.storedOver f x.1.now)

section
variable {e : Eng} (hb : (s.furrow e.f).counts.bad = []) (d : List Byte)
include hb

theorem Run.tokenize_readsText : ReadsText s e.f e.h (df d 48 4) ((Run.start s).tokenize e d) := by
  have tok : (TextDesc.of d).tok = df d 48 4 := rfl
  refine ⟨fun missing => ?_, fun loaded => ?_⟩
  · simp only [Run.tokenize, Run.fur_eq, Run.start_now, tok, missing]
  · obtain ⟨b, found⟩ := Option.isSome_iff_exists.1 loaded
    simp only [Run.tokenize, Run.fur_eq, Run.start_now, tok, found, Run.reading_of_none_bad (r := Run.start s) hb]
    refine ⟨_, _, satCount_le _, rfl, ?_⟩
    have written := Run.store_storedOver hb (r := Run.start s) (s.storedOver_refl e.f) e.h e.core
    split
    · exact Run.store_storedOver hb (Run.store_storedOver hb (written _ _ _) _ _ _ _ _) _ _ _ _ _
    · exact written _ _ _

theorem Run.detokenize_readsText : ReadsText s e.f e.h (df d 48 4) ((Run.start s).detokenize e d) := by
  have tok : (TextDesc.of d).tok = df d 48 4 := rfl
  refine ⟨fun missing => ?_, fun loaded => ?_⟩
  · simp only [Run.detokenize, Run.fur_eq, Run.start_now, tok, missing]
  · obtain ⟨b, found⟩ := Option.isSome_iff_exists.1 loaded
    simp only [Run.detokenize, Run.fur_eq, Run.start_now, tok, found, Run.reading_of_none_bad (r := Run.start s) hb]
    refine ⟨_, _, satCount_le _, rfl, ?_⟩
    have written := Run.store_storedOver hb (r := Run.start s) (s.storedOver_refl e.f) e.h e.core
    split
    · exact Run.store_storedOver hb (written _ _ _) _ _ _ _ _
    · exact written _ _ _

end

theorem runDesc_text (hq : (s.furrow f).atWork h tag op = some q) {n : Nat} {work : Request → Run s → Run s × Ending}
    (hw : ReadsText s f q.h n (work q (Run.start s))) :
    ((s.furrow f).tok? h n = none →
      runDesc op f h tag s work = .next ((Run.start s).engineEnds f h tag (Refuse.operand 48).atStart.ending).now) ∧
    (((s.furrow f).tok? h n).isSome = true → ∃ t count result, runDesc op f h tag s work = .next t ∧ count ≤ 65535 ∧
      t.descriptorEnded f h tag (Ending.ok count result) ∧ (s.onlyFurrow f t ∧ (s.furrow f).unitsKept (t.furrow f))) := by
  obtain ⟨rfl, -⟩ := Furrow.request?_is _ _ _ _ (Furrow.atWork_is hq).1
  obtain ⟨refused, stores⟩ := hw
  refine ⟨fun missing => ?_, fun loaded => ?_⟩
  · rw [runDesc_atWork hq, refused missing]
  · obtain ⟨count, result, fits, ending, stored⟩ := stores loaded
    obtain ⟨t, next, ended, kept⟩ := runDesc_stores hq ending stored
    exact ⟨t, count, result, next, fits, ended, kept⟩

/-! #### GRAM_INIT and GRAM_MASK (R257, R258) -/

section
variable {e : Eng} (hb : (s.furrow e.f).counts.bad = []) (d : List Byte)
include hb

theorem Run.gramInit_enters {g : GramDef} (hg : (Run.start s).gramDef e (tref d 16) = g) (enters : g.enter g.start [] = none) :
    ((Run.start s).gramInit e d).2 = Ending.ok 0 (instResult ⟨g.start, []⟩ (g.isFinal g.start)) ∧
      s.storedOver e.f ((Run.start s).gramInit e d).1.now := by
  unfold Run.gramInit
  dsimp only
  rw [Run.reading_of_none_bad hb, hg]
  simp only [enters]
  exact ⟨trivial, Run.store_storedOver hb (s.storedOver_refl e.f) _ _ _ _ _⟩

theorem Run.gramInit_fails {g : GramDef} (hg : (Run.start s).gramDef e (tref d 16) = g) {x : StepFail}
    (fails : g.enter g.start [] = some x) : (Run.start s).gramInit e d = (Run.start s, x.ending g.start 0 0) := by
  unfold Run.gramInit
  dsimp only
  rw [Run.reading_of_none_bad hb, hg]
  simp only [fails]

theorem Run.gramMask_stores :
    ∃ n, ((Run.start s).gramMask e d).2 = Ending.ok n (df d 32 8) ∧ s.storedOver e.f ((Run.start s).gramMask e d).1.now := by
  unfold Run.gramMask
  dsimp only
  rw [Run.reading_of_none_bad hb]
  exact ⟨_, rfl, Run.store_storedOver hb (s.storedOver_refl e.f) _ _ _ _ _⟩

end

/-! #### GRAM_ADVANCE (R255, R256) -/

/-- Steps that all succeed give one position for each token. -/
theorem GramDef.steps_length {g : GramDef} {ts : List Nat} {p : GramPos} (done : (g.steps p ts).2 = none) :
    (g.steps p ts).1.length = ts.length := by
  induction ts generalizing p with
  | nil => rfl
  | cons t ts ih =>
    unfold GramDef.steps at done ⊢
    cases stepped : g.step p t with
    | error x =>
      rw [stepped] at done
      exact absurd done (Option.some_ne_none x)
    | ok p' =>
      rw [stepped] at done
      exact congrArg (· + 1) (ih done)

/-- An advance stores in the furrow's own memories alone, commits each position that its steps reach, and fails as they do. -/
theorem Run.advance_steps {e : Eng} (hb : (s.furrow e.f).counts.bad = []) (t : TRef) (ts : List Nat) {g : GramDef} {p : GramPos}
    (hg : (Run.start s).gramDef e ((Run.start s).instGram e t) = g)
    (hp : instPos ((Run.start s).load e.f e.h e.core t.tier t.off instBytes) = p) :
    ∃ r p', (Run.start s).advance e t ts = (r, p', (g.steps p ts).1.length, (g.steps p ts).2) ∧ s.storedOver e.f r.now := by
  unfold Run.advance
  dsimp only
  rw [hg, hp]
  generalize g.steps p ts = x
  obtain ⟨ps, fail⟩ := x
  dsimp only
  cases last : ps.getLast? with
  | none =>
    obtain rfl := List.getLast?_eq_none_iff.1 last
    exact ⟨_, _, rfl, s.storedOver_refl e.f⟩
  | some p' => exact ⟨_, _, rfl, Run.store_storedOver hb (Run.store_storedOver hb (s.storedOver_refl e.f) _ _ _ _ _) _ _ _ _ _⟩

theorem StepFail.ending_status (x : StepFail) (state count position : Nat) :
    (x.ending state count position).status = Status.grammarDeadEnd ∨ (x.ending state count position).status = Status.grammarOverflow := by
  unfold StepFail.ending
  dsimp only
  split
  · exact .inr rfl
  · exact .inl rfl

theorem Run.gramAdvance_steps {e : Eng} (hb : (s.furrow e.f).counts.bad = []) (d : List Byte) {g : GramDef} {p : GramPos} {ts : List Nat}
    (hg : (Run.start s).gramDef e ((Run.start s).instGram e (tref d 16)) = g)
    (hp : instPos ((Run.start s).load e.f e.h e.core (tref d 16).tier (tref d 16).off instBytes) = p)
    (hts : (Run.start s).tokensAt e (tref d 24) (df d 32 1) = ts) :
    s.storedOver e.f ((Run.start s).gramAdvance e d).1.now ∧
      ((g.steps p ts).2 = none → ∃ m, ((Run.start s).gramAdvance e d).2 = Ending.ok (df d 32 1) m) ∧
      ((g.steps p ts).2 ≠ none → ((Run.start s).gramAdvance e d).2.status = Status.grammarDeadEnd ∨
        ((Run.start s).gramAdvance e d).2.status = Status.grammarOverflow) := by
  obtain ⟨r, p', advanced, stored⟩ := Run.advance_steps hb (tref d 16) ts hg hp
  have tokens : ts.length = df d 32 1 := by
    rw [← hts, Run.tokensAt, List.length_map, List.length_range]
  unfold Run.gramAdvance
  dsimp only
  rw [Run.reading_of_none_bad hb, hts, advanced]
  dsimp only
  cases outcome : (g.steps p ts).2 with
  | none =>
    rw [GramDef.steps_length outcome, tokens]
    exact ⟨stored, fun _ => ⟨_, rfl⟩, fun fails => absurd rfl fails⟩
  | some x => exact ⟨stored, fun done => absurd done (Option.some_ne_none x), fun _ => x.ending_status _ _ _⟩

end

/-- Settles O32: loads and unloads change the tokenizers of their furrow alone, and the other rows of the text engine store in the
furrow's own memories alone. -/
theorem textRowsEnd : Obligations.TextRowsEnd := by
  intro f h tag q s hb
  refine ⟨fun hq h0 ho hbelow => ⟨execTxtLoad_binds hb hq h0 ho hbelow, execTxtLoad_refused hb hq h0 hbelow⟩,
    fun hq => ⟨execTxtUnload_waits hq, execTxtUnload_frees hq⟩, fun i op hi hq => ?_, fun hq => ⟨fun enters => ?_, fun x fails => ?_⟩,
    fun hq => ?_, fun hq => ?_⟩
  · simp only [List.mem_cons, Prod.mk.injEq, List.not_mem_nil, or_false] at hi
    obtain ⟨rfl, rfl⟩ | ⟨rfl, rfl⟩ := hi
    · exact runDesc_text hq (Run.tokenize_readsText (e := q.eng f) hb q.desc)
    · exact runDesc_text hq (Run.detokenize_readsText (e := q.eng f) hb q.desc)
  · obtain ⟨ending, stored⟩ := Run.gramInit_enters (e := q.eng f) hb q.desc rfl enters
    exact runDesc_stores hq ending stored
  · refine (runDesc_atWork hq _).trans ?_
    rw [Run.gramInit_fails (e := q.eng f) hb q.desc rfl fails]
  · obtain ⟨n, ending, stored⟩ := Run.gramMask_stores (e := q.eng f) hb q.desc
    obtain ⟨t, next, ended, kept⟩ := runDesc_stores hq (work := fun q r => r.gramMask (q.eng f) q.desc) ending stored
    exact ⟨t, n, next, ended, kept⟩
  · obtain ⟨hreq, -⟩ := Furrow.atWork_is hq
    obtain ⟨rfl, -, -⟩ := Furrow.request?_is _ _ _ _ hreq
    obtain ⟨stored, advances, fails⟩ := Run.gramAdvance_steps (e := q.eng f) hb q.desc rfl rfl rfl
    refine ⟨fun done => ?_, fun stops => ⟨_, _, runDesc_atWork hq _, ?_, ?_, fails stops⟩⟩
    · obtain ⟨m, ending⟩ := advances done
      obtain ⟨t, next, ended, kept⟩ := runDesc_stores hq (work := fun q r => r.gramAdvance (q.eng f) q.desc) ending stored
      exact ⟨t, m, next, ended, kept⟩
    · exact Run.engineEnds_descriptorEnded ⟨q, (stored.request? q.h tag).trans hreq⟩ _
    · exact State.onlyFurrow_trans stored.1 (Run.engineEnds_onlyFurrow _ f q.h tag _)

end Sys2Proof.Machine
end

section
namespace Sys2Proof.Machine

variable {s₀ : State}

/-! ### Sparse cells that an engine stores, and bytes that reach HBM (R315) -/

section
variable {γ : Type} {view : Furrow → γ} (hv : BesideStore view)
include hv

theorem Run.put_keeps (r : Run s₀) (f : FurrowIx) (h : Handle) (core tier off n : Nat) (img : List Host.Cell) :
    view ((r.put f h core tier off n img).now.furrow f) = view (r.now.furrow f) := by
  refine foldl_keeps (fun p : Run s₀ × Nat => view (p.1.now.furrow f)) _ (fun p x => ?_) _ _
  rw [Run.modFur_now, State.furrow_setFurrow_same, Furrow.mend_keeps hv, Run.paste_now, State.setMem_furrow]

theorem Run.storeCells_keeps (r : Run s₀) (f : FurrowIx) (h : Handle) (core tier off n : Nat) (img : List Host.Cell) :
    view ((r.storeCells f h core tier off n img).now.furrow f) = view (r.now.furrow f) := by
  refine (Run.put_keeps hv _ f h core tier off n img).trans ?_
  split
  · exact Run.dirty_keeps hv r f h tier off n
  · rfl

end

theorem Run.put_workedOver (r : Run s₀) (f : FurrowIx) (h : Handle) (core tier off n : Nat) (img : List Host.Cell) :
    r.now.workedOver f (r.put f h core tier off n img).now :=
  ⟨r.put_onlyFurrow f h core tier off n img, Run.put_keeps Furrow.besideWork_besideStore r f h core tier off n img⟩

theorem Run.storeCells_workedOver (r : Run s₀) (f : FurrowIx) (h : Handle) (core tier off n : Nat) (img : List Host.Cell) :
    r.now.workedOver f (r.storeCells f h core tier off n img).now := by
  refine ⟨State.onlyFurrow_trans ?_ (Run.put_onlyFurrow _ f h core tier off n img),
    Run.storeCells_keeps Furrow.besideWork_besideStore r f h core tier off n img⟩
  split
  · exact (Run.dirty_storedOver (r.now.storedOver_refl f) h tier off n).1
  · exact r.now.onlyFurrow_refl f

/-- Bytes that reach this furrow's HBM are work in its memories. -/
theorem Run.arrive_workedOver (r : Run s₀) (f : FurrowIx) (h : Handle) (tag : Tag) {dst : Spot} (hd : dst.tier = 2) (n : Nat)
    (cells : List Host.Cell) : r.now.workedOver f (r.arrive f h tag dst n cells).now := by
  unfold Run.arrive
  split
  · omega
  · omega
  · omega
  · omega
  · split
    · exact r.put_workedOver f h _ _ _ n cells
    · exact r.storeCells_workedOver f h _ _ _ n cells

/-! ### The exchange of a request off a span (R280, R282, R283) -/

/-- A request with its progress moved on. -/
def Request.atStage (q : Request) (n : Nat) : Request := { q with stage := n }

theorem Request.atStage_keepsName (n : Nat) : KeepsName fun q => q.atStage n := fun _ => ⟨rfl, rfl, rfl⟩

/-- Where nothing is below, an exchange that has not begun is over at once, and the request keeps that it is behind it. -/
theorem Run.roundTrip_over {r : Run s₀} {f : FurrowIx} {p : Request} {k : Nat} (ho : p.origin = none) (hk : p.stage ≠ 2 * k + 1)
    (hbelow : ((r.now.furrow f).below p.h).2 = []) (own : List Byte) (make : List (List Byte) → List Byte) :
    ∃ r' bs, r.roundTrip f p k own make = (r', some bs) ∧
      r'.now = r.now.setFurrow f ((r.now.furrow f).modReq p.h p.tag fun q => q.atStage (2 * k + 2)) := by
  have nobody : (r.fur f).piecesUnder p k = some [] := by
    unfold Furrow.piecesUnder
    dsimp only
    rw [Run.fur_eq, hbelow]
    rfl
  have root : ¬p.origin.isSome = true := by
    rw [ho]
    decide
  unfold Run.roundTrip
  simp only [if_neg hk, nobody, if_neg root]
  refine ⟨_, _, rfl, ?_⟩
  rw [Run.modFur_now, Run.modFur_now, Furrow.sendDown_of_none_below hbelow, State.setFurrow_self]
  rfl

/-! ### Work on the images of paused conversations -/

/-- What a pause, a resume or a discard in this furrow's HBM cannot change of its control part: what work in its memories cannot, but for
the requests, the counts of the pause tables and the notes of where images lie. -/
def Furrow.besideImages (c : Furrow) : Furrow :=
  { c.besideWork with reqs := [], ptPaused := Vector.replicate 64 0, halfImages := [], peers := [] }

/-- From one state to another a furrow has worked on images for a request, which has come to a stage and is otherwise as it was. -/
structure State.imagesOver (s : State) (f : FurrowIx) (q : Request) (n : Nat) (t : State) : Prop where
  only    : s.onlyFurrow f t
  beside  : (t.furrow f).besideImages = (s.furrow f).besideImages
  request : (t.furrow f).request? q.h q.tag = some (q.atStage n)

namespace State.imagesOver

variable {s t u : State} {f : FurrowIx} {q : Request} {n : Nat}

theorem start (hq : (s.furrow f).request? q.h q.tag = some q) : s.imagesOver f q q.stage s := ⟨s.onlyFurrow_refl f, rfl, hq⟩

theorem work (st : s.imagesOver f q n t) (tu : t.workedOver f u) : s.imagesOver f q n u := by
  obtain ⟨only, beside, request⟩ := st
  refine ⟨State.onlyFurrow_trans only tu.1, Eq.trans ?_ beside, (tu.request? q.h q.tag).trans request⟩
  show (u.furrow f).besideWork.besideImages = (t.furrow f).besideWork.besideImages
  rw [tu.2]

/-- A change of the pause tables' counts or of the notes of where images lie. -/
theorem note {r : Run s₀} (st : s.imagesOver f q n r.now) {g : Furrow → Furrow}
    (hg : ∀ c, (g c).besideImages = c.besideImages ∧ (g c).reqs = c.reqs) : s.imagesOver f q n (r.modFur f g).now := by
  obtain ⟨only, beside, request⟩ := st
  obtain ⟨hbeside, hreqs⟩ := hg (r.now.furrow f)
  refine ⟨State.onlyFurrow_trans only (State.onlyFurrow_setFurrow _ f _), ?_, ?_⟩
  · rw [Run.modFur_now, State.furrow_setFurrow_same, hbeside, beside]
  · rw [Run.modFur_now, State.furrow_setFurrow_same, Furrow.request?_congr hreqs, request]

theorem either {p : Prop} [Decidable p] {a b : Run s₀} (sa : s.imagesOver f q n a.now) (sb : s.imagesOver f q n b.now) :
    s.imagesOver f q n (if p then a else b).now := by
  split
  · exact sa
  · exact sb

/-- The request's progress moves on. -/
theorem stage (st : s.imagesOver f q n t) (m : Nat) :
    s.imagesOver f q m (t.setFurrow f ((t.furrow f).modReq q.h q.tag fun p => p.atStage m)) := by
  obtain ⟨only, beside, request⟩ := st
  refine ⟨State.onlyFurrow_trans only (State.onlyFurrow_setFurrow t f _), ?_, ?_⟩
  · rw [State.furrow_setFurrow_same, ← beside]
    rfl
  · rw [State.furrow_setFurrow_same]
    exact Furrow.request?_modReq_of_keepsName (q := q.atStage n) (Request.atStage_keepsName m) request

theorem below (st : s.imagesOver f q n t) (h : Handle) : (t.furrow f).below h = (s.furrow f).below h := by
  show (t.furrow f).besideImages.below h = (s.furrow f).besideImages.below h
  rw [st.beside]

theorem imageSpot (st : s.imagesOver f q n t) (p : Request) : (t.furrow f).imageSpot f p = (s.furrow f).imageSpot f p := by
  show (t.furrow f).besideImages.imageSpot f p = (s.furrow f).besideImages.imageSpot f p
  rw [st.beside]

theorem transfers (st : s.imagesOver f q n t) (hq : (s.furrow f).request? q.h q.tag = some q) :
    (t.furrow f).transfers q.h q.tag = (s.furrow f).transfers q.h q.tag := by
  obtain ⟨-, beside, request⟩ := st
  have blocks := congrArg (fun c : Furrow => (c.grn, c.pyr)) beside
  obtain ⟨grn, pyr⟩ : (t.furrow f).grn = (s.furrow f).grn ∧ (t.furrow f).pyr = (s.furrow f).pyr := Prod.mk.inj blocks
  unfold Furrow.transfers
  rw [request, hq, grn, pyr]
  rfl

/-- An exchange goes by without a wait where nothing is below. -/
theorem exchange {r : Run s₀} (st : s.imagesOver f q n r.now) (hbelow : ((s.furrow f).below q.h).2 = []) {k m : Nat}
    (ho : q.origin = none) (hk : m ≠ 2 * k + 1) (own : List Byte) (make : List (List Byte) → List Byte) :
    ∃ r' bs, r.roundTrip f (q.atStage m) k own make = (r', some bs) ∧ s.imagesOver f q (2 * k + 2) r'.now := by
  have none_below : ((r.now.furrow f).below (q.atStage m).h).2 = [] := by
    rw [st.below]
    exact hbelow
  obtain ⟨r', bs, passed, now⟩ := Run.roundTrip_over (p := q.atStage m) ho hk none_below own make
  refine ⟨r', bs, passed, ?_⟩
  rw [now]
  exact st.stage _

theorem store {r : Run s₀} (st : s.imagesOver f q n r.now) (h : Handle) (core tier off : Nat) (bs : List Byte) :
    s.imagesOver f q n (r.store f h core tier off bs).now :=
  st.work (r.store_workedOver f h core tier off bs)

theorem setPause {r : Run s₀} (st : s.imagesOver f q n r.now) (h : Handle) (i : Nat) (x : PauseEntry) :
    s.imagesOver f q n (r.setPause f h i x).now := by
  unfold Run.setPause
  split
  · exact st
  · exact (st.store h 0 2 _ _).note (by intro c; exact ⟨rfl, rfl⟩)

theorem freePause {r : Run s₀} (st : s.imagesOver f q n r.now) (h : Handle) (off kind shift : Nat) :
    s.imagesOver f q n (r.freePause f h off kind shift).now := by
  unfold Run.freePause
  split
  · exact st
  · exact st.setPause h _ _

theorem switchCache {r : Run s₀} (st : s.imagesOver f q n r.now) (h : Handle) (off : Nat) (x : CacheHead) :
    s.imagesOver f q n (r.switchCache f h off x).now :=
  st.store h 0 2 off _

/-- The discard of an image in this furrow's HBM clears its header. -/
theorem dropImage {r : Run s₀} (st : s.imagesOver f q n r.now) (h : Handle) (tag : Tag) {p : Spot} (hp : p.tier = 2) :
    s.imagesOver f q n (r.dropImage f h tag p).now := by
  unfold Run.dropImage
  rw [if_neg (show p.tier ≠ 4 by omega)]
  exact st.work (r.arrive_workedOver f h tag hp 64 [])

end State.imagesOver

section
variable {s : State} {f : FurrowIx} {h : Handle} {tag : Tag} {q : Request}

/-- A request whose transfers are over comes to its end as soon as it has done its work. -/
theorem State.imagesOver.awaitEnd {r : Run s₀} {n : Nat} {op : Byte} (st : s.imagesOver f q n r.now)
    (hq : (s.furrow f).atWork q.h q.tag op = some q) (ht : (s.furrow f).transfers q.h q.tag = false) (e : Ending) :
    (r.awaitEnd f q.h q.tag e).now.descriptorEnded f q.h q.tag e ∧ s.onlyFurrow f (r.awaitEnd f q.h q.tag e).now := by
  obtain ⟨hreq, running, -⟩ := Furrow.atWork_is hq
  exact ⟨Run.awaitEnd_ended (q := q.atStage n) e st.request running ((st.transfers hreq).trans ht),
    State.onlyFurrow_trans st.only (r.awaitEnd_onlyFurrow f q.h q.tag e)⟩

/-! ### GEN_PAUSE (R282) -/

/-- A request that waits for nothing and has no transfer under way goes on as it is. -/
theorem Furrow.advance_idle {c : Furrow} (hq : c.request? h tag = some q) (ha : q.await = none) (ht : c.transfers h tag = false) :
    c.advance h tag = c := by
  unfold Furrow.advance
  rw [Furrow.grantAll_of_not_transfers ht]
  unfold Furrow.settleAwait
  simp only [hq, ha]
  cases q.phase <;> rfl

/-- A pause whose image is written goes on to stage 1, with nothing to wait for. -/
theorem State.imagesOver.written {r : Run s₀} {n : Nat} (st : s.imagesOver f q n r.now) (hreq : (s.furrow f).request? q.h q.tag = some q)
    (ha : q.await = none) (ht : (s.furrow f).transfers q.h q.tag = false) :
    s.imagesOver f q 1 (r.modFur f fun c => (c.modReq q.h q.tag fun p => p.atStage 1).advance q.h q.tag).now := by
  have staged := st.stage 1
  have request := staged.request
  have idle := (staged.transfers hreq).trans ht
  rw [State.furrow_setFurrow_same] at request idle
  rw [Run.modFur_now, Furrow.advance_idle request ha idle]
  exact staged

/-- The image is written in this furrow's HBM, entries first and then the header. -/
theorem Run.writeImage_imagesOver (hreq : (s.furrow f).request? q.h q.tag = some q) (ha : q.await = none)
    (htier : ((s.furrow f).imageSpot f q).tier = 2) (ht : (s.furrow f).transfers q.h q.tag = false) (x : CacheHead) :
    s.imagesOver f q 1 ((Run.start s).writeImage f q x).now := by
  have begun : s.imagesOver f q q.stage (Run.start s).now := State.imagesOver.start hreq
  have entries : (((s.furrow f).imageSpot f q).at 4096).tier = 2 := htier
  unfold Run.writeImage
  refine State.imagesOver.written (n := q.stage) (State.imagesOver.work (State.imagesOver.either ?noted (State.imagesOver.work ?noted
    (Run.arrive_workedOver _ f q.h q.tag entries _ _))) (Run.arrive_workedOver _ f q.h q.tag htier _ _)) hreq ha ht
  exact begun.note (by intro c; exact ⟨rfl, rfl⟩)

/-- The image is valid and where it lies is noted; then the live header is switched. -/
def Run.cacheEmptied (r : Run s₀) (f : FurrowIx) (q : Request) (x : CacheHead) : Run s₀ :=
  let p := (r.fur f).imageSpot f q
  (r.modFur f fun c => { c with
    halfImages := c.halfImages.filter fun x => x ≠ (q.h, p)
    peers := if p.tier = 4 then c.peers else
      (c.peers.filter fun y => !(y.1 = q.h && y.2.1 = imageOff q.desc && y.2.2.1 = imageShift q.desc)) ++
        [(q.h, imageOff q.desc, imageShift q.desc, p)] }).switchCache f q.h (tref q.desc 16).off { x with state := 0 }

theorem Run.cacheEmptied_halfImages (r : Run s₀) (x : CacheHead) :
    (q.h, (r.now.furrow f).imageSpot f q) ∉ ((r.cacheEmptied f q x).now.furrow f).halfImages := by
  have kept : ((r.cacheEmptied f q x).now.furrow f).halfImages =
      (r.now.furrow f).halfImages.filter fun x => x ≠ (q.h, (r.now.furrow f).imageSpot f q) := by
    refine (Run.store_keeps (view := Furrow.halfImages) (fun _ _ _ => rfl) _ f _ _ _ _ _).trans ?_
    rw [Run.modFur_now, State.furrow_setFurrow_same]
    rfl
  rw [kept, List.mem_filter]
  simp

/-- The cache is emptied once the pause has its entry of the table. -/
theorem Run.emptyCache_emptied {r : Run s₀} {n : Nat} (st : s.imagesOver f q n r.now) (m : Nat) :
    ∃ (r' : Run s₀) (x : CacheHead), s.imagesOver f q n r'.now ∧ r.emptyCache f (q.atStage m) = r'.cacheEmptied f (q.atStage m) x := by
  unfold Run.emptyCache
  cases r.pauseSlot f (q.atStage m).h with
  | none => exact ⟨r, _, st, rfl⟩
  | some i => exact ⟨_, _, st.setPause q.h i _, rfl⟩

/-- The cache is empty, and the image is valid. -/
theorem Run.emptyCache_imagesOver {r : Run s₀} {n : Nat} (st : s.imagesOver f q n r.now) (m : Nat) :
    s.imagesOver f q n (r.emptyCache f (q.atStage m)).now ∧
      (q.h, (s.furrow f).imageSpot f q) ∉ ((r.emptyCache f (q.atStage m)).now.furrow f).halfImages := by
  obtain ⟨r', x, entered, emptied⟩ := Run.emptyCache_emptied st m
  rw [emptied]
  refine ⟨State.imagesOver.switchCache (entered.note (by intro c; exact ⟨rfl, rfl⟩)) _ _ _, ?_⟩
  have valid := Run.cacheEmptied_halfImages (f := f) (q := q.atStage m) r' x
  rw [entered.imageSpot] at valid
  exact valid

/-- A pause behind its copies: the exchange over every member's image, and the end. -/
def Run.pauseExchange (r : Run s₀) (f : FurrowIx) (q : Request) : Run s₀ :=
  match r.roundTrip f q 1 [] (fun _ => []) with
  | (r, none) => r
  | (r, some _) => (r.emptyCache f q).engineEnds f q.h q.tag (Ending.ok 0 (if q.origin.isSome then 0 else imageOff q.desc))

/-- A pause that finds no uncorrectable data writes its image, and goes on to the exchange unless transfers are under way. -/
theorem Run.genPause_writes {r r' : Run s₀} {p : Request} (hb : (r.now.furrow f).counts.bad = []) (h0 : q.stage = 0)
    (hw : r.writeImage f q (r.cacheAt f q.h (tref q.desc 16).off) = r') (hp : (r'.now.furrow f).request? q.h q.tag = some p) :
    r.genPause f q =
      if p.stage = 1 ∧ (r'.now.furrow f).transfers p.h p.tag then r' else r'.pauseExchange f (p.atStage (max p.stage 2)) := by
  have first : ¬q.stage ≠ 0 := not_not.2 h0
  unfold Run.genPause
  simp only [if_neg first, Run.fur_eq, Furrow.firstBad_of_none_bad hb, hw, hp]
  rfl

/-- Off a span a pause in this furrow's HBM runs from its first copy to its end in one go. -/
theorem Run.genPause_empties (hb : (s.furrow f).counts.bad = []) (hq : (s.furrow f).atWork q.h q.tag 0x64 = some q) (ho : q.origin = none)
    (h0 : q.stage = 0) (hbelow : ((s.furrow f).below q.h).2 = []) (htier : ((s.furrow f).imageSpot f q).tier = 2)
    (ht : (s.furrow f).transfers q.h q.tag = false) :
    ∃ r : Run s, s.imagesOver f q 4 r.now ∧
      (Run.start s).genPause f q = (r.emptyCache f (q.atStage 2)).engineEnds f q.h q.tag (Ending.ok 0 (imageOff q.desc)) := by
  obtain ⟨hreq, -, -, ha⟩ := Furrow.atWork_is hq
  have written := Run.writeImage_imagesOver hreq ha htier ht ((Run.start s).cacheAt f q.h (tref q.desc 16).off)
  obtain ⟨r, bs, passed, st⟩ := written.exchange hbelow (k := 1) (m := 2) ho (by decide) [] fun _ => []
  have idle := (written.transfers hreq).trans ht
  have writes := Run.genPause_writes (r := Run.start s) hb h0 rfl written.request
  rw [if_neg (fun waits => Bool.false_ne_true (idle.symm.trans waits.2))] at writes
  refine ⟨r, st, writes.trans ?_⟩
  show Run.pauseExchange _ f (q.atStage 2) = _
  have root : (q.atStage 2).origin = none := ho
  unfold Run.pauseExchange
  rw [passed, root]
  rfl

theorem execGenPause_atWork (hq : (s.furrow f).atWork h tag 0x64 = some q) :
    exec (.genPause f h tag) s = .next ((Run.start s).genPause f q).now := by
  show execGenPause f h tag s = _
  unfold execGenPause
  rw [hq]
  rfl

theorem execGenPause_void (hq : (s.furrow f).atWork h tag 0x64 = none) : exec (.genPause f h tag) s = .next s := by
  show execGenPause f h tag s = _
  unfold execGenPause
  rw [hq]
  rfl

theorem execGenPause_ends (hb : (s.furrow f).counts.bad = []) (hq : (s.furrow f).atWork h tag 0x64 = some q) (ho : q.origin = none)
    (h0 : q.stage = 0) (hbelow : ((s.furrow f).below q.h).2 = []) (htier : ((s.furrow f).imageSpot f q).tier = 2)
    (ht : (s.furrow f).transfers h tag = false) :
    ∃ t, exec (.genPause f h tag) s = .next t ∧ t.descriptorEnded f h tag (Ending.ok 0 (imageOff q.desc)) ∧
      (h, (s.furrow f).imageSpot f q) ∉ (t.furrow f).halfImages ∧ s.onlyFurrow f t := by
  obtain ⟨rfl, rfl, -⟩ := Furrow.request?_is _ _ _ _ (Furrow.atWork_is hq).1
  obtain ⟨r, st, empties⟩ := Run.genPause_empties hb hq ho h0 hbelow htier ht
  obtain ⟨⟨only, -, request⟩, valid⟩ := Run.emptyCache_imagesOver st 2
  refine ⟨_, execGenPause_atWork hq, ?_⟩
  rw [empties]
  refine ⟨Run.engineEnds_ended (failed_ok 0 _) request, ?_, State.onlyFurrow_trans only (Run.engineEnds_onlyFurrow _ f _ _ _)⟩
  rw [Run.engineEnds_done (failed_ok 0 _), Furrow.modCtx_halfImages, Furrow.modReq_halfImages]
  exact valid

/-! ### GEN_RESUME (R283) -/

theorem Run.genResume_void {r : Run s₀} (hq : (r.now.furrow f).atWork h tag 0x65 = none) (k : Nat) : Run.genResume f h tag (k + 1) r = r := by
  unfold Run.genResume
  rw [Run.fur_eq, hq]

/-- A resume whose entries are copied switches its cache once the exchange over them is done. -/
theorem Run.genResume_switches {r r' : Run s₀} {bs : List Byte} (hq : (r.now.furrow f).atWork h tag 0x65 = some q) (h4 : q.stage = 4)
    (passed : r.roundTrip f q 2 [] (fun _ => []) = (r', some bs)) (k : Nat) :
    Run.genResume f h tag (k + 1) r = r'.resumeCache f q (CacheHead.of (bytesAt q.carried (q.carried.length - 64) 64)) := by
  unfold Run.genResume
  simp only [Run.fur_eq, hq, h4, passed, Nat.reduceLT, Nat.reduceEqDiff, if_false]

theorem State.imagesOver.resumeCache {r : Run s₀} {n : Nat} (st : s.imagesOver f q n r.now)
    (hq : (s.furrow f).atWork q.h q.tag 0x65 = some q) (ho : q.origin = none) (htier : ((s.furrow f).imageSpot f q).tier = 2)
    (ht : (s.furrow f).transfers q.h q.tag = false) (x : CacheHead) :
    (r.resumeCache f q x).now.descriptorEnded f q.h q.tag (Ending.ok 0 (df q.desc 16 8)) ∧ s.onlyFurrow f (r.resumeCache f q x).now := by
  have switched := st.switchCache q.h (tref q.desc 16).off
    { x with
      cap := (r.cacheAt f q.h (tref q.desc 16).off).cap, state := 1, expiry := 0, restarts := 0, ttl := 0
      seq := (r.cacheAt f q.h (tref q.desc 16).off).seq }
  have here := (congrArg Spot.tier (switched.imageSpot q)).trans htier
  unfold Run.resumeCache
  rw [ho]
  exact ((switched.dropImage q.h q.tag here).freePause q.h _ _ _).awaitEnd hq ht _

theorem execGenResume_ends (hq : (s.furrow f).atWork h tag 0x65 = some q) (ho : q.origin = none) (h4 : q.stage = 4)
    (hbelow : ((s.furrow f).below q.h).2 = []) (htier : ((s.furrow f).imageSpot f q).tier = 2) (ht : (s.furrow f).transfers h tag = false) :
    ∃ t, exec (.genResume f h tag) s = .next t ∧ t.descriptorEnded f h tag (Ending.ok 0 (df q.desc 16 8)) ∧ s.onlyFurrow f t := by
  obtain ⟨hreq, -⟩ := Furrow.atWork_is hq
  obtain ⟨rfl, rfl, -⟩ := Furrow.request?_is _ _ _ _ hreq
  have begun : s.imagesOver f q q.stage (Run.start s).now := State.imagesOver.start hreq
  obtain ⟨r, bs, passed, st⟩ := begun.exchange hbelow (k := 2) (m := q.stage) ho (by omega) [] fun _ => []
  refine ⟨_, rfl, ?_⟩
  rw [Run.genResume_switches (r := Run.start s) hq h4 passed 4]
  exact st.resumeCache hq ho htier ht _

/-! ### GEN_DISCARD (R285) -/

/-- A furrow's image is discarded, its entry of the pause table freed, and no note of a half-written image left of it. -/
def Run.discarded (r : Run s₀) (f : FurrowIx) (h : Handle) (tag : Tag) (q : Request) : Run s₀ :=
  let p := (r.fur f).imageSpot f q
  ((r.dropImage f h tag p).freePause f h (imageOff q.desc) (imageKind q.desc) (imageShift q.desc)).modFur f fun c =>
    { c with halfImages := c.halfImages.filter fun x => x ≠ (h, p) }

theorem execGenDiscard_atWork (hq : (s.furrow f).atWork h tag 0x66 = some q) :
    exec (.genDiscard f h tag) s = .next (((Run.start s).discarded f h tag q).awaitEnd f h tag
      (Ending.ok 0 (if q.origin.isSome then 0 else imageOff q.desc))).now := by
  show execGenDiscard f h tag s = _
  unfold execGenDiscard
  rw [hq]
  rfl

theorem execGenDiscard_void (hq : (s.furrow f).atWork h tag 0x66 = none) : exec (.genDiscard f h tag) s = .next s := by
  show execGenDiscard f h tag s = _
  unfold execGenDiscard
  rw [hq]
  rfl

theorem execGenDiscard_ends (hq : (s.furrow f).atWork h tag 0x66 = some q) (ho : q.origin = none)
    (htier : ((s.furrow f).imageSpot f q).tier = 2) (ht : (s.furrow f).transfers h tag = false) :
    ∃ t, exec (.genDiscard f h tag) s = .next t ∧ t.descriptorEnded f h tag (Ending.ok 0 (imageOff q.desc)) ∧ s.onlyFurrow f t := by
  obtain ⟨hreq, -⟩ := Furrow.atWork_is hq
  obtain ⟨rfl, rfl, -⟩ := Furrow.request?_is _ _ _ _ hreq
  have begun : s.imagesOver f q q.stage (Run.start s).now := State.imagesOver.start hreq
  have freed := (begun.dropImage q.h q.tag htier).freePause q.h (imageOff q.desc) (imageKind q.desc) (imageShift q.desc)
  have discarded : s.imagesOver f q q.stage ((Run.start s).discarded f q.h q.tag q).now := by
    unfold Run.discarded
    exact freed.note (by intro c; exact ⟨rfl, rfl⟩)
  refine ⟨_, execGenDiscard_atWork hq, ?_⟩
  simp only [ho, Option.isSome_none, Bool.false_eq_true, if_false]
  exact discarded.awaitEnd hq ht _

end

/-! ### PAUSE_SWEEP (R284) -/

/-- What tells a furrow whether it is time for the next sweep. -/
def Furrow.sweepClock (c : Furrow) : Calendar × W64 := (c.cal, c.lastSweep)

theorem Furrow.sweepClock_besideStore : BesideStore Furrow.sweepClock := fun _ _ _ => rfl

theorem Furrow.sweepClock_besidePyr : BesidePyr Furrow.sweepClock := fun _ _ => rfl

theorem Run.modFur_sweepClock {g : Furrow → Furrow} (hg : ∀ c, (g c).sweepClock = c.sweepClock) (r : Run s₀) (f : FurrowIx) :
    ((r.modFur f g).now.furrow f).sweepClock = (r.now.furrow f).sweepClock := by
  rw [Run.modFur_now, State.furrow_setFurrow_same, hg]

theorem Furrow.transact_sweepClock (c : Furrow) (f : FurrowIx) (h : Handle) (tag : Tag) (kind : Byte) (p : Spot) (n : Nat)
    (payload : List Byte) (dst : Spot) : (c.transact f h tag kind p n payload dst).sweepClock = c.sweepClock := by
  unfold Furrow.transact
  exact Furrow.route_keeps Furrow.sweepClock_besidePyr _ f _

theorem Run.arrive_sweepClock (r : Run s₀) (f : FurrowIx) (h : Handle) (tag : Tag) (dst : Spot) (n : Nat) (cells : List Host.Cell) :
    ((r.arrive f h tag dst n cells).now.furrow f).sweepClock = (r.now.furrow f).sweepClock := by
  have put := fun tier => Run.put_keeps Furrow.sweepClock_besideStore r f h dst.core tier dst.off n cells
  unfold Run.arrive
  split
  · refine foldl_keeps (fun r : Run s₀ => (r.now.furrow f).sweepClock) _ (fun r p => Run.modFur_sweepClock ?_ r f) _ r
    exact fun c => c.transact_sweepClock f h tag Kind.write _ _ _ dst
  · refine Run.modFur_sweepClock ?_ r f
    exact fun c => foldl_keeps Furrow.sweepClock _ (by intro c i; rfl) _ c
  · split
    · rw [Run.paste_now, State.setMem_furrow]
    · rfl
  · split
    · exact put 0
    · rfl
  · split
    · exact put dst.tier
    · exact Run.storeCells_keeps Furrow.sweepClock_besideStore r f h dst.core dst.tier dst.off n cells

theorem Run.discard_sweepClock (r : Run s₀) (f : FurrowIx) (h : Handle) (tag : Tag) (lbn : Nat) :
    ((r.discard f h tag lbn).now.furrow f).sweepClock = (r.now.furrow f).sweepClock := by
  refine (Run.modFur_sweepClock (by intro c; rfl) _ f).trans ((Run.modFur_sweepClock (by intro c; rfl) _ f).trans ?_)
  rw [Run.write_now, State.setMem_furrow]

theorem Run.dropImage_sweepClock (r : Run s₀) (f : FurrowIx) (h : Handle) (tag : Tag) (p : Spot) :
    ((r.dropImage f h tag p).now.furrow f).sweepClock = (r.now.furrow f).sweepClock := by
  unfold Run.dropImage
  split
  · refine Run.each_keeps (fun t => (t.furrow f).sweepClock) _ (fun r l => ?_) _ r
    split
    · rfl
    · exact r.discard_sweepClock f h tag l
  · exact r.arrive_sweepClock f h tag p 64 []

theorem Run.setPause_sweepClock (r : Run s₀) (f : FurrowIx) (h : Handle) (i : Nat) (x : PauseEntry) :
    ((r.setPause f h i x).now.furrow f).sweepClock = (r.now.furrow f).sweepClock := by
  unfold Run.setPause
  split
  · rfl
  · exact (Run.modFur_sweepClock (by intro c; rfl) _ f).trans (Run.store_keeps Furrow.sweepClock_besideStore r f h 0 2 _ _)

theorem Run.chargeSweep_sweepClock (r : Run s₀) (f : FurrowIx) (h : Handle) :
    ((r.chargeSweep f h).now.furrow f).sweepClock = (r.now.furrow f).sweepClock :=
  Run.modFur_sweepClock (by intro c; rfl) r.free.2 f

theorem Run.sweepContext_sweepClock (r : Run s₀) (f : FurrowIx) (h : Handle) :
    ((r.sweepContext f h).now.furrow f).sweepClock = (r.now.furrow f).sweepClock := by
  refine foldl_keeps (fun r : Run s₀ => (r.now.furrow f).sweepClock) _ (fun r x => ?_) _ r
  dsimp only
  split
  · rfl
  · refine (Run.setPause_sweepClock _ f h _ _).trans ((Run.chargeSweep_sweepClock _ f h).trans ?_)
    split
    · exact r.dropImage_sweepClock f h boxTag _
    · rfl

section
variable {s : State} {f : FurrowIx}

/-- A sweep is not due while the calendar clock is invalid, while the furrow does not serve, and in a second that has had its sweep. -/
theorem execPauseSweep_void (hn : (s.furrow f).cal.valid = false ∨ (s.furrow f).serves = false ∨
    (s.furrow f).cal.stamp.toNat / 32768 = (s.furrow f).lastSweep.toNat / 32768) : exec (.pauseSweep f) s = .next s := by
  show execPauseSweep f s = _
  unfold execPauseSweep
  dsimp only
  rw [if_pos (by simpa using hn)]
  rfl

/-- A sweep notes the stamp at which it acts, and no context's part of it changes the calendar or that note. -/
theorem execPauseSweep_acts (hv : (s.furrow f).cal.valid = true) (hs : (s.furrow f).serves = true)
    (hd : (s.furrow f).cal.stamp.toNat / 32768 ≠ (s.furrow f).lastSweep.toNat / 32768) :
    ∃ t, exec (.pauseSweep f) s = .next t ∧ (t.furrow f).cal = (s.furrow f).cal ∧ (t.furrow f).lastSweep = (s.furrow f).cal.stamp := by
  have due : ¬((!(s.furrow f).cal.valid) = true ∨ (!(s.furrow f).serves) = true ∨
      (s.furrow f).cal.stamp.toNat / 32768 = (s.furrow f).lastSweep.toNat / 32768) := by
    simp [hv, hs, hd]
  have swept : ∀ (r : Run s), ((r.each (List.finRange 64) fun r h =>
      if (s.furrow f).ctx[h].owns then r.sweepContext f h else r).now.furrow f).sweepClock = (r.now.furrow f).sweepClock := by
    refine Run.each_keeps (fun t => (t.furrow f).sweepClock) _ (fun r h => ?_) (List.finRange 64)
    split
    · exact r.sweepContext_sweepClock f h
    · rfl
  have clock := swept ((Run.start s).modFur f fun c => { c with lastSweep := c.cal.stamp })
  rw [Run.modFur_now, State.furrow_setFurrow_same] at clock
  obtain ⟨cal, last⟩ := Prod.mk.inj clock
  refine ⟨_, ?_, cal, last⟩
  show execPauseSweep f s = _
  unfold execPauseSweep
  dsimp only
  rw [if_neg due]
  rfl

end

/-- Settles O34: pauses, resumes and discards in a furrow's own HBM are work on its images, which leaves their request to be ended, and a
sweep's stamp bars the next one of its second. That RESULT is the image's offset for a pause and the cache's reference for a resume, and
the entry that a pause takes, are the model's choice (log 62). -/
theorem pauseRowsAndSweep : Obligations.PauseRowsAndSweep := by
  refine ⟨fun f h tag q s => ⟨execGenPause_atWork, fun _ => rfl, execGenDiscard_atWork,
    ⟨execGenPause_void, fun hq => ?_, execGenDiscard_void⟩,
    fun ho hbelow htier ht hb => ⟨fun hq h0 => execGenPause_ends hb hq ho h0 hbelow htier ht,
      fun hq h4 => execGenResume_ends hq ho h4 hbelow htier ht, fun hq => execGenDiscard_ends hq ho htier ht⟩⟩,
    fun f s => ⟨execPauseSweep_void, fun hv hs hd => ?_⟩⟩
  · exact congrArg Run.done (Run.genResume_void (r := Run.start s) hq 4)
  · obtain ⟨t, next, cal, last⟩ := execPauseSweep_acts hv hs hd
    exact ⟨t, next, last, execPauseSweep_void (.inr (.inr (by rw [cal, last])))⟩

end Sys2Proof.Machine
end

section
namespace Sys2Proof.Machine

variable {s₀ : State}

/-! ### What work on a table leaves of its furrow (chapter 13) -/

/-- Where a furrow stands in its spans: the bindings, and each context's role and span. -/
def Furrow.kin (c : Furrow) : List SpanBind × (Handle → SpanRole × W32) := (c.pyr.spans, fun h => (c.ctx[h].role, c.ctx[h].spanId))

theorem Furrow.below_of_kin {c d : Furrow} (hk : d.kin = c.kin) (h : Handle) : d.below h = c.below h := by
  obtain ⟨spans, contexts⟩ := Prod.mk.inj hk
  have role : ∀ g : Handle, d.ctx[g].role = c.ctx[g].role := fun g => congrArg Prod.fst (congrFun contexts g)
  have span : ∀ g : Handle, d.ctx[g].spanId = c.ctx[g].spanId := fun g => congrArg Prod.snd (congrFun contexts g)
  simp only [Furrow.below, Furrow.childRoot, Furrow.bind?, spans, role, span]

/-- From one furrow to another a table slot is as it was in a view of it, the furrow stands in its spans as before, no uncorrectable data
has become known where none was, the last window is the same, and the requests are still there. -/
structure Furrow.slotKept {γ : Type} (view : TableSlot → γ) (i : TableIx) (c d : Furrow) : Prop where
  slot   : view d.tbl[i] = view c.tbl[i]
  kin    : d.kin = c.kin
  clean  : c.counts.bad = [] → d.counts.bad = []
  window : d.lastWindow = c.lastWindow
  named  : c.reqs.map Request.name ⊆ d.reqs.map Request.name

/-- What a furrow's table slots, spans, requests and last window are: nothing that a store or a packet touches. -/
def Furrow.ledger (c : Furrow) :
    Vector TableSlot 16 × (List SpanBind × (Handle → SpanRole × W32)) × W64 × List (Handle × Tag × Bool) :=
  (c.tbl, c.kin, c.lastWindow, c.reqs.map Request.name)

section
variable {γ : Type} {view : TableSlot → γ} {i : TableIx} {c d e : Furrow}

theorem Furrow.slotKept_of_ledger (hl : d.ledger = c.ledger) (clean : c.counts.bad = [] → d.counts.bad = []) : c.slotKept view i d := by
  obtain ⟨tbl, rest⟩ := Prod.mk.inj hl
  obtain ⟨kin, rest⟩ := Prod.mk.inj rest
  obtain ⟨window, names⟩ := Prod.mk.inj rest
  exact ⟨by rw [tbl], kin, clean, window, by rw [names]; exact List.Subset.refl _⟩

theorem Furrow.slotKept_refl (c : Furrow) : c.slotKept view i c := Furrow.slotKept_of_ledger rfl id

theorem Furrow.slotKept_trans (cd : c.slotKept view i d) (de : d.slotKept view i e) : c.slotKept view i e :=
  ⟨de.slot.trans cd.slot, de.kin.trans cd.kin, fun hb => de.clean (cd.clean hb), de.window.trans cd.window,
    List.Subset.trans cd.named de.named⟩

theorem Furrow.slotKept.request? (kept : c.slotKept view i d) {h : Handle} {tag : Tag} (hq : ∃ q, c.request? h tag = some q) :
    ∃ q, d.request? h tag = some q := by
  have named : ∀ c : Furrow, (c.request? h tag).isSome ↔ (h, tag, decide (tag = boxTag)) ∈ c.reqs.map Request.name := fun c => by
    simp [Furrow.request?, Request.name, Request.isOf_iff]
  rw [← Option.isSome_iff_exists, named] at hq ⊢
  exact kept.named hq

/-! #### One part of the furrow changed -/

theorem Furrow.modReq_ledger {g : Request → Request} (hg : KeepsName g) (c : Furrow) (h : Handle) (tag : Tag) :
    (c.modReq h tag g).ledger = c.ledger := by
  have names : (c.modReq h tag g).reqs.map Request.name = c.reqs.map Request.name := by
    refine modFirst_map Request.name g (fun q => ?_) h tag c.reqs
    obtain ⟨hh, htag, hbox⟩ := hg q
    rw [Request.name, hh, htag, hbox, Request.name]
  rw [Furrow.ledger, names]
  rfl

theorem Furrow.modReq_slotKept {g : Request → Request} (hg : KeepsName g) (h : Handle) (tag : Tag) : c.slotKept view i (c.modReq h tag g) :=
  Furrow.slotKept_of_ledger (Furrow.modReq_ledger hg c h tag) id

theorem Furrow.updateNs_slotKept (h : Handle) : c.slotKept view i (c.modCtx h Context.updateNs) := by
  refine Furrow.slotKept_of_ledger ?_ id
  have contexts : (fun k : Handle => ((c.modCtx h Context.updateNs).ctx[k].role, (c.modCtx h Context.updateNs).ctx[k].spanId)) =
      fun k => (c.ctx[k].role, c.ctx[k].spanId) :=
    funext (c.view_modCtx (fun x => (x.role, x.spanId)) h Context.updateNs fun _ => rfl)
  rw [Furrow.ledger, Furrow.kin, contexts]
  rfl

@[simp] theorem Furrow.modTbl_same (k : TableIx) (g : TableSlot → TableSlot) : (c.modTbl k g).tbl[k] = g c.tbl[k] := Vector.getElem_set_self _

theorem Furrow.modTbl_other {k : TableIx} (hk : i ≠ k) (g : TableSlot → TableSlot) : (c.modTbl k g).tbl[i] = c.tbl[i] :=
  Vector.getElem_set_ne k.isLt i.isLt fun e => hk (Fin.ext e.symm)

theorem Furrow.modTbl_slotKept {k : TableIx} {g : TableSlot → TableSlot} (hg : k = i → view (g c.tbl[i]) = view c.tbl[i]) :
    c.slotKept view i (c.modTbl k g) := by
  refine ⟨?_, rfl, id, rfl, List.Subset.refl _⟩
  by_cases hk : k = i
  · subst hk
    rw [Furrow.modTbl_same, hg rfl]
  · rw [Furrow.modTbl_other (Ne.symm hk)]

/-- Mailboxes are opened beside the requests that there are. -/
theorem Furrow.openBox_slotKept (h : Handle) : c.slotKept view i (c.openBox h) := by
  unfold Furrow.openBox
  split
  · exact c.slotKept_refl
  · exact ⟨rfl, rfl, id, rfl, by rw [List.map_append]; exact List.subset_append_left _ _⟩

theorem Furrow.modBox_slotKept {g : Request → Request} (hg : KeepsName g) (h : Handle) : c.slotKept view i (c.modBox h g) :=
  Furrow.slotKept_trans (c.openBox_slotKept h) (Furrow.modReq_slotKept hg h boxTag)

/-! #### Packets sent -/

theorem Furrow.route_slotKept (f : FurrowIx) (p : Packet) : c.slotKept view i (c.route f p) := by
  refine Furrow.slotKept_of_ledger ?_ fun hb => (Furrow.route_keeps (view := fun c => c.counts.bad) (fun _ _ => rfl) c f p).trans hb
  unfold Furrow.route
  dsimp only
  split
  · rfl
  · split
    · rfl
    · split
      · rfl
      · split
        · rfl
        · split <;> rfl

theorem Furrow.foldl_slotKept {α : Type} {g : Furrow → α → Furrow} (hg : ∀ (c : Furrow) x, c.slotKept view i (g c x)) (xs : List α) (c : Furrow) :
    c.slotKept view i (xs.foldl g c) :=
  List.foldlRecOn (motive := c.slotKept view i) xs g c.slotKept_refl fun d hd x _ => Furrow.slotKept_trans hd (hg d x)

theorem Furrow.sendColl_slotKept (f : FurrowIx) (q : Request) (key : Nat) (dest : FabricId) (span tag : W32) (bs : List Byte) :
    c.slotKept view i (c.sendColl f q key dest span tag bs) :=
  Furrow.foldl_slotKept (fun c _ => c.route_slotKept f _) _ c

theorem Furrow.sendDown_slotKept (f : FurrowIx) (q : Request) (key : Nat) (bs : List Byte) : c.slotKept view i (c.sendDown f q key bs) :=
  Furrow.foldl_slotKept (fun c _ => c.sendColl_slotKept f q key _ _ _ bs) _ c

theorem Furrow.cancelMembers_slotKept (f : FurrowIx) (q : Request) : c.slotKept view i (c.cancelMembers f q) :=
  Furrow.foldl_slotKept (fun c _ => c.route_slotKept f _) _ c

/-! #### An error recorded -/

theorem Furrow.raise_ledger (c : Furrow) (x : ErrRec) (ends : List (Handle × Tag)) : (c.raise x ends).ledger = c.ledger := by
  unfold Furrow.raise Furrow.countUe Furrow.rollCounts
  dsimp only
  split
  · split <;> rfl
  · rfl

theorem Furrow.dataError_ledger (c : Furrow) (e : Eng) (x : ErrRec) (memory : Nat) : (c.dataError e x memory).1.ledger = c.ledger :=
  (Furrow.modReq_ledger (g := fun q => { q with nested := q.nested || !c.err.handling.isEmpty }) (fun _ => ⟨rfl, rfl, rfl⟩) _ e.h e.tag).trans
    (c.raise_ledger x [(e.h, e.tag)])

end

/-! #### The same of a run -/

/-- From one state to another only a furrow and its memories have changed, and there what work on a table leaves is as it was. -/
structure State.slotOver {γ : Type} (view : TableSlot → γ) (s : State) (f : FurrowIx) (i : TableIx) (t : State) : Prop where
  only : s.onlyFurrow f t
  kept : (s.furrow f).slotKept view i (t.furrow f)

section
variable {γ : Type} {view : TableSlot → γ} {s t u : State} {f : FurrowIx} {i : TableIx}

theorem State.slotOver_refl (s : State) (f : FurrowIx) (i : TableIx) : s.slotOver view f i s := ⟨s.onlyFurrow_refl f, Furrow.slotKept_refl _⟩

theorem State.slotOver_trans (st : s.slotOver view f i t) (tu : t.slotOver view f i u) : s.slotOver view f i u :=
  ⟨State.onlyFurrow_trans st.only tu.only, Furrow.slotKept_trans st.kept tu.kept⟩

theorem State.slotOver.below (st : s.slotOver view f i t) (h : Handle) : (t.furrow f).below h = (s.furrow f).below h :=
  Furrow.below_of_kin st.kept.kin h

theorem State.slotOver.piecesBelow (st : s.slotOver view f i t) {q : Request} (hbelow : ((s.furrow f).below q.h).2 = []) :
    (t.furrow f).piecesBelow q = some [] :=
  Furrow.piecesBelow_of_none_below (by rw [st.below, hbelow])

theorem State.slotOver.firstBad (st : s.slotOver view f i t) (hb : (s.furrow f).counts.bad = []) (e : Eng) (xs : List Extent) :
    (t.furrow f).firstBad e xs = none :=
  Furrow.firstBad_of_none_bad (st.kept.clean hb) e xs

variable (r : Run s₀)

theorem Run.modFur_slotOver {g : Furrow → Furrow} (hg : (r.now.furrow f).slotKept view i (g (r.now.furrow f))) :
    r.now.slotOver view f i (r.modFur f g).now := by
  refine ⟨State.onlyFurrow_setFurrow _ f _, ?_⟩
  rw [Run.modFur_now, State.furrow_setFurrow_same]
  exact hg

theorem Run.storeCells_slotOver (f : FurrowIx) (i : TableIx) (h : Handle) (core tier off n : Nat) (img : List Host.Cell) :
    r.now.slotOver view f i (r.storeCells f h core tier off n img).now := by
  refine ⟨(r.storeCells_workedOver f h core tier off n img).1, Furrow.slotKept_of_ledger ?_ fun hb => ?_⟩
  · exact Run.storeCells_keeps (view := Furrow.ledger) (fun _ _ _ => rfl) r f h core tier off n img
  · obtain ⟨-, xs, stored⟩ := Run.storeCells_storedOver hb (r.now.storedOver_refl f) h core tier off n img
    exact (congrArg (fun c : Furrow => c.counts.bad) stored).trans hb

theorem Run.store_slotOver (f : FurrowIx) (i : TableIx) (h : Handle) (core tier off : Nat) (bs : List Byte) :
    r.now.slotOver view f i (r.store f h core tier off bs).now :=
  r.storeCells_slotOver f i h core tier off _ _

theorem Run.each_slotOver {α : Type} {g : Run s₀ → α → Run s₀} (xs : List α)
    (hg : ∀ (r : Run s₀) x, x ∈ xs → r.now.slotOver view f i (g r x).now) : r.now.slotOver view f i (r.each xs g).now :=
  List.foldlRecOn (motive := fun t : Run s₀ => r.now.slotOver view f i t.now) xs g (r.now.slotOver_refl f i) fun t ht x hx =>
    State.slotOver_trans ht (hg t x hx)

theorem Run.engineEnds_slotOver (f : FurrowIx) (i : TableIx) (h : Handle) (tag : Tag) (e : Ending) :
    r.now.slotOver view f i (r.engineEnds f h tag e).now := by
  refine r.modFur_slotOver (Furrow.slotKept_trans ?_ (Furrow.updateNs_slotKept h))
  refine Furrow.slotKept_trans ?_ (Furrow.modReq_slotKept (by intro q; exact ⟨rfl, rfl, rfl⟩) h tag)
  split
  · split
    · exact Furrow.cancelMembers_slotKept f _
    · exact Furrow.slotKept_refl _
  · exact Furrow.slotKept_refl _

theorem Run.endRounds_slotOver (f : FurrowIx) (i : TableIx) (q : Request) (e : Ending) :
    r.now.slotOver view f i (r.endRounds f q e).now :=
  State.slotOver_trans (r.modFur_slotOver (Furrow.sendDown_slotKept f q q.collKey [])) (Run.engineEnds_slotOver _ f i q.h q.tag e)

theorem Run.readFault_slotOver (e : Eng) (i : TableIx) (p : Space × Nat × Nat) : r.now.slotOver view e.f i (r.readFault e p).1.now := by
  have clean := (r.readFault_walkedOver e p).clean
  revert clean
  unfold Run.readFault
  split
  · exact fun _ => r.now.slotOver_refl e.f i
  · intro clean
    refine ⟨State.onlyFurrow_setFurrow _ _ _, Furrow.slotKept_of_ledger ?_ clean⟩
    rw [Run.setFur_now, State.furrow_setFurrow_same]
    exact Furrow.dataError_ledger _ e _ _

/-- The end of the rounds of a request that is there ends its descriptor. -/
theorem State.slotOver.endRounds {r : Run s₀} (st : s.slotOver view f i r.now) {q : Request}
    (hq : (s.furrow f).request? q.h q.tag = some q) (e : Ending) :
    (r.endRounds f q e).now.descriptorEnded f q.h q.tag e ∧ s.onlyFurrow f (r.endRounds f q e).now := by
  have told : s.slotOver view f i (r.modFur f fun c => c.sendDown f q q.collKey []).now :=
    State.slotOver_trans st (r.modFur_slotOver (Furrow.sendDown_slotKept f q q.collKey []))
  exact ⟨Run.engineEnds_descriptorEnded (told.kept.request? ⟨q, hq⟩) e,
    State.onlyFurrow_trans told.only (Run.engineEnds_onlyFurrow _ f q.h q.tag e)⟩

end
end Sys2Proof.Machine
end

section
namespace Sys2Proof.Machine

variable {s₀ : State}

/-! ### The opcodes on tables (R298, R300, R304) -/

section
variable {f : FurrowIx} {h : Handle} {tag : Tag} {op : Byte} {at_ : Nat} {q : Request} {r : Run s₀}
  {serve : Request → TableIx → Run s₀ → List Byte → Run s₀ × Except Ending (List Byte)} {work : Request → TableIx → Run s₀ → Run s₀}

theorem Run.tableDesc_void (hq : (r.now.furrow f).atWork h tag op = none) : r.tableDesc op at_ f h tag serve work = r := by
  simp only [Run.tableDesc, Run.fur_eq, hq]

theorem Run.tableDesc_refused (hq : (r.now.furrow f).atWork h tag op = some q) (hn : 16 ≤ df q.desc at_ 1) :
    r.tableDesc op at_ f h tag serve work = r.engineEnds f h tag (Refuse.operand at_).atStart.ending := by
  simp only [Run.tableDesc, Run.fur_eq, hq, dif_neg (Nat.not_lt.2 hn)]

/-- At a root the descriptor's work is done on the table slot that it names. -/
theorem Run.tableDesc_root (hq : (r.now.furrow f).atWork h tag op = some q) (ho : q.origin = none) {i : TableIx}
    (hi : df q.desc at_ 1 = i.val) : r.tableDesc op at_ f h tag serve work = work q i r := by
  obtain ⟨n, hn⟩ := i
  obtain rfl : df q.desc at_ 1 = n := hi
  simp only [Run.tableDesc, Run.fur_eq, hq, dif_pos hn, ho, Option.isSome_none, Bool.false_eq_true, if_false]

end

theorem exec_tableDesc {x : Instr} {op : Byte} {at_ : Nat} {f : FurrowIx} {h : Handle} {tag : Tag} {s : State}
    (hx : (x, op, at_) ∈ ([(.tblGather f h tag, 0x70, 36), (.tblScatterAdd f h tag, 0x71, 36), (.tblSwitch f h tag, 0x72, 28),
      (.tblMigrate f h tag, 0x73, 22)] : List (Instr × Byte × Nat))) :
    ∃ serve work, exec x s = ((Run.start s).tableDesc op at_ f h tag serve work).done := by
  simp only [List.mem_cons, Prod.mk.injEq, List.not_mem_nil, or_false] at hx
  obtain ⟨rfl, rfl, rfl⟩ | ⟨rfl, rfl, rfl⟩ | ⟨rfl, rfl, rfl⟩ | ⟨rfl, rfl, rfl⟩ := hx <;> exact ⟨_, _, rfl⟩

/-! ### TBL_GATHER (R298, R301, R303) -/

/-- A view of a table slot that sees nothing of it. -/
def TableSlot.unseen (_ : TableSlot) : Unit := ()

theorem TableSlot.unseen_eq (t u : TableSlot) : t.unseen = u.unseen := rfl

section
variable {e : Eng} {i : TableIx} {q : Request}

theorem Run.readRows_slotOver (r : Run s₀) (e : Eng) (i : TableIx) (base : Nat) (xs : List (Nat × Nat)) :
    r.now.slotOver TableSlot.unseen e.f i (r.readRows e i base xs).1.now :=
  r.modFur_slotOver (Furrow.modTbl_slotKept fun _ => TableSlot.unseen_eq _ _)

theorem Run.putGather_slotOver (r : Run s₀) (e : Eng) (i : TableIx) (t : TableSlot) (d : List Byte) (idx : List Nat)
    (rows : List (Nat × List Byte)) : r.now.slotOver TableSlot.unseen e.f i (r.putGather e t d idx rows).1.now := by
  unfold Run.putGather
  refine State.slotOver_trans (t := (r.freeBytes _).2.now) ?_ (Run.store_slotOver _ e.f i e.h e.core _ _ _)
  exact ⟨r.now.onlyFurrow_refl e.f, Furrow.slotKept_refl _⟩

/-- A gather ends with as many distinct rows as there are and its destination, DONE_SHORT where an index is out of range. -/
theorem Run.putGather_ending (r : Run s₀) (e : Eng) (t : TableSlot) (d : List Byte) (idx : List Nat) (rows : List (Nat × List Byte)) :
    ((r.putGather e t d idx rows).2.status = Status.done ∨ (r.putGather e t d idx rows).2.status = Status.doneShort) ∧
      (r.putGather e t d idx rows).2.result = BitVec.ofNat 64 (df d 24 8) ∧
      (r.putGather e t d idx rows).2.count = BitVec.ofNat 16 (min (t.distinct idx).length 65535) := by
  unfold Run.putGather
  dsimp only
  split
  · exact ⟨.inl rfl, rfl, rfl⟩
  · exact ⟨.inr rfl, rfl, rfl⟩

/-- The rows of a gather have been asked for, and are read. -/
theorem Run.gather_puts {r : Run s₀} (hb : (r.now.furrow e.f).counts.bad = []) (hbelow : ((r.now.furrow e.f).below q.h).2 = []) :
    ∃ (r' : Run s₀) (rows : List (Nat × List Byte)), r.now.slotOver TableSlot.unseen e.f i r'.now ∧
      r.gather e q i =
        (r'.putGather e (r.now.furrow e.f).tbl[i] q.desc (r.indices e q.desc) rows).1.endRounds e.f q
          (r'.putGather e (r.now.furrow e.f).tbl[i] q.desc (r.indices e q.desc) rows).2 := by
  have asked : ∀ bs : List Byte, r.now.slotOver TableSlot.unseen e.f i
      (if q.stage = 0 then r.modFur e.f fun c => (c.sendDown e.f q q.collKey bs).modReq e.h e.tag fun q => { q with stage := 1 } else r).now := by
    intro bs
    split
    · refine r.modFur_slotOver (Furrow.slotKept_trans (Furrow.sendDown_slotKept e.f q q.collKey bs) ?_)
      exact Furrow.modReq_slotKept (by intro q; exact ⟨rfl, rfl, rfl⟩) e.h e.tag
    · exact r.now.slotOver_refl e.f i
  unfold Run.gather
  simp only [Run.fur_eq, Furrow.firstBad_of_none_bad hb, (asked _).piecesBelow hbelow, (asked _).firstBad hb]
  exact ⟨_, _, State.slotOver_trans (asked _) (Run.readRows_slotOver _ e i _ _), rfl⟩

end

section
variable {s : State} {f : FurrowIx} {h : Handle} {tag : Tag} {q : Request} {i : TableIx}

theorem execTblGather_ends (hb : (s.furrow f).counts.bad = []) (hq : (s.furrow f).atWork h tag 0x70 = some q) (ho : q.origin = none)
    (hbelow : ((s.furrow f).below q.h).2 = []) (hi : df q.desc 36 1 = i.val) :
    ∃ t e, exec (.tblGather f h tag) s = .next t ∧ t.descriptorEnded f h tag e ∧ s.onlyFurrow f t ∧
      (e.status = Status.done ∨ e.status = Status.doneShort) ∧ e.result = BitVec.ofNat 64 (df q.desc 24 8) ∧
      e.count = BitVec.ofNat 16 (min ((s.furrow f).tbl[i].distinct ((Run.start s).indices (q.eng f) q.desc)).length 65535) := by
  obtain ⟨hreq, -⟩ := Furrow.atWork_is hq
  obtain ⟨rfl, rfl, -⟩ := Furrow.request?_is _ _ _ _ hreq
  obtain ⟨r, rows, asked, puts⟩ := Run.gather_puts (r := Run.start s) (e := q.eng f) (i := i) hb hbelow
  have written := State.slotOver_trans asked
    (r.putGather_slotOver (q.eng f) i (s.furrow f).tbl[i] q.desc ((Run.start s).indices (q.eng f) q.desc) rows)
  have ends := written.endRounds hreq
  obtain ⟨status, result, count⟩ :=
    r.putGather_ending (q.eng f) (s.furrow f).tbl[i] q.desc ((Run.start s).indices (q.eng f) q.desc) rows
  obtain ⟨ended, only⟩ := ends (r.putGather (q.eng f) (s.furrow f).tbl[i] q.desc ((Run.start s).indices (q.eng f) q.desc) rows).2
  refine ⟨_, _, ?_, ended, only, status, result, count⟩
  refine (congrArg Run.done (Run.tableDesc_root (r := Run.start s) hq ho hi)).trans ?_
  exact congrArg Run.done puts

end
end Sys2Proof.Machine
end

section
namespace Sys2Proof.Machine

variable {s₀ : State}

/-! ### TBL_SCATTER_ADD (R300) -/

theorem scatterEnding_status (version written rejected oor : Nat) :
    (scatterEnding version written rejected oor).status = Status.done ∨ (scatterEnding version written rejected oor).status = Status.doneShort := by
  unfold scatterEnding
  dsimp only
  split
  · exact .inl rfl
  · exact .inr rfl

theorem scatterEnding_result (version written rejected oor : Nat) :
    (scatterEnding version written rejected oor).result = BitVec.ofNat 64 version := by
  unfold scatterEnding
  dsimp only
  split <;> rfl

theorem TableSlot.holdsRow_of_none {t : TableSlot} (hm : t.migration = none) (base row : Nat) : t.holdsRow base row = false := by
  simp [TableSlot.holdsRow, hm]

/-- A batch holds at least the row that it begins with. -/
theorem batchFrom_length {t : TableSlot} (hm : t.migration = none) (base : Nat) (x : Nat × RowPlace × List FVal)
    (xs : List (Nat × RowPlace × List FVal)) : 0 < (batchFrom t base (x :: xs)).length := by
  simp [batchFrom, TableSlot.holdsRow_of_none hm]

/-- A row behind, that may have been rejected. -/
def Progress.behind (p : Progress) (rejected : Bool) : Progress := { p with row := p.row + 1, rejected := p.rejected + bit rejected }

/-- A batch of so many rows behind of which no member has told anything. -/
def Progress.unanswered (p : Progress) (n : Nat) : Progress := { p with out := false, row := p.row + n, dropped := p.dropped + n }

/-- A scatter-add's progress kept in its request. -/
def Run.keepProgress (r : Run s₀) (e : Eng) (p : Progress) : Run s₀ :=
  r.modFur e.f fun c => c.modReq e.h e.tag fun q => { q with stage := p.code }

/-- The note that a row which is migrating has changed. -/
def TableSlot.noteRows (p : Migration → Prop) [DecidablePred p] (t : TableSlot) : TableSlot :=
  match t.migration with
  | some m => if p m then { t with migration := some { m with dirty := true } } else t
  | none => t

/-- A batch goes out to the members below. -/
def Run.sendBatch (r : Run s₀) (e : Eng) (q : Request) (i : TableIx) (base : Nat) (b : List (Nat × RowPlace × List FVal)) : Run s₀ :=
  r.modFur e.f fun c =>
    ((c.sendDown e.f q q.collKey (leBytes 8 base ++ b.flatMap deltaBytes)).modReq e.h e.tag fun q =>
      { q with batch := b.map fun y => BitVec.ofNat 32 y.1 }).modTbl i (TableSlot.noteRows fun m => b.any fun y => y.1 = m.row.toNat)

/-- The answers to a batch are taken. -/
def Run.closeBatch (r : Run s₀) (e : Eng) : Run s₀ := r.modFur e.f fun c => c.modReq e.h e.tag fun q => { q.clear q.collKey with batch := [] }

/-- The next row of a scatter-add is applied here, and is behind. -/
def Run.applyNext (r : Run s₀) (e : Eng) (q : Request) (i : TableIx) (base : Nat) (x : Nat × RowPlace × List FVal) (p : Progress) :
    Run s₀ × Progress :=
  let y := r.applyRow e i q.desc base (x.1, x.2.1.2) x.2.2
  (y.1.keepProgress e (p.behind !y.2), p.behind !y.2)

section
variable {e : Eng} {i : TableIx} {q : Request} {r : Run s₀}

/-! #### What each of these leaves -/

/-- No note is taken where no row migrates. -/
theorem TableSlot.noteRows_of_none {t : TableSlot} (hm : t.migration = none) (p : Migration → Prop) [DecidablePred p] : t.noteRows p = t := by
  simp only [TableSlot.noteRows, hm]

theorem Run.applyRow_slotOver (hm : (r.now.furrow e.f).tbl[i].migration = none) (d : List Byte) (base : Nat) (x : Nat × Nat)
    (delta : List FVal) : r.now.slotOver TableSlot.migration e.f i (r.applyRow e i d base x delta).1.now := by
  unfold Run.applyRow
  dsimp only
  split
  · exact r.now.slotOver_refl e.f i
  · have stored := fun off bs => r.store_slotOver (view := TableSlot.migration) e.f i e.h e.core 2 off bs
    refine State.slotOver_trans (stored _ _) (Run.modFur_slotOver _ (Furrow.modTbl_slotKept fun _ => ?_))
    exact congrArg TableSlot.migration
      (TableSlot.noteRows_of_none ((stored _ _).kept.slot.trans hm) fun m => m.row.toNat = x.1)

theorem Run.keepProgress_slotOver (r : Run s₀) (e : Eng) (i : TableIx) (p : Progress) :
    r.now.slotOver TableSlot.migration e.f i (r.keepProgress e p).now :=
  r.modFur_slotOver (Furrow.modReq_slotKept (by intro q; exact ⟨rfl, rfl, rfl⟩) e.h e.tag)

theorem Run.closeBatch_slotOver (r : Run s₀) (e : Eng) (i : TableIx) : r.now.slotOver TableSlot.migration e.f i (r.closeBatch e).now :=
  r.modFur_slotOver (Furrow.modReq_slotKept (by intro q; exact ⟨rfl, rfl, rfl⟩) e.h e.tag)

theorem Run.sendBatch_slotOver (hm : (r.now.furrow e.f).tbl[i].migration = none) (base : Nat) (b : List (Nat × RowPlace × List FVal)) :
    r.now.slotOver TableSlot.migration e.f i (r.sendBatch e q i base b).now := by
  have sent := fun bs => Furrow.slotKept_trans (view := TableSlot.migration) (i := i)
    ((r.now.furrow e.f).sendDown_slotKept e.f q q.collKey bs)
    (Furrow.modReq_slotKept (g := fun q => { q with batch := b.map fun y => BitVec.ofNat 32 y.1 }) (fun _ => ⟨rfl, rfl, rfl⟩) e.h e.tag)
  refine r.modFur_slotOver (Furrow.slotKept_trans (sent _) (Furrow.modTbl_slotKept fun _ => ?_))
  rw [TableSlot.noteRows_of_none ((sent _).slot.trans hm)]

/-- A batch that is out stands in its request. -/
theorem Run.sendBatch_request? {p : Request} (hp : (r.now.furrow e.f).request? e.h e.tag = some p) (base : Nat)
    (b : List (Nat × RowPlace × List FVal)) (x : Progress) :
    (((r.sendBatch e q i base b).keepProgress e x).now.furrow e.f).request? e.h e.tag =
      some { p with batch := b.map fun y => BitVec.ofNat 32 y.1, stage := x.code } := by
  unfold Run.keepProgress Run.sendBatch
  rw [Run.modFur_now, State.furrow_setFurrow_same, Run.modFur_now, State.furrow_setFurrow_same]
  refine Furrow.request?_modReq_of_keepsName (q := { p with batch := b.map fun y => BitVec.ofNat 32 y.1 })
    (by intro q; exact ⟨rfl, rfl, rfl⟩) ?_
  refine Furrow.request?_modReq_of_keepsName (q := p) (by intro q; exact ⟨rfl, rfl, rfl⟩) ?_
  exact (Furrow.request?_congr (Furrow.sendDown_keeps (view := Furrow.reqs) (fun _ _ => rfl) _ e.f q _ _) e.h e.tag).trans hp

/-! #### One step of the work -/

variable {t : TableSlot} {base version oor : Nat} {xs : List (Nat × RowPlace × List FVal)} {p : Progress}

theorem Run.scatter_over (hx : xs.drop p.row = []) (k : Nat) :
    Run.scatter e q i t base version oor xs (k + 1) r p =
      r.endRounds e.f q (scatterEnding version (p.row - p.rejected - p.dropped) p.rejected oor) := by
  rw [Run.scatter, hx]

variable {x : Nat × RowPlace × List FVal} {ys : List (Nat × RowPlace × List FVal)} (hx : xs.drop p.row = x :: ys)
include hx

theorem Run.scatter_here (hb : (r.now.furrow e.f).counts.bad = []) (hm : (r.now.furrow e.f).tbl[i].migration = none) (ho : p.out = false)
    (here : x.2.1.1 = t.shard.toNat) (k : Nat) :
    Run.scatter e q i t base version oor xs (k + 1) r p =
      Run.scatter e q i t base version oor xs k (r.applyNext e q i base x p).1 (r.applyNext e q i base x p).2 := by
  rw [Run.scatter, hx]
  simp only [ho, Bool.false_eq_true, if_false, Run.fur_eq, TableSlot.holdsRow_of_none hm, if_pos here, Furrow.firstBad_of_none_bad hb]
  rw [← ho]
  rfl

theorem Run.scatter_away (hm : (r.now.furrow e.f).tbl[i].migration = none) (ho : p.out = false) (away : x.2.1.1 ≠ t.shard.toNat) (k : Nat) :
    Run.scatter e q i t base version oor xs (k + 1) r p =
      Run.scatter e q i t base version oor xs k
        ((r.sendBatch e q i base (batchFrom t base (x :: ys))).keepProgress e { p with out := true }) { p with out := true } := by
  rw [Run.scatter, hx]
  simp only [ho, Bool.false_eq_true, if_false, Run.fur_eq, TableSlot.holdsRow_of_none hm, if_neg away]
  rfl

/-- Where nobody is below, a batch that is out is behind at once. -/
theorem Run.scatter_back (ho : p.out = true) {q' : Request} (hq : (r.now.furrow e.f).request? e.h e.tag = some q')
    (hbelow : ((r.now.furrow e.f).below q'.h).2 = []) (k : Nat) :
    Run.scatter e q i t base version oor xs (k + 1) r p =
      Run.scatter e q i t base version oor xs k ((r.closeBatch e).keepProgress e (p.unanswered q'.batch.length))
        (p.unanswered q'.batch.length) := by
  rw [Run.scatter, hx]
  simp only [ho, if_true, Run.fur_eq, hq, Option.bind_some, Option.map_some, Option.getD_some, Furrow.piecesBelow_of_none_below hbelow]
  rfl

/-- Every row, or batch of rows, is behind in one or two steps. -/
theorem Run.scatter_goesOn (hb : (r.now.furrow e.f).counts.bad = []) (hm : (r.now.furrow e.f).tbl[i].migration = none)
    (ht : t.migration = none) (hbelow : ((r.now.furrow e.f).below e.h).2 = [])
    (hq : ∃ q', (r.now.furrow e.f).request? e.h e.tag = some q') (ho : p.out = false) :
    ∃ (n : Nat) (r' : Run s₀) (p' : Progress), n ≤ 2 ∧ r.now.slotOver TableSlot.migration e.f i r'.now ∧ p'.out = false ∧ p.row < p'.row ∧
      ∀ k, Run.scatter e q i t base version oor xs (k + n) r p = Run.scatter e q i t base version oor xs k r' p' := by
  by_cases here : x.2.1.1 = t.shard.toNat
  · refine ⟨1, (r.applyNext e q i base x p).1, (r.applyNext e q i base x p).2, by decide, ?_, ho, Nat.lt_succ_self _,
      Run.scatter_here hx hb hm ho here⟩
    exact State.slotOver_trans (Run.applyRow_slotOver hm q.desc base _ _) (Run.keepProgress_slotOver _ e i _)
  · obtain ⟨q', hq⟩ := hq
    have out := State.slotOver_trans (Run.sendBatch_slotOver (q := q) hm base (batchFrom t base (x :: ys)))
      (Run.keepProgress_slotOver _ e i { p with out := true })
    have asked := Run.sendBatch_request? (q := q) (i := i) hq base (batchFrom t base (x :: ys)) { p with out := true }
    obtain ⟨hh, -⟩ := Furrow.request?_is _ _ _ _ asked
    obtain ⟨n, hn, first⟩ : ∃ n, n = (List.map (fun y => BitVec.ofNat 32 y.1) (batchFrom t base (x :: ys))).length ∧ 0 < n :=
      ⟨_, rfl, by rw [List.length_map]; exact batchFrom_length ht base x ys⟩
    refine ⟨2, (((r.sendBatch e q i base (batchFrom t base (x :: ys))).keepProgress e { p with out := true }).closeBatch e).keepProgress e
      (p.unanswered n), p.unanswered n, le_refl _, ?_, rfl, Nat.lt_add_of_pos_right first, fun k => ?_⟩
    · exact State.slotOver_trans out (State.slotOver_trans (Run.closeBatch_slotOver _ e i) (Run.keepProgress_slotOver _ e i _))
    · subst hn
      exact (Run.scatter_away hx hm ho here (k + 1)).trans
        (Run.scatter_back (p := { p with out := true }) hx rfl asked (by rw [out.below, hh, hbelow]) k)

end

section
variable {s : State} {e : Eng} {i : TableIx} {q : Request} {t : TableSlot} {base version oor : Nat}
  {xs : List (Nat × RowPlace × List FVal)}

/-- With nobody below, no migration and no uncorrectable data known a scatter-add comes to its end. -/
theorem Run.scatter_ends (hb : (s.furrow e.f).counts.bad = []) (hm : (s.furrow e.f).tbl[i].migration = none) (ht : t.migration = none)
    (hbelow : ((s.furrow e.f).below e.h).2 = []) (hq : ∃ q', (s.furrow e.f).request? e.h e.tag = some q') :
    ∀ (left k : Nat) (r : Run s₀) (p : Progress), s.slotOver TableSlot.migration e.f i r.now → p.out = false → xs.length - p.row ≤ left →
      2 * left + 1 ≤ k → ∃ (r' : Run s₀) (written rejected : Nat), s.slotOver TableSlot.migration e.f i r'.now ∧
        Run.scatter e q i t base version oor xs k r p = r'.endRounds e.f q (scatterEnding version written rejected oor) := by
  intro left
  induction left with
  | zero =>
    intro k r p st _ hleft hk
    obtain ⟨k, rfl⟩ : ∃ j, k = j + 1 := ⟨k - 1, by omega⟩
    exact ⟨r, _, _, st, Run.scatter_over (List.drop_eq_nil_iff.2 (by omega)) k⟩
  | succ left ih =>
    intro k r p st ho hleft hk
    cases hx : xs.drop p.row with
    | nil =>
      obtain ⟨k, rfl⟩ : ∃ j, k = j + 1 := ⟨k - 1, by omega⟩
      exact ⟨r, _, _, st, Run.scatter_over hx k⟩
    | cons x ys =>
      obtain ⟨n, r', p', hn, goes, ho', further, step⟩ := Run.scatter_goesOn (r := r) (i := i) (q := q) (base := base) (version := version)
        (oor := oor) hx (st.kept.clean hb) (st.kept.slot.trans hm) ht (by rw [st.below, hbelow]) (st.kept.request? hq) ho
      obtain ⟨k, rfl⟩ : ∃ j, k = j + n := ⟨k - n, by omega⟩
      rw [step]
      exact ih k r' p' (State.slotOver_trans st goes) ho' (by omega) (by omega)

end

section
variable {s : State} {f : FurrowIx} {h : Handle} {tag : Tag} {q : Request} {i : TableIx}

/-- The root's work on a scatter-add from its first row. -/
theorem Run.scatterAdd_ends (hb : (s.furrow f).counts.bad = []) (hreq : (s.furrow f).request? q.h q.tag = some q)
    (hbelow : ((s.furrow f).below q.h).2 = []) (h0 : q.stage = 0) (hm : (s.furrow f).tbl[i].migration = none) :
    ∃ (r : Run s) (written rejected oor : Nat), s.slotOver TableSlot.migration f i r.now ∧
      (Run.start s).scatterAdd (q.eng f) q i =
        r.endRounds f q (scatterEnding ((s.furrow f).tbl[i].held q.h q.tag).1 written rejected oor) := by
  have fresh : (Progress.of q.stage).out = false := by
    rw [h0]
    rfl
  have good : ∀ xs, ((Run.start s).fur (q.eng f).f).firstBad (q.eng f) xs = none := Furrow.firstBad_of_none_bad hb (q.eng f)
  unfold Run.scatterAdd
  simp only [good]
  obtain ⟨r, written, rejected, done, ends⟩ := Run.scatter_ends (e := q.eng f) (q := q) hb hm hm hbelow ⟨q, hreq⟩ _ _ (Run.start s)
    (Progress.of q.stage) (s.slotOver_refl f i) fresh (Nat.sub_le _ _) (Nat.le_succ _)
  exact ⟨r, written, rejected, _, done, ends⟩

theorem execTblScatterAdd_ends (hb : (s.furrow f).counts.bad = []) (hq : (s.furrow f).atWork h tag 0x71 = some q) (ho : q.origin = none)
    (hbelow : ((s.furrow f).below q.h).2 = []) (hi : df q.desc 36 1 = i.val) (h0 : q.stage = 0)
    (hm : (s.furrow f).tbl[i].migration = none) :
    ∃ t e, exec (.tblScatterAdd f h tag) s = .next t ∧ t.descriptorEnded f h tag e ∧ s.onlyFurrow f t ∧
      (e.status = Status.done ∨ e.status = Status.doneShort) ∧ e.result = BitVec.ofNat 64 ((s.furrow f).tbl[i].held h tag).1 := by
  obtain ⟨hreq, -⟩ := Furrow.atWork_is hq
  obtain ⟨rfl, rfl, -⟩ := Furrow.request?_is _ _ _ _ hreq
  obtain ⟨r, written, rejected, oor, done, ends⟩ := Run.scatterAdd_ends hb hreq hbelow h0 hm
  obtain ⟨ended, only⟩ := done.endRounds hreq (scatterEnding ((s.furrow f).tbl[i].held q.h q.tag).1 written rejected oor)
  refine ⟨_, _, ?_, ended, only, scatterEnding_status _ _ _ _, scatterEnding_result _ _ _ _⟩
  exact (congrArg Run.done (Run.tableDesc_root (r := Run.start s) hq ho hi)).trans (congrArg Run.done ends)

end
end Sys2Proof.Machine
end

section
namespace Sys2Proof.Machine

variable {s₀ : State}

/-! ### TBL_SWITCH (R296) -/

/-- The versions of a slot and the epoch of its latest row switch. -/
def TableSlot.versions (t : TableSlot) : W32 × BitVec 36 × W64 := (t.curVersion, t.curBase, t.routeEpoch)

section
variable {f : FurrowIx} {i : TableIx}

theorem Run.dropHeld_slotOver {γ : Type} {view : TableSlot → γ} (r : Run s₀) (f : FurrowIx) (i : TableIx) :
    r.now.slotOver view f i (r.dropHeld f i).now := by
  refine r.each_slotOver _ fun r q _ => ?_
  dsimp only
  split
  · split
    · exact r.modFur_slotOver (Furrow.modReq_slotKept (by intro q; exact ⟨rfl, rfl, rfl⟩) q.h q.tag)
    · exact r.now.slotOver_refl f i
  · exact r.now.slotOver_refl f i

/-- The request that asked for a migration ends, if there is one. -/
def Run.endOwner (r : Run s₀) (f : FurrowIx) (m : Migration) (e : Ending) : Run s₀ :=
  match m.owner with
  | none => r
  | some (h, tag) => match (r.fur f).request? h tag with
    | some q => r.endRounds f q e
    | none => r

theorem Run.endOwner_slotOver {γ : Type} {view : TableSlot → γ} (r : Run s₀) (f : FurrowIx) (i : TableIx) (m : Migration) (e : Ending) :
    r.now.slotOver view f i (r.endOwner f m e).now := by
  unfold Run.endOwner
  split
  · exact r.now.slotOver_refl f i
  · split
    · exact r.endRounds_slotOver f i _ e
    · exact r.now.slotOver_refl f i

/-- A slot's migration is dropped; what it asked the members for stays unanswered. -/
def Run.dropMigration (r : Run s₀) (f : FurrowIx) (i : TableIx) (m : Migration) : Run s₀ :=
  r.modFur f fun c => c.modTbl i fun t => { t with migration := none, stale := t.stale || m.asked }

theorem Run.abandon_of_none {r : Run s₀} (hm : (r.now.furrow f).tbl[i].migration = none) : r.abandon f i = r := by
  simp only [Run.abandon, Run.fur_eq, hm]

theorem Run.abandon_of_some {r : Run s₀} {m : Migration} (hm : (r.now.furrow f).tbl[i].migration = some m) :
    r.abandon f i = (r.dropMigration f i m).endOwner f m (migrateShort 4) := by
  simp only [Run.abandon, Run.fur_eq, hm, Run.endOwner]
  cases m.owner <;> rfl

/-- An abandoned migration leaves the versions as they were, and no migration. -/
theorem Run.abandon_slotOver (r : Run s₀) (f : FurrowIx) (i : TableIx) :
    r.now.slotOver TableSlot.versions f i (r.abandon f i).now ∧ ((r.abandon f i).now.furrow f).tbl[i].migration = none := by
  cases hm : (r.now.furrow f).tbl[i].migration with
  | none =>
    rw [Run.abandon_of_none hm]
    exact ⟨r.now.slotOver_refl f i, hm⟩
  | some m =>
    have dropped : r.now.slotOver TableSlot.versions f i (r.dropMigration f i m).now :=
      r.modFur_slotOver (Furrow.modTbl_slotKept fun _ => rfl)
    have none_left : ((r.dropMigration f i m).now.furrow f).tbl[i].migration = none := by
      rw [Run.dropMigration, Run.modFur_now, State.furrow_setFurrow_same, Furrow.modTbl_same]
    rw [Run.abandon_of_some hm]
    exact ⟨State.slotOver_trans dropped (Run.endOwner_slotOver _ f i m _),
      (Run.endOwner_slotOver (view := TableSlot.migration) _ f i m _).kept.slot.trans none_left⟩

end

/-- A TBL_SWITCH has come to a stage, with the answers to the one before it taken. -/
def Run.toStage (r : Run s₀) (e : Eng) (n : Nat) : Run s₀ :=
  r.modFur e.f fun c => c.modReq e.h e.tag fun q => { q.clear q.collKey with stage := n }

/-- A message of the root to every member's part. -/
def Run.tell (r : Run s₀) (e : Eng) (q : Request) (bs : List Byte) : Run s₀ := r.modFur e.f fun c => c.sendDown e.f q q.collKey bs

/-- The registers of a slot after the switch: a migration of the old version is abandoned, and the new version stands. -/
def Run.switched (r : Run s₀) (e : Eng) (i : TableIx) (base version : Nat) : Run s₀ :=
  ((r.dropHeld e.f i).abandon e.f i).modFur e.f fun c => c.modTbl i fun t => t.switchTo base version

/-- A root's part of a switch up to its registers: the new version's area is prepared, and the members' after it. -/
def Run.preparedAll (r : Run s₀) (e : Eng) (q : Request) (i : TableIx) (base version : Nat) : Run s₀ :=
  ((r.prepareArea e i base version).toStage e 1).tell e q [1]

section
variable {γ : Type} {view : TableSlot → γ} {e : Eng} {i : TableIx} {q : Request}

theorem Run.toStage_slotOver (r : Run s₀) (e : Eng) (i : TableIx) (n : Nat) : r.now.slotOver view e.f i (r.toStage e n).now :=
  r.modFur_slotOver (Furrow.modReq_slotKept (by intro q; exact ⟨rfl, rfl, rfl⟩) e.h e.tag)

theorem Run.tell_slotOver (r : Run s₀) (e : Eng) (i : TableIx) (q : Request) (bs : List Byte) :
    r.now.slotOver view e.f i (r.tell e q bs).now :=
  r.modFur_slotOver (Furrow.sendDown_slotKept e.f q q.collKey bs)

theorem Run.prepareArea_slotOver (r : Run s₀) (e : Eng) (i : TableIx) (base version : Nat) :
    r.now.slotOver view e.f i (r.prepareArea e i base version).now := by
  unfold Run.prepareArea
  exact State.slotOver_trans (r.store_slotOver e.f i e.h 0 2 base _) (Run.storeCells_slotOver _ e.f i e.h 0 2 _ _ [])

theorem Run.preparedAll_slotOver (r : Run s₀) (e : Eng) (q : Request) (i : TableIx) (base version : Nat) :
    r.now.slotOver view e.f i (r.preparedAll e q i base version).now :=
  State.slotOver_trans (r.prepareArea_slotOver e i base version)
    (State.slotOver_trans (Run.toStage_slotOver _ e i 1) (Run.tell_slotOver _ e i q [1]))

/-- A view of a table slot that sees nothing of it is kept by the switch. -/
theorem Run.switched_slotOver (r : Run s₀) (e : Eng) (i : TableIx) (base version : Nat) :
    r.now.slotOver TableSlot.unseen e.f i (r.switched e i base version).now := by
  obtain ⟨only, kept⟩ := ((r.dropHeld e.f i).abandon_slotOver e.f i).1
  have abandoned : (r.dropHeld e.f i).now.slotOver TableSlot.unseen e.f i ((r.dropHeld e.f i).abandon e.f i).now :=
    ⟨only, { kept with slot := TableSlot.unseen_eq _ _ }⟩
  exact State.slotOver_trans (State.slotOver_trans (r.dropHeld_slotOver e.f i) abandoned)
    (Run.modFur_slotOver _ (Furrow.modTbl_slotKept fun _ => TableSlot.unseen_eq _ _))

/-- The switch is of the versions as they stood, with no migration left. -/
theorem Run.switched_slot (r : Run s₀) (e : Eng) (i : TableIx) (base version : Nat) :
    ∃ t : TableSlot, t.versions = (r.now.furrow e.f).tbl[i].versions ∧ t.migration = none ∧
      ((r.switched e i base version).now.furrow e.f).tbl[i] = t.switchTo base version := by
  obtain ⟨abandoned, none_left⟩ := (r.dropHeld e.f i).abandon_slotOver e.f i
  refine ⟨_, (State.slotOver_trans (r.dropHeld_slotOver e.f i) abandoned).kept.slot, none_left, ?_⟩
  rw [Run.switched, Run.modFur_now, State.furrow_setFurrow_same, Furrow.modTbl_same]

/-- Where nobody is below, a switch without WAIT goes through its stages at once. -/
theorem Run.tblSwitch_runs {r : Run s₀} (hbelow : ((r.now.furrow e.f).below q.h).2 = []) (he : e.h = q.h) (h0 : q.stage = 0)
    (hw : (df q.desc 29 1).testBit 0 = false) :
    r.tblSwitch e q i =
      (((((r.preparedAll e q i (df q.desc 16 8) (df q.desc 24 4)).switched e i (df q.desc 16 8) (df q.desc 24 4)).toStage e 2).tell e q
        [2]).toStage e 3).endRounds e.f q (Ending.ok 0 (df q.desc 24 4)) := by
  have prepared := r.preparedAll_slotOver (view := TableSlot.unseen) e q i (df q.desc 16 8) (df q.desc 24 4)
  have told := State.slotOver_trans (State.slotOver_trans prepared (Run.switched_slotOver _ e i (df q.desc 16 8) (df q.desc 24 4)))
    (State.slotOver_trans (Run.toStage_slotOver _ e i 2) (Run.tell_slotOver _ e i q [2]))
  have first := prepared.piecesBelow hbelow
  have second := told.piecesBelow hbelow
  have alone : (((((r.preparedAll e q i (df q.desc 16 8) (df q.desc 24 4)).switched e i (df q.desc 16 8) (df q.desc 24 4)).toStage e 2).tell e
      q [2]).now.furrow e.f |>.below e.h).2.isEmpty = true := by
    rw [told.below, he, hbelow]
    rfl
  unfold Run.tblSwitch
  simp only [h0, hw, Bool.false_and, Bool.false_eq_true, if_false]
  unfold Run.preparedAll Run.switched Run.toStage Run.tell at *
  simp only [Run.fur_eq, first, second, alone, if_true]

end

section
variable {s : State} {f : FurrowIx} {h : Handle} {tag : Tag} {q : Request} {i : TableIx}

theorem execTblSwitch_ends (hq : (s.furrow f).atWork h tag 0x72 = some q) (ho : q.origin = none)
    (hbelow : ((s.furrow f).below q.h).2 = []) (hi : df q.desc 28 1 = i.val) (h0 : q.stage = 0)
    (hw : (df q.desc 29 1).testBit 0 = false) :
    ∃ t, exec (.tblSwitch f h tag) s = .next t ∧ t.descriptorEnded f h tag (Ending.ok 0 (df q.desc 24 4)) ∧ s.onlyFurrow f t ∧
      ∃ x : TableSlot, x.versions = (s.furrow f).tbl[i].versions ∧ x.migration = none ∧
        (t.furrow f).tbl[i] = x.switchTo (df q.desc 16 8) (df q.desc 24 4) := by
  obtain ⟨hreq, -⟩ := Furrow.atWork_is hq
  obtain ⟨rfl, rfl, -⟩ := Furrow.request?_is _ _ _ _ hreq
  have runs := Run.tblSwitch_runs (r := Run.start s) (e := q.eng f) (i := i) hbelow rfl h0 hw
  generalize hp : (Run.start s).preparedAll (q.eng f) q i (df q.desc 16 8) (df q.desc 24 4) = prepared at runs
  have prep : ∀ {γ : Type} {view : TableSlot → γ}, s.slotOver view f i prepared.now := by
    intro γ view
    rw [← hp]
    exact (Run.start s).preparedAll_slotOver (q.eng f) q i (df q.desc 16 8) (df q.desc 24 4)
  obtain ⟨x, versions, none_left, slot⟩ := prepared.switched_slot (q.eng f) i (df q.desc 16 8) (df q.desc 24 4)
  have switches := prepared.switched_slotOver (q.eng f) i (df q.desc 16 8) (df q.desc 24 4)
  generalize prepared.switched (q.eng f) i (df q.desc 16 8) (df q.desc 24 4) = switched at runs slot switches
  have rest : ∀ {γ : Type} {view : TableSlot → γ},
      switched.now.slotOver view f i (((switched.toStage (q.eng f) 2).tell (q.eng f) q [2]).toStage (q.eng f) 3).now := by
    intro γ view
    exact State.slotOver_trans (State.slotOver_trans (switched.toStage_slotOver (q.eng f) i 2) (Run.tell_slotOver _ (q.eng f) i q [2]))
      (Run.toStage_slotOver _ (q.eng f) i 3)
  obtain ⟨ended, only⟩ := (State.slotOver_trans (State.slotOver_trans prep switches) rest).endRounds hreq (Ending.ok 0 (df q.desc 24 4))
  refine ⟨_, ?_, ended, only, x, versions.trans prep.kept.slot, none_left, ?_⟩
  · exact (congrArg Run.done (Run.tableDesc_root (r := Run.start s) hq ho hi)).trans (congrArg Run.done runs)
  · have still := State.slotOver_trans rest (Run.endRounds_slotOver (view := id) _ f i q (Ending.ok 0 (df q.desc 24 4)))
    exact still.kept.slot.trans slot

/-! ### TBL_MIGRATE (R302) -/

theorem Run.unstale_of_current {r : Run s₀} (hs : (r.now.furrow f).tbl[i].stale = false) : r.unstale f i = r := by
  simp only [Run.unstale, Run.fur_eq, hs, Bool.false_and, Bool.false_eq_true, if_false]

/-- A TBL_MIGRATE with no other migration of its table before it begins, or ends with what bars it. -/
def Run.migrateOrEnd (r : Run s₀) (f : FurrowIx) (q : Request) (i : TableIx) : Run s₀ :=
  match r.migrateBar f (r.now.furrow f).tbl[i] (df q.desc 16 4) (df q.desc 20 2) with
  | .error n => r.endRounds f q (migrateShort n)
  | .ok x => r.migrateBegin f i (df q.desc 16 4) (df q.desc 20 2) (some (q.h, q.tag)) x

theorem Run.tblMigrate_waits {r : Run s₀} (hm : (r.now.furrow f).tbl[i].migration ≠ none) (hs : (r.now.furrow f).tbl[i].stale = false) :
    r.tblMigrate (q.eng f) q i = r := by
  have busy : ((r.now.furrow (q.eng f).f).tbl[i].migration.isSome || (r.now.furrow (q.eng f).f).tbl[i].stale) = true := by
    rw [Bool.or_eq_true]
    exact .inl (Option.isSome_iff_ne_none.2 hm)
  unfold Run.tblMigrate
  rw [Run.unstale_of_current (f := (q.eng f).f) hs]
  simp only [Run.fur_eq, busy, if_true]

theorem Run.tblMigrate_due {r : Run s₀} (hb : (r.now.furrow f).counts.bad = []) (hm : (r.now.furrow f).tbl[i].migration = none)
    (hs : (r.now.furrow f).tbl[i].stale = false) : r.tblMigrate (q.eng f) q i = r.migrateOrEnd f q i := by
  have free : ((r.now.furrow (q.eng f).f).tbl[i].migration.isSome || (r.now.furrow (q.eng f).f).tbl[i].stale) = false := by
    rw [Bool.or_eq_false_iff]
    exact ⟨congrArg Option.isSome hm, hs⟩
  have good : ∀ xs, (r.now.furrow (q.eng f).f).firstBad (q.eng f) xs = none := Furrow.firstBad_of_none_bad hb (q.eng f)
  unfold Run.tblMigrate
  rw [Run.unstale_of_current (f := (q.eng f).f) hs]
  simp only [Run.fur_eq, free, good, Bool.false_eq_true, if_false]
  rfl

section
variable (hq : (s.furrow f).atWork h tag 0x73 = some q) (ho : q.origin = none) (hi : df q.desc 22 1 = i.val)
  (hs : (s.furrow f).tbl[i].stale = false)
include hq ho hi hs

theorem execTblMigrate_waits (hm : (s.furrow f).tbl[i].migration ≠ none) : exec (.tblMigrate f h tag) s = .next s :=
  (congrArg Run.done (Run.tableDesc_root (r := Run.start s) hq ho hi)).trans
    (congrArg Run.done (Run.tblMigrate_waits (r := Run.start s) hm hs))

variable (hb : (s.furrow f).counts.bad = []) (hm : (s.furrow f).tbl[i].migration = none)
include hb hm

theorem execTblMigrate_due : exec (.tblMigrate f h tag) s = .next ((Run.start s).migrateOrEnd f q i).now :=
  (congrArg Run.done (Run.tableDesc_root (r := Run.start s) hq ho hi)).trans
    (congrArg Run.done (Run.tblMigrate_due (r := Run.start s) hb hm hs))

theorem execTblMigrate_begins {x : Nat × Nat × RouteEntry}
    (hx : (Run.start s).migrateBar f (s.furrow f).tbl[i] (df q.desc 16 4) (df q.desc 20 2) = .ok x) :
    exec (.tblMigrate f h tag) s =
      .next ((Run.start s).migrateBegin f i (df q.desc 16 4) (df q.desc 20 2) (some (h, tag)) x).now := by
  obtain ⟨hreq, -⟩ := Furrow.atWork_is hq
  obtain ⟨rfl, rfl, -⟩ := Furrow.request?_is _ _ _ _ hreq
  rw [execTblMigrate_due hq ho hi hs hb hm, Run.migrateOrEnd, Run.start_now, hx]

theorem execTblMigrate_barred (hbelow : ((s.furrow f).below q.h).2 = []) {n : Nat}
    (hx : (Run.start s).migrateBar f (s.furrow f).tbl[i] (df q.desc 16 4) (df q.desc 20 2) = .error n) :
    ∃ t, exec (.tblMigrate f h tag) s = .next t ∧ t.descriptorEnded f h tag (migrateShort n) ∧ s.onlyFurrow f t ∧ t.mems = s.mems := by
  obtain ⟨hreq, -⟩ := Furrow.atWork_is hq
  obtain ⟨rfl, rfl, -⟩ := Furrow.request?_is _ _ _ _ hreq
  obtain ⟨ended, only⟩ := (s.slotOver_refl (view := id) f i).endRounds (r := Run.start s) hreq (migrateShort n)
  refine ⟨_, ?_, ended, only, ?_⟩
  · rw [execTblMigrate_due hq ho hi hs hb hm, Run.migrateOrEnd, Run.start_now, hx]
  · rw [Run.endRounds_of_none_below (r := Run.start s) hbelow, Run.engineEnds_mems, Run.start_now]

end
end
end Sys2Proof.Machine
end

section
namespace Sys2Proof.Machine

variable {s₀ : State}

/-! ### The life of a table slot (R295, R296, R302) -/

/-- A slot as its enable puts it into service, with what its route table holds (R295, R302). -/
def TableSlot.inService (x : TableSlot) (guests : List (Nat × Nat × Option Nat)) (epoch : Nat) : TableSlot :=
  { x with
    error := 0, enable := true, state := .serving, guests := guests, routeEpoch := BitVec.ofNat 64 epoch, migrations := 0
    migration := none, window := [] }

/-! #### TBL_ENABLE -/

/-- A furrow that has recorded, for a slot's owner, uncorrectable data in a piece. -/
def Furrow.recordUnread (c : Furrow) (h : Handle) (p : Space × Nat × Nat) : Furrow :=
  match c.badIn p with
  | some (b, at_) => c.raise (ueRecord b at_ h 0xFFFFFFFF 0) []
  | none => c

theorem Furrow.recordUnread_tbl (c : Furrow) (h : Handle) (p : Space × Nat × Nat) : (c.recordUnread h p).tbl = c.tbl := by
  unfold Furrow.recordUnread
  split
  · exact congrArg Prod.fst (c.raise_ledger _ [])
  · rfl

section
variable {f : FurrowIx} {i : TableIx} {s : State}

theorem execTblEnable_void (h : (s.furrow f).tbl[i].state ≠ .idle ∨ s.reaches f 0x180000 = false) : exec (.tblEnable f i) s = .next s := by
  show execTblEnable f i s = _
  unfold execTblEnable
  exact congrArg Run.done (if_pos (h.imp_right fun hr => by simp [hr]))

section
variable (hi : (s.furrow f).tbl[i].state = .idle) (hr : s.reaches f 0x180000 = true)
include hi hr

theorem tblEnable_due : ¬((s.furrow f).tbl[i].state ≠ .idle ∨ (!s.reaches f 0x180000) = true) :=
  not_or.2 ⟨not_not.2 hi, by simp [hr]⟩

theorem execTblEnable_serves (h0 : (Run.start s).tableError f i = 0) {y : Run s × List (Nat × Nat × Option Nat) × Nat}
    (hy : (Run.start s).readRoutes f (s.furrow f).tbl[i] ((s.furrow f).memberTable? i) = y) :
    exec (.tblEnable f i) s = .next (y.1.modFur f fun c => c.modTbl i fun t => t.inService y.2.1 y.2.2).now := by
  show execTblEnable f i s = _
  unfold execTblEnable
  simp only [if_neg (tblEnable_due hi hr), h0, hy]
  rfl

/-- An enable that fails a check shows its code, in a furrow that has at most an error record more. -/
theorem execTblEnable_fails (h0 : (Run.start s).tableError f i ≠ 0) :
    ∃ d : Furrow, d.tbl = (s.furrow f).tbl ∧ exec (.tblEnable f i) s = .next (s.setFurrow f (d.modTbl i fun t =>
      { t with error := (Run.start s).tableError f i, enable := false })) := by
  show ∃ d : Furrow, _ ∧ execTblEnable f i s = _
  unfold execTblEnable
  simp only [if_neg (tblEnable_due hi hr)]
  generalize (Run.start s).tableError f i = code at h0
  split
  · exact absurd rfl h0
  · split
    · split
      · rename_i p _ _
        refine ⟨(s.furrow f).recordUnread (s.furrow f).tbl[i].handle p, Furrow.recordUnread_tbl _ _ p, ?_⟩
        simp only [Run.done, Run.modFur_now, State.setFurrow_setFurrow, State.furrow_setFurrow_same]
        rfl
      · exact ⟨s.furrow f, rfl, rfl⟩
    · exact ⟨s.furrow f, rfl, rfl⟩

theorem execTblEnable_shows (h0 : (Run.start s).tableError f i ≠ 0) :
    ∃ t, exec (.tblEnable f i) s = .next t ∧ s.onlyFurrow f t ∧ t.mems = s.mems ∧
      (t.furrow f).tbl[i] = { (s.furrow f).tbl[i] with error := (Run.start s).tableError f i, enable := false } := by
  obtain ⟨d, tbl, fails⟩ := execTblEnable_fails hi hr h0
  refine ⟨_, fails, State.onlyFurrow_setFurrow s f _, rfl, ?_⟩
  rw [State.furrow_setFurrow_same, Furrow.modTbl_same, tbl]

end

/-! #### TBL_DRAIN -/

theorem execTblDrain_void (h : (s.furrow f).tbl[i].state = .idle ∨ (s.furrow f).tbl[i].state = .serving ∧ s.reaches f 0x180000 = false) :
    exec (.tblDrain f i) s = .next s := by
  show execTblDrain f i s = _
  unfold execTblDrain
  exact congrArg Run.done (if_pos (h.imp_right fun x => ⟨x.1, by simp [x.2]⟩))

/-- Nothing uses a slot: no request holds a version of it, and none is at work on it. -/
def Furrow.tableFree (c : Furrow) (i : TableIx) : Bool := c.tbl[i].holds.isEmpty && (c.tableUsers i).isEmpty

theorem Furrow.tableFree_iff (c : Furrow) (i : TableIx) : c.tableFree i = true ↔ c.tbl[i].holds = [] ∧ c.tableUsers i = [] := by
  simp [Furrow.tableFree]

/-- A slot that drains is IDLE once nothing uses it. -/
def Run.idleTable (r : Run s₀) (f : FurrowIx) (i : TableIx) : Run s₀ :=
  if (r.now.furrow f).tableFree i then r.modFur f fun c => c.modTbl i fun t => { t with state := .idle } else r

theorem Furrow.modTbl_modTbl (c : Furrow) (i : TableIx) (g k : TableSlot → TableSlot) : (c.modTbl i g).modTbl i k = c.modTbl i fun t => k (g t) := by
  rw [Furrow.modTbl, Furrow.modTbl_same]
  simp [Furrow.modTbl]

/-- Which requests use a slot hangs on its owner alone. -/
theorem Furrow.tableFree_modTbl (c : Furrow) (i : TableIx) {g : TableSlot → TableSlot} (owner : (g c.tbl[i]).owner = c.tbl[i].owner)
    (holds : (g c.tbl[i]).holds = c.tbl[i].holds) : (c.modTbl i g).tableFree i = c.tableFree i := by
  unfold Furrow.tableFree Furrow.tableUsers TableSlot.handle
  rw [Furrow.modTbl_same, owner, holds]
  rfl

theorem Run.idleTable_of_free {r : Run s₀} (hf : (r.now.furrow f).tableFree i = true) :
    r.idleTable f i = r.modFur f fun c => c.modTbl i fun t => { t with state := .idle } := if_pos hf

theorem Run.idleTable_of_used {r : Run s₀} (hf : ¬(r.now.furrow f).tableFree i = true) : r.idleTable f i = r := if_neg hf

theorem Furrow.tableFree_eq_false {c : Furrow} {i : TableIx} (hu : c.tbl[i].holds ≠ [] ∨ c.tableUsers i ≠ []) : ¬c.tableFree i = true := by
  rw [Furrow.tableFree_iff]
  exact not_and_or.2 hu

theorem execTblDrain_draining (hd : (s.furrow f).tbl[i].state = .draining) :
    exec (.tblDrain f i) s = .next ((Run.start s).idleTable f i).now := by
  have due : ¬((s.furrow f).tbl[i].state = .idle ∨ (s.furrow f).tbl[i].state = .serving ∧ (!s.reaches f 0x180000) = true) := by
    rw [hd]
    simp
  have drains : ¬(s.furrow f).tbl[i].state = .serving := by
    rw [hd]
    decide
  show execTblDrain f i s = _
  unfold execTblDrain
  simp only [if_neg due, if_neg drains]
  rfl

section
variable (hd : (s.furrow f).tbl[i].state = .draining)
include hd

theorem execTblDrain_over (hf : (s.furrow f).tbl[i].holds = [] ∧ (s.furrow f).tableUsers i = []) :
    exec (.tblDrain f i) s = .next (s.setFurrow f ((s.furrow f).modTbl i fun t => { t with state := .idle })) := by
  rw [execTblDrain_draining hd, Run.idleTable_of_free (r := Run.start s) ((Furrow.tableFree_iff _ i).2 hf)]
  rfl

theorem execTblDrain_waits (hu : (s.furrow f).tbl[i].holds ≠ [] ∨ (s.furrow f).tableUsers i ≠ []) : exec (.tblDrain f i) s = .next s := by
  rw [execTblDrain_draining hd, Run.idleTable_of_used (r := Run.start s) (Furrow.tableFree_eq_false hu), Run.start_now]

end

/-- A furrow whose slot takes no more descriptors. -/
def Furrow.closeTable (c : Furrow) (i : TableIx) : Furrow := c.modTbl i fun t => { t with state := .draining, enable := false }

section
variable (hs : (s.furrow f).tbl[i].state = .serving) (hr : s.reaches f 0x180000 = true) (hm : (s.furrow f).tbl[i].migration = none)
include hs hr hm

theorem execTblDrain_serving :
    exec (.tblDrain f i) s = .next (((Run.start s).modFur f fun c => c.closeTable i).idleTable f i).now := by
  have due : ¬((s.furrow f).tbl[i].state = .idle ∨ (s.furrow f).tbl[i].state = .serving ∧ (!s.reaches f 0x180000) = true) := by
    rw [hs, hr]
    simp
  have no_row : (((Run.start s).modFur f fun c => c.modTbl i fun t => { t with state := .draining, enable := false }).now.furrow f).tbl[i].migration =
      none := by
    rw [Run.modFur_now, State.furrow_setFurrow_same, Furrow.modTbl_same]
    exact hm
  show execTblDrain f i s = _
  unfold execTblDrain
  simp only [if_neg due, if_pos hs, Run.abandon_of_none no_row]
  rfl

omit hs hr hm in
/-- The requests that use a slot use it still when it is closed. -/
theorem Furrow.tableFree_closeTable : (((Run.start s).modFur f fun c => c.closeTable i).now.furrow f).tableFree i = (s.furrow f).tableFree i := by
  rw [Run.modFur_now, State.furrow_setFurrow_same]
  exact Furrow.tableFree_modTbl _ i rfl rfl

theorem execTblDrain_idles (hf : (s.furrow f).tbl[i].holds = [] ∧ (s.furrow f).tableUsers i = []) :
    exec (.tblDrain f i) s = .next (s.setFurrow f ((s.furrow f).modTbl i fun t => { t with state := .idle, enable := false })) := by
  rw [execTblDrain_serving hs hr hm, Run.idleTable_of_free (Furrow.tableFree_closeTable.trans ((Furrow.tableFree_iff _ i).2 hf)), Run.modFur_now,
    Run.modFur_now, State.furrow_setFurrow_same, State.setFurrow_setFurrow, Furrow.closeTable, Furrow.modTbl_modTbl]
  rfl

theorem execTblDrain_drains (hu : (s.furrow f).tbl[i].holds ≠ [] ∨ (s.furrow f).tableUsers i ≠ []) :
    exec (.tblDrain f i) s = .next (s.setFurrow f ((s.furrow f).modTbl i fun t => { t with state := .draining, enable := false })) := by
  rw [execTblDrain_serving hs hr hm, Run.idleTable_of_used (by rw [Furrow.tableFree_closeTable]; exact Furrow.tableFree_eq_false hu)]
  rfl

end

/-! #### TBL_VERSION_RECLAIM and TBL_MIGRATION_SWITCH -/

section
variable (hs : (s.furrow f).tbl[i].stale = false)
include hs

theorem execTblVersionReclaim_drained (hd : (s.furrow f).tbl[i].oldDraining = true) (h0 : (s.furrow f).tbl[i].oldRefs = 0) :
    exec (.tblVersionReclaim f i) s = .next (s.setFurrow f ((s.furrow f).modTbl i fun t => { t with oldDraining := false })) := by
  show execTblVersionReclaim f i s = _
  unfold execTblVersionReclaim
  rw [Run.unstale_of_current (r := Run.start s) hs, Run.done_next, Run.modFur_now, Run.start_now, if_pos ⟨hd, h0, by rw [hs]; rfl⟩]

theorem execTblVersionReclaim_void (hn : (s.furrow f).tbl[i].oldDraining = false ∨ (s.furrow f).tbl[i].oldRefs ≠ 0) :
    exec (.tblVersionReclaim f i) s = .next s := by
  have kept : ¬((s.furrow f).tbl[i].oldDraining = true ∧ (s.furrow f).tbl[i].oldRefs = 0 ∧ (!(s.furrow f).tbl[i].stale) = true) := by
    rintro ⟨hd, h0, -⟩
    exact hn.elim (fun h => Bool.false_ne_true (h.symm.trans hd)) fun h => h h0
  show execTblVersionReclaim f i s = _
  unfold execTblVersionReclaim
  rw [Run.unstale_of_current (r := Run.start s) hs, Run.done_next, Run.modFur_now, Run.start_now, if_neg kept, State.setFurrow_self]

end

theorem Run.migrate_of_none {r : Run s₀} (hm : (r.now.furrow f).tbl[i].migration = none) (hold : Bool) (k : Nat) :
    Run.migrate f i hold k r = r := by
  cases k with
  | zero => rfl
  | succ k => simp only [Run.migrate, Run.fur_eq, hm]

theorem execTblMigrationSwitch_member (hc : (s.furrow f).ctx[(s.furrow f).tbl[i].handle].role = .member) :
    exec (.tblMigrationSwitch f i) s = .next ((Run.start s).migrateServe f i).now := by
  show execTblMigrationSwitch f i s = _
  exact congrArg Run.done (if_pos hc)

section
variable (hc : (s.furrow f).ctx[(s.furrow f).tbl[i].handle].role ≠ .member)
include hc

theorem execTblMigrationSwitch_root (hs : (s.furrow f).tbl[i].state = .serving) :
    exec (.tblMigrationSwitch f i) s = .next (Run.migrate f i true 8 (Run.start s)).now := by
  show execTblMigrationSwitch f i s = _
  exact congrArg Run.done ((if_neg hc).trans (if_pos hs))

theorem execTblMigrationSwitch_void (hn : (s.furrow f).tbl[i].state ≠ .serving ∨ (s.furrow f).tbl[i].migration = none) :
    exec (.tblMigrationSwitch f i) s = .next s := by
  by_cases hs : (s.furrow f).tbl[i].state = .serving
  · have hm : (s.furrow f).tbl[i].migration = none := hn.resolve_left (not_not.2 hs)
    rw [execTblMigrationSwitch_root hc hs, Run.migrate_of_none (r := Run.start s) hm, Run.start_now]
  · show execTblMigrationSwitch f i s = _
    exact congrArg Run.done ((if_neg hc).trans (if_neg hs))

end
end
end Sys2Proof.Machine
end

section
namespace Sys2Proof.Machine

variable {s₀ : State}

/-! ### What a migration leaves of the slots (R302) -/

/-- A view of a table slot that its migration, its epoch and its guests have no part in. -/
def BesideMigration {γ : Type} (view : TableSlot → γ) : Prop :=
  ∀ (t : TableSlot) (m : Option Migration) (stale : Bool) (epoch : W64) (n : W32) (guests : List (Nat × Nat × Option Nat)),
    view { t with migration := m, stale := stale, routeEpoch := epoch, migrations := n, guests := guests } = view t

theorem Request.clear_keepsName (key : Nat) : KeepsName fun q => q.clear key := fun _ => ⟨rfl, rfl, rfl⟩

section
variable {γ : Type} {view : TableSlot → γ} (hv : BesideMigration view)
include hv

theorem Furrow.setMigration_slotKept (c : Furrow) (k i : TableIx) (g : TableSlot → Option Migration) :
    c.slotKept view i (c.modTbl k fun t => { t with migration := g t }) :=
  Furrow.modTbl_slotKept fun _ => hv c.tbl[i] _ _ _ _ _

theorem Run.setMigration_slotOver (r : Run s₀) (f : FurrowIx) (k i : TableIx) (g : TableSlot → Option Migration) :
    r.now.slotOver view f i (r.modFur f fun c => c.modTbl k fun t => { t with migration := g t }).now :=
  r.modFur_slotOver (Furrow.setMigration_slotKept hv _ k i g)

theorem Run.unstale_slotOver (r : Run s₀) (f : FurrowIx) (k i : TableIx) : r.now.slotOver view f i (r.unstale f k).now := by
  unfold Run.unstale
  dsimp only
  split
  · exact r.modFur_slotOver (Furrow.slotKept_trans (Furrow.modBox_slotKept (Request.clear_keepsName _) _)
      (Furrow.modTbl_slotKept fun _ => hv _ _ _ _ _ _))
  · exact r.now.slotOver_refl f i

omit hv in
theorem Run.migrateHere_slotOver (r : Run s₀) (f : FurrowIx) (k i : TableIx) (bs : List Byte) :
    r.now.slotOver view f i (r.migrateHere f k bs).1.now := by
  unfold Run.migrateHere
  dsimp only
  split
  · exact r.now.slotOver_refl f i
  · split
    · split
      · exact r.readFault_slotOver ⟨f, _, _, _, _⟩ i _
      · exact r.now.slotOver_refl f i
    · exact r.store_slotOver f i _ _ _ _ _

/-- A migration's messages to the members below and their answers are kept in mailboxes. -/
theorem Run.migrateAt_slotOver (r : Run s₀) (f : FurrowIx) (k i : TableIx) (m : Migration) (bs : List Byte) :
    r.now.slotOver view f i (r.migrateAt f k m bs).1.now := by
  unfold Run.migrateAt
  dsimp only
  generalize hr : (if fieldAt bs 0 1 = 1 ∧ (!m.asked) = true then r.modFur f fun c => c.modTbl k fun t =>
      { t with migration := t.migration.map fun m => { m with dirty := c.routed k m.row.toNat } } else r) = r'
  have begun : r.now.slotOver view f i r'.now := by
    rw [← hr]
    split
    · exact r.setMigration_slotOver hv f k i _
    · exact r.now.slotOver_refl f i
  split
  · exact State.slotOver_trans begun (r'.migrateHere_slotOver f k i bs)
  · split
    · refine State.slotOver_trans begun (State.slotOver_trans (r'.modFur_slotOver ?_) (Run.setMigration_slotOver hv _ f k i _))
      exact Furrow.slotKept_trans (Furrow.openBox_slotKept _) (Furrow.sendDown_slotKept f _ _ bs)
    · split
      · exact begun
      · refine State.slotOver_trans begun (State.slotOver_trans (r'.setMigration_slotOver hv f k i _) (Run.modFur_slotOver _ ?_))
        exact Furrow.modBox_slotKept (Request.clear_keepsName _) _

omit hv in
theorem Run.migrateEnds_eq (r : Run s₀) (f : FurrowIx) (k : TableIx) (m : Migration) (e : Ending) :
    r.migrateEnds f k m e = (r.modFur f fun c => c.modTbl k fun t => { t with migration := none }).endOwner f m e := rfl

theorem Run.migrateEnds_slotOver (r : Run s₀) (f : FurrowIx) (k i : TableIx) (m : Migration) (e : Ending) :
    r.now.slotOver view f i (r.migrateEnds f k m e).now := by
  rw [Run.migrateEnds_eq]
  exact State.slotOver_trans (r.setMigration_slotOver hv f k i fun _ => none) (Run.endOwner_slotOver _ f i m e)

theorem Run.migrateSwitch_slotOver (r : Run s₀) (f : FurrowIx) (k i : TableIx) (m : Migration) :
    r.now.slotOver view f i (r.migrateSwitch f k m).now := by
  unfold Run.migrateSwitch
  dsimp only
  split
  · exact r.migrateEnds_slotOver hv f k i m _
  · refine State.slotOver_trans (State.slotOver_trans (r.store_slotOver f i _ _ _ _ _) (Run.modFur_slotOver _ ?_))
      (Run.migrateEnds_slotOver hv _ f k i m _)
    exact Furrow.modTbl_slotKept fun _ => hv _ _ _ _ _ _

omit hv in
/-- What a migration does with a row that it has asked for. -/
theorem Run.afterRead_slotOver {r : Run s₀} {f : FurrowIx} {i : TableIx} {x : Run s₀ × Option (Except W64 (List Byte))}
    (asked : r.now.slotOver view f i x.1.now) {fails : Run s₀ → W64 → Run s₀} {goes : Run s₀ → List Byte → Run s₀}
    (hf : ∀ (r : Run s₀) d, r.now.slotOver view f i (fails r d).now) (hg : ∀ (r : Run s₀) bs, r.now.slotOver view f i (goes r bs).now) :
    r.now.slotOver view f i (match x with
      | (r, none) => r
      | (r, some (.error d)) => fails r d
      | (r, some (.ok bs)) => goes r bs).now := by
  obtain ⟨r', _ | d | bs⟩ := x
  · exact asked
  · exact State.slotOver_trans asked (hf r' d)
  · exact State.slotOver_trans asked (hg r' bs)

omit hv in
/-- What a migration does once a row has been written. -/
theorem Run.afterWrite_slotOver {r : Run s₀} {f : FurrowIx} {i : TableIx} {x : Run s₀ × Option (Except W64 (List Byte))}
    (asked : r.now.slotOver view f i x.1.now) {goes : Run s₀ → Run s₀} (hg : ∀ r : Run s₀, r.now.slotOver view f i (goes r).now) :
    r.now.slotOver view f i (match x with
      | (r, none) => r
      | (r, some _) => goes r).now := by
  obtain ⟨r', _ | a⟩ := x
  · exact asked
  · exact State.slotOver_trans asked (hg r')

theorem Run.migrate_slotOver (f : FurrowIx) (k i : TableIx) (hold : Bool) (n : Nat) (r : Run s₀) :
    r.now.slotOver view f i (Run.migrate f k hold n r).now := by
  induction n generalizing r with
  | zero => exact r.now.slotOver_refl f i
  | succ n ih =>
    have goesOn : ∀ (r : Run s₀) (g : TableSlot → Option Migration), r.now.slotOver view f i
        (Run.migrate f k hold n (r.modFur f fun c => c.modTbl k fun t => { t with migration := g t })).now := fun r g =>
      State.slotOver_trans (r.setMigration_slotOver hv f k i g) (ih _)
    have asks := r.migrateAt_slotOver hv f k i
    have switches : ∀ (r : Run s₀) m, r.now.slotOver view f i (r.migrateSwitch f k m).now := fun r m => r.migrateSwitch_slotOver hv f k i m
    unfold Run.migrate
    dsimp only
    split
    · exact r.now.slotOver_refl f i
    · rename_i m _
      split
      · exact r.now.slotOver_refl f i
      · cases m.stage with
        | reading => exact Run.afterRead_slotOver (asks _ _) (fun r d => r.migrateEnds_slotOver hv f k i m _) fun r bs => goesOn r _
        | writing => exact Run.afterWrite_slotOver (asks _ _) fun r => goesOn r _
        | copied =>
          dsimp only
          split
          · exact goesOn r _
          · exact r.now.slotOver_refl f i
        | rereading =>
          dsimp only
          split
          · exact r.now.slotOver_refl f i
          · split
            · exact Run.afterRead_slotOver (asks _ _) (fun r d => r.migrateEnds_slotOver hv f k i m _) fun r bs => goesOn r _
            · exact switches r m
        | rewriting => exact Run.afterWrite_slotOver (asks _ _) fun r => switches r m

theorem Run.migrateBegin_slotOver (r : Run s₀) (f : FurrowIx) (k i : TableIx) (row target : Nat) (owner : Option (Handle × Tag))
    (x : Nat × Nat × RouteEntry) : r.now.slotOver view f i (r.migrateBegin f k row target owner x).now :=
  State.slotOver_trans (State.slotOver_trans (r.store_slotOver f i _ _ _ _ _) (Run.setMigration_slotOver hv _ f k i fun _ => _))
    (Run.migrate_slotOver hv f k i false 8 _)

end
end Sys2Proof.Machine
end

section
namespace Sys2Proof.Machine

variable {s₀ : State}

/-! ### TBL_LOAD_WINDOW (R301) -/

/-- What a slot's report rests on, and what it has published. -/
def TableSlot.load (t : TableSlot) : SlotState × W16 × List (Nat × Nat) × W32 := (t.state, t.shard, t.window, t.reads)

theorem TableSlot.load_besideMigration : BesideMigration TableSlot.load := fun _ _ _ _ _ _ => rfl

theorem TableSlot.unseen_besideMigration : BesideMigration TableSlot.unseen := fun _ _ _ _ _ _ => TableSlot.unseen_eq _ _

/-- A report hangs on the shard and the window. -/
theorem TableSlot.report_of_load {t u : TableSlot} (hl : t.load = u.load) : t.report = u.report := by
  obtain ⟨-, rest⟩ := Prod.mk.inj hl
  obtain ⟨shard, rest⟩ := Prod.mk.inj rest
  obtain ⟨window, -⟩ := Prod.mk.inj rest
  rw [TableSlot.report, TableSlot.report, shard, window]

theorem TableSlot.reads_of_load {t u : TableSlot} (hl : t.load = u.load) : t.reads = u.reads :=
  congrArg (fun x : SlotState × W16 × List (Nat × Nat) × W32 => x.2.2.2) hl

/-- A window of a slot is published and begins anew. -/
def Run.publish (r : Run s₀) (f : FurrowIx) (k : TableIx) : Run s₀ :=
  r.modFur f fun c => c.modTbl k fun t => { t with reads := BitVec.ofNat 32 (r.fur f).tbl[k].report.2.1, window := [] }

section
variable {γ : Type} {view : TableSlot → γ} {f : FurrowIx} {k i : TableIx}

theorem Run.tableWindow_of_idle {r : Run s₀} (hi : (r.now.furrow f).tbl[k].state = .idle) : r.tableWindow f k = r := if_pos hi

/-- What comes after a slot's report is a message or a migration. -/
theorem Run.tableWindow_slotOver (hv : BesideMigration view) {r : Run s₀} (hk : (r.now.furrow f).tbl[k].state ≠ .idle) :
    (r.publish f k).now.slotOver view f i (r.tableWindow f k).now := by
  unfold Run.tableWindow Run.publish
  dsimp only
  rw [if_neg (show ¬(r.fur f).tbl[k].state = .idle from hk)]
  generalize (r.modFur f fun c => c.modTbl k fun t => { t with reads := BitVec.ofNat 32 (r.fur f).tbl[k].report.2.1, window := [] }) = r'
  split
  · split
    · exact r'.modFur_slotOver (Furrow.sendColl_slotKept f _ _ _ _ _ _)
    · exact r'.now.slotOver_refl f i
  · have current := r'.unstale_slotOver hv f k i
    split
    · split
      · exact current
      · split
        · exact current
        · split
          · exact State.slotOver_trans current (Run.migrateBegin_slotOver hv _ f k i _ _ none _)
          · exact current
    · exact current

/-- The window of one slot is of no account for another. -/
theorem Run.tableWindow_other (hv : BesideMigration view) (hk : k = i → ∀ t u : TableSlot, view t = view u) (r : Run s₀) :
    r.now.slotOver view f i (r.tableWindow f k).now := by
  by_cases hs : (r.now.furrow f).tbl[k].state = .idle
  · rw [Run.tableWindow_of_idle hs]
    exact r.now.slotOver_refl f i
  · exact State.slotOver_trans (r.modFur_slotOver (Furrow.modTbl_slotKept fun e => hk e _ _)) (Run.tableWindow_slotOver hv hs)

/-- A slot in use shows the reads of the window that its turn ends. -/
theorem Run.tableWindow_reads {r : Run s₀} (hk : (r.now.furrow f).tbl[k].state ≠ .idle) :
    ((r.tableWindow f k).now.furrow f).tbl[k].reads = BitVec.ofNat 32 (r.now.furrow f).tbl[k].report.2.1 := by
  have rest := (Run.tableWindow_slotOver (i := k) TableSlot.load_besideMigration hk).kept.slot
  have published : ((r.publish f k).now.furrow f).tbl[k].reads = BitVec.ofNat 32 (r.now.furrow f).tbl[k].report.2.1 := by
    rw [Run.publish, Run.modFur_now, State.furrow_setFurrow_same, Furrow.modTbl_same]
    rfl
  exact (TableSlot.reads_of_load rest).trans published

/-- The windows of every slot, one after another. -/
def Run.tableWindows (r : Run s₀) (f : FurrowIx) (ks : List TableIx) : Run s₀ := r.each ks fun r k => r.tableWindow f k

theorem Run.tableWindows_unseen (r : Run s₀) (f : FurrowIx) (i : TableIx) (ks : List TableIx) :
    r.now.slotOver TableSlot.unseen f i (r.tableWindows f ks).now :=
  r.each_slotOver ks fun r _ _ => Run.tableWindow_other TableSlot.unseen_besideMigration (fun _ => TableSlot.unseen_eq) r

theorem Run.tableWindows_others (r : Run s₀) (f : FurrowIx) {i : TableIx} {ks : List TableIx} (hi : i ∉ ks) :
    r.now.slotOver TableSlot.load f i (r.tableWindows f ks).now :=
  r.each_slotOver ks fun r _ hk => Run.tableWindow_other TableSlot.load_besideMigration (fun e => absurd (e ▸ hk) hi) r

/-- Each slot's turn is its own: before it the slot's window is as it was, and after it what the slot shows. -/
theorem Run.tableWindows_reads {r : Run s₀} (hk : (r.now.furrow f).tbl[i].state ≠ .idle) :
    ((r.tableWindows f (List.finRange 16)).now.furrow f).tbl[i].reads = BitVec.ofNat 32 (r.now.furrow f).tbl[i].report.2.1 := by
  obtain ⟨before, after, turns⟩ := List.append_of_mem (List.mem_finRange i)
  have once := List.nodup_finRange 16
  rw [turns] at once ⊢
  obtain ⟨-, once, apart⟩ := List.nodup_append.1 once
  have hbefore : i ∉ before := fun h => apart i h i List.mem_cons_self rfl
  have hafter : i ∉ after := (List.nodup_cons.1 once).1
  have inTurn : r.tableWindows f (before ++ i :: after) = (((r.tableWindows f before).tableWindow f i).tableWindows f after) := by
    unfold Run.tableWindows Run.each
    rw [List.foldl_append, List.foldl_cons]
  have early := (r.tableWindows_others f hbefore).kept.slot
  have late := (((r.tableWindows f before).tableWindow f i).tableWindows_others f hafter).kept.slot
  have inUse : ((r.tableWindows f before).now.furrow f).tbl[i].state ≠ .idle := fun h => hk ((congrArg Prod.fst early).symm.trans h)
  rw [inTurn, TableSlot.reads_of_load late, ← TableSlot.report_of_load early]
  exact Run.tableWindow_reads inUse

end

section
variable {s : State} {f : FurrowIx} {i : TableIx}

theorem execTblLoadWindow_void (hn : (s.furrow f).ns.toNat / 10000000 ≤ (s.furrow f).lastWindow.toNat / 10000000) :
    exec (.tblLoadWindow f) s = .next s := by
  show execTblLoadWindow f s = _
  exact congrArg Run.done (if_pos hn)

theorem execTblLoadWindow_reports (hn : (s.furrow f).lastWindow.toNat / 10000000 < (s.furrow f).ns.toNat / 10000000) :
    ∃ t, exec (.tblLoadWindow f) s = .next t ∧ (t.furrow f).lastWindow = (s.furrow f).ns ∧ t.host = s.host ∧
      ((s.furrow f).tbl[i].state ≠ .idle → (t.furrow f).tbl[i].reads = BitVec.ofNat 32 (s.furrow f).tbl[i].report.2.1) := by
  generalize hr : ((Run.start s).modFur f fun c => { c with lastWindow := c.ns }) = r
  have furrow : r.now.furrow f = { s.furrow f with lastWindow := (s.furrow f).ns } := by
    rw [← hr, Run.modFur_now, State.furrow_setFurrow_same, Run.start_now]
  have host : r.now.host = s.host := by
    rw [← hr]
    rfl
  have windows := r.tableWindows_unseen f i (List.finRange 16)
  refine ⟨(r.tableWindows f (List.finRange 16)).now, ?_, ?_, windows.only.1.trans host, fun hi => ?_⟩
  · rw [← hr]
    show execTblLoadWindow f s = _
    exact congrArg Run.done (if_neg (Nat.not_le.2 hn))
  · rw [windows.kept.window, furrow]
  · have slot : (r.now.furrow f).tbl[i] = (s.furrow f).tbl[i] := by rw [furrow]
    rw [Run.tableWindows_reads (by rw [slot]; exact hi), slot]

end

/-! ### The table opcodes and slots together -/

/-- The slot after a switch, by its fields. -/
theorem execTblSwitch_stands {f : FurrowIx} {h : Handle} {tag : Tag} {q : Request} {s : State} {i : TableIx}
    (hq : (s.furrow f).atWork h tag 0x72 = some q) (ho : q.origin = none) (hbelow : ((s.furrow f).below q.h).2 = [])
    (hi : df q.desc 28 1 = i.val) (h0 : q.stage = 0) (hw : (df q.desc 29 1).testBit 0 = false) :
    ∃ t, exec (.tblSwitch f h tag) s = .next t ∧ t.descriptorEnded f h tag (Ending.ok 0 (df q.desc 24 4)) ∧ s.onlyFurrow f t ∧
      (t.furrow f).tbl[i].curVersion = BitVec.ofNat 32 (df q.desc 24 4) ∧
      (t.furrow f).tbl[i].curBase = BitVec.ofNat 36 (df q.desc 16 8 / 4096) ∧
      (t.furrow f).tbl[i].oldVersion = (s.furrow f).tbl[i].curVersion ∧ (t.furrow f).tbl[i].oldBase = (s.furrow f).tbl[i].curBase ∧
      (t.furrow f).tbl[i].curRefs = 0 ∧ (t.furrow f).tbl[i].migration = none ∧
      (t.furrow f).tbl[i].routeEpoch = (s.furrow f).tbl[i].routeEpoch := by
  obtain ⟨t, next, ended, only, x, versions, none_left, slot⟩ := execTblSwitch_ends hq ho hbelow hi h0 hw
  obtain ⟨version, rest⟩ := Prod.mk.inj versions
  obtain ⟨base, epoch⟩ := Prod.mk.inj rest
  refine ⟨t, next, ended, only, ?_⟩
  rw [slot]
  exact ⟨rfl, rfl, version, base, rfl, none_left, epoch⟩

theorem tableOpcode_elsewhere {f : FurrowIx} {h : Handle} {tag : Tag} {q : Request} {s : State} {x : Instr} {op : Byte} {at_ : Nat}
    (hx : (x, op, at_) ∈ ([(.tblGather f h tag, 0x70, 36), (.tblScatterAdd f h tag, 0x71, 36), (.tblSwitch f h tag, 0x72, 28),
      (.tblMigrate f h tag, 0x73, 22)] : List (Instr × Byte × Nat))) :
    ((s.furrow f).atWork h tag op = none → exec x s = .next s) ∧
      ((s.furrow f).atWork h tag op = some q → 16 ≤ df q.desc at_ 1 →
        exec x s = .next ((Run.start s).engineEnds f h tag (Refuse.operand at_).atStart.ending).now) := by
  obtain ⟨serve, work, runs⟩ := exec_tableDesc (s := s) hx
  rw [runs]
  exact ⟨fun hq => congrArg Run.done (Run.tableDesc_void (r := Run.start s) hq),
    fun hq hn => congrArg Run.done (Run.tableDesc_refused (r := Run.start s) hq hn)⟩

/-- Settles O35: off a span every round is over at once, so a gather, a scatter-add or a switch runs to its end, and neither a migration
nor the report of another slot touches what a slot publishes. COUNT as the distinct rows of a gather that ends DONE_SHORT (log 54) and the
cause codes of a migration that is barred (log 53) are the model's choice. -/
theorem tableRowsAndSlots : Obligations.TableRowsAndSlots := by
  refine ⟨fun f h tag q s ho => ⟨fun x op at_ hx => tableOpcode_elsewhere hx, fun i hbelow hb => ⟨fun hq hi => ?_,
    fun hq hi h0 hm => ?_, fun hq hi h0 hw => ?_, fun hq hi => ⟨fun hm hs => ?_, fun hm hs => ⟨fun n hx => ?_, fun x hx => ?_⟩⟩⟩⟩,
    fun f i s => ⟨fun hi hr h0 => ?_, fun hi hr h0 => ?_, execTblEnable_void, execTblDrain_void,
      fun hs hr hm => ?_, fun hd => ⟨fun hf => ?_, fun hu => ?_⟩, execTblVersionReclaim_drained, execTblVersionReclaim_void,
      execTblMigrationSwitch_member, execTblMigrationSwitch_root, execTblMigrationSwitch_void, execTblLoadWindow_void, execTblLoadWindow_reports⟩⟩
  · exact execTblGather_ends hb hq ho hbelow hi
  · exact execTblScatterAdd_ends hb hq ho hbelow hi h0 hm
  · exact execTblSwitch_stands hq ho hbelow hi h0 hw
  · exact execTblMigrate_waits hq ho hi hs hm
  · exact execTblMigrate_barred hq ho hi hs hb hm hbelow hx
  · exact execTblMigrate_begins hq ho hi hs hb hm hx
  · exact execTblEnable_serves hi hr h0 rfl
  · exact execTblEnable_shows hi hr h0
  · exact ⟨execTblDrain_idles hs hr hm, execTblDrain_drains hs hr hm⟩
  · exact execTblDrain_over hd hf
  · exact execTblDrain_waits hd hu
end Sys2Proof.Machine
end


section
namespace Sys2Proof.Machine

variable {s₀ : State}

/-! ### Every command answers what a run of acts comes to -/

/-- An outcome is the answer of a run of acts from a state. -/
def answersRun (s : State) (o : Host.Outcome State Fault Refusal) : Prop := ∃ r : Run s, o = r.done

theorem Run.done_answersRun (r : Run s₀) : answersRun s₀ r.done := ⟨r, rfl⟩

theorem answersRun_ite (p : Prop) [Decidable p] {a b : Host.Outcome State Fault Refusal} (ha : answersRun s₀ a)
    (hb : answersRun s₀ b) : answersRun s₀ (if p then a else b) := by
  split
  · exact ha
  · exact hb

/-- Each command is a run of acts. Most are one run; those of the Tally and of the battery choose between several. -/
theorem exec_answersRun (i : Instr) (s : State) : answersRun s (exec i s) := by
  cases i with
  | tallyRead f v fails =>
    exact answersRun_ite _ (Run.done_answersRun _) (answersRun_ite _ (Run.done_answersRun _) (answersRun_ite _
      (Run.done_answersRun _) (answersRun_ite _ (Run.done_answersRun _) (Run.done_answersRun _))))
  | tallyAck f v =>
    exact answersRun_ite _ (Run.done_answersRun _) (answersRun_ite _ (Run.done_answersRun _) (Run.done_answersRun _))
  | tallyCert f v fails =>
    exact answersRun_ite _ (Run.done_answersRun _) (answersRun_ite _ (Run.done_answersRun _)
      (answersRun_ite _ (Run.done_answersRun _) (Run.done_answersRun _)))
  | tallyStage f v fails =>
    exact answersRun_ite _ (Run.done_answersRun _) (answersRun_ite _ (Run.done_answersRun _) (Run.done_answersRun _))
  | vbatSample f mv => exact answersRun_ite _ (Run.done_answersRun _) (Run.done_answersRun _)
  | _ => exact Run.done_answersRun _

/-- Whatever a command answers with is a state that acts lead to. -/
theorem exec_reached {i : Instr} {s t : State} (h : exec i s = .next t) : Reached s t := by
  obtain ⟨r, hr⟩ := exec_answersRun i s
  exact r.done_reached t (hr.symm.trans h)

/-- A step answers a state that acts lead to from the state with the command taken off the queue. -/
theorem step_reached {s t : State} (h : step s = .next t) : ∃ cs : List Instr, Reached { s with pending := cs } t := by
  unfold step at h
  split at h
  next => exact ⟨s.pending, Run.done_reached _ t h⟩
  next c rest _ => exact ⟨rest, exec_reached h⟩

/-- Settles O5: the one act that touches a fuse burns it, and every step is a run of acts. -/
theorem noStepClearsAFuseBit : Obligations.NoStepClearsAFuseBit := by
  intro s t h
  obtain ⟨cs, hr⟩ := step_reached h
  exact hr.fusesKept

/-- Settles O6: every act keeps every memory's canonical form, and every step is a run of acts. -/
theorem everyStepKeepsMemoriesCanonical : Obligations.EveryStepKeepsMemoriesCanonical := by
  intro s t hs h
  obtain ⟨cs, hr⟩ := step_reached h
  refine hr.canonical fun sp => ?_
  have same : State.mem { s with pending := cs } sp = s.mem sp := by cases sp <;> rfl
  exact same ▸ hs sp

/-- Settles O4: every command is a run of acts, none of which touches the queue or takes free values back. That no command ends in a fault
or a refusal is the model's choice (log 11). -/
theorem everyCommandAnswersANextState : Obligations.EveryCommandAnswersANextState := by
  intro c s
  obtain ⟨r, hr⟩ := exec_answersRun c s
  exact ⟨r.now, hr, r.from_.pending, r.from_.fresh⟩

/-- Settles O1. The queue of waiting commands is the model's choice (logs 3 and 4). -/
theorem stepRunsFrontCommand : Obligations.StepRunsFrontCommand := by
  intro c rest s
  rfl

end Sys2Proof.Machine
end

section
namespace Sys2Proof.Machine

/-! ### SPDM requests (R386, R398, R399) -/

section
variable {code : Byte} {f : FurrowIx} {ch : SpdmChannel} {m : List Byte} {s : State} {work : Spdm → Nat → Spdm}

/-- The state after the connection of a path has been answered, with two free values drawn. -/
def State.spdmAnswered (s : State) (f : FurrowIx) (ch : SpdmChannel) (y : Spdm) : State :=
  { s.setFurrow f ((s.furrow f).modSec fun z => z.setConn ch y) with fresh := s.fresh + 2 }

theorem runSpdm_unheard (h : spdmReaches s f ch = false ∨ m.getD 1 0 ≠ code) : (runSpdm code f ch m s work).done = .next s := by
  have skip : (!spdmReaches s f ch) = true ∨ m.getD 1 0 ≠ code := h.imp (fun e => by rw [e]; rfl) id
  exact congrArg Run.done (if_pos skip)

theorem runSpdm_heard (hr : spdmReaches s f ch = true) (hm : m.getD 1 0 = code) :
    (runSpdm code f ch m s work).done = .next (s.spdmAnswered f ch
      (if s.fuses[f].lifecycle = 2 then
        { (s.furrow f).sec.conn ch with answer := ((s.furrow f).sec.conn ch).err SpdmErr.unspecified 0 [] }
       else work ((s.furrow f).sec.conn ch) s.fresh)) := by
  have hears : ¬ ((!spdmReaches s f ch) = true ∨ m.getD 1 0 ≠ code) :=
    not_or.2 ⟨by simp [hr], not_not.2 hm⟩
  exact congrArg Run.done (if_neg hears)

/-- What a request's command does, whatever its work: nothing, an error of a RETURNED furrow, or the answer. -/
theorem runSpdm_spec (y : Spdm) (hy : work ((s.furrow f).sec.conn ch) s.fresh = y) :
    (spdmReaches s f ch = false ∨ m.getD 1 0 ≠ code → (runSpdm code f ch m s work).done = .next s) ∧
    (spdmReaches s f ch = true → m.getD 1 0 = code →
      (s.fuses[f].lifecycle = 2 → (runSpdm code f ch m s work).done = .next (s.spdmAnswered f ch
        { (s.furrow f).sec.conn ch with answer := ((s.furrow f).sec.conn ch).err SpdmErr.unspecified 0 [] })) ∧
      (s.fuses[f].lifecycle ≠ 2 → (runSpdm code f ch m s work).done = .next (s.spdmAnswered f ch y))) := by
  subst hy
  refine ⟨runSpdm_unheard, fun hr hm => ⟨fun h2 => ?_, fun h2 => ?_⟩⟩
  · rw [runSpdm_heard hr hm, if_pos h2]
  · rw [runSpdm_heard hr hm, if_neg h2]

end

/-- Settles O48: each of the ten requests is one run of the responder with its own code and work. The messages' layouts are the model's
choice (log 67). -/
theorem spdmRequestsAreAnsweredOnTheirPath : Obligations.SpdmRequestsAreAnsweredOnTheirPath := by
  intro f ch m s x answers c code y hc
  simp only [List.mem_cons, List.not_mem_nil, or_false, Prod.mk.injEq] at hc
  rcases hc with ⟨rfl, rfl, rfl⟩ | ⟨rfl, rfl, rfl⟩ | ⟨rfl, rfl, rfl⟩ | ⟨rfl, rfl, rfl⟩ | ⟨rfl, rfl, rfl⟩ | ⟨rfl, rfl, rfl⟩ |
    ⟨rfl, rfl, rfl⟩ | ⟨rfl, rfl, rfl⟩ | ⟨rfl, rfl, rfl⟩ | ⟨rfl, rfl, rfl⟩ <;> exact runSpdm_spec _ rfl

end Sys2Proof.Machine
end

section
namespace Sys2Proof.Machine

variable {s₀ : State}

/-! ### What an error record and the Tally's own work change of a furrow (R414, R415, R426) -/

/-- An error recorded changes the day's counts and the error ring alone; one that is not of SEVERITY 1 takes the next SEQ. -/
theorem Furrow.raise_eq (c : Furrow) (e : ErrRec) (ends : List (Handle × Tag)) :
    ∃ counts err, c.raise e ends = { c with counts := counts, err := err } ∧ (e.corrected = false → err.seq = c.err.seq + 1) := by
  have counted : ∃ x, c.countUe e = { c with counts := x } := by
    unfold Furrow.countUe Furrow.rollCounts
    dsimp only
    split
    · split <;> exact ⟨_, rfl⟩
    · exact ⟨c.counts, rfl⟩
  obtain ⟨x, hx⟩ := counted
  refine ⟨x, (c.raise e ends).err, ?_, fun he => (c.raise_seq e ends he).1⟩
  unfold Furrow.raise
  rw [hx]

/-- The same of a record that the furrow writes while it runs. -/
theorem Furrow.report_eq (c : Furrow) (e : ErrRec) :
    ∃ counts err, c.report e = { c with counts := counts, err := err } ∧
      (e.corrected = false → err.seq = c.err.seq + if c.alive = true then 1 else 0) := by
  unfold Furrow.report
  split
  next alive =>
    obtain ⟨x, y, h, seq⟩ := c.raise_eq e []
    exact ⟨x, y, h, seq⟩
  next => exact ⟨c.counts, c.err, rfl, fun _ => (BitVec.add_zero _).symm⟩

/-- What the opening and closing of records leaves of a Tally. -/
def Tally.standing (t : Tally) : TallyState × W64 × Option FwImage × Nat := (t.state, t.period, t.image, t.good)

/-- A furrow whose Tally alone has moved on, its standing kept. -/
def Furrow.metered (c d : Furrow) : Prop := ∃ t, d = { c with tally := t } ∧ t.standing = c.tally.standing

theorem Furrow.metered_refl (c : Furrow) : c.metered c := ⟨c.tally, rfl, rfl⟩

theorem Furrow.metered_trans (c : Furrow) {d e : Furrow} (hd : c.metered d) (he : d.metered e) : c.metered e := by
  obtain ⟨t, rfl, ht⟩ := hd
  obtain ⟨u, rfl, hu⟩ := he
  exact ⟨u, rfl, hu.trans ht⟩

theorem Furrow.tallyEvent_metered (c : Furrow) (f : FurrowIx) (event a b : Nat) : c.metered (c.tallyEvent f event a b) :=
  ⟨_, rfl, rfl⟩

theorem Furrow.tallyOpen_metered (c : Furrow) (h : Handle) : c.metered (c.tallyOpen h) := by
  unfold Furrow.tallyOpen
  split
  · exact ⟨_, rfl, rfl⟩
  · exact c.metered_refl

theorem Furrow.tallyClose_metered (c : Furrow) (f : FurrowIx) (h : Handle) (close : Nat) (goesOn : Bool) :
    c.metered (c.tallyClose f h close goesOn) := by
  unfold Furrow.tallyClose
  split
  · exact c.metered_refl
  · cases goesOn with
    | false => exact ⟨_, rfl, rfl⟩
    | true => exact c.metered_trans ⟨_, rfl, rfl⟩ (Furrow.tallyOpen_metered _ h)

theorem Furrow.tallyCloseAll_metered (c : Furrow) (f : FurrowIx) (close : Nat) (goesOn : Bool) :
    c.metered (c.tallyCloseAll f close goesOn) :=
  List.foldlRecOn (motive := c.metered) _ _ c.metered_refl fun d hd h _ =>
    c.metered_trans hd (d.tallyClose_metered f h close goesOn)

/-! ### The commands of the Tally (R409, R410, R417–R419) -/

theorem State.reaches_carries {s : State} {f : FurrowIx} {off : Nat} (h : s.reaches f off = true) : s.hdl.carries = true := by
  simp only [State.reaches, Bool.and_eq_true] at h
  obtain ⟨⟨carries, -⟩, -⟩ := h
  exact carries

/-- A range of SEQ that a READ may ask for: one to 4,096 entries, none freed and none to come (R418). -/
def Tally.hasRange (t : Tally) (first n : Nat) : Bool :=
  decide (1 ≤ n) && decide (n ≤ 4096) && decide (t.acked.toNat ≤ first) && decide (first + n ≤ t.next.toNat)

/-- A furrow's Tally has written the entry of a READ. -/
def Furrow.readLogged (c : Furrow) (f : FurrowIx) : Furrow := c.tallyEvent f 0x03 c.tally.cmdArg.toNat c.tally.count.toNat

/-- A store and a change of a furrow's control part do not meet. -/
@[simp] theorem State.setMem_setFurrow (s : State) (f : FurrowIx) (c : Furrow) (sp : Space) (m : Mem) :
    (s.setFurrow f c).setMem sp m = (s.setMem sp m).setFurrow f c := by
  cases sp <;> rfl

section
variable {f : FurrowIx} {v : W64} {b : Bool} {s : State}

theorem tallyCommand_unreached (hr : s.reaches f 0x500020 = false) (b : Bool) :
    exec (.tallyRead f v b) s = .next s ∧ exec (.tallyAck f v) s = .next s ∧ exec (.tallyCert f v b) s = .next s ∧
      exec (.tallyStage f v b) s = .next s := by
  have skip : (!s.reaches f 0x500020) = true := by rw [hr]; rfl
  exact ⟨if_pos skip, if_pos skip, if_pos skip, if_pos skip⟩

variable (hr : s.reaches f 0x500020 = true) {c : Furrow} (hc : c = (s.furrow f).tallyCmd v)
include hr hc

theorem tallyCommand_brimming (hb : c.tally.brimming = true) {i : Instr}
    (hi : i = .tallyRead f v b ∨ i = .tallyCert f v b ∨ i = .tallyStage f v b) :
    exec i s = .next (s.setFurrow f (c.tallyStatus TlyStatus.refused)) := by
  subst hc
  rcases hi with rfl | rfl | rfl
  · show execTallyRead f v b s = _
    simp [execTallyRead, hr, hb]
  · show execTallyCert f v b s = _
    simp [execTallyCert, hr, hb]
  · show execTallyStage f v b s = _
    simp [execTallyStage, hr, hb]

/-- A READ with room in the area is logged first, and then answered. -/
theorem execTallyRead_logs (hb : c.tally.brimming = false) :
    exec (.tallyRead f v b) s = .next
      (if c.tally.hasRange c.tally.cmdArg.toNat c.tally.count.toNat = false then
        s.setFurrow f ((c.readLogged f).tallyStatus TlyStatus.badRange)
      else if b = true then s.setFurrow f ((c.readLogged f).tallyStatus TlyStatus.hostWrite)
      else (s.setMem .host (s.host.write (c.tally.cmdAddr.toNat * 64)
        (c.tally.range c.tally.cmdArg.toNat c.tally.count.toNat))).setFurrow f ((c.readLogged f).tallyStatus TlyStatus.idle)) := by
  subst hc
  have carries := State.reaches_carries hr
  show execTallyRead f v b s = _
  unfold execTallyRead
  simp only [hr, Run.fur_eq, Run.modFur_now, Run.start_now, State.furrow_setFurrow_same, hb, Bool.not_true, Bool.false_eq_true, if_false]
  cases hg : ((s.furrow f).tallyCmd v).tally.hasRange ((s.furrow f).tallyCmd v).tally.cmdArg.toNat
    ((s.furrow f).tallyCmd v).tally.count.toNat with
  | false =>
    rw [Tally.hasRange] at hg
    simp [hg, Furrow.readLogged]
  | true =>
    rw [Tally.hasRange] at hg
    cases b with
    | true => simp [hg, Furrow.readLogged]
    | false => simp [hg, Furrow.readLogged, Run.toHost, carries, State.mem_host]

theorem execTallyCert_answers (hb : c.tally.brimming = false) :
    exec (.tallyCert f v b) s = .next
      (if b = true then s.setFurrow f (c.tallyStatus TlyStatus.hostWrite)
      else (s.setMem .host (s.host.write (c.tally.cmdAddr.toNat * 64) (Config.tallyCertificate f))).setFurrow f
        (c.tallyStatus TlyStatus.idle)) := by
  subst hc
  have carries := State.reaches_carries hr
  show execTallyCert f v b s = _
  cases b with
  | true => simp [execTallyCert, hr, hb]
  | false => simp [execTallyCert, hr, hb, Run.toHost, carries, State.mem_host]

theorem execTallyAck_outside (hn : c.tally.next.toNat ≤ c.tally.cmdArg.toNat ∨ c.tally.cmdArg.toNat < c.tally.acked.toNat) :
    exec (.tallyAck f v) s = .next (s.setFurrow f (c.tallyStatus TlyStatus.badRange)) := by
  subst hc
  show execTallyAck f v s = _
  simp [execTallyAck, hr, hn]

theorem execTallyAck_frees (h1 : c.tally.cmdArg.toNat < c.tally.next.toNat) (h2 : c.tally.acked.toNat ≤ c.tally.cmdArg.toNat) :
    exec (.tallyAck f v) s = .next (s.setFurrow f ((c.tallyEvent f 0x04 c.tally.cmdArg.toNat 0).modTally fun t =>
      { t with
        entries := t.entries.drop (c.tally.cmdArg.toNat + 1 - c.tally.acked.toNat)
        acked := BitVec.ofNat 64 (c.tally.cmdArg.toNat + 1), cmdStatus := TlyStatus.idle })) := by
  subst hc
  have inside : ¬ (((s.furrow f).tallyCmd v).tally.next.toNat ≤ ((s.furrow f).tallyCmd v).tally.cmdArg.toNat ∨
      ((s.furrow f).tallyCmd v).tally.cmdArg.toNat < ((s.furrow f).tallyCmd v).tally.acked.toNat) := by omega
  show execTallyAck f v s = _
  simp [execTallyAck, hr, inside]
  rfl

/-- A STAGE with room in the area is logged with its result, and its image taken where that is 0. -/
theorem execTallyStage_logs (hb : c.tally.brimming = false) {header : List Byte} {im : FwImage} {res : Nat}
    (hh : header = s.host.read (c.tally.cmdAddr.toNat * 64) 256)
    (hi : im = ⟨header, s.host.read (c.tally.cmdAddr.toNat * 64 + 256) (fieldAt header 8 4)⟩)
    (hres : res = tallyStageResult f c.tally im b) :
    exec (.tallyStage f v b) s = .next (s.setFurrow f ((c.tallyEvent f 0x02 (fieldAt header 4 4) res).modTally fun t =>
      { t with
        cmdStatus := if res = 0 then TlyStatus.idle else TlyStatus.refused
        image := if res = 0 then some im else t.image })) := by
  subst hc hh hi
  show execTallyStage f v b s = _
  simp only [execTallyStage, hr, Run.fur_eq, Run.modFur_now, Run.start_now, State.furrow_setFurrow_same, hb, Bool.not_true,
    Bool.false_eq_true, if_false, Run.done_next, State.setFurrow_setFurrow, Run.read_eq, State.mem_host, State.setFurrow_host]
  rw [← hres]
  congr 2
  by_cases h0 : res = 0
  · simp only [if_pos h0]; rfl
  · simp only [if_neg h0]; rfl

end

theorem execConfigWrite_eq {f : FurrowIx} {a : HostAccess} {v : W64} {s : State} :
    exec (.configWrite f a v) s = .next (if s.reaches f a.off.toNat = true ∧ tallyFixed a = true then
      s.setFurrow f ((s.furrow f).tallyEvent f 0x01 a.off.toNat v.toNat) else s) := by
  split
  next h => exact done_modFur (if_pos h)
  next h => exact done_modFur_self (if_neg h)

/-- Settles O50. That a full area refuses a command before its operands are looked at, and that a write which does not reach the furrow or
has another size is not logged, is the model's choice (log 74); the header that STAGE reads is log 22's. -/
theorem tallyCommands : Obligations.TallyCommands := by
  intro f v a s c last n
  refine ⟨fun hr b => tallyCommand_unreached hr b, fun hr => ⟨fun hb i b hi => tallyCommand_brimming hr rfl hb hi,
    fun hb => ⟨fun h1 h2 h3 h4 => ?_, fun hn b => ?_, ?_, ?_, fun b => ?_⟩, fun hn => execTallyAck_outside hr rfl hn,
    fun h1 h2 => ?_⟩, fun hr ha => ?_, fun h => ?_⟩
  · have inside : ¬ c.tally.hasRange last n = false := by simp [Tally.hasRange, h1, h2, h3, h4]
    have reads := fun b => (execTallyRead_logs (c := c) (b := b) hr rfl hb).trans (congrArg Host.Outcome.next (if_neg inside))
    exact ⟨⟨_, reads false, rfl, rfl, State.furrow_setFurrow_same _ _ _⟩, reads true⟩
  · have outside : c.tally.hasRange last n = false := by
      simp only [Tally.hasRange, Bool.and_eq_false_iff, decide_eq_false_iff_not]
      omega
    exact (execTallyRead_logs (c := c) hr rfl hb).trans (congrArg Host.Outcome.next (if_pos outside))
  · exact ⟨_, execTallyCert_answers (c := c) (b := false) hr rfl hb, rfl, rfl, State.furrow_setFurrow_same _ _ _⟩
  · exact execTallyCert_answers (c := c) (b := true) hr rfl hb
  · intro header im good
    refine ⟨_, execTallyStage_logs (c := c) hr rfl hb rfl rfl rfl, s.onlyFurrow_setFurrow f _, rfl, ?_⟩
    rw [State.furrow_setFurrow_same]
    by_cases h0 : tallyStageResult f c.tally im b = 0
    · have taken : good = true := decide_eq_true h0
      rw [taken]
      exact ⟨if_pos h0, if_pos h0, rfl⟩
    · have left : good = false := decide_eq_false h0
      rw [left]
      exact ⟨if_neg h0, if_neg h0, rfl⟩
  · refine ⟨_, execTallyAck_frees (c := c) hr rfl h1 h2, s.onlyFurrow_setFurrow f _, rfl, ?_⟩
    rw [State.furrow_setFurrow_same]
    exact ⟨rfl, rfl, rfl⟩
  · exact execConfigWrite_eq.trans (congrArg Host.Outcome.next (if_pos ⟨hr, ha⟩))
  · refine execConfigWrite_eq.trans (congrArg Host.Outcome.next (if_neg fun both => ?_))
    obtain ⟨hr, ha⟩ := both
    simp [hr, ha] at h

end Sys2Proof.Machine
end

section
namespace Sys2Proof.Machine

variable {s₀ : State}

/-! ### The Tally's clock and periods (R412, R413, R415–R417) -/

section
variable {f : FurrowIx} {v : W64} {s : State}

theorem withinLimit_eq_false {n : Nat} (h : 1000100000 < n ∨ n < 999900000) : withinLimit n = false := by
  simp only [withinLimit, Bool.and_eq_false_iff, decide_eq_false_iff_not]
  omega

theorem withinLimit_eq_true {n : Nat} (h1 : 999900000 ≤ n) (h2 : n ≤ 1000100000) : withinLimit n = true := by
  simp [withinLimit, h1, h2]

/-- A furrow whose Tally has counted one more comparison within the limit. -/
def Furrow.clockGood (c : Furrow) : Furrow := c.modTally fun t => { t with good := t.good + 1, lastNs := c.ns }

/-- What a comparison makes of a furrow whose Tally runs. -/
theorem execTallyClockCheck_runs (hr : (s.furrow f).tally.runs = true) {d : Furrow}
    (hd : d = if withinLimit v.toNat = false then (s.furrow f).tallyFault f v.toNat
      else if (s.furrow f).tally.state = .clockFault ∧ 10 ≤ (s.furrow f).tally.good + 1 then (s.furrow f).clockGood.tallyRestore f
      else (s.furrow f).clockGood) :
    exec (.tallyClockCheck f v) s = .next (s.setFurrow f d) := by
  refine done_modFur ?_
  rw [hd, hr]
  cases withinLimit v.toNat <;> rfl

/-- A Tally that is restored meters again, and the furrow has one error record more. -/
theorem Furrow.tallyRestore_metering (c : Furrow) (f : FurrowIx) :
    (c.tallyRestore f).tally.state = .metering ∧ (c.tallyRestore f).err.seq = c.err.seq + 1 := by
  unfold Furrow.tallyRestore
  dsimp only
  generalize hd : ({ c.tallyEvent f 0x06 0 0 with tally := { (c.tallyEvent f 0x06 0 0).tally with state := .metering } } : Furrow) = d
  obtain ⟨t, ht, hstanding⟩ := d.tallyCloseAll_metered f 0x07 true
  obtain ⟨x, y, hraise, hseq⟩ := Furrow.raise_eq (d.tallyCloseAll f 0x07 true) (errRec 0x50 0 2) []
  have state : t.state = d.tally.state := congrArg Prod.fst hstanding
  have err : (d.tallyCloseAll f 0x07 true).err = d.err := by rw [ht]
  rw [hraise]
  refine ⟨?_, (hseq rfl).trans ?_⟩
  · rw [ht]
    exact state.trans (hd ▸ rfl)
  · rw [err, ← hd]; rfl

/-- A furrow whose Tally has closed a period. -/
def Furrow.periodClosed (c : Furrow) (f : FurrowIx) : Furrow :=
  (c.tallyCloseAll f 0x01 true).modTally fun t => { t with period := periodOf f c.cal.stamp }

theorem execTallyPeriodClose_same (h : (s.furrow f).tally.full = true ∨ (s.furrow f).tally.runs = false ∨
    periodOf f (s.furrow f).cal.stamp = (s.furrow f).tally.period) : exec (.tallyPeriodClose f) s = .next s := by
  refine done_modFur_self (if_pos ?_)
  rcases h with h | h | h <;> simp [h]

theorem execTallyPeriodClose_closes (hf : (s.furrow f).tally.full = false) (hr : (s.furrow f).tally.runs = true)
    (hp : periodOf f (s.furrow f).cal.stamp ≠ (s.furrow f).tally.period) :
    exec (.tallyPeriodClose f) s = .next (s.setFurrow f ((s.furrow f).periodClosed f)) :=
  done_modFur (if_neg (by simp [hf, hr, hp]))

theorem Furrow.periodClosed_period (c : Furrow) (f : FurrowIx) :
    (c.periodClosed f).tally.period = periodOf f c.cal.stamp ∧ (c.periodClosed f).cal = c.cal := by
  obtain ⟨t, ht, -⟩ := c.tallyCloseAll_metered f 0x01 true
  exact ⟨rfl, by unfold Furrow.periodClosed; rw [ht]; rfl⟩

end

/-! ### The calendar island (R454, R455, R459) -/

section
variable {f : FurrowIx} {v : W64} {mv : W16} {s : State}

theorem Furrow.tallyFault_eq (c : Furrow) (f : FurrowIx) (advance : Nat) :
    ∃ t counts err, c.tallyFault f advance = { c with tally := t, counts := counts, err := err } := by
  unfold Furrow.tallyFault
  split
  · dsimp only
    generalize hd : ({ c.tallyEvent f 0x05 advance 0 with
      tally := { (c.tallyEvent f 0x05 advance 0).tally with state := .clockFault, good := 0 } } : Furrow) = d
    obtain ⟨t, ht, -⟩ := d.tallyCloseAll_metered f 0x07 true
    obtain ⟨x, y, hraise, -⟩ := Furrow.raise_eq (d.tallyCloseAll f 0x07 true) (errRec 0x50 0 1) []
    refine ⟨t, x, y, ?_⟩
    rw [hraise, ht, ← hd]
    rfl
  · exact ⟨_, _, _, rfl⟩

/-- A crystal that stops leaves the calendar invalid, and says so. -/
theorem execXtalFail_stops (hr : (s.furrow f).cal.running = true) (hl : (s.furrow f).cal.latch = true) :
    ∃ d : Furrow, exec (.xtalFail f) s = .next (s.setFurrow f d) ∧ d.cal.running = false ∧ d.cal.valid = false ∧ d.cal.xtalFail = true := by
  have goes : ¬ ((!(s.furrow f).cal.running) = true ∨ (!(s.furrow f).cal.latch) = true) := by simp [hr, hl]
  refine ⟨_, done_modFur (if_neg goes), ?_⟩
  dsimp only
  obtain ⟨x, y, hreport, -⟩ :=
    Furrow.report_eq ((s.furrow f).modCal fun k => { k with running := false, xtalFail := true, valid := false }) (errRec 0x76 0 0)
  rw [hreport]
  split
  · obtain ⟨t, x', y', hfault⟩ := Furrow.tallyFault_eq
      { (s.furrow f).modCal fun k => { k with running := false, xtalFail := true, valid := false } with counts := x, err := y } f 0
    rw [hfault]
    exact ⟨rfl, rfl, rfl⟩
  · exact ⟨rfl, rfl, rfl⟩

theorem Furrow.keepHealth_eq (c : Furrow) (g : Health → Health) :
    ∃ a b, c.keepHealth g = { c with health := { g c.health with seq := c.health.seq + 1 }, healthA := a, healthB := b } := by
  unfold Furrow.keepHealth
  dsimp only
  split
  · exact ⟨c.healthA, _, rfl⟩
  · exact ⟨_, c.healthB, rfl⟩

theorem execXtalRestart_restarts (hr : (s.furrow f).cal.running = false) (hl : (s.furrow f).cal.latch = true) :
    exec (.xtalRestart f) s = .next (s.setFurrow f
      (((s.furrow f).modCal fun k => { k with running := true, xtalFail := false }).keepHealth fun x =>
        { x with restarts := x.restarts + 1 })) :=
  done_modFur (if_neg (by simp [hr, hl]))

theorem execVbatSample_powered (hv : s.hdl.vaux = true) {low : Bool} (hlow : low = decide (mv.toNat < 2000)) {d : Furrow}
    (hd : d = (s.furrow f).modCal fun k => { k with vbatBad := low }) :
    exec (.vbatSample f mv) s = .next ({ s with hdl := { s.hdl with vbat := !low } }.setFurrow f
      (if (low && !(s.furrow f).cal.vbatBad) = true then d.report (errRec 0x75 0 0) else d)) := by
  subst hlow hd
  exact if_neg (by rw [hv]; decide)

end

/-- Settles O51: the closing and opening of records keeps the Tally's state and period, and an error record touches neither the Tally nor
the calendar. That XTAL_FAIL clears at the restart is the model's choice (log 69). -/
theorem tallyTimeAndCalendar : Obligations.TallyTimeAndCalendar := by
  intro f v mv s
  refine ⟨fun hr => ⟨done_modFur_self (if_pos (by simp [hr])), execTallyPeriodClose_same (.inr (.inl hr))⟩,
    fun hr => ⟨fun h => ?_, fun h1 h2 hs => ?_, fun h1 h2 hs h10 => ?_, fun h => ?_, fun hf hp => ?_⟩, rfl, fun hv => ?_, fun hr hv => ?_,
    fun hr h1 h2 => ?_, fun h => ?_, fun hr hl => ?_, fun hr => ?_, fun hr hl => ?_, fun hr => ?_, fun hv => ?_, fun hv => ?_⟩
  · exact execTallyClockCheck_runs hr (if_pos (withinLimit_eq_false h)).symm
  · refine execTallyClockCheck_runs hr ?_
    rw [withinLimit_eq_true h1 h2, hs]
    rfl
  · refine ⟨_, execTallyClockCheck_runs hr rfl, s.onlyFurrow_setFurrow f _, rfl, ?_⟩
    rw [State.furrow_setFurrow_same, withinLimit_eq_true h1 h2, if_neg (by decide), if_pos ⟨hs, h10⟩]
    exact Furrow.tallyRestore_metering _ f
  · exact execTallyPeriodClose_same (h.imp_right .inr)
  · obtain ⟨period, cal⟩ := (s.furrow f).periodClosed_period f
    refine ⟨_, execTallyPeriodClose_closes hf hr hp, s.onlyFurrow_setFurrow f _, rfl, ?_, execTallyPeriodClose_same (.inr (.inr ?_))⟩
    · rw [State.furrow_setFurrow_same, period]
    · rw [State.furrow_setFurrow_same, period, cal]
  · exact done_modFur_self (if_neg (by simp [hv]))
  · exact done_modFur (if_pos (by simp [hr, hv]))
  · exact done_modFur (if_pos ⟨hr, h1, h2⟩)
  · exact done_modFur_self (if_neg (by omega))
  · obtain ⟨d, hd, fields⟩ := execXtalFail_stops hr hl
    refine ⟨_, hd, s.onlyFurrow_setFurrow f d, rfl, ?_⟩
    rw [State.furrow_setFurrow_same]
    exact fields
  · exact done_modFur_self (if_pos (by simp [hr]))
  · refine ⟨_, execXtalRestart_restarts hr hl, s.onlyFurrow_setFurrow f _, rfl, ?_⟩
    obtain ⟨a, b, kept⟩ := Furrow.keepHealth_eq ((s.furrow f).modCal fun k => { k with running := true, xtalFail := false })
      fun x => { x with restarts := x.restarts + 1 }
    rw [State.furrow_setFurrow_same, kept]
    exact ⟨rfl, rfl, rfl, rfl⟩
  · exact done_modFur_self (if_pos (.inl hr))
  · exact if_pos (by rw [hv]; rfl)
  · refine ⟨_, execVbatSample_powered hv rfl rfl, ?_⟩
    rw [State.furrow_setFurrow_same]
    obtain ⟨x, y, hreport, hseq⟩ :=
      Furrow.report_eq ((s.furrow f).modCal fun k => { k with vbatBad := decide (mv.toNat < 2000) }) (errRec 0x75 0 0)
    split
    next onset =>
      rw [hreport]
      refine ⟨rfl, rfl, (hseq rfl).trans ?_⟩
      simp only [Bool.and_eq_true, decide_eq_true_eq, Bool.not_eq_true'] at onset
      obtain ⟨low, new⟩ := onset
      simp [low, new, Furrow.alive]
    next known =>
      refine ⟨rfl, rfl, ?_⟩
      rw [if_neg fun onset => known (by obtain ⟨low, new, -⟩ := onset; simp [low, new])]
      exact (BitVec.add_zero _).symm

end Sys2Proof.Machine
end

section
namespace Sys2Proof.Machine

variable {s₀ : State}

/-! ### Staging firmware and its fused version (R391, R392) -/

/-- A fuse burnt and a change of a furrow's control part do not meet. -/
theorem Act.burn_setFurrow (s : State) (f g : FurrowIx) (c : Furrow) (x : Fuses) :
    Act.apply (s.setFurrow f c) (.burn g x) = (Act.apply s (.burn g x)).setFurrow f c := rfl

section
variable {f : FurrowIx} {v : W64} {a b : Bool} {s : State}

theorem fwCommand_unreached (h : s.reaches f 0x400018 = false) :
    exec (.fwStage f v a b) s = .next s ∧ exec (.commitSvn f v) s = .next s := by
  have skip : ∀ n, (!s.reaches f 0x400018) = true ∨ v.extractLsb' 0 4 ≠ n := fun n => .inl (by rw [h]; rfl)
  exact ⟨congrArg Run.done (if_pos (skip 1)), congrArg Run.done (if_pos (skip 2))⟩

/-- The image that a STAGE reads from the host. -/
def Sec.hostImage (z : Sec) (host : Mem) : FwImage :=
  ⟨host.read (z.fwAddr.toNat * 64) 256, host.read (z.fwAddr.toNat * 64 + 256) (z.fwLength.toNat - 256)⟩

/-- What a STAGE leaves of a furrow's root of trust. -/
def Sec.staged (z : Sec) (host : Mem) (x : Fuses) (hostFails storeFails : Bool) : Sec :=
  if z.takesStage z.fwKind.toNat = false then z
  else if z.fwLength.toNat < 256 then { z with fwStatus := FwStatus.badLength }
  else if hostFails = true then { z with fwStatus := FwStatus.hostRead }
  else match stageFault (z.hostImage host) z.fwLength.toNat z.fwKind.toNat x with
    | some e => { z with fwStatus := e }
    | none => { z.store z.fwKind.toNat (z.spare z.fwKind.toNat) (if storeFails then none else some (z.hostImage host)) with
        fwStatus := if storeFails then FwStatus.storeWrite else FwStatus.idle }

theorem execFwStage_reaches (hr : s.reaches f 0x400018 = true) (hv : v.extractLsb' 0 4 = 1) :
    exec (.fwStage f v a b) s = .next (s.setFurrow f ((s.furrow f).modSec fun _ => ((s.furrow f).sec.fwCmd v).staged s.host s.fuses[f] a b)) := by
  have goes : ¬ ((!s.reaches f 0x400018) = true ∨ v.extractLsb' 0 4 ≠ 1) := by simp [hr, hv]
  refine (congrArg Run.done (if_neg goes)).trans ?_
  generalize s.fuses[f] = x
  simp only [Run.fur_eq, Run.read_eq, Run.modFur_now, Run.start_now, State.furrow_setFurrow_same, Furrow.modSec_sec, State.mem_host,
    State.setFurrow_host, Sec.staged, Sec.hostImage]
  cases (((s.furrow f).sec.fwCmd v).takesStage ((s.furrow f).sec.fwCmd v).fwKind.toNat) with
  | false => rfl
  | true =>
    by_cases short : ((s.furrow f).sec.fwCmd v).fwLength.toNat < 256
    · simp [short]
      rfl
    · simp only [short, Bool.not_true, Bool.false_eq_true, Bool.true_eq_false, if_false]
      cases a with
      | true => simp; rfl
      | false =>
        simp only [Bool.false_eq_true, if_false]
        generalize stageFault _ ((s.furrow f).sec.fwCmd v).fwLength.toNat ((s.furrow f).sec.fwCmd v).fwKind.toNat x = e
        cases e <;> (simp; rfl)

theorem execCommitSvn_barred (hr : s.reaches f 0x400018 = true) (hv : v.extractLsb' 0 4 = 2)
    (hd : debugOn (s.furrow f).sec s.fuses[f] = true ∨ (s.furrow f).sec.bootError ≠ 0) :
    exec (.commitSvn f v) s = .next (s.setFurrow f ((s.furrow f).modSec fun z => z.fwCmd v)) := by
  have goes : ¬ ((!s.reaches f 0x400018) = true ∨ v.extractLsb' 0 4 ≠ 2) := by simp [hr, hv]
  refine (congrArg Run.done (if_neg goes)).trans (congrArg Run.done (if_pos ?_))
  have same : ∀ x, debugOn ((s.furrow f).sec.fwCmd v) x = debugOn (s.furrow f).sec x := fun _ => rfl
  have error : ((s.furrow f).sec.fwCmd v).bootError = (s.furrow f).sec.bootError := rfl
  rw [Run.fur_eq, Run.modFur_now, State.furrow_setFurrow_same, Run.start_now, Furrow.modSec_sec, same, error]
  rcases hd with h | h
  · rw [h]; rfl
  · rw [bne_iff_ne.2 h, Bool.or_true]; rfl

/-- The image of the slot that does not run, where it is valid and newer than the one that runs. -/
def Sec.newer (z : Sec) (kind : Nat) (x : Fuses) (im : FwImage) : Option FwImage :=
  ((z.slots kind).get (!z.slotB kind)).filter fun o => o.valid kind x && decide (im.svn < o.svn)

/-- A COMMIT_SVN that is not barred burns the version of the running image, unless a newer image waits. -/
theorem execCommitSvn_commits (hr : s.reaches f 0x400018 = true) (hv : v.extractLsb' 0 4 = 2)
    (hd : debugOn (s.furrow f).sec s.fuses[f] = false) (he : (s.furrow f).sec.bootError = 0) {z : Sec} (hz : z = (s.furrow f).sec.fwCmd v)
    (hk : z.fwKind.toNat = 1 ∨ z.fwKind.toNat = 2) {im : FwImage} (hi : z.running z.fwKind.toNat = some im) :
    exec (.commitSvn f v) s = .next (if (z.newer z.fwKind.toNat s.fuses[f] im).isSome then
      s.setFurrow f ((s.furrow f).modSec fun _ => { z with fwStatus := FwStatus.notRunning })
      else (Act.apply s (.burn f (Fuses.raiseTo z.fwKind.toNat im.svn))).setFurrow f
        ((s.furrow f).modSec fun _ => { z with fwStatus := FwStatus.idle })) := by
  have goes : ¬ ((!s.reaches f 0x400018) = true ∨ v.extractLsb' 0 4 ≠ 2) := by simp [hr, hv]
  have free : (debugOn z s.fuses[f] || z.bootError != 0 || !(decide (z.fwKind.toNat = 1) || decide (z.fwKind.toNat = 2))) = false := by
    have debug : debugOn z s.fuses[f] = false := by subst hz; exact hd
    have error : z.bootError = 0 := by subst hz; exact he
    rw [debug, error]
    rcases hk with h | h <;> rw [h] <;> rfl
  refine (congrArg Run.done (if_neg goes)).trans ?_
  simp only [Run.fur_eq, Run.modFur_now, State.furrow_setFurrow_same, Run.start_now, Furrow.modSec_sec, ← hz, free, hi,
    Bool.false_eq_true, if_false]
  by_cases waits : (z.newer z.fwKind.toNat s.fuses[f] im).isSome = true
  · refine (congrArg Run.done (if_pos waits)).trans ?_
    rw [if_pos waits]
    simp only [Run.done_next, Run.modFur_now, Run.start_now, State.furrow_setFurrow_same, State.setFurrow_setFurrow, hz]
    rfl
  · refine (congrArg Run.done (if_neg waits)).trans ?_
    rw [if_neg waits]
    simp only [Run.done_next, Run.modFur_now, Run.act_now, Run.start_now, Act.burn_setFurrow,
      State.furrow_setFurrow_same, State.setFurrow_setFurrow, hz]
    rfl

theorem digestDone_idle (h : (s.furrow f).sec.atEngine v = none) : exec (.digestDone f v) s = .next s := by
  show execDigestDone f v s = _
  unfold execDigestDone
  simp only [h]
  rfl

theorem digestDone_enters {e : LogEntry} (hh : e.handle.toNat < 64) (h : (s.furrow f).sec.atEngine v = some e)
    (hm : (s.furrow f).meets f ⟨e.handle.toNat, hh⟩ 0 (if e.inT1 then 1 else 2) e.offset.toNat e.length.toNat = none) :
    exec (.digestDone f v) s = .next (s.setFurrow f ((s.furrow f).modSec fun z => z.finishDigest v
      (Config.sha512 ((Run.start s).load f ⟨e.handle.toNat, hh⟩ 0 (if e.inT1 then 1 else 2) e.offset.toNat e.length.toNat)))) := by
  show execDigestDone f v s = _
  unfold execDigestDone
  simp only [h, dif_pos hh, hm, Option.bind_none]
  rfl

end

/-- Settles O47. The order in which a STAGE is checked, BAD_LENGTH first, and the slot that it takes while none runs are the model's
choice (log 68). -/
theorem firmwareCommands : Obligations.FirmwareCommands := by
  intro f v a b s
  refine ⟨fun hr => fwCommand_unreached hr, fun hr hv => ?_, fun hr hv hd => execCommitSvn_barred hr hv hd, fun hr hv hd he => ?_,
    digestDone_idle, fun e hh h hm => digestDone_enters hh h hm, fun eid => ⟨fun h => ?_, fun h => ?_⟩⟩
  · intro z kind im
    have staged : ∀ {hostFails storeFails : Bool} {y : Sec}, z.staged s.host s.fuses[f] hostFails storeFails = y →
        exec (.fwStage f v hostFails storeFails) s = .next (s.setFurrow f ((s.furrow f).modSec fun _ => y)) := by
      rintro _ _ _ rfl
      exact execFwStage_reaches hr hv
    refine ⟨fun ht => staged (if_pos ht), fun ht hl => staged ?_, fun ht hl => ⟨staged ?_, fun e hs => staged ?_, staged ?_,
      fun hs => staged ?_⟩⟩
    all_goals rw [Sec.staged, if_neg (by rw [ht]; decide)]
    · exact if_pos hl
    all_goals rw [if_neg (Nat.not_lt.2 hl)]
    · rfl
    all_goals rw [if_neg Bool.false_ne_true]
    · rw [show stageFault (z.hostImage s.host) _ _ _ = some e from hs]
    · generalize hx : s.fuses[f] = x
      rw [show im = z.hostImage s.host from rfl]
      cases stageFault (z.hostImage s.host) z.fwLength.toNat z.fwKind.toNat x <;> rfl
    · rw [show stageFault (z.hostImage s.host) _ _ _ = none from hs]
      rfl
  · intro z kind hk im hi
    refine ⟨_, execCommitSvn_commits hr hv hd he rfl hk hi, ?_⟩
    split
    next waits =>
      refine ⟨s.onlyFurrow_setFurrow f _, rfl, fun _ _ => rfl, ?_⟩
      rw [State.furrow_setFurrow_same]
      exact (if_neg (Option.isSome_iff_ne_none.1 waits)).symm
    next none_waits =>
      refine ⟨s.onlyFurrow_setFurrow f _, rfl, fun g hg => ?_, ?_⟩
      · have : f.val ≠ g.val := fun e => hg (Fin.ext e.symm)
        simp [Act.apply, this]
      · refine Eq.trans ?_ (if_pos (Option.not_isSome_iff_eq_none.1 none_waits)).symm
        rw [State.furrow_setFurrow_same]
        simp [Act.apply]
        rfl
  · exact done_modFur_self (if_neg (by simp [h]))
  · exact done_modFur (if_pos (Option.isSome_iff_ne_none.2 h))

end Sys2Proof.Machine
end

section
namespace Sys2Proof.Machine

variable {s₀ : State}

/-! ### What the ends of requests and contexts leave of the root of trust -/

theorem Furrow.sec_besidePyr : BesidePyr Furrow.sec := fun _ _ => rfl

theorem Furrow.leaveStep_sec (c : Furrow) (h : Handle) (tag : Tag) : (c.leaveStep h tag).sec = c.sec := by
  unfold Furrow.leaveStep
  dsimp only
  split <;> rfl

theorem Furrow.finish_sec (c : Furrow) (f : FurrowIx) (h : Handle) (tag : Tag) (e : Ending) : (c.finish f h tag e).sec = c.sec := by
  have released : ((c.endReq h tag e).release h tag).sec = c.sec := Furrow.leaveStep_sec _ h tag
  unfold Furrow.finish
  dsimp only
  generalize (c.endReq h tag e).release h tag = d at released
  split
  · exact released
  · split
    · exact (Furrow.route_keeps Furrow.sec_besidePyr _ f _).trans released
    · split <;> exact released

theorem Furrow.cancelReq_sec (c : Furrow) (f : FurrowIx) (h : Handle) (tag : Tag) : (c.cancelReq f h tag).sec = c.sec := by
  unfold Furrow.cancelReq
  split
  · rfl
  · split
    · split <;> rfl
    · split
      · exact (Furrow.leaveStep_sec _ h tag).trans (Furrow.cancelMembers_keeps Furrow.sec_besidePyr _ f _)
      · rfl

theorem Furrow.raise_sec (c : Furrow) (e : ErrRec) (ends : List (Handle × Tag)) : (c.raise e ends).sec = c.sec := by
  obtain ⟨x, y, hraise, -⟩ := c.raise_eq e ends
  rw [hraise]

theorem Furrow.endBinding_sec (c : Furrow) (f : FurrowIx) (h : Handle) : (c.endBinding f h).sec = c.sec := by
  unfold Furrow.endBinding
  dsimp only
  split
  · rfl
  · exact foldl_keeps Furrow.sec _ (fun c m => Furrow.route_keeps Furrow.sec_besidePyr c f _) _ c

theorem Furrow.freeUnitsOf_sec (c : Furrow) (h : Handle) : (c.freeUnitsOf h).sec = c.sec := by
  refine foldl_keeps Furrow.sec _ (fun c u => (Furrow.raise_sec _ _ _).trans ?_) _ _
  obtain ⟨a, b, kept⟩ := c.keepHealth_eq fun x => { x with units := dropBit x.units u.val }
  rw [kept]
  rfl

theorem Furrow.zeroiseContexts_sec (c : Furrow) (f : FurrowIx) : (c.zeroiseContexts f).sec = c.sec := by
  refine foldl_keeps Furrow.sec _ (fun c h => ?_) _ c
  split
  · rfl
  · refine (Furrow.freeUnitsOf_sec _ h).trans ((Furrow.endBinding_sec _ f h).trans ?_)
    obtain ⟨t, ht, -⟩ := c.tallyClose_metered f h 0x04 false
    rw [ht]

/-! ### Zeroisation (R402) -/

/-- The fuses of the module, and the root of trust of a furrow. -/
def State.vault (s : State) (f : FurrowIx) : Vector Fuses 8 × Sec := (s.fuses, (s.furrow f).sec)

theorem Run.modFur_vault (r : Run s₀) (f : FurrowIx) (g : Furrow → Furrow) (hg : (g (r.now.furrow f)).sec = (r.now.furrow f).sec) :
    (r.modFur f g).now.vault f = r.now.vault f := by
  simp only [State.vault, Run.modFur_now, State.setFurrow_fuses, State.furrow_setFurrow_same, hg]

theorem Run.toHost_vault (r : Run s₀) (f : FurrowIx) (a : Nat) (bs : List Byte) : (r.toHost a bs).now.vault f = r.now.vault f := by
  unfold Run.toHost
  split
  · simp only [State.vault, Run.write_now, State.setMem_fuses, State.setMem_furrow]
  · rfl

theorem Run.closeStream_vault (r : Run s₀) (f : FurrowIx) (h : Handle) (tag : Tag) (st : Byte) :
    (r.closeStream f h tag st).now.vault f = r.now.vault f := by
  unfold Run.closeStream
  dsimp only
  split
  · split <;> exact r.toHost_vault f _ _
  · rfl

theorem Run.post_vault (r : Run s₀) (f : FurrowIx) (h : Handle) (x : Record) : (r.post f h x).now.vault f = r.now.vault f := by
  unfold Run.post Run.writeRecord
  dsimp only
  split
  · refine (Run.modFur_vault _ f _ ?_).trans (r.toHost_vault f _ _)
    split <;> rfl
  · refine r.modFur_vault f _ ?_
    split <;> rfl

theorem Run.postFinal_vault (r : Run s₀) (f : FurrowIx) (h : Handle) (tag : Tag) : (r.postFinal f h tag).now.vault f = r.now.vault f := by
  unfold Run.postFinal
  split
  · rfl
  · dsimp only
    split
    · split
      · exact r.post_vault f h _
      · rfl
    · rfl

theorem Run.zeroiseRequests_vault (r : Run s₀) (f : FurrowIx) : (r.zeroiseRequests f).now.vault f = r.now.vault f := by
  refine (Run.each_keeps (fun t => t.vault f) _ (fun r q => ?_) _ _).trans (r.modFur_vault f _ rfl)
  dsimp only
  split
  · exact r.modFur_vault f _ rfl
  · refine (Run.postFinal_vault _ f _ _).trans ?_
    split
    · rfl
    · refine (Run.modFur_vault _ f _ (Furrow.finish_sec _ f _ _ _)).trans ((Run.closeStream_vault _ f _ _ _).trans ?_)
      exact r.modFur_vault f _ (Furrow.cancelReq_sec _ f _ _)

/-- A zeroised furrow: debug is on, the rest of its root of trust stands but for the log, no fuse is touched, and its memories are zero. -/
theorem Run.zeroise_leaves (r : Run s₀) (f : FurrowIx) {t : State} (ht : (r.zeroise f).now = t) :
    (t.furrow f).sec = { (r.now.furrow f).sec with
      log := (r.now.furrow f).sec.log.filter fun e => decide (e.seq.toNat < 3)
      debugKey := true, debugUnlocked := true, scrubPending := true } ∧
    t.fuses = r.now.fuses ∧ t.mem (.hbm f) = [] ∧ t.mem (.t1 f) = [] ∧ t.mem (.t0 f) = [] := by
  obtain ⟨r1, hr1⟩ : ∃ r1 : Run s₀, r1 = (r.zeroiseRequests f).modFur f fun c => c.zeroiseContexts f := ⟨_, rfl⟩
  have vault : r1.now.vault f = r.now.vault f := by
    rw [hr1]
    exact (Run.modFur_vault (r.zeroiseRequests f) f (fun c => c.zeroiseContexts f) (Furrow.zeroiseContexts_sec _ f)).trans
      (r.zeroiseRequests_vault f)
  obtain ⟨fuses, sec⟩ := Prod.mk.inj vault
  subst ht
  simp only [Run.zeroise, ← hr1, Run.modFur_now, Run.act_now, Act.apply, State.furrow_setFurrow_same, State.setFurrow_fuses,
    State.setMem_fuses, State.setMem_furrow, State.setFurrow_mem]
  refine ⟨?_, fuses, ?_, ?_, ?_⟩
  · rw [← sec]; rfl
  · rw [State.mem_setMem_other _ _ _ _ (by simp), State.mem_setMem_other _ _ _ _ (by simp), State.mem_setMem_same]
  · rw [State.mem_setMem_other _ _ _ _ (by simp), State.mem_setMem_same]
  · rw [State.mem_setMem_same]

/-! ### Debug unlock and boundary scan (R400–R402) -/

section
variable {f : FurrowIx} {grant : List Byte} {s : State}

theorem challengeBytes_length (f : FurrowIx) (z : Sec) (x : Fuses) (nonce : BitVec 256) : (challengeBytes f z x nonce).length = 64 := by
  simp only [challengeBytes, bytes32, zeros, List.length_append, leBytes_length, List.length_replicate]

theorem execDbgChallenge_fresh (hu : (s.furrow f).tapUp = true) (hf : (s.furrow f).sec.unlockFails.toNat < 8) {bs : List Byte}
    (hb : bs = challengeBytes f (s.furrow f).sec s.fuses[f] (Config.nonce s.fresh)) :
    exec (.dbgChallenge f) s = .next ((Act.apply s (.draw 1)).setFurrow f ((s.furrow f).modSec fun z =>
      { z with tapOut := bs, challenge := some ⟨bs, (s.furrow f).ns⟩ })) := by
  subst hb
  have up : ¬ (!(s.furrow f).tapUp) = true := by simp [hu]
  exact congrArg Run.done ((if_neg up).trans (if_neg (Nat.not_le.2 hf)))

theorem execDbgGrant_barred (h : (s.furrow f).tapUp = false ∨ (s.furrow f).serves = false) : exec (.dbgGrant f grant) s = .next s :=
  congrArg Run.done (if_pos (by rcases h with h | h <;> simp [h]))

/-- Whether a grant answers the challenge that is open. -/
def grantGood (s : State) (f : FurrowIx) (grant : List Byte) : Bool :=
  match (s.furrow f).openChallenge with
  | some bs => decide (grant.length = 64) && grantVerifies s.fuses[f] bs grant
  | none => false

/-- A grant that is taken uses its challenge up; one that is good zeroises the furrow, and another is counted. -/
theorem execDbgGrant_taken (hu : (s.furrow f).tapUp = true) (hs : (s.furrow f).serves = true) :
    exec (.dbgGrant f grant) s = .next (if grantGood s f grant = true then
      (((Run.start s).modFur f fun c => c.modSec fun z => { z with challenge := none }).zeroise f).now
      else s.setFurrow f ((s.furrow f).modSec fun z =>
        { z with challenge := none, unlockFails := BitVec.ofNat 4 (min 8 (z.unlockFails.toNat + 1)) })) := by
  have goes : ¬ ((!(s.furrow f).tapUp) = true ∨ (!(s.furrow f).serves) = true) := by simp [hu, hs]
  refine (congrArg Run.done (if_neg goes)).trans ?_
  by_cases good : grantGood s f grant = true
  · exact (congrArg Run.done (if_pos good)).trans (by rw [if_pos good]; rfl)
  · refine (congrArg Run.done (if_neg good)).trans ?_
    rw [if_neg good]
    simp only [Run.done_next, Run.modFur_now, Run.start_now, State.furrow_setFurrow_same, State.setFurrow_setFurrow]
    rfl

/-- A boundary-scan instruction of a code. -/
theorem Run.scan_spec (code : Byte) :
    ((s.furrow f).life = .reset → ((Run.start s).scan f code).done =
      .next (s.setFurrow f ((s.furrow f).modSec fun z => { z with extest := some code, scrubPending := true }))) ∧
    ((s.furrow f).life ≠ .reset → debugOn (s.furrow f).sec s.fuses[f] = false → ((Run.start s).scan f code).done = .next s) ∧
    ((s.furrow f).life ≠ .reset → debugOn (s.furrow f).sec s.fuses[f] = true → ((Run.start s).scan f code).done =
      .next (s.setFurrow f ((s.furrow f).modSec fun z => { z with scrubPending := true }))) :=
  ⟨fun h => done_modFur (if_pos h), fun h hd => done_modFur_self ((if_neg h).trans (if_neg (ne_true_of_eq_false hd))),
    fun h hd => done_modFur ((if_neg h).trans (if_pos hd))⟩

end

/-- Settles O49: what ends in a zeroisation leaves the root of trust alone, so the challenge that the grant used up stays gone. That a grant
without a valid challenge counts as a failed one, that a challenge is valid below 600 s, and what boundary scan does out of reset are the
model's choice (log 68). -/
theorem debugAndBoundaryScan : Obligations.DebugAndBoundaryScan := by
  intro f grant s
  refine ⟨fun hu => ⟨congrArg Run.done (if_pos (by simp [hu])), execDbgGrant_barred (.inl hu)⟩, fun hu => ⟨fun h8 => ?_, fun h8 => ?_⟩,
    fun hu hs => ?_, fun hs => execDbgGrant_barred (.inr hs), fun h => done_modFur (if_pos (by simp [h])),
    fun h => done_modFur_self (if_neg (by simpa using h)), fun c code hc => ?_⟩
  · have up : ¬ (!(s.furrow f).tapUp) = true := by simp [hu]
    exact congrArg Run.done ((if_neg up).trans (if_pos h8))
  · refine ⟨_, execDbgChallenge_fresh hu h8 rfl, s.onlyFurrow_setFurrow f _, rfl, ?_⟩
    rw [State.furrow_setFurrow_same]
    exact ⟨rfl, challengeBytes_length _ _ _ _, rfl⟩
  · intro good
    have taken := execDbgGrant_taken (grant := grant) hu hs
    split
    next yes =>
      obtain ⟨t, ht⟩ : ∃ t, (((Run.start s).modFur f fun c => c.modSec fun z => { z with challenge := none }).zeroise f).now = t := ⟨_, rfl⟩
      obtain ⟨sec, fuses, hbm, t1, t0⟩ := Run.zeroise_leaves _ f ht
      refine ⟨t, taken.trans (congrArg Host.Outcome.next ((if_pos yes).trans ht)), ?_⟩
      rw [Run.modFur_now, State.furrow_setFurrow_same] at sec
      rw [sec, hbm, t1, t0]
      exact ⟨rfl, rfl, rfl, rfl, fuses, fun a => ⟨rfl, rfl, rfl⟩⟩
    next no => exact taken.trans (congrArg Host.Outcome.next (if_neg no))
  · simp only [List.mem_cons, List.not_mem_nil, or_false, Prod.mk.injEq] at hc
    rcases hc with ⟨rfl, rfl⟩ | ⟨rfl, rfl⟩ | ⟨rfl, rfl⟩ <;> exact Run.scan_spec _

end Sys2Proof.Machine
end

section
namespace Sys2Proof.Machine

/-! ### The core rail (R441, R442, R444) -/

section
variable {f : FurrowIx} {s : State}

/-- A furrow that runs and reports an error: its power block stands, and its error ring has taken one SEQ. -/
theorem Furrow.report_alive {c : Furrow} (alive : c.alive = true) {e : ErrRec} (he : e.corrected = false) :
    (c.report e).pwr = c.pwr ∧ (c.report e).life = c.life ∧ (c.report e).err.seq = c.err.seq + 1 := by
  obtain ⟨x, y, hreport, hseq⟩ := c.report_eq e
  rw [hreport]
  exact ⟨rfl, rfl, (hseq he).trans (by rw [if_pos alive])⟩

/-- A furrow after a frame of its regulator link has failed three times. -/
def Furrow.frameFailed (c : Furrow) : Furrow :=
  (c.modPwr fun p => { p with avsFault := true, reqMv := p.confMv }).report (errRec 0x78 0 3)

theorem execAvsFrameFail_faults (ha : (s.furrow f).alive = true) (hv : (s.furrow f).pwr.vrEn = true) (hf : (s.furrow f).pwr.avsFault = false) :
    exec (.avsFrameFail f) s = .next (s.setFurrow f (s.furrow f).frameFailed) :=
  done_modFur (if_neg (by simp [ha, hv, hf]))

/-- A furrow whose core rail has been out of range for 1 ms. -/
def Furrow.railFaulted (c : Furrow) : Furrow :=
  ((c.modPwr fun p => { p with railFault := true, level := 15 }).raiseTops).report (errRec 0x73 0 (c.pwr.coreMv.toNat + 2 ^ 16 * c.pwr.reqMv.toNat))

theorem execRailFault_faults (ha : (s.furrow f).alive = true) (hf : (s.furrow f).pwr.railFault = false)
    (hl : lasting (s.furrow f).ns (s.furrow f).pwr.outSince 1000000 = true) :
    exec (.railFault f) s = .next (s.setFurrow f (s.furrow f).railFaulted) :=
  done_modFur (if_pos ⟨ha, by rw [hf]; rfl, hl⟩)

end

/-- Settles O56: an error record leaves the power block as it is. What confirms a request within ±3 % is the model's choice (log 69), and
stands inside `Power.sampled`. -/
theorem coreRailIsWatched : Obligations.CoreRailIsWatched := by
  intro f answers mv da s
  refine ⟨fun ha hv hf => ?_, fun h => done_modFur_self (if_pos ?_), fun hf => done_modFur_self (if_neg ?_),
    fun ha hv => ⟨fun hn => done_modFur (if_pos ⟨ha, hv, hn⟩), fun hn => done_modFur_self (if_neg ?_)⟩,
    fun ha hf => ⟨fun hl => ?_, fun hl => done_modFur_self (if_neg ?_)⟩, fun hl hv hp => ?_, fun h => done_modFur_self (if_pos ?_)⟩
  · obtain ⟨pwr, life, seq⟩ := Furrow.report_alive
      (c := (s.furrow f).modPwr fun p => { p with avsFault := true, reqMv := p.confMv }) (e := errRec 0x78 0 3) ha rfl
    have alive : (s.furrow f).frameFailed.alive = true := by rw [← ha]; unfold Furrow.alive; rw [Furrow.frameFailed, life]; rfl
    have fault : (s.furrow f).frameFailed.pwr.avsFault = true := congrArg Power.avsFault pwr
    refine ⟨_, execAvsFrameFail_faults ha hv hf, ?_, ?_, s.onlyFurrow_setFurrow f _, rfl, done_modFur (if_pos ?_)⟩
    all_goals rw [State.furrow_setFurrow_same]
    · exact pwr
    · exact seq
    · exact ⟨alive, fault, rfl⟩
  · exact h.elim (fun ha => .inl (by rw [ha]; rfl)) fun hf => .inr (.inr hf)
  · simp [hf]
  · omega
  · obtain ⟨pwr, -, seq⟩ := Furrow.report_alive (c := ((s.furrow f).modPwr fun p => { p with railFault := true, level := 15 }).raiseTops)
      (e := errRec 0x73 0 ((s.furrow f).pwr.coreMv.toNat + 2 ^ 16 * (s.furrow f).pwr.reqMv.toNat)) ha rfl
    refine ⟨_, execRailFault_faults ha hf hl, ?_, ?_, s.onlyFurrow_setFurrow f _, rfl⟩
    all_goals rw [State.furrow_setFurrow_same]
    · exact pwr
    · exact seq
  · simp [hl]
  · have goes : ¬ ((s.furrow f).life ≠ .reset ∨ (s.furrow f).pwr.vrEn = true ∨ (!s.hdl.mainPower) = true) := by simp [hl, hv, hp]
    exact ⟨done_modFur (if_neg goes), done_modFur (if_neg goes)⟩
  · exact h.imp_right fun h => h.imp_right fun hm => by rw [hm]; rfl

end Sys2Proof.Machine
end

section
namespace Sys2Proof.Machine

variable {s₀ : State}

/-! ### The module's buses and lands (R443, R457, R459, R460, R469) -/

/-- A run that has changed furrows alone. -/
theorem Run.landEvent_keeps (r : Run s₀) (land : Byte) :
    (r.landEvent land).now.hdl = r.now.hdl ∧ (r.landEvent land).now.host = r.now.host ∧ (r.landEvent land).now.mems = r.now.mems := by
  unfold Run.landEvent
  split
  · exact ⟨rfl, rfl, rfl⟩
  · have kept := Run.each_keeps (fun t => (t.hdl, t.host, t.mems))
      (fun r f => r.modFur f fun c => if c.serves then c.raiseLand land (inputEvent land) else c) (fun _ _ => rfl) (List.finRange 8) r
    obtain ⟨hdl, rest⟩ := Prod.mk.inj kept
    obtain ⟨host, mems⟩ := Prod.mk.inj rest
    exact ⟨hdl, host, mems⟩

/-- An event of a module land is recorded by each furrow in service. -/
theorem Run.landEvent_furrow {r : Run s₀} (hf : r.now.hdl.failed = false) (land : Byte) (g : FurrowIx) :
    (r.landEvent land).now.furrow g =
      if (r.now.furrow g).serves then (r.now.furrow g).raiseLand land (inputEvent land) else r.now.furrow g := by
  rw [Run.landEvent, if_neg (by rw [hf]; decide), Run.furrow_each_modFur _ g _ (List.nodup_finRange 8),
    if_pos (List.mem_finRange g)]

section
variable {s : State} {k : Fin 4}

theorem execPmbusPoll_answered (hp : s.hdl.polls k = true) {x : PmbReading} {d : Headland}
    (hd : d = { s.hdl with
      alert := false, pmbSince := s.hdl.pmbSince.set k 0
      pmb := s.hdl.pmb.set k { voutMv := x.voutMv, ioutDa := x.ioutDa, temp := x.temp, status := x.status, stale := false } }) :
    exec (.pmbusPoll k (some x)) s = .next { s with hdl := if x.status = 0 then d else { d with msix := d.msix.set 1 (d.msix[1].fire 0 none) } } := by
  subst hd
  have goes : ¬(!s.hdl.polls k) = true := by rw [hp]; decide
  refine (congrArg Run.done (if_neg goes)).trans ?_
  dsimp only
  split <;> rfl

/-- An alert that the headland hears is a second one where the first has not been polled. -/
theorem execPmbAlert_heard (hf : s.hdl.failed = false) (hp : s.hdl.perst = false) : exec .pmbAlert s =
    (if s.hdl.alert then (Run.start s).landEvent 0x06 else ((Run.start s).modHdl fun d => { d with alert := true }).raisePf0 1).done := by
  have heard : ¬(s.hdl.failed = true ∨ s.hdl.perst = true) := by rw [hf, hp]; decide
  exact congrArg Run.done (if_neg heard)

theorem execPmbusStale_same (h : s.hdl.polls k = false ∨ s.hdl.pmbSince[k] < 3) : exec (.pmbusStale k) s = .next s := by
  refine congrArg (fun d => Host.Outcome.next { s with hdl := d }) (if_neg fun both => ?_)
  obtain ⟨polled, missed⟩ := both
  exact h.elim (fun hp => absurd (hp.symm.trans polled) (by decide)) fun hn => Nat.lt_irrefl _ (Nat.lt_of_lt_of_le hn missed)

/-- A short on a furrow's VR_EN takes the furrow offline and, where it does not run, releases its rail. -/
theorem execSidebandShort_vrEn (f : FurrowIx) : exec (.sidebandShort (.vrEn f) false) s =
    .next (((Run.start s).lose f 0x11).modFur f fun c => if c.life = .reset then c.modPwr fun p => { p with vrEn := false } else c).now := rfl

theorem execSidebandShort_vrEn_reset {f : FurrowIx} (hl : (s.furrow f).life = .reset) :
    exec (.sidebandShort (.vrEn f) false) s = .next (s.setFurrow f ((s.furrow f).modPwr fun p => { p with vrEn := false })) := by
  rw [execSidebandShort_vrEn, Run.lose_not_alive _ f _ (show (s.furrow f).alive = false by simp [Furrow.alive, hl])]
  exact done_modFur (if_pos hl)

theorem execSidebandShort_vrEn_lost {f : FurrowIx} (ha : (s.furrow f).alive = true) :
    ∃ t, exec (.sidebandShort (.vrEn f) false) s = .next t ∧ (t.furrow f).life = .lost := by
  obtain ⟨life, -, -⟩ := Run.lose_alive (Run.start s) f 0x11 ha
  refine ⟨_, execSidebandShort_vrEn f, ?_⟩
  rw [Run.modFur_now, State.furrow_setFurrow_same, if_neg (by rw [life]; decide), life]

end

/-- Settles O57. That any set bit of STATUS_WORD is a fault, that three polls without an answer stand for the 35 ms of R443, and that the
interval of the second alert is the next poll, is the model's choice (log 69). -/
theorem moduleBusesAndLands : Obligations.ModuleBusesAndLands := by
  intro k f s
  refine ⟨fun hp a => ⟨congrArg Run.done (if_pos (by rw [hp]; rfl)), execPmbusStale_same (.inl hp)⟩,
    fun hp => ⟨congrArg Run.done (if_neg (by rw [hp]; decide)), fun x => execPmbusPoll_answered hp rfl, fun h3 => ?_,
      fun h3 => execPmbusStale_same (.inr h3)⟩, fun h => congrArg Run.done (if_pos h), fun hf hp ha => ?_, fun hf hp ha => ?_,
    fun hf b c => congrArg Run.done (if_pos hf), fun hf => ⟨fun c => ?_, fun g c => ?_⟩, rfl, rfl, rfl, rfl, rfl, rfl, rfl,
    execSidebandShort_vrEn_reset, execSidebandShort_vrEn_lost, fun h => ?_, fun hp hf => ?_⟩
  · have missed : s.hdl.polls k = true ∧ 3 ≤ s.hdl.pmbSince[k] := ⟨hp, h3⟩
    exact congrArg (fun d => Host.Outcome.next { s with hdl := d }) (if_pos missed)
  · exact (execPmbAlert_heard hf hp).trans (congrArg Run.done (if_neg (by rw [ha]; decide)))
  · have event : exec .pmbAlert s = .next ((Run.start s).landEvent 0x06).now :=
      (execPmbAlert_heard hf hp).trans (congrArg Run.done (if_pos ha))
    obtain ⟨hdl, host, mems⟩ := (Run.start s).landEvent_keeps 0x06
    exact ⟨_, event, hdl, host, mems, Run.landEvent_furrow hf 0x06⟩
  · obtain ⟨hdl, host, mems⟩ := ((Run.start s).modHdl fun d =>
      { d with pmb := d.pmb.set k { d.pmb[k] with stale := true } }).landEvent_keeps (if c then 0x08 else 0x07)
    refine ⟨_, congrArg Run.done (if_neg (by rw [hf]; decide)), ?_, host, mems⟩
    dsimp only
    rw [hdl]
    exact congrArg PmbRail.stale (Vector.getElem_set_self k.isLt)
  · obtain ⟨hdl, host, mems⟩ := (Run.start s).landEvent_keeps (if c then 0x0A else 0x09)
    exact ⟨_, congrArg Run.done (if_neg (by rw [hf]; decide)), hdl, host, mems⟩
  · by_cases hp : s.hdl.perst = true
    · exact congrArg Run.done (if_pos hp)
    · exact (congrArg Run.done (if_neg hp)).trans (congrArg Run.done (if_pos (h.resolve_left hp)))
  · obtain ⟨hdl, host, mems⟩ := (Run.start s).landEvent_keeps 0x01
    exact ⟨_, congrArg Run.done (if_neg (by rw [hp]; decide)), hdl, host, mems, Run.landEvent_furrow hf 0x01⟩

end Sys2Proof.Machine
end

section
namespace Sys2Proof.Machine

variable {s₀ : State}

/-! ### Throttling and trips (R456–R458) -/

theorem Furrow.report_pwr (c : Furrow) (e : ErrRec) : (c.report e).pwr = c.pwr := by
  obtain ⟨x, y, hreport, -⟩ := c.report_eq e
  rw [hreport]

theorem Furrow.throttleRecords_pwr (c : Furrow) (old : Power) (m : ThermalReading) : (c.throttleRecords old m).pwr = c.pwr := by
  have once (p : Bool) (d : Furrow) (e : ErrRec) : (if p then d.report e else d).pwr = d.pwr := by
    cases p with
    | false => rfl
    | true => exact d.report_pwr e
  exact (once _ _ _).trans (once _ _ _)

/-- A furrow after an evaluation. -/
def Furrow.evaluated (c : Furrow) (m : ThermalReading) : Furrow :=
  (c.modPwr fun p => { p.throttled m with nextEval := c.ns + 100000 }).raiseTops.throttleRecords c.pwr m

theorem Furrow.evaluated_pwr (c : Furrow) (m : ThermalReading) :
    (c.evaluated m).pwr = { c.pwr.throttled m with nextEval := c.ns + 100000 } := Furrow.throttleRecords_pwr _ _ _

section
variable {p : Power} {m : ThermalReading}

theorem Power.throttled_level_fault (hf : p.railFault = true) : (p.throttled m).level = 15 := by
  simp [Power.throttled, hf]

theorem Power.throttled_level_rises (hf : p.railFault = false)
    (h : p.limitW.toNat < m.powerW.toNat ∨ p.tThrottle.toNat ≤ m.tj.toNat ∨ 95 ≤ m.hbm.toNat) :
    (p.throttled m).level.toNat = min (p.level.toNat + 1) 15 := by
  have above : (decide (p.limitW.toNat < m.powerW.toNat) || (decide (p.tThrottle.toNat ≤ m.tj.toNat) || decide (95 ≤ m.hbm.toNat))) = true := by
    simpa using h
  simp only [Power.throttled, hf, above, Bool.false_eq_true, if_false, if_true, BitVec.toNat_ofNat]
  omega

theorem Power.throttled_level_falls (hf : p.railFault = false) (hp : m.powerW.toNat + 20 < p.limitW.toNat)
    (ht : m.tj.toNat + 3 < p.tThrottle.toNat) (hh : m.hbm.toNat < 95) : (p.throttled m).level.toNat = p.level.toNat - 1 := by
  have below : (decide (p.limitW.toNat < m.powerW.toNat) || (decide (p.tThrottle.toNat ≤ m.tj.toNat) || decide (95 ≤ m.hbm.toNat))) = false := by
    simp only [Bool.or_eq_false_iff, decide_eq_false_iff_not]
    omega
  have cool : (decide (m.powerW.toNat + 20 < p.limitW.toNat) && decide (m.tj.toNat + 3 < p.tThrottle.toNat) &&
      decide (m.hbm.toNat < 95)) = true := by simp [hp, ht, hh]
  have small := p.level.isLt
  simp only [Power.throttled, hf, below, cool, Bool.false_eq_true, if_false, if_true, BitVec.toNat_ofNat]
  omega

theorem Power.throttled_level_stays (hf : p.railFault = false) (h1 : m.powerW.toNat ≤ p.limitW.toNat)
    (h2 : p.limitW.toNat ≤ m.powerW.toNat + 20) (ht : m.tj.toNat < p.tThrottle.toNat) (hh : m.hbm.toNat < 95) :
    (p.throttled m).level = p.level := by
  have below : (decide (p.limitW.toNat < m.powerW.toNat) || (decide (p.tThrottle.toNat ≤ m.tj.toNat) || decide (95 ≤ m.hbm.toNat))) = false := by
    simp only [Bool.or_eq_false_iff, decide_eq_false_iff_not]
    omega
  have warm : (decide (m.powerW.toNat + 20 < p.limitW.toNat) && decide (m.tj.toNat + 3 < p.tThrottle.toNat) &&
      decide (m.hbm.toNat < 95)) = false := by
    have near : ¬ m.powerW.toNat + 20 < p.limitW.toNat := by omega
    simp [near]
  simp only [Power.throttled, hf, below, warm, Bool.false_eq_true, if_false, BitVec.ofNat_toNat, BitVec.setWidth_eq]

end

section
variable {f : FurrowIx} {m : ThermalReading} {s : State}

theorem execThrottleEval_same (h : (s.furrow f).alive = false ∨ (s.furrow f).ns.toNat < (s.furrow f).pwr.nextEval.toNat) :
    exec (.throttleEval f m) s = .next s := by
  have skip : (!(s.furrow f).alive) = true ∨ (s.furrow f).ns.toNat < (s.furrow f).pwr.nextEval.toNat := h.imp_left fun ha => by rw [ha]; rfl
  exact congrArg Run.done (if_pos skip)

/-- An evaluation that falls due changes its furrow, and of the headland at most MODULE_W. -/
theorem execThrottleEval_due (ha : (s.furrow f).alive = true) (hn : (s.furrow f).pwr.nextEval.toNat ≤ (s.furrow f).ns.toNat) :
    ∃ d, exec (.throttleEval f m) s = .next { s.setFurrow f ((s.furrow f).evaluated m) with hdl := d } := by
  have goes : ¬((!(s.furrow f).alive) = true ∨ (s.furrow f).ns.toNat < (s.furrow f).pwr.nextEval.toNat) := by
    simp only [ha, Bool.not_true, Bool.false_eq_true, false_or]
    omega
  by_cases hf : s.hdl.failed = true
  · exact ⟨s.hdl, (congrArg Run.done (if_neg goes)).trans (congrArg Run.done (if_pos hf))⟩
  · exact ⟨_, (congrArg Run.done (if_neg goes)).trans (congrArg Run.done (if_neg hf))⟩

/-- The loss of a furrow leaves the headland failed or not. -/
theorem Run.lose_failed (r : Run s₀) (f : FurrowIx) (cause : Nat) : (r.lose f cause).now.hdl.failed = r.now.hdl.failed := by
  unfold Run.lose
  split
  · rfl
  dsimp only
  refine (Run.each_keeps (fun t => t.hdl.failed) _
    (fun r q => congrArg (fun x => x.1.failed) (r.loseRequest_plight f q)) _ _).trans ?_
  refine Eq.trans (b := (r.each ((List.finRange 64).flatMap fun h => (r.fur f).outstanding h)
    fun r q => if q.isEnded then r else r.ruin f q).now.hdl.failed) ?_ ?_
  · unfold Run.markLost
    split <;> rfl
  · refine Run.each_keeps (fun t => t.hdl.failed) _ (fun r q => ?_) _ _
    split
    · rfl
    · exact congrArg Headland.failed (r.ruin_hdl f q)

theorem execThermalTrip_cold (h1 : m.tj.toNat < 115) (h2 : m.hbm.toNat < 105) : exec (.thermalTrip f m) s = .next s := by
  have cold : (!trips m) = true ∨ (!(s.furrow f).alive) = true := .inl (by simp [trips, h1, h2])
  exact congrArg Run.done (if_pos cold)

/-- A furrow that trips, offline with its rail released. -/
def Run.tripped (r : Run s₀) (f : FurrowIx) (m : ThermalReading) : Run s₀ :=
  ((r.modFur f fun c => c.report (errRec 0x72 4 (tripDetail m))).lose f 0x10).modFur f fun c => c.modPwr fun p => { p with vrEn := false }

theorem execThermalTrip_trips (h : 115 ≤ m.tj.toNat ∨ 105 ≤ m.hbm.toNat) (ha : (s.furrow f).alive = true) :
    exec (.thermalTrip f m) s = (if ((Run.start s).tripped f m).now.hdl.failed then (Run.start s).tripped f m
      else ((Run.start s).tripped f m).modHdl fun d => { d with thermtrip := true, tripMap := addBit d.tripMap f.val }).done := by
  have hot : ¬((!trips m) = true ∨ (!(s.furrow f).alive) = true) := by
    simp only [trips, ha, Bool.not_or, Bool.not_true, Bool.false_eq_true, or_false, Bool.and_eq_true, Bool.not_eq_true', decide_eq_false_iff_not]
    omega
  exact congrArg Run.done (if_neg hot)

theorem Run.tripped_lost (r : Run s₀) (ha : (r.now.furrow f).alive = true) :
    ((r.tripped f m).now.furrow f).life = .lost ∧ ((r.tripped f m).now.furrow f).lossCause = some 0x10 ∧
      ((r.tripped f m).now.furrow f).pwr.vrEn = false ∧ (r.tripped f m).now.hdl.failed = r.now.hdl.failed ∧
      (r.now.hdl.failed = false → (r.tripped f m).now.hdl.lostMap.getLsbD f.val = true) := by
  have alive : ((r.modFur f fun c => c.report (errRec 0x72 4 (tripDetail m))).now.furrow f).alive = true := by
    obtain ⟨x, y, hreport, -⟩ := (r.now.furrow f).report_eq (errRec 0x72 4 (tripDetail m))
    rw [Run.modFur_now, State.furrow_setFurrow_same, hreport]
    exact ha
  obtain ⟨life, cause, lost⟩ := Run.lose_alive _ f 0x10 alive
  rw [Run.tripped, Run.modFur_now, State.furrow_setFurrow_same]
  exact ⟨life, cause, rfl, Run.lose_failed _ f 0x10, lost⟩

end

/-- Settles O58: neither error record touches the power block, and the loss of a furrow leaves the headland failed or not. That a stack at
95 °C or more counts as a hot junction, and so keeps the level from falling, is the model's choice (log 69). -/
theorem throttlingAndTrips : Obligations.ThrottlingAndTrips := by
  intro f m s
  refine ⟨execThrottleEval_same, fun ha hn => ?_, execThermalTrip_cold, fun h ha => ?_, fun tj => ⟨fun h => ?_, fun hf ht => ?_⟩⟩
  · obtain ⟨d, due⟩ := execThrottleEval_due (m := m) ha hn
    have pwr : ({ s.setFurrow f ((s.furrow f).evaluated m) with hdl := d }.furrow f).pwr =
        { (s.furrow f).pwr.throttled m with nextEval := (s.furrow f).ns + 100000 } :=
      (congrArg Furrow.pwr (State.furrow_setFurrow_same s f _)).trans (Furrow.evaluated_pwr _ m)
    refine ⟨_, due, ?_⟩
    rw [pwr]
    refine ⟨rfl, rfl, rfl, rfl, rfl, fun g hg => State.furrow_setFurrow_other s f g _ hg,
      fun hf => ?_, fun hf => ⟨Power.throttled_level_rises hf, Power.throttled_level_falls hf, Power.throttled_level_stays hf⟩⟩
    exact Power.throttled_level_fault hf
  · obtain ⟨life, cause, vrEn, failed, lost⟩ := Run.tripped_lost (m := m) (Run.start s) ha
    rw [execThermalTrip_trips h ha]
    split
    next hf => exact ⟨_, rfl, life, cause, vrEn, fun h0 => absurd (hf.symm.trans (failed.trans h0)) (by decide)⟩
    next => exact ⟨_, rfl, life, cause, vrEn, fun h0 => ⟨rfl, getLsbD_addBit _ _ f.isLt, lost h0⟩⟩
  · exact congrArg (fun d => Host.Outcome.next { s with hdl := d }) (if_pos h)
  · have trips : ¬(s.hdl.failed = true ∨ tj.toNat < 115) := by simp [hf, ht]
    exact congrArg (fun d => Host.Outcome.next { s with hdl := d }) (if_neg trips)

end Sys2Proof.Machine
end

section
namespace Sys2Proof.Machine

variable {s₀ : State}

/-! ### What is done to every furrow in turn -/

/-- A step for each furrow or port, which changes what is seen of that one alone, is taken once for each. -/
theorem Run.each_finRange {γ : Type} {n : Nat} (view : Fin n → State → γ) (g : Fin n → γ → γ) {step : Run s₀ → Fin n → Run s₀}
    (own : ∀ r k, view k (step r k).now = g k (view k r.now)) (other : ∀ r k f, f ≠ k → view f (step r k).now = view f r.now)
    (r : Run s₀) (f : Fin n) : view f (r.each (List.finRange n) step).now = g f (view f r.now) := by
  have once (fs : List (Fin n)) (hfs : fs.Nodup) (r : Run s₀) :
      view f (r.each fs step).now = if f ∈ fs then g f (view f r.now) else view f r.now := by
    induction fs generalizing r with
    | nil => rfl
    | cons k fs ih =>
      obtain ⟨hk, hfs⟩ := List.nodup_cons.1 hfs
      rw [Run.each_cons, ih hfs]
      by_cases e : f = k
      · subst e; simp [hk, own]
      · simp [e, other _ _ _ e]
  rw [once _ (List.nodup_finRange n), if_pos (List.mem_finRange f)]

theorem Run.each_modFur_furrow (g : FurrowIx → Furrow → Furrow) (r : Run s₀) (f : FurrowIx) :
    (r.each (List.finRange 8) fun r k => r.modFur k (g k)).now.furrow f = g f (r.now.furrow f) :=
  Run.each_finRange (fun k t => t.furrow k) g (fun r k => State.furrow_setFurrow_same r.now k _)
    (fun r k f e => State.furrow_setFurrow_other r.now k f _ e) r f

/-- What a change of furrows alone leaves of the module. -/
theorem Run.each_modFur_keeps (g : FurrowIx → Furrow → Furrow) (r : Run s₀) {t : State}
    (ht : t = (r.each (List.finRange 8) fun r k => r.modFur k (g k)).now) :
    t.mems = r.now.mems ∧ t.fuses = r.now.fuses ∧ t.host = r.now.host ∧ t.hdl = r.now.hdl := by
  have kept := Run.each_keeps (fun t => (t.mems, t.fuses, t.host, t.hdl)) (fun r k => r.modFur k (g k)) (fun _ _ => rfl) (List.finRange 8) r
  rw [← ht] at kept
  obtain ⟨mems, kept⟩ := Prod.mk.inj kept
  obtain ⟨fuses, kept⟩ := Prod.mk.inj kept
  obtain ⟨host, hdl⟩ := Prod.mk.inj kept
  exact ⟨mems, fuses, host, hdl⟩

/-! ### Power-up and its loss (R444, R446) -/

theorem Furrow.tallyEvent_vitals (c : Furrow) (f : FurrowIx) (event a b : Nat) : (c.tallyEvent f event a b).vitals = c.vitals := rfl

theorem Furrow.tallyBoot_vitals (c : Furrow) (f : FurrowIx) : (c.tallyBoot f).vitals = c.vitals := by
  refine (Furrow.tallyEvent_vitals _ f 0x07 _ _).trans (foldl_keeps Furrow.vitals _ (fun c h => ?_) _ c)
  dsimp only
  split <;> rfl

section
variable {s : State}

/-- A furrow after power-up. -/
def Furrow.poweredUp (vbat : Bool) (f : FurrowIx) (c : Furrow) : Furrow := ((c.held f 0 false false).islandUp vbat).tallyUp f

theorem Furrow.poweredUp_vitals (vbat : Bool) (f : FurrowIx) (c : Furrow) :
    (c.poweredUp vbat f).vitals = (.reset, [], 0, (c.held f 0 false false).pwr) := by
  refine (Furrow.tallyBoot_vitals _ f).trans ?_
  unfold Furrow.islandUp
  split
  · rfl
  · exact Furrow.keepHealth_vitals _ _

/-- A module that powers up, before its furrows start. -/
def Headland.poweredUp (d : Headland) : Headland :=
  { Headland.initial with vbat := d.vbat, vaux := true, mainPower := true, hdlVrEn := true, perst := true }

theorem execPowerUp_starts (hv : s.hdl.vaux = false) : exec .powerUp s =
    .next (((Run.start s).modHdl Headland.poweredUp).each (List.finRange 8) fun r f => r.modFur f (Furrow.poweredUp s.hdl.vbat f)).now :=
  congrArg Run.done (if_neg (by rw [hv]; decide))

/-- A headland whose power is gone. -/
def Headland.poweredDown (d : Headland) : Headland :=
  { Headland.initial with vbat := d.vbat, vaux := false, mainPower := false, hdlVrEn := false, perst := true, failed := true }

/-- A furrow whose power is gone. -/
def Furrow.poweredDown (vbat : Bool) (f : FurrowIx) (c : Furrow) : Furrow :=
  let c := c.held f 0 c.sec.scrubPending false
  { c with
    cal := c.cal.onBattery vbat
    counts := { c.counts with bad := [] }
    tally := { c.tally with open_ := Vector.replicate 64 none } }

/-- The memories of a furrow wiped. -/
def Run.wipeAll (r : Run s₀) (f : FurrowIx) : Run s₀ := ((r.act (.wipe (.hbm f))).act (.wipe (.t1 f))).act (.wipe (.t0 f))

theorem execPowerLoss_stops (hv : s.hdl.vaux = true) : exec .powerLoss s =
    .next (((Run.start s).modHdl Headland.poweredDown).each (List.finRange 8) fun r f =>
      (r.wipeAll f).modFur f (Furrow.poweredDown s.hdl.vbat f)).now :=
  congrArg Run.done (if_neg (by rw [hv]; decide))

/-- The memories of a furrow and its life. -/
def State.contents (f : FurrowIx) (t : State) : Mem × Mem × Mem × FurState := (t.mem (.hbm f), t.mem (.t1 f), t.mem (.t0 f), (t.furrow f).life)

theorem Run.wipeAll_other (r : Run s₀) (k : FurrowIx) (g : Furrow → Furrow) (f : FurrowIx) (e : f ≠ k) :
    ((r.wipeAll k).modFur k g).now.contents f = r.now.contents f := by
  simp [State.contents, Run.wipeAll, Act.apply, State.mem_setMem_other, State.furrow_setFurrow_other _ _ _ _ e, e]

theorem Run.wipeAll_own (r : Run s₀) (k : FurrowIx) (g : Furrow → Furrow) :
    ((r.wipeAll k).modFur k g).now.contents k = ([], [], [], (g (r.now.furrow k)).life) := by
  simp [State.contents, Run.wipeAll, Act.apply, State.mem_setMem_other]

theorem powerLoss_loses (hv : s.hdl.vaux = true) : ∃ t, exec .powerLoss s = .next t ∧ t.fuses = s.fuses ∧ t.host = s.host ∧
    t.hdl = s.hdl.poweredDown ∧ ∀ f : FurrowIx, t.contents f = ([], [], [], .reset) := by
  have kept := Run.each_keeps (fun t => (t.fuses, t.host, t.hdl))
    (fun r f => (r.wipeAll f).modFur f (Furrow.poweredDown s.hdl.vbat f)) (fun _ _ => rfl) (List.finRange 8)
    ((Run.start s).modHdl Headland.poweredDown)
  obtain ⟨fuses, kept⟩ := Prod.mk.inj kept
  obtain ⟨host, hdl⟩ := Prod.mk.inj kept
  exact ⟨_, execPowerLoss_stops hv, fuses, host, hdl, fun f =>
    Run.each_finRange State.contents (fun _ _ => ([], [], [], .reset)) (fun r k => r.wipeAll_own k _) (fun r k f e => r.wipeAll_other k _ f e) _ f⟩

/-- A furrow held in reset by a function-level reset or PERST#. -/
theorem Furrow.resetFor_held (c : Furrow) (f : FurrowIx) (vrEn : Bool) :
    (c.resetFor f vrEn).life = .reset ∧ (c.resetFor f vrEn).pwr.vrEn = vrEn := ⟨rfl, rfl⟩

/-! ### PERST# (R445–R447) -/

theorem execPerstAssert_same (h : s.hdl.perst = true ∨ s.hdl.vaux = false) : exec .perstAssert s = .next s := by
  have held : s.hdl.perst = true ∨ (!s.hdl.vaux) = true := h.imp_right fun hv => by rw [hv]; rfl
  exact congrArg Run.done (if_pos held)

theorem execPerstAssert_holds (hp : s.hdl.perst = false) (hv : s.hdl.vaux = true) : exec .perstAssert s =
    .next { ((Run.start s).each (List.finRange 8) fun r f => r.modFur f fun c => c.resetFor f false).now with
      hdl := ((Run.start s).each (List.finRange 8) fun r f => r.modFur f fun c => c.resetFor f false).now.hdl.held } := by
  have goes : ¬(s.hdl.perst = true ∨ (!s.hdl.vaux) = true) := by rw [hp, hv]; decide
  exact congrArg Run.done (if_neg goes)

theorem execPerstRelease_same {locked : Byte} (h : s.hdl.perst = false ∨ s.hdl.mainPower = false) : exec (.perstRelease locked) s = .next s := by
  have held : (!s.hdl.perst) = true ∨ (!s.hdl.mainPower) = true := by simpa using h
  exact congrArg Run.done (if_pos held)

/-- A headland that leaves reset. -/
def Headland.released (d : Headland) : Headland := { d with perst := false, portUp := d.hdlVrEn, failed := !d.hdlVrEn }

/-- A furrow when PERST# is released. -/
def Furrow.released (x : Fuses) (locked : Bool) (c : Furrow) : Furrow :=
  if c.pwr.vrEn ∧ !c.pwr.avsFault then c.start x locked else c

theorem execPerstRelease_releases {locked : Byte} (hp : s.hdl.perst = true) (hm : s.hdl.mainPower = true) : exec (.perstRelease locked) s =
    .next (((Run.start s).modHdl Headland.released).each (List.finRange 8)
      fun r f => r.modFur f (Furrow.released s.fuses[f] (locked.getLsbD f.val))).now := by
  have goes : ¬((!s.hdl.perst) = true ∨ (!s.hdl.mainPower) = true) := by rw [hp, hm]; decide
  exact congrArg Run.done (if_neg goes)

theorem Furrow.released_same {c : Furrow} {x : Fuses} {locked : Bool} (h : c.pwr.vrEn = false ∨ c.pwr.avsFault = true) :
    c.released x locked = c := by
  refine if_neg fun both => ?_
  obtain ⟨on, good⟩ := both
  rcases h with h | h
  · exact absurd (h.symm.trans on) (by decide)
  · rw [h] at good; cases good

theorem Furrow.released_starts {c : Furrow} {x : Fuses} {locked : Bool} (hv : c.pwr.vrEn = true) (ha : c.pwr.avsFault = false) :
    c.released x locked = c.start x locked := if_pos ⟨hv, by rw [ha]; rfl⟩

end

/-- Settles O59: each furrow is held, wiped or started in its turn. That a memory whose power is lost reads zero is the model's choice
(log 2). -/
theorem powerAndPerst : Obligations.PowerAndPerst := by
  intro s
  refine ⟨fun hv => congrArg Run.done (if_pos hv), fun hv => ?_, fun hv => congrArg Run.done (if_pos (by rw [hv]; rfl)), fun hv => ?_,
    execPerstAssert_same, fun hp hv => ?_, fun locked => ⟨execPerstRelease_same, fun hp hm => ?_⟩⟩
  · obtain ⟨mems, fuses, host, hdl⟩ := Run.each_modFur_keeps (Furrow.poweredUp s.hdl.vbat) ((Run.start s).modHdl Headland.poweredUp) rfl
    refine ⟨_, execPowerUp_starts hv, mems, fuses, host, ?_, ?_, ?_, fun f => ?_⟩
    iterate 3 rw [hdl]; rfl
    rw [Run.each_modFur_furrow]
    obtain ⟨life, rest⟩ := Prod.mk.inj (Furrow.poweredUp_vitals s.hdl.vbat f (s.furrow f))
    obtain ⟨reqs, rest⟩ := Prod.mk.inj rest
    exact ⟨life, (Prod.mk.inj rest).1, reqs⟩
  · obtain ⟨t, lost, fuses, host, hdl, wiped⟩ := powerLoss_loses hv
    refine ⟨t, lost, fuses, host, by rw [hdl]; rfl, by rw [hdl]; rfl, fun f => ?_⟩
    have all := wiped f
    simp only [State.contents, Prod.mk.injEq] at all
    obtain ⟨hbm, t1, t0, life⟩ := all
    rw [hbm, t1, t0]
    exact ⟨life, fun a => ⟨rfl, rfl, rfl⟩⟩
  · obtain ⟨mems, fuses, host, hdl⟩ := Run.each_modFur_keeps (fun f c => c.resetFor f false) (Run.start s) rfl
    have furs := Run.each_modFur_furrow (fun f c => c.resetFor f false) (Run.start s)
    have next := execPerstAssert_holds hp hv
    generalize ((Run.start s).each (List.finRange 8) fun r f => r.modFur f fun c => c.resetFor f false).now = t at mems fuses host hdl furs next
    refine ⟨_, next, mems, fuses, host, congrArg Headland.held hdl, rfl, fun f => ⟨furs f, ?_⟩⟩
    obtain ⟨life, rail⟩ := (s.furrow f).resetFor_held f false
    exact ⟨(congrArg Furrow.life (furs f)).trans life, (congrArg (fun c => c.pwr.vrEn) (furs f)).trans rail⟩
  · obtain ⟨mems, fuses, host, hdl⟩ := Run.each_modFur_keeps (fun f => Furrow.released s.fuses[f] (locked.getLsbD f.val))
      ((Run.start s).modHdl Headland.released) rfl
    refine ⟨_, execPerstRelease_releases hp hm, mems, fuses, host, by rw [hdl]; rfl, fun f => ?_⟩
    have own : (((Run.start s).modHdl Headland.released).each (List.finRange 8)
        fun r k => r.modFur k (Furrow.released s.fuses[k] (locked.getLsbD k.val))).now.furrow f =
        (s.furrow f).released s.fuses[f] (locked.getLsbD f.val) := Run.each_modFur_furrow _ _ f
    rw [own]
    refine ⟨Furrow.released_same, fun hv ha => ⟨fun hl => ?_, fun hl => ?_⟩⟩
    · rw [Furrow.released_starts hv ha, hl]
      exact congrArg Prod.fst (Furrow.boot_vitals _ _)
    · rw [Furrow.released_starts hv ha, hl]
      rfl

end Sys2Proof.Machine
end

section
namespace Sys2Proof.Machine

variable {s₀ : State}

/-! ### The error counts of a furrow (R421, R422, Table 19-7) -/

theorem Furrow.rollCounts_today {c : Furrow} (hd : elapsed c.ns c.counts.since < dayNs) : c.rollCounts = c := if_pos hd

/-- The kinds of record that count against a stack. -/
def ErrRec.stackLoss (e : ErrRec) : Prop := e.kind = 0x04 ∨ e.kind = 0x08

/-- An error that is not an uncorrectable block of memory leaves the counts as they are. -/
theorem Furrow.raise_counts (c : Furrow) {e : ErrRec} (he : ¬e.stackLoss) (ends : List (Handle × Tag)) : (c.raise e ends).counts = c.counts := by
  have same : c.countUe e = c := dif_neg fun both => he both.1
  unfold Furrow.raise
  rw [same]

/-- No error record forgets uncorrectable data. -/
theorem Furrow.raise_bad (c : Furrow) (e : ErrRec) (ends : List (Handle × Tag)) : (c.raise e ends).counts.bad = c.counts.bad := by
  have counted : (c.countUe e).counts.bad = c.counts.bad := by
    unfold Furrow.countUe Furrow.rollCounts
    dsimp only
    split
    · split <;> rfl
    · rfl
  exact counted

theorem Furrow.raiseCorrected_counts (c : Furrow) (source : Nat) {e : ErrRec} (he : ¬e.stackLoss) :
    (c.raiseCorrected source e).counts = c.counts := by
  unfold Furrow.raiseCorrected
  split
  · exact c.raise_counts he []
  · dsimp only
    split
    · rfl
    · exact Furrow.raise_counts c (e := { e with count := _ }) he []

theorem Furrow.keepHealth_counts (c : Furrow) (g : Health → Health) : (c.keepHealth g).counts = c.counts := by
  obtain ⟨a, b, kept⟩ := c.keepHealth_eq g
  rw [kept]

/-- What the record of a new reason and the reason itself leave of a furrow, the call for replacement leaves. -/
theorem Run.weighHealth_view {γ : Type} {view : Furrow → γ} (hv : ∀ (c : Furrow) (v : W32),
      view ((c.keepHealth fun x => { x with reasons := v }).raise (errRec 0x43 0 v.toNat) []) = view c) (r : Run s₀) (f : FurrowIx) :
    view ((r.weighHealth f).now.furrow f) = view (r.now.furrow f) := by
  have kept (v : W32) : view ((r.modFur f fun c =>
      (c.keepHealth fun x => { x with reasons := v }).raise (errRec 0x43 0 v.toNat) []).now.furrow f) = view (r.now.furrow f) := by
    rw [Run.modFur_now, State.furrow_setFurrow_same]
    exact hv _ v
  unfold Run.weighHealth
  dsimp only
  split
  · rfl
  · split
    · exact kept _
    · exact kept _

theorem Run.weighHealth_counts (r : Run s₀) (f : FurrowIx) : ((r.weighHealth f).now.furrow f).counts = (r.now.furrow f).counts := by
  refine Run.weighHealth_view (view := Furrow.counts) (fun c v => ?_) r f
  have called : ¬(errRec 0x43 0 v.toNat).stackLoss := show ¬((0x43 : Byte) = 0x04 ∨ (0x43 : Byte) = 0x08) by decide
  exact (Furrow.raise_counts _ called []).trans (c.keepHealth_counts _)

/-- A call for replacement leaves host memory, the furrows' memories, and of its furrow the requests. -/
theorem Run.weighHealth_keeps (r : Run s₀) (f : FurrowIx) :
    (r.weighHealth f).now.host = r.now.host ∧ (r.weighHealth f).now.mems = r.now.mems ∧
      ((r.weighHealth f).now.furrow f).reqs = (r.now.furrow f).reqs := by
  obtain ⟨vitals, rest⟩ := Prod.mk.inj (r.weighHealth_standing f f)
  obtain ⟨host, rest⟩ := Prod.mk.inj rest
  obtain ⟨-, vitals⟩ := Prod.mk.inj vitals
  exact ⟨host, (Prod.mk.inj rest).1, (Prod.mk.inj vitals).1⟩

/-- A change of one furrow's control part and the call for replacement that may follow. -/
theorem Run.modFur_weighHealth (r : Run s₀) (f : FurrowIx) (g : Furrow → Furrow) :
    (((r.modFur f g).weighHealth f).now.furrow f).counts = (g (r.now.furrow f)).counts ∧
      ((r.modFur f g).weighHealth f).now.host = r.now.host ∧ ((r.modFur f g).weighHealth f).now.mems = r.now.mems := by
  obtain ⟨host, mems, -⟩ := (r.modFur f g).weighHealth_keeps f
  refine ⟨(Run.weighHealth_counts _ f).trans ?_, host, mems⟩
  rw [Run.modFur_now, State.furrow_setFurrow_same]

/-! ### Corrected errors (R421) -/

section
variable {c : Furrow} (hd : elapsed c.ns c.counts.since < dayNs)
include hd

theorem Furrow.corrected_scratch (k : CoreIx) (off : BitVec 21) (bit : Byte) :
    (c.corrected (.scratch k off bit)).counts = { c.counts with sram := c.counts.sram + 1 } := by
  unfold Furrow.corrected
  rw [Furrow.rollCounts_today hd]
  exact Furrow.raiseCorrected_counts _ _ (show ¬((0x01 : Byte) = 0x04 ∨ (0x01 : Byte) = 0x08) by decide)

theorem Furrow.corrected_unit (cl : ClusterIx) (u : Fin 16) (off : BitVec 20) (bit : Byte) :
    (c.corrected (.unit cl u off bit)).counts = { c.counts with sram := c.counts.sram + 1 } := by
  unfold Furrow.corrected
  rw [Furrow.rollCounts_today hd]
  exact Furrow.raiseCorrected_counts _ _ (show ¬((0x01 : Byte) = 0x04 ∨ (0x01 : Byte) = 0x08) by decide)

theorem Furrow.corrected_hbm (off : BitVec 38) (n : Byte) (onDie again : Bool) :
    ∃ x, (c.corrected (.hbm off n onDie again)).counts = { c.counts with hbm := c.counts.hbm + BitVec.ofNat 32 n.toNat, stackCe := x } := by
  unfold Furrow.corrected
  rw [Furrow.rollCounts_today hd]
  exact ⟨_, Furrow.raiseCorrected_counts _ _ (show ¬((0x03 : Byte) = 0x04 ∨ (0x03 : Byte) = 0x08) by decide)⟩

end

/-- A corrected error, as the scrubber and the readers of a memory meet it. -/
def Run.correctedAt (r : Run s₀) (f : FurrowIx) (p : ErrorPlace) : Run s₀ := (r.modFur f fun c => c.corrected p).weighHealth f

section
variable {f : FurrowIx} {s : State}

theorem execCorrectedError_hbm {off : BitVec 38} {n : Byte} {onDie again : Bool} (hc : hbmCorrects n onDie again = true) :
    exec (.correctedError f (.hbm off n onDie again)) s = .next ((Run.start s).correctedAt f (.hbm off n onDie again)).now :=
  congrArg Run.done (if_pos hc)

/-- The counts after a corrected error, where nothing else of the memories has changed. -/
theorem correctedAt_counts {p : ErrorPlace} {x : ErrCounts} (hx : ((s.furrow f).corrected p).counts = x)
    (hc : exec (.correctedError f p) s = .next ((Run.start s).correctedAt f p).now) :
    ∃ t, exec (.correctedError f p) s = .next t ∧ (t.furrow f).counts = x ∧ t.host = s.host ∧ t.mems = s.mems := by
  obtain ⟨counts, host, mems⟩ := (Run.start s).modFur_weighHealth f fun c => c.corrected p
  exact ⟨_, hc, counts.trans hx, host, mems⟩

/-! ### Uncorrectable data (R422) -/

theorem Furrow.markBad_bad {c : Furrow} {p : ErrorPlace} {b : BadWord} {a : Nat} (hp : badWordOf p = some (b, a)) :
    b ∈ (c.markBad p).counts.bad := by
  cases p with
  | nand psa n => cases hp
  | path code => cases hp
  | scratch k off bit =>
    simp only [Furrow.markBad, hp]
    exact List.mem_append_right _ (List.mem_singleton_self b)
  | unit cl u off bit =>
    simp only [Furrow.markBad, hp]
    exact List.mem_append_right _ (List.mem_singleton_self b)
  | hbm off n onDie again =>
    simp only [Furrow.markBad, hp]
    exact List.mem_append_right _ (List.mem_singleton_self b)

/-- A change that marks a place bad, and the call for replacement that may follow. -/
theorem Run.marked_bad (r : Run s₀) (f : FurrowIx) {g : Furrow → Furrow} {b : BadWord} (hb : b ∈ (g (r.now.furrow f)).counts.bad) :
    b ∈ (((r.modFur f g).weighHealth f).now.furrow f).counts.bad := by
  obtain ⟨counts, -, -⟩ := r.modFur_weighHealth f g
  rw [counts]
  exact hb

/-- Uncorrectable data recorded for no request. -/
def Furrow.recordLoss (p : ErrorPlace) (c : Furrow) : Furrow := c.raise (lossRecord c p 0 0 0).1.unowned []

theorem execUncorrectableData_unowned {p : ErrorPlace} {b : BadWord} {a : Nat} (hp : badWordOf p = some (b, a))
    (hn : ∀ off m d r, p = .hbm off m d r → hbmCorrects m d r = false) :
    exec (.uncorrectableData f p none) s =
      .next ((((Run.start s).modFur f fun c => c.markBad p).modFur f (Furrow.recordLoss p)).weighHealth f).now := by
  cases p with
  | nand psa n => cases hp
  | path code => cases hp
  | scratch k off bit => rfl
  | unit cl u off bit => rfl
  | hbm off n onDie again =>
    have lost : ¬hbmCorrects n onDie again = true := by rw [hn off n onDie again rfl]; decide
    exact congrArg (fun r : Run s => (r.weighHealth f).done) (if_neg lost)

theorem execPatrolScrub_nothing {p : ErrorPlace} (x : ScrubResult) (hp : badWordOf p = none) : exec (.patrolScrub f p x) s = .next s := by
  show execPatrolScrub f p x s = _
  unfold execPatrolScrub
  rw [hp]
  cases x <;> rfl

theorem execPatrolScrub_corrected {p : ErrorPlace} {b : BadWord × Nat} (hp : badWordOf p = some b) :
    exec (.patrolScrub f p .corrected) s = .next ((Run.start s).correctedAt f p).now := by
  show execPatrolScrub f p .corrected s = _
  unfold execPatrolScrub
  rw [hp]
  rfl

/-- What the scrubber makes of a furrow where it finds a block that it cannot correct. -/
def Furrow.scrubbedBad (p : ErrorPlace) (b : BadWord) (a : Nat) (c : Furrow) : Furrow :=
  (c.markBad p).raise { (ueRecord b a 0 0 0).unowned with kind := 0x08, ctx := c.holderOf p } []

theorem execPatrolScrub_bad {p : ErrorPlace} {b : BadWord} {a : Nat} (hp : badWordOf p = some (b, a)) :
    exec (.patrolScrub f p .uncorrectable) s = .next (((Run.start s).modFur f (Furrow.scrubbedBad p b a)).weighHealth f).now := by
  show execPatrolScrub f p .uncorrectable s = _
  unfold execPatrolScrub
  rw [hp]
  rfl

/-! ### Requests that meet it (R423, R424) -/

theorem Furrow.dataError_request? {c : Furrow} {e : Eng} {q : Request} (hq : c.request? e.h e.tag = some q) (x : ErrRec) (memory : Nat) :
    ∃ q', (c.dataError e x memory).1.request? e.h e.tag = some q' := by
  refine ⟨_, Furrow.request?_modReq_of_keepsName (q := q) (fun _ => ⟨rfl, rfl, rfl⟩) ?_⟩
  rw [Furrow.request?_congr (congrArg Prod.snd (Furrow.raise_holders _ _ _)), hq]

theorem Furrow.reqs_besideStore : BesideStore Furrow.reqs := fun _ _ _ => rfl

/-- A running request that meets uncorrectable data ends DATA_ERROR. -/
theorem Run.containRead_ends {r : Run s₀} {q : Request} (hq : (r.now.furrow f).request? q.h q.tag = some q) (x : ErrRec) (memory : Nat) :
    ∃ e, (r.containRead f q x memory).now.descriptorEnded f q.h q.tag e ∧ e.status = Status.dataError := by
  obtain ⟨q1, found⟩ := Furrow.dataError_request? (e := q.eng f) hq x memory
  refine ⟨_, Run.engineEnds_descriptorEnded ⟨{ q1 with await := none }, ?_⟩ _, rfl⟩
  rw [Run.modFur_now, State.furrow_setFurrow_same]
  refine Furrow.request?_modReq_of_keepsName (q := q1) (fun _ => ⟨rfl, rfl, rfl⟩) ?_
  rw [Furrow.request?_congr (Run.ruin_keeps Furrow.reqs_besideStore _ f q), Run.setFur_now, State.furrow_setFurrow_same]
  exact found

section
variable {h : Handle} {tag : Tag} {q : Request} (hq : (s.furrow f).request? h tag = some q)
include hq

theorem execHostPoison_running (hp : q.phase = .running) (addr : W64) :
    exec (.hostPoison f h (some tag) addr) s = .next ((Run.start s).containRead f q { errRec 0x09 2 0 with
      ctx := BitVec.ofNat 16 h.val, tag := tag, opcode := BitVec.ofNat 8 q.op, addr := addr } 6).now := by
  show execHostPoison f h (some tag) addr s = _
  simp only [execHostPoison, hq, Option.filter_some, hp, decide_true, if_true, Run.done_next]

theorem execHostPoison_waiting (hp : q.phase ≠ .running) (addr : W64) : exec (.hostPoison f h (some tag) addr) s = .next s := by
  show execHostPoison f h (some tag) addr s = _
  simp only [execHostPoison, hq, Option.filter_some, hp, decide_false, Bool.false_eq_true, if_false, Run.done_next, Run.start_now]

theorem execUncorrectableData_path (hp : q.phase = .running) (code : Byte) :
    exec (.uncorrectableData f (.path code) (some ⟨h, tag⟩)) s =
      .next ((((Run.start s).modFur f id).containRead f q (lossRecord (s.furrow f) (.path code) q.h q.tag q.op).1 5).weighHealth f).now := by
  show execUncorrectableData f (.path code) (some ⟨h, tag⟩) s = _
  simp only [execUncorrectableData, Option.bind_some, hq, Option.filter_some, hp, decide_true, if_true]
  rfl

end

end

/-- Settles O53: the record of an error forgets no uncorrectable data, and only that of an uncorrectable block of HBM changes the counts. -/
theorem memoryErrorsAreCountedAndContained : Obligations.MemoryErrorsAreCountedAndContained := by
  intro f p s
  refine ⟨fun code => rfl, fun hd => ⟨fun k off bit => ?_, fun cl u off bit => ?_, fun off n d r hc => ?_⟩, fun b a hp hn => ?_, fun b a hp => ?_,
    fun r hp => execPatrolScrub_nothing r hp, fun b a hp => execPatrolScrub_corrected hp, fun h tag addr q hq ht => ⟨fun hp => ⟨?_, fun code => ?_⟩,
      fun hp => execHostPoison_waiting hq hp addr, fun hc hr => congrArg Run.done (if_pos ⟨hc, hr⟩), fun h => congrArg Run.done (if_neg ?_)⟩,
    fun h addr hc hr ho hh => ?_⟩
  · obtain ⟨t, next, counts, host, mems⟩ := correctedAt_counts (f := f) (p := .scratch k off bit) (Furrow.corrected_scratch hd k off bit) rfl
    exact ⟨t, next, by rw [counts], by rw [counts]; exact (BitVec.add_zero _).symm, by rw [counts], host, mems⟩
  · obtain ⟨t, next, counts, host, mems⟩ := correctedAt_counts (f := f) (p := .unit cl u off bit) (Furrow.corrected_unit hd cl u off bit) rfl
    exact ⟨t, next, by rw [counts], by rw [counts]; exact (BitVec.add_zero _).symm, by rw [counts], host, mems⟩
  · obtain ⟨x, hx⟩ := Furrow.corrected_hbm hd off n d r
    obtain ⟨t, next, counts, host, mems⟩ := correctedAt_counts (f := f) hx (execCorrectedError_hbm hc)
    exact ⟨t, next, by rw [counts]; exact (BitVec.add_zero _).symm, by rw [counts], by rw [counts], host, mems⟩
  · obtain ⟨-, host, mems⟩ := ((Run.start s).modFur f fun c => c.markBad p).modFur_weighHealth f (Furrow.recordLoss p)
    refine ⟨_, execUncorrectableData_unowned hp hn, Run.marked_bad _ f ?_, host, mems⟩
    rw [Run.modFur_now, State.furrow_setFurrow_same, Furrow.recordLoss, Furrow.raise_bad]
    exact Furrow.markBad_bad hp
  · obtain ⟨-, host, mems⟩ := (Run.start s).modFur_weighHealth f (Furrow.scrubbedBad p b a)
    refine ⟨_, execPatrolScrub_bad hp, Run.marked_bad _ f ?_, host, mems⟩
    rw [Furrow.scrubbedBad, Furrow.raise_bad]
    exact Furrow.markBad_bad hp
  · obtain ⟨rfl, rfl, -⟩ := Furrow.request?_is _ _ _ _ hq
    obtain ⟨e, ended, status⟩ := Run.containRead_ends (r := Run.start s) hq _ _
    exact ⟨_, e, execHostPoison_running hq hp addr, ended, status⟩
  · obtain ⟨rfl, rfl, -⟩ := Furrow.request?_is _ _ _ _ hq
    obtain ⟨e, ⟨q', found, ended⟩, status⟩ := Run.containRead_ends (f := f) (r := (Run.start s).modFur f id)
      (by rw [Run.modFur_now, State.furrow_setFurrow_same]; exact hq) (lossRecord (s.furrow f) (.path code) q.h q.tag q.op).1 5
    refine ⟨_, e, execUncorrectableData_path hq hp code, ⟨q', ?_, ended⟩, status⟩
    obtain ⟨-, -, reqs⟩ := (((Run.start s).modFur f id).containRead f q
      (lossRecord (s.furrow f) (.path code) q.h q.tag q.op).1 5).weighHealth_keeps f
    rw [Furrow.request?_congr reqs, found]
  · rintro ⟨ready, active⟩
    exact h.elim (fun h => h ready) fun h => h active
  · have both : (s.furrow f).ctx[h].state = .ready ∧ (s.furrow f).ctx[h].rings.state = .active := ⟨hc, hr⟩
    have down : exec (.hostPoison f h none addr) s = .next ((Run.start s).teardown f h .hostAbort addr).now := congrArg Run.done (if_pos both)
    obtain ⟨t, next, state, rings, -⟩ := exists_tornDown down ho hh
    exact ⟨t, next, state, rings⟩

end Sys2Proof.Machine
end

section
namespace Sys2Proof.Machine

variable {s₀ : State}

/-! ### Self-test slices (R430–R433) -/

/-- Host memory, with the self-test and the clock of a furrow. -/
def State.testing (f : FurrowIx) (t : State) : Mem × Bist × W64 := (t.host, (t.furrow f).bist, (t.furrow f).ns)

theorem Run.modFur_testing (r : Run s₀) (f : FurrowIx) {g : Furrow → Furrow} (hg : ∀ c, ((g c).bist, (g c).ns) = (c.bist, c.ns)) :
    (r.modFur f g).now.testing f = r.now.testing f := by
  obtain ⟨bist, ns⟩ := Prod.mk.inj (hg (r.now.furrow f))
  simp only [State.testing, Run.modFur_now, State.furrow_setFurrow_same, bist, ns, State.setFurrow_host]

theorem Furrow.mend_testing (c : Furrow) (p : Space × Nat × Nat) : ((c.mend p).bist, (c.mend p).ns) = (c.bist, c.ns) :=
  Furrow.mend_keeps (view := fun c => (c.bist, c.ns)) (fun _ _ _ => rfl) c p

theorem Run.paste_testing (r : Run s₀) (f : FurrowIx) {sp : Space} (hs : sp ≠ .host) (a n : Nat) (img : List Host.Cell) :
    ((r.paste sp a n img).modFur f fun c => c.mend (sp, a, n)).now.testing f = r.now.testing f := by
  rw [Run.modFur_testing _ f fun c => c.mend_testing _]
  cases sp with
  | host => exact absurd rfl hs
  | hbm g => rfl
  | t1 g => rfl
  | t0 g => rfl

theorem Run.leave_testing (r : Run s₀) (f : FurrowIx) (u : Place) : (r.leave f u).now.testing f = r.now.testing f := by
  have idle (r : Run s₀) : (r.modFur f fun c => c.setServe u .idle).now.testing f = r.now.testing f :=
    r.modFur_testing f fun c => by cases u <;> rfl
  unfold Run.leave
  cases u with
  | core k => exact (idle _).trans (r.paste_testing f (by simp) _ _ _)
  | text t => exact idle r

/-- A slice that starts runs from now on. -/
theorem Run.startSlice_starts (r : Run s₀) (f : FurrowIx) (b : BistTarget) (again : Bool) :
    ((r.startSlice f b again).now.furrow f).bist = { (r.now.furrow f).bist with running := some ⟨b, again, (r.now.furrow f).ns⟩ } ∧
      (r.startSlice f b again).now.host = r.now.host := by
  obtain ⟨r2, now, eq⟩ : ∃ r2 : Run s₀, r2.now.testing f = r.now.testing f ∧
      r.startSlice f b again = r2.modFur f fun c => c.modBist fun x => { x with running := some ⟨b, again, c.ns⟩ } := by
    refine ⟨_, ?_, rfl⟩
    cases b with
    | core k n => exact r.leave_testing f _
    | text t => exact r.leave_testing f _
    | unit cl u =>
      dsimp only [slicePlace]
      split
      · exact r.paste_testing f (by simp) _ _ _
      · rfl
  obtain ⟨host, rest⟩ := Prod.mk.inj now
  obtain ⟨bist, ns⟩ := Prod.mk.inj rest
  rw [eq, Run.modFur_now, State.furrow_setFurrow_same, State.setFurrow_host]
  refine ⟨?_, host⟩
  rw [← bist, ← ns]
  rfl

section
variable {f : FurrowIx} {b : BistTarget} {locked : Bool} {tj : Byte} {s : State}

theorem execBistSliceStart_same (h : (s.furrow f).serves = false ∨ (s.furrow f).boundaryDue = false ∨ (s.furrow f).bist.running ≠ none ∨
    (s.furrow f).targetUp b = false) : exec (.bistSliceStart f b locked tj) s = .next s := by
  have skip : (!(s.furrow f).serves || !(s.furrow f).boundaryDue || (s.furrow f).bist.running.isSome || !(s.furrow f).targetUp b) = true := by
    rcases h with h | h | h | h
    · simp [h]
    · simp [h]
    · simp [Option.isSome_iff_ne_none.2 h]
    · simp [h]
  exact congrArg Run.done (if_pos skip)

section
variable (hs : (s.furrow f).serves = true) (hb : (s.furrow f).boundaryDue = true) (hr : (s.furrow f).bist.running = none)
  (ht : (s.furrow f).targetUp b = true)
include hs hb hr ht

/-- At a boundary where a slice may start, that of a withheld target comes first. -/
theorem execBistSliceStart_withheld (hw : (s.furrow f).bist.withheld.contains b = true) :
    exec (.bistSliceStart f b locked tj) s = (if (s.furrow f).sliceFit b locked tj then (Run.start s).startSlice f b true
      else (Run.start s).modFur f fun c => c.modBist fun x => { x with deferred := sat x.deferred 1 }).done := by
  have goes : ¬(!(s.furrow f).serves || !(s.furrow f).boundaryDue || (s.furrow f).bist.running.isSome || !(s.furrow f).targetUp b) = true := by
    simp [hs, hb, hr, ht]
  exact (congrArg Run.done (if_neg goes)).trans (congrArg Run.done (if_pos hw))

/-- A furrow that takes up a fresh slice in its slot. -/
def Furrow.takesUp (b : BistTarget) (c : Furrow) : Furrow :=
  c.modBist fun x => { x.nextSlot_ with slices := c.bist.slices ++ [b], done := if c.bist.slices.isEmpty then 0 else x.done }

theorem execBistSliceStart_fresh (hw : (s.furrow f).bist.withheld.contains b = false) (he : (s.furrow f).bist.en = true)
    (hn : (s.furrow f).bist.nextSlot.toNat ≤ (s.furrow f).ns.toNat) (hq : (s.furrow f).bist.waiting = [])
    (hl : (s.furrow f).bist.slices.contains b = false) (hf : (s.furrow f).sliceFit b locked tj = true) :
    exec (.bistSliceStart f b locked tj) s = .next (((Run.start s).modFur f (Furrow.takesUp b)).startSlice f b false).now := by
  have early : ¬(s.furrow f).ns.toNat < (s.furrow f).bist.nextSlot.toNat := Nat.not_lt.2 hn
  show execBistSliceStart f b locked tj s = _
  unfold execBistSliceStart
  simp only [hs, hb, hr, ht, hw, he, early, hq, hl, hf, Bool.not_true, Bool.or_self, Option.isSome_none, Bool.false_eq_true, if_false,
    decide_false, List.contains_nil, List.all_nil, if_true]
  rfl

end

theorem execBistSliceEnd_none (hr : (s.furrow f).bist.running = none) (o : BistOutcome) : exec (.bistSliceEnd f b o) s = .next s := by
  show execBistSliceEnd f b o s = _
  simp only [execBistSliceEnd, hr, Option.filter_none, Run.done_next, Run.start_now]

/-- A furrow whose running slice is over. -/
def Furrow.sliceOver (b : BistTarget) (o : BistOutcome) (again : Bool) (c : Furrow) : Furrow :=
  let c := c.modBist fun y => { y with running := none }
  (match o with
   | .same => c.modBist fun y => y.complete b c.ns
   | .differs => c.sliceDiffers b again
   | .abandoned => c.modBist fun y => if again then { y with deferred := sat y.deferred 1 } else y.defer b).passOver

/-- The core that a slice has run on is cleared. -/
def Run.clearLent (r : Run s₀) (f : FurrowIx) (b : BistTarget) : Run s₀ :=
  match b with
  | .core k _ => r.blank f (.t0 f) (k.val * hbmUnit) hbmUnit
  | _ => r

theorem execBistSliceEnd_running {x : BistRun} (hr : (s.furrow f).bist.running = some x) (hx : x.target = b) (o : BistOutcome) :
    exec (.bistSliceEnd f b o) s =
      .next ((((Run.start s).clearLent f b).modFur f (Furrow.sliceOver b o x.again)).weighHealth f).now := by
  show execBistSliceEnd f b o s = _
  simp only [execBistSliceEnd, hr, Option.filter_some, hx, decide_true, if_true, Run.done_next]
  rfl

theorem Furrow.raise_running (c : Furrow) (e : ErrRec) : (c.raise e []).bist.running = c.bist.running := by
  obtain ⟨x, y, raised, -⟩ := c.raise_eq e []
  rw [raised]

theorem Furrow.keepHealth_running (c : Furrow) (g : Health → Health) : (c.keepHealth g).bist.running = c.bist.running := by
  obtain ⟨x, y, kept⟩ := c.keepHealth_eq g
  rw [kept]

theorem Furrow.degrade_running (c : Furrow) : c.degrade.bist.running = c.bist.running := by
  unfold Furrow.degrade
  split <;> rfl

theorem Furrow.passOver_running (c : Furrow) : c.passOver.bist.running = c.bist.running := by
  unfold Furrow.passOver
  split <;> rfl

theorem Furrow.retireTarget_running (c : Furrow) (b : BistTarget) : (c.retireTarget b).bist.running = c.bist.running := by
  have retired (g : Health → Health) (e : ErrRec) : ((c.keepHealth g).raise e []).degrade.bist.running = c.bist.running := by
    rw [Furrow.degrade_running, Furrow.raise_running, Furrow.keepHealth_running]
  unfold Furrow.retireTarget
  cases b with
  | core k n => exact retired _ _
  | text t => exact retired _ _
  | unit cl u =>
    dsimp only
    split
    · exact Furrow.raise_running _ _
    · exact retired _ _

theorem Furrow.sliceDiffers_running (c : Furrow) (b : BistTarget) (again : Bool) : (c.sliceDiffers b again).bist.running = c.bist.running := by
  have told := Furrow.raise_running (c.modBist fun x => { x with mismatch := sat x.mismatch 1 }) (errRec 0x40 0 (sliceIndex b))
  unfold Furrow.sliceDiffers
  cases again with
  | true => exact (Furrow.retireTarget_running _ b).trans told
  | false => exact told

theorem Furrow.sliceOver_running (b : BistTarget) (o : BistOutcome) (again : Bool) (c : Furrow) :
    (c.sliceOver b o again).bist.running = none := by
  refine (Furrow.passOver_running _).trans ?_
  cases o with
  | same => rfl
  | differs => exact Furrow.sliceDiffers_running _ b again
  | abandoned => cases again <;> rfl

theorem Run.clearLent_clears (r : Run s₀) (f : FurrowIx) (b : BistTarget) : (r.clearLent f b).now.host = r.now.host ∧
    ∀ k n, b = .core k n → ∀ a, k.val * hbmUnit ≤ a → a < (k.val + 1) * hbmUnit → ((r.clearLent f b).now.mem (.t0 f)).get a = 0 := by
  refine ⟨by cases b <;> rfl, ?_⟩
  rintro k n rfl a lo hi
  rw [Run.clearLent, Run.blank_mem_same, Mem.get_paste_nil, if_pos ⟨lo, by rwa [Nat.add_mul, Nat.one_mul] at hi⟩]

theorem Run.weighHealth_running (r : Run s₀) (f : FurrowIx) :
    ((r.weighHealth f).now.furrow f).bist.running = (r.now.furrow f).bist.running :=
  Run.weighHealth_view (view := fun c => c.bist.running) (fun c _ => (Furrow.raise_running _ _).trans (c.keepHealth_running _)) r f

theorem bistSliceEnd_clears {x : BistRun} (hr : (s.furrow f).bist.running = some x) (hx : x.target = b) (o : BistOutcome) :
    ∃ t, exec (.bistSliceEnd f b o) s = .next t ∧ (t.furrow f).bist.running = none ∧ t.host = s.host ∧
      ∀ k n, b = .core k n → ∀ a, k.val * hbmUnit ≤ a → a < (k.val + 1) * hbmUnit → (t.mem (.t0 f)).get a = 0 := by
  obtain ⟨host, cleared⟩ := (Run.start s).clearLent_clears f b
  obtain ⟨-, weighedHost, weighedMems⟩ := ((Run.start s).clearLent f b).modFur_weighHealth f (Furrow.sliceOver b o x.again)
  refine ⟨_, execBistSliceEnd_running hr hx o, ?_, weighedHost.trans host, fun k n hb a lo hi => ?_⟩
  · rw [Run.weighHealth_running, Run.modFur_now, State.furrow_setFurrow_same]
    exact Furrow.sliceOver_running b o x.again _
  · rw [← cleared k n hb a lo hi]
    unfold State.mem
    dsimp only
    rw [weighedMems]

/-- A furrow that has found a target LATE. -/
def Furrow.foundLate (b : BistTarget) (c : Furrow) : Furrow :=
  (c.modBist fun x => { x with late := true, lastDone := x.lastDone.filter (fun p => p.1 ≠ b) ++ [(b, c.ns)] }).raise (errRec 0x44 0 (sliceIndex b)) []

theorem execBistLate_late (hs : (s.furrow f).serves = true) (ht : (s.furrow f).targetUp b = true)
    (hl : 2 * dayNs ≤ elapsed (s.furrow f).ns (((s.furrow f).bist.lastDone.find? fun p => p.1 = b).map (·.2) |>.getD 0)) :
    exec (.bistLate f b) s = .next (s.setFurrow f ((s.furrow f).foundLate b)) :=
  done_modFur (if_pos (by simp only [hs, ht, hl, decide_true, Bool.and_self]))

theorem Furrow.foundLate_late (b : BistTarget) (c : Furrow) : (c.foundLate b).bist.late = true ∧ (c.foundLate b).err.seq = c.err.seq + 1 := by
  obtain ⟨x, y, raised, seq⟩ := Furrow.raise_eq
    (c.modBist fun x => { x with late := true, lastDone := x.lastDone.filter (fun p => p.1 ≠ b) ++ [(b, c.ns)] })
    (errRec 0x44 0 (sliceIndex b)) []
  rw [Furrow.foundLate, raised]
  exact ⟨rfl, seq rfl⟩

/-! ### The margins (R435) -/

/-- A furrow whose voltage has been planned, and the reading that stands. -/
def Furrow.slowed (xs : List W16) (i : Nat) (c : Furrow) : Furrow := (List.finRange 8).foldl (fun (c : Furrow) k => c.slowCluster xs i k) c

/-- What a re-plan of the margins makes of a furrow. -/
def Furrow.replanned (f : FurrowIx) (slack ro : List W16) (c : Furrow) : Furrow :=
  let x := c.raiseVolts f slack 11 0
  let c := x.1.slowed slack x.2
  c.modAge fun a =>
    { a with
      roCount := Vector.ofFn fun k => if c.health.clusters.getLsbD k.val then readingAt ro x.2 k else a.roCount[k]
      slack := Vector.ofFn fun k => if c.health.clusters.getLsbD k.val then readingAt slack x.2 k else a.slack[k]
      lastNs := c.ns }

theorem Furrow.raise_ns (c : Furrow) (e : ErrRec) : (c.raise e []).ns = c.ns := by
  obtain ⟨x, y, raised, -⟩ := c.raise_eq e []
  rw [raised]

theorem Furrow.keepHealth_ns (c : Furrow) (g : Health → Health) : (c.keepHealth g).ns = c.ns := by
  obtain ⟨x, y, kept⟩ := c.keepHealth_eq g
  rw [kept]

theorem Furrow.raiseVolts_ns (f : FurrowIx) (xs : List W16) (k i : Nat) (c : Furrow) : (c.raiseVolts f xs k i).1.ns = c.ns := by
  induction k generalizing c i with
  | zero => rfl
  | succ k ih =>
    unfold Furrow.raiseVolts
    dsimp only
    split
    · exact (ih _ _).trans ((Furrow.raise_ns _ _).trans (c.keepHealth_ns _))
    · rfl

theorem Furrow.slowed_ns (xs : List W16) (i : Nat) (c : Furrow) : (c.slowed xs i).ns = c.ns := by
  refine foldl_keeps Furrow.ns _ (fun c k => ?_) _ c
  unfold Furrow.slowCluster
  split
  · exact (Furrow.raise_ns _ _).trans (c.keepHealth_ns _)
  · rfl

theorem Furrow.replanned_lastNs (f : FurrowIx) (slack ro : List W16) (c : Furrow) : (c.replanned f slack ro).age.lastNs = c.ns :=
  (Furrow.slowed_ns _ _ _).trans (c.raiseVolts_ns f slack 11 0)

/-- With no slack short nothing is raised and nothing slowed. -/
theorem Furrow.slowed_of_not_tight {c : Furrow} {xs : List W16} {i : Nat} (ht : c.tight xs i = false) : c.slowed xs i = c := by
  refine List.foldlRecOn (motive := fun d => d = c) _ _ rfl fun d hd k hk => ?_
  subst hd
  refine if_neg ?_
  rintro ⟨up, short⟩
  have tight : d.tight xs i = true := List.any_eq_true.2 ⟨k, hk, by simp only [up, short, decide_true, Bool.and_self]⟩
  rw [ht] at tight
  cases tight

theorem Furrow.raiseVolts_of_not_tight {c : Furrow} {xs : List W16} {i : Nat} (ht : c.tight xs i = false) (f : FurrowIx) (k : Nat) :
    c.raiseVolts f xs k i = (c, i) := by
  cases k with
  | zero => rfl
  | succ k =>
    refine if_neg fun all => ?_
    rw [ht] at all
    exact absurd all.1 (by decide)

/-- What a re-plan may change of the voltage and the clocks. -/
def Furrow.margins (c : Furrow) : Byte × Vector W16 8 × Power := (c.health.vofs, c.health.clocks, c.pwr)

theorem Furrow.replanned_of_not_tight {c : Furrow} {slack : List W16} (ht : c.tight slack 0 = false) (f : FurrowIx) (ro : List W16) :
    (c.replanned f slack ro).margins = c.margins := by
  have stands : ((c.raiseVolts f slack 11 0).1.slowed slack (c.raiseVolts f slack 11 0).2) = c := by
    rw [Furrow.raiseVolts_of_not_tight ht, Furrow.slowed_of_not_tight ht]
  have margins : (c.replanned f slack ro).margins = ((c.raiseVolts f slack 11 0).1.slowed slack (c.raiseVolts f slack 11 0).2).margins := rfl
  rw [margins, stands]

theorem Run.weighHealth_margins (r : Run s₀) (f : FurrowIx) :
    ((r.weighHealth f).now.furrow f).margins = (r.now.furrow f).margins ∧ ((r.weighHealth f).now.furrow f).age = (r.now.furrow f).age := by
  refine Prod.mk.inj (Run.weighHealth_view (view := fun c => (c.margins, c.age)) (fun c v => ?_) r f)
  obtain ⟨x, y, raised, -⟩ := (c.keepHealth fun x => { x with reasons := v }).raise_eq (errRec 0x43 0 v.toNat) []
  obtain ⟨a, b, kept⟩ := c.keepHealth_eq fun x => { x with reasons := v }
  rw [raised, kept]
  rfl

/-- The conditions for a re-plan. -/
def Furrow.replanDue (c : Furrow) (slack : List W16) : Bool :=
  c.serves && c.boundaryDue && decide (8 ≤ slack.length) && (decide (c.age.lastNs = 0) || decide (dayNs ≤ elapsed c.ns c.age.lastNs))

theorem execMarginReplan_eq (slack ro : List W16) : exec (.marginReplan f slack ro) s =
    (if (s.furrow f).replanDue slack then ((Run.start s).modFur f (Furrow.replanned f slack ro)).weighHealth f else Run.start s).done := rfl

theorem execMarginReplan_same {slack : List W16} (h : (s.furrow f).replanDue slack = false) (ro : List W16) :
    exec (.marginReplan f slack ro) s = .next s := by
  rw [execMarginReplan_eq, h]
  rfl

theorem marginReplan_plans {slack : List W16} (h : (s.furrow f).replanDue slack = true) (ro : List W16) :
    ∃ t, exec (.marginReplan f slack ro) s = .next t ∧ (t.furrow f).age.lastNs = (s.furrow f).ns ∧ t.host = s.host ∧ t.mems = s.mems ∧
      (t.furrow f).margins = ((s.furrow f).replanned f slack ro).margins := by
  obtain ⟨-, host, mems⟩ := (Run.start s).modFur_weighHealth f (Furrow.replanned f slack ro)
  obtain ⟨margins, age⟩ := ((Run.start s).modFur f (Furrow.replanned f slack ro)).weighHealth_margins f
  rw [Run.modFur_now, State.furrow_setFurrow_same] at margins age
  refine ⟨_, by rw [execMarginReplan_eq, h]; rfl, ?_, host, mems, margins⟩
  rw [age]
  exact Furrow.replanned_lastNs f slack ro _

end

/-- Settles O55. That a deferred slice is tried before the next new one, that a slice taken up uses its slot up, and that a withheld slice which
does not fit counts as deferred, is the model's choice (log 66). -/
theorem selfTestSlicesAndMargins : Obligations.SelfTestSlicesAndMargins := by
  intro f b locked tj s
  refine ⟨execBistSliceStart_same, fun hs hb hr ht => ⟨fun hw => ⟨fun hf => ?_, fun hf => ?_⟩, fun hw he hn hq hl hf => ?_⟩,
    fun hr o => execBistSliceEnd_none hr o, fun x o hr hx => bistSliceEnd_clears hr hx o, fun hs ht hl => ?_, fun ht => ?_,
    fun slack ro => ⟨fun h => execMarginReplan_same ?_ ro, fun hs hb h8 hd => ?_, fun h0 hd => execMarginReplan_same ?_ ro⟩⟩
  · obtain ⟨bist, host⟩ := (Run.start s).startSlice_starts f b true
    refine ⟨_, (execBistSliceStart_withheld hs hb hr ht hw).trans (congrArg Run.done (if_pos hf)), ?_, host⟩
    rw [bist]
    rfl
  · exact (execBistSliceStart_withheld hs hb hr ht hw).trans (congrArg Run.done (if_neg (by rw [hf]; decide)))
  · obtain ⟨bist, host⟩ := ((Run.start s).modFur f (Furrow.takesUp b)).startSlice_starts f b false
    rw [Run.modFur_now, State.furrow_setFurrow_same] at bist
    refine ⟨_, execBistSliceStart_fresh hs hb hr ht hw he hn hq hl hf, ?_⟩
    rw [bist]
    exact ⟨rfl, rfl, rfl, host⟩
  · obtain ⟨late, seq⟩ := (s.furrow f).foundLate_late b
    refine ⟨_, execBistLate_late hs ht hl, ?_⟩
    rw [State.furrow_setFurrow_same]
    exact ⟨late, seq, s.onlyFurrow_setFurrow f _, rfl⟩
  · exact done_modFur_self (if_neg (by simp [ht]))
  · rcases h with h | h
    · simp [Furrow.replanDue, h]
    · simp [Furrow.replanDue, Nat.not_le.2 h]
  · have due : (s.furrow f).replanDue slack = true := by
      simp only [Furrow.replanDue, hs, hb, h8, decide_true, Bool.and_self, Bool.true_and, Bool.or_eq_true, decide_eq_true_eq]
      exact hd
    obtain ⟨t, next, lastNs, host, mems, margins⟩ := marginReplan_plans due ro
    refine ⟨t, next, lastNs, host, mems, fun ht => ?_⟩
    rw [Furrow.replanned_of_not_tight ht] at margins
    obtain ⟨vofs, rest⟩ := Prod.mk.inj margins
    exact ⟨vofs, Prod.mk.inj rest⟩
  · have later : ¬dayNs ≤ elapsed (s.furrow f).ns (s.furrow f).age.lastNs := Nat.not_le.2 hd
    simp only [Furrow.replanDue, h0, later, decide_false, Bool.or_self, Bool.and_false]

end Sys2Proof.Machine
end

section
namespace Sys2Proof.Machine

variable {s₀ : State}

/-! ### What the filling of slots leaves alone of a Granary (R337, R353) -/

section
variable {γ : Type}

/-- A view of a Granary that superblocks, the block table, what lies on the NAND and the order of closing have no part in. -/
def BesidePlaces (view : Granary → γ) : Prop :=
  ∀ (g : Granary) (sbs : List Superblock) (blocks : List BlockInfo) (slots : List (Nat × NandSlot)) (closes : Nat),
    view { g with sbs := sbs, blocks := blocks, closes := closes, nand := { g.nand with slots := slots } } = view g

/-- A view that a channel's stripes have no part in. -/
def BesideStripes (n : Fin 2) (view : Granary → γ) : Prop := ∀ (g : Granary) (ts : List Stripe), view (g.setStripes n ts) = view g

/-- A view that what waits for slots has no part in. -/
def BesideMoves (view : Granary → γ) : Prop :=
  ∀ (g : Granary) (ws : List GrnWrite) (xs : List Rewrite) (js : List GcJob), view { g with writes := ws, rewrites := xs, gc := js } = view g

variable {view : Granary → γ}

section
variable (hp : BesidePlaces view)
include hp

theorem Granary.modSb_view (g : Granary) (n : Fin 2) (k : Nat) (u : Superblock → Superblock) : view (g.modSb n k u) = view g :=
  hp g _ g.blocks g.nand.slots g.closes

theorem Granary.modBlock_view (g : Granary) (ch die block : Nat) (u : BlockInfo → BlockInfo) : view (g.modBlock ch die block u) = view g := by
  unfold Granary.modBlock
  dsimp only
  split
  · exact hp g g.sbs _ g.nand.slots g.closes
  · exact hp g g.sbs _ g.nand.slots g.closes

theorem Granary.closeSb_view (g : Granary) (n : Fin 2) (k : Nat) : view (g.closeSb n k) = view g := by
  unfold Granary.closeSb
  split
  · rfl
  · split
    · exact hp g _ g.blocks g.nand.slots _
    · rfl

theorem Granary.openSb_view {g g' : Granary} {n : Fin 2} {b : Superblock} (ho : g.openSb n = some (g', b)) : view g' = view g := by
  unfold Granary.openSb at ho
  split at ho
  next => obtain ⟨rfl, -⟩ := Prod.mk.inj (Option.some.inj ho); rfl
  next =>
    split at ho
    next => cases ho
    next b0 h0 =>
      obtain ⟨rfl, -⟩ := Prod.mk.inj (Option.some.inj ho)
      dsimp only
      refine Eq.trans (hp _ _ _ _ _) ?_
      split
      · exact foldl_keeps view (fun (g : Granary) d => g.modBlock n.val d b0.num fun i => { i with erases := i.erases + 1 })
          (fun g d => Granary.modBlock_view hp g _ _ _ _) _ g
      · rfl

section
variable {n : Fin 2} (hs : BesideStripes n view)
include hs

theorem Granary.openStripe_view {g g' : Granary} {ns : W64} (ho : g.openStripe ns n = some g') : view g' = view g := by
  unfold Granary.openStripe at ho
  split at ho
  · cases ho; rfl
  · split at ho
    next => cases ho
    next g1 b h1 =>
      obtain rfl := Option.some.inj ho
      exact (hs _ _).trans ((Granary.modSb_view hp _ _ _ _).trans (Granary.openSb_view hp h1))

omit hp in
theorem Granary.closeStripe_view (g : Granary) : view (g.closeStripe n) = view g := hs g _

theorem Granary.append_view {g g' : Granary} {ns : W64} {x : NandSlot} {psa : Nat} (ha : g.append ns n x = some (g', psa)) :
    view g' = view g := by
  unfold Granary.append at ha
  split at ha
  next => cases ha
  next g1 h1 =>
    split at ha
    next => cases ha
    next t ht =>
      obtain ⟨rfl, -⟩ := Prod.mk.inj (Option.some.inj ha)
      have once (p : Prop) [Decidable p] (g : Granary) : view (if p then g.closeStripe n else g) = view g := by
        split
        · exact Granary.closeStripe_view hs g
        · rfl
      exact (once _ _).trans ((hs g1 _).trans (Granary.openStripe_view hp hs h1))

variable (hm : BesideMoves view)
include hm

/-- Slots appended again concern the Granary alone. -/
theorem Furrow.reappend_view (c : Furrow) (t : Stripe) : ∃ g, c.reappend n t = { c with grn := g } ∧ view g = view c.grn := by
  unfold Furrow.reappend
  refine List.foldlRecOn (motive := fun d => ∃ g, d = { c with grn := g } ∧ view g = view c.grn) _ _ ⟨c.grn, rfl, rfl⟩ fun d hd x _ => ?_
  obtain ⟨g, rfl, hg⟩ := hd
  split
  next => exact ⟨g, rfl, hg⟩
  next g' psa ha => exact ⟨_, rfl, (hm g' _ _ _).trans ((Granary.append_view hp hs ha).trans hg)⟩

theorem Furrow.reappends_view (ts : List Stripe) (c : Furrow) :
    ∃ g, ts.foldl (fun (c : Furrow) t => c.reappend n t) c = { c with grn := g } ∧ view g = view c.grn := by
  refine List.foldlRecOn (motive := fun d => ∃ g, d = { c with grn := g } ∧ view g = view c.grn) _ _ ⟨c.grn, rfl, rfl⟩ fun d hd x _ => ?_
  obtain ⟨g, rfl, hg⟩ := hd
  obtain ⟨g', again, hg'⟩ := Furrow.reappend_view hp hs hm { c with grn := g } x
  exact ⟨g', again, hg'.trans hg⟩

theorem Furrow.shutSb_view (c : Furrow) (k : Nat) : ∃ g, c.shutSb n k = { c with grn := g } ∧ view g = view c.grn := by
  unfold Furrow.shutSb
  split
  next => exact ⟨c.grn, rfl, rfl⟩
  next b hb =>
    split
    · obtain ⟨g, shut, hg⟩ := Furrow.reappends_view hp hs hm (c.grn.stripes[n].filter fun t => t.sb = k && !t.programming) (c.modGrn fun g =>
        ((g.setStripes n (g.stripes[n].filter fun t => !(t.sb = k && !t.programming))).modSb n k fun b =>
          { b with pages := g.pagesPer n }).closeSb n k)
      exact ⟨g, shut, hg.trans ((Granary.closeSb_view hp _ _ _).trans ((Granary.modSb_view hp _ _ _ _).trans (hs _ _)))⟩
    · exact ⟨c.grn, rfl, rfl⟩

theorem Furrow.shutSbs_view (bs : List Superblock) (c : Furrow) :
    ∃ g, bs.foldl (fun (c : Furrow) b => c.shutSb n b.num) c = { c with grn := g } ∧ view g = view c.grn := by
  refine List.foldlRecOn (motive := fun d => ∃ g, d = { c with grn := g } ∧ view g = view c.grn) _ _ ⟨c.grn, rfl, rfl⟩ fun d hd x _ => ?_
  obtain ⟨g, rfl, hg⟩ := hd
  obtain ⟨g', shut, hg'⟩ := Furrow.shutSb_view hp hs hm { c with grn := g } x.num
  exact ⟨g', shut, hg'.trans hg⟩

theorem Furrow.programFailed_view (c : Furrow) (t : Stripe) : ∃ g, c.programFailed n t = { c with grn := g } ∧ view g = view c.grn := by
  obtain ⟨g, shut, hg⟩ := Furrow.shutSb_view hp hs hm (c.modGrn fun g => g.modSb n t.sb fun b => { b with urgent := true }) t.sb
  obtain ⟨g', again, hg'⟩ := Furrow.reappend_view hp hs hm { c with grn := g } t
  refine ⟨g', ?_, hg'.trans (hg.trans (Granary.modSb_view hp _ _ _ _))⟩
  unfold Furrow.programFailed
  rw [shut]
  exact again

end

/-- System slots that are written concern the Granary alone: its places, and the count of slots programmed. -/
theorem Furrow.writeSystem_view (hf : ∀ (g : Granary) n, view { g with flashSlots := n } = view g) (k : Nat) (xs : List NandSlot)
    (c : Furrow) : ∃ g, Furrow.writeSystem k xs c = { c with grn := g } ∧ view g = view c.grn := by
  induction k generalizing xs c with
  | zero => exact ⟨c.grn, by cases xs <;> rfl, rfl⟩
  | succ k ih =>
    cases xs with
    | nil => exact ⟨c.grn, rfl, rfl⟩
    | cons x xs =>
      unfold Furrow.writeSystem
      split
      next => exact ⟨c.grn, rfl, rfl⟩
      next g n b hpage =>
        dsimp only
        generalize hg1 : (g.modSb n b.num fun b => { b with pages := b.pages + 1 }).closeSb n b.num = g1
        have opened : view g = view c.grn := by
          obtain ⟨m, -, hm⟩ := List.exists_of_findSome?_eq_some hpage
          split at hm
          · obtain ⟨⟨g0, b0⟩, ho, he⟩ := Option.map_eq_some_iff.1 hm
            obtain ⟨rfl, -⟩ := Prod.mk.inj he
            exact Granary.openSb_view hp ho
          · cases hm
        have closed : view g1 = view g := hg1 ▸ (Granary.closeSb_view hp _ _ _).trans (Granary.modSb_view hp _ _ _ _)
        have programmed (m : W64) (slots : List (Nat × NandSlot)) :
            view { g1 with flashSlots := m, nand := { g1.nand with slots := slots } } = view c.grn :=
          (hp { g1 with flashSlots := m } g1.sbs g1.blocks slots g1.closes).trans ((hf g1 m).trans (closed.trans opened))
        obtain ⟨g', rest, hg'⟩ := ih ((x :: xs).drop (max 1 ((b.dies.length - 1) * g.slotsPer n))) { c with grn := { g1 with
          flashSlots := g1.flashSlots + BitVec.ofNat 64 (b.dies.length * g1.slotsPer n)
          nand := { g1.nand with slots := g1.nand.slots ++ g1.fillStripe n b b.pages ((x :: xs).take (max 1 ((b.dies.length - 1) * g.slotsPer n))) } } }
        exact ⟨g', rest, hg'.trans (programmed _ _)⟩

end

end

end Sys2Proof.Machine
end

section
namespace Sys2Proof.Machine

variable {s₀ : State}

/-! ### System slots and root records (R349, R350) -/

/-- A Granary less what the programs of system slots change. -/
def Granary.books (g : Granary) : Granary :=
  { g with sbs := [], blocks := [], closes := 0, flashSlots := 0, nand := { g.nand with slots := [] } }

theorem Furrow.writeSystem_books (k : Nat) (xs : List NandSlot) (c : Furrow) :
    ∃ g, Furrow.writeSystem k xs c = { c with grn := g } ∧ g.books = c.grn.books :=
  Furrow.writeSystem_view (view := Granary.books) (fun _ _ _ _ _ => rfl) (fun _ _ => rfl) k xs c

/-- A Granary with one root record more. -/
def Granary.withRoot (g : Granary) (x : RootRec) : Granary := { g with nand := { g.nand with roots := g.nand.roots ++ [x] } }

theorem Furrow.putRoot_books (c : Furrow) (x : RootRec) : ∃ g, c.putRoot x = { c with grn := g } ∧ g.books = (c.grn.withRoot x).books := by
  refine ⟨_, rfl, ?_⟩
  refine foldl_keeps Granary.books _ (fun g n => ?_) _ (c.grn.withRoot x)
  split <;> rfl

section
variable {f : FurrowIx} {s : State}

/-- The map that a checkpoint holds. -/
def Granary.checkpointMap (g : Granary) : List (Nat × W64) :=
  replay (match g.nand.ckpt with | some (_, m) => m | none => []) g.nand.journal

/-- A furrow whose checkpoint is durable, before its root record. -/
def Furrow.checkpointed (c : Furrow) (e : W64) : Furrow :=
  let m := c.grn.checkpointMap
  let rest := c.grn.nand.journal.filter fun x => decide (e < x.seq)
  let xs := checkpointSlots e m ++ [tableSlot e]
  (c.writeSystem xs.length xs).modGrn fun g =>
    { g with
      ckptSeq := none, sinceCkpt := rest.length + g.records.length
      nand := { g.nand with ckpt := some (e, m), journal := rest, table := some ⟨g.blocks, g.hostBlocks, g.flashSlots⟩ } }

/-- The root record of a checkpoint. -/
def Furrow.checkpointRoot (c : Furrow) (e : W64) : RootRec :=
  ⟨c.grn.nand.nextRoot, c.grn.logicalMib, c.grn.geometry, e, c.grn.nand.tableEntry⟩

theorem execCheckpointDone_commits {e : W64} (he : (s.furrow f).grn.ckptSeq = some e) (hd : e ≤ (s.furrow f).grn.durableSeq) :
    exec (.checkpointDone f) s =
      .next (s.setFurrow f (((s.furrow f).checkpointed e).putRoot (((s.furrow f).checkpointed e).checkpointRoot e))) := by
  refine done_modFur ?_
  dsimp only
  rw [he]
  exact if_neg (BitVec.not_lt.2 hd)

theorem Furrow.checkpointed_grn (c : Furrow) (e : W64) :
    (c.checkpointed e).grn.ckptSeq = none ∧ (c.checkpointed e).grn.nand.ckpt = some (e, c.grn.checkpointMap) ∧
      (c.checkpointed e).grn.nand.journal = (c.grn.nand.journal.filter fun x => decide (e < x.seq)) ∧
      (c.checkpointed e).grn.nand.roots = c.grn.nand.roots ∧ (c.checkpointed e).grn.logicalMib = c.grn.logicalMib := by
  obtain ⟨g, written, books⟩ := Furrow.writeSystem_books (checkpointSlots e c.grn.checkpointMap ++ [tableSlot e]).length
    (checkpointSlots e c.grn.checkpointMap ++ [tableSlot e]) c
  have roots : g.nand.roots = c.grn.nand.roots := congrArg (fun g => g.nand.roots) books
  have mib : g.logicalMib = c.grn.logicalMib := congrArg (fun g => g.logicalMib) books
  unfold Furrow.checkpointed
  dsimp only
  rw [written]
  exact ⟨rfl, rfl, rfl, roots, mib⟩

theorem Nand.nextRoot_congr {m n : Nand} (h : m.roots = n.roots) : m.nextRoot = n.nextRoot := by
  unfold Nand.nextRoot
  rw [h]

/-- A checkpoint whose records are durable is committed by the newest root record. -/
theorem checkpointDone_commits {e : W64} (he : (s.furrow f).grn.ckptSeq = some e) (hd : e ≤ (s.furrow f).grn.durableSeq) :
    ∃ t m x, exec (.checkpointDone f) s = .next t ∧ s.onlyFurrow f t ∧ t.mems = s.mems ∧ (t.furrow f).grn.ckptSeq = none ∧
      (t.furrow f).grn.nand.ckpt = some (e, m) ∧
      (∀ y, y ∈ (t.furrow f).grn.nand.journal ↔ y ∈ (s.furrow f).grn.nand.journal ∧ e < y.seq) ∧
      (t.furrow f).grn.nand.roots = (s.furrow f).grn.nand.roots ++ [x] ∧ x.seq = (s.furrow f).grn.nand.nextRoot ∧
      x.logicalMib = (s.furrow f).grn.logicalMib ∧ x.ckptSeq = e := by
  obtain ⟨ckptSeq, ckpt, journal, roots, mib⟩ := (s.furrow f).checkpointed_grn e
  obtain ⟨g, put, books⟩ := Furrow.putRoot_books ((s.furrow f).checkpointed e) (((s.furrow f).checkpointed e).checkpointRoot e)
  refine ⟨_, (s.furrow f).grn.checkpointMap, ((s.furrow f).checkpointed e).checkpointRoot e, execCheckpointDone_commits he hd, s.onlyFurrow_setFurrow f _, rfl, ?_⟩
  rw [State.furrow_setFurrow_same, put]
  refine ⟨(congrArg (fun g => g.ckptSeq) books).trans ckptSeq, (congrArg (fun g => g.nand.ckpt) books).trans ckpt, fun y => ?_,
    (congrArg (fun g => g.nand.roots) books).trans (congrArg (· ++ [_]) roots), Nand.nextRoot_congr roots, mib, rfl⟩
  rw [show g.nand.journal = _ from (congrArg (fun g => g.nand.journal) books).trans journal, List.mem_filter, decide_eq_true_eq]

theorem execCheckpointDone_none (he : (s.furrow f).grn.ckptSeq = none) : exec (.checkpointDone f) s = .next s := by
  refine done_modFur_self ?_
  dsimp only
  rw [he]

theorem execCheckpointDone_early {e : W64} (he : (s.furrow f).grn.ckptSeq = some e) (hd : (s.furrow f).grn.durableSeq < e) :
    exec (.checkpointDone f) s = .next s := by
  refine done_modFur_self ?_
  dsimp only
  rw [he]
  exact if_pos hd

/-! ### Wear, lost dies and channels (R353–R356) -/

/-- The usable capacity decides REPLACE and READ_ONLY, and nothing else of a furrow. -/
theorem Furrow.weighCapacity_eq (c : Furrow) :
    ∃ x a b st, c.weighCapacity = { c with health := x, healthA := a, healthB := b, grn := { c.grn with state := st } } := by
  have weighed (low : Prop) [Decidable low] : ∃ x a b,
      (if low then (if c.health.nandReplace then c else c.keepHealth fun h => { h with nandReplace := true }) else c) =
        { c with health := x, healthA := a, healthB := b } := by
    split
    · split
      · exact ⟨_, _, _, rfl⟩
      · obtain ⟨a, b, kept⟩ := c.keepHealth_eq fun h => { h with nandReplace := true }
        exact ⟨_, a, b, kept⟩
    · exact ⟨_, _, _, rfl⟩
  unfold Furrow.weighCapacity
  dsimp only
  split
  · obtain ⟨x, a, b, eq⟩ := weighed (100 * c.usableSlots < 107 * (c.grn.logicalMib.toNat * 256))
    rw [eq]
    split
    · exact ⟨x, a, b, .readOnly, rfl⟩
    · exact ⟨x, a, b, c.grn.state, rfl⟩
  · exact ⟨_, _, _, c.grn.state, rfl⟩

theorem Run.weighHealth_grn (r : Run s₀) (f : FurrowIx) :
    ((r.weighHealth f).now.furrow f).grn = (r.now.furrow f).grn ∧ ((r.weighHealth f).now.furrow f).pwr = (r.now.furrow f).pwr := by
  refine Prod.mk.inj (Run.weighHealth_view (view := fun c => (c.grn, c.pwr)) (fun c v => ?_) r f)
  obtain ⟨x, y, raised, -⟩ := (c.keepHealth fun x => { x with reasons := v }).raise_eq (errRec 0x43 0 v.toNat) []
  obtain ⟨a, b, kept⟩ := c.keepHealth_eq fun x => { x with reasons := v }
  rw [raised, kept]

theorem Furrow.loseDie_lostDies (c : Furrow) (n : Fin 2) (d : Nat) : (c.loseDie n d).grn.lostDies = c.grn.lostDies ++ [(n.val, d)] := by
  unfold Furrow.loseDie
  dsimp only
  generalize hc : (c.modGrn fun g => { g with
    lostDies := g.lostDies ++ [(n.val, d)]
    nand := { g.nand with dead := g.nand.dead ++ [(n.val, d)] }
    sbs := g.sbs.map fun b => if b.ch = n ∧ b.dies.contains d then
      (if b.state = .free then { b with dies := b.dies.filter (· ≠ d) } else { b with urgent := true }) else b }) = c1
  have lost : c1.grn.lostDies = c.grn.lostDies ++ [(n.val, d)] := by rw [← hc]; rfl
  obtain ⟨g, shut, kept⟩ := Furrow.shutSbs_view (n := n) (view := Granary.lostDies) (fun _ _ _ _ _ => rfl) (fun _ _ => rfl) (fun _ _ _ _ => rfl)
    (c1.grn.sbs.filter fun b => b.ch = n && b.state = .opened && b.dies.contains d) c1
  rw [shut]
  generalize hc2 : ({ c1 with grn := g } : Furrow) = c2
  obtain ⟨a, b, health⟩ := c2.keepHealth_eq fun h => { h with lostDies := sat h.lostDies 1 }
  rw [health]
  obtain ⟨x, y, raised, -⟩ := Furrow.raise_eq { c2 with health := _, healthA := a, healthB := b }
    { errRec 0x30 0 d with addr := BitVec.ofNat 64 (psaOf n.val d 0 0 0), part := BitVec.ofNat 8 n.val } []
  rw [raised]
  obtain ⟨_, _, _, st, weighed⟩ := Furrow.weighCapacity_eq
    { c2 with health := _, healthA := a, healthB := b, counts := x, err := y }
  rw [weighed, ← lost, ← kept, ← hc2]

theorem dieLost_recorded {n : Fin 2} {die : Byte} (hm : (s.furrow f).grn.mounted[n] = true)
    (hd : die.toNat < (s.furrow f).grn.nand.parts[n].dies.toNat) (hl : (s.furrow f).grn.lostDies.contains (n.val, die.toNat) = false) :
    ∃ t, exec (.dieLost f n die) s = .next t ∧ (t.furrow f).grn.lostDies = (s.furrow f).grn.lostDies ++ [(n.val, die.toNat)] ∧
      t.host = s.host ∧ t.mems = s.mems := by
  have goes : (s.furrow f).grn.mounted[n] = true ∧ die.toNat < (s.furrow f).grn.nand.parts[n].dies.toNat ∧
      (!(s.furrow f).grn.lostDies.contains (n.val, die.toNat)) = true := ⟨hm, hd, by rw [hl]; rfl⟩
  obtain ⟨-, host, mems⟩ := (Run.start s).modFur_weighHealth f fun c => c.loseDie n die.toNat
  obtain ⟨grn, -⟩ := ((Run.start s).modFur f fun c => c.loseDie n die.toNat).weighHealth_grn f
  refine ⟨_, congrArg Run.done (if_pos goes), ?_, host, mems⟩
  rw [grn, Run.modFur_now, State.furrow_setFurrow_same]
  exact Furrow.loseDie_lostDies _ n _

theorem execDieLost_known {n : Fin 2} {die : Byte} (hl : (s.furrow f).grn.lostDies.contains (n.val, die.toNat) = true) :
    exec (.dieLost f n die) s = .next s := by
  refine congrArg Run.done (if_neg ?_)
  rintro ⟨-, -, fresh⟩
  rw [hl] at fresh
  cases fresh

/-- The other channel. -/
def otherChannel (n : Fin 2) : Fin 2 := if n = 0 then 1 else 0

theorem otherChannel_ne (n : Fin 2) : n.val ≠ (otherChannel n).val := by
  match n with
  | 0 => decide
  | 1 => decide

/-- An isolated channel has no stripe, and the rest of the furrow is as it was. -/
theorem Furrow.isolate_eq (c : Furrow) (n : Fin 2) : ∃ g, c.isolate n = { c with grn := g } ∧ g.stripes[n] = [] := by
  obtain ⟨g, again, kept⟩ := Furrow.reappends_view (n := otherChannel n) (view := fun g => g.stripes[n]) (fun _ _ _ _ _ => rfl)
    (fun g ts => Vector.getElem_set_ne (otherChannel n).isLt n.isLt (otherChannel_ne n).symm) (fun _ _ _ _ => rfl) c.grn.stripes[n] (c.modGrn fun g =>
      { g.setStripes n [] with
        gc := g.gc.filter fun j => j.ch ≠ n
        fg := g.fg.set n false
        bg := g.bg.set n false
        sbs := g.sbs.map fun b => if b.ch = n ∧ b.state = .victim then { b with state := .closed } else b })
  exact ⟨g, again, kept.trans (Vector.getElem_set_self n.isLt)⟩

/-- A furrow whose channel is switched off for what it draws. -/
def Furrow.switchedOff (n : Fin 2) (c : Furrow) : Furrow :=
  let rec_ := fun (kind : Nat) => { errRec kind 0 n.val with part := BitVec.ofNat 8 n.val }
  let c := c.modPwr fun p => { p with nandOc := addBit p.nandOc n.val }
  (((c.isolate n).raise (rec_ 0x74) []).raise (rec_ 0x31) []).weighCapacity

theorem Furrow.switchedOff_off (c : Furrow) (n : Fin 2) :
    (c.switchedOff n).pwr.nandOc.getLsbD n.val = true ∧ (c.switchedOff n).grn.stripes[n] = [] := by
  obtain ⟨g, off, none⟩ := (c.modPwr fun p => { p with nandOc := addBit p.nandOc n.val }).isolate_eq n
  unfold Furrow.switchedOff
  dsimp only
  rw [off]
  generalize hd : ({ c.modPwr fun p => { p with nandOc := addBit p.nandOc n.val } with grn := g } : Furrow) = d
  obtain ⟨x, y, first, -⟩ := d.raise_eq { errRec 0x74 0 n.val with part := BitVec.ofNat 8 n.val } []
  rw [first]
  obtain ⟨x', y', second, -⟩ := Furrow.raise_eq { d with counts := x, err := y } { errRec 0x31 0 n.val with part := BitVec.ofNat 8 n.val } []
  rw [second]
  obtain ⟨_, _, _, st, weighed⟩ := Furrow.weighCapacity_eq { d with counts := x', err := y' }
  rw [weighed, ← hd]
  exact ⟨getLsbD_addBit _ _ n.isLt, none⟩

theorem execNandOvercurrent_known {n : Fin 2} (ho : (s.furrow f).pwr.nandOc.getLsbD n.val = true) : exec (.nandOvercurrent f n) s = .next s :=
  congrArg Run.done (if_pos ho)

theorem nandOvercurrent_switches {n : Fin 2} (ho : (s.furrow f).pwr.nandOc.getLsbD n.val = false) :
    ∃ t, exec (.nandOvercurrent f n) s = .next t ∧ (t.furrow f).pwr.nandOc.getLsbD n.val = true ∧ (t.furrow f).grn.stripes[n] = [] ∧
      t.host = s.host ∧ t.mems = s.mems := by
  obtain ⟨off, none⟩ := (s.furrow f).switchedOff_off n
  obtain ⟨-, host, mems⟩ := (Run.start s).modFur_weighHealth f (Furrow.switchedOff n)
  obtain ⟨grn, pwr⟩ := ((Run.start s).modFur f (Furrow.switchedOff n)).weighHealth_grn f
  rw [Run.modFur_now, State.furrow_setFurrow_same] at grn pwr
  have goes : ¬(s.furrow f).pwr.nandOc.getLsbD n.val = true := by rw [ho]; decide
  refine ⟨_, congrArg Run.done (if_neg goes), ?_, ?_, host, mems⟩
  · exact (congrArg (fun p => p.nandOc.getLsbD n.val) pwr).trans off
  · exact (congrArg (fun g => g.stripes[n]) grn).trans none

/-! ### Patrol, calibration and retirement (R332, R348, R353) -/

theorem execGranaryPatrol_reads {n : Fin 2} {sb : W16} {b : Superblock} (hb : (s.furrow f).grn.sb? n sb.toNat = some b) (hc : b.state = .closed)
    (hp : 604800000000000 ≤ elapsed (s.furrow f).ns b.patrol) :
    exec (.granaryPatrol f n sb none) s = .next (s.setFurrow f ((s.furrow f).modGrn fun g =>
      g.modSb n sb.toNat fun b => { b with patrol := (s.furrow f).ns })) := by
  refine done_modFur ?_
  dsimp only
  rw [hb]
  exact if_pos ⟨hc, hp⟩

theorem execGranaryPatrol_same {n : Fin 2} {sb : W16} {b : Superblock} (hb : (s.furrow f).grn.sb? n sb.toNat = some b)
    (h : b.state ≠ .closed ∨ elapsed (s.furrow f).ns b.patrol < 604800000000000) (x : Option (BitVec 40)) :
    exec (.granaryPatrol f n sb x) s = .next s := by
  refine done_modFur_self ?_
  dsimp only
  rw [hb]
  refine if_neg ?_
  rintro ⟨closed, due⟩
  exact h.elim (fun h => h closed) fun h => Nat.lt_irrefl _ (Nat.lt_of_lt_of_le h due)

end

/-- Settles O39: the programs of system slots touch neither the journal nor the root records, and the slots that a lost die or an isolated channel
hands on touch neither the dies lost nor that channel's stripes. What goes on when a program has failed, and that a slot of unmapped
entries is left out of a checkpoint, is the model's choice (log 44, log 45); the order of the records is log 47's. -/
theorem granaryUpkeep : Obligations.GranaryUpkeep := by
  intro f n s
  refine ⟨fun hu hc hn => done_modFur (if_pos ⟨hu, hc, hn⟩), fun h => done_modFur_self (if_neg ?_), execCheckpointDone_none,
    fun e he => ⟨checkpointDone_commits he, execCheckpointDone_early he⟩, fun hu hz => done_modFur (if_pos ⟨hu, hz⟩),
    fun h => done_modFur_self (if_neg ?_), fun sb b hb => ⟨execGranaryPatrol_reads hb, execGranaryPatrol_same hb⟩,
    fun b => ⟨fun hm => congrArg Run.done (if_neg ?_), fun hm hd hk => ⟨congrArg Run.done (if_pos ⟨hm, hd, hk⟩), fun hr => if_pos hr⟩⟩,
    fun die hm hd => ⟨execDieLost_known, fun hl => ?_⟩, execNandOvercurrent_known, fun ho => ?_⟩
  · rintro ⟨usable, none, due⟩
    rcases h with h | h | h
    · exact Nat.lt_irrefl _ (Nat.lt_of_lt_of_le h due)
    · exact h none
    · exact absurd (h.symm.trans usable) (by decide)
  · rintro ⟨usable, due⟩
    exact h.elim (fun h => Nat.lt_irrefl _ (Nat.lt_of_lt_of_le h due)) fun h => absurd (h.symm.trans usable) (by decide)
  · rintro ⟨mounted, -⟩
    exact absurd (hm.symm.trans mounted) (by decide)
  · obtain ⟨t, next, lost, host, mems⟩ := dieLost_recorded hm hd hl
    exact ⟨t, next, lost, host, mems, execDieLost_known (by rw [lost]; simp)⟩
  · obtain ⟨t, next, off, none, host, mems⟩ := nandOvercurrent_switches ho
    exact ⟨t, next, off, none, host, mems, execNandOvercurrent_known off⟩

end Sys2Proof.Machine
end

section
namespace Sys2Proof.Machine

/-! ### The end of a reclaim (R346, R358) -/

section
variable {f : FurrowIx} {h : Handle} {tag : Tag} {q : Request} {s : State}

/-- A furrow whose GRN_RECLAIM is over: on each channel what needs no reclamation any more stops. -/
def Furrow.reclaimed (c : Furrow) : Furrow := ((c.modGrn fun g => { g with reclaim := none }).gcStops 0).gcStops 1

theorem execGrnReclaim_done {o : Handle} {ot : Tag} {ch : BitVec 2} {target : W16} {limit : W32} {freed : Nat}
    (hq : (s.furrow f).atWork h tag 0x82 = some q) (hr : (s.furrow f).grn.reclaim = some (o, ot, ch, target, limit, freed))
    (h0 : (s.furrow f).grn.wantsReclaim 0 = false) (h1 : (s.furrow f).grn.wantsReclaim 1 = false) :
    exec (.grnReclaim f h tag) s = .next (((Run.start s).modFur f Furrow.reclaimed).engineEnds f h tag (Ending.ok (satCount freed) 0)).now := by
  show execGrnReclaim f h tag s = _
  unfold execGrnReclaim
  simp only [hq, hr, h0, h1, Bool.not_false, Bool.and_self, if_true]
  rfl

end

/-- A GRN_RECLAIM of handle 0: channel N0, TARGET 4, LIMIT 1,000 µs. -/
def reclaimDesc : List Byte := 0x82 :: zeros 15 ++ [1, 0] ++ leBytes 2 4 ++ leBytes 4 1000 ++ zeros 40

/-- A request of handle 0 at that descriptor. -/
def reclaimRequest : Request := { Request.fresh 0 7 0 0 reclaimDesc 0 with phase := .running, waitNs := some 0 }

/-- A free superblock of N0 on two dies. -/
def freeSuperblock (k : Nat) : Superblock := ⟨0, k, .free, [0, 1], 0, 0, 0, 0, false, false⟩

/-- A Granary that takes requests and has five free superblocks on N0, where foreground reclamation runs for that descriptor. -/
def reclaimGranary : Granary :=
  { (Furrow.initial 0).grn with
    state := .ready, mounted := Vector.replicate 2 true, sbs := (List.range 5).map (freeSuperblock ·.succ), fg := #v[true, false]
    reclaim := some (0, 7, 1, 4, 1000, 0) }

/-- The module with that Granary on its first furrow. -/
def reclaimState : State := State.reset.setFurrow 0 { Furrow.initial 0 with reqs := [reclaimRequest], grn := reclaimGranary }

theorem reclaimState_furrow : reclaimState.furrow 0 = { Furrow.initial 0 with reqs := [reclaimRequest], grn := reclaimGranary } :=
  State.furrow_setFurrow_same _ _ _

/-- The descriptor is at work, and its channel has more free superblocks than it asks for. -/
theorem reclaimState_atWork : (reclaimState.furrow 0).atWork 0 7 0x82 = some reclaimRequest ∧
    (reclaimState.furrow 0).grn.wantsReclaim 0 = false ∧ (reclaimState.furrow 0).grn.wantsReclaim 1 = false := by
  rw [reclaimState_furrow]
  decide

/-- The end of the reclaim stops the foreground reclamation that ran for it. -/
theorem reclaimed_stops : (reclaimState.furrow 0).reclaimed.grn.fg[0] = false := by
  rw [reclaimState_furrow]
  decide

/-- Refutes O37: its clause for GRN_RECLAIM says that the end of the descriptor changes nothing of the Granary but RECLAIM. In `reclaimState` the
foreground reclamation that ran for it stops with it, for N0 is not below FG_FREE and no write waits (R346, R358). -/
theorem not_granaryCommandsAndMounting : ¬ Obligations.GranaryCommandsAndMounting := by
  unfold Obligations.GranaryCommandsAndMounting
  rintro ⟨commands, -⟩
  obtain ⟨work, none0, none1⟩ := reclaimState_atWork
  have reclaim : (reclaimState.furrow 0).grn.reclaim = some (0, 7, 1, 4, 1000, 0) := by rw [reclaimState_furrow]; rfl
  obtain ⟨-, -, reclaims⟩ := commands 0 0 7 reclaimRequest reclaimState
  obtain ⟨ends, -⟩ := reclaims 0 7 1 4 1000 0 work reclaim
  obtain ⟨t, run, -, -, same, -⟩ := ends none0 none1
  obtain rfl := Host.Outcome.next.inj ((execGrnReclaim_done work reclaim none0 none1).symm.trans run)
  rw [Run.engineEnds_done (failed_ok _ _), Run.modFur_now, State.furrow_setFurrow_same] at same
  have stopped : (reclaimState.furrow 0).reclaimed.grn.fg[0] = (reclaimState.furrow 0).grn.fg[0] := congrArg (fun g => g.fg[0]) same
  rw [reclaimed_stops, reclaimState_furrow] at stopped
  exact absurd stopped (by decide)

end Sys2Proof.Machine
end

section
namespace Sys2Proof.Machine

variable {s₀ : State}

/-! ### Programs (R337, R353) -/

/-- From one state to another a furrow has worked within itself, and a view of its Granary stands. -/
def State.grnKept {γ : Type} (view : Granary → γ) (s : State) (f : FurrowIx) (t : State) : Prop :=
  s.onlyFurrow f t ∧ view (t.furrow f).grn = view (s.furrow f).grn

section
variable {γ : Type} {view : Granary → γ} {f : FurrowIx}

theorem State.grnKept_refl (s : State) : s.grnKept view f s := ⟨s.onlyFurrow_refl f, rfl⟩

theorem State.grnKept_trans {s t u : State} (st : s.grnKept view f t) (tu : t.grnKept view f u) : s.grnKept view f u :=
  ⟨State.onlyFurrow_trans st.1 tu.1, tu.2.trans st.2⟩

theorem Run.modFur_grnKept (r : Run s₀) {g : Furrow → Furrow} (hg : view (g (r.now.furrow f)).grn = view (r.now.furrow f).grn) :
    r.now.grnKept view f (r.modFur f g).now := by
  refine ⟨State.onlyFurrow_setFurrow _ f _, ?_⟩
  rw [Run.modFur_now, State.furrow_setFurrow_same, hg]

/-- A change of the Granary that the view has no part in. -/
theorem Run.modGrn_grnKept (r : Run s₀) {g : Granary → Granary} (hg : ∀ x, view (g x) = view x) :
    r.now.grnKept view f (r.modFur f fun c => c.modGrn g).now := Run.modFur_grnKept r (hg _)

theorem Run.each_grnKept {α : Type} {g : Run s₀ → α → Run s₀} (hg : ∀ (r : Run s₀) x, r.now.grnKept view f (g r x).now) (xs : List α)
    (r : Run s₀) : r.now.grnKept view f (r.each xs g).now :=
  List.foldlRecOn (motive := fun t : Run s₀ => r.now.grnKept view f t.now) xs g (r.now.grnKept_refl) fun t ht x _ =>
    State.grnKept_trans ht (hg t x)

/-- A view that map steps and the counts of blocks written have no part in. -/
def BesideSteps (view : Granary → γ) : Prop :=
  ∀ (g : Granary) (seq : W64) (xs : List JRec) (n : Nat) (m : W64),
    view { g with seq := seq, records := xs, sinceCkpt := n, hostBlocks := m } = view g

theorem Run.mapStep_grnKept (hm : BesideSteps view) (r : Run s₀) (lbn new : Nat) (kind : Byte) :
    r.now.grnKept view f (r.mapStep f lbn new kind).now := by
  have written : r.now.grnKept view f (r.write (.hbm f) ((r.fur f).grn.mapAddr lbn) (leBytes 8 new)).now :=
    ⟨r.now.onlyFurrow_setMem (.inr (.inr rfl)) _, by rw [Run.write_now, State.setMem_furrow]⟩
  exact State.grnKept_trans written (Run.modFur_grnKept _ (hm _ _ _ _ _))

end

/-- The count of slots programmed, what lies on the NAND, and whether a reclamation is under way. -/
def Granary.onFlash (g : Granary) : W64 × Nand × Bool := (g.flashSlots, g.nand, g.gc.isEmpty)

theorem Granary.onFlash_besideSteps : BesideSteps Granary.onFlash := fun _ _ _ _ _ => rfl

theorem Run.slotDurable_onFlash (r : Run s₀) (f : FurrowIx) (psa : Nat) : r.now.grnKept Granary.onFlash f (r.slotDurable f psa).now := by
  have stepped (r : Run s₀) (lbn new : Nat) (kind : Byte) := Run.mapStep_grnKept (f := f) Granary.onFlash_besideSteps r lbn new kind
  unfold Run.slotDurable
  dsimp only
  split
  · exact State.grnKept_trans (stepped r _ _ _) (Run.modGrn_grnKept _ fun _ => rfl)
  · split
    · refine State.grnKept_trans ?_ (Run.modGrn_grnKept _ fun _ => rfl)
      split
      · exact stepped r _ _ _
      · exact r.now.grnKept_refl
    · refine Run.modGrn_grnKept r fun g => ?_
      simp only [Granary.onFlash, List.isEmpty_map]

/-- With no reclamation under way none commits. -/
theorem Run.gcCommits_none {r : Run s₀} {f : FurrowIx} (hg : (r.now.furrow f).grn.gc.isEmpty = true) : r.gcCommits f = r := by
  unfold Run.gcCommits
  rw [Run.fur_eq, List.isEmpty_iff.1 hg]
  rfl

/-- A word line that becomes durable, with no reclamation under way, leaves what lies on the NAND. -/
theorem Run.lineDurable_onFlash (r : Run s₀) {f : FurrowIx} (hg : (r.now.furrow f).grn.gc = []) (n : Fin 2) (t : Stripe) :
    r.now.grnKept Granary.onFlash f (r.lineDurable f n t).now := by
  unfold Run.lineDurable
  dsimp only
  generalize hr1 : (r.modFur f fun c => c.modGrn fun g =>
    g.setStripes n (((r.fur f).grn.onLine n t).foldl (fun us t => dropStripe t us) g.stripes[n])) = r1
  generalize ((((r.fur f).grn.onLine n t).flatMap (·.filled)).filter fun x => x.slot.kind ≠ SlotKind.pad && x.slot.kind ≠ SlotKind.parity) = xs
  have first : r.now.grnKept Granary.onFlash f r1.now := hr1 ▸ Run.modGrn_grnKept r fun _ => rfl
  have slots : r.now.grnKept Granary.onFlash f (r1.each xs fun r x => r.slotDurable f x.psa).now :=
    State.grnKept_trans first (Run.each_grnKept (fun r x => r.slotDurable_onFlash f x.psa) xs r1)
  have none : ((r1.each xs fun r x => r.slotDurable f x.psa).now.furrow f).grn.gc.isEmpty = true :=
    (congrArg (fun v => v.2.2) slots.2).trans (List.isEmpty_iff.2 hg)
  rw [Run.gcCommits_none none]
  refine State.grnKept_trans slots (Run.modGrn_grnKept _ fun g => ?_)
  unfold Granary.closeSb
  split
  · rfl
  · split <;> rfl

section
variable {f : FurrowIx} {n : Fin 2} {s : State}

theorem execStripeCloseTimeout_closes {t : Stripe} (ht : t ∈ (s.furrow f).grn.stripes[n]) (hp : t.programming = false) (hf : t.filled ≠ [])
    (hn : 100000 ≤ elapsed (s.furrow f).ns t.since) :
    exec (.stripeCloseTimeout f n) s = .next (s.setFurrow f ((s.furrow f).modGrn fun g => g.closeStripe n)) := by
  have due : ((s.furrow f).grn.stripes[n].any fun t =>
      !t.programming && !t.filled.isEmpty && decide (100000 ≤ elapsed (s.furrow f).ns t.since)) = true :=
    List.any_eq_true.2 ⟨t, ht, by simp [hp, hf, hn]⟩
  exact done_modFur (if_pos due)

theorem execStripe_none (hs : (s.furrow f).grn.stripes[n] = []) (ok : Bool) :
    exec (.stripeCloseTimeout f n) s = .next s ∧ exec (.nandProgramDone f n ok) s = .next s := by
  have none : (s.furrow f).grn.programmed n = none := by rw [Granary.programmed, hs]; rfl
  refine ⟨done_modFur_self (if_neg ?_), ?_⟩
  · rw [hs]
    exact Bool.false_ne_true
  · show execNandProgramDone f n ok s = _
    unfold execNandProgramDone
    rw [none]
    rfl

/-- The programs of a stripe counted. -/
def Run.countProgram (r : Run s₀) (f : FurrowIx) (n : Fin 2) (b : Superblock) : Run s₀ :=
  r.modFur f fun c => c.modGrn fun g => { g with flashSlots := g.flashSlots + BitVec.ofNat 64 (b.dies.length * g.slotsPer n) }

/-- A stripe on the NAND. -/
def Granary.programDone (g : Granary) (n : Fin 2) (t : Stripe) : Granary :=
  { g.setStripes n (g.stripes[n].map fun (u : Stripe) => if u.sb = t.sb ∧ u.page = t.page then { u with programmed := true } else u) with
    nand := g.nand.store t }

section
variable {t : Stripe} {b : Superblock} (ht : (s.furrow f).grn.programmed n = some t) (hb : (s.furrow f).grn.sb? n t.sb = some b)
include ht hb

theorem execNandProgramDone_good {r : Run s} (hr : r = ((Run.start s).countProgram f n b).modFur f fun c => c.modGrn fun g => g.programDone n t) :
    exec (.nandProgramDone f n true) s = .next (if (r.fur f).grn.lineDone n t then r.lineDurable f n t else r).now := by
  subst hr
  show execNandProgramDone f n true s = _
  unfold execNandProgramDone
  simp only [ht, hb]
  rfl

theorem execNandProgramDone_bad : exec (.nandProgramDone f n false) s = .next (((Run.start s).countProgram f n b).modFur f fun c =>
    (c.modGrn fun g => g.setStripes n (dropStripe t g.stripes[n])).programFailed n t).now := by
  show execNandProgramDone f n false s = _
  unfold execNandProgramDone
  simp only [ht, hb]
  rfl

theorem nandProgramDone_counts (hg : (s.furrow f).grn.gc = []) (ok : Bool) :
    ∃ u, exec (.nandProgramDone f n ok) s = .next u ∧ s.onlyFurrow f u ∧
      (u.furrow f).grn.flashSlots = (s.furrow f).grn.flashSlots + BitVec.ofNat 64 (b.dies.length * (s.furrow f).grn.slotsPer n) ∧
      (ok = true → (u.furrow f).grn.nand = (s.furrow f).grn.nand.store t) := by
  have counted : (((Run.start s).countProgram f n b).now.furrow f).grn = { (s.furrow f).grn with
      flashSlots := (s.furrow f).grn.flashSlots + BitVec.ofNat 64 (b.dies.length * (s.furrow f).grn.slotsPer n) } := by
    rw [Run.countProgram, Run.modFur_now, State.furrow_setFurrow_same]
    rfl
  have onlyCounted : s.onlyFurrow f ((Run.start s).countProgram f n b).now := s.onlyFurrow_setFurrow f _
  cases ok with
  | true =>
    have next := execNandProgramDone_good ht hb rfl
    generalize (Run.start s).countProgram f n b = r at counted onlyCounted next
    generalize hr1 : (r.modFur f fun c => c.modGrn fun g => g.programDone n t) = r1 at next
    have done : (r1.now.furrow f).grn = (r.now.furrow f).grn.programDone n t := by
      rw [← hr1, Run.modFur_now, State.furrow_setFurrow_same]
      rfl
    have onlyDone : s.onlyFurrow f r1.now := State.onlyFurrow_trans onlyCounted (hr1 ▸ State.onlyFurrow_setFurrow _ f _)
    have noGc : (r1.now.furrow f).grn.gc = [] := by rw [done, counted]; exact hg
    have kept : r1.now.grnKept Granary.onFlash f (if (r1.fur f).grn.lineDone n t then r1.lineDurable f n t else r1).now := by
      split
      · exact r1.lineDurable_onFlash noGc n t
      · exact r1.now.grnKept_refl
    obtain ⟨only, flash⟩ := kept
    rw [done, counted] at flash
    obtain ⟨slots, rest⟩ := Prod.mk.inj flash
    exact ⟨_, next, State.onlyFurrow_trans onlyDone only, slots, fun _ => (Prod.mk.inj rest).1⟩
  | false =>
    have next := execNandProgramDone_bad ht hb
    generalize (Run.start s).countProgram f n b = r at counted onlyCounted next
    refine ⟨_, next, State.onlyFurrow_trans onlyCounted (State.onlyFurrow_setFurrow _ f _), ?_, fun h => absurd h (by decide)⟩
    obtain ⟨g, failed, flash⟩ := Furrow.programFailed_view (n := n) (view := Granary.flashSlots) (fun _ _ _ _ _ => rfl) (fun _ _ => rfl)
      (fun _ _ _ _ => rfl) ((r.now.furrow f).modGrn fun g => g.setStripes n (dropStripe t g.stripes[n])) t
    rw [Run.modFur_now, State.furrow_setFurrow_same, failed]
    exact flash.trans (congrArg Granary.flashSlots counted)

end

end

end Sys2Proof.Machine
end

section
namespace Sys2Proof.Machine

variable {s₀ : State}

/-! ### Requests that wait for their last transfers (R315, R341) -/

/-- A change of the request of one handle and tag leaves the request of another as it is. -/
theorem modFirst_find?_other {k : Request → Request} (hk : KeepsName k) {h h' : Handle} {tag tag' : Tag} (hne : ¬(h' = h ∧ tag' = tag))
    (qs : List Request) : (modFirst qs h' tag' k).find? (fun q => q.isOf h tag) = qs.find? fun q => q.isOf h tag := by
  induction qs with
  | nil => rfl
  | cons q rest ih =>
    unfold modFirst
    by_cases named : q.isOf h' tag' = true
    · have other : q.isOf h tag = false := by
        rw [Bool.eq_false_iff]
        intro both
        obtain ⟨rfl, rfl, -⟩ := (q.isOf_iff h' tag').1 named
        obtain ⟨rfl, rfl, -⟩ := (q.isOf_iff h tag).1 both
        exact hne ⟨rfl, rfl⟩
      obtain ⟨kh, ktag, kbox⟩ := hk q
      have otherK : (k q).isOf h tag = false := by
        simpa only [Request.isOf, kh, ktag, kbox] using other
      rw [if_pos named, List.find?_cons_of_neg (by rw [otherK]; decide), List.find?_cons_of_neg (by rw [other]; decide)]
    · rw [if_neg named, List.find?_cons, List.find?_cons, ih]

theorem Furrow.request?_modReq_other {c : Furrow} {k : Request → Request} (hk : KeepsName k) {h h' : Handle} {tag tag' : Tag}
    (hne : ¬(h' = h ∧ tag' = tag)) : (c.modReq h' tag' k).request? h tag = c.request? h tag :=
  modFirst_find?_other hk hne c.reqs

/-- What settling a request leaves: the Granary, the fabric block, and every other request. -/
theorem Furrow.settleAwait_other (c : Furrow) (h' : Handle) (tag' : Tag) : (c.settleAwait h' tag').grn = c.grn ∧
    (c.settleAwait h' tag').pyr = c.pyr ∧
    ∀ h tag, ¬(h' = h ∧ tag' = tag) → (c.settleAwait h' tag').request? h tag = c.request? h tag := by
  unfold Furrow.settleAwait
  split
  · exact ⟨rfl, rfl, fun _ _ _ => rfl⟩
  next q hq =>
    split
    next e hp ha =>
      split
      · exact ⟨rfl, rfl, fun _ _ _ => rfl⟩
      · have measured (c : Furrow) : (fun c : Furrow => (c.grn, c.pyr, c.reqs)) (q.measures.foldl (fun (c : Furrow) x =>
            c.measure LogKind.move h' 0 tag' x.1 x.2.1 x.2.2) c) = (c.grn, c.pyr, c.reqs) :=
          foldl_keeps (fun c : Furrow => (c.grn, c.pyr, c.reqs)) _ (by intro c x; rfl) q.measures c
        obtain ⟨grn, rest⟩ := Prod.mk.inj (measured c)
        obtain ⟨pyr, reqs⟩ := Prod.mk.inj rest
        exact ⟨grn, pyr, fun h tag hne =>
          (Furrow.request?_modReq_other (k := fun q => { q with phase := .engineDone e, uses := [], await := none })
            (fun _ => ⟨rfl, rfl, rfl⟩) hne).trans (Furrow.request?_congr reqs h tag)⟩
    · exact ⟨rfl, rfl, fun _ _ _ => rfl⟩

section
variable {h : Handle} {tag : Tag} {e : Ending}

/-- A request that only its last transfers keep from its end, and none of them is under way. -/
def Furrow.quiet (h : Handle) (tag : Tag) (e : Ending) (c : Furrow) : Prop :=
  (∃ q, c.request? h tag = some q ∧ q.phase = .running ∧ q.await = some e) ∧ c.transfers h tag = false

/-- A request that has ended. -/
def Furrow.settled (h : Handle) (tag : Tag) (e : Ending) (c : Furrow) : Prop :=
  ∃ q, c.request? h tag = some q ∧ q.phase = .engineDone e ∧ q.uses = []

theorem Furrow.settleAwait_quiet {c : Furrow} (hc : c.quiet h tag e) : (c.settleAwait h tag).settled h tag e := by
  obtain ⟨⟨q, hq, hp, ha⟩, ht⟩ := hc
  exact Furrow.settleAwait_ended hq hp ha ht

theorem Furrow.settleAwait_quiet_other {c : Furrow} (hc : c.quiet h tag e) {h' : Handle} {tag' : Tag} (hne : ¬(h' = h ∧ tag' = tag)) :
    (c.settleAwait h' tag').quiet h tag e := by
  obtain ⟨found, still⟩ := hc
  obtain ⟨grn, pyr, others⟩ := c.settleAwait_other h' tag'
  refine ⟨by rw [others h tag hne]; exact found, ?_⟩
  unfold Furrow.transfers at still ⊢
  rw [grn, pyr, others h tag hne]
  exact still

theorem Furrow.settleAwait_settled {c : Furrow} (hc : c.settled h tag e) (h' : Handle) (tag' : Tag) : (c.settleAwait h' tag').settled h tag e := by
  by_cases same : h' = h ∧ tag' = tag
  · obtain ⟨rfl, rfl⟩ := same
    obtain ⟨q, hq, hp, -⟩ := id hc
    have stays : c.settleAwait h' tag' = c := by
      unfold Furrow.settleAwait
      simp only [hq, hp]
    rw [stays]
    exact hc
  · obtain ⟨-, -, others⟩ := c.settleAwait_other h' tag'
    unfold Furrow.settled
    rw [others h tag same]
    exact hc

/-- Settling a list of requests, the quiet one among them, ends it. -/
theorem Furrow.settles_settled (qs : List Request) (c : Furrow)
    (hc : c.settled h tag e ∨ c.quiet h tag e ∧ ∃ q ∈ qs, q.h = h ∧ q.tag = tag) :
    (qs.foldl (fun (c : Furrow) q => c.settleAwait q.h q.tag) c).settled h tag e := by
  induction qs generalizing c with
  | nil =>
    rcases hc with hc | ⟨-, q, hq, -⟩
    · exact hc
    · cases hq
  | cons x xs ih =>
    refine ih (c.settleAwait x.h x.tag) ?_
    rcases hc with hc | ⟨hc, q, hq, name⟩
    · exact .inl (Furrow.settleAwait_settled hc _ _)
    · by_cases same : x.h = h ∧ x.tag = tag
      · obtain ⟨rfl, rfl⟩ := same
        exact .inl (Furrow.settleAwait_quiet hc)
      · refine .inr ⟨Furrow.settleAwait_quiet_other hc same, q, (List.mem_cons.1 hq).resolve_left ?_, name⟩
        rintro rfl
        exact same name

theorem Furrow.settleAll_settled {c : Furrow} (hc : c.quiet h tag e) : c.settleAll.settled h tag e := by
  obtain ⟨⟨q, hq, -⟩, -⟩ := id hc
  obtain ⟨hh, htag, -⟩ := Furrow.request?_is c h tag q hq
  exact Furrow.settles_settled c.reqs c (.inr ⟨hc, q, List.mem_of_find?_eq_some hq, hh, htag⟩)

end

theorem Furrow.settleAll_grn (c : Furrow) : c.settleAll.grn = c.grn :=
  foldl_keeps Furrow.grn (fun (c : Furrow) (q : Request) => c.settleAwait q.h q.tag) (fun c q => (c.settleAwait_other q.h q.tag).1) c.reqs c

/-! ### The journal (R340–R342) -/

section
variable {f : FurrowIx} {s : State}

/-- A Granary whose records up to the last are durable. -/
def Granary.durableTo (last : JRec) (g : Granary) : Granary :=
  { g with
    nand := { g.nand with journal := g.nand.journal ++ g.records }
    records := []
    durableSeq := last.seq
    writes := g.writes.filter fun w => match w.stage with | .recorded q => decide (last.seq < q) | _ => true }

/-- A furrow whose journal slots are programmed. -/
def Furrow.journaled (c : Furrow) : Furrow := c.writeSystem c.grn.records.length (journalSlots c.grn.records.length c.grn.records)

theorem execJournalDurable_durable {last : JRec} (hl : (s.furrow f).grn.records.getLast? = some last) :
    exec (.journalDurable f) s = .next (s.setFurrow f (((s.furrow f).journaled.modGrn (Granary.durableTo last)).settleAll)) := by
  obtain ⟨g, written, books⟩ := Furrow.writeSystem_books (s.furrow f).grn.records.length
    (journalSlots (s.furrow f).grn.records.length (s.furrow f).grn.records) (s.furrow f)
  have records : g.records.getLast? = some last := (congrArg (fun g => g.records.getLast?) books).trans hl
  have journaled : (s.furrow f).journaled = { s.furrow f with grn := g } := written
  refine done_modFur (congrArg Furrow.settleAll ?_)
  rw [journaled, written]
  unfold Furrow.modGrn
  dsimp only
  rw [records]
  rfl

theorem journalDurable_ends {last : JRec} (hl : (s.furrow f).grn.records.getLast? = some last) :
    ∃ t, exec (.journalDurable f) s = .next t ∧ (t.furrow f).grn.records = [] ∧ (t.furrow f).grn.durableSeq = last.seq ∧
      (t.furrow f).grn.nand.journal = (s.furrow f).grn.nand.journal ++ (s.furrow f).grn.records ∧ s.onlyFurrow f t ∧ t.mems = s.mems ∧
      ∀ (h : Handle) (tag : Tag) (q : Request) (e : Ending), (s.furrow f).request? h tag = some q → q.phase = .running →
        q.await = some e → q.owed = 0 → ((s.furrow f).grn.reads.any fun x => x.h = h && x.tag = tag) = false →
        ((s.furrow f).pyr.txs.any fun x => x.h = h && x.req = tag) = false →
        (∀ w, w ∈ (s.furrow f).grn.writes → w.h = h → w.tag = tag → ∃ k, w.stage = .recorded k ∧ k ≤ last.seq) → t.descriptorEnded f h tag e := by
  obtain ⟨g, written, books⟩ := Furrow.writeSystem_books (s.furrow f).grn.records.length
    (journalSlots (s.furrow f).grn.records.length (s.furrow f).grn.records) (s.furrow f)
  have journaled : (s.furrow f).journaled = { s.furrow f with grn := g } := written
  have records : g.records = (s.furrow f).grn.records := congrArg (fun g => g.records) books
  have journal : g.nand.journal = (s.furrow f).grn.nand.journal := congrArg (fun g => g.nand.journal) books
  have reads : g.reads = (s.furrow f).grn.reads := congrArg (fun g => g.reads) books
  have writes : g.writes = (s.furrow f).grn.writes := congrArg (fun g => g.writes) books
  have next := execJournalDurable_durable hl
  rw [journaled] at next
  refine ⟨_, next, ?_, ?_, ?_, s.onlyFurrow_setFurrow f _, rfl, fun h tag q e hq hp ha ho hr ht hw => ?_⟩
  · rw [State.furrow_setFurrow_same, Furrow.settleAll_grn]
    rfl
  · rw [State.furrow_setFurrow_same, Furrow.settleAll_grn]
    rfl
  · rw [State.furrow_setFurrow_same, Furrow.settleAll_grn, ← journal, ← records]
    rfl
  · unfold State.descriptorEnded
    rw [State.furrow_setFurrow_same]
    refine Furrow.settleAll_settled ⟨⟨q, hq, hp, ha⟩, ?_⟩
    have noWrites : ((g.writes.filter fun w => match w.stage with | .recorded q => decide (last.seq < q) | _ => true).any fun w =>
        w.h = h && w.tag = tag) = false := by
      rw [writes, List.any_eq_false]
      intro w hmem named
      obtain ⟨hin, kept⟩ := List.mem_filter.1 hmem
      simp only [Bool.and_eq_true, decide_eq_true_eq] at named
      obtain ⟨k, recorded, le⟩ := hw w hin named.1 named.2
      rw [recorded] at kept
      exact absurd (of_decide_eq_true kept) (BitVec.not_lt.2 le)
    have found : ({ s.furrow f with grn := g }.modGrn (Granary.durableTo last)).request? h tag = some q := hq
    have noReads : (g.reads.any fun x => x.h = h && x.tag = tag) = false := by rw [reads]; exact hr
    unfold Furrow.transfers
    rw [found]
    simp only [Bool.or_eq_false_iff]
    exact ⟨⟨⟨noWrites, noReads⟩, ht⟩, decide_eq_false (by rw [ho]; exact fun h => h rfl)⟩

end

end Sys2Proof.Machine
end

section
namespace Sys2Proof.Machine

variable {s₀ : State}

/-! ### A slot read that comes back (R344) -/

/-- The headland, the fuses and the slot reads of a furrow. -/
def State.reading (f : FurrowIx) (t : State) : Headland × Vector Fuses 8 × List GrnRead := (t.hdl, t.fuses, (t.furrow f).grn.reads)

section
variable {f : FurrowIx}

theorem Run.modFur_reading (r : Run s₀) {g : Furrow → Furrow} (hg : ∀ c, (g c).grn.reads = c.grn.reads) :
    (r.modFur f g).now.reading f = r.now.reading f := by
  simp only [State.reading, Run.modFur_now, State.setFurrow_hdl, State.setFurrow_fuses, State.furrow_setFurrow_same, hg]

theorem State.workedOver.reading {s t : State} (st : s.workedOver f t) : t.reading f = s.reading f := by
  obtain ⟨⟨-, hdl, fuses, -⟩, besides⟩ := st
  have reads : (t.furrow f).grn.reads = (s.furrow f).grn.reads := congrArg (fun c => c.grn.reads) besides
  simp only [State.reading, hdl, fuses, reads]

theorem Furrow.transact_reads (c : Furrow) (h : Handle) (tag : Tag) (kind : Byte) (p : Spot) (n : Nat) (payload : List Byte) (dst : Spot) :
    (c.transact f h tag kind p n payload dst).grn.reads = c.grn.reads :=
  Furrow.route_keeps (view := fun c => c.grn.reads) (fun _ _ => rfl) _ f _

theorem Run.arrive_reading (r : Run s₀) (h : Handle) (tag : Tag) (dst : Spot) (n : Nat) (cells : List Host.Cell) :
    (r.arrive f h tag dst n cells).now.reading f = r.now.reading f := by
  have put := fun tier => (r.put_workedOver f h dst.core tier dst.off n cells).reading
  unfold Run.arrive
  split
  · exact foldl_keeps (fun r : Run s₀ => r.now.reading f) _ (fun r p => r.modFur_reading fun c => c.transact_reads h tag _ _ _ _ dst) _ r
  · exact r.modFur_reading fun c => foldl_keeps (fun c : Furrow => c.grn.reads) _ (by intro c i; rfl) _ c
  · split
    · rfl
    · rfl
  · split
    · exact put 0
    · rfl
  · split
    · exact put dst.tier
    · exact (r.storeCells_workedOver f h dst.core dst.tier dst.off n cells).reading

theorem Furrow.grantOne_reads {c c' : Furrow} {w w' : GrnWrite} {waited : Bool} (hg : c.grantOne w waited = some (c', w')) :
    c'.grn.reads = c.grn.reads := by
  unfold Furrow.grantOne at hg
  split at hg
  next => cases hg
  next n hn =>
    split at hg
    next => cases hg
    next g psa ha =>
      obtain ⟨rfl, -⟩ := Prod.mk.inj (Option.some.inj hg)
      have appended := Granary.append_view (view := Granary.reads) (fun _ _ _ _ _ => rfl) (fun _ _ => rfl) ha
      split
      · exact appended
      · exact appended

theorem Furrow.advance_reads (c : Furrow) (h : Handle) (tag : Tag) : (c.advance h tag).grn.reads = c.grn.reads := by
  refine (congrArg Granary.reads (Furrow.settleAwait_other _ h tag).1).trans ?_
  unfold Furrow.grantAll
  dsimp only
  split
  · rfl
  · split
    · refine foldl_keeps (fun c : Furrow => c.grn.reads) _ (fun c p => ?_) _ c
      split
      · split
        next hg =>
          have granted := Furrow.grantOne_reads hg
          exact granted
        next => rfl
      · rfl
    · rfl

/-- A read of the Granary taken off the list. -/
def Furrow.readBack (c : Furrow) (x : GrnRead) (rest : List GrnRead) : Furrow := c.modGrn fun g => { g.noteRead x.psa with reads := rest }

theorem nandReadDone_first {s : State} {x : GrnRead} {rest : List GrnRead} (hx : (s.furrow f).grn.reads = x :: rest)
    (hr : (s.furrow f).slotReads x.psa = true) :
    ∃ t, exec (.nandReadDone f .first) s = .next t ∧ (t.furrow f).grn.reads = rest ∧ t.hdl = s.hdl ∧ t.fuses = s.fuses := by
  generalize hr1 : (Run.start s).modFur f (fun c => c.readBack x rest) = r1
  have back : r1.now.furrow f = (s.furrow f).readBack x rest := by rw [← hr1, Run.modFur_now, State.furrow_setFurrow_same]; rfl
  have reads : (r1.fur f).slotReads x.psa = true := by rw [Run.fur_eq, back]; exact hr
  have next : exec (.nandReadDone f .first) s =
      .next ((r1.arrive f x.h x.tag x.dst x.len (x.wanted ((r1.fur f).psaData x.psa))).modFur f fun c => c.advance x.h x.tag).now := by
    show execNandReadDone f .first s = _
    unfold execNandReadDone
    simp only [hx]
    rw [show (Run.start s).modFur f (fun c => c.modGrn fun g => { g.noteRead x.psa with reads := rest }) = r1 from hr1]
    simp only [reads, Bool.true_or, if_true]
    rfl
  have same : ((r1.arrive f x.h x.tag x.dst x.len (x.wanted ((r1.fur f).psaData x.psa))).modFur f fun c => c.advance x.h x.tag).now.reading f =
      (s.hdl, s.fuses, rest) := by
    rw [Run.modFur_reading _ fun c => c.advance_reads x.h x.tag, Run.arrive_reading, State.reading, back, ← hr1]
    rfl
  obtain ⟨hdl, same⟩ := Prod.mk.inj same
  obtain ⟨fuses, left⟩ := Prod.mk.inj same
  exact ⟨_, next, left, hdl, fuses⟩

theorem execNandReadDone_none {s : State} (hx : (s.furrow f).grn.reads = []) (x : ReadQuality) : exec (.nandReadDone f x) s = .next s := by
  show execNandReadDone f x s = _
  unfold execNandReadDone
  simp only [hx]
  rfl

end

/-! ### Reclamation (R345–R347, R358) -/

/-- Whether reclamation runs on each channel. -/
def Granary.reclaiming (g : Granary) : Vector Bool 2 × Vector Bool 2 := (g.fg, g.bg)

theorem Granary.reclaiming_besideSteps : BesideSteps Granary.reclaiming := fun _ _ _ _ _ => rfl

theorem Furrow.moveTable_reclaiming (c : Furrow) (psa : Nat) : (c.moveTable psa).grn.reclaiming = c.grn.reclaiming := by
  unfold Furrow.moveTable
  split
  next x hx =>
    obtain ⟨g, put, books⟩ := c.putRoot_books { x with seq := c.grn.nand.nextRoot, table := BitVec.ofNat 64 (mapEntry psa) }
    have kept : g.books.reclaiming = (c.grn.withRoot { x with seq := c.grn.nand.nextRoot, table := BitVec.ofNat 64 (mapEntry psa) }).books.reclaiming :=
      congrArg Granary.reclaiming books
    rw [put]
    exact kept
  next => rfl

theorem Run.gcCommit_reclaiming (r : Run s₀) (f : FurrowIx) (j : GcJob) : r.now.grnKept Granary.reclaiming f (r.gcCommit f j).now := by
  unfold Run.gcCommit
  refine State.grnKept_trans (Run.each_grnKept (fun r x => ?_) _ r) (Run.modGrn_grnKept _ fun _ => rfl)
  split
  · split
    · split
      · exact Run.mapStep_grnKept Granary.reclaiming_besideSteps r _ _ _
      · exact r.now.grnKept_refl
    · split
      · exact Run.modFur_grnKept r (Furrow.moveTable_reclaiming _ _)
      · exact r.now.grnKept_refl
  · exact r.now.grnKept_refl

theorem Furrow.gcCopy_reclaiming (c : Furrow) (n : Fin 2) (psa : Nat) : (c.gcCopy n psa).grn.reclaiming = c.grn.reclaiming := by
  unfold Furrow.gcCopy
  split
  · rfl
  · split
    next => rfl
    next g copy ha =>
      have appended := Granary.append_view (view := Granary.reclaiming) (fun _ _ _ _ _ => rfl) (fun _ _ => rfl) ha
      exact appended

theorem Run.gcBegin_reclaiming (r : Run s₀) (f : FurrowIx) (n : Fin 2) : r.now.grnKept Granary.reclaiming f (r.gcBegin f n).now := by
  have copies (r : Run s₀) (j : GcJob) : r.now.grnKept Granary.reclaiming f
      ((r.each (j.scan.filter fun x => x.2.2.isNone) fun r x => r.modFur f fun c => c.gcCopy n x.2.1).gcCommits f).now :=
    State.grnKept_trans (Run.each_grnKept (fun r x => Run.modFur_grnKept r (Furrow.gcCopy_reclaiming _ n _)) _ r)
      (Run.each_grnKept (fun r j => r.gcCommit_reclaiming f j) _ _)
  unfold Run.gcBegin
  dsimp only
  split
  · refine State.grnKept_trans ?_ (copies _ _)
    split
    · exact Run.modGrn_grnKept r fun _ => rfl
    · exact r.now.grnKept_refl
  · split
    · exact Run.modGrn_grnKept r fun _ => rfl
    · exact r.now.grnKept_refl

end Sys2Proof.Machine
end

section
namespace Sys2Proof.Machine

section
variable {f : FurrowIx} {n : Fin 2} {s : State}

/-! ### Reclamation begins (R346, R358) -/

theorem execGcBackgroundStart_begins (hu : (s.furrow f).grn.usable = true) (hm : (s.furrow f).grn.mounted[n] = true)
    (hc : (s.furrow f).channelUp n.val = true)
    (hw : (s.furrow f).grn.freeSbs n < (s.furrow f).grn.bgFree.toNat ∨ (s.furrow f).grn.hasUrgent n = true)
    (hi : (s.furrow f).grn.idleUs.toNat * 1000 ≤ elapsed (s.furrow f).ns (s.furrow f).grn.lastIssue[n]) :
    exec (.gcBackgroundStart f n) s =
      .next (((Run.start s).modFur f fun c => c.modGrn fun g => { g with bg := g.bg.set n true }).gcBegin f n).now := by
  refine congrArg Run.done (if_pos ?_)
  simp only [Bool.and_eq_true, Bool.or_eq_true, decide_eq_true_eq]
  exact ⟨⟨⟨⟨hu, hm⟩, hc⟩, hw⟩, hi⟩

theorem execGcBackgroundStart_waits
    (h : elapsed (s.furrow f).ns (s.furrow f).grn.lastIssue[n] < (s.furrow f).grn.idleUs.toNat * 1000 ∨
      (s.furrow f).grn.bgFree.toNat ≤ (s.furrow f).grn.freeSbs n ∧ (s.furrow f).grn.hasUrgent n = false ∨ (s.furrow f).grn.usable = false) :
    exec (.gcBackgroundStart f n) s = .next s := by
  refine congrArg Run.done (if_neg ?_)
  simp only [Bool.and_eq_true, Bool.or_eq_true, decide_eq_true_eq]
  rintro ⟨⟨⟨⟨hu, -⟩, -⟩, hw⟩, hi⟩
  rcases h with early | ⟨plenty, calm⟩ | off
  · exact Nat.lt_irrefl _ (Nat.lt_of_lt_of_le early hi)
  · rcases hw with below | urgent
    · exact Nat.lt_irrefl _ (Nat.lt_of_lt_of_le below plenty)
    · exact Bool.false_ne_true (calm.symm.trans urgent)
  · exact Bool.false_ne_true (off.symm.trans hu)

theorem Furrow.needsFg_iff (c : Furrow) (n : Fin 2) :
    c.needsFg n = true ↔ c.grn.freeSbs n < c.grn.fgFree.toNat ∨ c.starved = true ∨ c.grn.wantsReclaim n = true := by
  simp only [Furrow.needsFg, Bool.or_eq_true, decide_eq_true_eq, or_assoc]

theorem execGcForegroundStart_begins (hu : (s.furrow f).grn.usable = true) (hm : (s.furrow f).grn.mounted[n] = true)
    (hc : (s.furrow f).channelUp n.val = true) (hw : (s.furrow f).needsFg n = true) :
    exec (.gcForegroundStart f n) s =
      .next (((Run.start s).modFur f fun c => c.modGrn fun g => { g with fg := g.fg.set n true }).gcBegin f n).now := by
  refine congrArg Run.done (if_pos ?_)
  simp only [Bool.and_eq_true]
  exact ⟨⟨⟨hu, hm⟩, hc⟩, hw⟩

theorem execGcForegroundStart_waits
    (h : (s.furrow f).grn.fgFree.toNat ≤ (s.furrow f).grn.freeSbs n ∧ (s.furrow f).starved = false ∧ (s.furrow f).grn.wantsReclaim n = false ∨
      (s.furrow f).grn.usable = false) :
    exec (.gcForegroundStart f n) s = .next s := by
  refine congrArg Run.done (if_neg ?_)
  simp only [Bool.and_eq_true, Furrow.needsFg_iff]
  rintro ⟨⟨⟨hu, -⟩, -⟩, hw⟩
  rcases h with ⟨plenty, fed, idle⟩ | off
  · rcases hw with below | starved | wants
    · exact Nat.lt_irrefl _ (Nat.lt_of_lt_of_le below plenty)
    · exact Bool.false_ne_true (fed.symm.trans starved)
    · exact Bool.false_ne_true (idle.symm.trans wants)
  · exact Bool.false_ne_true (off.symm.trans hu)

/-! ### The victim's erase (R347) -/

/-- A Granary in which the erase of a channel's victim has begun. -/
def Granary.erasing (g : Granary) (n : Fin 2) (j : GcJob) : Granary :=
  { g with
    gc := g.gc.map fun (k : GcJob) => if k.ch = n then { k with stage := .erasing } else k
    nand := { g.nand with slots := g.nand.slots.filter fun p =>
      !(psaCh p.1 = n.val && psaBlock p.1 = j.sb && p.2.kind ≠ SlotKind.root) } }

theorem Granary.mem_erasing_slots (g : Granary) (n : Fin 2) (j : GcJob) (p : Nat × NandSlot) :
    p ∈ (g.erasing n j).nand.slots ↔ p ∈ g.nand.slots ∧ ¬(psaCh p.1 = n.val ∧ psaBlock p.1 = j.sb ∧ p.2.kind ≠ SlotKind.root) := by
  simp only [Granary.erasing, List.mem_filter, Bool.not_eq_true', ← Bool.not_eq_true, Bool.and_eq_true, decide_eq_true_eq, and_assoc]

theorem Granary.erasing_stage (g : Granary) (n : Fin 2) (j : GcJob) {k : GcJob} (hk : k ∈ (g.erasing n j).gc) (hn : k.ch = n) :
    k.stage = .erasing := by
  obtain ⟨i, -, rfl⟩ := List.mem_map.1 hk
  split at hn
  next hi => rw [if_pos hi]
  next hi => exact absurd hn hi

theorem execGcErase_erases {j : GcJob} {e : W64} (hj : ((s.furrow f).grn.gc.find? fun (j : GcJob) => j.ch = n) = some j)
    (he : j.stage = .committed e) (hd : e ≤ (s.furrow f).grn.durableSeq)
    (hr : ((s.furrow f).grn.reads.any fun x => psaCh x.psa = n.val && psaBlock x.psa = j.sb) = false) :
    exec (.gcErase f n) s = .next (s.setFurrow f ((s.furrow f).modGrn fun g => g.erasing n j)) := by
  show execGcErase f n s = _
  unfold execGcErase
  simp only [hj, he]
  refine congrArg Run.done (if_pos ⟨hd, ?_⟩)
  rw [hr]
  rfl

theorem execGcErase_early {j : GcJob} {e : W64} (hj : ((s.furrow f).grn.gc.find? fun (j : GcJob) => j.ch = n) = some j)
    (he : j.stage = .committed e) (hd : (s.furrow f).grn.durableSeq < e) : exec (.gcErase f n) s = .next s := by
  show execGcErase f n s = _
  unfold execGcErase
  simp only [hj, he]
  exact congrArg Run.done (if_neg fun h => BitVec.not_lt.2 h.1 hd)

theorem execGcErase_none (hg : (s.furrow f).grn.gc = []) : exec (.gcErase f n) s = .next s := by
  show execGcErase f n s = _
  unfold execGcErase
  simp only [hg, List.find?_nil]
  rfl

theorem gcErase_erases {j : GcJob} {e : W64} (hj : ((s.furrow f).grn.gc.find? fun (j : GcJob) => j.ch = n) = some j)
    (he : j.stage = .committed e) (hd : e ≤ (s.furrow f).grn.durableSeq)
    (hr : ((s.furrow f).grn.reads.any fun x => psaCh x.psa = n.val && psaBlock x.psa = j.sb) = false) :
    ∃ t, exec (.gcErase f n) s = .next t ∧ s.onlyFurrow f t ∧ t.mems = s.mems ∧
      (∀ p, p ∈ (t.furrow f).grn.nand.slots ↔
        p ∈ (s.furrow f).grn.nand.slots ∧ ¬(psaCh p.1 = n.val ∧ psaBlock p.1 = j.sb ∧ p.2.kind ≠ SlotKind.root)) ∧
      ∀ k, k ∈ (t.furrow f).grn.gc → k.ch = n → k.stage = .erasing := by
  refine ⟨_, execGcErase_erases hj he hd hr, s.onlyFurrow_setFurrow f _, rfl, ?_⟩
  rw [State.furrow_setFurrow_same]
  exact ⟨(s.furrow f).grn.mem_erasing_slots n j, fun k => (s.furrow f).grn.erasing_stage n j⟩

/-! ### A superblock erased (R347, R348) -/

/-- The superblocks that remain after an erase of one are free where they are that one. -/
theorem Furrow.eraseSb_free (c : Furrow) (n : Fin 2) (b : Superblock) {x : Superblock} (hx : x ∈ (c.eraseSb n b).grn.sbs) (hn : x.ch = n)
    (hb : x.num = b.num) : x.state = .free := by
  unfold Furrow.eraseSb at hx
  obtain ⟨mem, -⟩ := List.mem_filter.1 hx
  obtain ⟨y, -, rfl⟩ := List.mem_map.1 mem
  split at hn
  next hy => rw [if_pos hy]
  next hy =>
    rw [if_neg hy] at hb
    exact absurd ⟨hn, hb⟩ hy

/-- A furrow whose victim is erased, before its reclamation goes on. -/
def Furrow.victimErased (c : Furrow) (n : Fin 2) (j : GcJob) : Furrow :=
  (Furrow.modGrn (match c.grn.sb? n j.sb with | some b => c.eraseSb n b | none => c) fun g =>
    { g with
      gc := g.gc.filter fun k => k.ch ≠ n
      reclaim := match g.reclaim with
        | some (h, t, ch, target, lim, k) => some (h, t, ch, target, lim, if ch.getLsbD n.val then k + 1 else k)
        | none => none }).gcStops n

theorem Furrow.victimErased_gc (c : Furrow) (n : Fin 2) (j : GcJob) {k : GcJob} (hk : k ∈ (c.victimErased n j).grn.gc) : k.ch ≠ n := by
  obtain ⟨-, other⟩ := List.mem_filter.1 hk
  exact of_decide_eq_true other

theorem Furrow.victimErased_free (c : Furrow) (n : Fin 2) (j : GcJob) {x : Superblock} (hx : x ∈ (c.victimErased n j).grn.sbs) (hn : x.ch = n)
    (hj : x.num = j.sb) : x.state = .free := by
  replace hx : x ∈ Granary.sbs (Furrow.grn (match c.grn.sb? n j.sb with | some b => c.eraseSb n b | none => c)) := hx
  split at hx
  next b hb =>
    have named := List.find?_some hb
    simp only [Bool.and_eq_true, decide_eq_true_eq] at named
    exact c.eraseSb_free n b hx hn (hj.trans named.2.symm)
  next hb =>
    have named := List.find?_eq_none.1 hb x hx
    simp only [Bool.and_eq_true, decide_eq_true_eq] at named
    exact absurd ⟨hn, hj⟩ named

theorem Run.eq_of_now {s₀ : State} {r r' : Run s₀} (h : r.now = r'.now) : r = r' := by
  obtain ⟨now, reached⟩ := r
  obtain ⟨now', reached'⟩ := r'
  obtain rfl : now = now' := h
  rfl

theorem execNandEraseDone_erased {j : GcJob}
    (hj : (s.furrow f).grn.gc.find? (fun (j : GcJob) => j.ch = n && j.stage = GcStage.erasing) = some j) :
    let r := ((Run.start s).modFur f fun c => c.victimErased n j).weighHealth f
    exec (.nandEraseDone f n none) s = (if (r.fur f).grn.fg[n] || (r.fur f).grn.bg[n] then r.gcBegin f n else r).done := by
  have same : (Run.start s).modFur f (fun c => c.eraseFailed n none) = Run.start s :=
    Run.eq_of_now (by rw [Run.modFur_now]; exact s.setFurrow_self f)
  have grn : ((Run.start s).fur f).grn = (s.furrow f).grn := rfl
  show execNandEraseDone f n none s = _
  unfold execNandEraseDone
  rw [same]
  simp only [grn, hj]
  rfl

theorem nandEraseDone_frees {j : GcJob}
    (hj : (s.furrow f).grn.gc.find? (fun (j : GcJob) => j.ch = n && j.stage = GcStage.erasing) = some j) :
    ∃ t, exec (.nandEraseDone f n none) s = .next t ∧ t.host = s.host ∧
      ((t.furrow f).grn.fg[n] = false → (t.furrow f).grn.bg[n] = false → (∀ k, k ∈ (t.furrow f).grn.gc → k.ch ≠ n) ∧
        ∀ b, b ∈ (t.furrow f).grn.sbs → b.ch = n → b.num = j.sb → b.state = .free) := by
  have erased := execNandEraseDone_erased hj
  have host := (((Run.start s).modFur f fun c => c.victimErased n j).weighHealth_keeps f).1
  obtain ⟨grn, -⟩ := ((Run.start s).modFur f fun c => c.victimErased n j).weighHealth_grn f
  rw [Run.modFur_now, State.furrow_setFurrow_same] at grn
  generalize ((Run.start s).modFur f fun c => c.victimErased n j).weighHealth f = r at erased host grn
  by_cases on : (r.now.furrow f).grn.fg[n] = true ∨ (r.now.furrow f).grn.bg[n] = true
  case pos =>
    obtain ⟨⟨only, -⟩, same⟩ := r.gcBegin_reclaiming f n
    obtain ⟨fg, bg⟩ := Prod.mk.inj same
    refine ⟨_, erased.trans (congrArg Run.done (if_pos (Bool.or_eq_true _ _ ▸ on))), only.trans host, fun nofg nobg => ?_⟩
    rw [fg] at nofg
    rw [bg] at nobg
    rw [nofg, nobg] at on
    simp at on
  case neg =>
    refine ⟨_, erased.trans (congrArg Run.done (if_neg (Bool.or_eq_true _ _ ▸ on))), host, fun _ _ => ?_⟩
    rw [grn]
    exact ⟨fun k => (s.furrow f).victimErased_gc n j, fun b => (s.furrow f).victimErased_free n j⟩

end

/-- Settles O38: each clause is one lemma about its command. Where the Granary's own slots lie (assumption log 44), and that the slots
of a failed program are appended again and its superblock becomes a victim (log 45), are the model's choice. -/
theorem granaryWritesAndReclaims : Obligations.GranaryWritesAndReclaims := by
  refine ⟨fun f n s => ⟨?_, ?_, ?_, ?_, ?_, ?_⟩, fun f n s => ⟨fun hu hm hc => ⟨?_, ?_⟩, ?_, ?_, fun j e hj he => ⟨?_, ?_⟩, ?_, ?_⟩⟩
  · exact fun t ht hp hf hn => execStripeCloseTimeout_closes ht hp hf hn
  · exact fun hs => execStripe_none hs true
  · exact fun t b ht hb hg ok => nandProgramDone_counts ht hb hg ok
  · exact fun last hl => journalDurable_ends hl
  · exact execNandReadDone_none
  · exact fun x rest hx hr => nandReadDone_first hx hr
  · exact fun hw hi => execGcBackgroundStart_begins hu hm hc hw hi
  · exact fun hw => execGcForegroundStart_begins hu hm hc ((Furrow.needsFg_iff _ n).2 hw)
  · exact execGcBackgroundStart_waits
  · exact execGcForegroundStart_waits
  · exact gcErase_erases hj he
  · exact execGcErase_early hj he
  · exact execGcErase_none
  · exact fun j hj => nandEraseDone_frees hj

end Sys2Proof.Machine
end

section
namespace Sys2Proof.Machine

/-! ### What sending leaves of a port (R363, R364) -/

/-- A port less what it changes to send: what waits, what is sent, and the credits spent. -/
def Port.still (t : Port) : Port :=
  { t with queue := [], credits := Vector.replicate 8 0, unacked := [], txSeq := 0, waitSince := Vector.replicate 4 none }

theorem Port.offer_still (t : Port) (p : Packet) : (t.offer p).still = t.still := by
  unfold Port.offer
  dsimp only
  split <;> rfl

theorem Port.pump_still (t : Port) (ns : W64) : (t.pump ns).still = t.still :=
  show (t.queue.foldl Port.offer { t with queue := [] }).still = t.still from
    foldl_keeps Port.still Port.offer Port.offer_still t.queue { t with queue := [] }

theorem Port.state_of_still {t u : Port} (h : u.still = t.still) : u.state = t.state := by
  have state := congrArg Port.state h
  exact state

theorem Port.rxSeq_of_still {t u : Port} (h : u.still = t.still) : u.rxSeq = t.rxSeq := by
  have rxSeq := congrArg Port.rxSeq h
  exact rxSeq

theorem Port.live_of_still {t u : Port} (h : u.still = t.still) : u.live = t.live := by
  rw [Port.live, Port.live, Port.state_of_still h]

theorem Furrow.modPort_port_same (c : Furrow) (p : PortIx) (g : Port → Port) : (c.modPort p g).pyr.ports[p] = g c.pyr.ports[p] :=
  Vector.getElem_set_self _

theorem Furrow.modPort_port_other (c : Furrow) {p i : PortIx} (hi : i ≠ p) (g : Port → Port) :
    (c.modPort p g).pyr.ports[i] = c.pyr.ports[i] :=
  Vector.getElem_set_ne p.isLt i.isLt fun h => hi (Fin.ext h.symm)

/-- A change of one port that keeps a view of it keeps the view of every port. -/
theorem Furrow.modPort_view {γ : Type} {view : Port → γ} (c : Furrow) (p i : PortIx) {g : Port → Port} (hg : ∀ t, view (g t) = view t) :
    view (c.modPort p g).pyr.ports[i] = view c.pyr.ports[i] := by
  by_cases hi : i = p
  · subst hi
    rw [Furrow.modPort_port_same, hg]
  · rw [Furrow.modPort_port_other c hi]

theorem Furrow.sendOn_still (c : Furrow) (port i : PortIx) (p : Packet) : (c.sendOn port p).pyr.ports[i].still = c.pyr.ports[i].still :=
  c.modPort_view port i fun _ => Port.pump_still _ _

theorem Furrow.route_still (c : Furrow) (f : FurrowIx) (p : Packet) (i : PortIx) : (c.route f p).pyr.ports[i].still = c.pyr.ports[i].still := by
  unfold Furrow.route
  dsimp only
  split
  · rfl
  · split
    · exact c.sendOn_still _ i _
    · split
      · rfl
      · split
        · rfl
        · split
          · exact c.sendOn_still _ i _
          · rfl

theorem Furrow.receive_still (c : Furrow) (f : FurrowIx) (p : Packet) (i : PortIx) :
    (c.receive f p).pyr.ports[i].still = c.pyr.ports[i].still := by
  unfold Furrow.receive
  split
  · rfl
  · split
    · split
      · rfl
      · exact c.route_still f _ i
    · exact c.route_still f _ i

/-! ### Flits (R363) -/

theorem Port.acked_rxSeq (t : Port) (ack : W16) : (t.acked ack).rxSeq = t.rxSeq := by
  unfold Port.acked
  split <;> rfl

theorem Port.credit_rxSeq (t : Port) (v : Fin 4) (n : W16) (pick : Nat) : (t.credit v n pick).rxSeq = t.rxSeq := by
  unfold Port.credit
  dsimp only
  split <;> rfl

/-- A port that has had a flit whose CHECK passes: its acknowledgement and its credits count, and it sends what it now can. -/
def Port.heard (t : Port) (ack : W16) (v : Fin 4) (n : W16) (pick : Nat) (ns : W64) : Port :=
  Port.pump (({ t with lastFlit := ns }.acked ack).credit v n pick) ns

theorem Port.heard_rxSeq (t : Port) (ack : W16) (v : Fin 4) (n : W16) (pick : Nat) (ns : W64) :
    (t.heard ack v n pick ns).rxSeq = t.rxSeq :=
  (Port.rxSeq_of_still (Port.pump_still _ ns)).trans ((Port.credit_rxSeq _ v n pick).trans (Port.acked_rxSeq _ ack))

theorem Furrow.acceptFlit_rxSeq (c : Furrow) (f : FurrowIx) (p : PortIx) (v : Fin 4) (bs : List Byte) :
    (c.acceptFlit f p v bs).pyr.ports[p].rxSeq = c.pyr.ports[p].rxSeq + 1 := by
  unfold Furrow.acceptFlit
  dsimp only
  generalize takePackets 256 (c.pyr.ports[p].partRx[v] ++ bs) = x
  refine (Port.rxSeq_of_still (foldl_keeps (fun c : Furrow => c.pyr.ports[p].still) _ (fun c q => c.receive_still f q p) _ _)).trans ?_
  rw [Furrow.modPort_port_same]

/-- The kind of a flit's bytes: 0 is data, 2 a NAK. -/
def flitKind (bs : List Byte) : Nat := bitsOf (bs.getD 4 0).toNat 3 2

/-- A furrow that has had a flit whose CHECK passes. -/
def Furrow.flitHeard (c : Furrow) (p : PortIx) (bs : List Byte) (pick : Nat) : Furrow :=
  c.modPort p fun t => t.heard (BitVec.ofNat 16 (fieldAt bs 2 2)) (Fin.ofNat 4 (bitsOf (bs.getD 4 0).toNat 5 4))
    (BitVec.ofNat 16 (fieldAt bs 6 2)) pick c.ns

/-- What a furrow makes of a flit by its kind. -/
def Furrow.flitTaken (c : Furrow) (f : FurrowIx) (p : PortIx) (bs : List Byte) : Furrow :=
  match flitKind bs with
  | 2 => c.modPort p fun t => t.replay (BitVec.ofNat 16 (fieldAt bs 2 2))
  | 0 => if BitVec.ofNat 16 (fieldAt bs 0 2) = c.pyr.ports[p].rxSeq then
      c.acceptFlit f p (Fin.ofNat 4 (bs.getD 4 0).toNat) (bytesAt bs 8 244) else c.modPort p Port.refuse
  | _ => c

theorem Furrow.flitHeard_keeps (c : Furrow) (p : PortIx) (bs : List Byte) (pick : Nat) :
    (c.flitHeard p bs pick).pyr.ports[p].rxSeq = c.pyr.ports[p].rxSeq ∧ (c.flitHeard p bs pick).pyr.inbox = c.pyr.inbox :=
  ⟨c.modPort_view p p fun t => t.heard_rxSeq _ _ _ _ _, rfl⟩

/-- A flit of another kind than data delivers nothing. -/
theorem Furrow.flitTaken_other (c : Furrow) (f : FurrowIx) (p : PortIx) {bs : List Byte} (hk : flitKind bs ≠ 0) :
    (c.flitTaken f p bs).pyr.ports[p].rxSeq = c.pyr.ports[p].rxSeq ∧ (c.flitTaken f p bs).pyr.inbox = c.pyr.inbox := by
  unfold Furrow.flitTaken
  split
  · exact ⟨c.modPort_view p p fun t => Port.acked_rxSeq t _, rfl⟩
  next h => exact absurd h hk
  · exact ⟨rfl, rfl⟩

theorem Furrow.flitTaken_inOrder (c : Furrow) (f : FurrowIx) (p : PortIx) {bs : List Byte} (hk : flitKind bs = 0)
    (hs : BitVec.ofNat 16 (fieldAt bs 0 2) = c.pyr.ports[p].rxSeq) :
    (c.flitTaken f p bs).pyr.ports[p].rxSeq = c.pyr.ports[p].rxSeq + 1 := by
  unfold Furrow.flitTaken
  rw [hk]
  exact (congrArg (fun d : Furrow => d.pyr.ports[p].rxSeq) (if_pos hs)).trans (c.acceptFlit_rxSeq f p _ _)

theorem Furrow.flitTaken_outOfOrder (c : Furrow) (f : FurrowIx) (p : PortIx) {bs : List Byte} (hk : flitKind bs = 0)
    (hs : BitVec.ofNat 16 (fieldAt bs 0 2) ≠ c.pyr.ports[p].rxSeq) : c.flitTaken f p bs = c.modPort p Port.refuse := by
  unfold Furrow.flitTaken
  rw [hk]
  exact if_neg hs

section
variable {f : FurrowIx} {p : PortIx} {s : State} {flit bs : List Byte} (hb : bytesAt flit 0 256 = bs)
  (hl : (s.furrow f).pyr.ports[p].live = true)
include hb hl

theorem execFlitReceive_broken (hc : fieldAt bs 252 4 ≠ crc32c (bs.take 252)) :
    exec (.flitReceive f p flit) s = (if flitKind bs = 0 then
      (Run.start s).modFur f fun c => c.modPort p fun t => { t.refuse with crcFail := sat t.crcFail 1 } else Run.start s).done := by
  subst hb
  exact congrArg Run.done ((if_neg (by rw [hl]; decide)).trans (if_pos hc))

theorem execFlitReceive_whole (hc : fieldAt bs 252 4 = crc32c (bs.take 252)) :
    exec (.flitReceive f p flit) s = .next (((Run.start s).free.2.modFur f fun c =>
      c.flitHeard p bs (Run.start s).free.1.toNat).modFur f fun c => c.flitTaken f p bs).now := by
  subst hb
  refine (congrArg Run.done ((if_neg (by rw [hl]; decide)).trans (if_neg (not_not_intro hc)))).trans (congrArg Host.Outcome.next ?_)
  unfold Furrow.flitTaken flitKind Furrow.flitHeard Port.heard
  dsimp only
  generalize (Run.start s).free.2.modFur f _ = r
  generalize bitsOf (BitVec.toNat ((bytesAt flit 0 256).getD 4 0)) 3 2 = kind
  match kind with
  | 0 => rfl
  | 1 => exact (r.now.setFurrow_self f).symm
  | 2 => rfl
  | _ + 3 => exact (r.now.setFurrow_self f).symm

/-- A flit whose CHECK passes changes its furrow alone, and draws a free value for the credits' classes. -/
theorem flitReceive_whole (hc : fieldAt bs 252 4 = crc32c (bs.take 252)) :
    ∃ pick t, exec (.flitReceive f p flit) s = .next t ∧ s.onlyFurrow f t ∧ t.mems = s.mems ∧
      t.furrow f = ((s.furrow f).flitHeard p bs pick).flitTaken f p bs := by
  refine ⟨(Run.start s).free.1.toNat, _, execFlitReceive_whole hb hl hc, ?_, rfl, ?_⟩
  · exact State.onlyFurrow_trans (State.onlyFurrow_setFurrow (Run.start s).free.2.now f _) (State.onlyFurrow_setFurrow _ f _)
  · rw [Run.modFur_now, State.furrow_setFurrow_same, Run.modFur_now, State.furrow_setFurrow_same]
    rfl

end

/-- Settles O42: the kinds of flits are told apart once, by `flitReceive_whole`. -/
theorem flitsAreTakenInOrder : Obligations.FlitsAreTakenInOrder := by
  intro f p flit ack s
  refine ⟨fun hl => ⟨congrArg Run.done (if_pos (by rw [hl]; rfl)), done_modFur_self (if_neg (by rw [hl]; decide))⟩, fun hl => ⟨fun hc => ⟨?_, ?_⟩, ?_, ?_, done_modFur (if_pos hl)⟩⟩
  · exact fun hk => (execFlitReceive_broken rfl hl hc).trans (congrArg Run.done (if_pos hk))
  · exact fun hk => (execFlitReceive_broken rfl hl hc).trans (congrArg Run.done (if_neg hk))
  · intro hc hk
    obtain ⟨pick, t, next, only, mems, got⟩ := flitReceive_whole rfl hl hc
    obtain ⟨rxSeq, inbox⟩ := (s.furrow f).flitHeard_keeps p (bytesAt flit 0 256) pick
    rw [← rxSeq]
    refine ⟨fun hs => ⟨t, next, only, mems, ?_⟩, fun hs => ⟨t, next, only, mems, ?_⟩⟩
    · rw [got]
      exact Furrow.flitTaken_inOrder _ f p hk hs
    · rw [got, Furrow.flitTaken_outOfOrder _ f p hk hs, Furrow.modPort_port_same]
      exact ⟨rfl, rfl, inbox⟩
  · intro hc hk
    obtain ⟨pick, t, next, only, mems, got⟩ := flitReceive_whole rfl hl hc
    obtain ⟨rxSeq, inbox⟩ := (s.furrow f).flitHeard_keeps p (bytesAt flit 0 256) pick
    obtain ⟨rxSeq', inbox'⟩ := ((s.furrow f).flitHeard p (bytesAt flit 0 256) pick).flitTaken_other f p hk
    rw [← got] at rxSeq' inbox'
    exact ⟨t, next, only, mems, rxSeq'.trans rxSeq, inbox'.trans inbox⟩

end Sys2Proof.Machine
end

section
namespace Sys2Proof.Machine

variable {s₀ : State}

/-! ### What a furrow's own affairs leave of the module -/

/-- From one state to another host memory, the furrows' memories and every other furrow stand. -/
def State.aside (s : State) (f : FurrowIx) (t : State) : Prop :=
  t.host = s.host ∧ t.mems = s.mems ∧ ∀ g : FurrowIx, g ≠ f → t.furrow g = s.furrow g

theorem State.aside_refl (s : State) (f : FurrowIx) : s.aside f s := ⟨rfl, rfl, fun _ _ => rfl⟩

theorem State.aside_trans {s t u : State} {f : FurrowIx} (st : s.aside f t) (tu : t.aside f u) : s.aside f u := by
  obtain ⟨host, mems, others⟩ := st
  obtain ⟨host', mems', others'⟩ := tu
  exact ⟨host'.trans host, mems'.trans mems, fun g hg => (others' g hg).trans (others g hg)⟩

theorem Run.modFur_aside (r : Run s₀) (f : FurrowIx) (g : Furrow → Furrow) : r.now.aside f (r.modFur f g).now :=
  ⟨rfl, rfl, fun _ hk => State.furrow_setFurrow_other r.now f _ _ hk⟩

theorem Run.weighHealth_aside (r : Run s₀) (f : FurrowIx) : r.now.aside f (r.weighHealth f).now := by
  unfold Run.weighHealth
  dsimp only
  split
  · exact r.now.aside_refl f
  · have recorded := r.modFur_aside f fun c => (c.keepHealth fun x => { x with reasons := (r.fur f).reasonsNow f }).raise
      (errRec 0x43 0 ((r.fur f).reasonsNow f).toNat) []
    split
    · exact recorded
    · exact recorded

/-- Steps that leave the rest of the module leave it all together. -/
theorem Run.each_aside {α : Type} {f : FurrowIx} {step : Run s₀ → α → Run s₀} (hs : ∀ (r : Run s₀) x, r.now.aside f (step r x).now) (xs : List α)
    (r : Run s₀) : r.now.aside f (r.each xs step).now :=
  List.foldlRecOn (motive := fun t : Run s₀ => r.now.aside f t.now) xs step (r.now.aside_refl f) fun t ht x _ => State.aside_trans ht (hs t x)

/-! ### Ports that leave (R369, R370, R434) -/

theorem Furrow.raise_pyr (c : Furrow) (e : ErrRec) (ends : List (Handle × Tag)) : (c.raise e ends).pyr = c.pyr := by
  obtain ⟨x, y, raised, -⟩ := c.raise_eq e ends
  rw [raised]

theorem Furrow.keepHealth_pyr (c : Furrow) (g : Health → Health) : (c.keepHealth g).pyr = c.pyr := by
  obtain ⟨a, b, kept⟩ := c.keepHealth_eq g
  rw [kept]

theorem Furrow.degrade_pyr (c : Furrow) : c.degrade.pyr = c.pyr := by
  unfold Furrow.degrade
  split <;> rfl

theorem Furrow.rollCounts_pyr (c : Furrow) : c.rollCounts.pyr = c.pyr := by
  unfold Furrow.rollCounts
  dsimp only
  split <;> rfl

theorem Run.weighHealth_pyr (r : Run s₀) (f : FurrowIx) : ((r.weighHealth f).now.furrow f).pyr = (r.now.furrow f).pyr :=
  Run.weighHealth_view (fun c _ => (Furrow.raise_pyr _ _ []).trans (c.keepHealth_pyr _)) r f

/-- A port out of use. -/
def Port.retired (t : Port) : Port := { t with state := .off, lanes := 0 }

theorem Furrow.retirePort_pyr (c : Furrow) (p : PortIx) : (c.retirePort p).pyr = (c.modPort p Port.retired).pyr := by
  unfold Furrow.retirePort
  rw [Furrow.degrade_pyr, Furrow.raise_pyr]
  unfold Furrow.modPort
  rw [Furrow.keepHealth_pyr]
  rfl

/-- What a count of a port's exits or failures leaves: the port may be retired. -/
theorem Run.countPort_pyr (r : Run s₀) (f : FurrowIx) (p : PortIx) (training : Bool) :
    r.now.aside f (r.countPort f p training).now ∧
      (((r.countPort f p training).now.furrow f).pyr = (r.now.furrow f).pyr ∨
        ((r.countPort f p training).now.furrow f).pyr = ((r.now.furrow f).modPort p Port.retired).pyr) := by
  let counts : ErrCounts → ErrCounts := fun x => if training then { x with portFails := x.portFails.set p (x.portFails[p] + 1) }
    else { x with portExits := x.portExits.set p (x.portExits[p] + 1) }
  have counted : r.now.aside f (r.modFur f fun c => c.rollCounts.modCounts counts).now ∧
      ((r.modFur f fun c => c.rollCounts.modCounts counts).now.furrow f).pyr = (r.now.furrow f).pyr := by
    refine ⟨r.modFur_aside f _, ?_⟩
    rw [Run.modFur_now, State.furrow_setFurrow_same]
    exact Furrow.rollCounts_pyr _
  obtain ⟨aside, pyr⟩ := counted
  unfold Run.countPort
  dsimp only
  generalize (r.modFur f fun c => c.rollCounts.modCounts counts) = u at aside pyr
  generalize (if training = true then (u.fur f).counts.portFails[p] else (u.fur f).counts.portExits[p]) = n
  split
  · refine ⟨State.aside_trans aside (State.aside_trans (u.modFur_aside f _) (Run.weighHealth_aside _ f)), .inr ?_⟩
    rw [Run.weighHealth_pyr, Run.modFur_now, State.furrow_setFurrow_same, Furrow.retirePort_pyr]
    exact congrArg (fun y : Poryar => { y with ports := y.ports.set p y.ports[p].retired }) pyr
  · exact ⟨aside, .inl pyr⟩

theorem Run.countPort_ports (r : Run s₀) (f : FurrowIx) (p : PortIx) (training : Bool) :
    (∀ i, i ≠ p → ((r.countPort f p training).now.furrow f).pyr.ports[i] = (r.now.furrow f).pyr.ports[i]) ∧
      (((r.countPort f p training).now.furrow f).pyr.ports[p] = (r.now.furrow f).pyr.ports[p] ∨
        ((r.countPort f p training).now.furrow f).pyr.ports[p] = (r.now.furrow f).pyr.ports[p].retired) := by
  obtain ⟨-, pyr⟩ := r.countPort_pyr f p training
  generalize ((r.countPort f p training).now.furrow f).pyr = y at pyr
  rcases pyr with rfl | rfl
  · exact ⟨fun _ _ => rfl, .inl rfl⟩
  · exact ⟨fun i hi => (r.now.furrow f).modPort_port_other hi _, .inr ((r.now.furrow f).modPort_port_same p _)⟩

/-- A port that has left UP or DEGRADED for a state, with a fence for its peer; what a furrow sends after it leaves this. -/
def Port.left (t : Port) (ns : W64) (st : PortState) : Port :=
  { t with
    state := st, lanes := 0, losSeen := t.losSeen || st = .dark, partRx := Vector.replicate 4 []
    fence := some (ns, t.peerId, (match t.fence with | some x => x.2.2 | none => []) ++ t.unacked), nakked := false, nakSent := false }

theorem Furrow.leaveUp_still (c : Furrow) (f : FurrowIx) (p i : PortIx) (st : PortState) :
    (c.leaveUp f p st).pyr.ports[i].still = if i = p then (c.pyr.ports[p].left c.ns st).still else c.pyr.ports[i].still := by
  unfold Furrow.leaveUp
  dsimp only
  rw [Furrow.route_still, Furrow.raise_pyr]
  by_cases hi : i = p
  · subst hi
    rw [if_pos rfl, Furrow.modPort_port_same]
    rfl
  · rw [if_neg hi, Furrow.modPort_port_other c hi]

/-- What a port that leaves for a state leaves of the furrow's ports and of the module. -/
theorem Run.portLeaves_ports (r : Run s₀) (f : FurrowIx) (p : PortIx) (st : PortState) (counted : Bool) {u : State}
    (hu : u = (r.portLeaves f p st counted).now) :
    r.now.aside f u ∧ (∀ i, i ≠ p → (u.furrow f).pyr.ports[i].still = (r.now.furrow f).pyr.ports[i].still) ∧
      ((u.furrow f).pyr.ports[p].still = ((r.now.furrow f).pyr.ports[p].left (r.now.furrow f).ns st).still ∨
        counted = true ∧ (u.furrow f).pyr.ports[p].still = ((r.now.furrow f).pyr.ports[p].left (r.now.furrow f).ns st).retired.still) := by
  subst hu
  have left : ∀ i, ((r.modFur f fun c => c.leaveUp f p st).now.furrow f).pyr.ports[i].still =
      if i = p then ((r.now.furrow f).pyr.ports[p].left (r.now.furrow f).ns st).still else (r.now.furrow f).pyr.ports[i].still := fun i => by
    rw [Run.modFur_now, State.furrow_setFurrow_same, Furrow.leaveUp_still]
  have aside := r.modFur_aside f fun c => c.leaveUp f p st
  unfold Run.portLeaves
  dsimp only
  generalize (r.modFur f fun c => c.leaveUp f p st) = u at left aside
  split
  next hc =>
    obtain ⟨others, own⟩ := u.countPort_ports f p false
    refine ⟨State.aside_trans aside (u.countPort_pyr f p false).1,
      fun i hi => (congrArg Port.still (others i hi)).trans ((left i).trans (if_neg hi)), ?_⟩
    have gone := (left p).trans (if_pos rfl)
    rcases own with own | own
    · exact .inl ((congrArg Port.still own).trans gone)
    · exact .inr ⟨(Bool.and_eq_true_iff.1 hc).1, (congrArg Port.still own).trans (congrArg Port.retired gone)⟩
  next =>
    refine ⟨aside, fun i hi => (left i).trans (if_neg hi), .inl ((left p).trans (if_pos rfl))⟩

theorem Run.portLeaves_gone (r : Run s₀) (f : FurrowIx) (p : PortIx) (st : PortState) (counted : Bool) {u : State}
    (hu : u = (r.portLeaves f p st counted).now) :
    r.now.aside f u ∧ ((u.furrow f).pyr.ports[p].state = st ∨ counted = true ∧ (u.furrow f).pyr.ports[p].state = .off) ∧
      (u.furrow f).pyr.ports[p].enable = (r.now.furrow f).pyr.ports[p].enable ∧
      (u.furrow f).pyr.ports[p].losSeen = ((r.now.furrow f).pyr.ports[p].losSeen || decide (st = .dark)) := by
  obtain ⟨aside, -, own⟩ := r.portLeaves_ports f p st counted hu
  generalize (u.furrow f).pyr.ports[p] = x at own
  rcases own with own | ⟨hc, own⟩
  · have enable := congrArg Port.enable own
    have losSeen := congrArg Port.losSeen own
    exact ⟨aside, .inl (Port.state_of_still own), enable, losSeen⟩
  · have enable := congrArg Port.enable own
    have losSeen := congrArg Port.losSeen own
    exact ⟨aside, .inr ⟨hc, Port.state_of_still own⟩, enable, losSeen⟩

/-- A live port that leaves for DARK is gone. -/
theorem Run.portLeaves_dark (r : Run s₀) (f : FurrowIx) (p : PortIx) (counted : Bool) {u : State}
    (hu : u = (r.portLeaves f p .dark counted).now) :
    ((u.furrow f).pyr.ports[p].state = .dark ∨ (u.furrow f).pyr.ports[p].state = .off) ∧ r.now.aside f u := by
  obtain ⟨aside, state, -⟩ := r.portLeaves_gone f p .dark counted hu
  exact ⟨state.imp_right And.right, aside⟩

end Sys2Proof.Machine
end

section
namespace Sys2Proof.Machine

variable {s₀ : State}

/-! ### Ports that train (R360, R369, R385) -/

/-- A port may train but for the furrow's and its own ENABLE: it is in service, and so are the furrows at its ends. -/
def State.canTrain (s : State) (f : FurrowIx) (p : PortIx) : Bool :=
  (s.furrow f).health.ports.getLsbD p.val && (s.furrow f).serves && (!isNeighbour p || (s.furrow (neighbourOf f p)).serves)

theorem State.mayTrain_eq (s : State) (f : FurrowIx) (p : PortIx) :
    s.mayTrain f p = ((s.furrow f).pyr.enabled && (s.furrow f).pyr.ports[p].enable && s.canTrain f p) := by
  simp only [State.mayTrain, State.canTrain, Bool.and_assoc]

/-- A change of a furrow's fabric block leaves which ports may train. -/
theorem State.canTrain_setFurrow (s : State) (f : FurrowIx) (p : PortIx) (y : Poryar) :
    (s.setFurrow f { s.furrow f with pyr := y }).canTrain f p = s.canTrain f p := by
  have serves (g : FurrowIx) : ((s.setFurrow f { s.furrow f with pyr := y }).furrow g).serves = (s.furrow g).serves := by
    by_cases hg : g = f
    · subst hg
      rw [State.furrow_setFurrow_same]
      rfl
    · rw [State.furrow_setFurrow_other _ _ _ _ hg]
  unfold State.canTrain
  rw [serves, serves, State.furrow_setFurrow_same]

/-- A port that tries to train. -/
def Port.tries (t : Port) (go : Bool) : Port :=
  if t.enable && (t.state = .off || t.state = .down) && !t.idClash then { t with state := if go then .training else .down } else t

theorem Port.tries_idle {t : Port} (he : t.enable = true) (hi : t.idClash = false) (go : Bool) :
    t.tries go = { t with state := if t.state = .off ∨ t.state = .down then (if go then .training else .down) else t.state } := by
  have cond : (t.enable && (t.state = .off || t.state = .down) && !t.idClash) = decide (t.state = .off ∨ t.state = .down) := by
    rw [he, hi, Bool.true_and, Bool.not_false, Bool.and_true, Bool.decide_or]
  unfold Port.tries
  rw [cond]
  by_cases h : t.state = .off ∨ t.state = .down
  · rw [if_pos h, if_pos (decide_eq_true h)]
  · rw [if_neg h, if_neg (by rw [decide_eq_true_eq]; exact h)]

/-- What decides whether a port trains. -/
def State.trainable (f : FurrowIx) (p : PortIx) (s : State) : Port × Bool × Bool :=
  ((s.furrow f).pyr.ports[p], (s.furrow f).pyr.enabled, s.canTrain f p)

theorem Run.tryTrain_own (r : Run s₀) (f : FurrowIx) (p : PortIx) : (r.tryTrain f p).now.trainable f p =
    ((r.now.furrow f).pyr.ports[p].tries ((r.now.furrow f).pyr.enabled && (r.now.furrow f).pyr.ports[p].enable && r.now.canTrain f p),
      (r.now.furrow f).pyr.enabled, r.now.canTrain f p) := by
  have next : (r.tryTrain f p).now = r.now.setFurrow f ((r.now.furrow f).modPort p fun t => t.tries (r.now.mayTrain f p)) := rfl
  rw [next, State.trainable, State.furrow_setFurrow_same, Furrow.modPort_port_same, State.mayTrain_eq]
  exact congrArg (fun x => (_, _, x)) (r.now.canTrain_setFurrow f p _)

theorem Run.tryTrain_other (r : Run s₀) (f : FurrowIx) {p i : PortIx} (hi : i ≠ p) :
    (r.tryTrain f p).now.trainable f i = r.now.trainable f i := by
  have next : (r.tryTrain f p).now = r.now.setFurrow f ((r.now.furrow f).modPort p fun t => t.tries (r.now.mayTrain f p)) := rfl
  rw [next, State.trainable, State.furrow_setFurrow_same, Furrow.modPort_port_other _ hi]
  exact congrArg (fun x => (_, _, x)) (r.now.canTrain_setFurrow f i _)

section
variable {f : FurrowIx} {p : PortIx} {s : State}

theorem bnot_ne_true {a : Bool} (h : a = true) : ¬((!a) = true) := by
  rw [h]
  decide

theorem pyrEnable_trains (hr : s.reaches f 0x300000 = true) :
    ∃ t, exec (.pyrEnable f true) s = .next t ∧ s.onlyFurrow f t ∧ (t.furrow f).pyr.enabled = true ∧
      ∀ p : PortIx, (s.furrow f).pyr.ports[p].enable = true → (s.furrow f).pyr.ports[p].idClash = false →
        (s.furrow f).pyr.ports[p].state = .off ∨ (s.furrow f).pyr.ports[p].state = .down →
        (t.furrow f).pyr.ports[p].state = if s.canTrain f p then .training else .down := by
  have next : exec (.pyrEnable f true) s = .next (((Run.start s).modFur f fun c => c.modPyr fun y => { y with enabled := true }).each
      (List.finRange 10) fun r p => r.tryTrain f p).now := congrArg Run.done ((if_neg (bnot_ne_true hr)).trans (if_pos rfl))
  have on (p : PortIx) : ((Run.start s).modFur f fun c => c.modPyr fun y => { y with enabled := true }).now.trainable f p =
      ((s.furrow f).pyr.ports[p], true, s.canTrain f p) := by
    rw [Run.modFur_now, State.trainable, State.furrow_setFurrow_same]
    exact congrArg (fun x => (_, _, x)) (s.canTrain_setFurrow f p _)
  have trained (p : PortIx) := Run.each_finRange (State.trainable f) (fun _ x => (x.1.tries (x.2.1 && x.1.enable && x.2.2), x.2.1, x.2.2))
    (fun r p => r.tryTrain_own f p) (fun r p i hi => r.tryTrain_other f hi)
    ((Run.start s).modFur f fun c => c.modPyr fun y => { y with enabled := true }) p
  have only := Run.each_grnKept (f := f) (view := fun _ => ()) (g := fun r p => r.tryTrain f p)
    (fun r p => ⟨State.onlyFurrow_setFurrow r.now f _, rfl⟩) (List.finRange 10)
    ((Run.start s).modFur f fun c => c.modPyr fun y => { y with enabled := true })
  have started : s.onlyFurrow f ((Run.start s).modFur f fun c => c.modPyr fun y => { y with enabled := true }).now := s.onlyFurrow_setFurrow f _
  simp only [on] at trained
  generalize (Run.start s).modFur f (fun c => c.modPyr fun y => { y with enabled := true }) = r at next trained only started
  generalize r.each (List.finRange 10) (fun r p => r.tryTrain f p) = u at next trained only
  refine ⟨_, next, State.onlyFurrow_trans started only.1, (Prod.mk.inj (Prod.mk.inj (trained 0)).2).1, fun p he hi hs => ?_⟩
  · have port := congrArg Port.state (Prod.mk.inj (trained p)).1
    refine port.trans ?_
    rw [Port.tries_idle he hi, he]
    exact if_pos hs

end

/-- A port of a furrow whose fabric block is turned off. -/
def Run.portDown (r : Run s₀) (f : FurrowIx) (p : PortIx) : Run s₀ :=
  if (r.fur f).pyr.ports[p].live then r.portLeaves f p .down true
  else r.modFur f fun c => c.modPort p fun t => if t.state = .training then { t with state := .down } else t

theorem Run.modPort_port_same (r : Run s₀) (f : FurrowIx) (p : PortIx) (g : Port → Port) :
    ((r.modFur f fun c => c.modPort p g).now.furrow f).pyr.ports[p] = g (r.now.furrow f).pyr.ports[p] := by
  rw [Run.modFur_now, State.furrow_setFurrow_same, Furrow.modPort_port_same]

theorem Run.modPort_port_other (r : Run s₀) (f : FurrowIx) {p i : PortIx} (hi : i ≠ p) (g : Port → Port) :
    ((r.modFur f fun c => c.modPort p g).now.furrow f).pyr.ports[i] = (r.now.furrow f).pyr.ports[i] := by
  rw [Run.modFur_now, State.furrow_setFurrow_same, Furrow.modPort_port_other _ hi]

theorem Furrow.modPort_modPort (c : Furrow) (p : PortIx) (g k : Port → Port) :
    (c.modPort p g).modPort p k = c.modPort p fun t => k (g t) := by
  have own : (c.modPort p g).pyr.ports[p] = g c.pyr.ports[p] := c.modPort_port_same p g
  have ports : (c.pyr.ports.set p (g c.pyr.ports[p])).set p (k (g c.pyr.ports[p])) = c.pyr.ports.set p (k (g c.pyr.ports[p])) := by
    rw [Vector.set_set]
  have twice : (c.modPort p g).modPort p k = { c with pyr := { c.pyr with
      ports := (c.pyr.ports.set p (g c.pyr.ports[p])).set p (k (c.modPort p g).pyr.ports[p]) } } := rfl
  rw [twice, own, ports]
  rfl

theorem Run.modPort_modPort (r : Run s₀) (f : FurrowIx) (p : PortIx) (g k : Port → Port) :
    ((r.modFur f fun c => c.modPort p g).modFur f fun c => c.modPort p k).now =
      r.now.setFurrow f ((r.now.furrow f).modPort p fun t => k (g t)) := by
  rw [Run.modFur_now, Run.modFur_now, State.furrow_setFurrow_same, State.setFurrow_setFurrow, Furrow.modPort_modPort]

theorem Port.live_of_state {t : Port} (h : t.state ≠ .up ∧ t.state ≠ .degraded) : t.live = false := by
  rw [Port.live, decide_eq_false h.1, decide_eq_false h.2]
  rfl

theorem Run.portDown_live (r : Run s₀) (f : FurrowIx) (p : PortIx) : ((r.portDown f p).now.furrow f).pyr.ports[p].live = false := by
  unfold Run.portDown
  split
  next =>
    obtain ⟨-, state, -⟩ := r.portLeaves_gone f p .down true rfl
    refine Port.live_of_state ?_
    rcases state with h | ⟨-, h⟩
    · rw [h]
      decide
    · rw [h]
      decide
  next hl =>
    refine (congrArg Port.live (r.modPort_port_same f p _)).trans ?_
    split
    · rfl
    · exact Bool.eq_false_iff.2 hl

theorem Run.portDown_other (r : Run s₀) (f : FurrowIx) {p i : PortIx} (hi : i ≠ p) :
    ((r.portDown f p).now.furrow f).pyr.ports[i].live = (r.now.furrow f).pyr.ports[i].live := by
  unfold Run.portDown
  split
  · exact Port.live_of_still ((r.portLeaves_ports f p .down true rfl).2.1 i hi)
  · exact congrArg Port.live (r.modPort_port_other f hi _)

theorem Run.portDown_aside (r : Run s₀) (f : FurrowIx) (p : PortIx) : r.now.aside f (r.portDown f p).now := by
  unfold Run.portDown
  split
  · exact (r.portLeaves_ports f p .down true rfl).1
  · exact r.modFur_aside f _

section
variable {f : FurrowIx} {p : PortIx} {s : State}

/-- PYR_CTRL.ENABLE 0 takes every port down. -/
theorem pyrEnable_stops (hr : s.reaches f 0x300000 = true) (hs : (s.furrow f).spanCount = 0) :
    ∃ t, exec (.pyrEnable f false) s = .next t ∧ (t.furrow f).pyr.enabled = false ∧ (∀ p : PortIx, (t.furrow f).pyr.ports[p].live = false) ∧
      s.aside f t := by
  have next : exec (.pyrEnable f false) s = .next (((Run.start s).each (List.finRange 10) fun r p => r.portDown f p).modFur f fun c =>
      c.modPyr fun y => { y with enabled := false }).now :=
    congrArg Run.done ((if_neg (bnot_ne_true hr)).trans ((if_neg Bool.false_ne_true).trans (if_neg (not_not_intro hs))))
  have aside := Run.each_aside (fun r p => r.portDown_aside f p) (List.finRange 10) (Run.start s)
  have down (p : PortIx) := Run.each_finRange (fun p t => (t.furrow f).pyr.ports[p].live) (fun _ _ => false) (fun r p => r.portDown_live f p)
    (fun r p i hi => r.portDown_other f hi) (Run.start s) p
  generalize (Run.start s).each (List.finRange 10) (fun r p => r.portDown f p) = r at next aside down
  refine ⟨_, next, ?_, fun p => ?_, State.aside_trans aside (r.modFur_aside f _)⟩
  · rw [Run.modFur_now, State.furrow_setFurrow_same]
    rfl
  · rw [Run.modFur_now, State.furrow_setFurrow_same]
    exact down p

/-- A port whose ENABLE is written. -/
def Port.set (t : Port) (on : Bool) : Port := { t with enable := on, idClash := false }

theorem execPortEnable_on (hr : s.reaches f 0x300100 = true) :
    exec (.portEnable f p true) s = .next (s.setFurrow f ((s.furrow f).modPort p fun t =>
      { t with
        enable := true, idClash := false,
        state := if t.state = .off ∨ t.state = .down then (if (s.furrow f).pyr.enabled && s.canTrain f p then .training else .down) else t.state })) := by
  have may : ((Run.start s).modFur f fun c => c.modPort p fun t => t.set true).now.mayTrain f p =
      ((s.furrow f).pyr.enabled && s.canTrain f p) := by
    rw [State.mayTrain_eq, Run.modPort_port_same, Run.modFur_now, State.furrow_setFurrow_same]
    exact congrArg₂ (· && ·) (Bool.and_true _) (s.canTrain_setFurrow f p _)
  have next : exec (.portEnable f p true) s = .next ((((Run.start s).modFur f fun c => c.modPort p fun t => t.set true).modFur f fun c =>
      c.modPort p fun t => t.tries ((s.furrow f).pyr.enabled && s.canTrain f p))).now := by
    rw [← may]
    exact congrArg Run.done ((if_neg (bnot_ne_true hr)).trans (if_pos rfl))
  have tries (t : Port) (go : Bool) : (t.set true).tries go = { t with
      enable := true, idClash := false
      state := if t.state = .off ∨ t.state = .down then (if go then .training else .down) else t.state } := Port.tries_idle rfl rfl go
  rw [next, Run.modPort_modPort]
  simp only [tries]
  rfl

theorem execPortEnable_off (hr : s.reaches f 0x300100 = true) (hl : (s.furrow f).pyr.ports[p].live = false) :
    exec (.portEnable f p false) s = .next (s.setFurrow f ((s.furrow f).modPort p fun t =>
      { t with enable := false, idClash := false, state := .off, lanes := 0 })) := by
  have live := (congrArg Port.live ((Run.start s).modPort_port_same f p fun t => t.set false)).trans hl
  have next : exec (.portEnable f p false) s = .next (((Run.start s).modFur f fun c => c.modPort p fun t => t.set false).modFur f fun c =>
      c.modPort p Port.retired).now :=
    congrArg Run.done ((if_neg (bnot_ne_true hr)).trans ((if_neg Bool.false_ne_true).trans (if_neg fun h => Bool.false_ne_true (live.symm.trans h))))
  rw [next, Run.modPort_modPort]
  rfl

/-- A live port turned off. -/
theorem portEnable_leaves (hr : s.reaches f 0x300100 = true) (hl : (s.furrow f).pyr.ports[p].live = true) :
    ∃ t, exec (.portEnable f p false) s = .next t ∧ (t.furrow f).pyr.ports[p].state = .off ∧
      (t.furrow f).pyr.ports[p].enable = false ∧ s.aside f t := by
  have live := (congrArg Port.live ((Run.start s).modPort_port_same f p fun t => t.set false)).trans hl
  have next : exec (.portEnable f p false) s =
      .next (((Run.start s).modFur f fun c => c.modPort p fun t => t.set false).portLeaves f p .off true).now :=
    congrArg Run.done ((if_neg (bnot_ne_true hr)).trans ((if_neg Bool.false_ne_true).trans (if_pos live)))
  obtain ⟨aside, state, enable, -⟩ := Run.portLeaves_gone _ f p .off true rfl
  refine ⟨_, next, state.elim id And.right, enable.trans (congrArg Port.enable ((Run.start s).modPort_port_same f p fun t => t.set false)),
    State.aside_trans ((Run.start s).modFur_aside f _) aside⟩

/-- A port as its training leaves it, before it sends what waits. -/
theorem Port.trained_port (t : Port) (peer : FabricId) (port : PortIx) (both : Bool) (ns : W64) :
    (t.trained peer port both ns).state = (if both then .up else .degraded) ∧ (t.trained peer port both ns).peerId = peer ∧
      (t.trained peer port both ns).rxSeq = 0 ∧ (t.queue = [] → (t.trained peer port both ns).txSeq = 0) := by
  have sends (u : Port) : (u.pump ns).state = u.state ∧ (u.pump ns).peerId = u.peerId ∧ (u.pump ns).rxSeq = u.rxSeq ∧
      (u.queue = [] → (u.pump ns).txSeq = u.txSeq) := by
    have peerId := congrArg Port.peerId (u.pump_still ns)
    refine ⟨Port.state_of_still (u.pump_still ns), peerId, Port.rxSeq_of_still (u.pump_still ns), fun hq => ?_⟩
    unfold Port.pump
    rw [hq]
    rfl
  exact sends _

theorem good_half {low high : Bool} (hg : low = true ∨ high = true) : ¬((!low && !high) = true) := by
  rcases hg with rfl | rfl
  · exact Bool.false_ne_true
  · rw [Bool.not_true, Bool.and_false]
    exact Bool.false_ne_true

/-- Training that ends on one half or both. -/
theorem portTrained_up {peer : FabricId} {pp : PortIx} {low high : Bool} (ht : (s.furrow f).pyr.ports[p].state = .training)
    (hg : low = true ∨ high = true) (hi : (s.peerAt f p peer pp).1 ≠ (s.furrow f).fabricId f) :
    ∃ t, exec (.portTrained f p peer pp low high) s = .next t ∧ s.onlyFurrow f t ∧ t.mems = s.mems ∧
      (t.furrow f).pyr.ports[p].state = (if low && high then .up else .degraded) ∧
      (t.furrow f).pyr.ports[p].peerId = (s.peerAt f p peer pp).1 ∧ (t.furrow f).pyr.ports[p].rxSeq = 0 ∧
      ((s.furrow f).pyr.ports[p].queue = [] → (t.furrow f).pyr.ports[p].txSeq = 0) := by
  refine ⟨_, congrArg Run.done ((if_neg (not_not_intro ht)).trans ((if_neg (good_half hg)).trans (if_neg hi))), s.onlyFurrow_setFurrow f _, rfl, ?_⟩
  rw [Run.modFur_now, State.furrow_setFurrow_same]
  have own := (s.furrow f).modPort_port_same p fun t =>
    t.trained (s.peerAt f p peer pp).1 (s.peerAt f p peer pp).2 (low && high) (s.furrow f).ns
  have port := Port.trained_port (s.furrow f).pyr.ports[p] (s.peerAt f p peer pp).1 (s.peerAt f p peer pp).2 (low && high) (s.furrow f).ns
  rw [← own] at port
  exact port

/-! ### Ports that leave -/

theorem portLossOfLight_dark {laser : Bool} (hn : isNeighbour p = false) (hl : (s.furrow f).pyr.ports[p].live = true) :
    ∃ t, exec (.portLossOfLight f p laser) s = .next t ∧
      (((t.furrow f).pyr.ports[p].state = .dark ∨ (t.furrow f).pyr.ports[p].state = .off) ∧ s.aside f t) ∧
      (laser = false → (t.furrow f).pyr.ports[p].state = .dark) ∧ (t.furrow f).pyr.ports[p].losSeen = true := by
  let unlit : Port → Port := fun t => { t with laserLow := t.laserLow || laser, lightSince := none }
  have live := (congrArg Port.live ((Run.start s).modPort_port_same f p unlit)).trans hl
  have next : exec (.portLossOfLight f p laser) s = .next (((Run.start s).modFur f fun c => c.modPort p unlit).portLeaves f p .dark laser).now :=
    congrArg Run.done ((if_neg (by rw [hn]; decide)).trans (if_pos live))
  obtain ⟨aside, state, -, losSeen⟩ := Run.portLeaves_gone _ f p .dark laser rfl
  refine ⟨_, next, ⟨state.imp_right And.right, State.aside_trans ((Run.start s).modFur_aside f _) aside⟩, fun h => state.resolve_right fun x => ?_, ?_⟩
  · exact Bool.false_ne_true (h.symm.trans x.1)
  · rw [losSeen]
    exact Bool.or_true _

theorem execPortLossOfLight_unlit {laser : Bool} (hn : isNeighbour p = false) (hl : (s.furrow f).pyr.ports[p].live = false) :
    exec (.portLossOfLight f p laser) s = .next (s.setFurrow f ((s.furrow f).modPort p fun t =>
      { t with laserLow := t.laserLow || laser, lightSince := none })) := by
  have live := (congrArg Port.live ((Run.start s).modPort_port_same f p fun t =>
    { t with laserLow := t.laserLow || laser, lightSince := none })).trans hl
  exact congrArg Run.done ((if_neg (by rw [hn]; decide)).trans (if_neg fun h => Bool.false_ne_true (live.symm.trans h)))

theorem portDegrade_dark (hl : (s.furrow f).pyr.ports[p].live = true) :
    ∃ t, exec (.portDegrade f p false false) s = .next t ∧
      ((t.furrow f).pyr.ports[p].state = .dark ∨ (t.furrow f).pyr.ports[p].state = .off) ∧ s.aside f t :=
  ⟨_, congrArg Run.done ((if_neg (by rw [hl]; decide)).trans (if_pos rfl)), (Run.start s).portLeaves_dark f p true rfl⟩

theorem execPortDegrade_same {low high : Bool} (h : (s.furrow f).pyr.ports[p].live = false ∨ (low && high) = true) :
    exec (.portDegrade f p low high) s = .next s := by
  refine congrArg Run.done (if_pos ?_)
  rcases h with h | h
  · rw [h]
    rfl
  · rw [h]
    exact Bool.or_true _

/-- Where one half of a live port is good and the other is not, the port neither stays as it is nor goes dark. -/
theorem one_half : ∀ {low high : Bool}, (low != high) = true →
    ¬((!true || (low && high)) = true) ∧ ¬((!low && !high) = true) := by decide

/-- With one half good an UP port goes on at half rate, unless that retires it. -/
theorem portDegrade_half {low high : Bool} (hx : (low != high) = true) (hu : (s.furrow f).pyr.ports[p].state = .up) :
    ∃ t, exec (.portDegrade f p low high) s = .next t ∧ s.aside f t ∧
      (((t.furrow f).pyr.ports[p].state = .degraded ∧ (t.furrow f).pyr.ports[p].lanes = 4) ∨ (t.furrow f).pyr.ports[p].state = .off) := by
  have live : (s.furrow f).pyr.ports[p].live = true := by rw [Port.live, hu]; rfl
  obtain ⟨lit, dark⟩ := one_half hx
  let half : Port → Port := fun t => { t with state := .degraded, lanes := 4 }
  let r := (Run.start s).modFur f fun c => (c.modPort p half).raise { errRec 0x20 0 PortState.degraded.code with part := BitVec.ofNat 8 p.val } []
  have port : (r.now.furrow f).pyr.ports[p] = half (s.furrow f).pyr.ports[p] := by
    rw [Run.modFur_now, State.furrow_setFurrow_same, Furrow.raise_pyr]
    exact Furrow.modPort_port_same _ p half
  have next : exec (.portDegrade f p low high) s = .next (r.countPort f p false).now :=
    congrArg Run.done ((if_neg (live.symm ▸ lit)).trans ((if_neg dark).trans (if_pos hu)))
  refine ⟨_, next, State.aside_trans ((Run.start s).modFur_aside f _) (r.countPort_pyr f p false).1, ?_⟩
  rcases (r.countPort_ports f p false).2 with own | own
  · rw [own, port]
    exact .inl ⟨rfl, rfl⟩
  · rw [own]
    exact .inr rfl

theorem execPortDegrade_degraded {low high : Bool} (hx : (low != high) = true) (hd : (s.furrow f).pyr.ports[p].state = .degraded) :
    exec (.portDegrade f p low high) s = .next s := by
  have live : (s.furrow f).pyr.ports[p].live = true := by rw [Port.live, hd]; rfl
  obtain ⟨lit, dark⟩ := one_half hx
  exact congrArg Run.done ((if_neg (live.symm ▸ lit)).trans ((if_neg dark).trans (if_neg (by rw [hd]; decide))))

theorem execPortFlitTimeout_same (h : (s.furrow f).pyr.ports[p].live = false ∨
    elapsed (s.furrow f).ns (s.furrow f).pyr.ports[p].lastFlit < 10000) : exec (.portFlitTimeout f p) s = .next s := by
  refine congrArg Run.done (if_neg ?_)
  rw [Bool.and_eq_true, decide_eq_true_eq]
  rintro ⟨live, late⟩
  rcases h with dark | early
  · exact Bool.false_ne_true (dark.symm.trans live)
  · exact Nat.not_le.2 early late

theorem portFlitTimeout_dark (hl : (s.furrow f).pyr.ports[p].live = true)
    (hn : 10000 ≤ elapsed (s.furrow f).ns (s.furrow f).pyr.ports[p].lastFlit) :
    ∃ t, exec (.portFlitTimeout f p) s = .next t ∧
      ((t.furrow f).pyr.ports[p].state = .dark ∨ (t.furrow f).pyr.ports[p].state = .off) ∧ s.aside f t :=
  ⟨_, congrArg Run.done (if_pos (Bool.and_eq_true_iff.2 ⟨hl, decide_eq_true hn⟩)), (Run.start s).portLeaves_dark f p true rfl⟩

theorem execPortStall_same {vc : Fin 4} {since : W64} (hw : (s.furrow f).pyr.ports[p].waitSince[vc] = some since)
    (hn : elapsed (s.furrow f).ns since < (s.furrow f).pyr.stallMs.toNat * 1000000) : exec (.portStall f p vc) s = .next s := by
  refine done_modFur_self ?_
  dsimp only
  rw [hw]
  exact if_neg fun h => Nat.not_le.2 hn h.2

theorem execPortStall_none {vc : Fin 4} (hw : (s.furrow f).pyr.ports[p].waitSince[vc] = none) : exec (.portStall f p vc) s = .next s := by
  refine done_modFur_self ?_
  dsimp only
  rw [hw]

theorem portStall_marks {vc : Fin 4} {since : W64} (hw : (s.furrow f).pyr.ports[p].waitSince[vc] = some since)
    (hs : (s.furrow f).pyr.ports[p].stalled = false) (hn : (s.furrow f).pyr.stallMs.toNat * 1000000 ≤ elapsed (s.furrow f).ns since) :
    ∃ t, exec (.portStall f p vc) s = .next t ∧ (t.furrow f).pyr.ports[p].stalled = true ∧
      (t.furrow f).err.seq = (s.furrow f).err.seq + 1 ∧ s.onlyFurrow f t ∧ t.mems = s.mems := by
  let marked := ((s.furrow f).modPort p fun t => { t with stalled := true }).raise { errRec 0x21 0 vc.val with part := BitVec.ofNat 8 p.val } []
  have next : exec (.portStall f p vc) s = .next (s.setFurrow f marked) := by
    refine done_modFur ?_
    dsimp only
    rw [hw]
    exact if_pos ⟨by rw [hs]; rfl, hn⟩
  refine ⟨_, next, ?_, ?_, s.onlyFurrow_setFurrow f _, rfl⟩
  · rw [State.furrow_setFurrow_same, Furrow.raise_pyr, Furrow.modPort_port_same]
  · rw [State.furrow_setFurrow_same]
    exact (Furrow.raise_seq _ _ [] rfl).1

end

/-- Settles O41: what leaves UP or trains is told by `Run.portLeaves_gone` and `Port.trained_port`. That SEQ restarts at 0 in training, that
failed training leaves the port TRAINING, and that a port which degrades counts toward its retirement (assumption log 56) are the model's choice. -/
theorem portsTrainAndLeave : Obligations.PortsTrainAndLeave := by
  constructor
  · intro f p s
    refine ⟨fun hr => ⟨pyrEnable_trains hr, fun hs => ?_, pyrEnable_stops hr⟩, fun hr => ⟨?_, execPortEnable_off hr, portEnable_leaves hr⟩,
      fun peer pp low high => ⟨fun ht => congrArg Run.done (if_pos ht), fun ht => ⟨?_, fun hg => ⟨fun hi => ?_, portTrained_up ht hg⟩⟩⟩⟩
    · exact congrArg Run.done ((if_neg (bnot_ne_true hr)).trans ((if_neg Bool.false_ne_true).trans (if_pos hs)))
    · exact execPortEnable_on hr
    · exact congrArg Run.done ((if_neg (not_not_intro ht)).trans (if_pos rfl))
    · exact congrArg Run.done ((if_neg (not_not_intro ht)).trans ((if_neg (good_half hg)).trans (if_pos hi)))
  · intro f p s
    refine ⟨fun laser => ⟨fun hn => congrArg Run.done (if_pos hn), execPortLossOfLight_unlit, portLossOfLight_dark⟩,
      fun hl => ⟨execPortDegrade_same (.inr rfl), portDegrade_dark hl, fun low high hx => ⟨execPortDegrade_degraded hx, portDegrade_half hx⟩, ?_, ?_⟩,
      fun hl => ⟨?_, fun a b => execPortDegrade_same (.inl hl)⟩, fun hd ha => ⟨?_, ?_⟩, ?_,
      fun vc => ⟨execPortStall_none, fun since hw hs => ⟨execPortStall_same hw, portStall_marks hw hs⟩⟩⟩
    · exact fun hn => execPortFlitTimeout_same (.inr hn)
    · exact portFlitTimeout_dark hl
    · exact execPortFlitTimeout_same (.inl hl)
    · exact fun hm => congrArg Run.done (if_pos (by rw [hd, ha, hm]; rfl))
    · exact fun hm => congrArg Run.done (if_neg (by rw [hm, Bool.and_false]; exact Bool.false_ne_true))
    · rintro (hd | ha)
      · exact congrArg Run.done (if_neg (by rw [decide_eq_false hd]; exact Bool.false_ne_true))
      · exact congrArg Run.done (if_neg (by rw [ha, Bool.and_false]; exact Bool.false_ne_true))

end Sys2Proof.Machine
end

section
namespace Sys2Proof.Machine

variable {s₀ : State}

/-! ### Collectives (R379–R381) -/

section
variable {f : FurrowIx} {q : Request} {r : Run s₀} (h0 : q.stage = 0)
include h0

/-- A part that waits for what is below it stays as it is. -/
theorem Run.allToAll_waits (hp : (r.fur f).piecesBelow q = none) (own : List Byte) (make : List (List Byte) → List Byte)
    (place : Run s₀ → List Byte → Run s₀) : r.allToAll f q own make place = (r, false) := by
  unfold Run.allToAll
  simp only [h0, hp, ne_eq, not_true_eq_false, if_false]

/-- A part that stands alone puts in place what it makes of its own bytes. -/
theorem Run.allToAll_alone (ho : q.origin = none) (hbelow : ((r.fur f).below q.h).2 = []) (own : List Byte)
    (make : List (List Byte) → List Byte) (place : Run s₀ → List Byte → Run s₀) :
    r.allToAll f q own make place = (place r (make [own]), true) := by
  have none : r.modFur f (fun c => c.sendDown f q q.collKey (make [own])) = r :=
    Run.eq_of_now (by
      rw [Run.modFur_now, Furrow.sendDown_of_none_below (c := r.now.furrow f) hbelow, State.setFurrow_self])
  unfold Run.allToAll
  simp only [h0, Furrow.piecesBelow_of_none_below hbelow, ho, ne_eq, not_true_eq_false, if_false, Option.isSome_none, Bool.false_eq_true]
  exact congrArg (fun u => (place u (make [own]), true)) none

end

/-- Off a span, and at a root or member with nothing below it, F is 1. -/
theorem Furrow.furrowsOf_alone {c : Furrow} {q : Request} (ho : q.origin = none) (hbelow : (c.below q.h).2 = []) : c.furrowsOf q = 1 := by
  unfold Furrow.furrowsOf Furrow.spanFurrows
  rw [ho, hbelow]
  rfl

section
variable {f : FurrowIx} {h : Handle} {tag : Tag} {q : Request} {s : State} {op : Byte} (hq : (s.furrow f).atWork h tag op = some q)
  {work : Request → Run s → Run s × Option Ending}
include hq

theorem coll_waits (hw : work q (Run.start s) = (Run.start s, none)) : ((Run.start s).coll op f h tag work).done = .next s := by
  unfold Run.coll
  simp only [show ((Run.start s).fur f).atWork h tag op = some q from hq, hw]
  rfl

/-- A part that has all it needs ends, and leaves the furrow's units. -/
theorem coll_ends {u : Run s} {n v : Nat} (hw : work q (Run.start s) = (u, some (Ending.ok n v))) (worked : s.workedOver f u.now) :
    ∃ t, ((Run.start s).coll op f h tag work).done = .next t ∧ t.descriptorEnded f h tag (Ending.ok n v) ∧ s.onlyFurrow f t ∧
      (s.furrow f).unitsKept (t.furrow f) := by
  have ends : (Run.start s).coll op f h tag work = u.engineEnds f h tag (Ending.ok n v) := by
    unfold Run.coll
    simp only [show ((Run.start s).fur f).atWork h tag op = some q from hq, hw]
  rw [ends]
  exact ⟨_, rfl, Run.engineEnds_ended (failed_ok n v) ((worked.request? h tag).trans (Furrow.atWork_is hq).1),
    State.onlyFurrow_trans worked.1 (u.engineEnds_onlyFurrow f h tag _), worked.unitsKept h tag (failed_ok n v)⟩

end

section
variable {f : FurrowIx} {h : Handle} {tag : Tag} {q : Request} {s : State} (h0 : q.stage = 0)
include h0

theorem allReduce_waits (hb : (s.furrow f).firstBad (q.eng f) [reduceBuf q.desc] = none) (hp : (s.furrow f).piecesBelow q = none) :
    (Run.start s).allReduce f q (q.eng f) q.desc = (Run.start s, none) := by
  unfold Run.allReduce
  have clean : (if q.stage = 0 then ((Run.start s).fur f).firstBad (q.eng f) [reduceBuf q.desc] else none) = none := (if_pos h0).trans hb
  simp only [clean, Run.allToAll_waits (r := Run.start s) h0 hp]
  rfl

theorem allReduce_alone (hb : (s.furrow f).firstBad (q.eng f) [reduceBuf q.desc] = none) (ho : q.origin = none)
    (hbelow : ((s.furrow f).below q.h).2 = []) :
    ∃ u, (Run.start s).allReduce f q (q.eng f) q.desc = (u, some (Ending.ok 1 (df q.desc 16 8))) ∧ s.workedOver f u.now := by
  unfold Run.allReduce
  have clean : (if q.stage = 0 then ((Run.start s).fur f).firstBad (q.eng f) [reduceBuf q.desc] else none) = none := (if_pos h0).trans hb
  simp only [clean,
    Run.allToAll_alone (r := Run.start s) h0 ho hbelow, Furrow.furrowsOf_alone (c := (Run.start s).fur f) ho hbelow]
  exact ⟨_, rfl, (Run.start s).store_workedOver f _ _ _ _ _⟩

theorem allGather_waits (hb : (s.furrow f).firstBad (q.eng f) [((tref q.desc 16).tier, (tref q.desc 16).off, df q.desc 32 4)] = none)
    (hp : (s.furrow f).piecesBelow q = none) : (Run.start s).allGather f q (q.eng f) q.desc = (Run.start s, none) := by
  unfold Run.allGather
  have clean : (if q.stage = 0 then ((Run.start s).fur f).firstBad (q.eng f)
      [((tref q.desc 16).tier, (tref q.desc 16).off, df q.desc 32 4)] else none) = none := (if_pos h0).trans hb
  simp only [clean,
    Run.allToAll_waits (r := Run.start s) h0 hp]
  rfl

theorem allGather_alone (hb : (s.furrow f).firstBad (q.eng f) [((tref q.desc 16).tier, (tref q.desc 16).off, df q.desc 32 4)] = none)
    (ho : q.origin = none) (hbelow : ((s.furrow f).below q.h).2 = []) :
    ∃ u, (Run.start s).allGather f q (q.eng f) q.desc = (u, some (Ending.ok 1 (df q.desc 24 8))) ∧ s.workedOver f u.now := by
  unfold Run.allGather
  have clean : (if q.stage = 0 then ((Run.start s).fur f).firstBad (q.eng f)
      [((tref q.desc 16).tier, (tref q.desc 16).off, df q.desc 32 4)] else none) = none := (if_pos h0).trans hb
  simp only [clean,
    Run.allToAll_alone (r := Run.start s) h0 ho hbelow, Furrow.furrowsOf_alone (c := (Run.start s).fur f) ho hbelow]
  exact ⟨_, rfl, (Run.start s).store_workedOver f _ _ _ _ _⟩

end

/-! ### SPAN_SET_MEMBER (R378) -/

section
variable {f : FurrowIx} {h : Handle} {tag : Tag} {q : Request} {s : State} (hq : (s.furrow f).atWork h tag 0x92 = some q)
include hq

theorem execSpanSetMember_refused (hx : (s.furrow f).newEntry h q.desc = none) :
    exec (.spanSetMember f h tag) s = .next ((Run.start s).engineEnds f h tag (Refuse.operand 16).atStart.ending).now := by
  show execSpanSetMember f h tag s = _
  unfold execSpanSetMember
  simp only [hq, hx]
  rfl

theorem execSpanSetMember_asks {x : TableEntry} (hx : (s.furrow f).newEntry h q.desc = some x) (h0 : q.stage = 0) :
    exec (.spanSetMember f h tag) s = .next (s.setFurrow f ((s.furrow f).join f q (s.furrow f).ctx[h].spanId [x] 0 1)) := by
  show execSpanSetMember f h tag s = _
  unfold execSpanSetMember
  simp only [hq, hx]
  exact congrArg Run.done (if_neg (not_not_intro h0))

theorem execSpanSetMember_waits {x : TableEntry} (hx : (s.furrow f).newEntry h q.desc = some x) (h0 : q.stage ≠ 0) :
    exec (.spanSetMember f h tag) s = .next s := by
  show execSpanSetMember f h tag s = _
  unfold execSpanSetMember
  simp only [hq, hx]
  exact congrArg Run.done (if_pos h0)

end

/-- Settles O40: both collectives go by `Run.allToAll`, which waits or, alone, puts in place what it makes of its own bytes. -/
theorem collectivesEndOrWait : Obligations.CollectivesEndOrWait := by
  refine fun f h tag q s => ⟨fun hq h0 hb => ⟨fun hp => coll_waits hq (allReduce_waits h0 hb hp), fun ho hbelow => ?_⟩,
    fun hq h0 hb => ⟨fun hp => coll_waits hq (allGather_waits h0 hb hp), fun ho hbelow => ?_⟩,
    fun hq => ⟨execSpanSetMember_refused hq, fun x hx => ⟨execSpanSetMember_asks hq hx, execSpanSetMember_waits hq hx⟩⟩⟩
  · obtain ⟨u, alone, worked⟩ := allReduce_alone h0 hb ho hbelow
    exact coll_ends hq alone worked
  · obtain ⟨u, alone, worked⟩ := allGather_alone h0 hb ho hbelow
    exact coll_ends hq alone worked

end Sys2Proof.Machine
end

section
namespace Sys2Proof.Machine

variable {s₀ : State}

/-! ### Binding to a span (R373–R375) -/

theorem dropFirst_find?_other {h h' : Handle} {tag tag' : Tag} (hne : ¬(h' = h ∧ tag' = tag)) (qs : List Request) :
    (dropFirst qs h' tag').find? (fun q => q.isOf h tag) = qs.find? fun q => q.isOf h tag := by
  induction qs with
  | nil => rfl
  | cons q qs ih =>
    unfold dropFirst
    split
    next own =>
      obtain ⟨rfl, rfl, -⟩ := (q.isOf_iff h' tag').1 own
      have other : q.isOf h tag = false := Bool.eq_false_iff.2 fun is => by
        obtain ⟨hh, ht, -⟩ := (q.isOf_iff h tag).1 is
        exact hne ⟨hh, ht⟩
      rw [List.find?_cons_of_neg (by rw [other]; exact Bool.false_ne_true)]
    next => rw [List.find?_cons, List.find?_cons, ih]

section
variable {f : FurrowIx} {h g : Handle} {tag : Tag} {q : Request} {s : State}

/-- The binding that a member's CTX_BIND_SPAN makes. -/
def memberBind (g : Handle) (d : List Byte) (ns : W64) : SpanBind :=
  { h := g, entries := [], rootId := BitVec.ofNat 16 (df d 24 2), number := BitVec.ofNat 32 (df d 26 2), child := bindChild d
    lastBeat := ns, recorded := false, sentBeat := 0, pins := [], asking := [], asked := none }

section
variable (hq : (s.furrow f).atWork h tag 0xFA = some q) (hg : opHandle q.desc = some g) (h0 : q.stage = 0)
include hq hg h0

theorem execCtxBindSpan_member (hr : bindRole q.desc = 2) :
    exec (.ctxBindSpan f h tag) s = .next (((Run.start s).modFur f fun c =>
      c.setBind g (bindSpan q.desc) .member (memberBind g q.desc c.ns)).engineEnds f h tag (Ending.ok 0 0)).now := by
  show execCtxBindSpan f h tag s = _
  unfold execCtxBindSpan
  simp only [hq, hg]
  exact congrArg Run.done ((if_neg (not_not_intro h0)).trans (if_pos hr))

theorem ctxBindSpan_member (hne : g ≠ h) (hr : bindRole q.desc = 2) :
    ∃ t, exec (.ctxBindSpan f h tag) s = .next t ∧ t.descriptorEnded f h tag (Ending.ok 0 0) ∧ s.onlyFurrow f t ∧ t.mems = s.mems ∧
      (t.furrow f).ctx[g].role = .member ∧ (t.furrow f).ctx[g].spanId = bindSpan q.desc ∧ (t.furrow f).ctx[g].state = .member := by
  have next := execCtxBindSpan_member hq hg h0 hr
  generalize hd : (s.furrow f).setBind g (bindSpan q.desc) .member (memberBind g q.desc (s.furrow f).ns) = d
  have bound : ((Run.start s).modFur f fun c => c.setBind g (bindSpan q.desc) .member (memberBind g q.desc c.ns)).now.furrow f = d := by
    rw [Run.modFur_now, State.furrow_setFurrow_same]
    exact hd
  have found : d.request? h tag = some q := by
    rw [← hd]
    exact (dropFirst_find?_other (fun x => hne x.1) _).trans (Furrow.atWork_is hq).1
  have entry : d.ctx[g] = { (s.furrow f).ctx[g] with spanId := bindSpan q.desc, role := .member, state := .member } := by
    rw [← hd]
    exact Furrow.modCtx_same _ g _
  refine ⟨_, next, Run.engineEnds_ended (failed_ok 0 0) (by rw [bound]; exact found),
    State.onlyFurrow_trans (s.onlyFurrow_setFurrow f _) (Run.engineEnds_onlyFurrow _ f h tag _), rfl, ?_⟩
  rw [Run.engineEnds_done (failed_ok 0 0), bound, Furrow.modCtx_other _ h g _ hne, Furrow.modReq_ctx, entry]
  exact ⟨rfl, rfl, rfl⟩

theorem execCtxBindSpan_root {bs : List Byte} {xs : List TableEntry} (hr : bindRole q.desc ≠ 2)
    (hb : (s.furrow f).firstBad { q.eng f with h := g } [(2, (bindTable q.desc).off, 8 * bindEntries q.desc)] = none)
    (hbs : bs = (Run.start s).load f g 0 2 (bindTable q.desc).off (8 * bindEntries q.desc)) (hxs : xs = tableEntries bs)
    (hok : spanIdsOk ((s.furrow f).fabricId f :: xs.map fun (x : TableEntry) => x.id) = true) :
    exec (.ctxBindSpan f h tag) s = .next (s.setFurrow f
      (((s.furrow f).modReq h tag fun q => { q with carried := bs }).join f q (bindSpan q.desc) xs 0 1)) := by
  subst hxs hbs
  show execCtxBindSpan f h tag s = _
  unfold execCtxBindSpan
  simp only [hq, hg, hb]
  rw [if_neg (not_not_intro h0), if_neg hr, if_neg (by rw [hok]; exact Bool.false_ne_true)]
  rfl

end

/-! ### Joins that are not answered -/

theorem Furrow.tellGroup_keeps {γ : Type} {view : Furrow → γ} (hv : BesidePyr view) (c : Furrow) (f : FurrowIx) (span tag : W32)
    (after : Furrow) : view (c.tellGroup f span tag after) = view c := by
  unfold Furrow.tellGroup
  split
  · rfl
  · exact foldl_keeps view _ (fun c x => c.route_keeps hv f _) _ c

/-- A binding that fails ends its request with SPAN_INVALID. -/
theorem Run.joinFails_ends (r : Run s₀) (hq : (r.now.furrow f).request? q.h q.tag = some q) (span : W32) (xs : List TableEntry) :
    (r.joinFails f q span xs).now.descriptorEnded f q.h q.tag (spanInvalid 0xFF).ending ∧ r.now.onlyFurrow f (r.joinFails f q span xs).now ∧
      (r.joinFails f q span xs).now.mems = r.now.mems := by
  refine ⟨Run.engineEnds_descriptorEnded ⟨q, ?_⟩ _,
    State.onlyFurrow_trans (State.onlyFurrow_setFurrow _ f _) (Run.engineEnds_onlyFurrow _ f _ _ _), rfl⟩
  have reqs : BesidePyr fun c => c.request? q.h q.tag := fun _ _ => rfl
  rw [Run.modFur_now, State.furrow_setFurrow_same]
  split
  · have told := foldl_keeps (fun c : Furrow => c.request? q.h q.tag) (fun (c : Furrow) x => c.route f (c.joinPacket f x span q.tag 16))
      (fun c x => c.route_keeps reqs f _) xs (r.now.furrow f)
    split
    · exact (Furrow.tellGroup_keeps reqs _ f span q.tag _).trans (told.trans hq)
    · exact told.trans hq
  · exact hq

theorem spanJoinTimeout_ends (hq : (s.furrow f).request? h tag = some q) (hp : q.phase = .running)
    (ho : opcodeOf q.desc = 0xFA ∨ opcodeOf q.desc = 0x92) (h0 : q.stage ≠ 0) (ha : q.acks ≠ [])
    (hn : 10000000 ≤ elapsed (s.furrow f).ns (q.waitNs.getD (s.furrow f).ns)) :
    ∃ t, exec (.spanJoinTimeout f h tag) s = .next t ∧ t.descriptorEnded f h tag (spanInvalid 0xFF).ending ∧ s.onlyFurrow f t ∧
      t.mems = s.mems := by
  obtain ⟨rfl, rfl, -⟩ := Furrow.request?_is _ _ _ _ hq
  have next : exec (.spanJoinTimeout f q.h q.tag) s =
      .next ((Run.start s).joinFails f q ((s.furrow f).joinsFor q).1 ((s.furrow f).joinsFor q).2).now := by
    show execSpanJoinTimeout f q.h q.tag s = _
    unfold execSpanJoinTimeout
    simp only [hq]
    exact congrArg Run.done (if_pos ⟨hp, ho, h0, ha, hn⟩)
  exact ⟨_, next, (Run.start s).joinFails_ends hq _ _⟩

end

/-- Settles O26: CTX_BIND_SPAN by its role, and the timeout of a join. That SPAN_INVALID names byte 0xFF, and that the 10 ms run again for
the recording (assumption log 63), are the model's choice. -/
theorem bindingToASpan : Obligations.BindingToASpan := fun _ _ _ _ _ _ =>
  ⟨fun hq hg hne h0 hr => ctxBindSpan_member hq hg h0 hne hr,
    fun _ _ hq hg h0 hr hb hbs hxs hok => execCtxBindSpan_root hq hg h0 hr hb hbs hxs hok, spanJoinTimeout_ends⟩

end Sys2Proof.Machine
end

section
namespace Sys2Proof.Machine

section
variable {f : FurrowIx} {p : Packet} {s : State}

/-! ### Link fences (R370) -/

/-- The port that a link fence is for: its fence stands, and its peer's port is the one that ADDR names. -/
def Furrow.fencedPort (c : Furrow) (p : Packet) : Option PortIx :=
  (List.finRange 10).find? fun i => (match c.pyr.ports[i].fence with | some x => x.2.1 = p.src | none => false) &&
    c.pyr.ports[i].peerPort = p.addr.extractLsb' 16 4

theorem execLinkFence_none (ht : (s.furrow f).takes f Kind.linkFence p = true)
    (hi : ((s.took f p).furrow f).fencedPort p = none) : exec (.linkFence f p) s = .next (s.took f p) := by
  refine onPacket_modFur_self ht ?_
  show (match ((s.took f p).furrow f).fencedPort p with | none => (s.took f p).furrow f | some i => _) = (s.took f p).furrow f
  rw [hi]

theorem execLinkFence_resends {i : PortIx} {x : W64 × FabricId × List SentFlit} (ht : (s.furrow f).takes f Kind.linkFence p = true)
    (hi : ((s.took f p).furrow f).fencedPort p = some i) (hx : ((s.took f p).furrow f).pyr.ports[i].fence = some x) :
    exec (.linkFence f p) s = .next ((s.took f p).setFurrow f
      ((((s.took f p).furrow f).pyr.ports[i].heldPackets (afterSeq x.2.2 (p.addr.extractLsb' 0 16))).foldl
        (fun c q => c.route f q) (((s.took f p).furrow f).modPort i Port.unfence))) := by
  refine onPacket_modFur ht ?_
  show (match ((s.took f p).furrow f).fencedPort p with | none => (s.took f p).furrow f | some i => _) = _
  rw [hi]
  dsimp only
  rw [hx]

theorem execFenceTimeout_none {port : PortIx} (hf : (s.furrow f).pyr.ports[port].fence = none) : exec (.fenceTimeout f port) s = .next s := by
  refine done_modFur_self ?_
  dsimp only
  rw [hf]

section
variable {port : PortIx} {since : W64} {peer : FabricId} {flits : List SentFlit}
  (hf : (s.furrow f).pyr.ports[port].fence = some (since, peer, flits))
include hf

theorem execFenceTimeout_waits (hn : elapsed (s.furrow f).ns since < (s.furrow f).pyr.fenceUs.toNat * 1000) :
    exec (.fenceTimeout f port) s = .next s := by
  refine done_modFur_self ?_
  dsimp only
  rw [hf]
  exact if_pos hn

theorem fenceTimeout_ends (hn : (s.furrow f).pyr.fenceUs.toNat * 1000 ≤ elapsed (s.furrow f).ns since) :
    ∃ t, exec (.fenceTimeout f port) s = .next t ∧ s.onlyFurrow f t ∧ t.mems = s.mems ∧ (t.furrow f).pyr.ports[port].fence = none ∧
      (t.furrow f).err.seq = (s.furrow f).err.seq + 1 := by
  let qs := (s.furrow f).pyr.ports[port].heldPackets flits
  let given := ((s.furrow f).modPort port Port.unfence).raise { errRec 0x22 0 qs.length with part := BitVec.ofNat 8 port.val } []
  let answer : Furrow → Packet → Furrow := fun c q => c.route f (noRouteFor q (c.fabricId f) peer)
  have next : exec (.fenceTimeout f port) s = .next (s.setFurrow f ((qs.filter fun q => q.kind ≠ Kind.noRoute).foldl answer given)) := by
    refine done_modFur ?_
    dsimp only
    rw [hf]
    exact if_neg (Nat.not_lt.2 hn)
  refine ⟨_, next, s.onlyFurrow_setFurrow f _, rfl, ?_, ?_⟩
  · rw [State.furrow_setFurrow_same]
    have still := foldl_keeps (fun c : Furrow => c.pyr.ports[port].still) answer (fun c q => c.route_still f _ port)
      (qs.filter fun q => q.kind ≠ Kind.noRoute) given
    have fence := congrArg Port.fence still
    refine fence.trans ?_
    rw [Furrow.raise_pyr, Furrow.modPort_port_same]
    rfl
  · rw [State.furrow_setFurrow_same]
    refine (foldl_keeps (fun c : Furrow => c.err.seq) answer (fun c q =>
      Furrow.route_keeps (view := fun c => c.err.seq) (fun _ _ => rfl) c f _) _ given).trans ?_
    exact (Furrow.raise_seq _ _ [] rfl).1

end

/-! ### Transactions that nothing answers (R371) -/

section
variable (ht : (s.furrow f).takes f Kind.noRoute p = true)
include ht

theorem execNoRoute_loses {x : Outstanding} (hx : ((s.took f p).furrow f).pyr.txs.find? (fun x => x.tag = p.tag) = some x)
    (hk : p.addr.extractLsb' 0 8 = Kind.readReq ∨ p.addr.extractLsb' 0 8 = Kind.write) :
    exec (.noRoute f p) s =
      .next (((Run.took s f p).modFur f fun c => c.closeTx x.tag).requestLoses f x.h x.req (p.aux.extractLsb' 0 16)).now := by
  have named : (if p.addr.extractLsb' 0 8 = 0 ∨ p.addr.extractLsb' 0 8 = Kind.readReq ∨ p.addr.extractLsb' 0 8 = Kind.write then
      ((s.took f p).furrow f).pyr.txs.find? (fun x => x.tag = p.tag) else none) = some x := (if_pos (.inr hk)).trans hx
  show execNoRoute f p s = _
  unfold execNoRoute
  rw [onPacket_takes ht]
  dsimp only
  rw [Run.fur_eq, show (Run.took s f p).now = s.took f p from rfl, named]

theorem execNoRoute_forPart (hk : p.addr.extractLsb' 0 8 = Kind.coll ∨ p.addr.extractLsb' 0 8 = Kind.spanDesc ∨
      p.addr.extractLsb' 0 8 = Kind.spanCancel) (hb : p.tag ≠ boxTag) :
    exec (.noRoute f p) s = .next (match ((s.took f p).furrow f).partOf p.span p.tag with
      | some q => (Run.took s f p).requestLoses f q.h q.tag (p.aux.extractLsb' 0 16)
      | none => Run.took s f p).now := by
  have part : ¬(p.addr.extractLsb' 0 8 = 0 ∨ p.addr.extractLsb' 0 8 = Kind.readReq ∨ p.addr.extractLsb' 0 8 = Kind.write) ∧
      ¬((!(decide (p.addr.extractLsb' 0 8 = 0) || decide (p.addr.extractLsb' 0 8 = Kind.coll) || decide (p.addr.extractLsb' 0 8 = Kind.spanDesc) ||
        decide (p.addr.extractLsb' 0 8 = Kind.spanCancel))) = true) := by
    rcases hk with hk | hk | hk
    · rw [hk]
      decide
    · rw [hk]
      decide
    · rw [hk]
      decide
  show execNoRoute f p s = _
  unfold execNoRoute
  rw [onPacket_takes ht]
  dsimp only
  rw [if_neg part.1]
  dsimp only
  rw [if_neg part.2, if_neg hb]
  rfl

theorem execNoRoute_other (hk : p.addr.extractLsb' 0 8 = Kind.writeAck) : exec (.noRoute f p) s = .next (s.took f p) := by
  show execNoRoute f p s = _
  unfold execNoRoute
  rw [onPacket_takes ht]
  dsimp only
  rw [hk]
  rfl

end

section
variable {tag : W32}

theorem execTransactionTimeout_open {x : Outstanding} (hx : (s.furrow f).pyr.txs.find? (fun x => x.tag = tag) = some x) :
    exec (.transactionTimeout f tag) s = (if decide (16 * (s.furrow f).pyr.fenceUs.toNat * 1000 ≤ elapsed (s.furrow f).ns x.since) then
      ((Run.start s).modFur f fun c => c.closeTx tag).requestLoses f x.h x.req x.dest else Run.start s).done := by
  show execTransactionTimeout f tag s = _
  unfold execTransactionTimeout
  simp only [hx]

/-- The request of a tag whose SPAN_DESC has waited too long for its acknowledgements. -/
def Furrow.unacknowledged (c : Furrow) (tag : W32) : Option Request :=
  c.reqs.find? fun q => q.tag = tag && spanWide q.op && !q.acks.isEmpty &&
    (match q.waitNs with | some t => decide (16 * c.pyr.fenceUs.toNat * 1000 ≤ elapsed c.ns t) | none => false)

theorem execTransactionTimeout_span (hx : (s.furrow f).pyr.txs.find? (fun x => x.tag = tag) = none) :
    exec (.transactionTimeout f tag) s = .next (match (s.furrow f).unacknowledged tag with
      | some q => (Run.start s).each q.acks fun r id => r.requestLoses f q.h tag id
      | none => Run.start s).now := by
  show execTransactionTimeout f tag s = _
  unfold execTransactionTimeout
  dsimp only
  rw [hx]
  rfl

end

end

/-- Settles O46: each command by whether a fence stands, a transaction is open or a part is there. That ADDR bits 7:0 of a NO_ROUTE hold the
kind of the packet (assumption log 21) is the model's choice. -/
theorem failedLinksAndTransactions : Obligations.FailedLinksAndTransactions := by
  refine fun f port p tag s => ⟨fun ht => ⟨execLinkFence_none ht, fun i x => execLinkFence_resends ht⟩, execFenceTimeout_none,
    fun since peer flits hf => ⟨execFenceTimeout_waits hf, fenceTimeout_ends hf⟩, fun ht => ⟨fun x => execNoRoute_loses ht, execNoRoute_other ht,
      fun hk hb => ⟨fun hq => ?_, fun q hq => ?_⟩⟩, fun hx => ⟨fun hw => ?_, fun q hw => ?_⟩, fun x hx => ⟨fun hn => ?_, fun hn => ?_⟩⟩
  · rw [execNoRoute_forPart ht hk hb, hq]
    rfl
  · rw [execNoRoute_forPart ht hk hb, hq]
  · replace hw : (s.furrow f).unacknowledged tag = none := hw
    rw [execTransactionTimeout_span hx, hw]
    rfl
  · replace hw : (s.furrow f).unacknowledged tag = some q := hw
    rw [execTransactionTimeout_span hx, hw]
  · exact (execTransactionTimeout_open hx).trans (congrArg Run.done (if_neg (by rw [decide_eq_true_eq]; exact Nat.not_le.2 hn)))
  · exact (execTransactionTimeout_open hx).trans (congrArg Run.done (if_pos (decide_eq_true hn)))

end Sys2Proof.Machine
end

section
namespace Sys2Proof.Machine

variable {s₀ : State}

/-! ### Bytes stored (R315) -/

/-- The cells of bytes that lie from an offset. -/
def cellsFrom (bs : List Byte) (k : Nat) : List Host.Cell := ((bs.zipIdx k).filter fun p => p.1 != 0).map fun p => (p.2, p.1)

theorem cellsFrom_cons (b : Byte) (bs : List Byte) (k : Nat) :
    cellsFrom (b :: bs) k = if b = 0 then cellsFrom bs (k + 1) else (k, b) :: cellsFrom bs (k + 1) := by
  unfold cellsFrom
  by_cases hb : b = 0
  · subst hb
    rw [if_pos rfl]
    rfl
  · rw [if_neg hb, List.zipIdx_cons, List.filter_cons_of_pos (by simpa using hb)]
    rfl

/-- The cells of bytes are canonical above whatever lies before them. -/
theorem cellsFrom_wfFrom (bs : List Byte) (k : Nat) (lo : Option Nat) (hlo : ∀ l ∈ lo, l < k) : Mem.wfFrom lo (cellsFrom bs k) = true := by
  induction bs generalizing k lo with
  | nil => rfl
  | cons b bs ih =>
    rw [cellsFrom_cons]
    split
    · exact ih (k + 1) lo fun l hl => Nat.lt_succ_of_lt (hlo l hl)
    next hb =>
      have rest := ih (k + 1) (some k) fun l hl => Option.mem_some.1 hl ▸ Nat.lt_succ_self k
      unfold Mem.wfFrom
      rw [rest]
      cases lo with
      | none => simpa using hb
      | some l => simpa using ⟨hlo l rfl, hb⟩

theorem get_cellsFrom (bs : List Byte) (k i : Nat) : Mem.get (cellsFrom bs k) (k + i) = bs.getD i 0 := by
  induction bs generalizing k i with
  | nil => rfl
  | cons b bs ih =>
    rw [cellsFrom_cons]
    cases i with
    | zero =>
      split
      next hb =>
        subst hb
        exact Mem.get_eq_zero_of_wfFrom _ k k (cellsFrom_wfFrom bs (k + 1) (some k) fun l hl => Option.mem_some.1 hl ▸ Nat.lt_succ_self k)
          (Nat.le_refl k)
      next => exact if_pos rfl
    | succ i =>
      have rest := ih (k + 1) i
      rw [Nat.add_assoc, Nat.add_comm 1 i] at rest
      split
      · exact rest
      · exact (if_neg (by omega)).trans rest

theorem bytesToCells_wf (bs : List Byte) : Mem.wf (bytesToCells bs) = true := cellsFrom_wfFrom bs 0 none nofun

theorem get_bytesToCells (bs : List Byte) (i : Nat) : Mem.get (bytesToCells bs) i = bs.getD i 0 := by
  have at_ := get_cellsFrom bs 0 i
  rw [Nat.zero_add] at at_
  exact at_

/-- Bytes written are read back, and the rest of the memory stands. -/
theorem Mem.paste_bytes (m : Mem) (a : Nat) (bs : List Byte) (hm : m.wf = true) :
    (m.paste a bs.length (bytesToCells bs)).read a bs.length = bs ∧
      ∀ b, b < a ∨ a + bs.length ≤ b → (m.paste a bs.length (bytesToCells bs)).get b = m.get b := by
  have get := m.get_paste a bs.length (bytesToCells bs) hm (bytesToCells_wf bs)
  refine ⟨List.ext_getElem (by simp [Mem.read]) fun i hi hb => ?_, fun b hb => ?_⟩
  · simp only [Mem.read, List.getElem_map, List.getElem_range]
    rw [get, if_pos ⟨Nat.le_add_right a i, Nat.add_lt_add_left hb a⟩, Nat.add_sub_cancel_left, get_bytesToCells, List.getD_eq_getElem _ _ hb]
  · rw [get, if_neg]
    omega

/-- A store to a context's HBM region where no segment is attached. -/
theorem Run.store_hbm_mem (r : Run s₀) {f : FurrowIx} {h : Handle} (ha : (r.now.furrow f).detached h) (core off : Nat) (bs : List Byte) :
    (r.store f h core 2 off bs).now.mem (.hbm f) =
        (r.now.mem (.hbm f)).paste ((r.now.furrow f).hbmBase h + off) bs.length (bytesToCells bs) ∧
      ∀ sp : Space, sp ≠ .hbm f → (r.store f h core 2 off bs).now.mem sp = r.now.mem sp := by
  have put : (r.store f h core 2 off bs).now = ((r.now.setMem (.hbm f) ((r.now.mem (.hbm f)).paste ((r.now.furrow f).hbmBase h + off)
      bs.length (bytesToCells bs))).setFurrow f ((r.now.furrow f).mend (.hbm f, (r.now.furrow f).hbmBase h + off, bs.length))) := by
    unfold Run.store Run.storeCells
    rw [if_pos (.inr rfl), Run.dirty_of_detached ha]
    simp only [Run.put, Run.fur_eq, Furrow.pieces, List.foldl_cons, List.foldl_nil, Nat.zero_le, true_and, Nat.zero_add, Nat.sub_zero,
      Prod.mk.eta, List.map_id', Mem.paste_filter, Run.modFur_now, Run.paste_now, State.setMem_furrow]
  rw [put]
  refine ⟨?_, fun sp hsp => ?_⟩
  · rw [State.setFurrow_mem, State.mem_setMem_same]
  · rw [State.setFurrow_mem, State.mem_setMem_other _ _ _ _ hsp]

end Sys2Proof.Machine
end

section
namespace Sys2Proof.Machine

variable {s₀ : State}

/-! ### Packets that a furrow does not take (R385) -/

theorem onPacket_ignores {kind : Byte} {f : FurrowIx} {p : Packet} {s : State} (h : (s.furrow f).takes f kind p = false) (work : Run s → Run s) :
    onPacket kind f p s work = .next s := by
  unfold onPacket
  rw [if_neg (by rw [h]; exact Bool.false_ne_true)]
  rfl

/-- Changes of one furrow, one after another. -/
theorem Run.foldl_modFur {α : Type} (r : Run s₀) (f : FurrowIx) (g : α → Furrow → Furrow) (xs : List α) :
    (xs.foldl (fun r x => r.modFur f (g x)) r).now = r.now.setFurrow f (xs.foldl (fun c x => g x c) (r.now.furrow f)) := by
  induction xs generalizing r with
  | nil => exact (r.now.setFurrow_self f).symm
  | cons x xs ih =>
    rw [List.foldl_cons, List.foldl_cons, ih, Run.modFur_now, State.furrow_setFurrow_same, State.setFurrow_setFurrow]

theorem Furrow.route_pyr_congr {c d : Furrow} (hp : d.pyr = c.pyr) (hn : d.ns = c.ns) (f : FurrowIx) (p : Packet) :
    (d.route f p).pyr = (c.route f p).pyr := by
  have id : d.fabricId f = c.fabricId f := by rw [Furrow.fabricId, Furrow.fabricId, hp]
  have delivered (q : Packet) : (d.deliver q).pyr = (c.deliver q).pyr := by
    unfold Furrow.deliver
    rw [hp]
  have sent (port : PortIx) (q : Packet) : (d.sendOn port q).pyr = (c.sendOn port q).pyr := by
    unfold Furrow.sendOn Furrow.modPort
    simp only [hp, hn]
  unfold Furrow.route
  dsimp only
  rw [id, hp]
  split
  · exact delivered p
  · split
    · exact sent _ p
    · split
      · exact hp
      · split
        · exact delivered _
        · split
          · exact sent _ _
          · exact hp

theorem Furrow.packet_congr {c d : Furrow} (hp : d.pyr = c.pyr) (f : FurrowIx) (kind : Byte) (dest : FabricId) (span tag : W32) :
    d.packet f kind dest span tag = c.packet f kind dest span tag := by
  unfold Furrow.packet Furrow.fabricId
  rw [hp]

section
variable {f : FurrowIx} {p : Packet} {s : State}

/-! ### Reads (R365, R372) -/

/-- A READ_REQ of a size that R372 does not allow reaches nothing. -/
def Furrow.readable (c : Furrow) (p : Packet) : Option Handle :=
  if p.aux.toNat < 64 ∨ 4096 < p.aux.toNat ∨ p.aux.toNat % 64 ≠ 0 then none else c.reaches p p.aux.toNat

theorem Furrow.readable_none {c : Furrow} (h : p.aux.toNat < 64 ∨ 4096 < p.aux.toNat ∨ p.aux.toNat % 64 ≠ 0 ∨ c.reaches p p.aux.toNat = none) :
    c.readable p = none := by
  unfold Furrow.readable
  split
  · rfl
  next size =>
    simp only [not_or] at size
    rcases h with h | h | h | h
    · exact absurd h size.1
    · exact absurd h size.2.1
    · exact absurd h size.2.2
    · exact h

theorem Furrow.readable_some {c : Furrow} {h : Handle} (h64 : 64 ≤ p.aux.toNat) (h4096 : p.aux.toNat ≤ 4096) (hm : p.aux.toNat % 64 = 0)
    (hr : c.reaches p p.aux.toNat = some h) : c.readable p = some h := by
  refine (if_neg ?_).trans hr
  rintro (small | large | odd)
  · exact Nat.not_lt.2 h64 small
  · exact Nat.not_lt.2 h4096 large
  · exact odd hm

/-- The answer to a read that meets uncorrectable data: an error record, and a response without a payload. -/
def Furrow.readFailed (c : Furrow) (f : FurrowIx) (p : Packet) (h : Handle) (bad : Space × Nat × Nat) : Furrow :=
  let rec_ := match c.badIn bad with | some (b, a) => ueRecord b a h 0xFFFFFFFF 0 | none => errRec 0x04 2 0
  (c.raise rec_ []).route f
    { c.readResp f p with addr := BitVec.ofNat 64 (bit (!c.err.handling.isEmpty)), aux := c.err.seq.extractLsb' 0 32 }

theorem ueRecord_corrected (b : BadWord) (a : Nat) (h : Handle) (tag : Tag) (op : Nat) : (ueRecord b a h tag op).corrected = false := by
  unfold ueRecord
  dsimp only
  split <;> rfl

theorem Furrow.readFailed_seq (c : Furrow) (f : FurrowIx) (p : Packet) (h : Handle) (bad : Space × Nat × Nat) :
    (c.readFailed f p h bad).err.seq = c.err.seq + 1 := by
  refine (Furrow.route_keeps (view := fun c => c.err.seq) (fun _ _ => rfl) _ f _).trans (Furrow.raise_seq _ _ [] ?_).1
  split
  · exact ueRecord_corrected _ _ h _ _
  · rfl

/-- One piece of the answer to a read. -/
def Furrow.sendPiece (c : Furrow) (f : FurrowIx) (p : Packet) (x : Nat × List Byte) : Furrow :=
  c.route f { c.readResp f p with addr := p.addr + BitVec.ofNat 64 x.1, payload := x.2 }

section
variable (ht : (s.furrow f).takes f Kind.readReq p = true)
include ht

theorem execReadReq_denied (hr : ((s.took f p).furrow f).readable p = none) :
    exec (.readReq f p) s = .next ((s.took f p).setFurrow f (((s.took f p).furrow f).denies f p)) := by
  unfold Furrow.readable at hr
  show execReadReq f p s = _
  unfold execReadReq
  rw [onPacket_takes ht]
  dsimp only
  rw [Run.fur_eq, show (Run.took s f p).now = s.took f p from rfl, hr]
  rfl

section
variable {h : Handle} (hr : ((s.took f p).furrow f).readable p = some h)
include hr

theorem execReadReq_answers (hm : ((s.took f p).furrow f).meets f h 0 2 p.addr.toNat p.aux.toNat = none) :
    exec (.readReq f p) s = .next ((s.took f p).setFurrow f
      ((inPieces 1024 ((Run.took s f p).load f h 0 2 p.addr.toNat p.aux.toNat)).foldl
        (fun c x => c.sendPiece f p x) ((s.took f p).furrow f))) := by
  unfold Furrow.readable at hr
  show execReadReq f p s = _
  unfold execReadReq
  rw [onPacket_takes ht]
  dsimp only
  rw [Run.fur_eq, show (Run.took s f p).now = s.took f p from rfl, hr]
  dsimp only
  rw [hm]
  dsimp only
  unfold State.took
  generalize inPieces 1024 ((Run.took s f p).load f h 0 2 p.addr.toNat p.aux.toNat) = xs
  generalize Run.took s f p = r
  exact congrArg Host.Outcome.next (r.foldl_modFur f (fun x c => c.sendPiece f p x) xs)

theorem execReadReq_fails {bad : Space × Nat × Nat} (hm : ((s.took f p).furrow f).meets f h 0 2 p.addr.toNat p.aux.toNat = some bad) :
    exec (.readReq f p) s = .next ((s.took f p).setFurrow f (((s.took f p).furrow f).readFailed f p h bad)) := by
  unfold Furrow.readable at hr
  show execReadReq f p s = _
  unfold execReadReq
  rw [onPacket_takes ht]
  dsimp only
  rw [Run.fur_eq, show (Run.took s f p).now = s.took f p from rfl, hr]
  dsimp only
  rw [hm]
  rfl

theorem readReq_fails (hm : ((s.took f p).furrow f).meets f h 0 2 p.addr.toNat p.aux.toNat ≠ none) :
    ∃ t, exec (.readReq f p) s = .next t ∧ s.onlyFurrow f t ∧ t.mems = s.mems ∧ (t.furrow f).err.seq = (s.furrow f).err.seq + 1 := by
  obtain ⟨bad, hm⟩ := Option.ne_none_iff_exists'.1 hm
  refine ⟨_, execReadReq_fails ht hr hm, State.onlyFurrow_trans (s.onlyFurrow_setFurrow f _) (State.onlyFurrow_setFurrow _ f _), rfl, ?_⟩
  rw [State.furrow_setFurrow_same, Furrow.readFailed_seq, State.took, Run.took, Run.modFur_now, State.furrow_setFurrow_same]
  rfl

end

end

section
variable (ht : (s.furrow f).takes f Kind.readResp p = true)
include ht

theorem execReadResp_stray (hx : ((s.took f p).furrow f).answered Kind.readReq p = none) : exec (.readResp f p) s = .next (s.took f p) := by
  show execReadResp f p s = _
  unfold execReadResp
  rw [onPacket_takes ht]
  dsimp only
  rw [Run.fur_eq, show (Run.took s f p).now = s.took f p from rfl, hx]
  rfl

/-- What of an open read has come with a response. -/
def Outstanding.gotWith (x : Outstanding) (p : Packet) : List Host.Cell :=
  x.got ++ (bytesToCells p.payload).map fun b => (p.addr.toNat - x.raddr + b.1, b.2)

theorem execReadResp_data {x : Outstanding} (hx : ((s.took f p).furrow f).answered Kind.readReq p = some x) (hp : p.payload ≠ []) :
    exec (.readResp f p) s = .next (if x.left - p.payload.length ≠ 0 then (Run.took s f p).modFur f fun c => c.modPyr fun y =>
        { y with txs := y.txs.map fun z => if z.tag = x.tag then { z with got := x.gotWith p, left := x.left - p.payload.length } else z }
      else (((Run.took s f p).modFur f fun c => c.closeTx x.tag).arrive f x.h x.req x.dst x.len (x.gotWith p)).modFur f fun c =>
        c.advance x.h x.req).now := by
  have data : ¬(p.payload.isEmpty = true) := fun h => hp (List.isEmpty_iff.1 h)
  show execReadResp f p s = _
  unfold execReadResp
  rw [onPacket_takes ht]
  dsimp only
  rw [Run.fur_eq, show (Run.took s f p).now = s.took f p from rfl, hx]
  dsimp only
  rw [if_neg data]
  rfl

end

/-! ### Writes (R315, R372) -/

section
variable (ht : (s.furrow f).takes f Kind.writeAck p = true)
include ht

theorem execWriteAck_given_up (hx : ((s.took f p).furrow f).answered Kind.write p = none) :
    exec (.writeAck f p) s = .next ((s.took f p).setFurrow f (((s.took f p).furrow f).closeTx p.tag)) := by
  refine onPacket_modFur ht ?_
  rw [hx]

theorem execWriteAck_closes {x : Outstanding} (hx : ((s.took f p).furrow f).answered Kind.write p = some x) :
    exec (.writeAck f p) s = .next ((s.took f p).setFurrow f ((((s.took f p).furrow f).closeTx x.tag).advance x.h x.req)) := by
  refine onPacket_modFur ht ?_
  rw [hx]

end

section
variable (ht : (s.furrow f).takes f Kind.write p = true)
include ht

theorem execWrite_denied (hr : ((s.took f p).furrow f).reaches p p.payload.length = none) :
    exec (.write f p) s = .next ((s.took f p).setFurrow f (((s.took f p).furrow f).denies f p)) := by
  show execWrite f p s = _
  unfold execWrite
  rw [onPacket_takes ht]
  dsimp only
  rw [Run.fur_eq, show (Run.took s f p).now = s.took f p from rfl, hr]
  rfl

/-- A furrow that a write has reached: moves that wait for it go on, and the acknowledgement goes out. -/
def Furrow.written (c : Furrow) (f : FurrowIx) (p : Packet) (h : Handle) : Furrow :=
  let waits := (c.outstanding h).filter fun q => q.landsIn p.addr.toNat p.payload.length && decide (p.payload.length ≤ q.owed)
  let c := waits.foldl (fun (c : Furrow) q => (c.modReq h q.tag fun q => { q with owed := q.owed - p.payload.length }).advance h q.tag) c
  c.route f (c.packet f Kind.writeAck p.src p.span p.tag)

omit ht in
theorem Furrow.written_of_none {c : Furrow} {h : Handle} (ho : c.outstanding h = []) :
    c.written f p h = c.route f (c.packet f Kind.writeAck p.src p.span p.tag) := by
  unfold Furrow.written
  rw [ho]
  rfl

theorem execWrite_stores {h : Handle} (hr : ((s.took f p).furrow f).reaches p p.payload.length = some h) :
    exec (.write f p) s = .next (((Run.took s f p).store f h 0 2 p.addr.toNat p.payload).modFur f fun c => c.written f p h).now := by
  show execWrite f p s = _
  unfold execWrite
  rw [onPacket_takes ht]
  dsimp only
  rw [Run.fur_eq, show (Run.took s f p).now = s.took f p from rfl, hr]
  rfl

theorem write_lands {h : Handle} (hr : ((s.took f p).furrow f).reaches p p.payload.length = some h) (hs : s.canonical)
    (ha : (((s.took f p).furrow f).attached.filter fun a => a.h = h) = []) :
    let a := ((s.took f p).furrow f).hbmBase h + p.addr.toNat
    ∃ t, exec (.write f p) s = .next t ∧ s.onlyFurrow f t ∧ (t.mem (.hbm f)).read a p.payload.length = p.payload ∧
      (∀ b, b < a ∨ a + p.payload.length ≤ b → (t.mem (.hbm f)).get b = (s.mem (.hbm f)).get b) ∧
      (∀ sp : Space, sp ≠ .hbm f → t.mem sp = s.mem sp) ∧
      (((s.took f p).furrow f).outstanding h = [] → (t.furrow f).pyr =
        (((s.took f p).furrow f).route f (((s.took f p).furrow f).packet f Kind.writeAck p.src p.span p.tag)).pyr) := by
  have detached : ((s.took f p).furrow f).detached h := fun x hx own => by
    have kept := List.filter_eq_nil_iff.1 ha x hx
    simp [own] at kept
  have same (sp : Space) : (Run.took s f p).now.mem sp = s.mem sp := State.setFurrow_mem _ _ _ _
  obtain ⟨hbm, others⟩ := (Run.took s f p).store_hbm_mem detached 0 p.addr.toNat p.payload
  have worked := (Run.took s f p).store_workedOver f h 0 2 p.addr.toNat p.payload
  rw [same] at hbm
  obtain ⟨reads, rest⟩ := Mem.paste_bytes (s.mem (.hbm f)) (((s.took f p).furrow f).hbmBase h + p.addr.toNat) p.payload (hs _)
  have next := execWrite_stores ht hr
  generalize (Run.took s f p).store f h 0 2 p.addr.toNat p.payload = r at hbm others worked next
  refine ⟨_, next, State.onlyFurrow_trans (s.onlyFurrow_setFurrow f _) (State.onlyFurrow_trans worked.1 (State.onlyFurrow_setFurrow _ f _)),
    ?_, fun b hb => ?_, fun sp hsp => ?_, fun ho => ?_⟩
  · rw [Run.modFur_now, State.setFurrow_mem, hbm]
    exact reads
  · rw [Run.modFur_now, State.setFurrow_mem, hbm]
    exact rest b hb
  · rw [Run.modFur_now, State.setFurrow_mem, others sp hsp, same]
  · rw [Run.modFur_now, State.furrow_setFurrow_same]
    have none : (r.now.furrow f).outstanding h = [] := by
      rw [Furrow.eq_of_besideWork worked.2]
      exact ho
    have pyr : (r.now.furrow f).pyr = ((s.took f p).furrow f).pyr := (congrArg Furrow.pyr worked.2 :)
    have ns : (r.now.furrow f).ns = ((s.took f p).furrow f).ns := (congrArg Furrow.ns worked.2 :)
    rw [Furrow.written_of_none none, Furrow.packet_congr pyr]
    exact Furrow.route_pyr_congr pyr ns f _

end

/-! ### Contributions (R381) -/

section
variable (ht : (s.furrow f).takes f Kind.coll p = true)
include ht

theorem execColl_denied (hb : ((s.took f p).furrow f).boundTo p.span = none) :
    exec (.coll f p) s = .next ((s.took f p).setFurrow f (((s.took f p).furrow f).denies f p)) := by
  refine onPacket_modFur ht ?_
  dsimp only
  rw [hb]

section
variable {h : Handle} (hb : ((s.took f p).furrow f).boundTo p.span = some h)
include hb

theorem execColl_boxed (hx : p.tag = boxTag) :
    exec (.coll f p) s = .next ((s.took f p).setFurrow f (((s.took f p).furrow f).intoBox ((((s.took f p).furrow f).parentOf p.span).getD h) p
      (decide (4112 ≤ p.addr.toNat % 2 ^ 13 ∧ p.addr.toNat % 2 ^ 13 < 4128)))) := by
  refine onPacket_modFur ht ?_
  dsimp only
  rw [hb]
  exact if_pos hx

theorem execColl_over (hx : p.tag ≠ boxTag) (hq : ((s.took f p).furrow f).partOf p.span p.tag = none) :
    exec (.coll f p) s = .next (s.took f p) := by
  refine onPacket_modFur_self ht ?_
  dsimp only
  rw [hb, hq]
  exact if_neg hx

theorem execColl_kept {q : Request} (hx : p.tag ≠ boxTag) (hq : ((s.took f p).furrow f).partOf p.span p.tag = some q) :
    exec (.coll f p) s = .next ((s.took f p).setFurrow f (((s.took f p).furrow f).modReq q.h q.tag fun q =>
      { q with contrib := q.contrib ++ [p] })) := by
  refine onPacket_modFur ht ?_
  dsimp only
  rw [hb, hq]
  exact if_neg hx

end

end

end

/-- A command whose packet the furrow does not take does nothing. -/
theorem execPacket_ignored {f : FurrowIx} {p : Packet} {s : State} {c : Instr} {k : Byte}
    (hc : (c, k) ∈ ([(.readReq f p, Kind.readReq), (.readResp f p, Kind.readResp), (.write f p, Kind.write),
      (.writeAck f p, Kind.writeAck), (.coll f p, Kind.coll), (.spanDesc f p, Kind.spanDesc), (.spanAck f p, Kind.spanAck),
      (.spanDone f p, Kind.spanDone), (.spanCancel f p, Kind.spanCancel), (.spanBeat f p, Kind.spanBeat), (.linkFence f p, Kind.linkFence),
      (.noRoute f p, Kind.noRoute), (.spanJoin f p, Kind.spanJoin), (.spanEnd f p, Kind.spanJoin), (.spanJoinReply f p, Kind.spanJoin)] :
      List (Instr × Byte))) (ht : (s.furrow f).takes f k p = false) : exec c s = .next s := by
  have packet : ∃ work, exec c s = onPacket k f p s work := by
    simp only [List.mem_cons, Prod.mk.injEq, List.not_mem_nil, or_false] at hc
    unfold exec
    rcases hc with ⟨rfl, rfl⟩ | ⟨rfl, rfl⟩ | ⟨rfl, rfl⟩ | ⟨rfl, rfl⟩ | ⟨rfl, rfl⟩ | ⟨rfl, rfl⟩ | ⟨rfl, rfl⟩ | ⟨rfl, rfl⟩ | ⟨rfl, rfl⟩ |
      ⟨rfl, rfl⟩ | ⟨rfl, rfl⟩ | ⟨rfl, rfl⟩ | ⟨rfl, rfl⟩ | ⟨rfl, rfl⟩ | ⟨rfl, rfl⟩ <;> exact ⟨_, rfl⟩
  obtain ⟨work, packet⟩ := packet
  exact packet.trans (onPacket_ignores ht work)

/-- Settles O43: each command by what its packet names here. That a read of uncorrectable data is answered without a payload, and
an access outside a region by NO_ROUTE (assumption log 57), how a contribution names its place (log 35), and that what belongs to no request
goes to a mailbox (log 52), are the model's choice. -/
theorem fabricReadsAndWrites : Obligations.FabricReadsAndWrites := by
  constructor
  · refine fun f p s => ⟨fun c k hc => execPacket_ignored hc, fun ht => ⟨fun h => execReadReq_denied ht (Furrow.readable_none h),
      fun h h64 h4096 hm hr => execReadReq_answers ht (Furrow.readable_some h64 h4096 hm hr)⟩,
      fun ht h h64 h4096 hm hr => readReq_fails ht (Furrow.readable_some h64 h4096 hm hr),
      fun ht => ⟨execReadResp_stray ht, fun x hx hp => ⟨fun hl => ?_, fun hl => ?_⟩⟩,
      fun ht => ⟨execWriteAck_given_up ht, fun x => execWriteAck_closes ht⟩⟩
    · rw [execReadResp_data ht hx hp, if_pos (by omega)]
      rfl
    · rw [execReadResp_data ht hx hp, if_neg (by omega)]
      rfl
  · exact fun f p s => ⟨fun ht => ⟨execWrite_denied ht, fun h => write_lands ht⟩,
      fun ht => ⟨execColl_denied ht, fun h hb => ⟨execColl_boxed ht hb, execColl_over ht hb, fun q => execColl_kept ht hb⟩⟩⟩

end Sys2Proof.Machine
end
